-- ==== Sys2Proof/Word.lean ====
section
/-! DEFINITION. Word types of the machine (spec/00 R3, R4) and the sparse table every repeated part of the state is
held in. Only plain arithmetic stands here. -/

namespace Sys2Proof

/-- One byte (R4). -/
abbrev Byte := BitVec 8
/-- A lane register, an instruction word (R139, R149). -/
abbrev W32 := BitVec 32
/-- A uniform register, an address, a program counter (R21, R149). -/
abbrev W64 := BitVec 64
/-- A pointer slot, an FX128 value (R98, R126). -/
abbrev W128 := BitVec 128
/-- A record, a mailbox entry, a spawn header (R46, R56, R334). -/
abbrev W512 := BitVec 512

/-- A sparse table by number. A number that is not listed holds the table's default, which each reader names. -/
abbrev Map (α : Type) := List (Nat × α)

end Sys2Proof
end

