-- ==== Sys2Proof/Machine/Numbers.lean ====
section
/-! DEFINITION. Number formats and arithmetic (spec/06): exact values, the one rounding of each operation, conversions, the special
functions, and the chunk sum of the matrix engine. A value is held exactly as sign, magnitude and power of two. -/

namespace Sys2Proof.Machine

/-- A floating-point format (R120): exponent bits, fraction bits, bias, whether it has infinities. -/
structure Fmt where
  e : Nat
  m : Nat
  bias : Nat
  hasInf : Bool
  deriving DecidableEq, Repr

def fp32 : Fmt := ⟨8, 23, 127, true⟩
def bf16 : Fmt := ⟨8, 7, 127, true⟩
def fp16 : Fmt := ⟨5, 10, 15, true⟩
def e4m3 : Fmt := ⟨4, 3, 7, false⟩
def e5m2 : Fmt := ⟨5, 2, 15, true⟩

/-- A value: a NaN with sign and fraction, an infinity, or (−1)^s × m × 2^e exactly (R121, R122). -/
inductive FV where
  | nan (s : Bool) (f : Nat)
  | inf (s : Bool)
  | fin (s : Bool) (m : Nat) (e : Int)
  deriving DecidableEq, Repr

/-- Largest finite code, sign apart (R120). -/
def Fmt.maxCode (F : Fmt) : Nat := if F.hasInf then (2 ^ F.e - 1) * 2 ^ F.m - 1 else 2 ^ (F.e + F.m) - 2
/-- Code of infinity, sign apart. -/
def Fmt.infCode (F : Fmt) : Nat := (2 ^ F.e - 1) * 2 ^ F.m
/-- Canonical NaN with a sign (R122). -/
def Fmt.canon (F : Fmt) : Nat := if F.hasInf then F.infCode + 2 ^ (F.m - 1) else 2 ^ (F.e + F.m) - 1
def Fmt.sign (F : Fmt) (s : Bool) : Nat := if s then 2 ^ (F.e + F.m) else 0

/-- The value of a code (R120, R121). -/
def unpackF (F : Fmt) (x : Nat) : FV :=
  let f := x % 2 ^ F.m
  let ex := x / 2 ^ F.m % 2 ^ F.e
  let s := x / 2 ^ (F.e + F.m) % 2 = 1
  if ex = 2 ^ F.e - 1 ∧ F.hasInf then (if f = 0 then .inf s else .nan s f)
  else if ex = 2 ^ F.e - 1 ∧ f = 2 ^ F.m - 1 then .nan s f
  else if ex = 0 then .fin s f (1 - (F.bias : Int) - F.m)
  else .fin s (2 ^ F.m + f) ((ex : Int) - F.bias - F.m)

/-! ## Rounding -/

/-- Whether a magnitude n + r/2^k (with something more where `sticky`) rounds up (R128): modes 0 RNE, 1 RZ, 2 RD, 3 RU. -/
def roundsUp (mode : BitVec 2) (s : Bool) (n r half : Nat) (sticky : Bool) : Bool :=
  match mode with
  | 0 => r > half || (r = half && (sticky || n % 2 = 1))
  | 1 => false
  | 2 => s && (r ≠ 0 || sticky)
  | _ => !s && (r ≠ 0 || sticky)

/-- m × 2^e, and something below one unit more where `sticky`, as a whole number of units 2^q, rounded. -/
def roundTo (mode : BitVec 2) (s : Bool) (m : Nat) (e q : Int) (sticky : Bool) : Nat :=
  if q ≤ e then m * 2 ^ (e - q).toNat
  else
    let k := (q - e).toNat
    let n := m / 2 ^ k
    if roundsUp mode s n (m % 2 ^ k) (2 ^ (k - 1)) sticky then n + 1 else n

/-- Exponent of the unit in the last place at a magnitude m × 2^e, m ≠ 0: the spacing of target values, subnormals included. -/
def ulpExp (F : Fmt) (m : Nat) (e : Int) : Int := max (e + Nat.log2 m - F.m) (1 - (F.bias : Int) - F.m)

/-- A magnitude rounded, as the code it has were the exponent unbounded above; more than `maxCode` is an overflow. -/
def roundCode (F : Fmt) (mode : BitVec 2) (s : Bool) (m : Nat) (e : Int) (sticky : Bool) : Nat :=
  let q := ulpExp F m e
  ((q + F.m + F.bias - 1).toNat) * 2 ^ F.m + roundTo mode s m e q sticky

/-- R130: the code of an overflow. -/
def overflowCode (F : Fmt) (mode : BitVec 2) (s : Bool) : Nat :=
  match mode with
  | 0 => F.infCode
  | 1 => F.maxCode
  | 2 => if s then F.infCode else F.maxCode
  | _ => if s then F.maxCode else F.infCode

/-- An exact non-zero result rounded into FP32, BF16 or FP16 (R129, R130). -/
def roundF (F : Fmt) (mode : BitVec 2) (s : Bool) (m : Nat) (e : Int) (sticky : Bool) : Nat :=
  let c := roundCode F mode s m e sticky
  F.sign s + (if c > F.maxCode then overflowCode F mode s else c)

/-- The same with an exact zero kept as it is signed. -/
def roundZ (F : Fmt) (mode : BitVec 2) (s : Bool) (m : Nat) (e : Int) : Nat :=
  if m = 0 then F.sign s else roundF F mode s m e false

/-- A NaN as a result: quiet bit set, sign and payload kept (R123). -/
def quietF (F : Fmt) (s : Bool) (f : Nat) : Nat := F.sign s + F.infCode + (f ||| 2 ^ (F.m - 1))

/-! ## Addition, multiplication, fused multiply-add -/

/-- Signed magnitude as an integer number of 2^e units, e at most each exponent. -/
def scaled (s : Bool) (m : Nat) (e e0 : Int) : Int :=
  let v : Int := (m * 2 ^ (e - e0).toNat : Nat)
  if s then -v else v

/-- Sum of two values that are no NaN, rounded once (R129). -/
def addV (F : Fmt) (mode : BitVec 2) : FV → FV → Nat
  | .inf s, .inf t => if s = t then F.sign s + F.infCode else F.canon
  | .inf s, _ => F.sign s + F.infCode
  | _, .inf t => F.sign t + F.infCode
  | .fin s m e, .fin t n g =>
    if m = 0 ∧ n = 0 then F.sign (if s = t then s else mode = 2)
    else
      let e0 := min e g
      let v := scaled s m e e0 + scaled t n g e0
      if v = 0 then F.sign (mode = 2) else roundF F mode (v < 0) v.natAbs e0 false
  | _, _ => F.canon

/-- Exact product of two values, none a NaN; none for 0 × ∞ (R123). -/
def mulV : FV → FV → Option FV
  | .fin s m e, .fin t n g => some (.fin (s != t) (m * n) (e + g))
  | .inf s, .inf t => some (.inf (s != t))
  | .inf s, .fin t n _ => if n = 0 then none else some (.inf (s != t))
  | .fin s m _, .inf t => if m = 0 then none else some (.inf (s != t))
  | _, _ => none

def negV : FV → FV
  | .nan s f => .nan (!s) f
  | .inf s => .inf (!s)
  | .fin s m e => .fin (!s) m e

/-- The first NaN of a list of operands, quieted (R123). -/
def firstNan (F : Fmt) : List FV → Option Nat
  | [] => none
  | .nan s f :: _ => some (quietF F s f)
  | _ :: l => firstNan F l

/-- R180. -/
def addF (F : Fmt) (mode : BitVec 2) (a b : Nat) : Nat :=
  let x := unpackF F a
  let y := unpackF F b
  (firstNan F [x, y]).getD (addV F mode x y)
def subF (F : Fmt) (mode : BitVec 2) (a b : Nat) : Nat :=
  let x := unpackF F a
  let y := unpackF F b
  (firstNan F [x, y]).getD (addV F mode x (negV y))
/-- A value with no NaN rounded into a format. -/
def valF (F : Fmt) (mode : BitVec 2) : FV → Nat
  | .fin s m e => roundZ F mode s m e
  | .inf s => F.sign s + F.infCode
  | .nan s f => quietF F s f
def mulF (F : Fmt) (mode : BitVec 2) (a b : Nat) : Nat :=
  let x := unpackF F a
  let y := unpackF F b
  (firstNan F [x, y]).getD (match mulV x y with
    | some p => valF F mode p
    | none => F.canon)
def fmaF (F : Fmt) (mode : BitVec 2) (a b c : Nat) : Nat :=
  let x := unpackF F a
  let y := unpackF F b
  let z := unpackF F c
  (firstNan F [x, y, z]).getD (match mulV x y with
    | some p => addV F mode p z
    | none => F.canon)

/-! ## Comparison and minimum -/

/-- a < b by value, no NaN (R182). -/
def ltV : FV → FV → Bool
  | .inf s, .inf t => s && !t
  | .inf s, _ => s
  | _, .inf t => !t
  | .fin s m e, .fin t n g =>
    let e0 := min e g
    scaled s m e e0 < scaled t n g e0
  | _, _ => false
def eqV (a b : FV) : Bool := !ltV a b && !ltV b a
def isNan : FV → Bool
  | .nan .. => true
  | _ => false
def signV : FV → Bool
  | .nan s _ => s
  | .inf s => s
  | .fin s _ _ => s
/-- R181. -/
def minF (F : Fmt) (hi : Bool) (a b : Nat) : Nat :=
  let x := unpackF F a
  let y := unpackF F b
  match x, y with
  | .nan s f, .nan _ _ => quietF F s f
  | .nan _ _, _ => b
  | _, .nan _ _ => a
  | _, _ =>
    let lt := fun (p q : FV) => ltV p q || (eqV p q && signV p && !signV q)
    if hi then (if lt x y then b else a) else (if lt y x then b else a)

/-! ## Conversions (R132, R133) -/

/-- A NaN carried into a format whose fraction is m' bits, from one of m bits; the 8-bit formats are those without payload. -/
def nanTo (F : Fmt) (srcM : Nat) (s : Bool) (f : Nat) : Nat :=
  if F.m < 7 then F.sign s + F.canon
  else if srcM < 7 then F.sign s + F.canon
  else F.sign s + F.infCode + ((if srcM ≤ F.m then f * 2 ^ (F.m - srcM) else f / 2 ^ (srcM - F.m)) ||| 2 ^ (F.m - 1))

/-- Overflow of a conversion: E4M3 and E5M2 saturate in every mode, the others follow R130. -/
def cvtOver (F : Fmt) (mode : BitVec 2) (s : Bool) : Nat := if F.m < 7 then F.maxCode else overflowCode F mode s
/-- Infinity in a target: E4M3 has none. -/
def cvtInf (F : Fmt) (s : Bool) : Nat := F.sign s + (if F.hasInf then F.infCode else F.maxCode)
/-- A value converted under the mode. -/
def cvtV (F : Fmt) (mode : BitVec 2) (srcM : Nat) : FV → Nat
  | .nan s f => nanTo F srcM s f
  | .inf s => cvtInf F s
  | .fin s m e =>
    if m = 0 then F.sign s
    else
      let c := roundCode F mode s m e false
      F.sign s + (if c > F.maxCode then cvtOver F mode s else c)

/-- The stochastic conversion (R133); an overflow is ±∞ in FP16 and BF16 (R185). -/
def cvtSr (F : Fmt) (rand : Nat) (srcM : Nat) : FV → Nat
  | .nan s f => nanTo F srcM s f
  | .inf s => cvtInf F s
  | .fin s m e =>
    if m = 0 then F.sign s
    else
      let q := ulpExp F m e
      let n := if q ≤ e then m * 2 ^ (e - q).toNat else m / 2 ^ (q - e).toNat
      let fbits := if q ≤ e then 0 else m % 2 ^ (q - e).toNat * 2 ^ 32 / 2 ^ (q - e).toNat
      let c := ((q + F.m + F.bias - 1).toNat) * 2 ^ F.m + (if fbits + rand ≥ 2 ^ 32 then n + 1 else n)
      F.sign s + (if c > F.maxCode then (if F.m < 7 then F.maxCode else F.infCode) else c)

/-- Rounded to a whole number of units 2^q, with sign. -/
def toUnits (mode : BitVec 2) (s : Bool) (m : Nat) (e q : Int) : Int :=
  let n : Int := roundTo mode s m e q false
  if s then -n else n
def clampI (lo hi v : Int) : Int := if v < lo then lo else if hi < v then hi else v
/-- Float to an integer target, clamped to lo and hi; NaN gives 0. The exponent is cut where the result is beyond any range. -/
def cvtInt (mode : BitVec 2) (lo hi q : Int) : FV → Int
  | .nan _ _ => 0
  | .inf s => if s then lo else hi
  | .fin s m e => clampI lo hi (toUnits mode s m e q)

/-- An integer times 2^e as a value; 0 is +0. -/
def ofInt (v e : Int) : FV := .fin (v < 0) v.natAbs e

/-- Conversion to an HS4 code (R125). -/
def cvtHs4 (mode : BitVec 2) : FV → Nat
  | .nan _ _ => 0
  | .inf s => if s then 8 else 7
  | .fin s m e =>
    let e0 := min e (-1)
    let v := scaled s m e e0 - (2 ^ (-1 - e0).toNat : Nat)
    ((clampI (-8) 7 (toUnits mode (v < 0) v.natAbs e0 0)) % 16).toNat
/-- Value of an HS4 code: n + 1/2 (R124). -/
def hs4 (n : Nat) : FV := ofInt (2 * (if n % 16 < 8 then (n % 16 : Int) else (n % 16 : Int) - 16) + 1) (-1)

/-! ## Special functions (R184): enclosures in fixed point of 320 bits

A result that is no exact case is irrational. It is computed as a whole number of units 2^-256 below it, by series whose error is under 2^-290 of a
unit, and rounded as that number and something more. No FP32 argument has a result that near a rounding boundary (log 18). -/

def fxP : Nat := 320
/-- ln 2 and π in units 2^-320. -/
def ln2Fx : Nat := 0xb17217f7d1cf79abc9e3b39803f2f6af40f343267298b62d8a0d175b8baafa2be7b876206debac98
def piFx : Nat := 0x3243f6a8885a308d313198a2e03707344a4093822299f31d0082efa98ec4e6c89452821e638d01377

/-- floor of the square root, by bits. -/
def isqrtGo (n : Nat) : Nat → Nat → Nat
  | 0, r => r
  | k + 1, r => if (r + 2 ^ k) * (r + 2 ^ k) ≤ n then isqrtGo n k (r + 2 ^ k) else isqrtGo n k r
def isqrt (n : Nat) : Nat := isqrtGo n (Nat.log2 n / 2 + 1) 0

/-- Σ x^i / i! from term t at index i, x in units 2^-320. -/
def expSeries (x : Nat) : Nat → Nat → Nat → Nat
  | 0, _, _ => 0
  | n + 1, i, t => t + expSeries x n (i + 1) (t * x / 2 ^ fxP / (i + 1))
/-- e^x for 0 ≤ x ≤ ln 2. -/
def expFx (x : Nat) : Nat := expSeries x 90 0 (2 ^ fxP)
/-- Alternating series of sine (from i = 1) or cosine (from i = 0). -/
def trigSeries (x : Nat) : Nat → Nat → Int → Int
  | 0, _, _ => 0
  | n + 1, i, t => t + trigSeries x n (i + 2) (-(t * x / 2 ^ fxP) * x / 2 ^ fxP / ((i + 1) * (i + 2) : Nat))
def sinFx (x : Nat) : Nat := (trigSeries x 60 1 x).toNat
def cosFx (x : Nat) : Nat := (trigSeries x 60 0 (2 ^ fxP : Nat)).toNat
/-- Σ z^(2i+1) / (2i+1). -/
def atanhSeries (z2 : Nat) : Nat → Nat → Nat → Nat
  | 0, _, _ => 0
  | n + 1, i, t => t / (2 * i + 1) + atanhSeries z2 n (i + 1) (t * z2 / 2 ^ fxP)
/-- ln x for 1 ≤ x < 2, x in units 2^-320. -/
def lnFx (x : Nat) : Nat :=
  let z := (x - 2 ^ fxP) * 2 ^ fxP / (x + 2 ^ fxP)
  2 * atanhSeries (z * z / 2 ^ fxP) 120 0 z

/-- An irrational result given in units 2^-320, rounded. -/
def roundFx (mode : BitVec 2) (s : Bool) (v : Nat) (e : Int) : Nat := roundF fp32 mode s (v / 2 ^ 64) (e - 256) true

/-- 1 / a. -/
def rcpF (mode : BitVec 2) : FV → Nat
  | .nan s f => quietF fp32 s f
  | .inf s => fp32.sign s
  | .fin s m e =>
    if m = 0 then fp32.sign s + fp32.infCode
    else roundF fp32 mode s (2 ^ 100 / m) (-100 - e) (2 ^ 100 % m ≠ 0)

/-- √(m × 2^e) rounded, e made even. -/
def sqrtPos (mode : BitVec 2) (m : Nat) (e : Int) : Nat :=
  let m := if e % 2 = 0 then m else 2 * m
  let e := if e % 2 = 0 then e else e - 1
  let n := m * 2 ^ 80
  let r := isqrt n
  roundF fp32 mode false r (e / 2 - 40) (r * r ≠ n)
def sqrtF (mode : BitVec 2) : FV → Nat
  | .nan s f => quietF fp32 s f
  | .inf s => if s then fp32.canon else fp32.infCode
  | .fin s m e => if m = 0 then fp32.sign s else if s then fp32.canon else sqrtPos mode m e

/-- 1 / √(m × 2^e) = √(2^K / m) × 2^(-(e + K) / 2), e made even. -/
def rsqF (mode : BitVec 2) : FV → Nat
  | .nan s f => quietF fp32 s f
  | .inf s => if s then fp32.canon else 0
  | .fin s m e =>
    if m = 0 then fp32.sign s + fp32.infCode
    else if s then fp32.canon
    else
      let m := if e % 2 = 0 then m else 2 * m
      let e := if e % 2 = 0 then e else e - 1
      let r := isqrt (2 ^ 160 / m)
      roundF fp32 mode false r (-(e / 2) - 80) (r * r * m ≠ 2 ^ 160)

/-- A finite value in units 2^-320 (every FP32 value is a whole number of them). -/
def toFx (s : Bool) (m : Nat) (e : Int) : Int := scaled s m e (-320)

/-- 2^a. -/
def exp2F (mode : BitVec 2) : FV → Nat
  | .nan s f => quietF fp32 s f
  | .inf s => if s then 0 else fp32.infCode
  | .fin s m e =>
    let v := clampI (-(1000 * 2 ^ fxP : Nat)) (1000 * 2 ^ fxP : Nat) (toFx s m e)
    let n := v / (2 ^ fxP : Nat)
    let f := (v % (2 ^ fxP : Nat)).toNat
    if f = 0 then roundF fp32 mode false 1 n false else roundFx mode false (expFx (f * ln2Fx / 2 ^ fxP)) n

/-- log2 a. -/
def log2F (mode : BitVec 2) : FV → Nat
  | .nan s f => quietF fp32 s f
  | .inf s => if s then fp32.canon else fp32.infCode
  | .fin s m e =>
    if m = 0 then fp32.sign true + fp32.infCode
    else if s then fp32.canon
    else
      let k := Nat.log2 m
      let n : Int := e + k
      let x := m * 2 ^ (fxP - k)
      if x = 2 ^ fxP then valF fp32 mode (ofInt n 0)
      else
        let v : Int := n * (2 ^ fxP : Nat) + (lnFx x * 2 ^ fxP / ln2Fx : Nat)
        if v < 0 then roundFx mode true (v.natAbs - 1) 0 else roundFx mode false v.natAbs 0

/-- Magnitude of sin(π t) for 0 < t < 1, t in units 2^-320; t = 1/2 is exact and is not given here. -/
def sinHalf (t : Nat) : Nat :=
  let u := if t * 2 ≤ 2 ^ fxP then t else 2 ^ fxP - t
  if u * 4 ≤ 2 ^ fxP then sinFx (u * piFx / 2 ^ fxP) else cosFx ((2 ^ (fxP - 1) - u) * piFx / 2 ^ fxP)

/-- sin(π·a). -/
def sinF (mode : BitVec 2) : FV → Nat
  | .nan s f => quietF fp32 s f
  | .inf _ => fp32.canon
  | .fin s m e =>
    let v := (toFx false m e).toNat % (2 * 2 ^ fxP)
    let t := v % 2 ^ fxP
    let s' := s != decide (v ≥ 2 ^ fxP)
    if t = 0 then fp32.sign s
    else if t * 2 = 2 ^ fxP then fp32.sign s' + 0x3F800000
    else roundFx mode s' (sinHalf t) 0

/-- cos(π·a) = sin(π·(a + 1/2)). -/
def cosF (mode : BitVec 2) : FV → Nat
  | .nan s f => quietF fp32 s f
  | .inf _ => fp32.canon
  | .fin _ m e =>
    let a := (toFx false m e).toNat
    let v := (a + 2 ^ (fxP - 1)) % (2 * 2 ^ fxP)
    let t := v % 2 ^ fxP
    let s' := decide (v ≥ 2 ^ fxP)
    if t = 0 then 0
    else if t * 2 = 2 ^ fxP then fp32.sign s' + 0x3F800000
    else if a < 2 ^ (fxP - 110) then roundF fp32 mode false (2 ^ 200 - 1) (-200) true
    else roundFx mode s' (sinHalf t) 0

/-- tanh a. Below 2^-60 it lies within a unit of 2^-100 under a; from 100 on within 2^-200 under 1. -/
def tanhF (mode : BitVec 2) : FV → Nat
  | .nan s f => quietF fp32 s f
  | .inf s => fp32.sign s + 0x3F800000
  | .fin s m e =>
    if m = 0 then fp32.sign s
    else
      let x := (toFx false m e).toNat
      if x < 2 ^ (fxP - 60) then roundF fp32 mode s (m * 2 ^ 100 - 1) (e - 100) true
      else if x ≥ 100 * 2 ^ fxP then roundF fp32 mode s (2 ^ 200 - 1) (-200) true
      else
        let y := 2 * x
        let k := y / ln2Fx + 1
        let q := expFx (k * ln2Fx - y) / 2 ^ k
        roundFx mode s ((2 ^ fxP - q) * 2 ^ fxP / (2 ^ fxP + q)) 0

/-! ## SCX (R188) and the chunk sum (R135, R136) -/

/-- The least e with |a| ≤ M × 2^e, clamped to −126 and 127; M = mm × 2^me. -/
def scxExp (mm : Nat) (me : Int) : FV → Int
  | .nan _ _ => 0
  | .inf _ => 127
  | .fin _ m e =>
    if m = 0 then -126
    else
      let c := e + Nat.log2 m - me - Nat.log2 mm
      let fits := fun (k : Int) => let e0 := min e (me + k); decide (scaled false m e e0 ≤ scaled false mm (me + k) e0)
      clampI (-126) 127 (if fits (c - 1) then c - 1 else if fits c then c else c + 1)
/-- 2^k as FP32. -/
def pow2F (k : Int) : Nat := roundF fp32 0 false 1 k false

/-- An exact sum of terms: infinities seen, whether a term is invalid, the finite part in units 2^e0, and whether every term is −0. -/
structure ChunkSum where
  pinf : Bool := false
  ninf : Bool := false
  bad : Bool := false
  v : Int := 0
  allNegZero : Bool := true
  deriving DecidableEq, Repr

/-- Unit in which every product of two 8-bit or 16-bit elements is whole. -/
def chunkExp : Int := -400
/-- One product term joins the sum. -/
def ChunkSum.term (a : ChunkSum) (x y : FV) : ChunkSum :=
  if isNan x || isNan y then { a with bad := true }
  else match mulV x y with
    | none => { a with bad := true }
    | some (.inf true) => { a with ninf := true, allNegZero := false }
    | some (.inf false) => { a with pinf := true, allNegZero := false }
    | some (.fin s m e) =>
      { a with v := a.v + scaled s m e chunkExp, allNegZero := a.allNegZero && s && m = 0 }
    | some (.nan _ _) => { a with bad := true }

/-- The new accumulator element (R135, R136). -/
def chunkF (acc : Nat) (terms : List (FV × FV)) (sa sb : FV) : Nat :=
  match unpackF fp32 acc with
  | .nan _ _ => acc
  | av =>
    let a := terms.foldl (fun a t => ChunkSum.term a t.1 t.2) ({} : ChunkSum)
    if a.bad || (a.pinf && a.ninf) || isNan sa || isNan sb then fp32.canon
    else
      let sv : FV := if a.pinf then .inf false else if a.ninf then .inf true
        else if a.v = 0 then .fin a.allNegZero 0 0 else ofInt a.v chunkExp
      match mulV sa sb with
      | none => fp32.canon
      | some sc => match mulV sv sc with
        | none => fp32.canon
        | some p => addV fp32 0 av p

end Sys2Proof.Machine
end

