-- ==== Sys2Proof/Types.lean ====
section
/-! DEFINITION. The operand kinds that instructions and events carry: register numbers, the address word of R142,
access sizes, and the messages that events of the outside world bring. Plain data only. -/

namespace Sys2Proof

/-- A guard field G or QG; 7 reads 1 (R140, R143, R145). -/
abbrev Guard := BitVec 3
/-- A 6-bit register field (R141, R144, R150). -/
abbrev Reg := BitVec 6
/-- A predicate number (R150). -/
abbrev PReg := BitVec 3
/-- A handle number (R150). -/
abbrev HReg := BitVec 4

/-- Load sizes of LD, LDT and ULD (R154, R155). -/
inductive LdSize where
  | z8 | s8 | z16 | s16 | b32 | b64 | b128
  deriving DecidableEq, Repr

/-- Store sizes of ST, STT, RST and UST (R154, R155). -/
inductive StSize where
  | b8 | b16 | b32 | b64 | b128
  deriving DecidableEq, Repr

/-- The address word of a two-word instruction (R142). -/
structure AddrWord where
  look : BitVec 4
  ev : BitVec 2
  last : BitVec 1
  sig : BitVec 1
  scope : BitVec 8
  off : BitVec 16
  deriving DecidableEq, Repr

/-- The operation of an atomic or a reduction (R201). -/
inductive AtomOp where
  | add | min | max | minui | maxui | and | or | xor | xchg | cas | faddF32 | addBf16x2 | addF16x2 | fxadd
  deriving DecidableEq, Repr

/-- What an access that arrives from another package asks (R285, R288, R292). -/
inductive FabOp where
  | load (size : Nat) (scope : Nat)
  /-- a WAIT's read, with the value waited on (R203) -/
  | wait (size : Nat) (cmp : Nat)
  /-- the sector's bytes in the order they are written, with their offsets in the sector -/
  | store (bytes : List (Nat × Byte)) (sig : Bool)
  /-- lanes in ascending order: byte offset from the packet's address, operation, operand, compare value -/
  | atomic (lanes : List (Nat × AtomOp × Nat × Nat × Nat)) (sig : Bool) (ret : Bool)
  /-- a ridge-tagged sector write: bytes with their offsets, group (R280, R294) -/
  | stage (bytes : List (Nat × Byte)) (group : Nat) (sig : Bool)
  /-- a multicast member write: 8 sectors (R291); staged for a group when `ridge` holds it -/
  | mcast (data : List Byte) (sig : Bool) (ridge : Option Nat)
  deriving DecidableEq, Repr

/-- Where a message of another package comes from: package, bay and that bay's incarnation as the message carries it (R287), and the bay here that
it addresses (R409). -/
structure Sender where
  pkg : Nat
  bay : Nat
  inc : BitVec 16
  dest : Nat
  deriving DecidableEq, Repr

/-- A packet of a remote initiator, with the plane that brought it (R283, R286, R287, R409). -/
structure FabReq where
  src : Nat
  srcBay : Nat
  srcInc : BitVec 16
  plane : Nat
  bay : Nat
  off : Nat
  tgtInc : BitVec 16
  tag : Nat
  op : FabOp
  /-- its tag has failed for the fifth time (R408) -/
  failed : Bool := false
  deriving DecidableEq, Repr

/-- The completion record of a write (R267). -/
structure Record where
  p : Nat
  l0 : Nat
  l1 : Nat
  lr : Nat
  xc : Nat
  deriving DecidableEq, Repr

/-- What comes back for an outstanding remote access (R403, R406). -/
inductive FabAns where
  | data (bytes : List Byte) (expiry : Option Nat)
  | record (r : Record) (old : List Byte)
  | staged (p : Nat)
  | nack (code : Nat) (rinc : BitVec 16)
  /-- a WAIT's read found the value waited on: the lane is entered in the monitor table there (R203) -/
  | parked
  /-- that entry's sector has had a signaled write, or the entry was given up (R204) -/
  | wake
  deriving DecidableEq, Repr

/-- A reply packet, with the replying bay's incarnation and the plane that brought it (R286, R287, R409). -/
structure FabReply where
  tag : Nat
  src : Nat
  srcBay : Nat
  srcInc : BitVec 16
  plane : Nat
  ans : FabAns
  /-- the bay here that it addresses (R409) -/
  dest : Nat := 0
  deriving DecidableEq, Repr

/-- One member's outcome in an aggregated multicast acknowledgement (R291, R411): performed or staged, or a code; with the incarnation of the member's
bay (R287, R409). -/
inductive McstRes where
  | done (inc : BitVec 16) (r : Record)
  | nack (inc : BitVec 16) (code : Nat)
  deriving DecidableEq, Repr

/-- A destination's answer to a ridge count (R295): ready with R(d), or a refusal with a code. -/
inductive RidgeAns where
  | ready (r : Nat)
  | refuse (code : Nat)
  deriving DecidableEq, Repr

/-- The four sensor readings of a column in sixteenths of a degree (R12, R312). -/
structure Sensors where
  c1 : BitVec 16
  c6 : BitVec 16
  f1 : BitVec 16
  f6 : BitVec 16
  deriving DecidableEq, Repr

/-- The two CXL ports (R300). -/
inductive Port where
  | h | m
  deriving DecidableEq, Repr

/-- A management or bay register write of the host that has no row of its own (R425, R417): function, offset, value. -/
structure HostWrite where
  fn : Nat
  off : Nat
  size : Nat
  data : W512
  deriving DecidableEq, Repr

/-- A host access to a bay's HDM range (R301). -/
inductive HdmOp where
  | read (size : Nat)
  | write (data : List Byte)
  deriving DecidableEq, Repr

/-- The kinds of image that a fused minimum version is for (R430). -/
inductive FwKind where
  | root | service | bay
  deriving DecidableEq, Repr

/-- A bay boot image as its bytes are laid out (R427); `sigOk` is the verdict of R430 on its signature. -/
structure BootImage where
  root : W64
  walkPc : W64
  svPc : W64
  version : W32
  reservedZero : Bool
  sigOk : Bool
  runs : List (Nat × List Byte)
  deriving DecidableEq, Repr

/-- The domain configuration in flash (R426). -/
structure DomainCfg where
  pkgid : BitVec 9
  members : BitVec 512
  fto : Option Nat
  pl : Option Nat
  deriving DecidableEq, Repr

end Sys2Proof
end

