-- ==== Sys2Proof/Syntax.lean ====
section
/-! DEFINITION. The instructions: one constructor for every row of the opcode table (spec/opcode_table.json). A word row
carries its fields as the table lays them out; a two-word row carries its size, registers and address word (R142); an event row
carries the part of the machine it acts on and what the outside world brings. -/

namespace Sys2Proof

/-- Every instruction word, machine event, service and command of the opcode table. -/
inductive Instr where
  /-- ADD (R161). -/
  | add (g : Guard) (d : BitVec 6) (a : BitVec 6) (b : BitVec 6)
  /-- SUB (R161). -/
  | sub (g : Guard) (d : BitVec 6) (a : BitVec 6) (b : BitVec 6)
  /-- AND (R161). -/
  | and (g : Guard) (d : BitVec 6) (a : BitVec 6) (b : BitVec 6)
  /-- OR (R161). -/
  | or (g : Guard) (d : BitVec 6) (a : BitVec 6) (b : BitVec 6)
  /-- XOR (R161). -/
  | xor (g : Guard) (d : BitVec 6) (a : BitVec 6) (b : BitVec 6)
  /-- ANDN (R161). -/
  | andn (g : Guard) (d : BitVec 6) (a : BitVec 6) (b : BitVec 6)
  /-- SHL (R161). -/
  | shl (g : Guard) (d : BitVec 6) (a : BitVec 6) (b : BitVec 6)
  /-- SHR (R161). -/
  | shr (g : Guard) (d : BitVec 6) (a : BitVec 6) (b : BitVec 6)
  /-- SAR (R161). -/
  | sar (g : Guard) (d : BitVec 6) (a : BitVec 6) (b : BitVec 6)
  /-- MIN (R161). -/
  | min (g : Guard) (d : BitVec 6) (a : BitVec 6) (b : BitVec 6)
  /-- MAX (R161). -/
  | max (g : Guard) (d : BitVec 6) (a : BitVec 6) (b : BitVec 6)
  /-- MINUI (R161). -/
  | minui (g : Guard) (d : BitVec 6) (a : BitVec 6) (b : BitVec 6)
  /-- MAXUI (R161). -/
  | maxui (g : Guard) (d : BitVec 6) (a : BitVec 6) (b : BitVec 6)
  /-- ABS (R161). -/
  | abs (g : Guard) (d : BitVec 6) (a : BitVec 6)
  /-- NEG (R161). -/
  | neg (g : Guard) (d : BitVec 6) (a : BitVec 6)
  /-- MUL (R162). -/
  | mul (g : Guard) (d : BitVec 6) (a : BitVec 6) (b : BitVec 6)
  /-- MULHI (R162). -/
  | mulhi (g : Guard) (d : BitVec 6) (a : BitVec 6) (b : BitVec 6)
  /-- MULHIU (R162). -/
  | mulhiu (g : Guard) (d : BitVec 6) (a : BitVec 6) (b : BitVec 6)
  /-- MAD (R162). -/
  | mad (g : Guard) (d : BitVec 6) (a : BitVec 6) (b : BitVec 6)
  /-- POPC (R162). -/
  | popc (g : Guard) (d : BitVec 6) (a : BitVec 6)
  /-- CLZ (R162). -/
  | clz (g : Guard) (d : BitVec 6) (a : BitVec 6)
  /-- BREV (R162). -/
  | brev (g : Guard) (d : BitVec 6) (a : BitVec 6)
  /-- BFX (R163). -/
  | bfx (g : Guard) (d : BitVec 6) (a : BitVec 6) (b : BitVec 6)
  /-- BFI (R163). -/
  | bfi (g : Guard) (d : BitVec 6) (a : BitVec 6) (b : BitVec 6)
  /-- ICMP_EQ (R164). -/
  | icmpEq (g : Guard) (d : BitVec 3) (a : BitVec 6) (b : BitVec 6)
  /-- ICMP_NE (R164). -/
  | icmpNe (g : Guard) (d : BitVec 3) (a : BitVec 6) (b : BitVec 6)
  /-- ICMP_LT (R164). -/
  | icmpLt (g : Guard) (d : BitVec 3) (a : BitVec 6) (b : BitVec 6)
  /-- ICMP_LE (R164). -/
  | icmpLe (g : Guard) (d : BitVec 3) (a : BitVec 6) (b : BitVec 6)
  /-- ICMP_GT (R164). -/
  | icmpGt (g : Guard) (d : BitVec 3) (a : BitVec 6) (b : BitVec 6)
  /-- ICMP_GE (R164). -/
  | icmpGe (g : Guard) (d : BitVec 3) (a : BitVec 6) (b : BitVec 6)
  /-- ICMP_LTUI (R164). -/
  | icmpLtui (g : Guard) (d : BitVec 3) (a : BitVec 6) (b : BitVec 6)
  /-- ICMP_LEUI (R164). -/
  | icmpLeui (g : Guard) (d : BitVec 3) (a : BitVec 6) (b : BitVec 6)
  /-- ICMP_GTUI (R164). -/
  | icmpGtui (g : Guard) (d : BitVec 3) (a : BitVec 6) (b : BitVec 6)
  /-- ICMP_GEUI (R164). -/
  | icmpGeui (g : Guard) (d : BitVec 3) (a : BitVec 6) (b : BitVec 6)
  /-- PAND (R164). -/
  | pand (g : Guard) (d : BitVec 3) (a : BitVec 3) (b : BitVec 3)
  /-- POR (R164). -/
  | por (g : Guard) (d : BitVec 3) (a : BitVec 3) (b : BitVec 3)
  /-- PXOR (R164). -/
  | pxor (g : Guard) (d : BitVec 3) (a : BitVec 3) (b : BitVec 3)
  /-- PANDN (R164). -/
  | pandn (g : Guard) (d : BitVec 3) (a : BitVec 3) (b : BitVec 3)
  /-- PNOT (R164). -/
  | pnot (g : Guard) (d : BitVec 3) (a : BitVec 3)
  /-- P2V (R164). -/
  | p2v (g : Guard) (d : BitVec 6) (a : BitVec 3)
  /-- V2P (R164). -/
  | v2p (g : Guard) (d : BitVec 3) (a : BitVec 6)
  /-- ADDI (R165). -/
  | addi (g : Guard) (d : BitVec 6) (a : BitVec 6) (i : BitVec 11)
  /-- ANDI (R165). -/
  | andi (g : Guard) (d : BitVec 6) (a : BitVec 6) (i : BitVec 11)
  /-- ORI (R165). -/
  | ori (g : Guard) (d : BitVec 6) (a : BitVec 6) (i : BitVec 11)
  /-- XORI (R165). -/
  | xori (g : Guard) (d : BitVec 6) (a : BitVec 6) (i : BitVec 11)
  /-- SHLI (R166). -/
  | shli (g : Guard) (d : BitVec 6) (a : BitVec 6) (n : BitVec 5)
  /-- SHRI (R166). -/
  | shri (g : Guard) (d : BitVec 6) (a : BitVec 6) (n : BitVec 5)
  /-- SARI (R166). -/
  | sari (g : Guard) (d : BitVec 6) (a : BitVec 6) (n : BitVec 5)
  /-- ROLI (R166). -/
  | roli (g : Guard) (d : BitVec 6) (a : BitVec 6) (n : BitVec 5)
  /-- MOV16 (R167). -/
  | mov16 (g : Guard) (d : BitVec 6) (i : BitVec 16)
  /-- MOV16_HI (R167). -/
  | mov16Hi (g : Guard) (d : BitVec 6) (i : BitVec 16)
  /-- ADD64 (R168). -/
  | add64 (g : Guard) (d : BitVec 6) (a : BitVec 6) (b : BitVec 6)
  /-- SUB64 (R168). -/
  | sub64 (g : Guard) (d : BitVec 6) (a : BitVec 6) (b : BitVec 6)
  /-- PADD (R168). -/
  | padd (g : Guard) (d : BitVec 6) (a : BitVec 6) (b : BitVec 6)
  /-- SHL64 (R168). -/
  | shl64 (g : Guard) (d : BitVec 6) (a : BitVec 6) (b : BitVec 6)
  /-- SHR64 (R168). -/
  | shr64 (g : Guard) (d : BitVec 6) (a : BitVec 6) (b : BitVec 6)
  /-- SAR64 (R168). -/
  | sar64 (g : Guard) (d : BitVec 6) (a : BitVec 6) (b : BitVec 6)
  /-- MULW (R168). -/
  | mulw (g : Guard) (d : BitVec 6) (a : BitVec 6) (b : BitVec 6)
  /-- MULWUI (R168). -/
  | mulwui (g : Guard) (d : BitVec 6) (a : BitVec 6) (b : BitVec 6)
  /-- MOV64 (R168). -/
  | mov64 (g : Guard) (d : BitVec 6) (a : BitVec 6)
  /-- MOV (R169). -/
  | mov (g : Guard) (d : BitVec 6) (a : BitVec 6)
  /-- SEL (R169). -/
  | sel (g : Guard) (d : BitVec 6) (a : BitVec 6) (b : BitVec 6) (k : BitVec 3)
  /-- PICK (R171). -/
  | pick (g : Guard) (d : BitVec 6) (a : BitVec 6) (b : BitVec 6)
  /-- ROTU (R171). -/
  | rotu (g : Guard) (d : BitVec 6) (a : BitVec 6) (b : BitVec 6)
  /-- ROTD (R171). -/
  | rotd (g : Guard) (d : BitVec 6) (a : BitVec 6) (b : BitVec 6)
  /-- BFLY (R171). -/
  | bfly (g : Guard) (d : BitVec 6) (a : BitVec 6) (b : BitVec 6)
  /-- LANY (R172). -/
  | lany (g : Guard) (d : BitVec 3) (a : BitVec 3)
  /-- LALL (R172). -/
  | lall (g : Guard) (d : BitVec 3) (a : BitVec 3)
  /-- LMASK (R172). -/
  | lmask (g : Guard) (d : BitVec 6) (a : BitVec 3)
  /-- COMB_ADD (R173). -/
  | combAdd (g : Guard) (d : BitVec 6) (a : BitVec 6)
  /-- COMB_MIN (R173). -/
  | combMin (g : Guard) (d : BitVec 6) (a : BitVec 6)
  /-- COMB_MAX (R173). -/
  | combMax (g : Guard) (d : BitVec 6) (a : BitVec 6)
  /-- COMB_MINUI (R173). -/
  | combMinui (g : Guard) (d : BitVec 6) (a : BitVec 6)
  /-- COMB_MAXUI (R173). -/
  | combMaxui (g : Guard) (d : BitVec 6) (a : BitVec 6)
  /-- COMB_AND (R173). -/
  | combAnd (g : Guard) (d : BitVec 6) (a : BitVec 6)
  /-- COMB_OR (R173). -/
  | combOr (g : Guard) (d : BitVec 6) (a : BitVec 6)
  /-- COMB_XOR (R173). -/
  | combXor (g : Guard) (d : BitVec 6) (a : BitVec 6)
  /-- FADD (R180). -/
  | fadd (g : Guard) (d : BitVec 6) (a : BitVec 6) (b : BitVec 6)
  /-- FSUB (R180). -/
  | fsub (g : Guard) (d : BitVec 6) (a : BitVec 6) (b : BitVec 6)
  /-- FMUL (R180). -/
  | fmul (g : Guard) (d : BitVec 6) (a : BitVec 6) (b : BitVec 6)
  /-- FFMA (R180). -/
  | ffma (g : Guard) (d : BitVec 6) (a : BitVec 6) (b : BitVec 6)
  /-- FMIN (R181). -/
  | fmin (g : Guard) (d : BitVec 6) (a : BitVec 6) (b : BitVec 6)
  /-- FMAX (R181). -/
  | fmax (g : Guard) (d : BitVec 6) (a : BitVec 6) (b : BitVec 6)
  /-- FABS (R180). -/
  | fabs (g : Guard) (d : BitVec 6) (a : BitVec 6)
  /-- FNEG (R180). -/
  | fneg (g : Guard) (d : BitVec 6) (a : BitVec 6)
  /-- FCPYS (R180). -/
  | fcpys (g : Guard) (d : BitVec 6) (a : BitVec 6) (b : BitVec 6)
  /-- FCMP_EQ (R182). -/
  | fcmpEq (g : Guard) (d : BitVec 3) (a : BitVec 6) (b : BitVec 6)
  /-- FCMP_NE (R182). -/
  | fcmpNe (g : Guard) (d : BitVec 3) (a : BitVec 6) (b : BitVec 6)
  /-- FCMP_LT (R182). -/
  | fcmpLt (g : Guard) (d : BitVec 3) (a : BitVec 6) (b : BitVec 6)
  /-- FCMP_LE (R182). -/
  | fcmpLe (g : Guard) (d : BitVec 3) (a : BitVec 6) (b : BitVec 6)
  /-- FCMP_GT (R182). -/
  | fcmpGt (g : Guard) (d : BitVec 3) (a : BitVec 6) (b : BitVec 6)
  /-- FCMP_GE (R182). -/
  | fcmpGe (g : Guard) (d : BitVec 3) (a : BitVec 6) (b : BitVec 6)
  /-- FCMP_UNORD (R182). -/
  | fcmpUnord (g : Guard) (d : BitVec 3) (a : BitVec 6) (b : BitVec 6)
  /-- FCMP_ORD (R182). -/
  | fcmpOrd (g : Guard) (d : BitVec 3) (a : BitVec 6) (b : BitVec 6)
  /-- ADD_F16X2 (R183). -/
  | addF16x2 (g : Guard) (d : BitVec 6) (a : BitVec 6) (b : BitVec 6)
  /-- SUB_F16X2 (R183). -/
  | subF16x2 (g : Guard) (d : BitVec 6) (a : BitVec 6) (b : BitVec 6)
  /-- MUL_F16X2 (R183). -/
  | mulF16x2 (g : Guard) (d : BitVec 6) (a : BitVec 6) (b : BitVec 6)
  /-- FMA_F16X2 (R183). -/
  | fmaF16x2 (g : Guard) (d : BitVec 6) (a : BitVec 6) (b : BitVec 6)
  /-- MIN_F16X2 (R183). -/
  | minF16x2 (g : Guard) (d : BitVec 6) (a : BitVec 6) (b : BitVec 6)
  /-- MAX_F16X2 (R183). -/
  | maxF16x2 (g : Guard) (d : BitVec 6) (a : BitVec 6) (b : BitVec 6)
  /-- ADD_BF16X2 (R183). -/
  | addBf16x2 (g : Guard) (d : BitVec 6) (a : BitVec 6) (b : BitVec 6)
  /-- SUB_BF16X2 (R183). -/
  | subBf16x2 (g : Guard) (d : BitVec 6) (a : BitVec 6) (b : BitVec 6)
  /-- MUL_BF16X2 (R183). -/
  | mulBf16x2 (g : Guard) (d : BitVec 6) (a : BitVec 6) (b : BitVec 6)
  /-- FMA_BF16X2 (R183). -/
  | fmaBf16x2 (g : Guard) (d : BitVec 6) (a : BitVec 6) (b : BitVec 6)
  /-- MIN_BF16X2 (R183). -/
  | minBf16x2 (g : Guard) (d : BitVec 6) (a : BitVec 6) (b : BitVec 6)
  /-- MAX_BF16X2 (R183). -/
  | maxBf16x2 (g : Guard) (d : BitVec 6) (a : BitVec 6) (b : BitVec 6)
  /-- RCP (R184). -/
  | rcp (g : Guard) (d : BitVec 6) (a : BitVec 6) (k : BitVec 4)
  /-- RSQ (R184). -/
  | rsq (g : Guard) (d : BitVec 6) (a : BitVec 6) (k : BitVec 4)
  /-- SQRT (R184). -/
  | sqrt (g : Guard) (d : BitVec 6) (a : BitVec 6) (k : BitVec 4)
  /-- EXP2 (R184). -/
  | exp2 (g : Guard) (d : BitVec 6) (a : BitVec 6) (k : BitVec 4)
  /-- LOG2 (R184). -/
  | log2 (g : Guard) (d : BitVec 6) (a : BitVec 6) (k : BitVec 4)
  /-- SIN (R184). -/
  | sin (g : Guard) (d : BitVec 6) (a : BitVec 6) (k : BitVec 4)
  /-- COS (R184). -/
  | cos (g : Guard) (d : BitVec 6) (a : BitVec 6) (k : BitVec 4)
  /-- TANH (R184). -/
  | tanh (g : Guard) (d : BitVec 6) (a : BitVec 6) (k : BitVec 4)
  /-- CVT_F32_F16 (R185). -/
  | cvtF32F16 (g : Guard) (d : BitVec 6) (a : BitVec 6) (h : BitVec 1)
  /-- CVT_F32_BF16 (R185). -/
  | cvtF32Bf16 (g : Guard) (d : BitVec 6) (a : BitVec 6) (h : BitVec 1)
  /-- CVT_F16_F32 (R185). -/
  | cvtF16F32 (g : Guard) (d : BitVec 6) (a : BitVec 6) (b : BitVec 6)
  /-- CVT_BF16_F32 (R185). -/
  | cvtBf16F32 (g : Guard) (d : BitVec 6) (a : BitVec 6) (b : BitVec 6)
  /-- CVT_S32_F32 (R185). -/
  | cvtS32F32 (g : Guard) (d : BitVec 6) (a : BitVec 6)
  /-- CVT_UI32_F32 (R185). -/
  | cvtUi32F32 (g : Guard) (d : BitVec 6) (a : BitVec 6)
  /-- CVT_F32_S32 (R185). -/
  | cvtF32S32 (g : Guard) (d : BitVec 6) (a : BitVec 6)
  /-- CVT_F32_UI32 (R185). -/
  | cvtF32Ui32 (g : Guard) (d : BitVec 6) (a : BitVec 6)
  /-- CVT_FX_F32 (R185). -/
  | cvtFxF32 (g : Guard) (d : BitVec 6) (a : BitVec 6)
  /-- CVT_F32_FX (R185). -/
  | cvtF32Fx (g : Guard) (d : BitVec 6) (a : BitVec 6)
  /-- CVT_F16_F32_SR (R185). -/
  | cvtF16F32Sr (g : Guard) (d : BitVec 6) (a : BitVec 6) (b : BitVec 6)
  /-- CVT_BF16_F32_SR (R185). -/
  | cvtBf16F32Sr (g : Guard) (d : BitVec 6) (a : BitVec 6) (b : BitVec 6)
  /-- CVT_F32_S64 (R185). -/
  | cvtF32S64 (g : Guard) (d : BitVec 6) (a : BitVec 6)
  /-- CVT_F32_UI64 (R185). -/
  | cvtF32Ui64 (g : Guard) (d : BitVec 6) (a : BitVec 6)
  /-- PK_E4M3 (R186). -/
  | pkE4m3 (g : Guard) (d : BitVec 6) (a : BitVec 6) (b : BitVec 6)
  /-- PK_E5M2 (R186). -/
  | pkE5m2 (g : Guard) (d : BitVec 6) (a : BitVec 6) (b : BitVec 6)
  /-- PK_HS4 (R186). -/
  | pkHs4 (g : Guard) (d : BitVec 6) (a : BitVec 6) (b : BitVec 6)
  /-- UPK_E4M3 (R187). -/
  | upkE4m3 (g : Guard) (d : BitVec 6) (a : BitVec 6) (b : BitVec 6)
  /-- UPK_E5M2 (R187). -/
  | upkE5m2 (g : Guard) (d : BitVec 6) (a : BitVec 6) (b : BitVec 6)
  /-- UPK_HS4 (R187). -/
  | upkHs4 (g : Guard) (d : BitVec 6) (a : BitVec 6) (b : BitVec 6)
  /-- PK_E4M3_SR (R186). -/
  | pkE4m3Sr (g : Guard) (d : BitVec 6) (a : BitVec 6) (b : BitVec 6)
  /-- PK_E5M2_SR (R186). -/
  | pkE5m2Sr (g : Guard) (d : BitVec 6) (a : BitVec 6) (b : BitVec 6)
  /-- SCX_E4M3 (R188). -/
  | scxE4m3 (g : Guard) (d : BitVec 6) (a : BitVec 6)
  /-- SCX_E5M2 (R188). -/
  | scxE5m2 (g : Guard) (d : BitVec 6) (a : BitVec 6)
  /-- SCX_HS4 (R188). -/
  | scxHs4 (g : Guard) (d : BitVec 6) (a : BitVec 6)
  /-- LD (R195). -/
  | ld (sz : LdSize) (g : Guard) (d : Reg) (a : Reg) (ad : AddrWord)
  /-- ST (R195). -/
  | st (sz : StSize) (g : Guard) (d : Reg) (a : Reg) (ad : AddrWord)
  /-- LDT (R196). -/
  | ldt (sz : LdSize) (g : Guard) (d : Reg) (a : Reg) (b : Reg) (ad : AddrWord)
  /-- STT (R196). -/
  | stt (sz : StSize) (g : Guard) (d : Reg) (a : Reg) (b : Reg) (ad : AddrWord)
  /-- LDP (R198). -/
  | ldp (g : Guard) (d : Reg) (a : Reg) (ad : AddrWord)
  /-- STP (R199). -/
  | stp (g : Guard) (d : Reg) (a : Reg) (ad : AddrWord)
  /-- PFAR (R200). -/
  | pfar (g : Guard) (d : Reg) (b : Reg) (ad : AddrWord)
  /-- ATOM_ADD (R201). -/
  | atomAdd (w : Bool) (g : Guard) (d : Reg) (a : Reg) (ad : AddrWord)
  /-- ATOM_MIN (R201). -/
  | atomMin (w : Bool) (g : Guard) (d : Reg) (a : Reg) (ad : AddrWord)
  /-- ATOM_MAX (R201). -/
  | atomMax (w : Bool) (g : Guard) (d : Reg) (a : Reg) (ad : AddrWord)
  /-- ATOM_MINUI (R201). -/
  | atomMinui (w : Bool) (g : Guard) (d : Reg) (a : Reg) (ad : AddrWord)
  /-- ATOM_MAXUI (R201). -/
  | atomMaxui (w : Bool) (g : Guard) (d : Reg) (a : Reg) (ad : AddrWord)
  /-- ATOM_AND (R201). -/
  | atomAnd (w : Bool) (g : Guard) (d : Reg) (a : Reg) (ad : AddrWord)
  /-- ATOM_OR (R201). -/
  | atomOr (w : Bool) (g : Guard) (d : Reg) (a : Reg) (ad : AddrWord)
  /-- ATOM_XOR (R201). -/
  | atomXor (w : Bool) (g : Guard) (d : Reg) (a : Reg) (ad : AddrWord)
  /-- ATOM_XCHG (R201). -/
  | atomXchg (w : Bool) (g : Guard) (d : Reg) (a : Reg) (ad : AddrWord)
  /-- ATOM_CAS (R201). -/
  | atomCas (w : Bool) (g : Guard) (d : Reg) (a : Reg) (b : Reg) (ad : AddrWord)
  /-- ATOM_FADD_F32 (R202). -/
  | atomFaddF32 (g : Guard) (d : Reg) (a : Reg) (ad : AddrWord)
  /-- ATOM_ADD_BF16X2 (R202). -/
  | atomAddBf16x2 (g : Guard) (d : Reg) (a : Reg) (ad : AddrWord)
  /-- ATOM_ADD_F16X2 (R202). -/
  | atomAddF16x2 (g : Guard) (d : Reg) (a : Reg) (ad : AddrWord)
  /-- ATOM_FXADD (R201). -/
  | atomFxadd (g : Guard) (d : Reg) (a : Reg) (ad : AddrWord)
  /-- RED_ADD (R201). -/
  | redAdd (w : Bool) (g : Guard) (d : Reg) (a : Reg) (ad : AddrWord)
  /-- RED_MIN (R201). -/
  | redMin (w : Bool) (g : Guard) (d : Reg) (a : Reg) (ad : AddrWord)
  /-- RED_MAX (R201). -/
  | redMax (w : Bool) (g : Guard) (d : Reg) (a : Reg) (ad : AddrWord)
  /-- RED_MINUI (R201). -/
  | redMinui (w : Bool) (g : Guard) (d : Reg) (a : Reg) (ad : AddrWord)
  /-- RED_MAXUI (R201). -/
  | redMaxui (w : Bool) (g : Guard) (d : Reg) (a : Reg) (ad : AddrWord)
  /-- RED_AND (R201). -/
  | redAnd (w : Bool) (g : Guard) (d : Reg) (a : Reg) (ad : AddrWord)
  /-- RED_OR (R201). -/
  | redOr (w : Bool) (g : Guard) (d : Reg) (a : Reg) (ad : AddrWord)
  /-- RED_XOR (R201). -/
  | redXor (w : Bool) (g : Guard) (d : Reg) (a : Reg) (ad : AddrWord)
  /-- RED_FADD_F32 (R202). -/
  | redFaddF32 (g : Guard) (d : Reg) (a : Reg) (ad : AddrWord)
  /-- RED_ADD_BF16X2 (R202). -/
  | redAddBf16x2 (g : Guard) (d : Reg) (a : Reg) (ad : AddrWord)
  /-- RED_ADD_F16X2 (R202). -/
  | redAddF16x2 (g : Guard) (d : Reg) (a : Reg) (ad : AddrWord)
  /-- RED_FXADD (R201). -/
  | redFxadd (g : Guard) (d : Reg) (a : Reg) (ad : AddrWord)
  /-- WAIT (R203). -/
  | wait (w : Bool) (g : Guard) (d : Reg) (a : Reg) (b : Reg) (ad : AddrWord)
  /-- WAIT_REREAD (R444). -/
  | waitReread (core : Nat) (slot : Nat) (lane : Nat)
  /-- FENCE_ACQ (R205). -/
  | fenceAcq (g : Guard) (s : BitVec 3)
  /-- FENCE_REL (R205). -/
  | fenceRel (g : Guard) (s : BitVec 3)
  /-- FENCE_ACQREL (R205). -/
  | fenceAcqrel (g : Guard) (s : BitVec 3)
  /-- BRA (R209). -/
  | bra (g : Guard) (o : BitVec 16)
  /-- NOP (R210). -/
  | nop (g : Guard)
  /-- BRX (R209). -/
  | brx (g : Guard) (a : BitVec 6)
  /-- CALL (R209). -/
  | call (g : Guard) (d : BitVec 6) (o : BitVec 12)
  /-- CALLX (R209). -/
  | callx (g : Guard) (d : BitVec 6) (a : BitVec 6)
  /-- RET (R209). -/
  | ret (g : Guard) (a : BitVec 6)
  /-- EXIT (R210). -/
  | exit (g : Guard)
  /-- BAR_A (R213). -/
  | barA (g : Guard) (s : BitVec 1) (p : BitVec 1) (r : BitVec 3) (n : BitVec 12)
  /-- BAR_W (R213). -/
  | barW (g : Guard) (s : BitVec 1) (p : BitVec 1) (r : BitVec 3) (n : BitVec 12)
  /-- BAR_AW (R213). -/
  | barAw (g : Guard) (s : BitVec 1) (p : BitVec 1) (r : BitVec 3) (n : BitVec 12)
  /-- ISSV (R218). -/
  | issv (g : Guard) (a : BitVec 6)
  /-- RST (R294). -/
  | rst (sz : StSize) (g : Guard) (d : Reg) (a : Reg) (ad : AddrWord)
  /-- UADD (R174). -/
  | uadd (q : Guard) (d : BitVec 6) (a : BitVec 6) (b : BitVec 6)
  /-- USUB (R174). -/
  | usub (q : Guard) (d : BitVec 6) (a : BitVec 6) (b : BitVec 6)
  /-- UAND (R174). -/
  | uand (q : Guard) (d : BitVec 6) (a : BitVec 6) (b : BitVec 6)
  /-- UOR (R174). -/
  | uor (q : Guard) (d : BitVec 6) (a : BitVec 6) (b : BitVec 6)
  /-- UXOR (R174). -/
  | uxor (q : Guard) (d : BitVec 6) (a : BitVec 6) (b : BitVec 6)
  /-- USHL (R174). -/
  | ushl (q : Guard) (d : BitVec 6) (a : BitVec 6) (b : BitVec 6)
  /-- USHR (R174). -/
  | ushr (q : Guard) (d : BitVec 6) (a : BitVec 6) (b : BitVec 6)
  /-- USAR (R174). -/
  | usar (q : Guard) (d : BitVec 6) (a : BitVec 6) (b : BitVec 6)
  /-- UMIN (R174). -/
  | umin (q : Guard) (d : BitVec 6) (a : BitVec 6) (b : BitVec 6)
  /-- UMAX (R174). -/
  | umax (q : Guard) (d : BitVec 6) (a : BitVec 6) (b : BitVec 6)
  /-- UMINUI (R174). -/
  | uminui (q : Guard) (d : BitVec 6) (a : BitVec 6) (b : BitVec 6)
  /-- UMAXUI (R174). -/
  | umaxui (q : Guard) (d : BitVec 6) (a : BitVec 6) (b : BitVec 6)
  /-- UMUL (R174). -/
  | umul (q : Guard) (d : BitVec 6) (a : BitVec 6) (b : BitVec 6)
  /-- UMULHI (R174). -/
  | umulhi (q : Guard) (d : BitVec 6) (a : BitVec 6) (b : BitVec 6)
  /-- UMULHIU (R174). -/
  | umulhiu (q : Guard) (d : BitVec 6) (a : BitVec 6) (b : BitVec 6)
  /-- UCMP_EQ (R175). -/
  | ucmpEq (q : Guard) (d : BitVec 3) (a : BitVec 6) (b : BitVec 6)
  /-- UCMP_NE (R175). -/
  | ucmpNe (q : Guard) (d : BitVec 3) (a : BitVec 6) (b : BitVec 6)
  /-- UCMP_LT (R175). -/
  | ucmpLt (q : Guard) (d : BitVec 3) (a : BitVec 6) (b : BitVec 6)
  /-- UCMP_LE (R175). -/
  | ucmpLe (q : Guard) (d : BitVec 3) (a : BitVec 6) (b : BitVec 6)
  /-- UCMP_GT (R175). -/
  | ucmpGt (q : Guard) (d : BitVec 3) (a : BitVec 6) (b : BitVec 6)
  /-- UCMP_GE (R175). -/
  | ucmpGe (q : Guard) (d : BitVec 3) (a : BitVec 6) (b : BitVec 6)
  /-- UCMP_LTUI (R175). -/
  | ucmpLtui (q : Guard) (d : BitVec 3) (a : BitVec 6) (b : BitVec 6)
  /-- UCMP_LEUI (R175). -/
  | ucmpLeui (q : Guard) (d : BitVec 3) (a : BitVec 6) (b : BitVec 6)
  /-- UCMP_GTUI (R175). -/
  | ucmpGtui (q : Guard) (d : BitVec 3) (a : BitVec 6) (b : BitVec 6)
  /-- UCMP_GEUI (R175). -/
  | ucmpGeui (q : Guard) (d : BitVec 3) (a : BitVec 6) (b : BitVec 6)
  /-- QAND (R175). -/
  | qand (q : Guard) (d : BitVec 3) (a : BitVec 3) (b : BitVec 3)
  /-- QOR (R175). -/
  | qor (q : Guard) (d : BitVec 3) (a : BitVec 3) (b : BitVec 3)
  /-- QXOR (R175). -/
  | qxor (q : Guard) (d : BitVec 3) (a : BitVec 3) (b : BitVec 3)
  /-- QANDN (R175). -/
  | qandn (q : Guard) (d : BitVec 3) (a : BitVec 3) (b : BitVec 3)
  /-- QNOT (R175). -/
  | qnot (q : Guard) (d : BitVec 3) (a : BitVec 3)
  /-- UADDI (R176). -/
  | uaddi (q : Guard) (d : BitVec 6) (a : BitVec 6) (i : BitVec 10)
  /-- UANDI (R176). -/
  | uandi (q : Guard) (d : BitVec 6) (a : BitVec 6) (i : BitVec 10)
  /-- UORI (R176). -/
  | uori (q : Guard) (d : BitVec 6) (a : BitVec 6) (i : BitVec 10)
  /-- UXORI (R176). -/
  | uxori (q : Guard) (d : BitVec 6) (a : BitVec 6) (i : BitVec 10)
  /-- USHLI (R176). -/
  | ushli (q : Guard) (d : BitVec 6) (a : BitVec 6) (n : BitVec 6)
  /-- USHRI (R176). -/
  | ushri (q : Guard) (d : BitVec 6) (a : BitVec 6) (n : BitVec 6)
  /-- USARI (R176). -/
  | usari (q : Guard) (d : BitVec 6) (a : BitVec 6) (n : BitVec 6)
  /-- UROLI (R176). -/
  | uroli (q : Guard) (d : BitVec 6) (a : BitVec 6) (n : BitVec 6)
  /-- UMOV16 (R177). -/
  | umov16 (q : Guard) (d : BitVec 6) (i : BitVec 16)
  /-- UMOVK (R177). -/
  | umovk (q : Guard) (d : BitVec 6) (i : BitVec 16)
  /-- UMOV (R178). -/
  | umov (q : Guard) (d : BitVec 6) (a : BitVec 6)
  /-- READLANE (R178). -/
  | readlane (q : Guard) (d : BitVec 6) (a : BitVec 6) (b : BitVec 6)
  /-- BCAST (R178). -/
  | bcast (q : Guard) (d : BitVec 6) (a : BitVec 6)
  /-- ULD (R206). -/
  | uld (sz : LdSize) (q : Guard) (d : Reg) (a : Reg) (ad : AddrWord)
  /-- UST (R206). -/
  | ust (sz : StSize) (q : Guard) (d : Reg) (a : Reg) (ad : AddrWord)
  /-- UATOM_ADD (R206). -/
  | uatomAdd (q : Guard) (d : Reg) (a : Reg) (ad : AddrWord)
  /-- UATOM_MIN (R206). -/
  | uatomMin (q : Guard) (d : Reg) (a : Reg) (ad : AddrWord)
  /-- UATOM_MAX (R206). -/
  | uatomMax (q : Guard) (d : Reg) (a : Reg) (ad : AddrWord)
  /-- UATOM_MINUI (R206). -/
  | uatomMinui (q : Guard) (d : Reg) (a : Reg) (ad : AddrWord)
  /-- UATOM_MAXUI (R206). -/
  | uatomMaxui (q : Guard) (d : Reg) (a : Reg) (ad : AddrWord)
  /-- UATOM_AND (R206). -/
  | uatomAnd (q : Guard) (d : Reg) (a : Reg) (ad : AddrWord)
  /-- UATOM_OR (R206). -/
  | uatomOr (q : Guard) (d : Reg) (a : Reg) (ad : AddrWord)
  /-- UATOM_XOR (R206). -/
  | uatomXor (q : Guard) (d : Reg) (a : Reg) (ad : AddrWord)
  /-- UATOM_XCHG (R206). -/
  | uatomXchg (q : Guard) (d : Reg) (a : Reg) (ad : AddrWord)
  /-- UATOM_CAS (R206). -/
  | uatomCas (q : Guard) (d : Reg) (a : Reg) (b : Reg) (ad : AddrWord)
  /-- UATOM_FADD_F32 (R206). -/
  | uatomFaddF32 (q : Guard) (d : Reg) (a : Reg) (ad : AddrWord)
  /-- UATOM_FXADD (R206). -/
  | uatomFxadd (q : Guard) (d : Reg) (a : Reg) (ad : AddrWord)
  /-- UBRA (R221). -/
  | ubra (q : Guard) (o : BitVec 22)
  /-- UCALL (R221). -/
  | ucall (q : Guard) (d : BitVec 6) (o : BitVec 12)
  /-- UCALLX (R221). -/
  | ucallx (q : Guard) (d : BitVec 6) (a : BitVec 6)
  /-- URET (R221). -/
  | uret (q : Guard) (a : BitVec 6)
  /-- ULOOP (R221). -/
  | uloop (q : Guard) (d : BitVec 6) (o : BitVec 12)
  /-- SPAWN (R223). -/
  | spawn (q : Guard) (d : BitVec 6) (a : BitVec 6)
  /-- SFENCE (R224). -/
  | sfence (q : Guard) (d : BitVec 6) (a : BitVec 6) (b : BitVec 6)
  /-- BJOB (R251). -/
  | bjob (q : Guard) (d : BitVec 4) (a : BitVec 6) (b : BitVec 6)
  /-- FWAIT (R251). -/
  | fwait (q : Guard) (d : BitVec 6) (a : BitVec 4)
  /-- FTEST (R251). -/
  | ftest (q : Guard) (d : BitVec 3) (a : BitVec 4)
  /-- FCANCEL (R251). -/
  | fcancel (q : Guard) (a : BitVec 4)
  /-- FMOV_HS (R251). -/
  | fmovHs (q : Guard) (d : BitVec 6) (a : BitVec 4)
  /-- FMOV_SH (R251). -/
  | fmovSh (q : Guard) (d : BitVec 4) (a : BitVec 6)
  /-- TALLOC (R263). -/
  | talloc (q : Guard) (d : BitVec 6) (a : BitVec 6)
  /-- TFREE (R263). -/
  | tfree (q : Guard) (a : BitVec 6)
  /-- TSTAT (R263). -/
  | tstat (q : Guard) (d : BitVec 6) (a : BitVec 6)
  /-- BARINIT (R214). -/
  | barinit (q : Guard) (a : BitVec 6) (b : BitVec 6)
  /-- BARSAVE (R216). -/
  | barsave (q : Guard) (a : BitVec 6)
  /-- BARLOAD (R217). -/
  | barload (q : Guard) (a : BitVec 6)
  /-- MCST (R291). -/
  | mcst (q : Guard) (d : BitVec 4) (a : BitVec 6) (b : BitVec 6)
  /-- RIDGE (R295). -/
  | ridge (q : Guard) (d : BitVec 4) (a : BitVec 6)
  /-- RSTAT (R297). -/
  | rstat (q : Guard) (d : BitVec 6) (a : BitVec 6)
  /-- MBXRD (R310). -/
  | mbxrd (q : Guard) (d : BitVec 6) (a : BitVec 6)
  /-- MBXWR (R310). -/
  | mbxwr (q : Guard) (a : BitVec 6) (b : BitVec 6)
  /-- MOVS_FROM_SYS (R311). -/
  | movsFromSys (q : Guard) (d : BitVec 6) (a : BitVec 6)
  /-- MOVS_TO_SYS (R311). -/
  | movsToSys (q : Guard) (d : BitVec 6) (a : BitVec 6)
  /-- THERM (R312). -/
  | therm (q : Guard) (d : BitVec 6) (a : BitVec 6)
  /-- CLOCK (R313). -/
  | clock (q : Guard) (d : BitVec 6)
  /-- ACCRD (R246). -/
  | accrd (q : Guard) (d : BitVec 6) (a : BitVec 6)
  /-- ACCWR (R246). -/
  | accwr (q : Guard) (d : BitVec 6) (a : BitVec 6)
  /-- ACCZ (R246). -/
  | accz (q : Guard) (a : BitVec 6)
  /-- TRAP (R314). -/
  | trap (q : Guard) (d : BitVec 6) (a : BitVec 6) (b : BitVec 6)
  /-- ERET (R315). -/
  | eret (q : Guard)
  /-- ERET_ANS (R315). -/
  | eretAns (q : Guard) (a : BitVec 6) (b : BitVec 6)
  /-- TLBW (R317). -/
  | tlbw (q : Guard) (a : BitVec 6) (b : BitVec 6)
  /-- TLBI (R318). -/
  | tlbi (q : Guard) (a : BitVec 6) (b : BitVec 6)
  /-- MQPOP (R316). -/
  | mqpop (q : Guard) (d : BitVec 6)
  /-- OBJMAP (R320). -/
  | objmap (q : Guard) (d : BitVec 6) (a : BitVec 6) (b : BitVec 6)
  /-- OBJUNMAP (R321). -/
  | objunmap (q : Guard) (d : BitVec 6) (a : BitVec 6) (b : BitVec 6)
  /-- OBJSTAT (R322). -/
  | objstat (q : Guard) (d : BitVec 6) (a : BitVec 6)
  /-- HARVEST (R323). -/
  | harvest (q : Guard) (d : BitVec 6) (a : BitVec 6) (b : BitVec 6)
  /-- PREEMPT (R325). -/
  | preempt (q : Guard) (a : BitVec 6) (b : BitVec 6)
  /-- RESUME (R329). -/
  | resume (q : Guard) (a : BitVec 6) (b : BitVec 6)
  /-- HALT (R328). -/
  | halt (q : Guard)
  /-- MMA (R234). -/
  | mma (d : BitVec 6) (a : BitVec 6) (b : BitVec 6)
  /-- MZERO (R235). -/
  | mzero (d : BitVec 6)
  /-- MSCL (R233). -/
  | mscl (d : BitVec 6) (a : BitVec 6) (y : BitVec 3) (x : BitVec 3)
  /-- MLOOP (R238). -/
  | mloop (n : BitVec 2) (a : BitVec 6) (b : BitVec 6)
  /-- MJMP (R239). -/
  | mjmp (o : BitVec 22)
  /-- MBAR_W (R236). -/
  | mbarW (k : BitVec 3) (n : BitVec 10)
  /-- MBAR_A (R237). -/
  | mbarA (n : BitVec 10)
  /-- MBAR_A_DRAIN (R237). -/
  | mbarADrain (n : BitVec 10)
  /-- MEND (R240). -/
  | mend
  /-- BCOPY (R257). -/
  | bcopy (q : Guard) (d : BitVec 6) (a : BitVec 6) (b : BitVec 6)
  /-- BFETCH (R260). -/
  | bfetch (q : Guard) (d : BitVec 6) (a : BitVec 6)
  /-- BTLD (R257). -/
  | btld (q : Guard) (d : BitVec 6) (a : BitVec 6) (b : BitVec 6)
  /-- BTST (R257). -/
  | btst (q : Guard) (d : BitVec 6) (a : BitVec 6) (b : BitVec 6)
  /-- BGATH (R257). -/
  | bgath (q : Guard) (d : BitVec 6) (a : BitVec 6) (b : BitVec 6)
  /-- BSCAT (R257). -/
  | bscat (q : Guard) (d : BitVec 6) (a : BitVec 6) (b : BitVec 6)
  /-- BSTEP (R254). -/
  | bstep (q : Guard) (d : BitVec 6) (b : BitVec 6)
  /-- BLOCK (R261). -/
  | block (q : Guard) (d : BitVec 6) (a : BitVec 6) (b : BitVec 6)
  /-- BUNLK (R261). -/
  | bunlk (q : Guard) (a : BitVec 6)
  /-- BTSET (R259). -/
  | btset (q : Guard) (d : BitVec 6) (a : BitVec 6)
  /-- BACCD (R259). -/
  | baccd (q : Guard) (d : BitVec 6) (a : BitVec 6) (b : BitVec 6)
  /-- BREM (R260). -/
  | brem (q : Guard) (d : BitVec 6) (a : BitVec 6) (b : BitVec 6)
  /-- BDONE (R262). -/
  | bdone (q : Guard) (a : BitVec 6) (b : BitVec 6)
  /-- SURPLUS_PHASE_COMPLETE (R211). -/
  | surplusPhaseComplete (core : Nat) (blk : Nat) (bar : Nat)
  /-- COURSE_DEMOTION (R65). -/
  | courseDemotion (core : Nat) (slot : Nat)
  /-- COURSE_PROMOTION (R66). -/
  | coursePromotion (core : Nat) (slot : Nat)
  /-- ACTIVE_SET_TIMESLICE_EXPIRY (R65). -/
  | activeSetTimesliceExpiry (core : Nat) (slot : Nat)
  /-- JOB_PARSE (R51). -/
  | jobParse (bay : Nat) (lvl : Nat)
  /-- PLACEMENT_STEP (R62). -/
  | placementStep (bay : Nat)
  /-- PLACEMENT_STARVATION_TIMEOUT (R52). -/
  | placementStarvationTimeout (bay : Nat) (lvl : Nat)
  /-- BLOCK_START (R59). -/
  | blockStart (core : Nat) (blk : Nat)
  /-- FENCE_RECORD_READ (R54). -/
  | fenceRecordRead (bay : Nat) (lvl : Nat)
  /-- FENCE_COUNTER_POLL (R54). -/
  | fenceCounterPoll (bay : Nat) (lvl : Nat) (cond : Nat)
  /-- BLOCK_RETIREMENT (R43). -/
  | blockRetirement (core : Nat) (blk : Nat)
  /-- DONE_ADD_RECORD (R60). -/
  | doneAddRecord (bay : Nat) (acc : Nat)
  /-- NOTICE_QUEUE_DRAIN (R49). -/
  | noticeQueueDrain (bay : Nat)
  /-- CORE_MESSAGE_APPEND (R49). -/
  | coreMessageAppend (core : Nat)
  /-- HOST_MAILBOX_WRITE (R47). -/
  | hostMailboxWrite (bay : Nat) (w : HostWrite)
  /-- REGISTER_WRITE_OTHER (R425). -/
  | registerWriteOther (w : HostWrite)
  /-- HBM_EARLY_REFRESH (R68). -/
  | hbmEarlyRefresh (stack : Nat) (bank : Nat)
  /-- COPY_HIT (R270). -/
  | copyHit (acc : Nat)
  /-- HOME_READ (R268). -/
  | homeRead (acc : Nat)
  /-- LOAD_REPLY (R269). -/
  | loadReply (acc : Nat)
  /-- HOME_WRITE (R270). -/
  | homeWrite (acc : Nat)
  /-- COMPLETION_RECORD (R267). -/
  | completionRecord (acc : Nat)
  /-- FENCE_PASS (R272). -/
  | fencePass (core : Nat) (slot : Nat) (lane : Nat)
  /-- COPY_EXPIRY (R269). -/
  | copyExpiry (core : Nat) (gran : Nat)
  /-- L1_COPY_SWEEP (R269). -/
  | l1CopySweep (core : Nat)
  /-- PUBLICATION (R281). -/
  | publication (pkg : Nat) (group : Nat) (sector : Nat)
  /-- CXL_WRITE_COMPLETION (R275). -/
  | cxlWriteCompletion (acc : Nat)
  /-- CXL_SNOOP (R275). -/
  | cxlSnoop (pa : Nat) (data : List Byte)
  /-- CLOCK_SKEW_CHECK (R378). -/
  | clockSkewCheck
  /-- COLUMN_TEMP_REFRESH (R12). -/
  | columnTempRefresh (readings : List Sensors)
  /-- TRIP_RECOVERY (R424). -/
  | tripRecovery
  /-- POWER_INTERVAL (R422). -/
  | powerInterval (mw : Nat)
  /-- OPERATING_POINT_CHANGE (R421). -/
  | operatingPointChange (island : Nat) (mv : Nat) (mhz : Nat)
  /-- OPERATING_POINT_SETTLE (R421). -/
  | operatingPointSettle (island : Nat)
  /-- TLBI_COMPLETE (R318). -/
  | tlbiComplete (core : Nat) (slot : Nat)
  /-- SIDE_LOG_TIMEOUT (R369). -/
  | sideLogTimeout (acc : Nat)
  /-- OBJECT_REQUEST_RESEND (R110). -/
  | objectRequestResend (core : Nat) (name : Nat)
  /-- OBJECT_PARK_RETRY (R111). -/
  | objectParkRetry (acc : Nat)
  /-- OBJUNMAP_DRAIN_RETURN (R321). -/
  | objunmapDrainReturn (core : Nat) (slot : Nat)
  /-- OBJUNMAP_VACATE_STEP (R321). -/
  | objunmapVacateStep (core : Nat) (slot : Nat)
  /-- BATTEN_JOB_START (R248). -/
  | battenJobStart (core : Nat) (proc : Nat)
  /-- TRANSFER_PERFORMED (R258). -/
  | transferPerformed (core : Nat) (proc : Nat) (xfer : Nat)
  /-- TILE_FILL_COMPLETE (R258). -/
  | tileFillComplete (core : Nat) (proc : Nat) (xfer : Nat)
  /-- TILE_DRAIN_COMPLETE (R258). -/
  | tileDrainComplete (core : Nat) (proc : Nat) (xfer : Nat)
  /-- TILE_INTEGRITY_REPLAY (R397). -/
  | tileIntegrityReplay (core : Nat) (proc : Nat) (xfer : Nat) (acc : Nat)
  /-- MMA_UPDATE (R234). -/
  | mmaUpdate (core : Nat) (blk : Nat) (op : Nat) (row : Nat) (col : Nat)
  /-- MBAR_W_RELEASE (R236). -/
  | mbarWRelease (core : Nat) (blk : Nat)
  /-- MBAR_A_ARRIVAL (R237). -/
  | mbarAArrival (core : Nat) (blk : Nat)
  /-- MEND_STEP (R240). -/
  | mendStep (core : Nat) (blk : Nat)
  /-- BARSAVE_HELD_ADDS (R216). -/
  | barsaveHeldAdds (core : Nat) (blk : Nat)
  /-- SEQUENCER_STOP (R325). -/
  | sequencerStop (core : Nat) (blk : Nat)
  /-- YIELD_TRAP_ENTRY (R326). -/
  | yieldTrapEntry (core : Nat) (slot : Nat)
  /-- SWAP_OUT (R328). -/
  | swapOut (core : Nat) (blk : Nat)
  /-- FAULT_RECORD_DELIVERY (R339). -/
  | faultRecordDelivery (core : Nat)
  /-- SUPERVISOR_STALL_TIMEOUT (R340). -/
  | supervisorStallTimeout (bay : Nat)
  /-- FABRIC_INGRESS_REQUEST (R285). -/
  | fabricIngressRequest (pkt : FabReq)
  /-- REMOTE_REPLY (R406). -/
  | remoteReply (rep : FabReply)
  /-- REMOTE_TIMEOUT (R406). -/
  | remoteTimeout (tag : Nat)
  /-- PACKET_REPLAY (R408). -/
  | packetReplay (tag : Nat)
  /-- INCARNATION_ANNOUNCEMENT (R409). -/
  | incarnationAnnouncement (pkg : Nat) (bay : Nat) (inc : BitVec 16)
  /-- PLANE_DEAD (R410). -/
  | planeDead (k : Nat)
  /-- PLANE_REROUTE (R410). -/
  | planeReroute (k : Nat)
  /-- MCST_ACK (R291). -/
  | mcstAck (tag : Nat) (res : List (Nat × McstRes))
  /-- MCST_RESOLVE (R446). -/
  | mcstResolve (tag : Nat)
  /-- MCST_MEMBER_TIMEOUT (R411). -/
  | mcstMemberTimeout (tag : Nat) (peer : Nat)
  /-- RIDGE_VOTE_START (R295). -/
  | ridgeVoteStart (group : Nat)
  /-- RIDGE_COUNT (R295). -/
  | ridgeCount (pkg : Sender) (group : Nat) (n : Nat)
  /-- RIDGE_STAGE_TIMEOUT (R295). -/
  | ridgeStageTimeout (pkg : Nat) (group : Nat)
  /-- RIDGE_ANSWER (R295). -/
  | ridgeAnswer (group : Nat) (peer : Sender) (ans : RidgeAns)
  /-- RIDGE_ANSWER_TIMEOUT (R412). -/
  | ridgeAnswerTimeout (group : Nat) (peer : Nat)
  /-- RIDGE_PUBLISH_MSG (R295). -/
  | ridgePublishMsg (pkg : Sender) (group : Nat) (tp : Nat)
  /-- RIDGE_ABORT_MSG (R295). -/
  | ridgeAbortMsg (pkg : Sender) (group : Nat)
  /-- RIDGE_ABORT_RESEND (R412). -/
  | ridgeAbortResend (group : Nat)
  /-- RIDGE_ACK (R295). -/
  | ridgeAck (group : Nat) (peer : Sender)
  /-- RIDGE_PUBLISH_TIMEOUT (R414). -/
  | ridgePublishTimeout (group : Nat)
  /-- HOST_HDM_ACCESS (R301). -/
  | hostHdmAccess (bay : Nat) (pa : Nat) (op : HdmOp)
  /-- CXL_LINK_FAILURE (R377). -/
  | cxlLinkFailure (port : Port)
  /-- CXL_REQUEST_TIMEOUT (R377). -/
  | cxlRequestTimeout (acc : Nat)
  /-- CXL_LINK_UP (R377). -/
  | cxlLinkUp (port : Port)
  /-- PCIE_LINK_DOWN (R417). -/
  | pcieLinkDown
  /-- PAGE_REQUEST_ANSWER (R374). -/
  | pageRequestAnswer (bay : Nat) (data : W512)
  /-- PAGE_REQUEST_TIMEOUT (R374). -/
  | pageRequestTimeout (bay : Nat) (rid : Nat)
  /-- SOFFIT_SPLIT (R82). -/
  | soffitSplit (bay : Nat) (w : Nat)
  /-- OBJ_TABLES (R103). -/
  | objTables (bay : Nat)
  /-- LAYOUT_BASE (R252). -/
  | layoutBase (bay : Nat) (base : W64) (slots : Nat)
  /-- EXPORT_SET (R284). -/
  | exportSet (bay : Nat) (idx : Nat) (entry : BitVec 256)
  /-- MCG_SET (R289). -/
  | mcgSet (bay : Nat) (group : Nat) (members : BitVec 512)
  /-- EAVE_SET (R293). -/
  | eaveSet (bay : Nat) (die : Nat) (e : Nat)
  /-- WALKER_SET (R319). -/
  | walkerSet (bay : Nat) (pc : W64) (root : W64)
  /-- OBJ_REVOKE (R384). -/
  | objRevoke (bay : Nat) (name : W128) (op : Nat)
  /-- PAGE_REQUEST (R372). -/
  | pageRequest (bay : Nat) (vaddr : W64) (paddr : W64)
  /-- PAGE_RELEASE (R375). -/
  | pageRelease (bay : Nat) (paddr : W64)
  /-- BAY_SET (R428). -/
  | baySet (cmd : W512)
  /-- ATTEST (R431). -/
  | attest (cmd : W512)
  /-- BOOT_SET (R429). -/
  | bootSet (cmd : W512) (img : BootImage)
  /-- PERST_RELEASE (R426). -/
  | perstRelease
  /-- ROOT_STAGE_COMPLETE (R426). -/
  | rootStageComplete (t0 : Nat)
  /-- SERVICE_STAGE_COMPLETE (R426). -/
  | serviceStageComplete
  /-- SERVICE_FIRMWARE_RESTART (R430). -/
  | serviceFirmwareRestart
  /-- ILLEGAL_WORD (R346). -/
  | illegalWord (code : Nat) (reason : Nat) (pos : Nat) (word : W32)
  /-- PERST_ASSERT (R426). -/
  | perstAssert
  deriving DecidableEq, Repr

end Sys2Proof
end

