-- ==== Sys2Proof/Machine/State.lean ====
section
/-! DEFINITION. The state of one IZK-4400 package, as plain data, and the state right after reset. Everything the spec names is a
field; INVENTORY.md lists each with its rule and its value at reset. Fields marked "the model's own" are not the spec's
(log 5, 6). A number of a sparse table that is not listed holds the default of its type. -/

namespace Sys2Proof.Machine

/-! ## Lanes and courses -/

/-- The three barrier instructions (R37). -/
inductive BarKind where
  | a | w | aw
  deriving DecidableEq, Repr

/-- A barrier instruction as issued (R212), with the next issue of its lanes. -/
structure BarRef where
  kind : BarKind
  sreg : Bool
  peer : Bool
  rank : Nat
  num : Nat
  /-- index of the word in its issue (R347) -/
  pos : Nat
  next : W64
  deriving DecidableEq, Repr

/-- What a lane waits for at a long-latency supervisor word, BARSAVE or MCST (R216, R318, R321, R446). -/
inductive PendKind where
  | tlbi | unmapDrain | unmapVacate | barsave
  /-- MCST's loads of its source line (R446) -/
  | mcst
  deriving DecidableEq, Repr

/-- The accesses such a wait ends after, the frame concerned, and what its end writes. -/
structure Pend where
  kind : PendKind
  accs : List Nat
  frame : Nat
  d : Reg
  next : W64
  deriving DecidableEq, Repr

/-- A parked or reading WAIT (R203, R444): its base, offset, compare value and destination. -/
structure WaitRec where
  wide : Bool
  base : W64
  off : W64
  cmp : Nat
  d : Reg
  ev : Nat
  scope : Nat
  iss : Nat
  next : W64
  deriving DecidableEq, Repr

/-- The state of a thread (R21) with the reason it waits. -/
inductive LaneSt where
  | exited
  | ready
  /-- at a barrier instruction, not gathered (R213) -/
  | barrier (b : BarRef)
  /-- gathered at a BAR.AW whose arrival has not been applied yet (R277) -/
  | arriving (bar : Nat) (next : W64)
  /-- gathered, until the barrier's next phase completion (R213) -/
  | phase (bar : Nat) (next : W64)
  /-- a WAIT whose read is on its way -/
  | waitRead
  /-- a WAIT in the monitor table (R203) -/
  | monitor
  /-- a WAIT woken, its read to be repeated (R444) -/
  | woken
  /-- FWAIT on a queued or running future (R251), of an issue -/
  | future (h : W64) (d : Reg) (next : W64) (iss : Nat)
  /-- parked on an access (R90, R109, R112) -/
  | parked (acc : Nat)
  /-- waiting for a TRAP's answer (R314) -/
  | trap
  /-- at an ERET, until every live lane is there (R350) -/
  | eret
  | pend (p : Pend)
  /-- in a fault hold, with the next issue that SKIP goes to (R337, R445) -/
  | held (next : W64)
  /-- at a HALT (R328) -/
  | halted
  deriving DecidableEq, Repr

/-- Horizons H[4] to H[7] over returned records; H[0] to H[3] are 0 (R267). -/
structure Hor where
  h4 : Nat := 0
  h5 : Nat := 0
  h6 : Nat := 0
  h7 : Nat := 0
  deriving DecidableEq, Repr

/-- One lane: the thread's program counter, registers, fairness counter and state (R21, R24, R73, R267, R307). -/
structure Lane where
  pc : W64 := 0
  v : Map W32 := []
  p : BitVec 7 := 0
  fair : Nat := 0
  st : LaneSt := .exited
  wid : W64 := 0
  /-- saved PC and KIND of R307 -/
  spc : W64 := 0
  skind : Nat := 0
  hor : Hor := {}
  /-- loads issued before this identifier are performed before any later load (ACQ, R272) -/
  acq : Nat := 0
  /-- a release fence not yet passed: its scope and whether it also acquires (R205) -/
  fence : Option (Nat × Bool) := none
  wt : Option WaitRec := none
  deriving DecidableEq, Repr

/-- Uniform registers and predicates of a course or of a batten processor (R149). -/
structure Uni where
  s : Map W64 := []
  q : BitVec 7 := 0
  deriving DecidableEq, Repr

/-- An outstanding TRAP: destination and next issue (R314). -/
structure TrapOut where
  d : Reg
  next : W64
  deriving DecidableEq, Repr

/-- A fault record (R334). -/
structure FaultRec where
  loc : W128 := 0
  tflt : Nat := 0
  pc : W64 := 0
  aux : W64 := 0
  ticket : W64 := 0
  lmask : BitVec 8 := 0
  blk : Nat := 0
  agent : Nat := 0
  lf : Bool := false
  async : Bool := false
  cont : Bool := false
  held : Bool := false
  code : Nat := 0
  lost : Nat := 0
  deriving DecidableEq, Repr

/-- An ISSV held at one of its words (R220): its issue, the lanes that wait at it, its place, what it counts for, its rounding mode, the words still
to execute with their lanes, and the lanes of earlier words that fault. -/
structure IssvRun where
  iss : Nat
  mask : List Nat
  pc : W64
  next : W64
  word : W32
  pos : Nat
  counts : List Nat
  round : Option (BitVec 2)
  todo : List (W32 × List Nat)
  bad : List (Nat × FaultRec)
  deriving DecidableEq, Repr

/-- An MCST that reads its source line (R446): its issue, mask, place, operands as read, and the sectors that have come. -/
structure McstRun where
  iss : Nat
  mask : List Nat
  pc : W64
  dest : Nat
  ctl : Nat
  status : Nat
  ids : List Nat
  got : Map (List Byte) := []
  /-- the h register it writes -/
  hd : Nat := 0
  deriving DecidableEq, Repr

/-- One element of an ACCRD, or of an ACCWR or ACCZ with the value it writes (R246): a lane and its register, and the element's number. -/
inductive AccMove where
  | rd (lane reg elem : Nat)
  | wr (elem : Nat) (x : W32)
  deriving DecidableEq, Repr

/-- An ACCRD, ACCWR or ACCZ with elements still to be moved: its issue and mask, in ascending lane order (R243, R246). -/
structure AccOp where
  iss : Nat
  pc : W64
  lanes : List Nat
  left : List AccMove
  deriving DecidableEq, Repr

/-- One resident course (R27, R64, R305, R306). -/
structure Course where
  /-- block slot; 510 or 511 in the reserved courses (R34) -/
  blk : Nat := 0
  /-- block-relative index (R35) -/
  idx : Nat := 0
  lanes : List Lane := []
  u : Uni := {}
  h : Map W64 := []
  prv : Bool := false
  ts : Bool := false
  cause : Nat := 0
  addr : W64 := 0
  trap : Option TrapOut := none
  /-- open lookahead windows: issue identifier and what is left (R65) -/
  wins : List (Nat × Nat) := []
  active : Bool := false
  /-- time of the last promotion or demotion (R65, R66), and the core's cycles, in thousandths, at the last promotion -/
  since : Nat := 0
  cyc : Nat := 0
  /-- times of the last L-set and U-set issue (R67) -/
  lastL : Nat := 0
  lastU : Nat := 0
  /-- a yield trap is to be entered (R326) -/
  yield : Bool := false
  /-- ISSVs held at a word (R220) -/
  issv : List IssvRun := []
  /-- accumulator copies with elements still to be moved, oldest first (R246) -/
  accOps : List AccOp := []
  /-- MCSTs whose source line is on its way (R446) -/
  mcst : List McstRun := []
  /-- the issue whose result an s register waits for -/
  sres : Map Nat := []
  /-- the last issue of slice 0: identifier, PC, step and T (R32) -/
  lead : Option (Nat × W64 × Nat × Nat) := none
  deriving DecidableEq, Repr

/-! ## Blocks, barriers and the matrix sequencer -/

/-- A counted barrier (R211). -/
structure Barrier where
  count : W32 := 0
  expect : BitVec 16 := 0
  phase : BitVec 16 := 0
  deriving DecidableEq, Repr

/-- RUN of a sequencer (R230). -/
inductive Run where
  | running | waiting | ended
  deriving DecidableEq, Repr

/-- What the sequencer has issued and not yet done: an MMA with its operands as read (R234), an MZERO, an arrival,
the MEND (R235, R237, R240). -/
inductive SeqKind where
  | mma (ta tb : BitVec 3) (fa fb : List (List W32)) (sa : List W32) (sb : W32)
  | mzero
  | arrive (bar : Nat) (drain : Bool)
  | mend
  deriving DecidableEq, Repr

/-- One such operation: its rows and the update steps already performed, by 4096 × chunk + 64 × row + column. -/
structure SeqOp where
  id : Nat
  kind : SeqKind
  row0 : Nat := 0
  done : Map Bool := []
  deriving DecidableEq, Repr

/-- A matrix sequencer (R230). -/
structure Seq where
  pc : W64 := 0
  ta : BitVec 3 := 0
  tb : BitVec 3 := 0
  sav : Bool := false
  sareg : Reg := 0
  sb : W32 := 0x3F800000#32
  c : Map W32 := []
  arm : Map Bool := []
  w : Map (BitVec 16) := []
  run : Run := .running
  /-- the barrier and wait counter of an MBAR.W that waits, and the next word -/
  waitAt : Option (Nat × Nat × W64) := none
  ops : List SeqOp := []
  nextId : Nat := 0
  /-- stopped by PREEMPT; the address its image goes to (R325) -/
  stop : Option W64 := none
  stopped : Bool := false
  deriving DecidableEq, Repr

/-- Where a block stands: placed and not started (R59), running, in its save trap, swapped out, in its restore trap. -/
inductive BlkSt where
  | placed | running | saving | swapped | restoring
  deriving DecidableEq, Repr

/-- A region tile to be staged before a block starts (R58, R59). -/
structure Region where
  /-- address of its entry -/
  addr : W64
  tile : Nat
  lines : Nat
  stride : Nat
  base : W64
  deriving DecidableEq, Repr

/-- A gathered course's arrival whose release has not passed (R277): course slot, lanes, rank of the owning block, barrier, scope; the accesses
and issues before the gather, and the latest horizon at that scope over the records. -/
structure Arrival where
  slot : Nat
  lanes : List Nat
  rank : Nat
  bar : Nat
  scope : Nat
  bound : Nat
  issBound : Nat := 0
  hor : Nat
  deriving DecidableEq, Repr

/-- One block (R34, R59, R70, R81). -/
structure Block where
  bay : Nat := 0
  jseq : Nat := 0
  number : Nat := 0
  rank : Nat := 0
  cluster : Nat := 0
  clusterSize : Nat := 1
  st : BlkSt := .running
  threads : Nat := 0
  slots : List Nat := []
  vregs : Nat := 0
  nbar : Nat := 0
  tent : Nat := 0
  tlines : Nat := 0
  accu : Nat := 0
  mspc : W64 := 0
  entry : W64 := 0
  arg : W64 := 0
  regions : List Region := []
  cbnd : Bool := false
  bars : Map Barrier := []
  /-- accumulator elements, by 64 × row + column (R81) -/
  rows : Map W32 := []
  seq : Option Seq := none
  /-- image address of the evicted-block directory entry (R70) -/
  dir : Option W64 := none
  /-- save area of the trap in progress (R324) -/
  save : W64 := 0
  /-- stores of the sequencer image, once it is written out (R325) -/
  image : Option (List Nat) := none
  /-- no phase completes (R330) -/
  deferred : Bool := false
  /-- peer arrivals held in the core during BARSAVE, in arrival order (R216) -/
  heldAdds : List Nat := []
  /-- stores of the barrier image, by access identifier (R216) -/
  imgStores : List Nat := []
  /-- barrier arrivals whose release of R277 has not passed, oldest first -/
  arrivals : List Arrival := []
  /-- privilege and place of the course that issued the job's SPAWN: they stay where the job itself is gone (R357, R359) -/
  prv : Bool := false
  jcore : Nat := 0
  jslot : Nat := 0
  /-- the fills of its regions have been made (R59) -/
  staging : Bool := false
  deriving DecidableEq, Repr

/-! ## Tiles, futures and batten jobs -/

/-- Tile states (R78). -/
inductive TileSt where
  | empty | filling | ready | draining
  deriving DecidableEq, Repr

/-- An allocated tile-table entry and its bytes (R77, R80). -/
structure Tile where
  blk : Nat
  tile : Nat
  bset : Nat
  len : Nat
  st : TileSt
  gen : BitVec 12
  data : Map Byte
  deriving DecidableEq, Repr

/-- Future states (R250). -/
inductive FutSt where
  | queued | running | resolved | cancelled | faulted
  deriving DecidableEq, Repr

/-- What a future stands for (R250). -/
inductive FutKind where
  | job | mcst | ridge
  deriving DecidableEq, Repr

/-- An allocated future-table entry (R249). -/
structure Fut where
  st : FutSt
  val : W64
  gen : BitVec 8
  blk : Nat
  kind : FutKind
  /-- CODE of the fault that ended the job (R392) -/
  cause : Nat
  deriving DecidableEq, Repr

/-- A range-lock entry: first and last byte, write lock or read lock (R258, R261). -/
structure Lock where
  lo : Nat
  hi : Nat
  wr : Bool
  /-- the issue that made it (R279) -/
  iss : Nat := 0
  deriving DecidableEq, Repr

/-- The transfers of R257. -/
inductive XKind where
  | bcopy | bfetch | btld | btst | bgath | bscat | baccd | brem
  deriving DecidableEq, Repr

/-- One end of an element: a memory address, a place in the tile or the rows, an indexed place, or bytes in hand. -/
inductive XLoc where
  | mem (va : W64)
  /-- byte k of the tile; for BACCD element k of the accumulator rows -/
  | tile (k : Nat)
  /-- the index at this address names it: base, signed stride -/
  | index (list : W64) (base : W64) (stride : Int)
  | bytes (b : List Byte)
  deriving DecidableEq, Repr

/-- How far an element has come. -/
inductive XPhase where
  | todo | index | read | got (b : List Byte) | write | done
  deriving DecidableEq, Repr

/-- One element of a transfer (R254, R257). -/
structure XElem where
  src : XLoc
  dst : XLoc
  size : Nat
  ph : XPhase := .todo
  deriving DecidableEq, Repr

/-- A transfer in flight (R258). -/
structure Xfer where
  id : Nat
  /-- place among the processor's four, for its range-lock entries -/
  place : Nat
  kind : XKind
  pc : W64
  elems : List XElem
  /-- tile-table entry filled or drained -/
  ent : Option Nat
  /-- swizzle mode, and the banks of its tile that it has reached (R255) -/
  swz : Nat
  banks : BitVec 8 := 0
  /-- arrival of ARR (R256) -/
  arr : Option Nat
  rd : Option Lock
  wr : Option Lock
  /-- tile transition still to be made -/
  trans : Bool
  /-- performed: its locks are removed -/
  perf : Bool := false
  /-- tile id of its operand -/
  tid : W32 := 0
  replays : Nat
  sig : Bool
  ridge : Option Nat
  frame : Option Nat
  deriving DecidableEq, Repr

/-- A queued job (R247, R248). -/
structure JobReq where
  fut : Nat
  blk : Nat
  slot : Nat
  prv : Bool
  pc : W64
  args : List W64
  acq : Nat
  deriving DecidableEq, Repr

/-- A running batten job (R248). -/
structure Job where
  fut : Nat
  blk : Nat
  slot : Nat
  prv : Bool
  pc : W64
  u : Uni
  hor : Hor := {}
  acq : Nat := 0
  xfers : List Xfer := []
  locks : Map Lock := []
  frames : List Nat := []
  deriving DecidableEq, Repr

/-- A batten processor (R247, R255). -/
structure Proc where
  queue : List JobReq := []
  job : Option Job := none
  bankc : W32 := 0
  deriving DecidableEq, Repr

/-! ## Translation, copies, accesses -/

/-- A TLB entry: page base, size code, leaf (R90, R317). -/
structure TlbE where
  va : W64
  z : Nat
  leaf : W64
  deriving DecidableEq, Repr

/-- A miss-queue entry (R91, R316). -/
structure Miss where
  va : W64
  inc : BitVec 16
  qtr : Nat
  prv : Bool
  x : Bool
  w : Bool
  r : Bool
  service : Bool
  deriving DecidableEq, Repr

/-- An L1 granule copy: 64 bytes and the 24-bit expiry X (R265, R269). -/
structure Copy where
  data : List Byte
  exp : BitVec 24
  /-- the write that gave each of its sectors its value (the model's own, R271) -/
  stamp : Nat × Nat := (0, 0)
  deriving DecidableEq, Repr

/-- A line of L1 that holds copies: its set, its eviction priority and its last use (R74, R92). -/
structure Line where
  set : Nat
  ev : Nat
  used : Nat
  deriving DecidableEq, Repr

/-- A 64-byte sector in a soffit cache part: priority and last use of its line, and whether it is dirty (R86, R92, R275). -/
structure SofE where
  ev : Nat
  used : Nat
  dirty : Bool
  deriving DecidableEq, Repr

/-- A request of another package: package and tag, and the bay here and the plane by which its answers go (R285, R286, R287). -/
structure PeerReq where
  pkg : Nat
  tag : Nat
  bay : Nat
  plane : Nat
  deriving DecidableEq, Repr

/-- The agents of R266 that own accesses in flight. `orphan` owns what a kill or a containment has left undecided, with the
core and the bay it came from (R358, R341). -/
inductive Agent where
  | thread (core slot lane : Nat)
  | job (core proc : Nat)
  | seq (core blk : Nat)
  | core (core : Nat)
  | bayq (bay : Nat)
  /-- fabric ingress, on behalf of a request (R285) -/
  | ingress (p : PeerReq)
  /-- the staging of a placed block by its core (R59) -/
  | stage (core blk : Nat)
  /-- host ingress over PCIe and CXL -/
  | host
  /-- a service core of the eave die -/
  | service (n : Nat)
  | orphan (core : Option Nat) (bay : Nat)
  deriving DecidableEq, Repr

/-- Access kinds, in the numbers of R362. -/
inductive AccKind where
  | load | store | atomic | red | fetch | ldp | stp | wait | bread | bwrite
  deriving DecidableEq, Repr

/-- Where an access's value goes. -/
inductive Dest where
  | none
  | vreg (d : Reg) (sz : LdSize)
  | vold (d : Reg) (n : Nat)
  | pair (d : Reg)
  | wait
  | ureg (d : Reg) (sz : LdSize)
  | uold (d : Reg) (n : Nat)
  | xfer (id elem : Nat)
  /-- sector k of the source line of the MCST of an issue (R446) -/
  | mcst (iss k : Nat)
  /-- sector k of a region to be staged (R59) -/
  | stage (reg k : Nat)
  /-- none: its word is issued again once the access can be made -/
  | again
  deriving DecidableEq, Repr

/-- How far an access has come (R270, R364, R406). -/
inductive Phase where
  /-- in the miss queue (R364) -/
  | missed
  /-- waiting for its page's entry in service to complete (R316) -/
  | queued
  /-- in the side log (R364) -/
  | sideLog
  /-- parked on a frame's state (R112) -/
  | frame
  /-- an LDP parked on a name (R109) -/
  | name (n : W128)
  /-- on its way to the home of this physical address -/
  | flight (pa : Nat)
  /-- performed as a read; the reply is on its way (value, lease expiry, physical address) -/
  | replied (b : List Byte) (exp : Option Nat) (pa : Nat)
  /-- performed as a write; the record is on its way -/
  | recorded (r : Record) (old : List Byte) (pa : Nat)
  /-- performed and started on a CXL port; the record waits for XC (R275) -/
  | cxl (r : Record) (old : List Byte) (pa : Nat)
  /-- sent to a peer under a transaction tag -/
  | remote (tag : Nat)
  deriving DecidableEq, Repr

/-- One access of an issue buffer (R265). -/
structure Access where
  id : Nat
  /-- the issue it belongs to (R194) -/
  iss : Nat
  /-- where both slices of a course issued one word as members of one gang: the issue of slice 0, whose accesses are this one's fellows (R33, R194) -/
  gang : Nat := 0
  ag : Agent
  kind : AccKind
  /-- the address formed, and the address after the frame table (R362, R112) -/
  form : W64
  ea : W64
  size : Nat
  data : List Byte := []
  cmp : Nat := 0
  op : AtomOp := .add
  sig : Bool := false
  scope : Nat := 0
  ev : Nat := 0
  last : Bool := false
  /-- NOSC of its leaf (R89) -/
  nosc : Bool := false
  prv : Bool := false
  frame : Option Nat := none
  /-- it has passed checks 1 to 4 of R361: a retry makes the others only (R317) -/
  looked : Bool := false
  /-- a TLBW has retried it (R91) -/
  retried : Bool := false
  /-- it has faulted and the record has found no room: its job waits (R339, R395) -/
  stuck : Bool := false
  dest : Dest := .none
  /-- first word and next issue of the issue (R22, R334) -/
  pc : W64 := 0
  next : W64 := 0
  issv : Bool := false
  /-- lanes of the issue, for a fetch -/
  lanes : List Nat := []
  /-- loads of this agent below this identifier come first (R272) -/
  acq : Nat := 0
  ph : Phase := .missed
  /-- T at issue, at side-log entry (R369) or at the last retry (R111) -/
  t0 : Nat := 0
  /-- ridge group of a ridge-tagged write (R292) -/
  ridge : Option Nat := none
  /-- a TLBW has replayed this side-log entry, and a TRANSLATION record has been made for it (R367, R369) -/
  tried : Bool := false
  noted : Bool := false
  /-- the write that gave each sector of its granule the value read (the model's own, R271) -/
  stamp : Nat × Nat := (0, 0)
  deriving DecidableEq, Repr

/-- An outstanding object request (R110). -/
structure ObjReq where
  name : W128
  treq : Nat
  frame : Nat
  fv : Bool
  wr : Bool
  deriving DecidableEq, Repr

/-! ## Core, bay, slice -/

/-- One core (R19). -/
structure Core where
  courses : Map Course := []
  blocks : Map Block := []
  qtlb : Map (List TlbE) := []
  tlb : List TlbE := []
  mq : List Miss := []
  heldPages : List W64 := []
  copies : Map Copy := []
  /-- lines of L1 that hold copies, by line number: granule number / 4 -/
  lines : Map Line := []
  swept : Nat := 0
  tiles : Map Tile := []
  tileFree : List Nat := List.range 256
  tileGen : Map (BitVec 12) := []
  futs : Map Fut := []
  futFree : List Nat := List.range 256
  futGen : Map (BitVec 8) := []
  procs : Map Proc := []
  recs : List FaultRec := []
  reqs : List ObjReq := []
  /-- object requests and TRAP calls that wait for room in mailbox 14 (R49) -/
  msgs : List W512 := []
  deriving DecidableEq, Repr

/-- A mailbox (R46, R47). -/
structure Mailbox where
  entries : List W512 := []
  prod : W32 := 0
  cons : W32 := 0
  /-- since when mailbox 15 has held an unread entry with none read (R340) -/
  since : Nat := 0
  deriving DecidableEq, Repr

/-- An entry of a spawn-queue level (R50): a job or a fence, with the issuer's privilege and place. -/
structure SpawnE where
  jseq : Nat
  fence : Bool
  addr : W64
  prv : Bool
  core : Nat
  slot : Nat
  parsed : Bool := false
  /-- fence: conditions as read (CMP, counter address, VALUE) and which are latched (R54) -/
  conds : List (Nat × W64 × W64) := []
  latched : List Nat := []
  /-- job: next block number to be placed, since when it has not fitted (R51, R52) -/
  nextBlk : Nat := 0
  since : Option Nat := none
  starved : Bool := false
  deriving DecidableEq, Repr

/-- A job after its parse (R56, R60). -/
structure JobInfo where
  jseq : Nat
  tag : BitVec 16
  note : Bool
  done : W64
  prv : Bool
  lvl : Nat
  nblk : Nat
  left : Nat
  blkThreads : Nat
  clSize : Nat
  widBits : Nat
  tfin : Nat := 0
  hv : Bool
  hcol : Nat
  proto : Block
  core : Nat
  slot : Nat
  /-- access of the DONE add in flight (R60) -/
  add : Option Nat := none
  deriving DecidableEq, Repr

/-- A page request (R372). -/
structure PageReq where
  vaddr : W64
  paddr : W64
  treq : Nat
  inc : BitVec 16
  deriving DecidableEq, Repr

/-- A revocation-list entry (R384). -/
structure Revoked where
  name : W128
  frame : Nat
  gen : BitVec 4
  fv : Bool
  deriving DecidableEq, Repr

/-- A containment under way (R341, R342): the cores that have not stopped (step 2), whether steps 3 and 4 have been made, the records discarded so far, the
incarnation before the trigger, and the one before a further trigger whose record is to come. -/
structure Contain where
  stop : List Nat
  eave : Bool := false
  noted : Bool := false
  lost : Nat := 0
  old : BitVec 16 := 0
  again : Option (BitVec 16) := none
  deriving DecidableEq, Repr

/-- One bay (R44, R427). -/
structure Bay where
  formed : Bool := false
  inc : BitVec 16 := 0
  /-- a containment whose steps are not all made (R341) -/
  cont : Option Contain := none
  w : Nat := 0
  /-- W of the last SOFFIT_SPLIT answered OK (R343) -/
  split : Option Nat := none
  eave : Map Nat := []
  root : W64 := 0
  walkPc : W64 := 0
  svPc : W64 := 0
  /-- the boot image's own entry and root (R427) -/
  bootRoot : W64 := 0
  bootWalk : W64 := 0
  layBase : W64 := 0
  laySlots : Nat := 0
  otBase : Nat := 0
  otb : Nat := 0
  ftBase : Nat := 0
  fcnt : Nat := 0
  exports : Map (BitVec 256) := []
  revoked : List Revoked := []
  hot : BitVec 8 := 95
  mail : Map Mailbox := []
  notices : List W512 := []
  reserved : Nat := 0
  levels : Map (List SpawnE) := []
  jseq : Nat := 0
  jobs : List JobInfo := []
  pages : Map PageReq := []
  /-- requests whose answers wait for a place in the notice queue, in order (R49) -/
  heldAns : List Nat := []
  hor : Hor := {}
  acq : Nat := 0
  /-- the HDM range: HBM4 base, length, and the host physical base mapped onto it (R301) -/
  hdmBase : Nat := 0
  hdmLen : Nat := 0
  hdmHost : Nat := 0
  f104 : W32 := 0
  f108 : W32 := 0
  f10c : W32 := 0
  e840 : W32 := 0
  ringB : W64 := 0
  ringC : W32 := 0
  deriving DecidableEq, Repr

/-- Whether a bay is under containment, from the trigger step until step 5 is made (R341). -/
def Bay.contained (y : Bay) : Bool := y.cont.isSome

/-- Lease state of a granule at its home (R265, R268). -/
structure Lease where
  lvl : Nat := 0
  l0 : Nat := 0
  l1 : Nat := 0
  lr : Nat := 0
  deriving DecidableEq, Repr

/-- A monitor entry: the sector, the lanes (core, course slot, lane) waiting on it, and those of other packages (R204). -/
structure MonE where
  sector : Nat
  lanes : List (Nat × Nat × Nat)
  peers : List PeerReq := []
  deriving DecidableEq, Repr

/-- One home slice's tables (R96, R204). -/
structure Slice where
  mon : List MonE := []
  dirty : List Nat := []
  sat : Bool := false
  deriving DecidableEq, Repr

/-- Bytes whose value the spec leaves open: any value (R82), or one of the values the byte has held (R93). -/
structure Undef where
  lo : Nat
  hi : Nat
  held : Bool
  deriving DecidableEq, Repr

/-- What the quarter scheduler of a core finds of a course: whether it is eligible (R66), whether every slice of it is stalled (R65). -/
structure Look where
  core : Nat
  slot : Nat
  free : Bool
  stuck : Bool
  deriving DecidableEq, Repr

/-- A unit of stored data that a read cannot correct (R379). -/
inductive BadUnit where
  | memory (sector source : Nat)
  | copy (core gran : Nat)
  /-- 32 bytes of a tile: its table entry, byte / 32 -/
  | tile (core ent unit : Nat)
  /-- 8 elements of a block's accumulator rows: (64 × row + column) / 8 -/
  | row (core blk unit : Nat)
  /-- 8 v registers of a lane -/
  | vreg (core slot lane unit : Nat)
  /-- 4 s registers of a course, of a batten processor -/
  | sreg (core slot unit : Nat)
  | jreg (core proc unit : Nat)
  /-- the registers of a matrix sequencer -/
  | mreg (core blk : Nat)
  deriving DecidableEq, Repr

/-! ## The fabric, ridge groups, hosts -/

/-- How a packet leaves: the sending bay with its incarnation (R287), and the plane that carries it (R286); none for a message about no line, which
goes on every live plane (R409, R414). -/
structure Hop where
  bay : Nat
  inc : BitVec 16
  plane : Option Nat
  deriving DecidableEq, Repr

/-- What the package has sent (R283 to R298, R372, R409). The environment reads it. -/
inductive OutPkt where
  | request (h : Hop) (peer bay off tag : Nat) (inc : BitVec 16) (op : FabOp)
  | reply (h : Hop) (peer tag : Nat) (ans : FabAns)
  /-- with the incarnation held for the bay addressed at each member (R409) -/
  | mcast (h : Hop) (group tag off : Nat) (data : List Byte) (sig : Bool) (ridge : Option Nat) (incs : List (Nat × BitVec 16))
  | count (h : Hop) (peer group n : Nat)
  | publish (h : Hop) (peer group tp : Nat)
  | abort (h : Hop) (peer group : Nat)
  | ready (h : Hop) (peer group r : Nat)
  | refuse (h : Hop) (peer group code : Nat)
  | ack (h : Hop) (peer group : Nat)
  | announce (bay : Nat) (inc : BitVec 16)
  | cxlWrite (pa : Nat) (data : List Byte)
  | snoopAns (pa : Nat)
  | hdmAns (pa : Nat) (data : List Byte)
  | hostRing (bay n : Nat) (msg : W512)
  | report (pa : Nat) (leaf : Nat)
  deriving DecidableEq, Repr

/-- A remote request without its reply yet (R402, R406). -/
structure Txn where
  accs : List Nat
  peer : Nat
  bay : Nat
  plane : Nat
  off : Nat
  t0 : Nat
  bayOf : Nat
  replays : Nat := 0
  ridge : Option Nat := none
  deriving DecidableEq, Repr

/-- A multicast in flight (R291). -/
structure Mcst where
  core : Nat
  slot : Nat
  lane : Nat
  lanes : List Nat
  fut : Nat
  gen : BitVec 8
  dest : Nat
  status : W64
  group : Nat
  sig : Bool
  ridge : Option Nat
  members : List Nat
  pc : W64
  iss : Nat
  t0 : Nat
  /-- the acknowledgement has come; the status stores in flight -/
  acked : Bool := false
  val : W64 := 0
  /-- members of a ridge-tagged multicast that gave no answer (R411, R412) -/
  failed : List Nat := []
  /-- status stores, by access identifier (R446) -/
  stat : List Nat := []
  prv : Bool := false
  /-- the plane that carries its packet (R286, R410) -/
  plane : Nat := 0
  deriving DecidableEq, Repr

/-- States of a ridge group (R292). -/
inductive RidgeSt where
  | idle | opened | voting | publishing
  deriving DecidableEq, Repr

/-- The RIDGE a group serves (R295). -/
structure RidgeOp where
  core : Nat
  slot : Nat
  blk : Nat
  fut : Nat
  gen : BitVec 8
  pc : W64
  bay : Nat
  /-- its issue: writes of earlier issues are waited for (R295) -/
  iss : Nat
  deriving DecidableEq, Repr

/-- One ridge group of this package as initiator (R292, R412). -/
structure Ridge where
  st : RidgeSt := .idle
  counts : Map Nat := []
  marks : Map Nat := []
  bays : List Nat := []
  cur : Option RidgeOp := none
  waiting : List RidgeOp := []
  /-- RIDGEs of other bays that waited when a containment aborted the group: they resolve aborted with it (R341) -/
  doomed : List RidgeOp := []
  answers : Map RidgeAns := []
  acked : List Nat := []
  tp : Option Nat := none
  aborted : Option (Nat × Nat) := none
  sentAt : Nat := 0
  deriving DecidableEq, Repr

/-- A staged sector write in an eave buffer (R280, R292). -/
structure Staged where
  bay : Nat
  die : Nat
  sector : Nat
  bytes : List (Nat × Byte)
  sig : Bool
  deriving DecidableEq, Repr

/-- What this package, as a destination, holds for one (initiator package, group) (R280, R281, R295). -/
structure Stage where
  writes : List Staged := []
  staged : Nat := 0
  want : Option (Nat × Nat) := none
  ready : Bool := false
  tp : Option Nat := none
  /-- sectors not yet published -/
  left : List Nat := []
  srcBays : List Nat := []
  /-- the bay here that its first message addressed: its answers carry that bay's incarnation (R287; log 56) -/
  bay : Nat := 0
  deriving DecidableEq, Repr

/-- A multicast group table entry (R289). -/
structure McGroup where
  members : BitVec 512
  bay : Nat
  deriving DecidableEq, Repr

/-- A proxy copy of a peer sector granule: 64 bytes and the expiry of its lease (R276). -/
structure Proxy where
  data : List Byte
  exp : Nat
  /-- eviction priority and last use of its line (R92) -/
  ev : Nat := 0
  used : Nat := 0
  /-- the step in which the value of each of its sectors came (the model's own, R271) -/
  stamp : Nat × Nat := (0, 0)
  deriving DecidableEq, Repr

/-- STATE of function 0 (R425). -/
inductive PkgSt where
  | reset | root | service | ready | trip | failed
  deriving DecidableEq, Repr

/-- A voltage and frequency island (R421). -/
structure Island where
  mv : Nat := 400
  mhz : Nat := 2100
  /-- the clock to come once the voltage has settled, at the latest 10,000 ns after T of the change -/
  target : Option Nat := none
  since : Nat := 0
  /-- steps of 100 MHz that the power cap has taken off (R422) -/
  cut : Nat := 0
  /-- cycles run, in thousandths (R313) -/
  cyc : Nat := 0
  deriving DecidableEq, Repr

/-- A fabric plane (R410). -/
structure Plane where
  dead : Bool := false
  /-- lines are carried by this plane once the dead plane has drained -/
  via : Option Nat := none
  deriving DecidableEq, Repr

/-- A firmware image in flash: its bytes, its version, the verdict on its signature (R430; log 17). -/
structure Firmware where
  code : List Byte := []
  version : W32 := 0xFFFFFFFF#32
  sigOk : Bool := true
  deriving DecidableEq, Repr

/-- Package flash and the non-volatile counter (R426, R427, R430). -/
structure Flash where
  root : Firmware := {}
  service : Firmware := {}
  cfg : DomainCfg := ⟨0, 1, none, none⟩
  /-- bay of each global column; 0x1F for none -/
  part : Map Nat := []
  boot : Map BootImage := []
  leaf : Nat := 0
  deriving DecidableEq, Repr

/-- An answer of a Zhesor root service (R343): bay, status, reason or value. -/
structure SvcAns where
  bay : Nat
  op : String
  status : Nat
  val : Nat
  /-- what OBJ_TABLES returns: object table base, OTB, frame table base, FCNT (R103) -/
  tables : Option (Nat × Nat × Nat × Nat) := none
  deriving DecidableEq, Repr

/-! ## The model's own bookkeeping -/

/-- Prefixes of an issue as parsed (R148). -/
structure Pfx where
  imm : Option (BitVec 23) := none
  round : Option (BitVec 2) := none
  look : Nat := 0
  opnd : Option Reg := none
  deriving DecidableEq, Repr

/-- Who issues a word: a course, a batten job, a matrix sequencer (R156). -/
inductive Issuer where
  | course (core slot : Nat)
  | job (core proc : Nat)
  | seq (core blk : Nat)
  deriving DecidableEq, Repr

/-- The issue being executed (the model's own): issuer, issue mask, first word, own word, next issue (R22, R209). -/
structure Issue where
  who : Issuer
  mask : List Nat := []
  pc : W64 := 0
  wpc : W64 := 0
  next : W64 := 4
  pfx : Pfx := {}
  word : W32 := 0
  pos : Nat := 0
  id : Nat := 0
  /-- the issue of slice 0 that this one of slice 1 forms one gang with (R33) -/
  gang : Nat := 0
  /-- slices the issue counts for (R24), as slice numbers 0 and 1 -/
  counts : List Nat := []
  issv : Bool := false
  deriving DecidableEq, Repr

/-- A service core (R17, R266): its horizons, the bound its last FENCE set on its loads, and a FENCE not yet passed. Its registers and its
program are not Kraoth's. -/
structure SvcCore where
  hor : Hor := {}
  acq : Nat := 0
  fence : Bool := false
  deriving DecidableEq, Repr

/-- What a service core issues: a load or a store of one sector at a physical address, or an RV64 FENCE (R266). -/
inductive SvcOp where
  | load (pa size : Nat)
  | store (pa : Nat) (data : List Byte)
  | fence
  deriving DecidableEq, Repr

/-- One scheduled step (the model's own): an issue of a slice, a batten processor or a sequencer, an event, or something the
environment does (a clock drifting, a stored bit failing, a TLB entry being lost to replacement, outside power state). -/
inductive Action where
  | slice (core slot sl : Nat)
  | batten (core proc : Nat)
  | matrix (core blk : Nat)
  | event (i : Instr)
  | drift (unit : Nat) (d : Int)
  | softError (u : BadUnit)
  /-- the regions of a placed block begin to be staged, or a fill that found no room is looked up again (R59) -/
  | stage (core blk : Nat)
  /-- a service core issues, or its FENCE passes -/
  | service (n : Nat) (op : SvcOp)
  /-- the ISSV held at a PC of a course goes on at the word that holds it (R220) -/
  | issv (core slot : Nat) (pc : W64)
  /-- the ERET of a course that waits for a sequencer image goes on (R329) -/
  | eret (core slot : Nat)
  /-- the next element of a course's accumulator copies is moved (R243, R246) -/
  | accum (core slot : Nat)
  /-- the next step of a bay's containment, step 2 of it at a core (R341) -/
  | contain (bay core : Nat)
  /-- Zhesor root sets a CXL port's timeout (R377) -/
  | portTimeout (p : Port) (ns : Nat)
  deriving DecidableEq, Repr, Inhabited

/-- The package (R10, R17, R19). -/
structure State where
  /-- global time T in ns (R265) -/
  t : Nat := 0
  /-- each unit's difference from T; cores 0 to 255, slices 256 to 511 (R265) -/
  skew : Map Int := []
  /-- units in the safe mode of R378 -/
  safe : List Nat := []
  st : PkgSt := .reset
  /-- the state in which the last trip found the package (R424) -/
  tripFrom : PkgSt := .ready
  pkgid : BitVec 9 := 0
  members : BitVec 512 := 0
  fto : Nat := 2000000
  pl : Nat := 10000
  pcap : Nat := 2600
  power : Nat := 0
  /-- T of the end of the last measured interval (R422) -/
  powerAt : Option Nat := none
  colhot : List Nat := []
  sensors : Map Sensors := []
  /-- T of the last refresh of the sensors (R12) -/
  sensedAt : Option Nat := none
  booterr : List Nat := []
  /-- a management command written and not yet answered (R429) -/
  cmd : Option W512 := none
  ans : W512 := 0
  /-- the boot images as loaded at each bay's last formation (R427, R431) -/
  loaded : Map BootImage := []
  /-- identifiers of the stores of an ATTEST's report that are not complete: the first, and the one after the last (R431) -/
  report : Option (Nat × Nat) := none
  flash : Flash := {}
  /-- bay of each global column (R44) -/
  cols : Map Nat := []
  islands : Map Island := []
  off : Bool := false
  banked : Map Nat := []
  hUp : Bool := true
  mUp : Bool := true
  hTo : Nat := 1000000
  mTo : Nat := 1000000
  planes : Map Plane := []
  heldPkts : List OutPkt := []
  peerInc : Map (BitVec 16) := []
  mcg : Map McGroup := []
  ridges : Map Ridge := []
  /-- staged groups by 256 × initiator package + group -/
  stages : Map Stage := []
  txns : Map Txn := []
  mcsts : Map Mcst := []
  proxies : Map Proxy := []
  /-- lanes of this package in monitor tables of other packages, by the tag of their read (R203, R204) -/
  peerMon : Map (Nat × Nat × Nat) := []
  out : List OutPkt := []
  svc : List SvcAns := []
  /-- calls of PAGE_RELEASE not answered yet: bay and page (R344, R375) -/
  svcWait : List (Nat × Nat) := []
  bays : Map Bay := []
  cores : Map Core := []
  slices : Map Slice := []
  /-- lease state by granule number pa / 64 (R265) -/
  leases : Map Lease := []
  /-- memory: physical byte addresses in strictly rising order, no byte equal to 0 (log 1) -/
  mem : List Host.Cell := []
  undef : List Undef := []
  /-- earlier values of bytes, newest first (R93; the model's own record of "has held") -/
  hist : Map (List Byte) := []
  bad : List BadUnit := []
  /-- the soffit cache part of each die, by granule number pa / 64 (R13, R82, R86) -/
  soffit : Map (Map SofE) := []
  /-- the four service cores (R17) -/
  services : Map SvcCore := []
  /-- horizons of host ingress (R266, R267) -/
  hostHor : Hor := {}
  accs : List Access := []
  /-- the latest write of each sector, by its step: the home's order of writes (the model's own, R271; log 85) -/
  wrote : Map Nat := []
  /-- the latest write of each sector that each agent has seen (the model's own: no older copy serves it, R271; log 85) -/
  seen : List (Agent × Nat × Nat) := []
  /-- the model's own: identifiers given out, schedule and free-value counters, chosen next steps, current issue -/
  nextAcc : Nat := 1
  nextIss : Nat := 1
  nextTag : Nat := 1
  stepNo : Nat := 0
  sched : Nat := 0
  free : Nat := 0
  agenda : List (Nat × Action) := []
  issue : Option Issue := none
  /-- the model's own: what the quarter schedulers find as they choose this step (R65, R66; log 5) -/
  looks : List Look := []
  deriving DecidableEq, Repr

/-- The package before PERST# is released (R426): every field at the value of INVENTORY.md, section State. -/
def State.reset : State := {}

/-- Why the machine stops. -/
inductive Fault where
  /-- Raised by `exec` when an instruction word is executed and no agent is issuing it (a state no step makes). It is no fault of the hardware;
  stopping there is safe. -/
  | noIssuer
  deriving DecidableEq, Repr

/-- Why an instruction has no meaning. -/
inductive Refusal where
  /-- Raised by the dispatcher for a row that has no meaning yet; safe. -/
  | notModelled (mnemonic : String)
  deriving DecidableEq, Repr

end Sys2Proof.Machine
end

