-- ==== Sys2Proof/Config.lean ====
section
/-! DEFINITION. What the spec leaves open: free values, with no body, so that no proof can see what they are (log 5, 6, 17). Each is
applied to a counter of the state or to the operands it depends on. -/

namespace Sys2Proof.Config

/-- The step taken next when the agenda is empty: how many ns pass, and what happens. Every permitted order of steps is some value
of it (R270, R65, R66; log 5). -/
opaque schedule : Nat → Nat × Machine.Action

/-- A byte whose value the spec leaves open (R82; log 6). -/
opaque freeByte : Nat → Byte

/-- A choice among what the spec permits (R93, R358, TLB replacement; log 6). -/
opaque freeChoice : Nat → Nat

/-- Whether the fetch of a word that a copy of the core could serve is served by it, or performed at the home, in a step and for a granule (R270; log 8). -/
opaque copyServes : Nat → Nat → Bool

/-- Base and length, in 64 KiB pages, of the HDM range that Zhesor root sets for a bay, and the host physical base mapped onto it (R301; log 17). -/
opaque hdmRange : Nat → Nat × Nat × Nat

/-- Where Zhesor root places a bay's object table and frame table, in 64 KiB pages, with OTB and FCNT (R103; log 17). -/
opaque objTables : Nat → Nat × Nat × Nat × Nat

/-- The fused minimum version of a kind of image (R430). -/
opaque minVersion : FwKind → W32

/-- Whether the bytes after an image are the LMS signature of the bytes before them under the fused key (R427, R430; log 121). -/
opaque imageSigned : List Byte → List Byte → Bool

/-- The bytes of an attestation report over a nonce, package id, root image, service firmware, boot images as loaded, bay partition, incarnations and
leaf index: the SHA-256 digests and the LMS signature are those of RFC 8554 and are not computed here (R430, R431; log 17). -/
opaque report : BitVec 256 → BitVec 9 → List Byte × List Byte → List (Nat × BootImage) → List (Nat × Nat) → List Nat → Nat → List Byte

end Sys2Proof.Config
end

