-- ==== Sys2Proof/Machine/Maps.lean ====
section
/-! DEFINITION. Reading and writing the sparse tables of the state. -/

namespace Sys2Proof.Machine

/-- The value listed for a number. -/
def mget? {α : Type} : Map α → Nat → Option α
  | [], _ => none
  | (k, v) :: m, n => if k = n then some v else mget? m n

/-- The value at a number, the default where none is listed. -/
def mget {α : Type} (m : Map α) (n : Nat) (d : α) : α := (mget? m n).getD d

/-- Write one number; entries stay in rising order where they were. -/
def mset {α : Type} : Map α → Nat → α → Map α
  | [], n, x => [(n, x)]
  | (k, v) :: m, n, x => if k = n then (n, x) :: m else if n < k then (n, x) :: (k, v) :: m else (k, v) :: mset m n x

/-- Remove a number. -/
def mdel {α : Type} (m : Map α) (n : Nat) : Map α := m.filter (fun e => e.1 != n)

/-- Numbers listed. -/
def mkeys {α : Type} (m : Map α) : List Nat := m.map (·.1)

end Sys2Proof.Machine
end

