-- ==== Sys2Proof/Machine/Operands.lean ====
section
/-! DEFINITION. Every operand form of the instruction words: which registers a word names and how (R150), which fields must be zero
(R141, R190, R212, R233), which prefixes it accepts (R147, R148, R179, R191, R208, R231, R309), and which agent executes it (R156). -/

namespace Sys2Proof.Machine

/-- Bytes of a load size (R154). -/
def ldBytes : LdSize → Nat
  | .z8 => 1 | .s8 => 1 | .z16 => 2 | .s16 => 2 | .b32 => 4 | .b64 => 8 | .b128 => 16

/-- Bytes of a store size (R154). -/
def stBytes : StSize → Nat
  | .b8 => 1 | .b16 => 2 | .b32 => 4 | .b64 => 8 | .b128 => 16

/-- v registers that hold n bytes. -/
def vRegs (n : Nat) : Nat := if n ≤ 4 then 1 else n / 4

/-- s registers that hold n bytes. -/
def sRegs (n : Nat) : Nat := if n ≤ 8 then 1 else 2

/-- The register files an instruction word can name (R149). -/
inductive RFile where
  | v | s | p | q | h
  deriving DecidableEq, Repr

/-- A register group a word names: file, first number, length, alignment (R150), whether it is written and whether read. -/
structure RegUse where
  file : RFile
  r : Nat
  n : Nat
  align : Nat
  wr : Bool
  rd : Bool
  deriving DecidableEq, Repr

/-- A written group. -/
def RegUse.w (file : RFile) (r n align : Nat) : RegUse := ⟨file, r, n, align, true, false⟩
/-- A read group. -/
def RegUse.r' (file : RFile) (r n align : Nat) : RegUse := ⟨file, r, n, align, false, true⟩
/-- A group read and written. -/
def RegUse.rw (file : RFile) (r n align : Nat) : RegUse := ⟨file, r, n, align, true, true⟩

/-- Width of a 32-bit or 64-bit form in v registers. -/
def vWide (w : Bool) : Nat := if w then 2 else 1

/-- The registers each word names, apart from its guard, from a C operand (`usesC`) and from the operands of MOVS, barrier and matrix words, whose kind depends on a value. -/
def regUses : Instr → List RegUse
  | .add _ d a b => [.w .v d.toNat 1 1, .r' .v a.toNat 1 1, .r' .v b.toNat 1 1]
  | .sub _ d a b => [.w .v d.toNat 1 1, .r' .v a.toNat 1 1, .r' .v b.toNat 1 1]
  | .and _ d a b => [.w .v d.toNat 1 1, .r' .v a.toNat 1 1, .r' .v b.toNat 1 1]
  | .or _ d a b => [.w .v d.toNat 1 1, .r' .v a.toNat 1 1, .r' .v b.toNat 1 1]
  | .xor _ d a b => [.w .v d.toNat 1 1, .r' .v a.toNat 1 1, .r' .v b.toNat 1 1]
  | .andn _ d a b => [.w .v d.toNat 1 1, .r' .v a.toNat 1 1, .r' .v b.toNat 1 1]
  | .shl _ d a b => [.w .v d.toNat 1 1, .r' .v a.toNat 1 1, .r' .v b.toNat 1 1]
  | .shr _ d a b => [.w .v d.toNat 1 1, .r' .v a.toNat 1 1, .r' .v b.toNat 1 1]
  | .sar _ d a b => [.w .v d.toNat 1 1, .r' .v a.toNat 1 1, .r' .v b.toNat 1 1]
  | .min _ d a b => [.w .v d.toNat 1 1, .r' .v a.toNat 1 1, .r' .v b.toNat 1 1]
  | .max _ d a b => [.w .v d.toNat 1 1, .r' .v a.toNat 1 1, .r' .v b.toNat 1 1]
  | .minui _ d a b => [.w .v d.toNat 1 1, .r' .v a.toNat 1 1, .r' .v b.toNat 1 1]
  | .maxui _ d a b => [.w .v d.toNat 1 1, .r' .v a.toNat 1 1, .r' .v b.toNat 1 1]
  | .abs _ d a => [.w .v d.toNat 1 1, .r' .v a.toNat 1 1]
  | .neg _ d a => [.w .v d.toNat 1 1, .r' .v a.toNat 1 1]
  | .mul _ d a b => [.w .v d.toNat 1 1, .r' .v a.toNat 1 1, .r' .v b.toNat 1 1]
  | .mulhi _ d a b => [.w .v d.toNat 1 1, .r' .v a.toNat 1 1, .r' .v b.toNat 1 1]
  | .mulhiu _ d a b => [.w .v d.toNat 1 1, .r' .v a.toNat 1 1, .r' .v b.toNat 1 1]
  | .mad _ d a b => [.w .v d.toNat 1 1, .r' .v a.toNat 1 1, .r' .v b.toNat 1 1]
  | .popc _ d a => [.w .v d.toNat 1 1, .r' .v a.toNat 1 1]
  | .clz _ d a => [.w .v d.toNat 1 1, .r' .v a.toNat 1 1]
  | .brev _ d a => [.w .v d.toNat 1 1, .r' .v a.toNat 1 1]
  | .bfx _ d a b => [.w .v d.toNat 1 1, .r' .v a.toNat 2 2, .r' .v b.toNat 1 1]
  | .bfi _ d a b => [.w .v d.toNat 1 1, .r' .v a.toNat 1 1, .r' .v b.toNat 1 1]
  | .icmpEq _ d a b => [.w .p d.toNat 1 1, .r' .v a.toNat 1 1, .r' .v b.toNat 1 1]
  | .icmpNe _ d a b => [.w .p d.toNat 1 1, .r' .v a.toNat 1 1, .r' .v b.toNat 1 1]
  | .icmpLt _ d a b => [.w .p d.toNat 1 1, .r' .v a.toNat 1 1, .r' .v b.toNat 1 1]
  | .icmpLe _ d a b => [.w .p d.toNat 1 1, .r' .v a.toNat 1 1, .r' .v b.toNat 1 1]
  | .icmpGt _ d a b => [.w .p d.toNat 1 1, .r' .v a.toNat 1 1, .r' .v b.toNat 1 1]
  | .icmpGe _ d a b => [.w .p d.toNat 1 1, .r' .v a.toNat 1 1, .r' .v b.toNat 1 1]
  | .icmpLtui _ d a b => [.w .p d.toNat 1 1, .r' .v a.toNat 1 1, .r' .v b.toNat 1 1]
  | .icmpLeui _ d a b => [.w .p d.toNat 1 1, .r' .v a.toNat 1 1, .r' .v b.toNat 1 1]
  | .icmpGtui _ d a b => [.w .p d.toNat 1 1, .r' .v a.toNat 1 1, .r' .v b.toNat 1 1]
  | .icmpGeui _ d a b => [.w .p d.toNat 1 1, .r' .v a.toNat 1 1, .r' .v b.toNat 1 1]
  | .pand _ d a b => [.w .p d.toNat 1 1, .r' .p a.toNat 1 1, .r' .p b.toNat 1 1]
  | .por _ d a b => [.w .p d.toNat 1 1, .r' .p a.toNat 1 1, .r' .p b.toNat 1 1]
  | .pxor _ d a b => [.w .p d.toNat 1 1, .r' .p a.toNat 1 1, .r' .p b.toNat 1 1]
  | .pandn _ d a b => [.w .p d.toNat 1 1, .r' .p a.toNat 1 1, .r' .p b.toNat 1 1]
  | .pnot _ d a => [.w .p d.toNat 1 1, .r' .p a.toNat 1 1]
  | .p2v _ d a => [.w .v d.toNat 1 1, .r' .p a.toNat 1 1]
  | .v2p _ d a => [.w .p d.toNat 1 1, .r' .v a.toNat 1 1]
  | .addi _ d a _ => [.w .v d.toNat 1 1, .r' .v a.toNat 1 1]
  | .andi _ d a _ => [.w .v d.toNat 1 1, .r' .v a.toNat 1 1]
  | .ori _ d a _ => [.w .v d.toNat 1 1, .r' .v a.toNat 1 1]
  | .xori _ d a _ => [.w .v d.toNat 1 1, .r' .v a.toNat 1 1]
  | .shli _ d a _ => [.w .v d.toNat 1 1, .r' .v a.toNat 1 1]
  | .shri _ d a _ => [.w .v d.toNat 1 1, .r' .v a.toNat 1 1]
  | .sari _ d a _ => [.w .v d.toNat 1 1, .r' .v a.toNat 1 1]
  | .roli _ d a _ => [.w .v d.toNat 1 1, .r' .v a.toNat 1 1]
  | .mov16 _ d _ => [.w .v d.toNat 1 1]
  | .mov16Hi _ d _ => [.rw .v d.toNat 1 1]
  | .add64 _ d a b => [.w .v d.toNat 2 2, .r' .v a.toNat 2 2, .r' .v b.toNat 2 2]
  | .sub64 _ d a b => [.w .v d.toNat 2 2, .r' .v a.toNat 2 2, .r' .v b.toNat 2 2]
  | .padd _ d a b => [.w .v d.toNat 2 2, .r' .v a.toNat 2 2, .r' .v b.toNat 1 1]
  | .shl64 _ d a b => [.w .v d.toNat 2 2, .r' .v a.toNat 2 2, .r' .v b.toNat 1 1]
  | .shr64 _ d a b => [.w .v d.toNat 2 2, .r' .v a.toNat 2 2, .r' .v b.toNat 1 1]
  | .sar64 _ d a b => [.w .v d.toNat 2 2, .r' .v a.toNat 2 2, .r' .v b.toNat 1 1]
  | .mulw _ d a b => [.w .v d.toNat 2 2, .r' .v a.toNat 1 1, .r' .v b.toNat 1 1]
  | .mulwui _ d a b => [.w .v d.toNat 2 2, .r' .v a.toNat 1 1, .r' .v b.toNat 1 1]
  | .mov64 _ d a => [.w .v d.toNat 2 2, .r' .v a.toNat 2 2]
  | .mov _ d a => [.w .v d.toNat 1 1, .r' .v a.toNat 1 1]
  | .sel _ d a b k => [.w .v d.toNat 1 1, .r' .v a.toNat 1 1, .r' .v b.toNat 1 1, .r' .p k.toNat 1 1]
  | .pick _ d a b => [.w .v d.toNat 1 1, .r' .v a.toNat 1 1, .r' .v b.toNat 1 1]
  | .rotu _ d a b => [.w .v d.toNat 1 1, .r' .v a.toNat 1 1, .r' .v b.toNat 1 1]
  | .rotd _ d a b => [.w .v d.toNat 1 1, .r' .v a.toNat 1 1, .r' .v b.toNat 1 1]
  | .bfly _ d a b => [.w .v d.toNat 1 1, .r' .v a.toNat 1 1, .r' .v b.toNat 1 1]
  | .lany _ d a => [.w .p d.toNat 1 1, .r' .p a.toNat 1 1]
  | .lall _ d a => [.w .p d.toNat 1 1, .r' .p a.toNat 1 1]
  | .lmask _ d a => [.w .v d.toNat 1 1, .r' .p a.toNat 1 1]
  | .combAdd _ d a => [.w .v d.toNat 1 1, .r' .v a.toNat 1 1]
  | .combMin _ d a => [.w .v d.toNat 1 1, .r' .v a.toNat 1 1]
  | .combMax _ d a => [.w .v d.toNat 1 1, .r' .v a.toNat 1 1]
  | .combMinui _ d a => [.w .v d.toNat 1 1, .r' .v a.toNat 1 1]
  | .combMaxui _ d a => [.w .v d.toNat 1 1, .r' .v a.toNat 1 1]
  | .combAnd _ d a => [.w .v d.toNat 1 1, .r' .v a.toNat 1 1]
  | .combOr _ d a => [.w .v d.toNat 1 1, .r' .v a.toNat 1 1]
  | .combXor _ d a => [.w .v d.toNat 1 1, .r' .v a.toNat 1 1]
  | .fadd _ d a b => [.w .v d.toNat 1 1, .r' .v a.toNat 1 1, .r' .v b.toNat 1 1]
  | .fsub _ d a b => [.w .v d.toNat 1 1, .r' .v a.toNat 1 1, .r' .v b.toNat 1 1]
  | .fmul _ d a b => [.w .v d.toNat 1 1, .r' .v a.toNat 1 1, .r' .v b.toNat 1 1]
  | .ffma _ d a b => [.w .v d.toNat 1 1, .r' .v a.toNat 1 1, .r' .v b.toNat 1 1]
  | .fmin _ d a b => [.w .v d.toNat 1 1, .r' .v a.toNat 1 1, .r' .v b.toNat 1 1]
  | .fmax _ d a b => [.w .v d.toNat 1 1, .r' .v a.toNat 1 1, .r' .v b.toNat 1 1]
  | .fabs _ d a => [.w .v d.toNat 1 1, .r' .v a.toNat 1 1]
  | .fneg _ d a => [.w .v d.toNat 1 1, .r' .v a.toNat 1 1]
  | .fcpys _ d a b => [.w .v d.toNat 1 1, .r' .v a.toNat 1 1, .r' .v b.toNat 1 1]
  | .fcmpEq _ d a b => [.w .p d.toNat 1 1, .r' .v a.toNat 1 1, .r' .v b.toNat 1 1]
  | .fcmpNe _ d a b => [.w .p d.toNat 1 1, .r' .v a.toNat 1 1, .r' .v b.toNat 1 1]
  | .fcmpLt _ d a b => [.w .p d.toNat 1 1, .r' .v a.toNat 1 1, .r' .v b.toNat 1 1]
  | .fcmpLe _ d a b => [.w .p d.toNat 1 1, .r' .v a.toNat 1 1, .r' .v b.toNat 1 1]
  | .fcmpGt _ d a b => [.w .p d.toNat 1 1, .r' .v a.toNat 1 1, .r' .v b.toNat 1 1]
  | .fcmpGe _ d a b => [.w .p d.toNat 1 1, .r' .v a.toNat 1 1, .r' .v b.toNat 1 1]
  | .fcmpUnord _ d a b => [.w .p d.toNat 1 1, .r' .v a.toNat 1 1, .r' .v b.toNat 1 1]
  | .fcmpOrd _ d a b => [.w .p d.toNat 1 1, .r' .v a.toNat 1 1, .r' .v b.toNat 1 1]
  | .addF16x2 _ d a b => [.w .v d.toNat 1 1, .r' .v a.toNat 1 1, .r' .v b.toNat 1 1]
  | .subF16x2 _ d a b => [.w .v d.toNat 1 1, .r' .v a.toNat 1 1, .r' .v b.toNat 1 1]
  | .mulF16x2 _ d a b => [.w .v d.toNat 1 1, .r' .v a.toNat 1 1, .r' .v b.toNat 1 1]
  | .fmaF16x2 _ d a b => [.w .v d.toNat 1 1, .r' .v a.toNat 1 1, .r' .v b.toNat 1 1]
  | .minF16x2 _ d a b => [.w .v d.toNat 1 1, .r' .v a.toNat 1 1, .r' .v b.toNat 1 1]
  | .maxF16x2 _ d a b => [.w .v d.toNat 1 1, .r' .v a.toNat 1 1, .r' .v b.toNat 1 1]
  | .addBf16x2 _ d a b => [.w .v d.toNat 1 1, .r' .v a.toNat 1 1, .r' .v b.toNat 1 1]
  | .subBf16x2 _ d a b => [.w .v d.toNat 1 1, .r' .v a.toNat 1 1, .r' .v b.toNat 1 1]
  | .mulBf16x2 _ d a b => [.w .v d.toNat 1 1, .r' .v a.toNat 1 1, .r' .v b.toNat 1 1]
  | .fmaBf16x2 _ d a b => [.w .v d.toNat 1 1, .r' .v a.toNat 1 1, .r' .v b.toNat 1 1]
  | .minBf16x2 _ d a b => [.w .v d.toNat 1 1, .r' .v a.toNat 1 1, .r' .v b.toNat 1 1]
  | .maxBf16x2 _ d a b => [.w .v d.toNat 1 1, .r' .v a.toNat 1 1, .r' .v b.toNat 1 1]
  | .rcp _ d a _ => [.w .v d.toNat 1 1, .r' .v a.toNat 1 1]
  | .rsq _ d a _ => [.w .v d.toNat 1 1, .r' .v a.toNat 1 1]
  | .sqrt _ d a _ => [.w .v d.toNat 1 1, .r' .v a.toNat 1 1]
  | .exp2 _ d a _ => [.w .v d.toNat 1 1, .r' .v a.toNat 1 1]
  | .log2 _ d a _ => [.w .v d.toNat 1 1, .r' .v a.toNat 1 1]
  | .sin _ d a _ => [.w .v d.toNat 1 1, .r' .v a.toNat 1 1]
  | .cos _ d a _ => [.w .v d.toNat 1 1, .r' .v a.toNat 1 1]
  | .tanh _ d a _ => [.w .v d.toNat 1 1, .r' .v a.toNat 1 1]
  | .cvtF32F16 _ d a _ => [.w .v d.toNat 1 1, .r' .v a.toNat 1 1]
  | .cvtF32Bf16 _ d a _ => [.w .v d.toNat 1 1, .r' .v a.toNat 1 1]
  | .cvtF16F32 _ d a b => [.w .v d.toNat 1 1, .r' .v a.toNat 1 1, .r' .v b.toNat 1 1]
  | .cvtBf16F32 _ d a b => [.w .v d.toNat 1 1, .r' .v a.toNat 1 1, .r' .v b.toNat 1 1]
  | .cvtS32F32 _ d a => [.w .v d.toNat 1 1, .r' .v a.toNat 1 1]
  | .cvtUi32F32 _ d a => [.w .v d.toNat 1 1, .r' .v a.toNat 1 1]
  | .cvtF32S32 _ d a => [.w .v d.toNat 1 1, .r' .v a.toNat 1 1]
  | .cvtF32Ui32 _ d a => [.w .v d.toNat 1 1, .r' .v a.toNat 1 1]
  | .cvtFxF32 _ d a => [.w .v d.toNat 4 4, .r' .v a.toNat 1 1]
  | .cvtF32Fx _ d a => [.w .v d.toNat 1 1, .r' .v a.toNat 4 4]
  | .cvtF16F32Sr _ d a b => [.w .v d.toNat 1 1, .r' .v a.toNat 1 1, .r' .v b.toNat 1 1]
  | .cvtBf16F32Sr _ d a b => [.w .v d.toNat 1 1, .r' .v a.toNat 1 1, .r' .v b.toNat 1 1]
  | .cvtF32S64 _ d a => [.w .v d.toNat 1 1, .r' .v a.toNat 2 2]
  | .cvtF32Ui64 _ d a => [.w .v d.toNat 1 1, .r' .v a.toNat 2 2]
  | .pkE4m3 _ d a b => [.w .v d.toNat 1 1, .r' .v a.toNat 4 4, .r' .v b.toNat 1 1]
  | .pkE5m2 _ d a b => [.w .v d.toNat 1 1, .r' .v a.toNat 4 4, .r' .v b.toNat 1 1]
  | .pkHs4 _ d a b => [.w .v d.toNat 1 1, .r' .v a.toNat 4 4, .r' .v b.toNat 1 1]
  | .upkE4m3 _ d a b => [.w .v d.toNat 4 4, .r' .v a.toNat 1 1, .r' .v b.toNat 1 1]
  | .upkE5m2 _ d a b => [.w .v d.toNat 4 4, .r' .v a.toNat 1 1, .r' .v b.toNat 1 1]
  | .upkHs4 _ d a b => [.w .v d.toNat 4 4, .r' .v a.toNat 1 1, .r' .v b.toNat 1 1]
  | .pkE4m3Sr _ d a b => [.w .v d.toNat 1 1, .r' .v a.toNat 4 4, .r' .v b.toNat 1 1]
  | .pkE5m2Sr _ d a b => [.w .v d.toNat 1 1, .r' .v a.toNat 4 4, .r' .v b.toNat 1 1]
  | .scxE4m3 _ d a => [.w .v d.toNat 2 2, .r' .v a.toNat 1 1]
  | .scxE5m2 _ d a => [.w .v d.toNat 2 2, .r' .v a.toNat 1 1]
  | .scxHs4 _ d a => [.w .v d.toNat 2 2, .r' .v a.toNat 1 1]
  | .ld sz _ d a _ => [.w .v d.toNat (vRegs (ldBytes sz)) (vRegs (ldBytes sz)), .r' .v a.toNat 2 2]
  | .st sz _ d a _ => [.r' .v d.toNat (vRegs (stBytes sz)) (vRegs (stBytes sz)), .r' .v a.toNat 2 2]
  | .ldt sz _ d a b _ => [.w .v d.toNat (vRegs (ldBytes sz)) (vRegs (ldBytes sz)), .r' .v a.toNat 1 1, .r' .v b.toNat 1 1]
  | .stt sz _ d a b _ => [.r' .v d.toNat (vRegs (stBytes sz)) (vRegs (stBytes sz)), .r' .v a.toNat 1 1, .r' .v b.toNat 1 1]
  | .ldp _ d a _ => [.w .v d.toNat 2 2, .r' .v a.toNat 2 2]
  | .stp _ d a _ => [.r' .v d.toNat 2 2, .r' .v a.toNat 2 2]
  | .pfar _ d b _ => [.w .v d.toNat 4 4, .r' .v b.toNat 2 2]
  | .atomAdd w _ d a _ => [.rw .v d.toNat (vWide w) (vWide w), .r' .v a.toNat 2 2]
  | .atomMin w _ d a _ => [.rw .v d.toNat (vWide w) (vWide w), .r' .v a.toNat 2 2]
  | .atomMax w _ d a _ => [.rw .v d.toNat (vWide w) (vWide w), .r' .v a.toNat 2 2]
  | .atomMinui w _ d a _ => [.rw .v d.toNat (vWide w) (vWide w), .r' .v a.toNat 2 2]
  | .atomMaxui w _ d a _ => [.rw .v d.toNat (vWide w) (vWide w), .r' .v a.toNat 2 2]
  | .atomAnd w _ d a _ => [.rw .v d.toNat (vWide w) (vWide w), .r' .v a.toNat 2 2]
  | .atomOr w _ d a _ => [.rw .v d.toNat (vWide w) (vWide w), .r' .v a.toNat 2 2]
  | .atomXor w _ d a _ => [.rw .v d.toNat (vWide w) (vWide w), .r' .v a.toNat 2 2]
  | .atomXchg w _ d a _ => [.rw .v d.toNat (vWide w) (vWide w), .r' .v a.toNat 2 2]
  | .atomCas w _ d a b _ => [.rw .v d.toNat (vWide w) (vWide w), .r' .v a.toNat 2 2, .r' .v b.toNat (vWide w) (vWide w)]
  | .atomFaddF32 _ d a _ => [.rw .v d.toNat 1 1, .r' .v a.toNat 2 2]
  | .atomAddBf16x2 _ d a _ => [.rw .v d.toNat 1 1, .r' .v a.toNat 2 2]
  | .atomAddF16x2 _ d a _ => [.rw .v d.toNat 1 1, .r' .v a.toNat 2 2]
  | .atomFxadd _ d a _ => [.rw .v d.toNat 4 4, .r' .v a.toNat 2 2]
  | .redAdd w _ d a _ => [.r' .v d.toNat (vWide w) (vWide w), .r' .v a.toNat 2 2]
  | .redMin w _ d a _ => [.r' .v d.toNat (vWide w) (vWide w), .r' .v a.toNat 2 2]
  | .redMax w _ d a _ => [.r' .v d.toNat (vWide w) (vWide w), .r' .v a.toNat 2 2]
  | .redMinui w _ d a _ => [.r' .v d.toNat (vWide w) (vWide w), .r' .v a.toNat 2 2]
  | .redMaxui w _ d a _ => [.r' .v d.toNat (vWide w) (vWide w), .r' .v a.toNat 2 2]
  | .redAnd w _ d a _ => [.r' .v d.toNat (vWide w) (vWide w), .r' .v a.toNat 2 2]
  | .redOr w _ d a _ => [.r' .v d.toNat (vWide w) (vWide w), .r' .v a.toNat 2 2]
  | .redXor w _ d a _ => [.r' .v d.toNat (vWide w) (vWide w), .r' .v a.toNat 2 2]
  | .redFaddF32 _ d a _ => [.r' .v d.toNat 1 1, .r' .v a.toNat 2 2]
  | .redAddBf16x2 _ d a _ => [.r' .v d.toNat 1 1, .r' .v a.toNat 2 2]
  | .redAddF16x2 _ d a _ => [.r' .v d.toNat 1 1, .r' .v a.toNat 2 2]
  | .redFxadd _ d a _ => [.r' .v d.toNat 4 4, .r' .v a.toNat 2 2]
  | .wait w _ d a b _ => [.w .v d.toNat (vWide w) (vWide w), .r' .v a.toNat 2 2, .r' .v b.toNat (vWide w) (vWide w)]
  | .waitReread _ _ _ => []
  | .fenceAcq _ _ => []
  | .fenceRel _ _ => []
  | .fenceAcqrel _ _ => []
  | .bra _ _ => []
  | .nop _ => []
  | .brx _ a => [.r' .v a.toNat 2 2]
  | .call _ d _ => [.w .v d.toNat 2 2]
  | .callx _ d a => [.w .v d.toNat 2 2, .r' .v a.toNat 2 2]
  | .ret _ a => [.r' .v a.toNat 2 2]
  | .exit _ => []
  -- with SREG, bits 11:6 name an s register (R212)
  | .barA _ s _ _ n => if s = 1 then [.r' .s (n.toNat / 64) 1 1] else []
  | .barW _ s _ _ n => if s = 1 then [.r' .s (n.toNat / 64) 1 1] else []
  | .barAw _ s _ _ n => if s = 1 then [.r' .s (n.toNat / 64) 1 1] else []
  | .issv _ a => [.r' .v a.toNat 1 1]
  | .rst sz _ d a _ => [.r' .v d.toNat (vRegs (stBytes sz)) (vRegs (stBytes sz)), .r' .v a.toNat 2 2]
  | .uadd _ d a b => [.w .s d.toNat 1 1, .r' .s a.toNat 1 1, .r' .s b.toNat 1 1]
  | .usub _ d a b => [.w .s d.toNat 1 1, .r' .s a.toNat 1 1, .r' .s b.toNat 1 1]
  | .uand _ d a b => [.w .s d.toNat 1 1, .r' .s a.toNat 1 1, .r' .s b.toNat 1 1]
  | .uor _ d a b => [.w .s d.toNat 1 1, .r' .s a.toNat 1 1, .r' .s b.toNat 1 1]
  | .uxor _ d a b => [.w .s d.toNat 1 1, .r' .s a.toNat 1 1, .r' .s b.toNat 1 1]
  | .ushl _ d a b => [.w .s d.toNat 1 1, .r' .s a.toNat 1 1, .r' .s b.toNat 1 1]
  | .ushr _ d a b => [.w .s d.toNat 1 1, .r' .s a.toNat 1 1, .r' .s b.toNat 1 1]
  | .usar _ d a b => [.w .s d.toNat 1 1, .r' .s a.toNat 1 1, .r' .s b.toNat 1 1]
  | .umin _ d a b => [.w .s d.toNat 1 1, .r' .s a.toNat 1 1, .r' .s b.toNat 1 1]
  | .umax _ d a b => [.w .s d.toNat 1 1, .r' .s a.toNat 1 1, .r' .s b.toNat 1 1]
  | .uminui _ d a b => [.w .s d.toNat 1 1, .r' .s a.toNat 1 1, .r' .s b.toNat 1 1]
  | .umaxui _ d a b => [.w .s d.toNat 1 1, .r' .s a.toNat 1 1, .r' .s b.toNat 1 1]
  | .umul _ d a b => [.w .s d.toNat 1 1, .r' .s a.toNat 1 1, .r' .s b.toNat 1 1]
  | .umulhi _ d a b => [.w .s d.toNat 1 1, .r' .s a.toNat 1 1, .r' .s b.toNat 1 1]
  | .umulhiu _ d a b => [.w .s d.toNat 1 1, .r' .s a.toNat 1 1, .r' .s b.toNat 1 1]
  | .ucmpEq _ d a b => [.w .q d.toNat 1 1, .r' .s a.toNat 1 1, .r' .s b.toNat 1 1]
  | .ucmpNe _ d a b => [.w .q d.toNat 1 1, .r' .s a.toNat 1 1, .r' .s b.toNat 1 1]
  | .ucmpLt _ d a b => [.w .q d.toNat 1 1, .r' .s a.toNat 1 1, .r' .s b.toNat 1 1]
  | .ucmpLe _ d a b => [.w .q d.toNat 1 1, .r' .s a.toNat 1 1, .r' .s b.toNat 1 1]
  | .ucmpGt _ d a b => [.w .q d.toNat 1 1, .r' .s a.toNat 1 1, .r' .s b.toNat 1 1]
  | .ucmpGe _ d a b => [.w .q d.toNat 1 1, .r' .s a.toNat 1 1, .r' .s b.toNat 1 1]
  | .ucmpLtui _ d a b => [.w .q d.toNat 1 1, .r' .s a.toNat 1 1, .r' .s b.toNat 1 1]
  | .ucmpLeui _ d a b => [.w .q d.toNat 1 1, .r' .s a.toNat 1 1, .r' .s b.toNat 1 1]
  | .ucmpGtui _ d a b => [.w .q d.toNat 1 1, .r' .s a.toNat 1 1, .r' .s b.toNat 1 1]
  | .ucmpGeui _ d a b => [.w .q d.toNat 1 1, .r' .s a.toNat 1 1, .r' .s b.toNat 1 1]
  | .qand _ d a b => [.w .q d.toNat 1 1, .r' .q a.toNat 1 1, .r' .q b.toNat 1 1]
  | .qor _ d a b => [.w .q d.toNat 1 1, .r' .q a.toNat 1 1, .r' .q b.toNat 1 1]
  | .qxor _ d a b => [.w .q d.toNat 1 1, .r' .q a.toNat 1 1, .r' .q b.toNat 1 1]
  | .qandn _ d a b => [.w .q d.toNat 1 1, .r' .q a.toNat 1 1, .r' .q b.toNat 1 1]
  | .qnot _ d a => [.w .q d.toNat 1 1, .r' .q a.toNat 1 1]
  | .uaddi _ d a _ => [.w .s d.toNat 1 1, .r' .s a.toNat 1 1]
  | .uandi _ d a _ => [.w .s d.toNat 1 1, .r' .s a.toNat 1 1]
  | .uori _ d a _ => [.w .s d.toNat 1 1, .r' .s a.toNat 1 1]
  | .uxori _ d a _ => [.w .s d.toNat 1 1, .r' .s a.toNat 1 1]
  | .ushli _ d a _ => [.w .s d.toNat 1 1, .r' .s a.toNat 1 1]
  | .ushri _ d a _ => [.w .s d.toNat 1 1, .r' .s a.toNat 1 1]
  | .usari _ d a _ => [.w .s d.toNat 1 1, .r' .s a.toNat 1 1]
  | .uroli _ d a _ => [.w .s d.toNat 1 1, .r' .s a.toNat 1 1]
  | .umov16 _ d _ => [.w .s d.toNat 1 1]
  | .umovk _ d _ => [.rw .s d.toNat 1 1]
  | .umov _ d a => [.w .s d.toNat 1 1, .r' .s a.toNat 1 1]
  | .readlane _ d a b => [.w .s d.toNat 1 1, .r' .v a.toNat 1 1, .r' .s b.toNat 1 1]
  | .bcast _ d a => [.w .v d.toNat 1 1, .r' .s a.toNat 1 1]
  | .uld sz _ d a _ => [.w .s d.toNat (sRegs (ldBytes sz)) (sRegs (ldBytes sz)), .r' .s a.toNat 1 1]
  | .ust sz _ d a _ => [.r' .s d.toNat (sRegs (stBytes sz)) (sRegs (stBytes sz)), .r' .s a.toNat 1 1]
  | .uatomAdd _ d a _ => [.rw .s d.toNat 1 1, .r' .s a.toNat 1 1]
  | .uatomMin _ d a _ => [.rw .s d.toNat 1 1, .r' .s a.toNat 1 1]
  | .uatomMax _ d a _ => [.rw .s d.toNat 1 1, .r' .s a.toNat 1 1]
  | .uatomMinui _ d a _ => [.rw .s d.toNat 1 1, .r' .s a.toNat 1 1]
  | .uatomMaxui _ d a _ => [.rw .s d.toNat 1 1, .r' .s a.toNat 1 1]
  | .uatomAnd _ d a _ => [.rw .s d.toNat 1 1, .r' .s a.toNat 1 1]
  | .uatomOr _ d a _ => [.rw .s d.toNat 1 1, .r' .s a.toNat 1 1]
  | .uatomXor _ d a _ => [.rw .s d.toNat 1 1, .r' .s a.toNat 1 1]
  | .uatomXchg _ d a _ => [.rw .s d.toNat 1 1, .r' .s a.toNat 1 1]
  | .uatomCas _ d a b _ => [.rw .s d.toNat 1 1, .r' .s a.toNat 1 1, .r' .s b.toNat 1 1]
  | .uatomFaddF32 _ d a _ => [.rw .s d.toNat 1 1, .r' .s a.toNat 1 1]
  | .uatomFxadd _ d a _ => [.rw .s d.toNat 2 2, .r' .s a.toNat 1 1]
  | .ubra _ _ => []
  | .ucall _ d _ => [.w .s d.toNat 1 1]
  | .ucallx _ d a => [.w .s d.toNat 1 1, .r' .s a.toNat 1 1]
  | .uret _ a => [.r' .s a.toNat 1 1]
  | .uloop _ d _ => [.rw .s d.toNat 1 1]
  | .spawn _ d a => [.w .s d.toNat 1 1, .r' .s a.toNat 1 1]
  | .sfence _ d a b => [.w .s d.toNat 1 1, .r' .s a.toNat 1 1, .r' .s b.toNat 1 1]
  | .bjob _ d a b => [.w .h d.toNat 1 1, .r' .s a.toNat 1 1, .r' .s b.toNat 8 1]
  | .fwait _ d a => [.w .s d.toNat 1 1, .r' .h a.toNat 1 1]
  | .ftest _ d a => [.w .q d.toNat 1 1, .r' .h a.toNat 1 1]
  | .fcancel _ a => [.r' .h a.toNat 1 1]
  | .fmovHs _ d a => [.w .s d.toNat 1 1, .r' .h a.toNat 1 1]
  | .fmovSh _ d a => [.w .h d.toNat 1 1, .r' .s a.toNat 1 1]
  | .talloc _ d a => [.w .s d.toNat 1 1, .r' .s a.toNat 1 1]
  | .tfree _ a => [.r' .s a.toNat 1 1]
  | .tstat _ d a => [.w .s d.toNat 1 1, .r' .s a.toNat 1 1]
  | .barinit _ a b => [.r' .s a.toNat 1 1, .r' .s b.toNat 1 1]
  | .barsave _ a => [.r' .s a.toNat 1 1]
  | .barload _ a => [.r' .s a.toNat 1 1]
  | .mcst _ d a b => [.w .h d.toNat 1 1, .r' .s a.toNat 2 1, .r' .s b.toNat 2 1]
  | .ridge _ d a => [.w .h d.toNat 1 1, .r' .s a.toNat 1 1]
  | .rstat _ d a => [.w .s d.toNat 1 1, .r' .s a.toNat 1 1]
  | .mbxrd _ d a => [.w .s d.toNat 8 8, .r' .s a.toNat 1 1]
  | .mbxwr _ a b => [.r' .s a.toNat 1 1, .r' .s b.toNat 8 8]
  | .movsFromSys _ _ _ => []
  | .movsToSys _ _ _ => []
  | .therm _ d a => [.w .s d.toNat 1 1, .r' .s a.toNat 1 1]
  | .clock _ d => [.w .s d.toNat 1 1]
  | .accrd _ d a => [.w .v d.toNat 16 1, .r' .s a.toNat 1 1]
  | .accwr _ d a => [.r' .v d.toNat 16 1, .r' .s a.toNat 1 1]
  | .accz _ a => [.r' .s a.toNat 1 1]
  | .trap _ d a b => [.w .s d.toNat 1 1, .r' .s a.toNat 1 1, .r' .s b.toNat 1 1]
  | .eret _ => []
  | .eretAns _ a b => [.r' .s a.toNat 1 1, .r' .s b.toNat 1 1]
  | .tlbw _ a b => [.r' .s a.toNat 1 1, .r' .s b.toNat 1 1]
  | .tlbi _ a b => [.r' .s a.toNat 1 1, .r' .s b.toNat 1 1]
  | .mqpop _ d => [.w .s d.toNat 2 2]
  | .objmap _ d a b => [.w .s d.toNat 1 1, .r' .s a.toNat 1 1, .r' .s b.toNat 1 1]
  | .objunmap _ d a b => [.w .s d.toNat 1 1, .r' .s a.toNat 1 1, .r' .s b.toNat 1 1]
  | .objstat _ d a => [.w .s d.toNat 4 4, .r' .s a.toNat 1 1]
  | .harvest _ d a b => [.w .s d.toNat 1 1, .r' .s a.toNat 1 1, .r' .s b.toNat 1 1]
  | .preempt _ a b => [.r' .s a.toNat 1 1, .r' .s b.toNat 1 1]
  | .resume _ a b => [.r' .s a.toNat 1 1, .r' .s b.toNat 1 1]
  | .halt _ => []
  | .mma _ _ _ => []
  | .mzero _ => []
  | .mscl _ _ _ _ => []
  | .mloop _ _ _ => []
  | .mjmp _ => []
  | .mbarW _ _ => []
  | .mbarA _ => []
  | .mbarADrain _ => []
  | .mend => []
  | .bcopy _ d a b => [.r' .s d.toNat 2 2, .r' .s a.toNat 2 2, .r' .s b.toNat 1 1]
  | .bfetch _ d a => [.r' .s d.toNat 1 1, .r' .s a.toNat 1 1]
  | .btld _ d a b => [.r' .s d.toNat 1 1, .r' .s a.toNat 2 2, .r' .s b.toNat 1 1]
  | .btst _ d a b => [.r' .s d.toNat 2 2, .r' .s a.toNat 1 1, .r' .s b.toNat 1 1]
  | .bgath _ d a b => [.r' .s d.toNat 1 1, .r' .s a.toNat 2 2, .r' .s b.toNat 1 1]
  | .bscat _ d a b => [.r' .s d.toNat 2 2, .r' .s a.toNat 1 1, .r' .s b.toNat 1 1]
  | .bstep _ d b => [.rw .s d.toNat 2 2, .r' .s b.toNat 1 1]
  | .block _ d a b => [.w .s d.toNat 1 1, .r' .s a.toNat 1 1, .r' .s b.toNat 1 1]
  | .bunlk _ a => [.r' .s a.toNat 1 1]
  | .btset _ d a => [.r' .s d.toNat 1 1, .r' .s a.toNat 1 1]
  | .baccd _ d a b => [.r' .s d.toNat 2 2, .r' .s a.toNat 1 1, .r' .s b.toNat 1 1]
  | .brem _ d a b => [.r' .s d.toNat 2 2, .r' .s a.toNat 2 2, .r' .s b.toNat 1 1]
  | .bdone _ a b => [.r' .s a.toNat 1 1, .r' .s b.toNat 1 1]
  | .surplusPhaseComplete _ _ _ => []
  | .courseDemotion _ _ => []
  | .coursePromotion _ _ => []
  | .activeSetTimesliceExpiry _ _ => []
  | .jobParse _ _ => []
  | .placementStep _ => []
  | .placementStarvationTimeout _ _ => []
  | .blockStart _ _ => []
  | .fenceRecordRead _ _ => []
  | .fenceCounterPoll _ _ _ => []
  | .blockRetirement _ _ => []
  | .doneAddRecord _ _ => []
  | .noticeQueueDrain _ => []
  | .coreMessageAppend _ => []
  | .hostMailboxWrite _ _ => []
  | .registerWriteOther _ => []
  | .hbmEarlyRefresh _ _ => []
  | .copyHit _ => []
  | .homeRead _ => []
  | .loadReply _ => []
  | .homeWrite _ => []
  | .completionRecord _ => []
  | .fencePass _ _ _ => []
  | .copyExpiry _ _ => []
  | .l1CopySweep _ => []
  | .publication _ _ _ => []
  | .cxlWriteCompletion _ => []
  | .cxlSnoop _ _ => []
  | .clockSkewCheck => []
  | .columnTempRefresh _ => []
  | .tripRecovery => []
  | .powerInterval _ => []
  | .operatingPointChange _ _ _ => []
  | .operatingPointSettle _ => []
  | .tlbiComplete _ _ => []
  | .sideLogTimeout _ => []
  | .objectRequestResend _ _ => []
  | .objectParkRetry _ => []
  | .objunmapDrainReturn _ _ => []
  | .objunmapVacateStep _ _ => []
  | .battenJobStart _ _ => []
  | .transferPerformed _ _ _ => []
  | .tileFillComplete _ _ _ => []
  | .tileDrainComplete _ _ _ => []
  | .tileIntegrityReplay _ _ _ _ => []
  | .mmaUpdate _ _ _ _ _ => []
  | .mbarWRelease _ _ => []
  | .mbarAArrival _ _ => []
  | .mendStep _ _ => []
  | .barsaveHeldAdds _ _ => []
  | .sequencerStop _ _ => []
  | .yieldTrapEntry _ _ => []
  | .swapOut _ _ => []
  | .faultRecordDelivery _ => []
  | .supervisorStallTimeout _ => []
  | .fabricIngressRequest _ => []
  | .remoteReply _ => []
  | .remoteTimeout _ => []
  | .packetReplay _ => []
  | .incarnationAnnouncement _ _ _ => []
  | .planeDead _ => []
  | .planeReroute _ => []
  | .mcstAck _ _ => []
  | .mcstResolve _ => []
  | .mcstMemberTimeout _ _ => []
  | .ridgeVoteStart _ => []
  | .ridgeCount _ _ _ => []
  | .ridgeStageTimeout _ _ => []
  | .ridgeAnswer _ _ _ => []
  | .ridgeAnswerTimeout _ _ => []
  | .ridgePublishMsg _ _ _ => []
  | .ridgeAbortMsg _ _ => []
  | .ridgeAbortResend _ => []
  | .ridgeAck _ _ => []
  | .ridgePublishTimeout _ => []
  | .hostHdmAccess _ _ _ => []
  | .cxlLinkFailure _ => []
  | .cxlRequestTimeout _ => []
  | .cxlLinkUp _ => []
  | .pcieLinkDown => []
  | .pageRequestAnswer _ _ => []
  | .pageRequestTimeout _ _ => []
  | .soffitSplit _ _ => []
  | .objTables _ => []
  | .layoutBase _ _ _ => []
  | .exportSet _ _ _ => []
  | .mcgSet _ _ _ => []
  | .eaveSet _ _ _ => []
  | .walkerSet _ _ _ => []
  | .objRevoke _ _ _ => []
  | .pageRequest _ _ _ => []
  | .pageRelease _ _ => []
  | .baySet _ => []
  | .attest _ => []
  | .bootSet _ _ => []
  | .perstRelease => []
  | .rootStageComplete _ => []
  | .serviceStageComplete => []
  | .serviceFirmwareRestart => []
  | .illegalWord _ _ _ _ => []
  | .perstAssert => []

/-- Whether the word has a C operand (R148): MAD, BFI, FFMA, the packed FMAs and three packs. -/
def usesC : Instr → Bool
  | .mad _ _ _ _ => true
  | .bfi _ _ _ _ => true
  | .ffma _ _ _ _ => true
  | .fmaF16x2 _ _ _ _ => true
  | .fmaBf16x2 _ _ _ _ => true
  | .pkHs4 _ _ _ _ => true
  | .pkE4m3Sr _ _ _ _ => true
  | .pkE5m2Sr _ _ _ _ => true
  | _ => false

/-- The D field that C defaults to (R148). -/
def cDefault : Instr → Reg
  | .mad _ d _ _ => d
  | .bfi _ d _ _ => d
  | .ffma _ d _ _ => d
  | .fmaF16x2 _ d _ _ => d
  | .fmaBf16x2 _ d _ _ => d
  | .pkHs4 _ d _ _ => d
  | .pkE4m3Sr _ d _ _ => d
  | .pkE5m2Sr _ d _ _ => d
  | _ => 0

/-- Used payload bits of an IMM prefix, where the word accepts one (R148, R166, R167, R176, R191, R208). R190 makes PFAR's OFFSET 0 while R148 counts
payload bits 15:0 as used: of PFAR none is, and a payload that is not 0 takes REASON 4 at the prefix (log 105). -/
def immBits : Instr → Option Nat
  | .addi _ _ _ _ => some 21
  | .andi _ _ _ _ => some 21
  | .ori _ _ _ _ => some 21
  | .xori _ _ _ _ => some 21
  | .shli _ _ _ _ => some 0
  | .shri _ _ _ _ => some 0
  | .sari _ _ _ _ => some 0
  | .roli _ _ _ _ => some 0
  | .mov16 _ _ _ => some 16
  | .ld _ _ _ _ _ => some 16
  | .st _ _ _ _ _ => some 16
  | .ldt _ _ _ _ _ _ => some 16
  | .stt _ _ _ _ _ _ => some 16
  | .ldp _ _ _ _ => some 16
  | .stp _ _ _ _ => some 16
  | .pfar _ _ _ _ => some 0
  | .atomAdd _ _ _ _ _ => some 16
  | .atomMin _ _ _ _ _ => some 16
  | .atomMax _ _ _ _ _ => some 16
  | .atomMinui _ _ _ _ _ => some 16
  | .atomMaxui _ _ _ _ _ => some 16
  | .atomAnd _ _ _ _ _ => some 16
  | .atomOr _ _ _ _ _ => some 16
  | .atomXor _ _ _ _ _ => some 16
  | .atomXchg _ _ _ _ _ => some 16
  | .atomCas _ _ _ _ _ _ => some 16
  | .atomFaddF32 _ _ _ _ => some 16
  | .atomAddBf16x2 _ _ _ _ => some 16
  | .atomAddF16x2 _ _ _ _ => some 16
  | .atomFxadd _ _ _ _ => some 16
  | .redAdd _ _ _ _ _ => some 16
  | .redMin _ _ _ _ _ => some 16
  | .redMax _ _ _ _ _ => some 16
  | .redMinui _ _ _ _ _ => some 16
  | .redMaxui _ _ _ _ _ => some 16
  | .redAnd _ _ _ _ _ => some 16
  | .redOr _ _ _ _ _ => some 16
  | .redXor _ _ _ _ _ => some 16
  | .redFaddF32 _ _ _ _ => some 16
  | .redAddBf16x2 _ _ _ _ => some 16
  | .redAddF16x2 _ _ _ _ => some 16
  | .redFxadd _ _ _ _ => some 16
  | .wait _ _ _ _ _ _ => some 16
  | .bra _ _ => some 16
  | .call _ _ _ => some 20
  | .rst _ _ _ _ _ => some 16
  | .uaddi _ _ _ _ => some 22
  | .uandi _ _ _ _ => some 22
  | .uori _ _ _ _ => some 22
  | .uxori _ _ _ _ => some 22
  | .ushli _ _ _ _ => some 0
  | .ushri _ _ _ _ => some 0
  | .usari _ _ _ _ => some 0
  | .uroli _ _ _ _ => some 0
  | .umov16 _ _ _ => some 22
  | .uld _ _ _ _ _ => some 16
  | .ust _ _ _ _ _ => some 16
  | .uatomAdd _ _ _ _ => some 16
  | .uatomMin _ _ _ _ => some 16
  | .uatomMax _ _ _ _ => some 16
  | .uatomMinui _ _ _ _ => some 16
  | .uatomMaxui _ _ _ _ => some 16
  | .uatomAnd _ _ _ _ => some 16
  | .uatomOr _ _ _ _ => some 16
  | .uatomXor _ _ _ _ => some 16
  | .uatomXchg _ _ _ _ => some 16
  | .uatomCas _ _ _ _ _ => some 16
  | .uatomFaddF32 _ _ _ _ => some 16
  | .uatomFxadd _ _ _ _ => some 16
  | .ubra _ _ => some 10
  | .mjmp _ => some 10
  | _ => none

/-- Whether the word accepts a LOOK prefix (R146). -/
def acceptsLook : Instr → Bool
  | .issv _ _ => true
  | .spawn _ _ _ => true
  | .sfence _ _ _ _ => true
  | .bjob _ _ _ _ => true
  | .fwait _ _ _ => true
  | .talloc _ _ _ => true
  | .barsave _ _ => true
  | .barload _ _ => true
  | .mcst _ _ _ _ => true
  | .ridge _ _ _ => true
  | .mbxrd _ _ _ => true
  | .mbxwr _ _ _ => true
  | .accrd _ _ _ => true
  | .accwr _ _ _ => true
  | .accz _ _ => true
  | .trap _ _ _ _ => true
  | .tlbw _ _ _ => true
  | .tlbi _ _ _ => true
  | .mqpop _ _ => true
  | .objmap _ _ _ _ => true
  | .objunmap _ _ _ _ => true
  | .objstat _ _ _ => true
  | .harvest _ _ _ _ => true
  | .resume _ _ _ => true
  | _ => false

/-- Which agents execute a word (R156). -/
inductive AgentRow where
  | course | both | batten | matrix
  deriving DecidableEq, Repr

/-- The agent row of each word; an event has none and the dispatcher never asks. -/
def agentRow : Instr → AgentRow
  | .uadd _ _ _ _ => .both
  | .usub _ _ _ _ => .both
  | .uand _ _ _ _ => .both
  | .uor _ _ _ _ => .both
  | .uxor _ _ _ _ => .both
  | .ushl _ _ _ _ => .both
  | .ushr _ _ _ _ => .both
  | .usar _ _ _ _ => .both
  | .umin _ _ _ _ => .both
  | .umax _ _ _ _ => .both
  | .uminui _ _ _ _ => .both
  | .umaxui _ _ _ _ => .both
  | .umul _ _ _ _ => .both
  | .umulhi _ _ _ _ => .both
  | .umulhiu _ _ _ _ => .both
  | .ucmpEq _ _ _ _ => .both
  | .ucmpNe _ _ _ _ => .both
  | .ucmpLt _ _ _ _ => .both
  | .ucmpLe _ _ _ _ => .both
  | .ucmpGt _ _ _ _ => .both
  | .ucmpGe _ _ _ _ => .both
  | .ucmpLtui _ _ _ _ => .both
  | .ucmpLeui _ _ _ _ => .both
  | .ucmpGtui _ _ _ _ => .both
  | .ucmpGeui _ _ _ _ => .both
  | .qand _ _ _ _ => .both
  | .qor _ _ _ _ => .both
  | .qxor _ _ _ _ => .both
  | .qandn _ _ _ _ => .both
  | .qnot _ _ _ => .both
  | .uaddi _ _ _ _ => .both
  | .uandi _ _ _ _ => .both
  | .uori _ _ _ _ => .both
  | .uxori _ _ _ _ => .both
  | .ushli _ _ _ _ => .both
  | .ushri _ _ _ _ => .both
  | .usari _ _ _ _ => .both
  | .uroli _ _ _ _ => .both
  | .umov16 _ _ _ => .both
  | .umovk _ _ _ => .both
  | .umov _ _ _ => .both
  | .uld _ _ _ _ _ => .both
  | .ust _ _ _ _ _ => .both
  | .uatomAdd _ _ _ _ => .both
  | .uatomMin _ _ _ _ => .both
  | .uatomMax _ _ _ _ => .both
  | .uatomMinui _ _ _ _ => .both
  | .uatomMaxui _ _ _ _ => .both
  | .uatomAnd _ _ _ _ => .both
  | .uatomOr _ _ _ _ => .both
  | .uatomXor _ _ _ _ => .both
  | .uatomXchg _ _ _ _ => .both
  | .uatomCas _ _ _ _ _ => .both
  | .uatomFaddF32 _ _ _ _ => .both
  | .uatomFxadd _ _ _ _ => .both
  | .ubra _ _ => .both
  | .uret _ _ => .both
  | .uloop _ _ _ => .both
  | .mma _ _ _ => .matrix
  | .mzero _ => .matrix
  | .mscl _ _ _ _ => .matrix
  | .mloop _ _ _ => .matrix
  | .mjmp _ => .matrix
  | .mbarW _ _ => .matrix
  | .mbarA _ => .matrix
  | .mbarADrain _ => .matrix
  | .mend => .matrix
  | .bcopy _ _ _ _ => .batten
  | .bfetch _ _ _ => .batten
  | .btld _ _ _ _ => .batten
  | .btst _ _ _ _ => .batten
  | .bgath _ _ _ _ => .batten
  | .bscat _ _ _ _ => .batten
  | .bstep _ _ _ => .batten
  | .block _ _ _ _ => .batten
  | .bunlk _ _ => .batten
  | .btset _ _ _ => .batten
  | .baccd _ _ _ _ => .batten
  | .brem _ _ _ _ => .batten
  | .bdone _ _ _ => .batten
  | _ => .course

/-- The privileged words of R156 apart from MOVS to SYS.COLTEMP. -/
def privileged : Instr → Bool
  | .mbxrd _ _ _ => true
  | .eret _ => true
  | .eretAns _ _ _ => true
  | .tlbw _ _ _ => true
  | .tlbi _ _ _ => true
  | .mqpop _ _ => true
  | .objmap _ _ _ _ => true
  | .objunmap _ _ _ _ => true
  | .objstat _ _ _ => true
  | .harvest _ _ _ _ => true
  | .preempt _ _ _ => true
  | .resume _ _ _ => true
  | .halt _ => true
  | .movsToSys _ d _ => d == 6
  | _ => false

/-- Whether the word is of the U-set (R143). -/
def isU : Instr → Bool
  | .uadd _ _ _ _ => true
  | .usub _ _ _ _ => true
  | .uand _ _ _ _ => true
  | .uor _ _ _ _ => true
  | .uxor _ _ _ _ => true
  | .ushl _ _ _ _ => true
  | .ushr _ _ _ _ => true
  | .usar _ _ _ _ => true
  | .umin _ _ _ _ => true
  | .umax _ _ _ _ => true
  | .uminui _ _ _ _ => true
  | .umaxui _ _ _ _ => true
  | .umul _ _ _ _ => true
  | .umulhi _ _ _ _ => true
  | .umulhiu _ _ _ _ => true
  | .ucmpEq _ _ _ _ => true
  | .ucmpNe _ _ _ _ => true
  | .ucmpLt _ _ _ _ => true
  | .ucmpLe _ _ _ _ => true
  | .ucmpGt _ _ _ _ => true
  | .ucmpGe _ _ _ _ => true
  | .ucmpLtui _ _ _ _ => true
  | .ucmpLeui _ _ _ _ => true
  | .ucmpGtui _ _ _ _ => true
  | .ucmpGeui _ _ _ _ => true
  | .qand _ _ _ _ => true
  | .qor _ _ _ _ => true
  | .qxor _ _ _ _ => true
  | .qandn _ _ _ _ => true
  | .qnot _ _ _ => true
  | .uaddi _ _ _ _ => true
  | .uandi _ _ _ _ => true
  | .uori _ _ _ _ => true
  | .uxori _ _ _ _ => true
  | .ushli _ _ _ _ => true
  | .ushri _ _ _ _ => true
  | .usari _ _ _ _ => true
  | .uroli _ _ _ _ => true
  | .umov16 _ _ _ => true
  | .umovk _ _ _ => true
  | .umov _ _ _ => true
  | .readlane _ _ _ _ => true
  | .bcast _ _ _ => true
  | .uld _ _ _ _ _ => true
  | .ust _ _ _ _ _ => true
  | .uatomAdd _ _ _ _ => true
  | .uatomMin _ _ _ _ => true
  | .uatomMax _ _ _ _ => true
  | .uatomMinui _ _ _ _ => true
  | .uatomMaxui _ _ _ _ => true
  | .uatomAnd _ _ _ _ => true
  | .uatomOr _ _ _ _ => true
  | .uatomXor _ _ _ _ => true
  | .uatomXchg _ _ _ _ => true
  | .uatomCas _ _ _ _ _ => true
  | .uatomFaddF32 _ _ _ _ => true
  | .uatomFxadd _ _ _ _ => true
  | .ubra _ _ => true
  | .ucall _ _ _ => true
  | .ucallx _ _ _ => true
  | .uret _ _ => true
  | .uloop _ _ _ => true
  | .spawn _ _ _ => true
  | .sfence _ _ _ _ => true
  | .bjob _ _ _ _ => true
  | .fwait _ _ _ => true
  | .ftest _ _ _ => true
  | .fcancel _ _ => true
  | .fmovHs _ _ _ => true
  | .fmovSh _ _ _ => true
  | .talloc _ _ _ => true
  | .tfree _ _ => true
  | .tstat _ _ _ => true
  | .barinit _ _ _ => true
  | .barsave _ _ => true
  | .barload _ _ => true
  | .mcst _ _ _ _ => true
  | .ridge _ _ _ => true
  | .rstat _ _ _ => true
  | .mbxrd _ _ _ => true
  | .mbxwr _ _ _ => true
  | .movsFromSys _ _ _ => true
  | .movsToSys _ _ _ => true
  | .therm _ _ _ => true
  | .clock _ _ => true
  | .accrd _ _ _ => true
  | .accwr _ _ _ => true
  | .accz _ _ => true
  | .trap _ _ _ _ => true
  | .eret _ => true
  | .eretAns _ _ _ => true
  | .tlbw _ _ _ => true
  | .tlbi _ _ _ => true
  | .mqpop _ _ => true
  | .objmap _ _ _ _ => true
  | .objunmap _ _ _ _ => true
  | .objstat _ _ _ => true
  | .harvest _ _ _ _ => true
  | .preempt _ _ _ => true
  | .resume _ _ _ => true
  | .halt _ => true
  | .mma _ _ _ => true
  | .mzero _ => true
  | .mscl _ _ _ _ => true
  | .mloop _ _ _ => true
  | .mjmp _ => true
  | .mbarW _ _ => true
  | .mbarA _ => true
  | .mbarADrain _ => true
  | .mend => true
  | .bcopy _ _ _ _ => true
  | .bfetch _ _ _ => true
  | .btld _ _ _ _ => true
  | .btst _ _ _ _ => true
  | .bgath _ _ _ _ => true
  | .bscat _ _ _ _ => true
  | .bstep _ _ _ => true
  | .block _ _ _ _ => true
  | .bunlk _ _ => true
  | .btset _ _ _ => true
  | .baccd _ _ _ _ => true
  | .brem _ _ _ _ => true
  | .bdone _ _ _ => true
  | _ => false

/-- The exchange words of R170, with ISSV, which gathers as they do (R218). -/
def isExchange : Instr → Bool
  | .pick _ _ _ _ => true
  | .rotu _ _ _ _ => true
  | .rotd _ _ _ _ => true
  | .bfly _ _ _ _ => true
  | .lany _ _ _ => true
  | .lall _ _ _ => true
  | .lmask _ _ _ => true
  | .combAdd _ _ _ => true
  | .combMin _ _ _ => true
  | .combMax _ _ _ => true
  | .combMinui _ _ _ => true
  | .combMaxui _ _ _ => true
  | .combAnd _ _ _ => true
  | .combOr _ _ _ => true
  | .combXor _ _ _ => true
  | .issv _ _ => true
  | _ => false

/-- The guard of a word; a matrix word has none (R145) and an event none. -/
def guardOf : Instr → Option Guard
  | .add g _ _ _ => some g
  | .sub g _ _ _ => some g
  | .and g _ _ _ => some g
  | .or g _ _ _ => some g
  | .xor g _ _ _ => some g
  | .andn g _ _ _ => some g
  | .shl g _ _ _ => some g
  | .shr g _ _ _ => some g
  | .sar g _ _ _ => some g
  | .min g _ _ _ => some g
  | .max g _ _ _ => some g
  | .minui g _ _ _ => some g
  | .maxui g _ _ _ => some g
  | .abs g _ _ => some g
  | .neg g _ _ => some g
  | .mul g _ _ _ => some g
  | .mulhi g _ _ _ => some g
  | .mulhiu g _ _ _ => some g
  | .mad g _ _ _ => some g
  | .popc g _ _ => some g
  | .clz g _ _ => some g
  | .brev g _ _ => some g
  | .bfx g _ _ _ => some g
  | .bfi g _ _ _ => some g
  | .icmpEq g _ _ _ => some g
  | .icmpNe g _ _ _ => some g
  | .icmpLt g _ _ _ => some g
  | .icmpLe g _ _ _ => some g
  | .icmpGt g _ _ _ => some g
  | .icmpGe g _ _ _ => some g
  | .icmpLtui g _ _ _ => some g
  | .icmpLeui g _ _ _ => some g
  | .icmpGtui g _ _ _ => some g
  | .icmpGeui g _ _ _ => some g
  | .pand g _ _ _ => some g
  | .por g _ _ _ => some g
  | .pxor g _ _ _ => some g
  | .pandn g _ _ _ => some g
  | .pnot g _ _ => some g
  | .p2v g _ _ => some g
  | .v2p g _ _ => some g
  | .addi g _ _ _ => some g
  | .andi g _ _ _ => some g
  | .ori g _ _ _ => some g
  | .xori g _ _ _ => some g
  | .shli g _ _ _ => some g
  | .shri g _ _ _ => some g
  | .sari g _ _ _ => some g
  | .roli g _ _ _ => some g
  | .mov16 g _ _ => some g
  | .mov16Hi g _ _ => some g
  | .add64 g _ _ _ => some g
  | .sub64 g _ _ _ => some g
  | .padd g _ _ _ => some g
  | .shl64 g _ _ _ => some g
  | .shr64 g _ _ _ => some g
  | .sar64 g _ _ _ => some g
  | .mulw g _ _ _ => some g
  | .mulwui g _ _ _ => some g
  | .mov64 g _ _ => some g
  | .mov g _ _ => some g
  | .sel g _ _ _ _ => some g
  | .pick g _ _ _ => some g
  | .rotu g _ _ _ => some g
  | .rotd g _ _ _ => some g
  | .bfly g _ _ _ => some g
  | .lany g _ _ => some g
  | .lall g _ _ => some g
  | .lmask g _ _ => some g
  | .combAdd g _ _ => some g
  | .combMin g _ _ => some g
  | .combMax g _ _ => some g
  | .combMinui g _ _ => some g
  | .combMaxui g _ _ => some g
  | .combAnd g _ _ => some g
  | .combOr g _ _ => some g
  | .combXor g _ _ => some g
  | .fadd g _ _ _ => some g
  | .fsub g _ _ _ => some g
  | .fmul g _ _ _ => some g
  | .ffma g _ _ _ => some g
  | .fmin g _ _ _ => some g
  | .fmax g _ _ _ => some g
  | .fabs g _ _ => some g
  | .fneg g _ _ => some g
  | .fcpys g _ _ _ => some g
  | .fcmpEq g _ _ _ => some g
  | .fcmpNe g _ _ _ => some g
  | .fcmpLt g _ _ _ => some g
  | .fcmpLe g _ _ _ => some g
  | .fcmpGt g _ _ _ => some g
  | .fcmpGe g _ _ _ => some g
  | .fcmpUnord g _ _ _ => some g
  | .fcmpOrd g _ _ _ => some g
  | .addF16x2 g _ _ _ => some g
  | .subF16x2 g _ _ _ => some g
  | .mulF16x2 g _ _ _ => some g
  | .fmaF16x2 g _ _ _ => some g
  | .minF16x2 g _ _ _ => some g
  | .maxF16x2 g _ _ _ => some g
  | .addBf16x2 g _ _ _ => some g
  | .subBf16x2 g _ _ _ => some g
  | .mulBf16x2 g _ _ _ => some g
  | .fmaBf16x2 g _ _ _ => some g
  | .minBf16x2 g _ _ _ => some g
  | .maxBf16x2 g _ _ _ => some g
  | .rcp g _ _ _ => some g
  | .rsq g _ _ _ => some g
  | .sqrt g _ _ _ => some g
  | .exp2 g _ _ _ => some g
  | .log2 g _ _ _ => some g
  | .sin g _ _ _ => some g
  | .cos g _ _ _ => some g
  | .tanh g _ _ _ => some g
  | .cvtF32F16 g _ _ _ => some g
  | .cvtF32Bf16 g _ _ _ => some g
  | .cvtF16F32 g _ _ _ => some g
  | .cvtBf16F32 g _ _ _ => some g
  | .cvtS32F32 g _ _ => some g
  | .cvtUi32F32 g _ _ => some g
  | .cvtF32S32 g _ _ => some g
  | .cvtF32Ui32 g _ _ => some g
  | .cvtFxF32 g _ _ => some g
  | .cvtF32Fx g _ _ => some g
  | .cvtF16F32Sr g _ _ _ => some g
  | .cvtBf16F32Sr g _ _ _ => some g
  | .cvtF32S64 g _ _ => some g
  | .cvtF32Ui64 g _ _ => some g
  | .pkE4m3 g _ _ _ => some g
  | .pkE5m2 g _ _ _ => some g
  | .pkHs4 g _ _ _ => some g
  | .upkE4m3 g _ _ _ => some g
  | .upkE5m2 g _ _ _ => some g
  | .upkHs4 g _ _ _ => some g
  | .pkE4m3Sr g _ _ _ => some g
  | .pkE5m2Sr g _ _ _ => some g
  | .scxE4m3 g _ _ => some g
  | .scxE5m2 g _ _ => some g
  | .scxHs4 g _ _ => some g
  | .ld _ g _ _ _ => some g
  | .st _ g _ _ _ => some g
  | .ldt _ g _ _ _ _ => some g
  | .stt _ g _ _ _ _ => some g
  | .ldp g _ _ _ => some g
  | .stp g _ _ _ => some g
  | .pfar g _ _ _ => some g
  | .atomAdd _ g _ _ _ => some g
  | .atomMin _ g _ _ _ => some g
  | .atomMax _ g _ _ _ => some g
  | .atomMinui _ g _ _ _ => some g
  | .atomMaxui _ g _ _ _ => some g
  | .atomAnd _ g _ _ _ => some g
  | .atomOr _ g _ _ _ => some g
  | .atomXor _ g _ _ _ => some g
  | .atomXchg _ g _ _ _ => some g
  | .atomCas _ g _ _ _ _ => some g
  | .atomFaddF32 g _ _ _ => some g
  | .atomAddBf16x2 g _ _ _ => some g
  | .atomAddF16x2 g _ _ _ => some g
  | .atomFxadd g _ _ _ => some g
  | .redAdd _ g _ _ _ => some g
  | .redMin _ g _ _ _ => some g
  | .redMax _ g _ _ _ => some g
  | .redMinui _ g _ _ _ => some g
  | .redMaxui _ g _ _ _ => some g
  | .redAnd _ g _ _ _ => some g
  | .redOr _ g _ _ _ => some g
  | .redXor _ g _ _ _ => some g
  | .redFaddF32 g _ _ _ => some g
  | .redAddBf16x2 g _ _ _ => some g
  | .redAddF16x2 g _ _ _ => some g
  | .redFxadd g _ _ _ => some g
  | .wait _ g _ _ _ _ => some g
  | .fenceAcq g _ => some g
  | .fenceRel g _ => some g
  | .fenceAcqrel g _ => some g
  | .bra g _ => some g
  | .nop g => some g
  | .brx g _ => some g
  | .call g _ _ => some g
  | .callx g _ _ => some g
  | .ret g _ => some g
  | .exit g => some g
  | .barA g _ _ _ _ => some g
  | .barW g _ _ _ _ => some g
  | .barAw g _ _ _ _ => some g
  | .issv g _ => some g
  | .rst _ g _ _ _ => some g
  | .uadd q _ _ _ => some q
  | .usub q _ _ _ => some q
  | .uand q _ _ _ => some q
  | .uor q _ _ _ => some q
  | .uxor q _ _ _ => some q
  | .ushl q _ _ _ => some q
  | .ushr q _ _ _ => some q
  | .usar q _ _ _ => some q
  | .umin q _ _ _ => some q
  | .umax q _ _ _ => some q
  | .uminui q _ _ _ => some q
  | .umaxui q _ _ _ => some q
  | .umul q _ _ _ => some q
  | .umulhi q _ _ _ => some q
  | .umulhiu q _ _ _ => some q
  | .ucmpEq q _ _ _ => some q
  | .ucmpNe q _ _ _ => some q
  | .ucmpLt q _ _ _ => some q
  | .ucmpLe q _ _ _ => some q
  | .ucmpGt q _ _ _ => some q
  | .ucmpGe q _ _ _ => some q
  | .ucmpLtui q _ _ _ => some q
  | .ucmpLeui q _ _ _ => some q
  | .ucmpGtui q _ _ _ => some q
  | .ucmpGeui q _ _ _ => some q
  | .qand q _ _ _ => some q
  | .qor q _ _ _ => some q
  | .qxor q _ _ _ => some q
  | .qandn q _ _ _ => some q
  | .qnot q _ _ => some q
  | .uaddi q _ _ _ => some q
  | .uandi q _ _ _ => some q
  | .uori q _ _ _ => some q
  | .uxori q _ _ _ => some q
  | .ushli q _ _ _ => some q
  | .ushri q _ _ _ => some q
  | .usari q _ _ _ => some q
  | .uroli q _ _ _ => some q
  | .umov16 q _ _ => some q
  | .umovk q _ _ => some q
  | .umov q _ _ => some q
  | .readlane q _ _ _ => some q
  | .bcast q _ _ => some q
  | .uld _ q _ _ _ => some q
  | .ust _ q _ _ _ => some q
  | .uatomAdd q _ _ _ => some q
  | .uatomMin q _ _ _ => some q
  | .uatomMax q _ _ _ => some q
  | .uatomMinui q _ _ _ => some q
  | .uatomMaxui q _ _ _ => some q
  | .uatomAnd q _ _ _ => some q
  | .uatomOr q _ _ _ => some q
  | .uatomXor q _ _ _ => some q
  | .uatomXchg q _ _ _ => some q
  | .uatomCas q _ _ _ _ => some q
  | .uatomFaddF32 q _ _ _ => some q
  | .uatomFxadd q _ _ _ => some q
  | .ubra q _ => some q
  | .ucall q _ _ => some q
  | .ucallx q _ _ => some q
  | .uret q _ => some q
  | .uloop q _ _ => some q
  | .spawn q _ _ => some q
  | .sfence q _ _ _ => some q
  | .bjob q _ _ _ => some q
  | .fwait q _ _ => some q
  | .ftest q _ _ => some q
  | .fcancel q _ => some q
  | .fmovHs q _ _ => some q
  | .fmovSh q _ _ => some q
  | .talloc q _ _ => some q
  | .tfree q _ => some q
  | .tstat q _ _ => some q
  | .barinit q _ _ => some q
  | .barsave q _ => some q
  | .barload q _ => some q
  | .mcst q _ _ _ => some q
  | .ridge q _ _ => some q
  | .rstat q _ _ => some q
  | .mbxrd q _ _ => some q
  | .mbxwr q _ _ => some q
  | .movsFromSys q _ _ => some q
  | .movsToSys q _ _ => some q
  | .therm q _ _ => some q
  | .clock q _ => some q
  | .accrd q _ _ => some q
  | .accwr q _ _ => some q
  | .accz q _ => some q
  | .trap q _ _ _ => some q
  | .eret q => some q
  | .eretAns q _ _ => some q
  | .tlbw q _ _ => some q
  | .tlbi q _ _ => some q
  | .mqpop q _ => some q
  | .objmap q _ _ _ => some q
  | .objunmap q _ _ _ => some q
  | .objstat q _ _ => some q
  | .harvest q _ _ _ => some q
  | .preempt q _ _ => some q
  | .resume q _ _ => some q
  | .halt q => some q
  | .bcopy q _ _ _ => some q
  | .bfetch q _ _ => some q
  | .btld q _ _ _ => some q
  | .btst q _ _ _ => some q
  | .bgath q _ _ _ => some q
  | .bscat q _ _ _ => some q
  | .bstep q _ _ => some q
  | .block q _ _ _ => some q
  | .bunlk q _ => some q
  | .btset q _ _ => some q
  | .baccd q _ _ _ => some q
  | .brem q _ _ _ => some q
  | .bdone q _ _ => some q
  | _ => none

/-- The address word of a two-word instruction (R142). -/
def addrOf : Instr → Option AddrWord
  | .ld _ _ _ _ ad => some ad
  | .st _ _ _ _ ad => some ad
  | .ldt _ _ _ _ _ ad => some ad
  | .stt _ _ _ _ _ ad => some ad
  | .ldp _ _ _ ad => some ad
  | .stp _ _ _ ad => some ad
  | .pfar _ _ _ ad => some ad
  | .atomAdd _ _ _ _ ad => some ad
  | .atomMin _ _ _ _ ad => some ad
  | .atomMax _ _ _ _ ad => some ad
  | .atomMinui _ _ _ _ ad => some ad
  | .atomMaxui _ _ _ _ ad => some ad
  | .atomAnd _ _ _ _ ad => some ad
  | .atomOr _ _ _ _ ad => some ad
  | .atomXor _ _ _ _ ad => some ad
  | .atomXchg _ _ _ _ ad => some ad
  | .atomCas _ _ _ _ _ ad => some ad
  | .atomFaddF32 _ _ _ ad => some ad
  | .atomAddBf16x2 _ _ _ ad => some ad
  | .atomAddF16x2 _ _ _ ad => some ad
  | .atomFxadd _ _ _ ad => some ad
  | .redAdd _ _ _ _ ad => some ad
  | .redMin _ _ _ _ ad => some ad
  | .redMax _ _ _ _ ad => some ad
  | .redMinui _ _ _ _ ad => some ad
  | .redMaxui _ _ _ _ ad => some ad
  | .redAnd _ _ _ _ ad => some ad
  | .redOr _ _ _ _ ad => some ad
  | .redXor _ _ _ _ ad => some ad
  | .redFaddF32 _ _ _ ad => some ad
  | .redAddBf16x2 _ _ _ ad => some ad
  | .redAddF16x2 _ _ _ ad => some ad
  | .redFxadd _ _ _ ad => some ad
  | .wait _ _ _ _ _ ad => some ad
  | .rst _ _ _ _ ad => some ad
  | .uld _ _ _ _ ad => some ad
  | .ust _ _ _ _ ad => some ad
  | .uatomAdd _ _ _ ad => some ad
  | .uatomMin _ _ _ ad => some ad
  | .uatomMax _ _ _ ad => some ad
  | .uatomMinui _ _ _ ad => some ad
  | .uatomMaxui _ _ _ ad => some ad
  | .uatomAnd _ _ _ ad => some ad
  | .uatomOr _ _ _ ad => some ad
  | .uatomXor _ _ _ ad => some ad
  | .uatomXchg _ _ _ ad => some ad
  | .uatomCas _ _ _ _ ad => some ad
  | .uatomFaddF32 _ _ _ ad => some ad
  | .uatomFxadd _ _ _ ad => some ad
  | _ => none

/-- Which address-word fields a two-word instruction uses (R190): EV, LAST, SIG, SCOPE (0 none, 1 a code of 0 to 7, 2 a ridge
group), OFFSET. -/
structure AdUse where
  ev : Bool
  last : Bool
  sig : Bool
  scope : Nat
  off : Bool
  deriving DecidableEq, Repr

/-- The rows of R190, and RST (R294). -/
def adUse : Instr → AdUse
  | .ld _ _ _ _ _ => ⟨true, true, false, 1, true⟩
  | .st _ _ _ _ _ => ⟨true, true, true, 1, true⟩
  | .ldt _ _ _ _ _ _ => ⟨false, false, false, 0, true⟩
  | .stt _ _ _ _ _ _ => ⟨false, false, false, 0, true⟩
  | .ldp _ _ _ _ => ⟨true, true, false, 1, true⟩
  | .stp _ _ _ _ => ⟨true, true, true, 1, true⟩
  | .pfar _ _ _ _ => ⟨false, false, false, 0, false⟩
  | .atomAdd _ _ _ _ _ => ⟨true, true, true, 1, true⟩
  | .atomMin _ _ _ _ _ => ⟨true, true, true, 1, true⟩
  | .atomMax _ _ _ _ _ => ⟨true, true, true, 1, true⟩
  | .atomMinui _ _ _ _ _ => ⟨true, true, true, 1, true⟩
  | .atomMaxui _ _ _ _ _ => ⟨true, true, true, 1, true⟩
  | .atomAnd _ _ _ _ _ => ⟨true, true, true, 1, true⟩
  | .atomOr _ _ _ _ _ => ⟨true, true, true, 1, true⟩
  | .atomXor _ _ _ _ _ => ⟨true, true, true, 1, true⟩
  | .atomXchg _ _ _ _ _ => ⟨true, true, true, 1, true⟩
  | .atomCas _ _ _ _ _ _ => ⟨true, true, true, 1, true⟩
  | .atomFaddF32 _ _ _ _ => ⟨true, true, true, 1, true⟩
  | .atomAddBf16x2 _ _ _ _ => ⟨true, true, true, 1, true⟩
  | .atomAddF16x2 _ _ _ _ => ⟨true, true, true, 1, true⟩
  | .atomFxadd _ _ _ _ => ⟨true, true, true, 1, true⟩
  | .redAdd _ _ _ _ _ => ⟨true, true, true, 1, true⟩
  | .redMin _ _ _ _ _ => ⟨true, true, true, 1, true⟩
  | .redMax _ _ _ _ _ => ⟨true, true, true, 1, true⟩
  | .redMinui _ _ _ _ _ => ⟨true, true, true, 1, true⟩
  | .redMaxui _ _ _ _ _ => ⟨true, true, true, 1, true⟩
  | .redAnd _ _ _ _ _ => ⟨true, true, true, 1, true⟩
  | .redOr _ _ _ _ _ => ⟨true, true, true, 1, true⟩
  | .redXor _ _ _ _ _ => ⟨true, true, true, 1, true⟩
  | .redFaddF32 _ _ _ _ => ⟨true, true, true, 1, true⟩
  | .redAddBf16x2 _ _ _ _ => ⟨true, true, true, 1, true⟩
  | .redAddF16x2 _ _ _ _ => ⟨true, true, true, 1, true⟩
  | .redFxadd _ _ _ _ => ⟨true, true, true, 1, true⟩
  | .wait _ _ _ _ _ _ => ⟨true, false, false, 1, true⟩
  | .rst _ _ _ _ _ => ⟨true, true, true, 2, true⟩
  | .uld _ _ _ _ _ => ⟨true, true, false, 1, true⟩
  | .ust _ _ _ _ _ => ⟨true, true, true, 1, true⟩
  | .uatomAdd _ _ _ _ => ⟨true, true, true, 1, true⟩
  | .uatomMin _ _ _ _ => ⟨true, true, true, 1, true⟩
  | .uatomMax _ _ _ _ => ⟨true, true, true, 1, true⟩
  | .uatomMinui _ _ _ _ => ⟨true, true, true, 1, true⟩
  | .uatomMaxui _ _ _ _ => ⟨true, true, true, 1, true⟩
  | .uatomAnd _ _ _ _ => ⟨true, true, true, 1, true⟩
  | .uatomOr _ _ _ _ => ⟨true, true, true, 1, true⟩
  | .uatomXor _ _ _ _ => ⟨true, true, true, 1, true⟩
  | .uatomXchg _ _ _ _ => ⟨true, true, true, 1, true⟩
  | .uatomCas _ _ _ _ _ => ⟨true, true, true, 1, true⟩
  | .uatomFaddF32 _ _ _ _ => ⟨true, true, true, 1, true⟩
  | .uatomFxadd _ _ _ _ => ⟨true, true, true, 1, true⟩
  | _ => ⟨false, false, false, 0, false⟩

/-- A field the entry declares zero is not zero in the address word. -/
def adZeroBad (u : AdUse) (ad : AddrWord) : Bool :=
  (!u.ev && ad.ev != 0) || (!u.last && ad.last != 0) || (!u.sig && ad.sig != 0)
    || (u.scope == 0 && ad.scope != 0) || (!u.off && ad.off != 0)

/-- The constraints of R212 and R348 on a barrier word: RANK zero without PEER; NUM below 1,024; with SREG, B zero and no PEER;
PEER only with BAR.A. -/
def barBad (arrive : Bool) (s p : BitVec 1) (r : BitVec 3) (n : BitVec 12) : Bool :=
  (p == 0 && r != 0) || (s == 0 && n.toNat ≥ 1024) || (s == 1 && (n.toNat % 64 != 0 || p == 1)) || (!arrive && p == 1)

/-- A field that an instruction's entry declares zero is not zero (REASON 0 of R347), beyond what the word's own layout fixes. -/
def zeroBad : Instr → Bool
  | .barA _ s p r n => barBad true s p r n
  | .barW _ s p r n => barBad false s p r n
  | .barAw _ s p r n => barBad false s p r n
  | .mscl d a y x => (x.toNat == 3 || x.toNat == 4) && (y == x) && (d != 0 || a != 0)
  | i => match addrOf i with
    | some ad => adZeroBad (adUse i) ad
    | none => false

/-- A register field breaks R150 (REASON 1). -/
def regBad (i : Instr) : Bool := (regUses i).any (fun u => u.r % u.align != 0)

/-- A reserved scope code outside RST (REASON 3). -/
def scopeBad (i : Instr) : Bool :=
  match addrOf i with
  | some ad => (adUse i).scope == 1 && ad.scope.toNat ≥ 8
  | none => false

/-- The reasons for RESERVED_FIELD that the word alone gives, lowest first (R346, R347). -/
def fieldFaults (i : Instr) : List Nat :=
  (if zeroBad i then [0] else []) ++ (if regBad i then [1] else []) ++ (if scopeBad i then [3] else [])

/-- Long-latency words with an address word or LOOK field, or marked so (R65, R146). -/
def isLong : Instr → Bool
  | .rcp _ _ _ _ => true
  | .rsq _ _ _ _ => true
  | .sqrt _ _ _ _ => true
  | .exp2 _ _ _ _ => true
  | .log2 _ _ _ _ => true
  | .sin _ _ _ _ => true
  | .cos _ _ _ _ => true
  | .tanh _ _ _ _ => true
  | .ld _ _ _ _ _ => true
  | .st _ _ _ _ _ => true
  | .ldt _ _ _ _ _ _ => true
  | .stt _ _ _ _ _ _ => true
  | .ldp _ _ _ _ => true
  | .stp _ _ _ _ => true
  | .pfar _ _ _ _ => true
  | .atomAdd _ _ _ _ _ => true
  | .atomMin _ _ _ _ _ => true
  | .atomMax _ _ _ _ _ => true
  | .atomMinui _ _ _ _ _ => true
  | .atomMaxui _ _ _ _ _ => true
  | .atomAnd _ _ _ _ _ => true
  | .atomOr _ _ _ _ _ => true
  | .atomXor _ _ _ _ _ => true
  | .atomXchg _ _ _ _ _ => true
  | .atomCas _ _ _ _ _ _ => true
  | .atomFaddF32 _ _ _ _ => true
  | .atomAddBf16x2 _ _ _ _ => true
  | .atomAddF16x2 _ _ _ _ => true
  | .atomFxadd _ _ _ _ => true
  | .redAdd _ _ _ _ _ => true
  | .redMin _ _ _ _ _ => true
  | .redMax _ _ _ _ _ => true
  | .redMinui _ _ _ _ _ => true
  | .redMaxui _ _ _ _ _ => true
  | .redAnd _ _ _ _ _ => true
  | .redOr _ _ _ _ _ => true
  | .redXor _ _ _ _ _ => true
  | .redFaddF32 _ _ _ _ => true
  | .redAddBf16x2 _ _ _ _ => true
  | .redAddF16x2 _ _ _ _ => true
  | .redFxadd _ _ _ _ => true
  | .wait _ _ _ _ _ _ => true
  | .issv _ _ => true
  | .rst _ _ _ _ _ => true
  | .uld _ _ _ _ _ => true
  | .ust _ _ _ _ _ => true
  | .uatomAdd _ _ _ _ => true
  | .uatomMin _ _ _ _ => true
  | .uatomMax _ _ _ _ => true
  | .uatomMinui _ _ _ _ => true
  | .uatomMaxui _ _ _ _ => true
  | .uatomAnd _ _ _ _ => true
  | .uatomOr _ _ _ _ => true
  | .uatomXor _ _ _ _ => true
  | .uatomXchg _ _ _ _ => true
  | .uatomCas _ _ _ _ _ => true
  | .uatomFaddF32 _ _ _ _ => true
  | .uatomFxadd _ _ _ _ => true
  | .spawn _ _ _ => true
  | .sfence _ _ _ _ => true
  | .bjob _ _ _ _ => true
  | .fwait _ _ _ => true
  | .talloc _ _ _ => true
  | .barsave _ _ => true
  | .barload _ _ => true
  | .mcst _ _ _ _ => true
  | .ridge _ _ _ => true
  | .mbxrd _ _ _ => true
  | .mbxwr _ _ _ => true
  | .accrd _ _ _ => true
  | .accwr _ _ _ => true
  | .accz _ _ => true
  | .trap _ _ _ _ => true
  | .tlbw _ _ _ => true
  | .tlbi _ _ _ => true
  | .mqpop _ _ => true
  | .objmap _ _ _ _ => true
  | .objunmap _ _ _ _ => true
  | .objstat _ _ _ => true
  | .harvest _ _ _ _ => true
  | .resume _ _ _ => true
  | _ => false

/-- LOOK of an LS word (R146). -/
def lsLook : Instr → Option (BitVec 4)
  | .rcp _ _ _ k => some k
  | .rsq _ _ _ k => some k
  | .sqrt _ _ _ k => some k
  | .exp2 _ _ _ k => some k
  | .log2 _ _ _ k => some k
  | .sin _ _ _ k => some k
  | .cos _ _ _ k => some k
  | .tanh _ _ _ k => some k
  | _ => none

end Sys2Proof.Machine
end

