-- ==== Sys2Proof/Machine/Ops.lean ====
section
/-! DEFINITION. The named operations over registers, courses, cores, bays and memory that every meaning is written with. -/

namespace Sys2Proof.Machine

/-! ## Parts of the state -/

/-- Core c (R11). -/
def State.core (s : State) (c : Nat) : Core := mget s.cores c {}
def State.setCore (s : State) (c : Nat) (x : Core) : State := { s with cores := mset s.cores c x }
def State.updCore (s : State) (c : Nat) (f : Core → Core) : State := s.setCore c (f (s.core c))
/-- The course in a slot of a core, if one is resident (R27). -/
def State.course? (s : State) (c k : Nat) : Option Course := mget? (s.core c).courses k
def State.setCourse (s : State) (c k : Nat) (x : Course) : State :=
  s.setCore c { s.core c with courses := mset (s.core c).courses k x }
def State.updCourse (s : State) (c k : Nat) (f : Course → Course) : State :=
  match s.course? c k with
  | some x => s.setCourse c k (f x)
  | none => s
/-- The block in a block slot of a core (R34). -/
def State.block? (s : State) (c b : Nat) : Option Block := mget? (s.core c).blocks b
def State.setBlock (s : State) (c b : Nat) (x : Block) : State :=
  s.setCore c { s.core c with blocks := mset (s.core c).blocks b x }
def State.updBlock (s : State) (c b : Nat) (f : Block → Block) : State :=
  match s.block? c b with
  | some x => s.setBlock c b (f x)
  | none => s
def State.bay (s : State) (b : Nat) : Bay := mget s.bays b {}
def State.setBay (s : State) (b : Nat) (x : Bay) : State := { s with bays := mset s.bays b x }
def State.updBay (s : State) (b : Nat) (f : Bay → Bay) : State := s.setBay b (f (s.bay b))
def State.slice (s : State) (n : Nat) : Slice := mget s.slices n {}
def State.updSlice (s : State) (n : Nat) (f : Slice → Slice) : State := { s with slices := mset s.slices n (f (s.slice n)) }
/-- A batten processor of a core (R247). -/
def State.proc (s : State) (c p : Nat) : Proc := mget (s.core c).procs p {}
def State.updProc (s : State) (c p : Nat) (f : Proc → Proc) : State :=
  s.updCore c (fun co => { co with procs := mset co.procs p (f (mget co.procs p {})) })
def State.job? (s : State) (c p : Nat) : Option Job := (s.proc c p).job
def State.updJob (s : State) (c p : Nat) (f : Job → Job) : State :=
  s.updProc c p (fun pr => { pr with job := pr.job.map f })
def State.seq? (s : State) (c b : Nat) : Option Seq := (s.block? c b).bind (·.seq)
def State.updSeq (s : State) (c b : Nat) (f : Seq → Seq) : State :=
  s.updBlock c b (fun bl => { bl with seq := bl.seq.map f })

/-- The bay of a core: the bay its column is assigned to (R11, R44). -/
def State.bayOf? (s : State) (c : Nat) : Option Nat := mget? s.cols (c / 8)
/-- The same as a number; 16, which no bay has, for a column of no bay. -/
def State.bayOf (s : State) (c : Nat) : Nat := (s.bayOf? c).getD 16
/-- Cores of a bay in ascending order (R44). -/
def State.coresOf (s : State) (b : Nat) : List Nat := (List.range 256).filter (fun c => s.bayOf? c == some b)
/-- The supervisor core: the lowest-numbered core of the bay (R45). -/
def State.svCore (s : State) (b : Nat) : Nat := (s.coresOf b).headD 0

/-- A unit's own T: cores 0 to 255, slices 256 to 511 (R265). -/
def State.unitT (s : State) (u : Nat) : Nat := ((s.t : Int) + mget s.skew u 0).toNat
/-- T as a core reads it. -/
def State.coreT (s : State) (c : Nat) : Nat := s.unitT c

/-! ## Active sets (R64) -/

/-- ns for which the voltage of a change may still settle (R421). -/
def settleLeft (x : Island) (t : Nat) : Nat := if x.target.isSome then x.since + 10000 - t else 0
/-- Clock of the operating point: while a change settles the lower of the old and new clocks (R421). -/
def pointMhz (x : Island) (t : Nat) : Nat := match x.target with
  | some m => if settleLeft x t = 0 then m else Nat.min x.mhz m
  | none => x.mhz
/-- A clock under the power cap, which goes down to 1.5 GHz (R422). -/
def cutMhz (base cut : Nat) : Nat := if base ≤ 1500 then base else Nat.max 1500 (base - 100 * cut)
/-- Cycles a core's island has run, in thousandths. -/
def coreCyc (s : State) (c : Nat) : Nat := (mget s.islands c {}).cyc
/-- Courses of a quarter. -/
def Core.quarter (co : Core) (q : Nat) : List Nat := (mkeys co.courses).filter (fun k => k / 128 == q)
/-- Where a quarter holds 8 courses or fewer, all of them are active (R64). -/
def Core.settle (t cyc : Nat) (co : Core) : Core :=
  { co with courses := co.courses.map (fun e => (e.1,
      if !e.2.active && decide ((co.quarter (e.1 / 128)).length ≤ 8) then { e.2 with active := true, since := t, cyc := cyc } else e.2)) }
/-- After a step that has added courses to a core or taken them away. -/
def settleCore (s : State) (c : Nat) : State := s.updCore c (Core.settle s.t (coreCyc s c))

/-! ## Lanes and registers -/

/-- Lane l of a course. -/
def Course.lane (c : Course) (l : Nat) : Lane := c.lanes.getD l {}
/-- Every lane of a course rewritten. -/
def Course.mapLanes (c : Course) (f : Nat → Lane → Lane) : Course :=
  { c with lanes := (List.range 8).map (fun l => f l (c.lane l)) }
def Course.updLane (c : Course) (l : Nat) (f : Lane → Lane) : Course :=
  c.mapLanes (fun k ln => if k = l then f ln else ln)
def State.lane (s : State) (c k l : Nat) : Lane := ((s.course? c k).getD {}).lane l
def State.updLane (s : State) (c k l : Nat) (f : Lane → Lane) : State := s.updCourse c k (·.updLane l f)

/-- A lane that is not exited (R21). -/
def Lane.live (ln : Lane) : Bool := ln.st != .exited
def Lane.isReady (ln : Lane) : Bool := ln.st == .ready

/-- v register (R149); the group forms of R4, even register low. -/
def Lane.rv (ln : Lane) (r : Nat) : W32 := mget ln.v r 0
def Lane.rv2 (ln : Lane) (r : Nat) : W64 := ln.rv (r + 1) ++ ln.rv r
def Lane.rv4 (ln : Lane) (r : Nat) : W128 := ln.rv2 (r + 2) ++ ln.rv2 r
def Lane.wv (ln : Lane) (r : Nat) (x : W32) : Lane := { ln with v := mset ln.v r x }
def Lane.wv2 (ln : Lane) (r : Nat) (x : W64) : Lane := (ln.wv r (x.setWidth 32)).wv (r + 1) ((x >>> 32).setWidth 32)
def Lane.wv4 (ln : Lane) (r : Nat) (x : W128) : Lane := (ln.wv2 r (x.setWidth 64)).wv2 (r + 2) ((x >>> 64).setWidth 64)
/-- n bytes of a group as a number. -/
def Lane.rvn (ln : Lane) (r n : Nat) : Nat :=
  if n ≤ 4 then (ln.rv r).toNat % 2 ^ (8 * n) else if n = 8 then (ln.rv2 r).toNat else (ln.rv4 r).toNat
/-- A group that holds n bytes, written whole. -/
def Lane.wvn (ln : Lane) (r n x : Nat) : Lane :=
  if n ≤ 4 then ln.wv r (BitVec.ofNat 32 x) else if n = 8 then ln.wv2 r (BitVec.ofNat 64 x) else ln.wv4 r (BitVec.ofNat 128 x)
/-- p register: p7 reads 1 and discards writes (R145). -/
def Lane.rp (ln : Lane) (k : PReg) : Bool := if k = 7 then true else ln.p.getLsbD k.toNat
/-- A 7-bit predicate file with bit k set to b. -/
def setBit7 (p : BitVec 7) (k : Nat) (b : Bool) : BitVec 7 :=
  if b then p ||| (1#7 <<< k) else p &&& ~~~(1#7 <<< k)
def Lane.wp (ln : Lane) (k : PReg) (b : Bool) : Lane := if k = 7 then ln else { ln with p := setBit7 ln.p k.toNat b }

/-- s and q registers (R149); q7 reads 1 and discards writes (R145). -/
def Uni.rs (u : Uni) (r : Nat) : W64 := mget u.s r 0
def Uni.ws (u : Uni) (r : Nat) (x : W64) : Uni := { u with s := mset u.s r x }
def Uni.rs2 (u : Uni) (r : Nat) : W128 := u.rs (r + 1) ++ u.rs r
def Uni.ws2 (u : Uni) (r : Nat) (x : W128) : Uni := (u.ws r (x.setWidth 64)).ws (r + 1) ((x >>> 64).setWidth 64)
def Uni.rq (u : Uni) (k : BitVec 3) : Bool := if k = 7 then true else u.q.getLsbD k.toNat
def Uni.wq (u : Uni) (k : BitVec 3) (b : Bool) : Uni := if k = 7 then u else { u with q := setBit7 u.q k.toNat b }
/-- h registers; 0 is the empty handle (R249). -/
def Course.rh (c : Course) (k : Nat) : W64 := mget c.h k 0
def Course.wh (c : Course) (k : Nat) (x : W64) : Course := { c with h := mset c.h k x }

/-! ## The issuing agent -/

/-- Uniform state of the issuer. -/
def uniOf (s : State) : Issuer → Uni
  | .course c k => ((s.course? c k).getD {}).u
  | .job c p => ((s.job? c p).map (·.u)).getD {}
  | .seq _ _ => {}
def issCore : Issuer → Nat
  | .course c _ => c
  | .job c _ => c
  | .seq c _ => c
/-- Whether the issuer exists. -/
def resident (s : State) : Issuer → Bool
  | .course c k => (s.course? c k).isSome
  | .job c p => (s.job? c p).isSome
  | .seq c b => (s.seq? c b).isSome
/-- The lowest lane of the issue mask: the issuing thread of a U-set word (R206). -/
def Issue.low (i : Issue) : Nat := i.mask.foldl Nat.min (i.mask.headD 0)
/-- Block slot of the issuer. -/
def blkOf (s : State) : Issuer → Nat
  | .course c k => ((s.course? c k).getD {}).blk
  | .job c p => ((s.job? c p).map (·.blk)).getD 0
  | .seq _ b => b
/-- Privilege of the issuer's accesses (R89, R305). -/
def prvOf (s : State) : Issuer → Bool
  | .course c k => ((s.course? c k).getD {}).prv
  | .job c p => ((s.job? c p).map (·.prv)).getD false
  | .seq _ _ => false
/-- Highest v register the issuer's block may name (R73). The reserved courses have all 64 (log 12). -/
def vregsOf (s : State) (w : Issuer) : Nat :=
  if blkOf s w ≥ 510 then 63 else ((s.block? (issCore w) (blkOf s w)).map (·.vregs)).getD 0

/-- The open lookahead windows after an issue (R65): every other window falls by 1. -/
def tickWins (wins : List (Nat × Nat)) (id : Nat) : List (Nat × Nat) :=
  wins.map (fun w => if w.1 = id then w else (w.1, w.2 - 1))

/-- The end of an issue for a course: each lane of the mask becomes what `f` makes of it and its fairness counter is 0; each other
ready lane of a slice the issue counts for adds 1 to its counter (R22, R24); windows fall (R65). -/
def endCourse (t : Nat) (iss : Issue) (u : Bool) (f : Nat → Lane → Lane) (c : Course) : Course :=
  let c' := c.mapLanes (fun l ln =>
    if l ∈ iss.mask then { f l ln with fair := 0 }
    else if ln.isReady && iss.counts.contains (l / 4) then { ln with fair := ln.fair + 1 } else ln)
  { c' with wins := tickWins c'.wins iss.id, lastU := if u then t else c'.lastU, lastL := if u then c'.lastL else t }

/-- The end of an issue: lanes of the mask become what `f` makes of them; a job or sequencer moves to `pc`. -/
def endIssue (s : State) (iss : Issue) (u : Bool) (f : Nat → Lane → Lane) (pc : W64) : State :=
  match iss.who with
  | .course c k => s.updCourse c k (endCourse s.t iss u f)
  | .job c p => s.updJob c p (fun j => { j with pc := pc })
  | .seq c b => s.updSeq c b (fun q => { q with pc := pc })

/-- The end of an issue that moves nothing but the program counters (R22). -/
def skip (s : State) (iss : Issue) (u : Bool) : State :=
  endIssue s iss u (fun _ ln => { ln with pc := iss.next }) iss.next

/-- Active lanes: lanes of the mask whose guard reads 1 (R25, R157). -/
def activeLanes (s : State) (iss : Issue) (g : Guard) : List Nat :=
  match iss.who with
  | .course c k => iss.mask.filter (fun l => (s.lane c k l).rp g)
  | _ => []

/-- An L-set word that acts in each active lane by itself: every source is read before any destination is written (R150). -/
def laneOp (s : State) (iss : Issue) (g : Guard) (f : Lane → Lane) : State :=
  endIssue s iss false (fun _ ln => { (if ln.rp g then f ln else ln) with pc := iss.next }) iss.next

/-- A U-set word that acts on the uniform state once (R29). -/
def uniOp (s : State) (iss : Issue) (f : Uni → Uni) : State :=
  skip (match iss.who with
    | .course c k => s.updCourse c k (fun co => { co with u := f co.u })
    | .job c p => s.updJob c p (fun j => { j with u := f j.u })
    | .seq _ _ => s) iss true

/-! ## Memory bytes (R4, R84; log 1) -/

/-- The byte at a physical address: an unlisted address reads as 0. -/
def memGet (m : List Host.Cell) (a : Nat) : Byte := mget m a 0
/-- Write one byte; the canonical form lists no 0. -/
def memSet (m : List Host.Cell) (a : Nat) (b : Byte) : List Host.Cell := if b = 0 then mdel m a else mset m a b
/-- The canonical form: addresses strictly rising, no byte 0. -/
def memWf : List Host.Cell → Bool
  | [] => true
  | [(_, b)] => b != 0
  | (a, b) :: (a', b') :: m => b != 0 && decide (a < a') && memWf ((a', b') :: m)

/-- An open range without one address. -/
def undefDrop (us : List Undef) (a : Nat) : List Undef :=
  us.flatMap (fun u =>
    if u.lo ≤ a && a ≤ u.hi then
      (if u.lo < a then [{ u with hi := a - 1 }] else []) ++ (if a < u.hi then [{ u with lo := a + 1 }] else [])
    else [u])

/-- The value a read of a byte returns: the byte, or where the spec leaves it open a free value: one of the values held (R93), or
any (R82). -/
def State.readByte (s : State) (a : Nat) : Byte :=
  match s.undef.find? (fun u => decide (u.lo ≤ a ∧ a ≤ u.hi)) with
  | none => memGet s.mem a
  | some u =>
    if u.held then
      (let vs := memGet s.mem a :: mget s.hist a []
       vs.getD (Config.freeChoice (s.free * 2 ^ 48 + a) % vs.length) 0)
    else Config.freeByte (s.free * 2 ^ 48 + a)
/-- n bytes from an address. -/
def State.readBytes (s : State) (a n : Nat) : List Byte := (List.range n).map (fun i => s.readByte (a + i))
/-- A little-endian list of bytes as a number. -/
def leNum : List Byte → Nat
  | [] => 0
  | b :: bs => b.toNat + 256 * leNum bs
/-- After a read: later free values are fresh. -/
def State.bumpFree (s : State) : State := { s with free := s.free + 1 }
/-- Write one byte of memory; its sector's latest write is this step (R271; log 85). -/
def State.writeByte (s : State) (a : Nat) (b : Byte) : State :=
  { s with mem := memSet s.mem a b, undef := undefDrop s.undef a,
           hist := mset s.hist a (memGet s.mem a :: mget s.hist a []), wrote := mset s.wrote (a / 32) (s.stepNo + 1) }
/-- Write bytes at rising addresses. -/
def State.writeBytes (s : State) : Nat → List Byte → State
  | _, [] => s
  | a, b :: bs => (s.writeByte a b).writeBytes (a + 1) bs
/-- A little-endian number of n bytes. -/
def State.readNat (s : State) (a n : Nat) : Nat := leNum (s.readBytes a n)

end Sys2Proof.Machine
end

