-- ==== Sys2Proof/Machine/Faults.lean ====
section
/-! DEFINITION. Taking a fault, as one shared operation: the fault record (R334 to R336), the hold of its lanes (R337), the record buffer
(R339), containment (R340 to R342), the kill of a block (R358, R359), the end of a faulted batten job (R394, R395) and of a faulted stream
(R400). -/

namespace Sys2Proof.Machine

/-! ## Records -/

/-- CLASS of a code (R336). -/
def classOf (code : Nat) : Nat :=
  if code = 0x3F then 7 else if code < 0x10 then 0 else if code < 0x15 then 1 else if code < 0x20 then 2
  else if code < 0x30 then 3 else 4

/-- The 64 bytes of a fault record (R334). -/
def FaultRec.bits (r : FaultRec) : W512 :=
  r.loc ++ BitVec.ofNat 64 r.tflt ++ r.pc ++ r.aux ++ r.ticket ++ r.lmask ++ BitVec.ofNat 9 r.blk ++ BitVec.ofNat 3 r.agent
    ++ BitVec.ofBool r.lf ++ BitVec.ofBool r.async ++ BitVec.ofBool r.cont ++ BitVec.ofBool r.held ++ (0 : BitVec 72)
    ++ BitVec.ofNat 8 r.code ++ (0 : BitVec 5) ++ BitVec.ofNat 3 (classOf r.code) ++ BitVec.ofNat 8 r.lost ++ (0x10 : BitVec 8)

/-- A ticket names incarnation, course slot and core; bit 63 marks a fault (R314, R335). -/
def ticket (fault : Bool) (inc : BitVec 16) (slot core : Nat) : W64 :=
  BitVec.ofBool fault ++ (0 : BitVec 15) ++ inc ++ (0 : BitVec 15) ++ BitVec.ofNat 9 slot ++ BitVec.ofNat 8 core

/-- A lane list as LMASK. -/
def lmaskOf (ls : List Nat) : BitVec 8 := ls.foldl (fun m l => m ||| (1#8 <<< l)) 0

/-- AUX of class 0 (R347). -/
def aux0 (reason pos : Nat) (word : W32) : W64 :=
  (0 : BitVec 16) ++ BitVec.ofNat 8 reason ++ (0 : BitVec 4) ++ BitVec.ofNat 4 pos ++ word

/-- WORD of BARRIER_UNREACHABLE (R354). -/
def barWord (num rank : Nat) (peer : Bool) : W32 :=
  (0 : BitVec 18) ++ BitVec.ofBool peer ++ BitVec.ofNat 3 rank ++ BitVec.ofNat 10 num

/-- KIND of R362. -/
def kindNum : AccKind → Nat
  | .load => 0 | .store => 1 | .atomic => 2 | .red => 3 | .fetch => 4 | .ldp => 5 | .stp => 6 | .wait => 7 | .bread => 8 | .bwrite => 9

/-- AUX of class 1 (R362). -/
def aux1 (reason slog : Nat) (k : AccKind) (size detail : Nat) : W64 :=
  BitVec.ofNat 8 reason ++ BitVec.ofNat 8 slog ++ BitVec.ofNat 4 (kindNum k) ++ BitVec.ofNat 4 (size - 1) ++ (0 : BitVec 8)
    ++ BitVec.ofNat 32 detail

/-- AUX of class 2 (R380): PGEN is zero for LDP. -/
def aux2 (reason frame : Nat) (pgen fgen : BitVec 4) (k : AccKind) (size cause : Nat) : W64 :=
  BitVec.ofNat 8 reason ++ (0 : BitVec 2) ++ BitVec.ofNat 22 frame ++ (if k == .ldp then 0 else pgen) ++ fgen ++ BitVec.ofNat 4 (kindNum k)
    ++ BitVec.ofNat 4 (size - 1) ++ BitVec.ofNat 8 cause ++ (0 : BitVec 8)

/-- AUX of class 3 (R392). -/
def aux3 (reason cause replays tstate tile fent lgen hgen : Nat) : W64 :=
  BitVec.ofNat 8 reason ++ BitVec.ofNat 8 cause ++ BitVec.ofNat 4 replays ++ BitVec.ofNat 4 tstate ++ BitVec.ofNat 8 tile
    ++ BitVec.ofNat 8 fent ++ BitVec.ofNat 12 lgen ++ BitVec.ofNat 12 hgen

/-- AUX of class 4 (R405). -/
def aux4 (reason peer bay plane group : Nat) (rinc : BitVec 16) (k : Nat) (size : Nat) : W64 :=
  BitVec.ofNat 8 reason ++ BitVec.ofNat 9 peer ++ BitVec.ofNat 4 bay ++ BitVec.ofNat 3 plane ++ BitVec.ofNat 8 group ++ rinc
    ++ BitVec.ofNat 4 k ++ BitVec.ofNat 4 (size - 1) ++ (0 : BitVec 8)

/-! ## Mailboxes (R46, R47) -/

def Bay.mailbox (b : Bay) (m : Nat) : Mailbox := mget b.mail m {}
/-- Unread entries of a mailbox. -/
def State.unread (s : State) (b m : Nat) : Nat := ((s.bay b).mailbox m).entries.length
/-- A packet leaves for a bay: it carries the bay's incarnation (R287). -/
def hopOf (s : State) (bay : Nat) (plane : Option Nat) : Hop := { bay := bay, inc := (s.bay bay).inc, plane := plane }
/-- Append one entry; the producer count rises by 1 (R47). -/
def State.appendMail (s : State) (b m : Nat) (e : W512) : State :=
  s.updBay b (fun y =>
    let mb := y.mailbox m
    let mb' : Mailbox := { mb with
      entries := mb.entries ++ [e], prod := mb.prod + 1, since := if mb.entries.isEmpty then s.t else mb.since }
    { y with mail := mset y.mail m mb' })

/-! ## Futures, tiles, frames -/

/-- Free a future entry: its GEN advances, it joins the free list (R250). -/
def freeFut (e : Nat) (c : Core) : Core :=
  match mget? c.futs e with
  | none => c
  | some f => { c with futs := mdel c.futs e, futFree := c.futFree ++ [e], futGen := mset c.futGen e (f.gen + 1) }
/-- Free a tile-table entry: its generation advances, it joins the free list (R77). -/
def freeTile (e : Nat) (c : Core) : Core :=
  match mget? c.tiles e with
  | none => c
  | some t => { c with tiles := mdel c.tiles e, tileFree := c.tileFree ++ [e], tileGen := mset c.tileGen e (t.gen + 1) }

/-- Physical address of a frame-table entry (R105). -/
def frameAddr (s : State) (b f : Nat) : Nat := (s.bay b).ftBase + 32 * f
/-- The low 64 bits of a frame's entry: LEN, GEN, STATE, MODE (R105). -/
def frameLow (s : State) (b f : Nat) : Nat := s.readNat (frameAddr s b f) 8
def frameState (s : State) (b f : Nat) : Nat := frameLow s b f / 2 ^ 25 % 8
def frameMode (s : State) (b f : Nat) : Nat := frameLow s b f / 2 ^ 23 % 4
def frameGen (s : State) (b f : Nat) : BitVec 4 := BitVec.ofNat 4 (frameLow s b f / 2 ^ 28)
/-- LEN, 0 meaning 2^32 (R105). -/
def frameLen (s : State) (b f : Nat) : Nat :=
  if frameLow s b f / 2 ^ 32 = 0 then 2 ^ 32 else frameLow s b f / 2 ^ 32
def frameBase (s : State) (b f : Nat) : W64 := BitVec.ofNat 64 (s.readNat (frameAddr s b f + 8) 8)
def frameName (s : State) (b f : Nat) : W128 := BitVec.ofNat 128 (s.readNat (frameAddr s b f + 16) 16)
/-- n little-endian bytes of a number. -/
def natBytes : Nat → Nat → List Byte
  | 0, _ => []
  | n + 1, x => BitVec.ofNat 8 x :: natBytes n (x / 256)
/-- A frame's STATE written in its entry (R106). -/
def setFrameState (s : State) (b f st : Nat) : State :=
  let low := frameLow s b f
  s.writeBytes (frameAddr s b f) (natBytes 8 (low - low / 2 ^ 25 % 8 * 2 ^ 25 + st * 2 ^ 25))

/-! ## Accesses of agents -/

/-- Whether a phase comes before the perform step at a home. -/
def Phase.unperformed : Phase → Bool
  | .replied .. => false
  | .recorded .. => false
  | .cxl .. => false
  | .name _ => false
  | _ => true

/-- Write kinds: a store, STP, atomic, reduction or batten write (R267). -/
def AccKind.isWrite : AccKind → Bool
  | .store => true | .stp => true | .atomic => true | .red => true | .bwrite => true | _ => false

def agentCore? : Agent → Option Nat
  | .thread c _ _ => some c
  | .job c _ => some c
  | .seq c _ => some c
  | .core c => some c
  | .bayq _ => none
  | .stage c _ => some c
  | .ingress _ => none
  | .host => none
  | .service _ => none
  | .orphan _ _ => none

/-- What becomes of the accesses of agents that end (R341, R358): a write on its way is performed or never performed, so it is kept as an
orphan's; every other access is discarded. -/
def orphanAccs (bay : Nat) (gone : Agent → Bool) (as : List Access) : List Access :=
  as.filterMap (fun a =>
    if gone a.ag then
      let left := if a.kind.isWrite then some { a with ag := .orphan (agentCore? a.ag) bay, dest := .none } else none
      (match a.ph with
       | .flight _ => left
       | .remote _ => left
       -- performed, with its record on its way: a pending mark stands until it comes (R269)
       | .recorded .. => left
       | .cxl .. => left
       | _ => none)
    else some a)

/-- Insert by identifier: issue order. -/
def insertAcc (a : Access) : List Access → List Access
  | [] => [a]
  | x :: l => if a.id < x.id then a :: x :: l else x :: insertAcc a l
/-- Accesses in issue order, lanes of one issue in ascending order. -/
def sortAccs (l : List Access) : List Access := l.foldr insertAcc []
/-- Insert by lane: a record has the details of the lowest lane of its mask (R334). -/
def insertLane (a : Access) : List Access → List Access
  | [] => [a]
  | x :: l => if a.lanes.headD 8 < x.lanes.headD 8 then a :: x :: l else x :: insertLane a l
def sortLanes (l : List Access) : List Access := (sortAccs l).reverse.foldl (fun l a => insertLane a l) []

def State.mapSlices (s : State) (f : Slice → Slice) : State := { s with slices := s.slices.map (fun e => (e.1, f e.2)) }
/-- Every monitor entry without the lanes that are gone, those that wait through this package's own peer window among them; an entry with no lane left
is removed (R204, R282). -/
def dropMonitors (gone : Nat × Nat × Nat → Bool) (s : State) : State :=
  let tags := (s.peerMon.filter (fun e => gone e.2)).map (·.1)
  let away := fun (p : PeerReq) => p.pkg == s.pkgid.toNat && tags.contains p.tag
  { s.mapSlices (fun sl => { sl with mon := (sl.mon.map (fun e =>
      { e with lanes := e.lanes.filter (fun l => !gone l), peers := e.peers.filter (fun p => !away p) })).filter (fun e => !e.lanes.isEmpty || !e.peers.isEmpty) })
    with peerMon := s.peerMon.filter (fun e => !gone e.2) }

/-! ## Stopping a batten job (R262, R358, R395, R443) -/

/-- The tile a transfer of the job had filling or draining goes to empty; its bytes stay as they are. -/
def tileToEmpty (e : Nat) (c : Core) : Core :=
  match mget? c.tiles e with
  | none => c
  | some t => if t.st = .filling ∨ t.st = .draining then { c with tiles := mset c.tiles e { t with st := .empty } } else c

/-- A running job stops before its next word: accesses not yet performed are dropped, tiles it had filling or draining go to empty, its locks
end with it, and a frame its BFETCH was filling becomes vacated. -/
def stopJob (s : State) (c p : Nat) : State :=
  match s.job? c p with
  | none => s
  | some j =>
    let s := s.updCore c (fun co => j.xfers.foldl (fun co x => if x.trans then (match x.ent with | some e => tileToEmpty e co | none => co) else co) co)
    let s := { s with accs := s.accs.filter (fun a => !(a.ag == Agent.job c p)) }
    let s := s.updProc c p (fun pr => { pr with job := none })
    j.frames.foldl (fun s f => if frameState s (s.bayOf c) f = 1 then setFrameState s (s.bayOf c) f 4 else s) s

/-! ## Containment (R340 to R342) -/

/-- A reserved course of 8 lanes, ready at its entry (R45, R427). -/
def reservedCourse (slot : Nat) (pc : W64) (u : Uni) : Course :=
  { blk := slot, lanes := (List.range 8).map (fun _ => { pc := pc, st := .ready }), u := u, prv := true }

/-- Column bitmap of a bay (R427). -/
def colBits (s : State) (b : Nat) : W64 :=
  (List.range 32).foldl (fun m g => if mget? s.cols g = some b then m ||| (1#64 <<< g) else m) 0

/-- The walkers and the supervisor of a bay start (R319, R427): s0 = ROOT; the supervisor also gets the incarnation and the columns. -/
def startReserved (s : State) (b : Nat) : State :=
  let y := s.bay b
  let s := (s.coresOf b).foldl (fun s c =>
    settleCore (s.setCourse c 511 { reservedCourse 511 y.walkPc { s := [(0, y.root)] } with since := s.t, cyc := coreCyc s c }) c) s
  if (s.coresOf b).isEmpty then s
  else settleCore (s.setCourse (s.svCore b) 510
    { reservedCourse 510 y.svPc { s := [(0, y.root), (1, y.inc.setWidth 64), (2, colBits s b)] } with since := s.t, cyc := coreCyc s (s.svCore b) }) (s.svCore b)

/-- Step 2 of R341 at one core: everything of the bay's agents there is discarded; futures and tiles are freed in ascending order. -/
def clearCore (c : Core) : Core :=
  let c := (mkeys c.futs).foldl (fun c e => freeFut e c) c
  let c := (mkeys c.tiles).foldl (fun c e => freeTile e c) c
  { c with futFree := List.range 256, courses := [], blocks := [], mq := [], heldPages := [], recs := [], reqs := [], msgs := [],
           procs := c.procs.map (fun e => (e.1, { e.2 with queue := [], job := none })) }

/-- Step 3 of R341 for one ridge group: a group that holds a write of the bay and has sent no PUBLISH is aborted at every destination, and every RIDGE
of another bay in it resolves aborted; a RIDGE of the bay is discarded. -/
def containRidge (b : Nat) (self t : Nat) (r : Ridge) : Ridge × Bool :=
  let own := fun (o : RidgeOp) => o.bay == b
  let r := { r with waiting := r.waiting.filter (fun o => !own o), cur := r.cur.filter (fun o => !own o), doomed := r.doomed.filter (fun o => !own o) }
  if r.st != .idle && r.bays.contains b && r.tp.isNone && r.aborted.isNone then
    ({ r with st := .publishing, aborted := some (0x3F, self), acked := [], sentAt := t, doomed := r.waiting, waiting := [] }, true)
  else (r, false)

/-- Frames that are filling become vacated (R388). -/
def vacateFilling (s : State) (b : Nat) : State :=
  if (s.bay b).fcnt = 0 then s
  else
    -- only frames whose entry has a byte listed can be filling
    let fs := ((s.mem.filterMap (fun e =>
      if (s.bay b).ftBase ≤ e.1 ∧ e.1 < (s.bay b).ftBase + 32 * (s.bay b).fcnt then some ((e.1 - (s.bay b).ftBase) / 32) else none)).eraseDups)
    fs.foldl (fun s f => if frameState s b f = 1 then setFrameState s b f 4 else s) s

/-- Step 2 of R341 at one core: its agents stop and what is in flight for them is discarded; a call of the bay's supervisor that is pending gets no
answer (R344). -/
def stopCore (s : State) (b c : Nat) : State :=
  let s := { s with accs := orphanAccs b (fun a => agentCore? a == some c) s.accs,
                    svcWait := if c = s.svCore b then s.svcWait.filter (fun w => w.1 != b) else s.svcWait }
  dropMonitors (fun l => l.1 == c) (s.updCore c clearCore)
/-- The ridge groups and multicasts of the bay at the eave die, and what its queue agent has in flight. -/
def stopFabric (s : State) (b : Nat) : State :=
  { s with
    accs := orphanAccs b (· == .bayq b) s.accs,
    ridges := s.ridges.map (fun (e : Nat × Ridge) => (e.1, (containRidge b s.pkgid.toNat s.t e.2).1)),
    out := s.out ++ s.ridges.flatMap (fun (e : Nat × Ridge) =>
      if (containRidge b s.pkgid.toNat s.t e.2).2 then (mkeys e.2.counts).map (fun d => OutPkt.abort (hopOf s b none) d e.1) else []),
    mcsts := s.mcsts.filter (fun (e : Nat × Mcst) => !(s.coresOf b).contains e.2.core) }
/-- A mailbox emptied: the consumer count becomes the producer count. -/
def Mailbox.emptied (m : Mailbox) : Mailbox := { m with entries := [], cons := m.prod }
/-- Mailboxes but those kept, the notice queue, the spawn queue and the page requests are empty. -/
def Bay.emptied (keep : Nat → Bool) (y : Bay) : Bay :=
  { y with
    mail := y.mail.map (fun (e : Nat × Mailbox) => (e.1, if keep e.1 then e.2 else e.2.emptied)),
    notices := [], reserved := 0, levels := [], jobs := [], pages := [], heldAns := [] }
/-- The bay's incarnation advances and is announced (R287). -/
def nextInc (s : State) (b : Nat) : State :=
  let s := s.updBay b (fun y => { y with inc := y.inc + 1 })
  { s with out := s.out ++ [.announce b (s.bay b).inc] }

/-- A trigger record or a CONTAINED record enters mailbox 15 while fewer than 256 of its entries are unread (R447). -/
def containMail (s : State) (b : Nat) (r : FaultRec) : State := if s.unread b 15 < 256 then s.appendMail b 15 r.bits else s
/-- The trigger record, where there is one, enters mailbox 15 in the trigger step (R340). -/
def triggerMail (s : State) (b : Nat) : Option FaultRec → State
  | some r => containMail s b { r with cont := true, held := false }
  | none => s
/-- The CONTAINED record of step 4. -/
def containedRec (s : State) (old : BitVec 16) (lost : Nat) : FaultRec :=
  { code := 0x3F, cont := true, tflt := s.t, ticket := ticket true (old + 1) 0 0, aux := old.setWidth 64, lost := Nat.min lost 255 }

/-- CONTAINMENT OF A BAY, its trigger step (R340, R341): the trigger record, the incarnation, and the steps to come. A trigger before they are all
made has one further CONTAINED record, and no step is made twice (R342; log 10). -/
def contain (s : State) (b : Nat) (trigger : Option FaultRec) : State :=
  if !(s.bay b).formed then s
  else
    let s := triggerMail s b trigger
    let old := (s.bay b).inc
    let s := nextInc s b
    match (s.bay b).cont with
    | none => s.updBay b (fun y => { y with cont := some { stop := s.coresOf b, old := old } })
    | some k =>
      if k.noted then containMail s b (containedRec s old 0)
      else s.updBay b (fun y => { y with cont := some { k with again := some old } })
/-- Step 2 at one core that has not stopped. With the last of them the bay's filling frames become vacated (R388). -/
def containCore (s : State) (b c : Nat) (k : Contain) : State :=
  let k' := { k with stop := k.stop.filter (· != c), lost := k.lost + (s.core c).recs.length }
  let s := (stopCore s b c).updBay b (fun y => { y with cont := some k' })
  if k'.stop.isEmpty then vacateFilling s b else s
/-- Step 3, at the eave die. -/
def containEave (s : State) (b : Nat) (k : Contain) : State :=
  (stopFabric s b).updBay b (fun y => { y.emptied (· == 15) with cont := some { k with eave := true } })
/-- Step 4: the CONTAINED record, and the further one of a second trigger (R342). -/
def containNote (s : State) (b : Nat) (k : Contain) : State :=
  let s := containMail s b (containedRec s k.old k.lost)
  let s := match k.again with
    | some old => containMail s b (containedRec s old 0)
    | none => s
  s.updBay b (fun y => { y with cont := some { k with noted := true } })
/-- Step 5 of R341: walker and supervisor restart; walker entry and root return to the boot image's (R427). -/
def containRestart (s : State) (b : Nat) : State :=
  startReserved (s.updBay b (fun y => { y with cont := none, walkPc := y.bootWalk, root := y.bootRoot })) b
/-- The next step of a containment: step 2 at core c where it has not been made, then steps 3 and 4, then step 5, which a trip holds back (R341, R424). -/
def containStep (s : State) (b c : Nat) : State :=
  match (s.bay b).cont with
  | none => s
  | some k =>
    if k.stop.contains c then containCore s b c k
    else if !k.stop.isEmpty then s
    else if !k.eave then containEave s b k
    else if !k.noted then containNote s b k
    else if s.st = .trip then s else containRestart s b
/-- Steps 1 to 4 in one step, as a trip makes them (R424). -/
def containNow (s : State) (b : Nat) : State :=
  let s := (s.coresOf b).foldl (fun s c => containStep s b c) (contain s b none)
  let rest := fun (s : State) => match (s.bay b).cont with
    | some k => if k.noted then s else containStep s b 256
    | none => s
  rest (rest s)

/-! ## Taking a precise fault of a thread (R337, R339, R340) -/

/-- Room in a core's record buffer (R339). -/
def recRoom (s : State) (c : Nat) : Bool := (s.core c).recs.length < 16

/-- The record of a thread's fault with the fields its place gives (R334, R335). -/
def threadRec (s : State) (c k : Nat) (pc : W64) (lanes : List Nat) (r : FaultRec) : FaultRec :=
  { r with tflt := s.coreT c, pc := pc, ticket := ticket true (s.bay (s.bayOf c)).inc k c, lmask := lmaskOf lanes,
           blk := ((s.course? c k).getD {}).blk, agent := 0, held := !r.cont && !r.async }

/-- TAKING A PRECISE FAULT of lanes of one issue: the record enters the core's buffer and the lanes are held at the issue's first word, with
nothing of the instruction done in them; `next` is where SKIP goes (R445). With the buffer full nothing happens: the lanes stay as they were and the fault is
detected again. A fault of slot 510 or 511, and a fault marked CONT, contains the bay. -/
def takeFault (s : State) (c k : Nat) (pc next : W64) (lanes : List Nat) (r : FaultRec) : State :=
  let tr := threadRec s c k pc lanes r
  -- a course that a kill or a containment has discarded makes no record (R342)
  if (s.course? c k).isNone then s
  else if k ≥ 510 ∨ r.cont then contain s (s.bayOf c) (some { tr with held := false, cont := true })
  else if recRoom s c then
    (s.updCore c (fun co => { co with recs := co.recs ++ [tr] })).updCourse c k
      (·.mapLanes (fun l ln => if l ∈ lanes then { ln with st := .held next, pc := pc } else ln))
  else s

/-- The record of an access of any agent, with the fields the agent's place gives (R334, R335). -/
def agentRec (s : State) (ag : Agent) (pc : W64) (lanes : List Nat) (r : FaultRec) : FaultRec :=
  match ag with
  | .thread c k _ => { threadRec s c k pc lanes r with held := false }
  | .job c p => (match s.job? c p with
    | some j => { r with tflt := s.coreT c, pc := pc, ticket := ticket true (s.bay (s.bayOf c)).inc j.slot c, blk := j.blk, agent := 1 }
    | none => r)
  | .seq c b =>
    let k := ((s.block? c b).map (·.slots.headD 0)).getD 0
    { r with tflt := s.coreT c, pc := pc, ticket := ticket true (s.bay (s.bayOf c)).inc k c, blk := b, agent := 2 }
  | .core c => { r with tflt := s.coreT c, ticket := ticket true (s.bay (s.bayOf c)).inc 0 c }
  | .stage c b => { r with tflt := s.coreT c, ticket := ticket true (s.bay (s.bayOf c)).inc 0 c, blk := b }
  | .bayq b => { r with tflt := s.t, ticket := ticket true (s.bay b).inc 0 0 }
  | _ => { r with tflt := s.t }

/-- Bay on whose behalf an agent acts; 16 for none. -/
def agentBay (s : State) : Agent → Nat
  | .bayq b => b
  | a => match agentCore? a with
    | some c => s.bayOf c
    | none => 16
/-- The same, and for what an ended agent has left the bay it came from. -/
def ownerBay (s : State) : Agent → Nat
  | .orphan _ b => b
  | a => agentBay s a
/-- Containment by stored data that cannot be corrected (R379). -/
def eccAt (s : State) (ag : Agent) (pc : W64) (lanes : List Nat) (loc : W64) (src : Nat) (async : Bool) : State :=
  contain s (agentBay s ag) (some (agentRec s ag pc lanes {
    code := 0x3F, loc := loc.setWidth 128, aux := BitVec.ofNat 64 src, async := async, cont := true }))

/-- Whether a fault of this course can take effect in this step (R339). -/
def faultRoom (s : State) (c k : Nat) : Bool := k ≥ 510 || recRoom s c

/-! ## Block kill (R358, R359) -/

/-- Issue of the FWAIT at which a lane waits. -/
def Lane.futIss (ln : Lane) : Nat := match ln.st with | .future _ _ _ i => i | _ => 0
/-- FWAIT lanes of other blocks on future entry e of core c take FUTURE_CANCELLED (R358, R396). -/
def cancelWaiters (s : State) (c e : Nat) (gen : BitVec 8) (reason cause : Nat) (notBlk : Option Nat) : State :=
  (mkeys (s.core c).courses).foldl (fun s k =>
    let co := (s.course? c k).getD {}
    if notBlk = some co.blk then s
    else
      let hit := (List.range 8).filter (fun l => match (co.lane l).st with
        | .future h _ _ _ => h.toNat % 256 == e && h.toNat / 2 ^ 24 % 256 == gen.toNat
        | _ => false)
      -- one record for each issue; the first of a reserved course contains, and makes the others none
      let inc := (s.bay (s.bayOf c)).inc
      (hit.map (fun l => (co.lane l).futIss)).eraseDups.foldl (fun s i =>
        let ls := hit.filter (fun l => (co.lane l).futIss == i)
        let ln := co.lane (ls.headD 0)
        let w := match ln.st with | .future h _ next _ => (h, next) | _ => (0, 0)
        let h := w.1
        if k ≥ 510 ∧ (s.bay (s.bayOf c)).inc ≠ inc then s
        -- LOC is zero (R392; log 95)
        else takeFault s c k ln.pc w.2 ls {
          code := 0x23,
          aux := aux3 reason cause 0 0 0 e gen.toNat (h.toNat / 2 ^ 24 % 256) }) s) s

/-- The kill of a block, one step at its core (R358); its job ends (R359). -/
def killBlock (s : State) (c b : Nat) : State :=
  match s.block? c b with
  | none => s
  | some bl =>
    let mine : Agent → Bool := fun a => match a with
      | .thread c' k _ => c' == c && bl.slots.contains k
      | .job c' p => c' == c && (((s.job? c p).map (·.blk)) == some b)
      | .seq c' b' => c' == c && b' == b
      | .stage c' b' => c' == c && b' == b
      | _ => false
    -- jobs
    let s := [0, 1].foldl (fun s p =>
      let s := s.updProc c p (fun pr => { pr with queue := pr.queue.filter (fun q => q.blk != b) })
      if ((s.job? c p).map (·.blk)) == some b then stopJob s c p else s) s
    let s := { s with accs := orphanAccs bl.bay mine s.accs }
    -- futures
    let es := (mkeys (s.core c).futs).filter (fun e => ((mget? (s.core c).futs e).map (·.blk)) == some b)
    let s := es.foldl (fun s e =>
      let gen := ((mget? (s.core c).futs e).map (·.gen)).getD 0
      (cancelWaiters s c e gen 0 0 (some b)).updCore c (freeFut e)) s
    -- tiles, courses, block
    let ts := (mkeys (s.core c).tiles).filter (fun e => ((mget? (s.core c).tiles e).map (·.blk)) == some b)
    let s := s.updCore c (fun co => ts.foldl (fun co e => freeTile e co) co)
    let s := dropMonitors (fun l => l.1 == c && bl.slots.contains l.2.1) s
    let s := settleCore (s.updCore c (fun co => { co with
      courses := bl.slots.foldl mdel co.courses, blocks := mdel co.blocks b })) c
    let s := { s with mcsts := s.mcsts.filter (fun e => !(e.2.core == c && bl.slots.contains e.2.slot)) }
    -- the job: unplaced blocks are discarded, the entry leaves its level, DONE and notice do not happen
    s.updBay bl.bay (fun y => { y with
      levels := y.levels.map (fun e => (e.1, e.2.filter (fun x => x.jseq != bl.jseq))),
      jobs := y.jobs.filter (fun j => j.jseq != bl.jseq) })

/-! ## Faults of batten jobs and sequencers (R394, R395, R400) -/

/-- Lanes of the bay parked on a frame or on a name take FETCH_FAILED (R384, R387): every core, one record an issue. -/
def failParked (s : State) (b : Nat) (f : Option Nat) (name : W128) (reason cause : Nat) : State :=
  let hit := s.accs.filter (fun a => (match agentCore? a.ag with | some c => s.bayOf c == b | none => false) &&
    (match a.ph with
     | .frame => a.frame == f && f.isSome
     | .name n => (n >>> 48).setWidth 79 == (name >>> 48).setWidth 79
     | _ => false))
  (hit.map (·.iss)).eraseDups.foldl (fun s i =>
    -- the accesses still there, the lowest lane's first (R334)
    match sortLanes (hit.filter (fun a => a.iss == i && s.accs.any (·.id == a.id))) with
    | [] => s
    | a :: as => match a.ag with
      | .thread c k _ =>
        if faultRoom s c k then
          takeFault { s with accs := s.accs.filter (fun x => !(a :: as).any (·.id == x.id)) } c k a.pc a.next ((a :: as).flatMap (·.lanes)) {
            code := 0x16, lf := true,
            loc := (match a.ph with
              | .name n => n
              | _ => (name >>> 32) <<< 32 ||| (a.form.setWidth 32).setWidth 128),
            aux := aux2 reason (f.getD 0) (BitVec.ofNat 4 (a.form.toNat / 2 ^ 54))
              ((f.map (frameGen s b)).getD 0) a.kind a.size cause }
        else s
      | _ => s) s

/-- Every core's outstanding request for a name ends (R384, R387). -/
def endReqs (s : State) (b : Nat) (name : W128) : State :=
  (s.coresOf b).foldl (fun s c => s.updCore c (fun co => { co with
    reqs := co.reqs.filter (fun r => (r.name >>> 48).setWidth 79 != (name >>> 48).setWidth 79) })) s

/-- A batten job's fault takes effect in the step in which its record enters the buffer (R395): the job ends, its future is faulted, lanes
parked in FWAIT on it take FUTURE_CANCELLED, and lanes parked on a frame it was filling take FETCH_FAILED (R387). -/
def jobFault (s : State) (c p : Nat) (pc : W64) (r : FaultRec) : State :=
  match s.job? c p with
  | none => s
  | some j =>
    if r.cont then
      contain s (s.bayOf c) (some (agentRec s (.job c p) pc [] r))
    else if !recRoom s c then s
    else
      let b := s.bayOf c
      let r := agentRec s (.job c p) pc [] r
      let s := s.updCore c (fun co => { co with recs := co.recs ++ [r] })
      let fs := j.frames
      let s := stopJob s c p
      let gen := ((mget? (s.core c).futs j.fut).map (·.gen)).getD 0
      let s := s.updCore c (fun co => match mget? co.futs j.fut with
        | some f => { co with futs := mset co.futs j.fut { f with st := .faulted, cause := r.code } }
        | none => co)
      let s := cancelWaiters s c j.fut gen 1 r.code none
      fs.foldl (fun s f => endReqs (failParked s b (some f) (frameName s b f) 0 r.code) b (frameName s b f)) s

/-- A sequencer's fault (R400): a record that names course 0, then the kill of the block. -/
def seqFault (s : State) (c b : Nat) (pc : W64) (r : FaultRec) : State :=
  match s.block? c b with
  | none => s
  | some _ =>
    let r := agentRec s (.seq c b) pc [] r
    if r.cont then contain s (s.bayOf c) (some r)
    else if !recRoom s c then s
    else killBlock (s.updCore c (fun co => { co with recs := co.recs ++ [r] })) c b

/-- A precise fault of whoever issues (R337, R394, R400); `lanes` are the faulting lanes of a course, whose other lanes have completed. The record of
a job or sequencer has the PC of its issue (R334; log 93). -/
def faultLanes (s : State) (iss : Issue) (lanes : List Nat) (r : FaultRec) : State :=
  match iss.who with
  | .course c k => takeFault s c k iss.pc iss.next lanes r
  | .job c p => jobFault s c p iss.pc r
  | .seq c b => seqFault s c b iss.pc r
/-- A precise fault of a whole issue. It counts for its slice as every issue does (R24), and open windows fall (R65); where the record finds no room
the issue is not made. -/
def issueFault (s : State) (iss : Issue) (lanes : List Nat) (r : FaultRec) : State :=
  faultLanes (match iss.who with
    | .course c k => if r.cont || faultRoom s c k then s.updCourse c k (endCourse s.t iss (iss.word.getLsbD 31) (fun _ ln => ln)) else s
    | _ => s) iss lanes r

/-- An asynchronous fault: its record has ASYNC and CONT and the bay is contained (R333, R340). -/
def asyncFault (s : State) (b : Nat) (r : FaultRec) : State := contain s b (some { r with async := true, cont := true })

end Sys2Proof.Machine
end

