-- ==== Sys2Proof/Machine/Addr.lean ====
section
/-! DEFINITION. Addresses: the targets and homes of physical addresses (R83 to R85), the leaf checks (R89, R361), the TLBs (R90), near
pointers through the frame table (R104, R110 to R115), the range locks (R261), and the whole series of checks of R361. -/

namespace Sys2Proof.Machine

/-! ## Physical addresses -/

/-- What a physical address reaches (R84). -/
inductive Tier where
  | hbm | win | host | pool
  deriving DecidableEq, Repr

/-- The target of a physical address: its tier, the address that names its byte of storage (for the soffit window the column-homed form,
R83) and its home slice. -/
structure Target where
  tier : Tier
  canon : Nat
  slice : Nat
  deriving DecidableEq, Repr

/-- Home of an HBM4, host or pool line: the XOR of five bytes of the line number (R85). -/
def lineHome (pa : Nat) : Nat :=
  let l := pa / 256
  (l % 256) ^^^ (l / 256 % 256) ^^^ (l / 65536 % 256) ^^^ (l / 16777216 % 256) ^^^ (l / 4294967296 % 256)

/-- Die of a core or slice (R11). -/
def dieOf (n : Nat) : Nat := if n < 128 then 0 else 1

/-- Columns of a bay on one die, ascending. -/
def colsOnDie (s : State) (b d : Nat) : List Nat :=
  ((List.range 16).map (fun k => 16 * d + k)).filter (fun g => mget? s.cols g == some b)

def mib : Nat := 1048576

/-- R84 with R83: the target of a physical address under the present bay assignment and window size. -/
def target? (s : State) (pa : Nat) : Option Target :=
  if pa < 0x8000000000 then some ⟨.hbm, pa, lineHome pa⟩
  else if 0x10000000000 ≤ pa ∧ pa < 0x10040000000 then
    let g := (pa - 0x10000000000) / 0x2000000
    let o := pa % 0x2000000
    match mget? s.cols g with
    | none => none
    | some b => if (s.bay b).formed && o < (s.bay b).w * mib then some ⟨.win, pa, 8 * g + o / 256 % 8⟩ else none
  else if 0x18000000000 ≤ pa ∧ pa < 0x18800000000 then
    let b := (pa - 0x18000000000) / 0x80000000
    let d := pa / 0x40000000 % 2
    let o := pa % 0x40000000
    let cs := colsOnDie s b d
    let n := cs.length
    if (s.bay b).formed && 1 ≤ n && o < (s.bay b).w * n * mib then
      let j := o / 256
      let k := j % (8 * n)
      let g := cs.getD (k / 8) 0
      some ⟨.win, 0x10000000000 + g * 0x2000000 + (8 * (j / (8 * n)) + k % 8) * 256 + o % 256, 8 * g + k % 8⟩
    else none
  else if 0x100000000000 ≤ pa ∧ pa < 0x200000000000 then some ⟨.host, pa, lineHome pa⟩
  else if 0x200000000000 ≤ pa ∧ pa < 0x400000000000 then some ⟨.pool, pa, lineHome pa⟩
  else none

/-- Home slice of an address with a target. -/
def homeOf (s : State) (pa : Nat) : Nat := ((target? s pa).map (·.slice)).getD 0
/-- The address under which the byte's storage is held. -/
def canonPa (s : State) (pa : Nat) : Nat := ((target? s pa).map (·.canon)).getD pa
def tierOf (s : State) (pa : Nat) : Tier := ((target? s pa).map (·.tier)).getD .hbm

/-- Die in whose cache part a local granule is held: that of its home. -/
def sofDie (s : State) (g : Nat) : Nat := dieOf (homeOf s (64 * g))
def sofFind (s : State) (g : Nat) : Option SofE := mget? (mget s.soffit (sofDie s g) []) g
/-- Stored data a read of the sector meets and cannot correct (R379): SOURCE. Bits behind a sector that the cache part holds are not read. -/
def badSector (s : State) (sector : Nat) : Option Nat :=
  s.bad.findSome? (fun u => match u with
    | .memory x src => if x = sector && !(src == 1 && (sofFind s (sector / 2)).isSome) then some src else none
    | _ => none)
/-- The record of a read that meets such data (R379). -/
def eccRec (loc : W128) (src : Nat) : FaultRec := { code := 0x3F, loc := loc, aux := BitVec.ofNat 64 src, cont := true }

/-- The interleaved form of a window byte (R83); `c` is its column-homed address. -/
def interPa (s : State) (c : Nat) : Option Nat :=
  let g := (c - 0x10000000000) / 0x2000000
  (mget? s.cols g).map (fun b =>
    let d := g / 16
    let cs := colsOnDie s b d
    let j' := c % 0x2000000 / 256
    0x18000000000 + b * 0x80000000 + d * 0x40000000 + (j' / 8 * (8 * cs.length) + 8 * (cs.filter (· < g)).length + j' % 8) * 256 + c % 256)
/-- Whether a window byte lies in the top E MiB of its bay's interleaved window on its die (R292); `c` is its column-homed address. -/
def inEave (s : State) (c : Nat) : Bool :=
  let g := (c - 0x10000000000) / 0x2000000
  match mget? s.cols g with
  | none => false
  | some b =>
    let d := g / 16
    let cs := colsOnDie s b d
    let j' := c % 0x2000000 / 256
    let idx := 8 * (cs.filter (· < g)).length + j' % 8
    let j := j' / 8 * (8 * cs.length) + idx
    let e := mget (s.bay b).eave d 0
    decide (((s.bay b).w * cs.length - e) * mib ≤ j * 256) && e != 0

/-- Whether the page of an HBM4 address overlaps the object or frame table of any bay. The object table begins at a page (R103); the spec states no
alignment of the frame table, and the model lets it begin at a page too (log 104). -/
def inTables (s : State) (pa : Nat) : Bool :=
  let page := pa / 65536 * 65536
  s.bays.any (fun e =>
    (e.2.otb != 0 && decide (e.2.otBase ≤ page ∧ page < e.2.otBase + 32 * 2 ^ e.2.otb))
    || (e.2.fcnt != 0 && decide (e.2.ftBase ≤ page ∧ page < e.2.ftBase + 32 * e.2.fcnt)))

/-! ## Leaves and TLBs -/

/-- Bits of a page or block of size code Z; a range of Z = 3 is a page (R88, R317). -/
def zBits (z : Nat) : Nat := if z = 1 then 29 else if z = 2 then 42 else 16

/-- A check's verdict: the physical address, or code, REASON and DETAIL. -/
inductive Chk where
  | ok (pa : Nat)
  | bad (code reason detail : Nat)
  deriving DecidableEq, Repr

/-- Permission bits a kind needs: R, W, X (R89). -/
def needs : AccKind → List (Nat × Nat)
  | .load => [(1, 2)] | .ldp => [(1, 2)] | .wait => [(1, 2)] | .bread => [(1, 2)]
  | .store => [(0, 3)] | .red => [(0, 3)] | .stp => [(0, 3)] | .bwrite => [(0, 3)]
  | .atomic => [(0, 3), (1, 2)]
  | .fetch => [(2, 4)]

/-- Checks 6 to 8 of R361 on a leaf found at size code z, with the failed ports of R377 and R418 in check 8. -/
def leafCheck (s : State) (z : Nat) (leaf : W64) (va : Nat) (k : AccKind) (prv : Bool) : Chk :=
  let det := leaf.toNat % 2 ^ 32
  let pfn := leaf.toNat / 65536 % 2 ^ 32 * 65536
  if z = 3 then .bad 0x10 2 det
  else if !leaf.getLsbD 0 then .bad 0x10 1 det
  else if !leaf.getLsbD 1 then .bad 0x10 4 det
  else if pfn % 2 ^ zBits z ≠ 0 then .bad 0x10 6 det
  else
    let pa := pfn + va % 2 ^ zBits z
    match target? s pa with
    | none => .bad 0x10 3 det
    | some t =>
      if inTables s pa then .bad 0x11 4 det
      else if t.tier = .win && inEave s t.canon then .bad 0x11 5 det
      else if leaf.getLsbD 5 && !prv then .bad 0x11 3 det
      else match (needs k).filter (fun n => !leaf.getLsbD n.2) with
        | n :: ns => .bad 0x11 (ns.foldl (fun m x => Nat.min m x.1) n.1) det
        | [] =>
          if (t.tier = .pool && !s.mUp) || (t.tier = .host && !s.hUp) then .bad 0x32 0 0 else .ok pa

/-- A TLB entry that maps an address. -/
def TlbE.covers (e : TlbE) (va : Nat) : Bool := e.va.toNat / 2 ^ zBits e.z == va / 2 ^ zBits e.z
/-- Whether two ranges overlap. -/
def TlbE.overlaps (e : TlbE) (va z : Nat) : Bool :=
  let k := Nat.max (zBits e.z) (zBits z)
  e.va.toNat / 2 ^ k == va / 2 ^ k
/-- Install an entry in a TLB of n places; when it is full, which entry goes is free (R90). -/
def tlbPut (n choice : Nat) (e : TlbE) (l : List TlbE) : List TlbE :=
  e :: (if l.length < n then l else l.eraseIdx (choice % n))

/-- Quarter of an agent, where it has one (R90). -/
def quarter? : Agent → Option Nat
  | .thread _ k _ => some (k / 128)
  | _ => none

/-- Look-up in the quarter TLB, then the core TLB (R90): the entry, and whether the quarter TLB is to be refilled. -/
def tlbFind (s : State) (c : Nat) (q : Option Nat) (va : Nat) : Option (TlbE × Bool) :=
  let co := s.core c
  match q.bind (fun q => (mget co.qtlb q []).find? (·.covers va)) with
  | some e => some (e, false)
  | none => (co.tlb.find? (·.covers va)).map (fun e => (e, q.isSome))

/-- The refill of a quarter TLB after a hit in the core TLB. -/
def tlbRefill (s : State) (c q : Nat) (e : TlbE) : State :=
  (s.updCore c (fun co => { co with qtlb := mset co.qtlb q (tlbPut 64 (Config.freeChoice s.free) e (mget co.qtlb q [])) })).bumpFree

/-! ## Address classes (R87) and peer windows (R283) -/

inductive AddrClass where
  | ordinary | peer | object | none
  deriving DecidableEq, Repr
def classAddr (a : W64) : AddrClass :=
  let t := a.toNat / 2 ^ 56
  if t = 0 then .ordinary else if t = 1 then .peer else if t / 4 = 0x3E then .object else .none
def peerOf (a : Nat) : Nat := a / 2 ^ 47 % 512
def peerBay (a : Nat) : Nat := a / 2 ^ 43 % 16
def peerOff (a : Nat) : Nat := a % 2 ^ 43
/-- Plane of a line (R286). -/
def planeOf (a : Nat) : Nat := a / 256 % 8
/-- Proxy slice of a peer-window address (R276). -/
def proxySlice (a : Nat) : Nat :=
  (a / 2 ^ 8 % 256) ^^^ (a / 2 ^ 16 % 256) ^^^ (a / 2 ^ 24 % 256) ^^^ (a / 2 ^ 32 % 256) ^^^ (a / 2 ^ 40 % 256) ^^^ (a / 2 ^ 48 % 256)
/-- A valid peer: a member of the domain (R282, R402). -/
def peerValid (s : State) (p : Nat) : Bool := s.members.getLsbD p

/-- The address formed from a base and an offset (R142, R113). -/
def formAddr (base off : W64) : W64 :=
  if classAddr base = .object then (base >>> 32) <<< 32 ||| ((base.setWidth 32 + off.setWidth 32).setWidth 64) else base + off

/-! ## Frames -/

/-- The checks of a near pointer (R112 with R385): an address, a fault, or a frame to park on. -/
inductive ObjChk where
  | ok (va : W64)
  | bad (r : FaultRec)
  | park (f : Nat) (vacated : Bool)
  deriving DecidableEq, Repr

def npFrame (a : W64) : Nat := a.toNat / 2 ^ 32 % 2 ^ 22
def npGen (a : W64) : BitVec 4 := BitVec.ofNat 4 (a.toNat / 2 ^ 54)
def npOff (a : W64) : Nat := a.toNat % 2 ^ 32
/-- A name with an offset in bits 31:0. -/
def nameOff (n : W128) (o : Nat) : W128 := (n >>> 32) <<< 32 ||| BitVec.ofNat 128 o

/-- STALE_FRAME of R381 for a near pointer: frame out of range, absent, or of another generation. -/
def staleOf (s : State) (b : Nat) (np : W64) : Option Nat :=
  if npFrame np ≥ (s.bay b).fcnt then some 0
  else if frameState s b (npFrame np) = 0 then some 1
  else if frameGen s b (npFrame np) ≠ npGen np then some 2 else none

def staleRec (s : State) (b : Nat) (np form : W64) (reason : Nat) (k : AccKind) (size : Nat) : FaultRec :=
  { code := 0x15, loc := form.setWidth 128,
    aux := aux2 reason (npFrame np) (npGen np) (if reason = 0 then 0 else frameGen s b (npFrame np)) k size 0 }

/-- Stored data of a frame entry, one sector, that cannot be corrected (R105, R379). -/
def frameBad (s : State) (b f : Nat) : Option Nat := if f < (s.bay b).fcnt then badSector s (frameAddr s b f / 32) else none
/-- The same of the frame that a value names as a near pointer. -/
def npBad (s : State) (b : Nat) (x : W64) : Option Nat := if classAddr x = .object then frameBad s b (npFrame x) else none

def frameCheck (s : State) (b : Nat) (np : W64) (size : Nat) (writes : Bool) (k : AccKind) : ObjChk :=
  match frameBad s b (npFrame np), staleOf s b np with
  | some src, _ => .bad (eccRec (np.setWidth 128) src)
  | none, some r => .bad (staleRec s b np np r k size)
  | none, none =>
    let f := npFrame np
    let g := frameGen s b f
    if (s.bay b).revoked.any (fun e => e.fv && e.frame == f && e.gen == g) then
      .bad { code := 0x17, lf := true, loc := nameOff (frameName s b f) (npOff np), aux := aux2 0 f (npGen np) g k size 0 }
    else if npOff np + size > frameLen s b f then
      .bad { code := 0x14, loc := np.setWidth 128, aux := aux1 0 0 k size (frameLen s b f % 2 ^ 32) }
    else if writes && frameMode s b f = 0 then
      .bad { code := 0x11, loc := np.setWidth 128, aux := aux1 0 0 k size (frameLen s b f % 2 ^ 32) }
    else if frameState s b f = 4 then .park f true
    else if frameState s b f = 2 then
      let va := frameBase s b f + BitVec.ofNat 64 (npOff np)
      match classAddr va with
      | .object => .bad { code := 0x10, loc := np.setWidth 128, aux := aux1 5 0 k size 0 }
      | .none => .bad { code := 0x10, loc := np.setWidth 128, aux := aux1 0 0 k size 0 }
      | _ => .ok va
    else .park f false

/-- The 128-bit value STP writes and PFAR computes for a pair (R114, R115), or the stale REASON. -/
def unswizzle (s : State) (b : Nat) (x : W64) : Except Nat W128 :=
  if classAddr x = .object then
    match staleOf s b x with
    | some r => .error r
    | none => .ok (nameOff (frameName s b (npFrame x)) (npOff x))
  else .ok (x.setWidth 128)

/-- A bucket of the object table (R104): NAME, FRAME, BST. -/
def bucketAddr (s : State) (b i : Nat) : Nat := (s.bay b).otBase + 32 * i
def bucketName (s : State) (b i : Nat) : W128 := BitVec.ofNat 128 (s.readNat (bucketAddr s b i + 16) 16)
def bucketLow (s : State) (b i : Nat) : Nat := s.readNat (bucketAddr s b i) 8
def bucketFrame (s : State) (b i : Nat) : Nat := bucketLow s b i / 2 ^ 34 % 2 ^ 22
def bucketSt (s : State) (b i : Nat) : Nat := bucketLow s b i % 4
/-- HOME and OID of a name. -/
def nameKey (n : W128) : BitVec 79 := (n >>> 48).setWidth 79
/-- Number of the k-th bucket probed for a name. -/
def probeAt (s : State) (b : Nat) (n : W128) (k : Nat) : Nat :=
  let oid := n.toNat / 2 ^ 48 % 2 ^ 64
  let home := n.toNat / 2 ^ 112 % 2 ^ 15
  ((oid ^^^ (oid / 2 ^ 32) ^^^ (home * 2 ^ 17)) % 2 ^ (s.bay b).otb + k) % 2 ^ (s.bay b).otb
/-- The probe: the bucket that holds the name (R104). -/
def probeBucket (s : State) (b : Nat) (n : W128) : List Nat → Option Nat
  | [] => none
  | k :: ks =>
    let i := probeAt s b n k
    if bucketSt s b i = 0 then none
    else if bucketSt s b i = 1 ∧ nameKey (bucketName s b i) = nameKey n then some i else probeBucket s b n ks
/-- Stored data that a probe meets and cannot correct (R379): a bucket it reads, or the entry of the frame it finds. -/
def bucketsBad (s : State) (b : Nat) (n : W128) : List Nat → Option Nat
  | [] => none
  | k :: ks =>
    let i := probeAt s b n k
    match badSector s (bucketAddr s b i / 32) with
    | some src => some src
    | none =>
      if bucketSt s b i = 0 then none
      else if bucketSt s b i = 1 ∧ nameKey (bucketName s b i) = nameKey n then frameBad s b (bucketFrame s b i) else bucketsBad s b n ks
def probeBad (s : State) (b : Nat) (n : W128) : Option Nat := if (s.bay b).otb = 0 then none else bucketsBad s b n [0, 1, 2, 3, 4, 5, 6, 7]
/-- The frame a name has, if any. A bay without tables finds nothing. -/
def probe (s : State) (b : Nat) (n : W128) : Option Nat :=
  if (s.bay b).otb = 0 then none else (probeBucket s b n [0, 1, 2, 3, 4, 5, 6, 7]).map (bucketFrame s b)

/-- The 64-byte object request (R110). -/
def objMsg (c : Nat) (r : ObjReq) : W512 :=
  r.name ++ BitVec.ofNat 64 r.treq ++ (0 : BitVec 256) ++ BitVec.ofNat 22 r.frame ++ BitVec.ofBool r.fv ++ BitVec.ofBool r.wr
    ++ (0 : BitVec 8) ++ BitVec.ofNat 8 c ++ (0 : BitVec 16) ++ (0x02 : BitVec 8)

/-- A message of a core to mailbox 14: appended at once, or waiting in the core while the mailbox is full or earlier ones wait (R49). -/
def postMsg (s : State) (c : Nat) (m : W512) : State :=
  if (s.core c).msgs.isEmpty && decide (s.unread (s.bayOf c) 14 < 256) then s.appendMail (s.bayOf c) 14 m
  else s.updCore c (fun co => { co with msgs := co.msgs ++ [m] })
/-- Whether an access of a core that waits for an object writes: it is parked on a frame that holds the name (R110). -/
def waitsWrite (s : State) (c : Nat) (name : W128) : Bool :=
  s.accs.any (fun a => agentCore? a.ag == some c && a.ph == .frame && a.kind.isWrite &&
    (match a.frame with | some f => nameKey (frameName s (s.bayOf c) f) == nameKey name | none => false))
/-- Send an object request unless one for the name is outstanding (R109, R110); it waits in the core until mailbox 14 has room. -/
def sendReq (s : State) (c : Nat) (name : W128) (frame : Nat) (fv wr : Bool) : State :=
  if (s.core c).reqs.any (fun r => nameKey r.name == nameKey name) then s
  else
    let r : ObjReq := { name := nameOff name 0, treq := s.coreT c, frame := frame, fv := fv, wr := wr || waitsWrite s c name }
    postMsg (s.updCore c (fun co => { co with reqs := co.reqs ++ [r] })) c (objMsg c r)

/-! ## Range locks (R261, R279) -/

/-- Every entry of a core's range-lock table: lock, FENT of its job, processor, entry number (R362). -/
def coreLocks (s : State) (c : Nat) : List (Lock × Nat × Nat × Nat) :=
  [0, 1].flatMap (fun p => match s.job? c p with
    | none => []
    | some j =>
      (j.xfers.flatMap (fun x =>
        (x.rd.toList.map (fun l => (l, j.fut, p, 2 * x.place))) ++ (x.wr.toList.map (fun l => (l, j.fut, p, 2 * x.place + 1)))))
      ++ j.locks.map (fun e => (e.2, j.fut, p, 8 + e.1)))

/-- DETAIL of the entry that stops an access, if one does: an entry that was made before the access was issued (R279). -/
def lockHit (s : State) (c ea n : Nat) (writes : Bool) (iss : Nat) : Option Nat :=
  ((coreLocks s c).find? (fun e => decide (e.1.iss ≤ iss) && decide (e.1.lo ≤ ea + n - 1 ∧ ea ≤ e.1.hi) && (e.1.wr || writes))).map
    (fun e => e.2.1 * 256 + (if e.1.wr then 128 else 0) + e.2.2.1 * 16 + e.2.2.2)

/-! ## The checks of R361 -/

/-- Where an access stands after the checks: on its way to a physical or peer-window address (with a TLB refill), missing both TLBs, parked on a
frame, or faulting. -/
inductive Probe where
  | go (ea : W64) (dst : Nat) (refill : Option TlbE)
  | miss (ea : W64)
  | park (f : Nat) (vacated : Bool)
  | bad (r : FaultRec)
  deriving DecidableEq, Repr

/-- A slot-511 course uses addresses as physical (R319). -/
def untranslated : Agent → Bool
  | .thread _ k _ => k == 511
  | _ => false

/-- Whether range locks apply to the agent: threads, not batten jobs (R261). -/
def lockable : Agent → Bool
  | .thread .. => true
  | _ => false

/-- AUX of class 4 for an access to a peer-window address (R405). -/
def peerAux (reason : Nat) (a : Nat) (rinc : BitVec 16) (k : AccKind) (size : Nat) : W64 :=
  aux4 reason (peerOf a) (peerBay a) (planeOf a) 0 rinc (kindNum k) size

/-- A class-1 record of an access; LINK_DOWN contains (R377). -/
def accRec (form : W64) (code reason slog : Nat) (k : AccKind) (size detail : Nat) : FaultRec :=
  if code = 0x32 then
    { code := 0x32, loc := form.setWidth 128, cont := true, aux := aux4 0 0 0 0 0 0 (kindNum k) size }
  else { code := code, loc := form.setWidth 128, aux := aux1 reason slog k size detail }

/-- Checks 5 to 8, of which 7 applies to a physical address of slot 511 as it stands, on the address after the frame table: the access stands here once checks 1 to 4 have passed, and again at each retry (R317). -/
def probeTail (s : State) (c : Nat) (ag : Agent) (k : AccKind) (form ea : W64) (size : Nat) (prv : Bool) : Probe :=
  if untranslated ag then
    (match target? s ea.toNat with
     | none => .bad (accRec form 0x10 3 0 k size 0)
     | some t =>
       if inTables s ea.toNat then .bad (accRec form 0x11 4 0 k size 0)
       else if t.tier = .win && inEave s t.canon then .bad (accRec form 0x11 5 0 k size 0)
       else if (t.tier = .pool && !s.mUp) || (t.tier = .host && !s.hUp) then .bad (accRec form 0x32 0 0 k size 0)
       else .go ea ea.toNat none)
  else match tlbFind s c (quarter? ag) ea.toNat with
    | none => .miss ea
    | some (e, fill) =>
      match leafCheck s e.z e.leaf ea.toNat k prv with
      | .bad code reason det => .bad (accRec form code reason 0 k size det)
      | .ok pa => .go ea pa (if fill then some e else none)

/-- Checks 3 to 8, on the address after the frame table, of an access of issue `iss`; `mid` is STP's frame-entry read between checks 4 and 5. -/
def probeFrom (s : State) (c : Nat) (ag : Agent) (k : AccKind) (form ea : W64) (size : Nat) (prv : Bool)
    (mid : Option FaultRec) (iss : Nat) : Probe :=
  if ea.toNat % 32 + size > 32 then .bad (accRec form 0x13 0 0 k size (ea.toNat % 32))
  else if classAddr ea = .peer && !untranslated ag then
    (match mid with
     | some r => .bad r
     | none => .go ea ea.toNat none)
  else
    match (if lockable ag then lockHit s c ea.toNat size k.isWrite iss else none) with
    | some d => .bad (accRec form 0x12 0 0 k size d)
    | none =>
      match mid with
      | some r => .bad r
      | none => probeTail s c ag k form ea size prv

/-- All checks of R361 for an access at the address formed; `rst` demands a peer-window address (R348), which no address of slot 511 is. -/
def probeAccess (s : State) (c : Nat) (ag : Agent) (k : AccKind) (form : W64) (size : Nat) (prv rst : Bool)
    (mid : Option FaultRec) (iss : Nat) : Probe :=
  if untranslated ag then (if rst then .bad (accRec form 0x11 6 0 k size 0) else probeFrom s c ag k form form size prv mid iss)
  else match (if rst && classAddr form = .ordinary ∨ rst && classAddr form = .object then none else some (classAddr form)) with
    | none => .bad (accRec form 0x11 6 0 k size 0)
    | some .none => .bad (accRec form 0x10 0 0 k size 0)
    | some .peer =>
      if peerValid s (peerOf form.toNat) then probeFrom s c ag k form form size prv mid iss
      else .bad { code := 0x30, loc := form.setWidth 128, aux := peerAux 1 form.toNat 0 k size }
    | some .ordinary => probeFrom s c ag k form form size prv mid iss
    | some .object =>
      match frameCheck s (s.bayOf c) form size k.isWrite k with
      | .bad r => .bad r
      | .park f v => .park f v
      | .ok va =>
        if classAddr va = .peer && !peerValid s (peerOf va.toNat) then
          .bad { code := 0x30, loc := va.setWidth 128, aux := peerAux 1 va.toNat 0 k size }
        else probeFrom s c ag k form va size prv mid iss

end Sys2Proof.Machine
end

