-- ==== Sys2Proof/Machine/Cache.lean ====
section
/-! DEFINITION. What the caches hold: the lines of L1 with their granule copies, ways and pinned ways (R74 to R76, R92), and the soffit cache part
of each die (R13, R82, R86, R92). Copies of L1 are never dirty: a write drops its copy at issue (R269). A soffit sector holds no value of its own: the
value of a sector is the one its home has (R265), and what the cache part decides is which stored bits a read meets (R379). -/

namespace Sys2Proof.Machine

/-! ## L1 (R74 to R76, R92) -/

/-- Ways a tile of n lines from set b pins in a set. -/
def pinsIn (b n set : Nat) : Nat := n / 256 + (if (set + 256 - b % 256) % 256 < n % 256 then 1 else 0)
/-- Ways pinned in a set by every tile of the core. -/
def pinned (co : Core) (set : Nat) : Nat := co.tiles.foldl (fun m e => m + pinsIn e.2.bset e.2.len set) 0
/-- Ways of a set in use: ordinary lines and pinned ways; a set has 16. -/
def Core.ways (co : Core) (set : Nat) : Nat := (co.lines.filter (fun e => e.2.set == set)).length + pinned co set
/-- Order of replacement: EV 2 first, then EV 0, then EV 1. -/
def evClass (ev : Nat) : Nat := if ev = 2 then 0 else if ev = 1 then 2 else 1
/-- Of two lines or sectors, the one replaced first: by class, then the least recently used. -/
def replacedFirst (ev used ev' used' : Nat) : Bool := decide (evClass ev < evClass ev' ∨ evClass ev = evClass ev' ∧ used < used')
/-- The line of a set that is replaced next, among the ways that are not pinned. -/
def Core.victim (co : Core) (set : Nat) : Option Nat :=
  (co.lines.foldl (fun (m : Option (Nat × Line)) e =>
    if e.2.set = set then (match m with
      | none => some e
      | some x => if replacedFirst e.2.ev e.2.used x.2.ev x.2.used then some e else m)
    else m) none).map (·.1)
/-- A line leaves with its copies. -/
def Core.dropLine (co : Core) (l : Nat) : Core := { co with lines := mdel co.lines l, copies := co.copies.filter (fun e => e.1 / 4 != l) }
/-- Copies are dropped but those kept; a line with no copy left leaves. -/
def Core.keepCopies (co : Core) (keep : Nat → Copy → Bool) : Core :=
  let cs := co.copies.filter (fun e => keep e.1 e.2)
  { co with copies := cs, lines := co.lines.filter (fun e => cs.any (fun x => x.1 / 4 == e.1)) }
def Core.dropCopy (co : Core) (g : Nat) : Core := co.keepCopies (fun k _ => k != g)
/-- Ordinary lines of a set leave until n more ways are free. -/
def Core.evictTo (set n : Nat) : Nat → Core → Core
  | 0, co => co
  | k + 1, co => if co.ways set + n ≤ 16 then co else match co.victim set with
    | none => co
    | some l => Core.evictTo set n k (co.dropLine l)
/-- The line of a granule takes the priority of an access; EV 3 keeps it (R92). -/
def Core.touch (co : Core) (g ev now : Nat) : Core :=
  match mget? co.lines (g / 4) with
  | none => co
  | some l => { co with lines := mset co.lines (g / 4) { l with ev := if ev = 3 then l.ev else ev, used := now } }
/-- A copy is installed in its line; a line not held takes a way of its set. A window line is one line whichever of its two physical forms (R83) reaches
it: it lies in the set of the form that installed it (log 107). -/
def Core.putCopy (co : Core) (g set ev now : Nat) (cp : Copy) : Core :=
  let co := match mget? co.lines (g / 4) with
    | some _ => co.touch g ev now
    | none => let co := Core.evictTo set 1 16 co
              { co with lines := mset co.lines (g / 4) { set := set, ev := ev, used := now } }
  { co with copies := mset co.copies g cp }
/-- Set of the line at a physical address (R74); a peer-window line has no physical address here and takes these bits of its own (log 89). -/
def setOf (dst : Nat) : Nat := dst / 256 % 256

/-! ## Walking the tables -/

/-- The leaf of an address as the bay's tables stand in memory: size code and leaf (R88, R319). -/
def walkFrom (s : State) (va : Nat) : Nat → Nat → Nat × W64
  | 0, t =>
    let e := BitVec.ofNat 64 (s.readNat (canonPa s (t + 8 * (va / 65536 % 8192))) 8)
    if e.getLsbD 0 then (0, e) else (0, 0)
  | lvl + 1, t =>
    let ix := if lvl = 2 then va / 2 ^ 55 % 2 else va / 2 ^ (16 + 13 * (lvl + 1)) % 8192
    let e := BitVec.ofNat 64 (s.readNat (canonPa s (t + 8 * ix)) 8)
    if !e.getLsbD 0 then (0, 0)
    else if e.getLsbD 1 then (lvl + 1, e)
    else walkFrom s va lvl (e.toNat / 65536 % 2 ^ 32 * 65536)
def walk (s : State) (b : Nat) (va : Nat) : Nat × W64 := walkFrom s va 3 (s.bay b).root.toNat
/-- Stored data that such a walk meets and cannot correct (R379). -/
def walkBadFrom (s : State) (va : Nat) : Nat → Nat → Option Nat
  | 0, t => badSector s (canonPa s (t + 8 * (va / 65536 % 8192)) / 32)
  | lvl + 1, t =>
    let ix := if lvl = 2 then va / 2 ^ 55 % 2 else va / 2 ^ (16 + 13 * (lvl + 1)) % 8192
    let a := canonPa s (t + 8 * ix)
    let e := BitVec.ofNat 64 (s.readNat a 8)
    match badSector s (a / 32) with
    | some src => some src
    | none => if !e.getLsbD 0 || e.getLsbD 1 then none else walkBadFrom s va lvl (e.toNat / 65536 % 2 ^ 32 * 65536)
def walkBad (s : State) (b : Nat) (va : Nat) : Option Nat := walkBadFrom s va 3 (s.bay b).root.toNat

/-! ## Which storage an access reaches (R74, R271) -/

/-- Number of the granule that names a copy: of a physical address by its storage, of a peer-window address by itself (R74, R276). -/
def granOf (s : State) (dst : Nat) : Nat := (if dst / 2 ^ 56 = 1 then dst else canonPa s dst) / 64
def isPeer (dst : Nat) : Bool := dst / 2 ^ 56 == 1
/-- The core of an agent, or the core an orphan came from. -/
def accCore? : Agent → Option Nat
  | .orphan c _ => c
  | a => agentCore? a
/-- The core whose TLB and walker serve an agent's accesses: for the bay queue, the bay's supervisor core (log 11). -/
def tlbCore? (s : State) : Agent → Option Nat
  | .bayq b => (s.coresOf b).head?
  | .orphan none b => (s.coresOf b).head?
  | a => accCore? a
/-- Where an access goes, as far as it can be known: once translated, the address; before, the address that the core's TLB or else the bay's tables
give now; none while they give none, or while its frame has no base (log 71). -/
def goes? (s : State) (x : Access) : Option Nat :=
  match x.ph with
  | .flight d => some d
  | .remote _ => some x.ea.toNat
  | .recorded _ _ d => some d
  | .cxl _ _ d => some d
  | .replied _ _ d => some d
  | .name _ => none
  | ph =>
    let c := (tlbCore? s x.ag).getD 0
    let va := if ph = .frame then frameBase s (s.bayOf c) (npFrame x.form) + BitVec.ofNat 64 (npOff x.form) else x.ea
    if ph = .frame && frameState s (s.bayOf c) (npFrame x.form) == 4 then none
    else if untranslated x.ag || classAddr va = .peer then some va.toNat
    else
      let wl := match tlbFind s c none va.toNat with
        | some (e, _) => (e.z, e.leaf)
        | none => walk s (s.bayOf c) va.toNat
      match leafCheck s wl.1 wl.2 va.toNat x.kind x.prv with
      | .ok pa => some pa
      | .bad .. => none
/-- Whether an access goes, or may go, to the granule of an address. Translation keeps bits 7:0, so an access whose granule of a line differs cannot. -/
def mayMeet (s : State) (x : Access) (dst : Nat) : Bool :=
  match goes? s x with
  | some d => granOf s d == granOf s dst
  | none => !isPeer dst && (x.ph == .frame || x.ea.toNat / 64 % 4 == dst / 64 % 4)

/-! ## The soffit cache part (R13, R82, R86) -/

/-- Sectors the cache part of a die holds at most: 32 − W MiB of each column. -/
def sofRoom (s : State) (d : Nat) : Nat :=
  (List.range 16).foldl (fun n k => n + 16384 * (32 - (match mget? s.cols (16 * d + k) with
    | some b => (s.bay b).w
    | none => 0))) 0
/-- A sector leaves its cache part. A dirty one is written back: the bits behind it are then as good as its own (R379). -/
def sofDrop (s : State) (d g : Nat) : State :=
  match mget? (mget s.soffit d []) g with
  | none => s
  | some e =>
    let bad := if !e.dirty then s.bad else
      (s.bad.filter (fun u => match u with | .memory x 1 => x / 2 != g | _ => true)).map (fun u => match u with
        | .memory x 3 => if x / 2 = g then .memory x 1 else u
        | u => u)
    { s with soffit := mset s.soffit d (mdel (mget s.soffit d []) g), bad := bad }
/-- Remote granules that a die's cache part holds (R86, R276). -/
def proxiesOn (s : State) (d : Nat) : Map Proxy := s.proxies.filter (fun e => dieOf (proxySlice (64 * e.1)) == d)
/-- The line of a cache part that is replaced next: priority and last use are the line's (R92). -/
def partVictim (s : State) (d : Nat) : Option Nat :=
  (((mget s.soffit d []).map (fun (e : Nat × SofE) => (e.1 / 4, e.2.ev, e.2.used))
      ++ (proxiesOn s d).map (fun (e : Nat × Proxy) => (e.1 / 4, e.2.ev, e.2.used))).foldl
    (fun (v : Option (Nat × Nat × Nat)) e => match v with
      | none => some e
      | some x => if replacedFirst e.2.1 e.2.2 x.2.1 x.2.2 then some e else v) none).map (·.1)
/-- A line leaves its cache part. -/
def partDropLine (s : State) (d l : Nat) : State :=
  let s := [4 * l, 4 * l + 1, 4 * l + 2, 4 * l + 3].foldl (fun s g => sofDrop s d g) s
  { s with proxies := s.proxies.filter (fun e => e.1 / 4 != l) }
/-- Room for one more sector in a die's cache part. -/
def partRoom (s : State) (d : Nat) : State :=
  if (mget s.soffit d []).length + (proxiesOn s d).length < sofRoom s d then s
  else match partVictim s d with
    | none => s
    | some l => partDropLine s d l
/-- Every sector of a line that a cache part holds takes the line's priority and last use; EV 3 keeps the priority. -/
def SofE.touched (e : SofE) (ev now : Nat) : SofE := { e with ev := if ev = 3 then e.ev else ev, used := now }
def touchPart (s : State) (d l ev : Nat) : State :=
  { s with soffit := mset s.soffit d ((mget s.soffit d []).map (fun e => if e.1 / 4 = l then (e.1, e.2.touched ev (s.stepNo + 1)) else e)) }
def touchProxy (s : State) (g ev : Nat) : State :=
  { s with proxies := s.proxies.map (fun e => if e.1 / 4 = g / 4 then (e.1, { e.2 with ev := if ev = 3 then e.2.ev else ev, used := s.stepNo + 1 }) else e) }
/-- A granule of another package is kept at its proxy slice (R86, R276), unless the access is EV 3 and its line is not held. -/
def putProxy (s : State) (g ev : Nat) (px : Proxy) : State :=
  let held := s.proxies.any (fun e => e.1 / 4 == g / 4)
  if (mget? s.proxies g).isNone && ev = 3 then s
  else
    let d := dieOf (proxySlice (64 * g))
    let old := ((s.proxies.find? (fun e => e.1 / 4 == g / 4)).map (·.2.ev)).getD 0
    let s := if (mget? s.proxies g).isSome then s else partRoom s d
    touchProxy { s with proxies := mset s.proxies g { px with ev := if held then old else ev } } g ev
def isPool (g : Nat) : Bool := decide (0x200000000000 ≤ 64 * g ∧ 64 * g < 0x400000000000)
/-- Pool sectors held across both dies and all L1s: each place that holds a sector counts (log 107). -/
def poolHeld (s : State) : Nat :=
  s.soffit.foldl (fun n e => n + (e.2.filter (fun x => isPool x.1)).length) 0
    + s.cores.foldl (fun n e => n + (e.2.copies.filter (fun x => isPool x.1)).length) 0
/-- Place of a held pool sector: a die's cache part, or a core's L1. -/
inductive PoolAt where
  | soffit (d g : Nat)
  | l1 (c g : Nat)
  deriving DecidableEq, Repr
def oldestPool (s : State) : Option (PoolAt × Nat) :=
  let all := s.soffit.flatMap (fun e => (e.2.filter (fun x => isPool x.1)).map (fun x => (PoolAt.soffit e.1 x.1, x.2.used)))
    ++ s.cores.flatMap (fun e => (e.2.copies.filter (fun x => isPool x.1)).map (fun x =>
        (PoolAt.l1 e.1 x.1, ((mget? e.2.lines (x.1 / 4)).map (·.used)).getD 0)))
  all.foldl (fun (m : Option (PoolAt × Nat)) x => match m with
    | none => some x
    | some y => if x.2 < y.2 then some x else m) none
def poolLimit : Nat := 16777216
/-- Room for one more pool sector. -/
def poolRoom (s : State) (g : Nat) : State :=
  if !isPool g || decide (poolHeld s < poolLimit) then s
  else match oldestPool s with
    | none => s
    | some (.soffit d x, _) => sofDrop s d x
    | some (.l1 c x, _) => s.updCore c (·.dropCopy x)
/-- An access is performed at the home of a sector of HBM4, host or pool memory: the sector is held in the cache part of its home's die from then on,
unless it is EV 3 or its mapping has NOSC and it is not held yet; a write makes it dirty. -/
def sofTouch (s : State) (t : Target) (ev : Nat) (nosc dirty : Bool) : State :=
  if t.tier = .win then s
  else
    let g := t.canon / 64
    let d := dieOf t.slice
    let now := s.stepNo + 1
    match mget? (mget s.soffit d []) g with
    | some e => touchPart { s with soffit := mset s.soffit d (mset (mget s.soffit d []) g { e with dirty := e.dirty || dirty }) } d (g / 4) ev
    | none =>
      if ev = 3 || nosc then s
      else
        let s := partRoom (poolRoom s g) d
        touchPart { s with soffit := mset s.soffit d (mset (mget s.soffit d []) g { ev := ev, used := now, dirty := dirty }) } d (g / 4) ev
/-- A host or pool sector is clean once its write-through has completed (R275); an error in it is then read again (R379). -/
def sofClean (s : State) (g : Nat) : State :=
  match sofFind s g with
  | none => s
  | some e => { s with
      soffit := mset s.soffit (sofDie s g) (mset (mget s.soffit (sofDie s g) []) g { e with dirty := false }),
      bad := s.bad.filter (fun u => match u with | .memory x 3 => x / 2 != g | _ => true) }
/-- Sectors that answer a test leave the cache parts. -/
def sofDropAll (s : State) (p : Nat → Bool) : State :=
  s.soffit.foldl (fun s e => e.2.foldl (fun s x => if p x.1 then sofDrop s e.1 x.1 else s) s) s

/-! ## Stacks (R10, R15) -/

/-- The HBM4 stack of a physical address, and the soffit die whose controllers it is joined to. -/
def stackOf (pa : Nat) : Nat := pa / 4096 % 8
def stackDie (n : Nat) : Nat := if n < 4 then 0 else 1

end Sys2Proof.Machine
end

