-- ==== Sys2Proof/Machine/Queue.lean ====
section
/-! DEFINITION. What the bay's queue agent makes of an entry or a job that ends: the records of R357, the notice of R60 and its place in the notice
queue (R49). -/

namespace Sys2Proof.Machine

/-! ## Levels and their records (R50, R356, R357) -/

/-- A record of R357: the course that issued the SPAWN or SFENCE is named. -/
def spawnRec (s : State) (b core slot jseq code reason blk : Nat) (loc : W64) : FaultRec :=
  { code := code, loc := loc.setWidth 128, tflt := s.t, ticket := ticket true (s.bay b).inc slot core,
    aux := BitVec.ofNat 32 blk ++ BitVec.ofNat 24 jseq ++ BitVec.ofNat 8 reason }
/-- A record of the queue agent in a core's buffer; none once that core has made its step of a containment (R342). -/
def putRec (s : State) (c : Nat) (r : FaultRec) : State :=
  match (s.bay (s.bayOf c)).cont with
  | some k => if k.stop.contains c then s.updCore c (fun co => { co with recs := co.recs ++ [r] }) else s
  | none => s.updCore c (fun co => { co with recs := co.recs ++ [r] })
def setLevel (s : State) (b lvl : Nat) (l : List SpawnE) : State := s.updBay b (fun y => { y with levels := mset y.levels lvl l })
def levelOf (s : State) (b lvl : Nat) : List SpawnE := mget (s.bay b).levels lvl []
/-- An entry fails: its record, and it leaves its level (R356). With the record buffer full nothing happens yet (R339). -/
def failEntry (s : State) (b lvl : Nat) (e : SpawnE) (rest : List SpawnE) (code reason : Nat) (loc : W64) : State :=
  if recRoom s e.core then setLevel (putRec s e.core (spawnRec s b e.core e.slot e.jseq code reason 0 loc)) b lvl rest else s

/-! ## Notices (R49, R60) -/

/-- Places of the notice queue that are neither filled nor reserved. -/
def noticeRoom (s : State) (b : Nat) : Bool := (s.bay b).notices.length + (s.bay b).reserved < 4096
def pushNotice (s : State) (b : Nat) (m : W512) : State := s.updBay b (fun y => { y with notices := y.notices ++ [m] })
/-- The job-finished notice (R60). -/
def doneNotice (j : JobInfo) : W512 :=
  (0 : BitVec 256) ++ BitVec.ofNat 64 j.nblk ++ BitVec.ofNat 64 j.tfin ++ BitVec.ofNat 64 j.jseq ++ (0 : BitVec 32) ++ j.tag ++ (0 : BitVec 6)
    ++ BitVec.ofNat 2 j.lvl ++ (0x01 : BitVec 8)
/-- The job ends: its notice, in the place reserved where there is one. -/
def finishJob (s : State) (b : Nat) (j : JobInfo) (reserved : Bool) : State :=
  let s := s.updBay b (fun y => { y with jobs := y.jobs.filter (·.jseq != j.jseq), reserved := if reserved then y.reserved - 1 else y.reserved })
  if j.note then pushNotice s b (doneNotice j) else s

/-! ## Failures of the queue agent's accesses and of a staging -/

/-- An access of the queue agent that waited fails a check of R361: a read ends its entry (R356), whose level and JSEQ are in `lanes` and whose LOC is in
`pc`; the DONE add makes its one record, and the notice follows (R448). LINK_DOWN contains (R377, R418). `none` where a record finds no room (R339). -/
def queueFault (s : State) (b : Nat) (a : Access) (r : FaultRec) : Option State :=
  -- with a read go the other reads of its entry
  let with' := fun (x : Access) => a.dest == .again && x.ag == a.ag && x.dest == .again && x.lanes.take 2 == a.lanes.take 2
  let gone : State := { s with accs := s.accs.filter (fun x => x.id != a.id && !with' x) }
  if r.cont then some (contain gone b (some (agentRec s a.ag 0 [] r)))
  else if a.dest = .again then
    match levelOf s b (a.lanes.headD 0) with
    | [] => some gone
    | e :: rest =>
      -- what has left its level meanwhile has no read
      if a.lanes.getD 1 0 ≠ e.jseq then some gone
      else if recRoom s e.core then some (failEntry gone b (a.lanes.headD 0) e rest r.code 0x10 a.pc) else none
  else match (s.bay b).jobs.find? (·.add == some a.id) with
    | none => some gone
    | some j =>
      if recRoom s j.core then some (finishJob (putRec gone j.core (spawnRec s b j.core j.slot j.jseq r.code 0x12 0 j.done)) b j j.note) else none
/-- A failed staging (R357): its record names region `loc`; the block does not start, its tiles are free, and the rest of its job is not offered. Blocks
of the job placed before it are started all the same, with the privilege of their job (log 96). `none` where the record finds no room. -/
def stagingFailed (s : State) (c blk : Nat) (bl : Block) (r : FaultRec) (loc : W64) : Option State :=
  let gone : State := { s with accs := s.accs.filter (fun x => x.ag != .stage c blk) }
  if r.cont then some (contain gone bl.bay (some (agentRec s (.stage c blk) 0 [] r)))
  else if recRoom s bl.jcore then
    let s := putRec gone bl.jcore (spawnRec s bl.bay bl.jcore bl.jslot bl.jseq r.code 0x11 bl.number loc)
    let ts := (mkeys (s.core c).tiles).filter (fun e => ((mget? (s.core c).tiles e).map (·.blk)) == some blk)
    let s := s.updCore c (fun co => let co := ts.foldl (fun co e => freeTile e co) co; { co with blocks := mdel co.blocks blk })
    some ((settleCore s c).updBay bl.bay (fun y => { y with
      levels := y.levels.map (fun e => (e.1, e.2.filter (fun x => x.jseq != bl.jseq))),
      jobs := y.jobs.filter (fun x => x.jseq != bl.jseq) }))
  else none
/-- The same for an access of the staging. -/
def stageFault (s : State) (c blk : Nat) (a : Access) (r : FaultRec) : Option State :=
  match s.block? c blk with
  | none => some { s with accs := s.accs.filter (fun x => x.id != a.id) }
  | some bl => stagingFailed s c blk bl r ((bl.regions[match a.dest with | .stage i _ => i | _ => 0]?.map (·.addr)).getD 0)

end Sys2Proof.Machine
end

