-- ==== Sys2Proof/Machine/Access.lean ====
section
/-! DEFINITION. Issuing: who may execute a word (R156, R145, R25), and issuing the accesses of a memory word: the checks of R361 lane by lane,
the miss queue and the side log (R364 to R366), parking (R90, R112), and retrying what is parked (R111, R317). -/

namespace Sys2Proof.Machine

/-! ## Who issues -/

/-- A word is executed by the agent that issues it. A state in which no agent issues has no meaning for a word. -/
def word (s : State) (k : Issue → State) : Host.Outcome State Fault Refusal :=
  match s.issue with
  | none => .fault .noIssuer
  | some iss => if resident s iss.who then .next (k iss) else .fault .noIssuer

/-- A class-0 record of the issue's own word (R347). -/
def encRec (iss : Issue) (code reason : Nat) : FaultRec := { code := code, aux := aux0 reason iss.pos iss.word }
/-! ## Stored units that a read cannot correct: tile lines, accumulator rows, registers (R379; log 20) -/

/-- What such a read comes to: the record of the bay's containment, with its SOURCE. -/
def unitRec (source : Nat) : FaultRec := { code := 0x3F, aux := BitVec.ofNat 64 source, cont := true }
/-- Whether n registers, elements or bytes from r meet unit x of w of them. -/
def inUnit (w x r n : Nat) : Bool := decide (w * x < r + n ∧ r < w * x + w)
def tileErr (s : State) (c e k n : Nat) : Bool :=
  s.bad.any (fun u => match u with | .tile c' e' x => c' == c && e' == e && inUnit 32 x k n | _ => false)
def rowErr (s : State) (c b k n : Nat) : Bool :=
  s.bad.any (fun u => match u with | .row c' b' x => c' == c && b' == b && inUnit 8 x k n | _ => false)
/-- v registers of lanes of a course that a predicate picks. -/
def vregErr (s : State) (c : Nat) (at' : Nat → Nat → Bool) (r n : Nat) : Bool :=
  s.bad.any (fun u => match u with | .vreg c' k l x => c' == c && at' k l && inUnit 8 x r n | _ => false)
def sregErr (s : State) (who : Issuer) (r n : Nat) : Bool :=
  s.bad.any (fun u => match u, who with
    | .sreg c' k' x, .course c k => c' == c && k' == k && inUnit 4 x r n
    | .jreg c' p' x, .job c p => c' == c && p' == p && inUnit 4 x r n
    | _, _ => false)
/-- Whether a word of the issuer reads a register that cannot be read, in these lanes. -/
def useErr (s : State) (who : Issuer) (lanes : List Nat) (uses : List RegUse) : Bool :=
  uses.any (fun u => u.rd && (match u.file, who with
    | .v, .course c k => vregErr s c (fun k' l => k' == k && lanes.contains l) u.r u.n
    | .s, w => sregErr s w u.r u.n
    | _, _ => false))
  || (match who with | .seq c b => s.bad.contains (.mreg c b) | _ => false)

/-- A word outside the agent's row of R156. -/
def wrongAgent (s : State) (iss : Issue) : State := issueFault s iss iss.mask (encRec iss 0x01 4)
/-- A privileged word without privilege (R346). -/
def noPriv (s : State) (iss : Issue) : State := issueFault s iss iss.mask (encRec iss 0x03 0)
/-- A value fault (R349): RESERVED_FIELD, REASON 5, before any effect. -/
def valueFault (s : State) (iss : Issue) : State := issueFault s iss iss.mask (encRec iss 0x02 5)

/-- An L-set word of a course: with its guard false in every lane it only advances (R25). -/
def lword (s : State) (g : Guard) (k : Issue → Nat → Nat → State) : Host.Outcome State Fault Refusal :=
  word s (fun iss => match iss.who with
    | .course c sl => if (activeLanes s iss g).isEmpty then skip s iss false else k iss c sl
    | .job _ _ => wrongAgent s iss
    | .seq _ _ => wrongAgent s iss)

/-- An L-set word that acts in each active lane by itself (R157). -/
def lane1 (s : State) (g : Guard) (f : Lane → Lane) : Host.Outcome State Fault Refusal :=
  lword s g (fun iss _ _ => laneOp s iss g f)

/-- The same where the effect depends on the issue's prefixes (R148). -/
def lanep (s : State) (g : Guard) (f : Pfx → Lane → Lane) : Host.Outcome State Fault Refusal :=
  lword s g (fun iss _ _ => laneOp s iss g (f iss.pfx))

/-- An exchange word (R170): `f` gives a lane's new registers from the active lanes and every lane as it stood before. -/
def exch (s : State) (g : Guard) (f : List Nat → (Nat → Lane) → Nat → Lane → Lane) : Host.Outcome State Fault Refusal :=
  lword s g (fun iss c sl =>
    let act := activeLanes s iss g
    let old := s.lane c sl
    endIssue s iss false (fun l ln => { (if act.contains l then f act old l ln else ln) with pc := iss.next }) iss.next)

/-- A U-set word that courses and batten jobs execute: with its guard 0 it only advances (R145). -/
def uword (s : State) (q : Guard) (k : Issue → State) : Host.Outcome State Fault Refusal :=
  word s (fun iss => match iss.who with
    | .seq _ _ => wrongAgent s iss
    | w => if (uniOf s w).rq q then k iss else skip s iss true)
/-- A U-set word that acts on the uniform registers alone (R29). -/
def uni1 (s : State) (q : Guard) (f : Uni → Uni) : Host.Outcome State Fault Refusal := uword s q (fun iss => uniOp s iss f)

/-- A U-set word of courses alone. -/
def cword (s : State) (q : Guard) (k : Issue → Nat → Nat → State) : Host.Outcome State Fault Refusal :=
  word s (fun iss => match iss.who with
    | .course c sl => if (uniOf s iss.who).rq q then k iss c sl else skip s iss true
    | .job _ _ => wrongAgent s iss
    | .seq _ _ => wrongAgent s iss)
/-- A privileged U-set word: in the other mode it takes PRIV (R156, R305, R346). -/
def pword (s : State) (q : Guard) (k : Issue → Nat → Nat → State) : Host.Outcome State Fault Refusal :=
  cword s q (fun iss c sl => if prvOf s iss.who then k iss c sl else noPriv s iss)
/-- A batten word (R156). -/
def bword (s : State) (q : Guard) (k : Issue → Nat → Nat → State) : Host.Outcome State Fault Refusal :=
  word s (fun iss => match iss.who with
    | .job c p => if (uniOf s iss.who).rq q then k iss c p else skip s iss true
    | .course _ _ => if (uniOf s iss.who).rq q then wrongAgent s iss else skip s iss true
    | .seq _ _ => wrongAgent s iss)
/-- A matrix-stream word (R156); its QG is 7. -/
def mword (s : State) (k : Issue → Nat → Nat → State) : Host.Outcome State Fault Refusal :=
  word s (fun iss => match iss.who with
    | .seq c b => k iss c b
    | .course _ _ => wrongAgent s iss
    | .job _ _ => wrongAgent s iss)

/-! ## Horizons, time -/

/-- Horizon of scope k over the returned records (R267). -/
def Hor.at (h : Hor) (k : Nat) : Nat := if k = 4 then h.h4 else if k = 5 then h.h5 else if k = 6 then h.h6 else if k = 7 then h.h7 else 0
def agentHor (s : State) : Agent → Hor
  | .thread c k l => (s.lane c k l).hor
  | .job c p => ((s.job? c p).map (·.hor)).getD {}
  | .bayq b => (s.bay b).hor
  | .service n => (mget s.services n {}).hor
  | .host => s.hostHor
  | _ => {}
/-- Whether a write of the agent lacks its record. -/
def writesOut (s : State) (a : Agent) : Bool := s.accs.any (fun x => x.ag == a && x.kind.isWrite)
/-- T of an agent. -/
def agentT (s : State) (a : Agent) : Nat := match agentCore? a with
  | some c => s.coreT c
  | none => s.t
/-- T ≥ H[k] (R267, R272); H[0] is 0. -/
def horPassed (s : State) (a : Agent) (k : Nat) : Bool :=
  k == 0 || (!writesOut s a && decide ((agentHor s a).at k ≤ agentT s a))

/-! ## The miss queue and the side log (R90, R91, R364) -/

def pageOf (va : Nat) : Nat := va / 65536
def sideCount (s : State) (c : Nat) : Nat :=
  (s.accs.filter (fun a => a.ph == .sideLog && agentCore? a.ag == some c)).length

/-- How a miss meets the queue: it merges, waits for the entry in service, or is held. -/
inductive MissFate where
  | merged (s : State)
  | waits
  | held
  deriving Repr

def missFate (s : State) (c : Nat) (a : Access) (va : Nat) : MissFate :=
  let co := s.core c
  let w := a.kind.isWrite
  let r := a.kind != .fetch && (!w || a.kind == .atomic)
  let x := a.kind == .fetch
  match co.mq.find? (fun m => pageOf m.va.toNat == pageOf va) with
  | some m =>
    if m.service then .waits
    else .merged (s.setCore c { co with mq := co.mq.map (fun m =>
      if pageOf m.va.toNat == pageOf va then { m with prv := m.prv || a.prv, x := m.x || x, w := m.w || w, r := m.r || r } else m) })
  | none =>
    if co.mq.length < 64 && co.heldPages.isEmpty then
      let m : Miss := { va := BitVec.ofNat 64 (pageOf va * 65536), inc := (s.bay (s.bayOf c)).inc, qtr := (quarter? a.ag).getD 0,
                        prv := a.prv, x := x, w := w, r := r, service := false }
      .merged (s.setCore c { co with mq := co.mq ++ [m] })
    else .held

/-- Whether the access retires into the side log on a miss: a posted write of a thread (R364). -/
def posted (a : Access) : Bool :=
  match a.ag with
  | .thread .. => a.kind == .store || a.kind == .stp || a.kind == .red
  | _ => false

/-- The copies a write drops at its issue: the core's copy of the granule, the package's proxy copy of a peer's (R269, R276). The line takes the
access's priority (R92). -/
def dropCopies (s : State) (c : Nat) (dst ev : Nat) : State :=
  let g := granOf s dst
  let s := s.updCore c (fun co => (co.touch g ev (s.stepNo + 1)).dropCopy g)
  if isPeer dst then { s with proxies := mdel s.proxies g } else s
/-- The same for a write that misses: every copy it may be a write of is dropped (a copy may be dropped at any step, R269). -/
def dropMaybe (s : State) (c : Nat) (a : Access) : State :=
  match goes? s a with
  | some d => dropCopies s c d a.ev
  | none => s.updCore c (·.keepCopies (fun g _ => a.ph != .frame && g % 4 != a.ea.toNat / 64 % 4))
/-- NOSC of the leaf that translates an address for an agent of a core (R89). -/
def noscOf (s : State) (c : Nat) (ag : Agent) (ea : W64) : Bool :=
  !untranslated ag && ((tlbFind s c (quarter? ag) ea.toNat).map (fun e => e.1.leaf.getLsbD 8)).getD false

/-- The 16-byte data of STP once its slot address has passed checks 1 to 4; other data as they are. -/
def stpData (s : State) (c : Nat) (a : Access) : Except Nat (List Byte) :=
  if a.kind = .stp ∧ a.data.length = 8 then
    match unswizzle s (s.bayOf c) (BitVec.ofNat 64 (leNum a.data)) with
    | .ok n => .ok (natBytes 16 n.toNat)
    | .error r => .error r
  else .ok a.data

/-- The data as they are stored. -/
def storeData (s : State) (c : Nat) (a : Access) : List Byte :=
  match stpData s c a with
  | .ok d => d
  | .error _ => a.data

/-- STP's read of the frame that its value names, between checks 4 and 5: a stale frame, or an entry that cannot be read (R114, R361, R379). -/
def stpMid (s : State) (c : Nat) (a : Access) : Option FaultRec :=
  let x := BitVec.ofNat 64 (leNum a.data)
  if a.kind = .stp ∧ a.data.length = 8 then
    match npBad s (s.bayOf c) x, unswizzle s (s.bayOf c) x with
    | some src, _ => some (eccRec (a.form.setWidth 128) src)
    | none, .error r => some (staleRec s (s.bayOf c) x x r .stp 16)
    | none, .ok _ => none
  else none

/-- The checks of R361 on an access as it stands: all of them, or the last four where it has passed the others (R317). -/
def probeOf (s : State) (c : Nat) (a : Access) : Probe :=
  let mid := stpMid s c a
  if a.looked then probeTail s c a.ag a.kind a.form a.ea a.size a.prv
  else probeAccess s c a.ag a.kind a.form a.size a.prv a.ridge.isSome mid a.iss

/-- An access that misses: to the side log, where no lane waits for it, or to wait for its page; `none` where it is held (R90, R365). -/
def placeMiss (s : State) (c : Nat) (a : Access) : Option (State × Bool) :=
  if posted a && decide (64 ≤ sideCount s c) then none
  else match missFate s c a a.ea.toNat with
    | .held => none
    | .waits => some ({ s with accs := s.accs ++ [{ a with ph := if posted a then .sideLog else .queued }] }, !posted a)
    | .merged s' => some ({ s' with accs := s'.accs ++ [{ a with ph := if posted a then .sideLog else .missed }] }, !posted a)

/-- Where an access ends up after its checks (a ridge-tagged write drops no copy, log 113): in `s.accs`, with its lanes parked or not; `none` where it is held as by the scoreboard. -/
def placeAcc (s : State) (c : Nat) (a : Access) (pr : Probe) : Option (State × Bool) :=
  match pr with
  | .bad _ => none
  | .go ea dst refill =>
    let data := storeData s c a
    let s := match refill, quarter? a.ag with
      | some e, some q => tlbRefill s c q e
      | _, _ => s
    let nosc := !isPeer dst && noscOf s c a.ag ea
    let s := if a.kind.isWrite && a.ridge.isNone then dropCopies s c dst a.ev else s
    some ({ s with accs := s.accs ++ [{ a with ea := ea, data := data, nosc := nosc, ph := .flight dst, t0 := s.coreT c }] }, false)
  | .park f vac =>
    let s := if vac then sendReq s c (frameName s (s.bayOf c) f) f true a.kind.isWrite else s
    let a := { a with frame := some f, ph := .frame, t0 := s.coreT c }
    let s := if a.kind.isWrite then dropMaybe s c a else s
    some ({ s with accs := s.accs ++ [a] }, true)
  | .miss ea =>
    let data := storeData s c a
    let a := { a with ea := ea, data := data, looked := true, ph := .missed, t0 := s.coreT c }
    placeMiss (if a.kind.isWrite then dropMaybe s c a else s) c a

/-! ## Issuing the accesses of one word -/

/-- What became of an issue's accesses: the state, lanes parked with their access, lanes that fault. -/
structure Issued where
  s : State
  parked : List (Nat × Nat) := []
  bad : List (Nat × FaultRec) := []
  held : Bool := false
  deriving Repr

/-- Place one lane's access. -/
def issueOne (c : Nat) (r : Issued) (lane : Nat) (a : Access) : Issued :=
  if r.held then r
  else
    let a := { a with id := r.s.nextAcc }
    match probeOf r.s c a with
    | .bad f => { r with bad := r.bad ++ [(lane, f)] }
    | pr => match placeAcc r.s c a pr with
      | none => { r with held := true }
      | some (s, p) =>
        { r with s := { s with nextAcc := s.nextAcc + 1 }, parked := if p then r.parked ++ [(lane, a.id)] else r.parked }

/-- Records of an issue's faulting lanes: one for each code, with the lowest lane's details (R334), in ascending code order of appearance. -/
def faultByCode (s : State) (iss : Issue) : Nat → List (Nat × FaultRec) → State
  | 0, _ => s
  | _, [] => s
  | n + 1, (l, r) :: bad =>
    let same := bad.filter (fun b => b.2.code == r.code)
    let s' := faultLanes s iss (l :: same.map (·.1)) r
    let b := s.bayOf (issCore iss.who)
    -- once one of them has contained the bay there is no further record (R342)
    if (s'.bay b).inc ≠ (s.bay b).inc then s' else faultByCode s' iss n (bad.filter (fun b => b.2.code != r.code))

/-- Lane state at a WAIT after its access was issued; the others go on or park (R21). -/
def parkLane (next : W64) (kind : AccKind) (p : Option Nat) (ln : Lane) : Lane :=
  match p with
  | some id => { ln with st := .parked id }
  | none => if kind = .wait then { ln with st := .waitRead } else { ln with pc := next }

/-- The accesses of lanes of one word, placed in ascending lane order. -/
def memRun (s : State) (c sl : Nat) (act : List Nat) (mk : Nat → Lane → Access) : Issued :=
  act.foldl (fun r l => issueOne c r l (mk l (s.lane c sl l))) { s := s }
/-- The end of an L-set word whose lanes may have parked or faulted; an issue that must be held is not made (R90, R365). -/
def finishIssued (s : State) (iss : Issue) (act : List Nat) (kind : AccKind) (r : Issued) : State :=
  if r.held then s
  else
    let s' := endIssue r.s iss false (fun l ln =>
      if act.contains l then
        (if r.bad.any (·.1 == l) then ln else parkLane iss.next kind ((r.parked.find? (·.1 == l)).map (·.2)) ln)
      else { ln with pc := iss.next }) iss.next
    faultByCode s' iss r.bad.length r.bad
/-- An L-set memory word: `mk l ln` is the access of active lane l. -/
def memIssue (s : State) (iss : Issue) (c sl : Nat) (g : Guard) (kind : AccKind) (mk : Nat → Lane → Access) : State :=
  let act := activeLanes s iss g
  finishIssued s iss act kind (memRun s c sl act mk)

/-- Address of a byte after the frame table, by which ranges are compared (R112, R261). -/
def afterFrame (s : State) (b : Nat) (a : W64) : Nat :=
  if classAddr a = .object then (frameBase s b (npFrame a) + BitVec.ofNat 64 (npOff a)).toNat else a.toNat
def Lock.meets (l m : Lock) : Bool := decide (l.lo ≤ m.hi ∧ m.lo ≤ l.hi)
/-- Whether ranges a job is about to read and write meet those of an earlier transfer of it that is not performed (R258). -/
def xferBlocks (j : Job) (rd wr : Option Lock) : Bool :=
  j.xfers.any (fun x =>
    (match x.wr with | some w => rd.any (·.meets w) || wr.any (·.meets w) | none => false)
    || (match x.rd with | some r => wr.any (·.meets r) | none => false))
/-- Whether a ULD, UST or UATOM of a job is held behind its transfers (R258). -/
def jobWaits (s : State) (who : Issuer) (a : Access) : Bool :=
  match who with
  | .job c p => (match s.job? c p with
    | none => false
    | some j =>
      let lo := afterFrame s (s.bayOf c) a.form
      let l : Lock := { lo := lo, hi := lo + a.size - 1, wr := a.kind.isWrite }
      xferBlocks j (if a.kind = .store then none else some l) (if a.kind.isWrite then some l else none))
  | _ => false

/-- A U-set memory word: one access, of the thread of the lowest lane or of the job (R206). The whole mask waits where the access parks. -/
def uniIssue (s : State) (iss : Issue) (a : Access) : State :=
  let c := issCore iss.who
  let r := issueOne c { s := s } iss.low a
  if r.held || jobWaits s iss.who a then s
  else match r.bad with
    | (_, f) :: _ => issueFault s iss iss.mask f
    | [] => match iss.who, r.parked with
      | .course _ _, (_, id) :: _ => endIssue r.s iss true (fun _ ln => { ln with st := .parked id }) iss.pc
      | _, _ => skip r.s iss true

/-- An access parked on a miss, a frame or a name, not made yet. -/
def Phase.cancels : Phase → Bool
  | .missed => true | .queued => true | .frame => true | .name _ => true | _ => false
/-- The agent of a U-set access (R206). -/
def uniAgent (iss : Issue) : Agent :=
  match iss.who with
  | .course c k => .thread c k iss.low
  | .job c p => .job c p
  | .seq c b => .seq c b
/-- Bound of ACQ for an agent's next load (R272). -/
def acqOf (s : State) : Agent → Nat
  | .thread c k l => (s.lane c k l).acq
  | .job c p => ((s.job? c p).map (·.acq)).getD 0
  | .bayq b => (s.bay b).acq
  | .service n => (mget s.services n {}).acq
  | _ => 0

/-! ## Retrying -/

/-- A parked access's lanes go on: the access is made (R21). -/
def unpark (s : State) (a : Access) : State :=
  match a.ag with
  | .thread c k _ => s.updCourse c k (·.mapLanes (fun l ln =>
      if a.lanes.contains l && ln.st == .parked a.id then
        (if a.kind = .wait then { ln with st := .waitRead }
         else if a.kind = .fetch || a.dest = .again || a.issv then { ln with st := .ready }
         else { ln with st := .ready, pc := a.next })
      else ln))
  | _ => s

/-- Lanes that have gone on past an access wait for it after all: their PC is the issue's again, or past its ISSV (R21, R220). -/
def parkOn (s : State) (a : Access) : State :=
  match a.ag with
  | .thread c k _ => s.updCourse c k (·.mapLanes (fun l ln =>
      if a.lanes.contains l && ln.st != .exited then { ln with st := .parked a.id, pc := if a.issv then a.next else a.pc } else ln))
  | _ => s
/-- Whether the access of a lane may still fault precisely: a value from another package until its reply, LDP until its slot has been read, an access to be
looked up again. The next issue of its lanes waits, so that a record finds them at this one (R337, R382, R406; log 19). An operand that a word reads in its
own step holds its lanes at that word. -/
def Access.unsure (a : Access) : Bool :=
  a.dest != .none && a.dest != .again && a.kind != .fetch && (a.kind == .ldp || (match a.ph with
    | .flight dst => isPeer dst
    | .replied .. => false
    | .recorded .. => false
    | .cxl .. => false
    | _ => true))

/-- The block of core c whose barrier image or sequencer image holds an address (R70, R325). -/
def imageBlk (s : State) (c : Nat) (va : W64) : Nat :=
  (((s.core c).blocks.find? (fun e => (match e.2.dir with
    | some img => decide (img.toNat ≤ va.toNat ∧ va.toNat < img.toNat + 8 * e.2.nbar)
    | none => false) || (e.2.image.isSome && decide (e.2.save.toNat + 64 ≤ va.toNat ∧ va.toNat < e.2.save.toNat + 128)))).map (·.1)).getD 0
/-- A failed store of the core to an image: an asynchronous record and containment (R416). -/
def imageFault (s : State) (c : Nat) (va : W64) (r : FaultRec) : State :=
  asyncFault s (s.bayOf c) { r with loc := va.setWidth 128, blk := imageBlk s c va, tflt := s.coreT c,
                                    ticket := ticket true (s.bay (s.bayOf c)).inc 0 c }

/-- Precise faults of accesses already issued, one record for each issue and code (R334, R367). A record that finds no room leaves its lanes and
accesses as they are, to be looked up again (R339). -/
def faultAccs (s : State) : Nat → List (Access × FaultRec) → State
  | 0, _ => s
  | _, [] => s
  | n + 1, (a, r) :: rest =>
    -- what a containment or a kill has discarded meanwhile makes no record (R342)
    if !s.accs.any (·.id == a.id) then faultAccs s n rest
    else
    let same := fun (x : Access × FaultRec) => x.1.iss == a.iss && x.2.code == r.code && (match a.ag, x.1.ag with
      | .thread c k _, .thread c' k' _ => c == c' && k == k'
      | _, _ => false)
    let both := (a, r) :: rest.filter same
    -- the details are those of the lowest lane (R334)
    let r := (both.foldl (fun (m : Access × FaultRec) x => if x.1.lanes.headD 8 < m.1.lanes.headD 8 then x else m) (a, r)).2
    let grp := both.map (·.1)
    let ids := grp.map (·.id)
    let rest' := rest.filter (fun x => !same x)
    let again (s : State) : State := { s with accs := s.accs.map (fun x => if ids.contains x.id then { x with ph := .queued, stuck := true } else x) }
    let gone (s : State) : State := { s with accs := s.accs.filter (fun x => !ids.contains x.id) }
    match a.ag with
    | .thread c k _ =>
      if r.cont || faultRoom s c k then
        faultAccs (takeFault (gone s) c k a.pc (if a.kind = .fetch then a.form + 4 else a.next) (grp.flatMap (·.lanes)) r) n rest'
      else faultAccs (again s) n rest'
    | .job c p =>
      if r.cont || recRoom s c then faultAccs (jobFault s c p a.pc r) n rest' else faultAccs (again s) n rest'
    | .seq c b =>
      if recRoom s c then faultAccs (seqFault (gone s) c b a.pc r) n rest' else faultAccs (again s) n rest'
    -- a wait for a full record buffer ends when the access is looked up again
    | .bayq b => faultAccs ((queueFault s b a r).getD (again s)) n rest'
    | .stage c b => faultAccs ((stageFault s c b a r).getD (again s)) n rest'
    -- an add of a core to a barrier image (R416)
    | .core c => faultAccs (imageFault (gone s) c a.form r) n rest'
    | _ => faultAccs (gone s) n rest'

/-- Look one parked access up again, from the start (R111, R317): placed again, or its fault. -/
def retryOne (s : State) (a0 : Access) : State × Option (Access × FaultRec) :=
  let a := { a0 with retried := true, stuck := false }
  let later : State := { s with accs := s.accs.map (fun x => if x.id = a.id then { x with ph := .queued, stuck := false } else x) }
  match tlbCore? s a.ag with
  | none => (s, none)
  | some c =>
    match probeOf s c a with
    | .bad r => (s, some (a, r))
    | pr =>
      let s0 := { s with accs := s.accs.filter (fun x => x.id != a.id) }
      if a.kind = .fetch then
        -- the issue is fetched again once every word's page is mapped
        match pr with
        | .go _ _ _ => (unpark s0 a, none)
        | _ => match placeAcc s0 c a pr with
          | some (s', _) => (s', none)
          | none => (later, none)
      else match placeAcc s0 c a pr with
        | none => (later, none)
        | some (s', true) => (s', none)
        | some (s', false) => (unpark s' a, none)

/-- Retry accesses in order, then take the faults of those that fail. -/
def retryAccs (s : State) (as : List Access) : State :=
  let r := (sortAccs as).foldl (fun (r : State × List (Access × FaultRec)) a =>
    let x := retryOne r.1 a
    (x.1, r.2 ++ x.2.toList)) (s, [])
  faultAccs r.1 r.2.length r.2

/-- A miss-queue entry for the side-log entries that wait on a page (R91, R368). -/
def pageMiss (s : State) (c : Nat) (va : W64) : Miss :=
  let as := s.accs.filter (fun a => a.ph == .sideLog && agentCore? a.ag == some c && pageOf a.ea.toNat == pageOf va.toNat)
  { va := va, inc := (s.bay (s.bayOf c)).inc, qtr := (as.head?.bind (fun a => quarter? a.ag)).getD 0, prv := as.any (·.prv), x := false, w := true,
    r := false, service := false }
/-- Pages held for want of room enter the miss queue, ahead of any new miss, in ascending order (R368); then waiting accesses whose page has
no entry in service are looked up again (R316). -/
def refillQueue (s : State) (c : Nat) : State :=
  let co := s.core c
  let room := 64 - co.mq.length
  let pages := co.heldPages.take room
  let s := s.setCore c { co with mq := co.mq ++ pages.map (pageMiss s c), heldPages := co.heldPages.drop room }
  retryAccs s (s.accs.filter (fun a => a.ph == .queued && tlbCore? s a.ag == some c &&
    !((s.core c).mq.any (fun m => m.service && pageOf m.va.toNat == pageOf a.ea.toNat))))

end Sys2Proof.Machine
end

