-- ==== Sys2Proof/Machine/Transfer.lean ====
section
/-! DEFINITION. The elements of a batten transfer (R254, R257 to R260): the accesses they make, one after another, from the source through
the index list to the destination. -/

namespace Sys2Proof.Machine

/-- n bytes of a tile from byte k, and their replacement (R80). -/
def Tile.read (t : Tile) (k n : Nat) : List Byte := (List.range n).map (fun i => mget t.data (k + i) 0)
def Tile.write (t : Tile) (k : Nat) (bs : List Byte) : Tile :=
  { t with data := (bs.mapIdx (fun i b => (k + i, b))).foldl (fun m e => mset m e.1 e.2) t.data }

/-- A transfer of the running job of a processor. -/
def xferOf (s : State) (c p id : Nat) : Option Xfer := (s.job? c p).bind (fun j => j.xfers.find? (·.id == id))
def updXfer (s : State) (c p id : Nat) (f : Xfer → Xfer) : State :=
  s.updJob c p (fun j => { j with xfers := j.xfers.map (fun x => if x.id = id then f x else x) })
def setElem (s : State) (c p id e : Nat) (f : XElem → XElem) : State :=
  updXfer s c p id (fun x => { x with elems := x.elems.mapIdx (fun i el => if i = e then f el else el) })
/-- The tile a transfer fills or drains. -/
def xferTile (s : State) (c : Nat) (x : Xfer) : Option Tile := x.ent.bind (fun e => mget? (s.core c).tiles e)

/-- Bank of byte k of a tile (R255). -/
def bankOf (k : Nat) : Nat := k / 32 % 8
/-- Banks that the processor's transfers in flight have reached. -/
def banksOf (s : State) (c p : Nat) : BitVec 8 := (((s.job? c p).map (·.xfers)).getD []).foldl (fun m x => m ||| x.banks) 0
/-- n conflicts at most: how many there are depends on clocks, and is free (R255). -/
def addConflicts (s : State) (c p n : Nat) : State :=
  if n = 0 then s
  else (s.updProc c p (fun pr => { pr with bankc := pr.bankc + BitVec.ofNat 32 (Config.freeChoice s.free % (n + 1)) })).bumpFree
/-- A transfer reaches bytes of its tile, one access after another: only an access to a bank that has been reached before can be a conflict. -/
def reachBanks (s : State) (c p id : Nat) (ks : List Nat) : State :=
  let r := ks.foldl (fun (r : BitVec 8 × Nat) k => (r.1 ||| 1#8 <<< bankOf k, if r.1.getLsbD (bankOf k) then r.2 + 1 else r.2)) (banksOf s c p, 0)
  addConflicts (updXfer s c p id (fun x => { x with banks := ks.foldl (fun m k => m ||| 1#8 <<< bankOf k) x.banks })) c p r.2

/-- Whether a read brings data of a tile fill (R379, R397). -/
def fillRead (s : State) (a : Access) : Bool :=
  match a.ag, a.dest with
  | .job c p, .xfer id e => (match xferOf s c p id with
    | some x => (x.kind == .btld || x.kind == .bgath) && ((x.elems[e]?).map (·.ph)) == some .read
    | none => false)
  | _, _ => false

/-- Make one access of a transfer: on its way, waiting, or the job's fault (R394, R395). -/
def launch (s : State) (c : Nat) (a : Access) : State :=
  let a := { a with id := s.nextAcc }
  let s := { s with nextAcc := s.nextAcc + 1 }
  let wait : State := { s with accs := s.accs ++ [{ a with ph := .queued }] }
  match probeOf s c a with
  | .bad r => faultAccs wait 1 [(a, r)]
  | pr => ((placeAcc s c a pr).map (·.1)).getD wait

/-- The access of element e. -/
def elemAcc (j : Job) (c p : Nat) (x : Xfer) (e : Nat) (k : AccKind) (va : W64) (n : Nat) : Access :=
  { id := 0, iss := x.id, ag := .job c p, kind := k, form := va, ea := va, size := n, prv := j.prv, dest := .xfer x.id e, pc := x.pc, next := x.pc,
    acq := j.acq }

/-- Destination sector of an element. -/
def XElem.sector? (el : XElem) : Option Nat := match el.dst with | .mem va => some (va.toNat / 32) | _ => none
/-- The bytes are in hand, or have gone on. -/
def XPhase.have : XPhase → Bool
  | .got _ => true | .write => true | .done => true | _ => false
/-- An element's write goes once every element of its destination sector is in hand: the sector is one access (R95). Indexed places are each by
themselves. -/
def writeReady (x : Xfer) (el : XElem) : Bool :=
  x.kind == .bscat || x.elems.all (fun y => y.sector? != el.sector? || y.ph.have)

/-- One element as far as it can go in one step. -/
def stepElem (s : State) (c p id e : Nat) : State :=
  match s.job? c p, xferOf s c p id with
  | some j, some x => (match x.elems[e]? with
    | none => s
    | some el => (match el.ph with
      | .todo => (match el.src, el.dst with
        | .index list _ _, _ => launch (setElem s c p id e (fun y => { y with ph := .index })) c (elemAcc j c p x e .bread list 4)
        | _, .index list _ _ => launch (setElem s c p id e (fun y => { y with ph := .index })) c (elemAcc j c p x e .bread list 4)
        | .mem va, _ => launch (setElem s c p id e (fun y => { y with ph := .read })) c (elemAcc j c p x e .bread va el.size)
        | .bytes b, _ => setElem s c p id e (fun y => { y with ph := .got b })
        | .tile _, _ => s)
      | .got b => (match el.dst with
        | .tile k => reachBanks (setElem (s.updCore c (fun co => match x.ent with
            | some i => (match mget? co.tiles i with
              | some t => { co with tiles := mset co.tiles i (t.write k b) }
              | none => co)
            | none => co)) c p id e (fun y => { y with ph := .done })) c p id [k]
        | .mem va =>
          if writeReady x el then
            launch (setElem s c p id e (fun y => { y with ph := .write })) c
              { elemAcc j c p x e .bwrite va el.size with data := b, sig := x.sig, ridge := x.ridge }
          else s
        | _ => s)
      | _ => s))
  | _, _ => s

/-- Every element of a transfer as far as it can go: what is to be read, then what is to be written. -/
def pump (s : State) (c p id : Nat) : State :=
  let es := List.range (((xferOf s c p id).map (·.elems.length)).getD 0)
  let s := es.foldl (fun s e => stepElem s c p id e) s
  es.foldl (fun s e => stepElem s c p id e) s

/-- An index has come: the place BASE + x × STRIDE0 (R257). -/
def XLoc.placeAt (l : XLoc) (x : Nat) : XLoc :=
  match l with
  | .index _ base stride => .mem (formAddr base (BitVec.ofInt 64 (x * stride)))
  | l => l
/-- The bytes of an element's read have come. -/
def elemGot (s : State) (c p id e : Nat) (b : List Byte) : State :=
  pump (setElem s c p id e (fun el =>
    if el.ph == .index then { el with src := el.src.placeAt (leNum b), dst := el.dst.placeAt (leNum b), ph := .todo }
    else { el with ph := .got b })) c p id

end Sys2Proof.Machine
end

