-- ==== Sys2Proof/Machine/Lease.lean ====
section
/-! DEFINITION. The lease machine (spec/17), its reads: order, leases and copies, reads at home slices, the monitor table, dirty-page records, and
what a load's value does when it comes back. Homes.lean has its writes. -/

namespace Sys2Proof.Machine

/-! ## Order (R271, R272, R303) -/

/-- The sectors of a multicast member's line, each an access of its own, have no order among themselves (R291, R446). -/
def isIngress : Agent → Bool
  | .ingress _ => true
  | _ => false
/-- Whether an earlier transfer of a job has an element still to be written that goes, or may go, to host memory (R303). -/
def xferBefore (s : State) (a : Access) : Bool :=
  match a.ag with
  | .job c p => (match s.job? c p with
    | none => false
    | some j => j.xfers.any (fun x => decide (x.id < a.iss) && x.elems.any (fun e => (match e.ph with | .write => false | .done => false | _ => true) &&
        (match e.dst with
         | .mem va => (match goes? s (elemAcc j c p x 0 .bwrite va e.size) with
           | some d => !isPeer d && tierOf s d == .host
           | none => true)
         | .index _ _ _ => true
         | _ => false))))
  | _ => false
/-- Earlier accesses of the agent come first (an atomic counts as a write: ACQ orders none, log 113): those that go, or may go, to the
granule (unless both are requests to a peer, which stay in order on their plane, R286), for a load those an ACQ set before it, for a write to host memory the earlier writes that go, or may go, to host memory. -/
def orderOk (s : State) (a : Access) (dst : Nat) (sends : Bool) : Bool :=
  isIngress a.ag || (s.accs.all (fun x => !(x.ag == a.ag && decide (x.id < a.id) && x.ph.unperformed &&
    ((mayMeet s x dst && !(sends && (match x.ph with | .remote _ => true | _ => false)))
     || (!a.kind.isWrite && !x.kind.isWrite && decide (x.id < a.acq))
     || (a.kind.isWrite && x.kind.isWrite && !isPeer dst && tierOf s dst == .host &&
         (match goes? s x with | some d => !isPeer d && tierOf s d == .host | none => true)))))
    && !(a.kind.isWrite && !isPeer dst && tierOf s dst == .host && xferBefore s a))

/-- Number of the sector of an address: by its storage, or of a peer-window address by itself. -/
def secOf (s : State) (dst : Nat) : Nat := (if isPeer dst then dst else canonPa s dst) / 32
/-- The latest write of a sector that an agent has seen. -/
def seenAt (s : State) (ag : Agent) (x : Nat) : Nat :=
  match s.seen.find? (fun e => e.1 == ag && e.2.1 == x) with
  | some e => e.2.2
  | none => 0
/-- An agent has read a sector as write n left it, or has made that write: a value older than that no longer serves it (R271). -/
def noteSeen (s : State) (ag : Agent) (x n : Nat) : State :=
  { s with seen := (ag, x, Nat.max n (seenAt s ag x)) :: s.seen.filter (fun e => !(e.1 == ag && e.2.1 == x)) }
/-- The number of the present step. -/
def thisStamp (s : State) : Nat := s.stepNo + 1
/-- The writes that gave the two sectors of a granule the values they have at their home. Another package's home does not tell them: the step in which
its values come counts instead (log 85). -/
def stampNow (s : State) (dst : Nat) : Nat × Nat :=
  if isPeer dst then (thisStamp s, thisStamp s) else (mget s.wrote (canonPa s dst / 64 * 2) 0, mget s.wrote (canonPa s dst / 64 * 2 + 1) 0)
/-- The part of a stamp for the sector of an address. -/
def stampAt (x : Nat × Nat) (dst : Nat) : Nat := if dst / 32 % 2 = 0 then x.1 else x.2

/-! ## Staged sectors (R280, R281) -/

/-- Whether a group that has answered READY, or is to be published, has a sector of the granule staged: no lease on it. -/
def stagedReady (s : State) (sector : Nat) : Bool :=
  s.stages.any (fun e => e.2.ready && e.2.writes.any (fun w => w.sector == sector))
/-- A load reaching the home at its T is held for a publication: TP − 24 ≤ T and the sector not yet published. -/
def heldForTp (s : State) (sector homeT : Nat) : Bool :=
  s.stages.any (fun e => match e.2.tp with
    | some tp => e.2.left.contains sector && decide (tp ≤ homeT + 24)
    | none => false)

/-- A write reaching the home at T ≥ TP comes after the publication (R298). -/
def lateForTp (s : State) (sector homeT : Nat) : Bool :=
  s.stages.any (fun e => match e.2.tp with
    | some tp => e.2.left.contains sector && decide (tp ≤ homeT)
    | none => false)

/-! ## Small parts -/

def safeUnit (s : State) (u : Nat) : Bool := s.safe.contains u
/-- T of a home slice. -/
def homeT (s : State) (sl : Nat) : Nat := s.unitT (256 + sl)
def leaseOf (s : State) (canon : Nat) : Lease := mget s.leases (canon / 64) {}
/-- Die of an agent's core; other agents count as on die 0 (R267). -/
def agentDie (a : Agent) : Nat := match agentCore? a with
  | some c => dieOf c
  | none => 0
/-- Expiry of a copy (R269). -/
def copyExp (e : Nat) : BitVec 24 := BitVec.ofNat 24 ((e - 24) / 8)
/-- Whether a copy may serve at a core's T (R269). -/
def mayServe (x : BitVec 24) (t : Nat) : Bool :=
  let d := (x - BitVec.ofNat 24 (t / 8)).toNat
  decide (1 ≤ d ∧ d ≤ 2 ^ 23 - 1)
/-- The pending mark of a core's granule: a write of one of its agents, or of an agent that has ended, without its record (R269), be it in the side
log (R365); a ridge-tagged write sets none (R280; log 113). A write not yet translated marks every granule it may go to: a reply then returns its value without being installed. -/
def pendingMark (s : State) (c gran : Nat) : Bool :=
  s.accs.any (fun x => x.kind.isWrite && x.ridge.isNone && accCore? x.ag == some c && mayMeet s x (64 * gran))

/-- Wake the lanes of a monitor entry (R204). -/
def wakeLanes (s : State) (ls : List (Nat × Nat × Nat)) : State :=
  ls.foldl (fun s l => s.updLane l.1 l.2.1 l.2.2 (fun ln => if ln.st == .monitor then { ln with st := .woken } else ln)) s

/-- The checks of R361 for an access that the bay itself makes by virtual address (bay queue, fabric ingress, an operand read in one step); a
failure is code, REASON, DETAIL, or the record of a near pointer. -/
inductive BayChk where
  | ok (pa : Nat)
  | peer (a : Nat)
  | bad (r : FaultRec)
  | wait (f : Nat) (vacated : Bool)
  deriving DecidableEq, Repr

def bayFrom (s : State) (b : Nat) (k : AccKind) (form ea : W64) (size : Nat) (prv : Bool) : BayChk :=
  match classAddr ea with
  | .peer => if peerValid s (peerOf ea.toNat) then .peer ea.toNat
      else .bad { code := 0x30, loc := ea.setWidth 128, aux := peerAux 1 ea.toNat 0 k size }
  | .ordinary =>
    let wl := walk s b ea.toNat
    (match leafCheck s wl.1 wl.2 ea.toNat k prv with
     | .ok pa => .ok pa
     | .bad code reason det => .bad (accRec form code reason 0 k size det))
  | _ => .bad (accRec form 0x10 0 0 k size 0)
def bayAccess (s : State) (b : Nat) (k : AccKind) (va : W64) (size : Nat) (prv : Bool) : BayChk :=
  match classAddr va with
  | .object => match frameCheck s b va size k.isWrite k with
    | .bad r => .bad r
    | .park f v => .wait f v
    | .ok ea => bayFrom s b k va ea size prv
  | _ => bayFrom s b k va va size prv

/-! ## Monitor entries and dirty pages (R96, R204) -/

/-- Every lane of an entry is woken; one of another package by a packet (R204). -/
def wakeEntry (s : State) (e : MonE) : State :=
  let s := wakeLanes s e.lanes
  { s with out := s.out ++ e.peers.map (fun p => .reply (hopOf s p.bay (some p.plane)) p.pkg p.tag .wake) }
/-- Enter lanes in the monitor table; a full table first gives up its oldest entry (R204). -/
def enterMon (s : State) (sl sector : Nat) (ls : List (Nat × Nat × Nat)) (ps : List PeerReq) : State :=
  let m := (s.slice sl).mon
  if m.any (fun e => e.sector == sector) then
    s.updSlice sl (fun x => { x with mon := x.mon.map (fun e =>
      if e.sector == sector then { e with lanes := e.lanes ++ ls, peers := e.peers ++ ps } else e) })
  else
    let s := if m.length < 2048 then s
      else (m.take 1).foldl wakeEntry (s.updSlice sl (fun x => { x with mon := x.mon.drop 1 }))
    s.updSlice sl (fun x => { x with mon := x.mon ++ [{ sector := sector, lanes := ls, peers := ps }] })
def enterMonitor (s : State) (sl sector : Nat) (l : Nat × Nat × Nat) : State := enterMon s sl sector [l] []
/-- A lane that reads anew no longer waits in the table of another package. -/
def leavePeer (s : State) (l : Nat × Nat × Nat) : State := { s with peerMon := s.peerMon.filter (fun e => e.2 != l) }

/-- A page enters a slice's record (R96). -/
def Slice.notePage (x : Slice) (page : Nat) : Slice :=
  if x.dirty.contains page then x
  else if x.dirty.length < 16384 then { x with dirty := x.dirty ++ [page] } else { x with sat := true }
/-- The dirty-page record of a write (R96). A byte of the soffit window has two physical names (R83), and the pages of both enter (log 90). -/
def recordDirty (s : State) (sl canon : Nat) : State :=
  s.updSlice sl (fun x =>
    let x := x.notePage (canon / 65536)
    match (if 0x10000000000 ≤ canon ∧ canon < 0x10040000000 then interPa s canon else none) with
    | some pa => x.notePage (pa / 65536)
    | none => x)

/-- After a last-use access is served, its line leaves the issuing core's L1; of HBM4, host and pool memory it leaves the cache part too, without
write-back, and reads of it are open until written (R93). -/
def markLast (s : State) (c : Nat) (dst : Nat) : State :=
  let l := canonPa s dst / 256
  let s := s.updCore c (·.dropLine (granOf s dst / 4))
  if isPeer dst || tierOf s dst == .win then s
  else
    let d := sofDie s (4 * l)
    let s := { s with soffit := mset s.soffit d ((mget s.soffit d []).filter (fun e => e.1 / 4 != l)) }
    { s with undef := s.undef.filter (fun u => !(u.held && u.lo == 256 * l)) ++ [{ lo := 256 * l, hi := 256 * l + 255, held := true }] }

/-! ## What a value does when it comes back -/

/-- A loaded value of n bytes extended (R195); in 32 bits for v registers, 64 for s. -/
def extendLd (sz : LdSize) (w x : Nat) : Nat :=
  match sz with
  | .s8 => if x % 256 < 128 then x % 256 else x % 256 + 2 ^ w - 256
  | .s16 => if x % 65536 < 32768 then x % 65536 else x % 65536 + 2 ^ w - 65536
  | _ => x
def ldWide (sz : LdSize) : Nat := match sz with
  | .b64 => 8 | .b128 => 16 | _ => 4
/-- s register group of n bytes written. -/
def Uni.wsn (u : Uni) (d n x : Nat) : Uni := if n ≤ 8 then u.ws d (BitVec.ofNat 64 x) else u.ws2 d (BitVec.ofNat 128 x)
def updUni (s : State) (a : Agent) (f : Uni → Uni) : State :=
  match a with
  | .thread c k _ => s.updCourse c k (fun co => { co with u := f co.u })
  | .job c p => s.updJob c p (fun j => { j with u := f j.u })
  | _ => s
def updAgLane (s : State) (a : Agent) (f : Lane → Lane) : State :=
  match a with
  | .thread c k l => s.updLane c k l (fun ln => if ln.live then f ln else ln)
  | _ => s

/-- LDP's slot, or its name once parked: the result, a fault, or park and ask (R98, R109, R382, R385). -/
inductive LdpStep where
  | result (x : W64)
  | bad (r : FaultRec)
  | park (n : W128)
  deriving DecidableEq, Repr
def ldpName (s : State) (b : Nat) (n : W128) : LdpStep :=
  if (s.bay b).revoked.any (fun e => nameKey e.name == nameKey n) then
    .bad { code := 0x17, lf := true, loc := n, aux := aux2 1 0 0 0 .ldp 16 0 }
  else match probeBad s b n with
  | some src => .bad (eccRec 0 src)
  | none => match probe s b n with
    | some f =>
      if frameState s b f = 2 then
        .result (BitVec.ofNat 6 0x3E ++ frameGen s b f ++ BitVec.ofNat 22 f ++ n.setWidth 32)
      else .park n
    | none => .park n
/-- Of a far name with both a reserved HOME and bits 47:32 the reason is that of the HOME (log 116). -/
def ldpStep (s : State) (b : Nat) (n : W128) : LdpStep :=
  if !n.getLsbD 127 then .result (n.setWidth 64)
  else if n.toNat / 2 ^ 112 % 2 ^ 15 ≥ 0x400 then .bad { code := 0x18, lf := true, loc := n, aux := aux2 0 0 0 0 .ldp 16 0 }
  else if n.toNat / 2 ^ 32 % 2 ^ 16 ≠ 0 then .bad { code := 0x18, lf := true, loc := n, aux := aux2 1 0 0 0 .ldp 16 0 }
  else ldpName s b n

/-- Take an access out of flight. -/
def dropAcc (s : State) (id : Nat) : State := { s with accs := s.accs.filter (fun x => x.id != id) }
def setPhase (s : State) (id : Nat) (ph : Phase) : State :=
  { s with accs := s.accs.map (fun x => if x.id = id then { x with ph := ph } else x) }

/-- LDP goes on, parks or faults. -/
def applyLdp (s : State) (a : Access) (st : LdpStep) : State :=
  match a.ag, a.dest with
  | .thread c _ _, .pair d =>
    (match st with
     | .result x => unpark (updAgLane (dropAcc s a.id) a.ag (·.wv2 d.toNat x)) a
     | .bad r => faultAccs (setPhase s a.id (.name 0)) 1 [(a, r)]
     | .park n => sendReq (parkOn { s with accs := s.accs.map (fun x => if x.id = a.id then { x with ph := .name n, t0 := s.coreT c } else x) } a) c
         n 0 false false)
  | _, _ => dropAcc s a.id

/-- A WAIT's value (R203): unequal, the lane goes on with it; equal at a home of this package, the lane has entered the monitor table. -/
def finishWait (s : State) (a : Access) (x : Nat) : State :=
  match a.ag with
  | .thread c k l => s.updLane c k l (fun ln =>
      match ln.wt with
      | some w => { (ln.wvn w.d.toNat a.size x) with st := .ready, pc := w.next, wt := none }
      | none => ln)
  | _ => s

/-- A transfer element's write has its record. -/
def elemDone (s : State) (c p id e : Nat) : State :=
  s.updJob c p (fun j => { j with xfers := j.xfers.map (fun x =>
    if x.id = id then { x with elems := x.elems.mapIdx (fun i el => if i = e then { el with ph := .done } else el) } else x) })

/-- A sector of an MCST's source line has come; with the last of them its lanes issue the word again, which then goes on (R446). -/
def mcstGot (s : State) (c k iss i : Nat) (b : List Byte) : State :=
  s.updCourse c k (fun co =>
    let ms := co.mcst.map (fun m => if m.iss = iss then { m with got := mset m.got i b } else m)
    let go := ms.filter (fun m => m.iss == iss && m.got.length == m.ids.length)
    { co.mapLanes (fun l ln => if go.any (fun m => m.mask.contains l) && (match ln.st with | .pend p => p.kind == .mcst | _ => false)
        then { ln with st := .ready } else ln) with mcst := ms })

/-- A sector of region i of a placed block has come into its tile, which is ready with the last of them (R59). -/
def stageGot (s : State) (c blk i k : Nat) (b : List Byte) : State :=
  let tile := (((s.block? c blk).bind (fun bl => bl.regions[i]?)).map (·.tile)).getD 256
  let more := s.accs.any (fun a => a.ag == .stage c blk && (match a.dest with | .stage j _ => j == i | _ => false))
  s.updCore c (fun co => { co with tiles := co.tiles.map (fun e =>
    if e.2.blk = blk ∧ e.2.tile = tile then (e.1, { e.2.write (32 * k) b with st := if more then .filling else .ready }) else e) })

/-- A load, or the old value of an atomic, returns to its agent. -/
def deliver (s : State) (a : Access) (b : List Byte) : State :=
  let x := leNum b
  match a.dest with
  | .vreg d sz => unpark (updAgLane (dropAcc s a.id) a.ag (fun ln => ln.wvn d.toNat (ldWide sz) (extendLd sz 32 x))) a
  | .vold d n => unpark (updAgLane (dropAcc s a.id) a.ag (fun ln => ln.wvn d.toNat n x)) a
  | .ureg d sz => unpark (updUni (dropAcc s a.id) a.ag (fun u => u.wsn d.toNat (if sz = .b128 then 16 else 8) (extendLd sz 64 x))) a
  | .uold d n => unpark (updUni (dropAcc s a.id) a.ag (fun u => u.wsn d.toNat (Nat.max n 8) x)) a
  | .pair _ => applyLdp s a (match a.ag with
      | .thread c _ _ => ldpStep s (s.bayOf c) (BitVec.ofNat 128 x)
      | _ => .result 0)
  | .wait => finishWait (dropAcc s a.id) a x
  | .xfer id e => (match a.ag with
      | .job c p => elemGot (dropAcc s a.id) c p id e b
      | _ => dropAcc s a.id)
  | .stage i k => (match a.ag with
      | .stage c blk => stageGot (dropAcc s a.id) c blk i k b
      | _ => dropAcc s a.id)
  | .mcst i k => (match a.ag with
      | .thread c sl _ => mcstGot (dropAcc s a.id) c sl i k b
      | _ => dropAcc s a.id)
  | .again => unpark (dropAcc s a.id) a
  | .none => unpark (dropAcc s a.id) a

/-- Retry an LDP parked on a name (R111). -/
def retryName (s : State) (a : Access) : State :=
  match a.ph, a.ag with
  | .name n, .thread c _ _ => applyLdp s a (ldpName s (s.bayOf c) n)
  | _, _ => s

/-- A step in which a frame enters resident (R111, R110): its requests end, and every parked LDP and access of the bay is retried. -/
def frameResident (s : State) (b f : Nat) : State :=
  let n := frameName s b f
  let mine := fun (a : Access) => agentBay s a.ag == b
  let s := (s.coresOf b).foldl (fun s c => s.updCore c (fun co => { co with reqs := co.reqs.filter (fun r => nameKey r.name != nameKey n) })) s
  let s := (s.accs.filter (fun a => mine a && (match a.ph with | .name _ => true | _ => false))).foldl retryName s
  retryAccs s (s.accs.filter (fun a => mine a && a.ph == .frame))

/-! ## Copies -/

/-- Install a granted copy (R269): unless the mark is set, the core serves no copies, or nothing was granted. -/
def installCopy (s : State) (a : Access) (granule : List Byte) (exp : Option Nat) (dst : Nat) : State :=
  match agentCore? a.ag, exp with
  | some c, some e =>
    let g := granOf s dst
    if pendingMark s c g || safeUnit s c || a.ev = 3 then s
    else (poolRoom s g).updCore c (·.putCopy g (setOf dst) a.ev (s.stepNo + 1) { data := granule, exp := copyExp e, stamp := a.stamp })
  | _, _ => s
/-- The bytes of an access in a granule. -/
def sliceGran (granule : List Byte) (dst n : Nat) : List Byte := (granule.drop (dst % 64)).take n

/-- The sweep of a core is due: until it is made no copy serves, so that none outlives its window (R269). -/
def sweepDue (s : State) (c : Nat) : Bool := decide ((s.core c).swept / 8 + 2 ^ 22 < s.coreT c / 8)
/-- The copy of a core that serves a load of a granule (R269). -/
def servingCopy (s : State) (c g : Nat) : Option Copy :=
  match mget? (s.core c).copies g with
  | none => none
  | some cp => if mayServe cp.exp (s.coreT c) && !sweepDue s c && !safeUnit s c then some cp else none
/-- Agents of one course, or one and the same. -/
def Agent.fellow (a b : Agent) : Bool :=
  match a, b with
  | .thread c k _, .thread c' k' _ => c == c' && k == k'
  | x, y => x == y
/-- An operand of a word is read by the word itself (Direct.lean). -/
def Access.byWord (a : Access) : Bool := a.dest == .again
/-- What one read at a sector serves: the access, and with it the elements of its transfer that are on their way to the sector (R95). -/
def readGroup (s : State) (a : Access) (dst : Nat) : List Access :=
  match a.ag, a.dest with
  | .job .., .xfer id _ => sortAccs (s.accs.filter (fun x => x.ag == a.ag && !x.kind.isWrite &&
      (match x.dest with | .xfer i _ => i == id | _ => false) &&
      (match x.ph with | .flight d => isPeer d == isPeer dst && secOf s d == secOf s dst | _ => false)))
  | _, _ => [a]
/-- Where an access on its way goes. -/
def Access.dst (a : Access) : Nat := match a.ph with | .flight d => d | _ => a.ea.toNat
/-- A load served by a copy of its core (R270), unless the agent has seen a newer value (R271). -/
def copyHit (s : State) (id : Nat) : State :=
  match s.accs.find? (·.id == id) with
  | none => s
  | some a => match a.ph, agentCore? a.ag with
    | .flight dst, some c =>
      if a.kind.isWrite || a.byWord || a.kind == .wait || a.scope ≥ 6 || safeUnit s c || !orderOk s a dst false then s
      else match mget? (s.core c).copies (granOf s dst) with
        | none => s
        | some cp =>
          if mayServe cp.exp (s.coreT c) && !sweepDue s c && decide (seenAt s a.ag (secOf s dst) ≤ stampAt cp.stamp dst) then
            let s := s.updCore c (·.touch (granOf s dst) a.ev (s.stepNo + 1))
            let s := (readGroup s a dst).foldl (fun s x => deliver s x (sliceGran cp.data x.dst x.size))
              (noteSeen s a.ag (secOf s dst) (stampAt cp.stamp dst))
            if a.last then markLast s c dst else s
          else s
    | _, _ => s

/-! ## The wire to other packages (R283 to R288) -/

/-- Incarnation of a peer's bay as this package holds it; of its own bays, their own (R287). -/
def incOf (s : State) (peer bay : Nat) : BitVec 16 :=
  if peer = s.pkgid.toNat then (s.bay bay).inc else mget s.peerInc (16 * peer + bay) 0
/-- The plane that carries a line now: its own, or the one it was moved to; none while it is held (R410). -/
def planeNow (s : State) (k : Nat) : Option Nat :=
  let p := mget s.planes k {}
  if p.dead then p.via else some k
/-- All 8 planes are dead: no access of another package gets an answer (R410). -/
def allDead (s : State) : Bool := (List.range 8).all (fun k => (mget s.planes k {}).dead)
/-- Send one request for accesses of one sector (R286, R410): held packets wait for their plane. -/
def sendReqPkt (s : State) (accs : List Access) (dst : Nat) (op : FabOp) (ridge : Option Nat) : State :=
  let tag := s.nextTag
  let ids := accs.map (·.id)
  let b := (accs.head?.map (fun a => ownerBay s a.ag)).getD 16
  let pl := planeOf dst
  let pkt : OutPkt := .request (hopOf s b (some ((planeNow s pl).getD pl))) (peerOf dst) (peerBay dst) (peerOff dst) tag
    (incOf s (peerOf dst) (peerBay dst)) op
  let x : Txn := { accs := ids, peer := peerOf dst, bay := peerBay dst, plane := (planeNow s pl).getD pl, off := peerOff dst, t0 := s.t,
                   bayOf := b, ridge := ridge }
  let s := { s with nextTag := tag + 1, txns := mset s.txns tag x,
                    accs := s.accs.map (fun a => if ids.contains a.id then { a with ph := .remote tag } else a) }
  match planeNow s pl with
  | some _ => { s with out := s.out ++ [pkt] }
  | none => { s with heldPkts := s.heldPkts ++ [pkt] }

/-- A write of this package to the granule is outstanding: no proxy copy serves or is installed. A ridge-tagged write changes no value until its
publication (R280) and counts for none of this (log 113). -/
def proxyPending (s : State) (gran : Nat) : Bool :=
  s.accs.any (fun x => x.kind.isWrite && x.ridge.isNone && x.ea.toNat / 64 == gran && isPeer x.ea.toNat)

/-! ## Home reads (R268, R273, R274) -/

/-- Containment by an access that meets stored data that cannot be corrected (R379). -/
def eccFault (s : State) (a : Access) (src : Nat) (async : Bool) : State := eccAt (dropAcc s a.id) a.ag a.pc a.lanes a.form src async

/-- A load performed at its home in this package: the granule as read, and the lease granted. -/
def grantLease (s : State) (a : Access) (t : Target) : State × Option Nat :=
  let ht := homeT s t.slice
  if a.ev = 3 || a.kind == .wait || a.scope ≥ 6 || stagedReady s (t.canon / 32) || stagedReady s (t.canon / 64 * 2)
      || stagedReady s (t.canon / 64 * 2 + 1) then (s, none)
  else
    let ls := leaseOf s t.canon
    let far := t.tier == Tier.host || t.tier == Tier.pool
    let e := ht + 64 * 2 ^ (if far then 0 else ls.lvl)
    let ls := { ls with lvl := if far then ls.lvl else Nat.min (ls.lvl + 1) 14 }
    let ls := if agentDie a.ag = 0 then { ls with l0 := Nat.max ls.l0 e } else { ls with l1 := Nat.max ls.l1 e }
    ({ s with leases := mset s.leases (t.canon / 64) ls }, some e)

/-- The stamp of a copy of another package's granule: a sector that holds the very bytes that have come is as new as they are. -/
def renew (old : List Byte) (st : Nat × Nat) (b : List Byte) (n : Nat × Nat) : Nat × Nat :=
  (if old.take 32 = b.take 32 then Nat.max n.1 st.1 else st.1, if old.drop 32 = b.drop 32 then Nat.max n.2 st.2 else st.2)
/-- The copy of a core and the proxy copy of another package's granule, as its bytes have come. -/
def freshen (s : State) (ag : Agent) (g : Nat) (b : List Byte) (n : Nat × Nat) : State :=
  let s := match mget? s.proxies g with
    | some px => { s with proxies := mset s.proxies g { px with stamp := renew px.data px.stamp b n } }
    | none => s
  match agentCore? ag with
  | none => s
  | some c => match mget? (s.core c).copies g with
    | none => s
    | some cp => s.updCore c (fun co => { co with copies := mset co.copies g { cp with stamp := renew cp.data cp.stamp b n } })
/-- A load is performed: its granule as read, with its stamp; what its agent has seen (R271). -/
def readDone (s : State) (a : Access) (b : List Byte) (exp : Option Nat) (dst : Nat) (n : Nat × Nat) : State :=
  let s := noteSeen (if isPeer dst then freshen s a.ag (granOf s dst) b n else s) a.ag (secOf s dst) (stampAt n dst)
  { s with accs := s.accs.map (fun x => if x.id = a.id then { x with ph := .replied b exp dst, stamp := n } else x) }

/-- A WAIT's read at its home: one step that either takes the value or enters the monitor table (R203). -/
def waitAtHome (s : State) (a : Access) (t : Target) : State :=
  let b := s.readBytes t.canon a.size
  let s := sofTouch (noteSeen s.bumpFree a.ag (t.canon / 32) (stampAt (stampNow s t.canon) t.canon)) t a.ev a.nosc false
  if leNum b = a.cmp then
    match a.ag with
    | .thread c k l =>
      let s := enterMonitor (leavePeer (dropAcc s a.id) (c, k, l)) t.slice (t.canon / 32) (c, k, l)
      s.updLane c k l (fun ln => { ln with st := .monitor })
    | _ => dropAcc s a.id
  else readDone s a b none t.canon (stampNow s t.canon)

/-- One request for the loads of one sector. -/
def sendLoads (s : State) (a : Access) (as : List Access) (dst : Nat) : State :=
  let scope := if a.ev = 3 then 7 else a.scope
  match as with
  | [_] => sendReqPkt s as dst (if a.kind == .wait then .wait a.size a.cmp else .load a.size scope) none
  | _ => sendReqPkt s as (dst / 32 * 32) (.load 32 scope) none
/-- A load goes to the peer's home, in the order of the accesses before it. -/
def sendLoad (s : State) (a : Access) (dst : Nat) : State :=
  if !orderOk s a dst true then s else sendLoads s a (readGroup s a dst) dst
/-- A load is performed for every access that the read serves. -/
def readsDone (s : State) (as : List Access) (b : List Byte) (exp : Option Nat) (n : Nat × Nat) : State :=
  as.foldl (fun s x => readDone s x b exp x.dst n) s

/-- The home read step of an access. -/
def homeRead (s : State) (id : Nat) : State :=
  match s.accs.find? (·.id == id) with
  | none => s
  | some a => match a.ph with
    | .flight dst =>
      if a.kind.isWrite || a.byWord then s
      else if isPeer dst then
        -- the proxy slice serves, or the request goes to the peer's home
        let g := dst / 64
        match (if a.scope < 6 && a.kind != .wait && !proxyPending s g then mget? s.proxies g else none) with
        | some px =>
          -- a slice in the safe mode serves no load from a copy (R378)
          if homeT s (proxySlice dst) + 24 < px.exp && !safeUnit s (256 + proxySlice dst) then
            if !orderOk s a dst false then s
            else if seenAt s a.ag (secOf s dst) ≤ stampAt px.stamp dst then
              readsDone (touchProxy s g a.ev) (readGroup s a dst) px.data (some (px.exp - 24)) px.stamp
            else sendLoad s a dst
          else sendLoad (if safeUnit s (256 + proxySlice dst) then s else { s with proxies := mdel s.proxies g }) a dst
        | none => sendLoad s a dst
      else match target? s dst with
        | none => s
        | some t =>
          if !orderOk s a dst false || heldForTp s (t.canon / 32) (homeT s t.slice) then s
          else match badSector s (t.canon / 32) with
            -- a tile fill is replayed by its own step (R397)
            | some src =>
              if fillRead s a then s
              else match a.ag with
              -- the fill of a region, after its replays, fails the staging (R397, R357; log 41)
              | .stage c b => (stageFault s c b a { code := 0x21 }).getD s
              | _ => eccFault s a src false
            | none =>
              if a.kind == .wait then waitAtHome s a t
              else
                let b := s.readBytes (t.canon / 64 * 64) 64
                let r := grantLease s.bumpFree a t
                let as := readGroup s a dst
                let s := sofTouch (readsDone r.1 as b r.2 (stampNow s dst)) t a.ev a.nosc false
                if a.last then markLast s ((agentCore? a.ag).getD 0) dst else s
    | _ => s

/-- A load's reply reaches its core: the value returns, and a granted copy is installed (R269). The words of a fetch stand until the issue that asked
for them is made. -/
def loadReply (s : State) (id : Nat) : State :=
  match s.accs.find? (·.id == id) with
  | none => s
  | some a => match a.ph with
    | .replied b exp dst =>
      if a.kind == .wait then deliver s a b
      else if a.byWord then s
      else
        let s := if a.last then (if isPeer dst then markLast s ((agentCore? a.ag).getD 0) dst else s) else installCopy s a b exp dst
        if a.kind == .fetch then unpark s a else deliver s a (sliceGran b dst a.size)
    | _ => s

end Sys2Proof.Machine
end

