-- ==== Sys2Proof/Machine/Direct.lean ====
section
/-! DEFINITION. Operands in memory that a word reads in its own step, at their homes (R223, R253, R320, R446; log 23), and the holds that act as a
release (R223, R272, R310). -/

namespace Sys2Proof.Machine

/-- Whether the agent could pass a REL of scope k now (R272). An operand that the word at hand reads is not earlier than it. -/
def relPassed (s : State) (ag : Agent) (k : Nat) : Bool :=
  !s.accs.any (fun x => x.ag == ag && x.dest != .again && x.ph.unperformed) && !writesOut s ag && horPassed s ag k

/-- What a read of an operand comes to: its bytes; a wait, with the state in which it waits; a fault; stored data that cannot be corrected. -/
inductive OpRead where
  | ok (s : State) (b : List Byte)
  | stay (s : State)
  | bad (r : FaultRec)
  | ecc (src : Nat)
  deriving Repr

/-- How a peer's home answers a read that a word makes in its own step: with data, with a NACK, or not at all. Which, is free (R403, R406, log 24). -/
def peerEnd (s : State) (a : Nat) (k : AccKind) (n : Nat) : Option FaultRec :=
  let z := Config.freeChoice (s.free * 2 ^ 48 + a / 32 % 2 ^ 38)
  let plane := (planeNow s (planeOf a)).getD (planeOf a)
  let rec' := fun (code reason : Nat) (inc : BitVec 16) =>
    ({ code := code, loc := BitVec.ofNat 128 a, aux := aux4 reason (peerOf a) (peerBay a) plane 0 inc (kindNum k) n } : FaultRec)
  if allDead s then some (rec' 0x32 0 0)
  else match z % 10 with
  | 0 => some (rec' (if (mget s.planes plane {}).dead then 0x32 else 0x31) 0 0)
  | 1 => some (rec' 0x33 0x0B (BitVec.ofNat 16 (z / 10)))
  | 2 => some (rec' 0x30 0x3F 0)
  | c + 3 => if c = 0 then none else some (rec' 0x30 (c + 1) 0)
/-- A load is performed in the step of the word or entry that asks for it: a copy of the core serves it, unless it is read at the home (`home`, R223), or
it is performed at its home, with a lease and a copy (R268 to R270). It waits for the agent's earlier accesses that come first (R271, R272), and, as an
access on its way, for a publication (R281). Bytes of another package, and whether it answers, are free (log 24). -/
def readAt (s : State) (c : Nat) (a : Access) (dst : Nat) (home : Bool) : OpRead :=
  if !orderOk s a dst false then .stay s
  else if isPeer dst then (match peerEnd s dst a.kind a.size with
    | some r => .bad r
    | none => .ok s.bumpFree ((List.range a.size).map (fun i => Config.freeByte (s.free * 2 ^ 48 + i))))
  else match target? s dst with
    | none => .stay s
    | some t =>
      let sec := secOf s dst
      let a := { a with nosc := noscOf s c a.ag a.ea, stamp := stampNow s dst }
      match (match (if home then none else servingCopy s c (t.canon / 64)) with
          | some cp => if seenAt s a.ag sec ≤ stampAt cp.stamp dst then some cp else none
          | none => none) with
      | some cp => .ok (noteSeen (s.updCore c (·.touch (t.canon / 64) 0 (thisStamp s))) a.ag sec (stampAt cp.stamp dst)) (sliceGran cp.data dst a.size)
      | none =>
        if heldForTp s (t.canon / 32) (homeT s t.slice) then
          .stay { s with accs := s.accs ++ [{ a with ph := .flight dst }], nextAcc := Nat.max s.nextAcc (a.id + 1) }
        else match badSector s (t.canon / 32) with
          | some src => .ecc src
          | none =>
            let b := s.readBytes (t.canon / 64 * 64) 64
            let r := grantLease s a t
            let s' := noteSeen r.1 a.ag sec (stampAt a.stamp dst)
            .ok (installCopy (sofTouch s' t 0 a.nosc false) a b r.2 dst).bumpFree (sliceGran b dst a.size)

/-- A read that has been asked for goes on from where it stands: past the checks it has passed, or with the bytes that have come (R279, R317). -/
def readKept (s : State) (c : Nat) (x : Access) (home : Bool) : OpRead :=
  match x.ph with
  | .replied b _ _ => .ok (dropAcc s x.id) b
  | .flight dst => (match readAt (dropAcc s x.id) c x dst home with
    | .stay _ => .stay s
    | r => r)
  | _ => .stay s
/-- A read that is asked for: made at once, or waiting for the walker, a frame, or room in the miss queue. -/
def readNew (s : State) (c : Nat) (a : Access) (home : Bool) : OpRead :=
  match probeOf s c a with
  | .bad r => .bad r
  | .go _ dst refill => readAt (match refill, quarter? a.ag with
      | some e, some q => tlbRefill s c q e
      | _, _ => s) c a dst home
  | pr => match placeAcc s c a pr with
    | none => .stay s
    | some (s', _) => .stay { s' with nextAcc := s.nextAcc + 1 }
/-- The bytes of a read that has come stand until the rest of what its word or entry reads has come. -/
def keepRead (s : State) (a : Access) (b : List Byte) : State :=
  { s with accs := s.accs ++ [{ a with id := s.nextAcc, ph := .replied b none 0 }], nextAcc := s.nextAcc + 1 }

/-- Whether an access is one of an issuer's agents. -/
def ofIssuer (who : Issuer) (ag : Agent) : Bool :=
  match who, ag with
  | .course c k, .thread c' k' _ => c == c' && k == k'
  | .job c p, .job c' p' => c == c' && p == p'
  | .seq c b, .seq c' b' => c == c' && b == b'
  | _, _ => false
/-- An operand of n bytes of the issue's word. -/
def operandAcc (s : State) (iss : Issue) (va : W64) (n : Nat) : Access :=
  let ag := uniAgent iss
  { id := s.nextAcc, iss := iss.id, ag := ag, kind := .load, form := va, ea := va, size := n, prv := prvOf s iss.who, dest := .again, acq := acqOf s ag,
    pc := iss.pc, next := iss.next, lanes := iss.mask }
/-- What the word at the issue's PC has asked for already. -/
def Access.kept (iss : Issue) (x : Access) : Bool := x.dest == .again && x.pc == iss.pc && ofIssuer iss.who x.ag
def dropKept (s : State) (iss : Issue) : State := { s with accs := s.accs.filter (fun x => !x.kept iss) }
/-- The lanes of the issue wait where an operand of it does (R90, R112). -/
def parkOperand (s : State) (iss : Issue) (va : W64) : State :=
  match s.accs.find? (fun x => x.kept iss && x.form == va), iss.who with
  | some x, .course c k => (match x.ph with
    | .flight _ => s
    | .replied .. => s
    | _ => s.updCourse c k (·.mapLanes (fun l ln => if iss.mask.contains l then { ln with st := .parked x.id } else ln)))
  | _, _ => s
/-- n bytes of one sector at va, as a load of the issuing thread or job (R253, R266). While it waits, the issue is made again. -/
def opReadSec (s : State) (iss : Issue) (va : W64) (n : Nat) (home : Bool := false) : OpRead :=
  let c := issCore iss.who
  match (match s.accs.find? (fun x => x.kept iss && x.form == va) with
    | some x => readKept s c x home
    | none => readNew s c (operandAcc s iss va n) home) with
  | .stay s' => .stay (parkOperand s' iss va)
  | r => r

/-- k whole sectors from va. -/
def opReadSecs (s : State) (iss : Issue) (va : W64) : Nat → List Byte → OpRead
  | 0, b => .ok s b
  | k + 1, b =>
    let a := va + BitVec.ofNat 64 b.length
    match opReadSec s iss a 32 with
    | .ok s' x => (match opReadSecs s' iss va k (b ++ x) with
      | .stay s'' => .stay (keepRead s'' (operandAcc s'' iss a 32) x)
      | r => r)
    | r => r

/-- An operand read, then what follows it; a failure faults the issue (R349). -/
def withRead (s : State) (iss : Issue) (va : W64) (r : OpRead) (k : State → List Byte → State) : State :=
  match r with
  | .ok s' b => k s' b
  | .stay s' => s'
  | .bad f => issueFault (dropKept s iss) iss iss.mask f
  | .ecc src => eccAt s (uniAgent iss) iss.pc iss.mask va src false

/-! ## Reads by virtual address that no thread makes: of the bay queue and of save areas (R54, R56, R266, R324; log 23) -/

/-- Such a read: `tag` tells apart the entries of a bay queue, `loc` is the LOC of its failure. -/
def bayAcc (s : State) (ag : Agent) (prv : Bool) (tag : List Nat) (loc va : W64) (n : Nat) : Access :=
  { id := s.nextAcc, iss := 0, ag := ag, kind := .load, form := va, ea := va, size := n, prv := prv, dest := .again, pc := loc, lanes := tag,
    acq := acqOf s ag }
/-- n bytes of one sector at va, read at their home through the TLB of the agent's core (log 11). On a miss or a frame that is not resident the read waits,
and goes on after it (R54, R90, R319). -/
def bayReadSec (s : State) (ag : Agent) (prv : Bool) (tag : List Nat) (loc va : W64) (n : Nat) : OpRead :=
  match tlbCore? s ag with
  | none => .stay s
  | some c => match s.accs.find? (fun x => x.ag == ag && x.dest == .again && x.lanes == tag && x.form == va) with
    | some x => if x.ph = .queued then .stay (retryAccs s [x]) else readKept s c x true
    | none => readNew s c (bayAcc s ag prv tag loc va n) true
/-- n bytes from va, sector by sector, at most k of them. -/
def bayRead (s : State) (ag : Agent) (prv : Bool) (tag : List Nat) (loc : W64) : Nat → Nat → W64 → List Byte → OpRead
  | 0, _, _, bs => .ok s bs
  | k + 1, n, va, bs =>
    if n = 0 then .ok s bs
    else
      let m := Nat.min n (32 - va.toNat % 32)
      match bayReadSec s ag prv tag loc va m with
      | .ok s' x => (match bayRead s' ag prv tag loc k (n - m) (va + BitVec.ofNat 64 m) (bs ++ x) with
        | .stay s'' => .stay (keepRead s'' (bayAcc s'' ag prv tag loc va m) x)
        | r => r)
      | r => r
/-- The two sectors of 64 bytes that have come stand until what is read after them has come. -/
def keepBytes (s : State) (ag : Agent) (prv : Bool) (tag : List Nat) (va : W64) (b : List Byte) : State :=
  [0, 32].foldl (fun s o => keepRead s (bayAcc s ag prv tag va (va + BitVec.ofNat 64 o) 32) ((b.drop o).take 32)) s

end Sys2Proof.Machine
end

