-- ==== Sys2Proof/Machine/Homes.lean ====
section
/-! DEFINITION. The lease machine (spec/17), its writes: the re-reading of fence counters (R54), writes at home slices, completion records and
horizons, and fences. -/

namespace Sys2Proof.Machine

/-! ## Fence counters (R54) -/

/-- Comparison of R53. -/
def fenceMet (cmp : Nat) (v w : W64) : Bool :=
  match cmp with
  | 0 => true
  | 1 => v == w
  | 2 => v != w
  | 3 => decide (w.toNat ≤ v.toNat)
  | 4 => decide (v.toNat < w.toNat)
  | 5 => decide (w.toInt ≤ v.toInt)
  | 6 => decide (v.toInt < w.toInt)
  | _ => false
/-- The head of a level, unless it is a fence whose conditions are all latched. -/
def dropPassed (e : SpawnE) (t : List SpawnE) : List SpawnE :=
  if e.fence && e.parsed && decide (e.conds.length ≤ e.latched.length) then t else e :: t
/-- Containment by stored data that the queue agent reads (R379). -/
def eccBay (s : State) (b src : Nat) (loc : W64) : State := eccAt s (.bayq b) 0 [] loc src false
/-- What the reads of an entry are told apart by: its level and JSEQ, and the number of a condition. -/
def readTag (lvl : Nat) (e : SpawnE) (i : List Nat) : List Nat := lvl :: e.jseq :: i
/-- A failed read of an entry ends it with its record (R356), or the wait or containment it asks for; LINK_DOWN contains (R377, R418). -/
def readFailed (s : State) (b lvl : Nat) (e : SpawnE) (rest : List SpawnE) (r : OpRead) (loc : W64) : State :=
  match r with
  | .bad f =>
    if f.cont then contain s b (some (agentRec s (.bayq b) 0 [] f))
    else
      let mine := fun (x : Access) => x.ag == .bayq b && x.dest == .again && x.lanes.take 2 == readTag lvl e []
      failEntry { s with accs := s.accs.filter (fun x => !mine x) } b lvl e rest f.code 0x10 loc
  | .ecc src => eccBay s b src loc
  | .stay s' => s'
  | .ok s' _ => s'
/-- Read an unlatched counter: latched, not met, waiting, or a failure at it. -/
def readCond (s : State) (b lvl : Nat) (e : SpawnE) (i : Nat) : Except (OpRead × W64) (State × SpawnE) :=
  let c := e.conds.getD i (0, 0, 0)
  if e.latched.contains i then .ok (s, e)
  else if c.1 = 0 then .ok (s, { e with latched := e.latched ++ [i] })
  else match bayRead s (.bayq b) e.prv (readTag lvl e [i]) c.2.1 2 8 c.2.1 [] with
    | .ok s' x => .ok (s', if fenceMet c.1 (BitVec.ofNat 64 (leNum x)) c.2.2 then { e with latched := e.latched ++ [i] } else e)
    | .stay s' => .ok (s', e)
    | r => .error (r, c.2.1)
def readConds (b lvl : Nat) : List Nat → State → SpawnE → Except (OpRead × W64) (State × SpawnE)
  | [], s, e => .ok (s, e)
  | i :: is, s, e => match readCond s b lvl e i with
    | .ok (s', e') => readConds b lvl is s' e'
    | .error x => .error x
/-- The entry with what its reads have latched, or gone once every condition is; `s` is the state before the reads. -/
def putFence (s : State) (b lvl : Nat) (e : SpawnE) (rest : List SpawnE) (r : Except (OpRead × W64) (State × SpawnE)) : State :=
  match r with
  | .ok (s', e') => setLevel s'.bumpFree b lvl (dropPassed e' rest)
  | .error (x, a) => readFailed s b lvl e rest x a
/-- Whether the counter of an unlatched condition lies in a sector, by the mapping that stands now. -/
def condIn (s : State) (b sector : Nat) (e : SpawnE) (i : Nat) : Bool :=
  let c := e.conds.getD i (0, 0, 0)
  let a : Access := { id := 0, iss := 0, ag := .bayq b, kind := .load, form := c.2.1, ea := c.2.1, size := 8, prv := e.prv,
                      ph := if classAddr c.2.1 = .object then .frame else .missed }
  !e.latched.contains i && c.1 != 0 && (match goes? s a with
    | some d => !isPeer d && canonPa s d / 32 == sector
    | none => false)
/-- One unlatched counter of the fence at the head of a level is read again. -/
def rereadCond (s : State) (b lvl i : Nat) : State :=
  match levelOf s b lvl with
  | [] => s
  | e :: rest => if e.fence && e.parsed && decide (i < 12) then putFence s b lvl e rest (readCond s b lvl e i) else s
/-- After a signaled write to a sector, every unlatched condition whose counter lies in it is read again (R54): the read waits for the walker or a
publication as any read does, and a failing check ends the entry. -/
def rereadFences (s : State) (sector : Nat) : State :=
  (mkeys s.bays).foldl (fun s b => [0, 1, 2, 3].foldl (fun s lvl =>
    match levelOf s b lvl with
    | [] => s
    | e :: _ =>
      if e.fence && e.parsed && !(s.coresOf b).isEmpty then
        ((List.range 12).filter (condIn s b sector e)).foldl (fun s i =>
          if ((levelOf s b lvl).head?.map (·.jseq)) == some e.jseq then rereadCond s b lvl i else s) s
      else s) s) s

/-! ## Signaled writes (R204, R54) -/

/-- A signaled write looks up its sector (R204, R54). -/
def lookupSector (s : State) (sl sector : Nat) : State :=
  let hit := (s.slice sl).mon.filter (fun e => e.sector == sector)
  let s := s.updSlice sl (fun x => { x with mon := x.mon.filter (fun e => e.sector != sector) })
  rereadFences (hit.foldl wakeEntry s) sector

/-! ## Home writes (R194, R201, R270) -/

/-- new of R201, over n bytes; floating-point sums round RNE (R202). -/
def atomNew (op : AtomOp) (n old v cmp : Nat) : Nat :=
  let m := 2 ^ (8 * n)
  let si := fun (x : Nat) => if x < m / 2 then (x : Int) else (x : Int) - m
  match op with
  | .add => (old + v) % m
  | .min => if si old ≤ si v then old else v
  | .max => if si old ≤ si v then v else old
  | .minui => Nat.min old v
  | .maxui => Nat.max old v
  | .and => old &&& v
  | .or => old ||| v
  | .xor => old ^^^ v
  | .xchg => v
  | .cas => if old = cmp then v else old
  | .faddF32 => addF fp32 0 old v
  | .addBf16x2 => addF bf16 0 (old % 65536) (v % 65536) + 65536 * addF bf16 0 (old / 65536) (v / 65536)
  | .addF16x2 => addF fp16 0 (old % 65536) (v % 65536) + 65536 * addF fp16 0 (old / 65536) (v / 65536)
  | .fxadd => (old + v) % m

/-- One write on the sector as the earlier ones have left it; what it returns. -/
def writeOne (s : State) (a : Access) (canon : Nat) : State × List Byte :=
  if a.kind = .atomic ∨ a.kind = .red then
    let old := s.readBytes canon a.size
    let s := s.bumpFree
    let x := leNum old
    if a.op = .cas ∧ x ≠ a.cmp then (s, old)
    else (s.writeBytes canon (natBytes a.size (atomNew a.op a.size x (leNum a.data) a.cmp)), old)
  else (s.writeBytes canon a.data, [])

/-- The record of a write (R267); in the safe mode every horizon is late (R378). -/
def recordAt (s : State) (t : Target) (canon : Nat) : Record :=
  let ht := homeT s t.slice
  let ls := leaseOf s canon
  if safeUnit s (256 + t.slice) then { p := ht, l0 := ht + 1048600, l1 := ht + 1048600, lr := ht + 1048600, xc := ht }
  else { p := ht, l0 := ls.l0, l1 := ls.l1, lr := ls.lr, xc := ht }

/-- The write step at a home: every write of one issue to one sector, in order, as one step (R194, R220). -/
def performWrites (s : State) (as : List Access) (t : Target) : State :=
  let gran := t.canon / 64 * 64
  let s := as.foldl (fun s a =>
    match a.ph with
    | .flight d =>
      let r := writeOne s a (canonPa s d)
      let rec' := recordAt r.1 t (canonPa s d)
      let far := t.tier == .host || t.tier == .pool
      noteSeen (setPhase r.1 a.id (if far then .cxl rec' r.2 d else .recorded rec' r.2 d)) a.ag (t.canon / 32) (mget r.1.wrote (t.canon / 32) 0)
    | _ => s) s
  let s := { s with leases := mset s.leases (t.canon / 64) { leaseOf s t.canon with lvl := 0 } }
  let s := recordDirty s t.slice t.canon
  let s := as.foldl (fun s a => sofTouch s t a.ev a.nosc true) s
  let s := if t.tier == Tier.host || t.tier == Tier.pool then { s with out := s.out ++ [.cxlWrite gran (s.readBytes gran 64)] } else s
  if as.any (·.sig) then lookupSector s t.slice (t.canon / 32) else s

/-- Whether a ridge-tagged write may leave: its group is idle or open (R298). -/
def ridgeMayLeave (s : State) (g : Nat) : Bool :=
  match (mget s.ridges g {}).st with
  | .idle => true
  | .opened => true
  | _ => false
/-- A ridge-tagged sector write is counted for its destination and opens its group (R292). -/
def countRidge (s : State) (g dest bay n : Nat) : State :=
  let r := mget s.ridges g {}
  { s with ridges := mset s.ridges g { r with st := .opened, counts := mset r.counts dest (mget r.counts dest 0 + n),
                                              bays := if r.bays.contains bay then r.bays else r.bays ++ [bay] } }

/-- Bytes of an access with their offsets in its sector. -/
def sectorBytes (d : Nat) (b : List Byte) : List (Nat × Byte) := b.mapIdx (fun i x => (d % 32 + i, x))

/-- Whether bytes cover a whole sector. -/
def wholeSector (b : List (Nat × Byte)) : Bool := (List.range 32).all (fun i => b.any (·.1 == i))

/-- The accesses that leave or are performed with one write: its issue's writes to the same sector that are on their way. -/
def groupOf (s : State) (a : Access) (dst : Nat) : List Access :=
  let home := fun (x : Access) => if x.gang = 0 then x.iss else x.gang
  sortAccs (s.accs.filter (fun x => home x == home a && x.kind.isWrite && x.ridge == a.ridge &&
    (match a.ag, x.ag with
     | .thread c k _, .thread c' k' _ => c == c' && k == k'
     | .job c p, .job c' p' => c == c' && p == p'
     | p, q => p == q && x.id == a.id) &&
    (match x.ph with | .flight d => isPeer d == isPeer dst && (if isPeer d then d / 32 == dst / 32 else canonPa s d / 32 == canonPa s dst / 32) | _ => false)))

def homeWrite (s : State) (id : Nat) : State :=
  match s.accs.find? (·.id == id) with
  | none => s
  | some a => match a.ph with
    | .flight dst =>
      let as := groupOf s a dst
      let own := fun (x : Access) => as.any (·.id == x.id)
      let s0 := { s with accs := s.accs.filter (fun x => !own x) }
      if !a.kind.isWrite || !(as.all (fun x => match x.ph with | .flight d => orderOk s0 x d (isPeer d) | _ => false)) then s
      else match a.ridge with
        | some g =>
          if isPeer dst && ridgeMayLeave s g then
            let bs := as.flatMap (fun x => match x.ph with | .flight d => sectorBytes d x.data | _ => [])
            countRidge (sendReqPkt s as (dst / 32 * 32) (.stage bs g (as.any (·.sig))) (some g)) g (peerOf dst) (agentBay s a.ag) 1
          else s
        | none =>
          if isPeer dst then
            let atom := as.any (fun x => x.kind == .atomic || x.kind == .red)
            -- the lanes of one sector travel as one packet and are one step at the peer's home (R288); a store among atomics (R220) exchanges
            sendReqPkt s as (dst / 32 * 32) (if atom then
                .atomic (as.map (fun x => match x.ph with
                  | .flight d => (d % 32, if x.kind == .atomic || x.kind == .red then x.op else .xchg, x.size, leNum x.data, x.cmp)
                  | _ => (0, x.op, x.size, 0, 0))) (as.any (·.sig)) (as.any (·.kind == .atomic))
              else .store (as.flatMap (fun x => match x.ph with
                  | .flight d => sectorBytes d x.data
                  | _ => [])) (as.any (·.sig))) none
          else match target? s dst with
            | none => s
            | some t =>
              if lateForTp s (t.canon / 32) (homeT s t.slice) then s
              else match badSector s (t.canon / 32) with
              | some src =>
                -- a write of the whole sector replaces the bytes; another is not performed (R379)
                if wholeSector (as.flatMap (fun x => match x.ph with
                    | .flight d => if x.kind == .atomic || x.kind == .red then [] else sectorBytes d x.data
                    | _ => [])) then
                  performWrites { s with bad := s.bad.filter (fun u => match u with | .memory x _ => x != t.canon / 32 | _ => true) } as t
                else eccFault s a src (a.kind != .atomic)
              | none => performWrites s as t
    | _ => s

/-! ## Records (R267, R269) -/

/-- A record enters the horizons of an agent whose core is on a die; a remote home counts with scope 6 for 4 and 5. -/
def Hor.add (h : Hor) (r : Record) (die : Nat) (remote : Bool) : Hor :=
  let m6 := Nat.max r.p (Nat.max r.l0 (Nat.max r.l1 r.lr))
  { h4 := Nat.max h.h4 (if remote then m6 else Nat.max r.p (if die = 0 then r.l0 else r.l1)),
    h5 := Nat.max h.h5 (if remote then m6 else Nat.max r.p (Nat.max r.l0 r.l1)),
    h6 := Nat.max h.h6 m6, h7 := Nat.max h.h7 (Nat.max m6 r.xc) }
def addRecord (s : State) (a : Agent) (r : Record) (remote : Bool) : State :=
  match a with
  | .thread c k l => s.updLane c k l (fun ln => { ln with hor := ln.hor.add r (dieOf c) remote })
  | .job c p => s.updJob c p (fun j => { j with hor := j.hor.add r (dieOf c) remote })
  | .bayq b => s.updBay b (fun y => { y with hor := y.hor.add r 0 remote })
  | .service n => { s with services := mset s.services n { mget s.services n {} with hor := (mget s.services n {}).hor.add r 0 remote } }
  | .host => { s with hostHor := s.hostHor.add r 0 remote }
  | _ => s

/-- A record also enters the horizon of the arrivals that wait for its write (R277). -/
def addArrivalHor (s : State) (a : Access) (r : Record) (remote : Bool) : State :=
  match a.ag with
  | .thread c k l => s.updBlock c ((s.course? c k).getD {}).blk (fun bl => { bl with arrivals := bl.arrivals.map (fun x =>
      if x.slot = k ∧ x.lanes.contains l ∧ a.id < x.bound then
        { x with hor := Nat.max x.hor ((({} : Hor).add r (dieOf c) remote).at x.scope) } else x) })
  | _ => s

/-- A write's record has returned: the horizons, the old value of an atomic, the element of a transfer, the sector of a status record. -/
def finishWrite (s : State) (a : Access) (r : Record) (old : List Byte) (remote : Bool) : State :=
  let s := addArrivalHor (addRecord s a.ag r remote) a r remote
  match a.dest, a.ag with
  | .xfer id e, .job c p => elemDone (dropAcc s a.id) c p id e
  | .none, _ => dropAcc s a.id
  | _, _ => if a.kind = .atomic then deliver s a old else dropAcc s a.id

/-- Two records as one: the latest of each part (R446). -/
def joinRecord (m x : Record) : Record :=
  { p := Nat.max m.p x.p, l0 := Nat.max m.l0 x.l0, l1 := Nat.max m.l1 x.l1, lr := Nat.max m.lr x.lr, xc := Nat.max m.xc x.xc }
/-- The record of a peer's write goes back to it on the plane of its request (R286); that of a multicast member's line once all of its sectors have
theirs. The record of a publication ends here (log 92). -/
def ingressRecord (s : State) (a : Access) (p : PeerReq) (r : Record) (old : List Byte) : State :=
  let mine := s.accs.filter (fun x => x.ag == a.ag && x.ridge == a.ridge)
  if a.ridge.isSome then dropAcc s a.id
  else if !mine.all (fun x => match x.ph with | .recorded .. => true | _ => false) then s
  else
    let r' := mine.foldl (fun (m : Record) x => match x.ph with | .recorded y _ _ => joinRecord m y | _ => m) r
    { s with accs := s.accs.filter (fun x => !(x.ag == a.ag && x.ridge == a.ridge)),
             out := s.out ++ [.reply (hopOf s p.bay (some p.plane)) p.pkg p.tag (.record r' old)] }
/-- A host write's completion is sent after its record, and once no copy of the sector that was granted before it may serve (R301, R302; log 108). -/
def hostRecord (s : State) (a : Access) (r : Record) : State :=
  if s.t < Nat.max r.l0 r.l1 then s
  else
  let s := addRecord (dropAcc s a.id) .host r false
  { s with out := s.out ++ [.hdmAns a.form.toNat []] }

def completionRecord (s : State) (id : Nat) : State :=
  match s.accs.find? (·.id == id) with
  | none => s
  | some a => match a.ph with
    | .recorded r old d => (match a.ag with
        -- the bay queue's record is the step DONE_ADD_RECORD
        | .bayq _ => s
        | .ingress p => ingressRecord s a p r old
        | .host => hostRecord s a r
        | _ => finishWrite s a r old (isPeer d))
    | _ => s

/-- The CXL write of a write-through completes: XC is the home's T (R275). -/
def cxlWriteCompletion (s : State) (id : Nat) : State :=
  match s.accs.find? (·.id == id) with
  | none => s
  | some a => match a.ph with
    | .cxl r old d =>
      let s := setPhase s id (.recorded { r with xc := homeT s (homeOf s d) } old d)
      -- clean once no write-through of the sector is left
      if s.accs.any (fun x => match x.ph with | .cxl _ _ e => granOf s e == granOf s d | _ => false) then s else sofClean s (granOf s d)
    | _ => s

/-- A fence passes: every earlier access performed, every write recorded, T ≥ H[k] (R272). -/
def fencePass (s : State) (c k l : Nat) : State :=
  let ln := s.lane c k l
  match ln.fence with
  | none => s
  | some (scope, acq) =>
    let ag := Agent.thread c k l
    if s.accs.any (fun x => x.ag == ag && x.ph.unperformed) || writesOut s ag || !horPassed s ag scope then s
    else s.updLane c k l (fun ln => { ln with fence := none, acq := if acq then s.nextAcc else ln.acq })

/-- ACQ: no later load before every earlier one (R272). -/
def acquireLane (s : State) (c k l : Nat) : State := s.updLane c k l (fun ln => { ln with acq := s.nextAcc })

end Sys2Proof.Machine
end

