-- ==== Sys2Proof/Machine/Barrier.lean ====
section
/-! DEFINITION. Barriers: arrivals and phases (R38, R211), the gather of a course (R37, R213, R277), split courses (R353, R354), and arrivals at a block
that is swapped out (R70, R71, R216, R416). -/

namespace Sys2Proof.Machine

def Block.bar (b : Block) (n : Nat) : Barrier := mget b.bars n {}

/-- A lane waiting on barrier n goes on, with an ACQ of soffit scope (R211, R277). -/
def phaseLane (n bound : Nat) (ln : Lane) : Lane :=
  match ln.st with
  | .phase m next => if m = n then { ln with st := .ready, pc := next, acq := bound } else ln
  | _ => ln
/-- One phase of barrier n completes, if COUNT ≥ EXPECT and completion is not deferred (R211, R330). A barrier whose EXPECT an image has made 0, which no
BARINIT can, completes none (log 100). -/
def completePhase (s : State) (c b n : Nat) : State :=
  match s.block? c b with
  | none => s
  | some bl =>
    let x := bl.bar n
    if bl.deferred || x.expect = 0 || x.count.toNat < x.expect.toNat then s
    else
      let x' : Barrier := { x with count := x.count - x.expect.setWidth 32, phase := x.phase + 1 }
      bl.slots.foldl (fun s k => s.updCourse c k (·.mapLanes (fun _ ln => phaseLane n s.nextAcc ln)))
        (s.setBlock c b { bl with bars := mset bl.bars n x' })
/-- One arrival at a live barrier (R211). -/
def arriveLive (s : State) (c b n : Nat) : State :=
  completePhase (s.updBlock c b (fun bl => { bl with bars := mset bl.bars n { bl.bar n with count := (bl.bar n).count + 1 } })) c b n

/-! ## Arrivals at a block that may be swapped out (R70, R71, R216, R416) -/

/-- Core and block slot of the block of a rank in a cluster (R36). -/
def findRank (s : State) (bay jseq cluster rank : Nat) : Option (Nat × Nat) :=
  (s.coresOf bay).findSome? (fun c => ((s.core c).blocks.find? (fun e =>
    e.2.bay == bay && e.2.jseq == jseq && e.2.cluster == cluster && e.2.rank == rank)).map (fun e => (c, e.1)))

/-- The core's atomic add of 1 to entry n of the image (R70); none where it must be made later. It is checked with the privilege of the BARSAVE that
stored the image: the spec names none (log 99). -/
def imageAdd (s : State) (c n : Nat) (img : W64) : Option State :=
  let va := img + BitVec.ofNat 64 (8 * n)
  let a : Access := { id := s.nextAcc, iss := 0, ag := .core c, kind := .atomic, form := va, ea := va, size := 4, data := natBytes 4 1, scope := 3,
                      prv := true }
  match probeOf s c a with
  | .bad r => some (imageFault s c va r)
  | pr => (placeAcc s c a pr).map (fun x => { x.1 with nextAcc := s.nextAcc + 1 })

/-- Whether a store of the image has not been performed. -/
def imageBusy (s : State) (bl : Block) : Bool := s.accs.any (fun a => bl.imgStores.contains a.id && a.ph.unperformed)

/-- An arrival at a barrier of a block, of its own or of a cluster peer (R38, R70, R71, R216): the live barrier takes it, or, while the block has its
directory entry, the image; a block swapped out without an entry takes none (R416). -/
def arrive (s : State) (c b n : Nat) : State :=
  match s.block? c b with
  | none => s
  | some bl => match bl.dir with
    | none => if bl.st = .swapped then s else arriveLive s c b n
    | some img =>
      let hold := s.setBlock c b { bl with heldAdds := bl.heldAdds ++ [n] }
      if imageBusy s bl || !bl.heldAdds.isEmpty then hold
      else (imageAdd s c n img).getD hold

/-- The held arrivals are applied in order, as far as they can be placed (R216). -/
def drainAdds (s : State) (c b : Nat) : Nat → State
  | 0 => s
  | k + 1 =>
    match s.block? c b with
    | none => s
    | some bl => match bl.dir, bl.heldAdds with
      | some img, n :: ns =>
        if imageBusy s bl then s
        else match imageAdd s c n img with
          | none => s
          | some s' => drainAdds (s'.updBlock c b (fun x => { x with heldAdds := ns })) c b k
      | _, _ => s

/-! ## Arrivals of a course and their release (R277) -/

/-- Whether each gathered thread could pass the release, for what it had issued by the gather: its writes have their records, what it has loaded
stands in its registers, and the course's accumulator accesses have been made (R242). -/
def arrivalReady (s : State) (c : Nat) (x : Arrival) : Bool :=
  !s.accs.any (fun a => (match a.ag with
      | .thread c' k l => c' == c && k == x.slot && x.lanes.contains l
      | _ => false) && decide (a.id < x.bound))
  && !((s.course? c x.slot).getD {}).accOps.any (fun o => decide (o.iss < x.issBound)) && decide (x.hor ≤ s.coreT c)

/-- A lane gathered at a BAR.AW whose arrival is applied waits for the barrier from then on (R37, R213). -/
def arrivedLane (n : Nat) (ln : Lane) : Lane :=
  match ln.st with
  | .arriving m next => if m = n then { ln with st := .phase m next } else ln
  | _ => ln
/-- The oldest arrival of a course of the block is applied, if its release has passed: one arrival, and so at most one phase, a step (R211, R277). -/
def applyArrival (s : State) (c b k : Nat) : State :=
  match s.block? c b with
  | none => s
  | some bl =>
    match bl.arrivals.find? (fun x => x.slot == k) with
    | none => s
    | some x =>
      if !arrivalReady s c x then s
      else
        let s := (s.setBlock c b { bl with arrivals := bl.arrivals.erase x }).updCourse c k (·.mapLanes (fun l ln =>
          if x.lanes.contains l then arrivedLane x.bar ln else ln))
        if x.rank = bl.rank then arrive s c b x.bar
        else match findRank s bl.bay bl.jseq bl.cluster x.rank with
          | some (c', b') => arrive s c' b' x.bar
          | none => s

/-! ## The gather (R37, R213) -/

/-- Barrier number of a reference: with SREG, bits 9:0 of the s register it names (R212). -/
def barNum (co : Course) (r : BarRef) : Nat := if r.sreg then (co.u.rs r.num).toNat % 1024 else r.num

/-- The gathered course performs the instruction once. -/
def gather (s : State) (c k : Nat) (co : Course) (lanes : List Nat) (pc : W64) (r : BarRef) : State :=
  let n := barNum co r
  let bl := (s.block? c co.blk).getD {}
  let rank := if r.peer then r.rank else bl.rank
  let bad := fun (reason : Nat) => takeFault s c k pc r.next lanes { code := 0x05, aux := aux0 reason r.pos (barWord n r.rank r.peer) }
  if r.peer && decide (bl.clusterSize ≤ r.rank) then bad 1
  else if bl.nbar ≤ n then bad 0
  else
    let s := s.updCourse c k (·.mapLanes (fun l ln =>
      if lanes.contains l then (match r.kind with
        | .a => { ln with st := .ready, pc := r.next }
        | .w => { ln with st := .phase n r.next }
        -- until its arrival is applied (R37)
        | .aw => { ln with st := .arriving n r.next }) else ln))
    if r.kind = .w then s
    else
      let scope := if rank = bl.rank then 3 else 4
      let hor := lanes.foldl (fun h l => Nat.max h ((s.lane c k l).hor.at scope)) 0
      let x : Arrival := { slot := k, lanes := lanes, rank := rank, bar := n, scope := scope, bound := s.nextAcc, issBound := s.nextIss, hor := hor }
      applyArrival (s.updBlock c co.blk (fun b => { b with arrivals := b.arrivals ++ [x] })) c co.blk k

/-- A PC in its place in an ascending list. -/
def insertPc (x : W64) : List W64 → List W64
  | [] => [x]
  | y :: l => if x.toNat ≤ y.toNat then x :: y :: l else y :: insertPc x l
/-- The course is split: every lane is held, one record for each PC in ascending order (R353). -/
def splitCourse (s : State) (c k : Nat) (co : Course) (live : List Nat) : State :=
  let pcs := ((live.map (fun l => (co.lane l).pc)).eraseDups).foldr insertPc []
  pcs.foldl (fun s pc =>
    let ls := live.filter (fun l => (co.lane l).pc == pc)
    match (co.lane (ls.headD 0)).st with
    | .barrier r => takeFault s c k pc r.next ls { code := 0x05, aux := aux0 2 r.pos (barWord (barNum co r) r.rank r.peer) }
    | _ => s) s

/-- After any step that moves lanes of a course to or from a barrier instruction: the gather, or the split. -/
def gatherCheck (s : State) (c k : Nat) : State :=
  match s.course? c k with
  | none => s
  | some co =>
    let live := (List.range 8).filter (fun l => (co.lane l).live)
    let atBar := fun l => match (co.lane l).st with | .barrier _ => true | _ => false
    if live.isEmpty || !live.all atBar then s
    else
      let pc := (co.lane (live.headD 0)).pc
      match (co.lane (live.headD 0)).st with
      | .barrier r => if live.all (fun l => (co.lane l).pc == pc) then gather s c k co live pc r else splitCourse s c k co live
      | _ => s

end Sys2Proof.Machine
end

