-- ==== Sys2Proof/Machine/Flags.lean ====
section
/-! DEFINITION. Every condition that an instruction writes into a predicate register: the integer relations (R164, R175), the FP32 relations
(R182) and the logic of predicates. The machine has no other flags. -/

namespace Sys2Proof.Machine

/-! ## Integer relations, over w bits -/

def cmpEq {w : Nat} (x y : BitVec w) : Bool := x == y
def cmpNe {w : Nat} (x y : BitVec w) : Bool := x != y
def cmpLt {w : Nat} (x y : BitVec w) : Bool := decide (x.toInt < y.toInt)
def cmpLe {w : Nat} (x y : BitVec w) : Bool := decide (x.toInt ≤ y.toInt)
def cmpGt {w : Nat} (x y : BitVec w) : Bool := decide (y.toInt < x.toInt)
def cmpGe {w : Nat} (x y : BitVec w) : Bool := decide (y.toInt ≤ x.toInt)
def cmpLtui {w : Nat} (x y : BitVec w) : Bool := decide (x.toNat < y.toNat)
def cmpLeui {w : Nat} (x y : BitVec w) : Bool := decide (x.toNat ≤ y.toNat)
def cmpGtui {w : Nat} (x y : BitVec w) : Bool := decide (y.toNat < x.toNat)
def cmpGeui {w : Nat} (x y : BitVec w) : Bool := decide (y.toNat ≤ x.toNat)

/-! ## FP32 relations; a pair is unordered when either is a NaN -/

def fval (x : W32) : FV := unpackF fp32 x.toNat
def fUnord (x y : W32) : Bool := isNan (fval x) || isNan (fval y)
def fEq (x y : W32) : Bool := !fUnord x y && eqV (fval x) (fval y)
def fNe (x y : W32) : Bool := fUnord x y || !eqV (fval x) (fval y)
def fLt (x y : W32) : Bool := !fUnord x y && ltV (fval x) (fval y)
def fLe (x y : W32) : Bool := !fUnord x y && !ltV (fval y) (fval x)
def fGt (x y : W32) : Bool := !fUnord x y && ltV (fval y) (fval x)
def fGe (x y : W32) : Bool := !fUnord x y && !ltV (fval x) (fval y)
def fOrd (x y : W32) : Bool := !fUnord x y

/-! ## Predicate logic (R164, R175) -/

def pAnd (a b : Bool) : Bool := a && b
def pOr (a b : Bool) : Bool := a || b
def pXor (a b : Bool) : Bool := a != b
def pAndn (a b : Bool) : Bool := a && !b

end Sys2Proof.Machine
end

