-- ==== Sys2Proof/Machine/IntLane.lean ====
section
/-! DEFINITION. The integer, address and lane-exchange instructions of the lanes (R161 to R173): the value each computes, and its meaning. -/

namespace Sys2Proof.Machine

/-! ## Operand shapes -/

/-- vD ← f(vA, vB). -/
def vvv (f : W32 → W32 → W32) (d a b : Reg) (ln : Lane) : Lane := ln.wv d.toNat (f (ln.rv a.toNat) (ln.rv b.toNat))
/-- vD ← f(vA). -/
def vv (f : W32 → W32) (d a : Reg) (ln : Lane) : Lane := ln.wv d.toNat (f (ln.rv a.toNat))
/-- pD ← f(vA, vB). -/
def pvv (f : W32 → W32 → Bool) (d : PReg) (a b : Reg) (ln : Lane) : Lane := ln.wp d (f (ln.rv a.toNat) (ln.rv b.toNat))
/-- pD ← f(pA, pB). -/
def ppp (f : Bool → Bool → Bool) (d a b : PReg) (ln : Lane) : Lane := ln.wp d (f (ln.rp a) (ln.rp b))
/-- pair(D) ← f(pair(A), pair(B)). -/
def ddd (f : W64 → W64 → W64) (d a b : Reg) (ln : Lane) : Lane := ln.wv2 d.toNat (f (ln.rv2 a.toNat) (ln.rv2 b.toNat))
/-- pair(D) ← f(pair(A), vB). -/
def ddv (f : W64 → W32 → W64) (d a b : Reg) (ln : Lane) : Lane := ln.wv2 d.toNat (f (ln.rv2 a.toNat) (ln.rv b.toNat))
/-- pair(D) ← f(vA, vB). -/
def dvv (f : W32 → W32 → W64) (d a b : Reg) (ln : Lane) : Lane := ln.wv2 d.toNat (f (ln.rv a.toNat) (ln.rv b.toNat))
/-- vD ← f(vA, vB, vC), with C from an OPND prefix or D itself (R148). -/
def cReg (p : Pfx) (d : Reg) : Nat := (p.opnd.getD d).toNat
def vvvc (f : W32 → W32 → W32 → W32) (d a b : Reg) (p : Pfx) (ln : Lane) : Lane :=
  ln.wv d.toNat (f (ln.rv a.toNat) (ln.rv b.toNat) (ln.rv (cReg p d)))

/-! ## Values (R161 to R168) -/

/-- Shifts over w bits; a count of w or more gives 0, or the sign. The count is compared first. -/
def shlW {w : Nat} (x : BitVec w) (n : Nat) : BitVec w := if n < w then x <<< n else 0
def shrW {w : Nat} (x : BitVec w) (n : Nat) : BitVec w := if n < w then x >>> n else 0
def sarW {w : Nat} (x : BitVec w) (n : Nat) : BitVec w := if n < w then x.sshiftRight n else if x.msb then BitVec.allOnes w else 0
def rolW {w : Nat} (x : BitVec w) (n : Nat) : BitVec w := if n = 0 then x else x <<< n ||| x >>> (w - n)
def minS {w : Nat} (x y : BitVec w) : BitVec w := if x.toInt ≤ y.toInt then x else y
def maxS {w : Nat} (x y : BitVec w) : BitVec w := if x.toInt ≤ y.toInt then y else x
def minU {w : Nat} (x y : BitVec w) : BitVec w := if x.toNat ≤ y.toNat then x else y
def maxU {w : Nat} (x y : BitVec w) : BitVec w := if x.toNat ≤ y.toNat then y else x
/-- High half of the signed product. -/
def mulhiS {w : Nat} (x y : BitVec w) : BitVec w := BitVec.ofInt w (x.toInt * y.toInt / (2 ^ w : Nat))
/-- High half of the unsigned product. -/
def mulhiU {w : Nat} (x y : BitVec w) : BitVec w := BitVec.ofNat w (x.toNat * y.toNat / 2 ^ w)

def iAdd (x y : W32) : W32 := x + y
def iSub (x y : W32) : W32 := x - y
def iAnd (x y : W32) : W32 := x &&& y
def iOr (x y : W32) : W32 := x ||| y
def iXor (x y : W32) : W32 := x ^^^ y
def iAndn (x y : W32) : W32 := x &&& ~~~y
def iShl (x y : W32) : W32 := shlW x y.toNat
def iShr (x y : W32) : W32 := shrW x y.toNat
def iSar (x y : W32) : W32 := sarW x y.toNat
def iMin (x y : W32) : W32 := minS x y
def iMax (x y : W32) : W32 := maxS x y
def iMinui (x y : W32) : W32 := minU x y
def iMaxui (x y : W32) : W32 := maxU x y
def iMul (x y : W32) : W32 := x * y
def iMulhi (x y : W32) : W32 := mulhiS x y
def iMulhiu (x y : W32) : W32 := mulhiU x y
def iAbs (x : W32) : W32 := if x.msb then -x else x
def iNeg (x : W32) : W32 := -x
def iPopc (x : W32) : W32 := BitVec.ofNat 32 ((List.range 32).countP (fun i => x.getLsbD i))
def iClz (x : W32) : W32 := if x = 0 then 32 else BitVec.ofNat 32 (31 - Nat.log2 x.toNat)
def iBrev (x : W32) : W32 := (List.range 32).foldl (fun r i => if x.getLsbD i then r ||| (1#32 <<< (31 - i)) else r) 0
def iMov (x : W32) : W32 := x
def iMad (x y z : W32) : W32 := x * y + z
/-- WIDTH and START of a bit-field control (R163). -/
def bfWidth (y : W32) : Nat := Nat.min (y.toNat / 256 % 64) 32
def bfStart (y : W32) : Nat := y.toNat % 64
/-- BFX on the 64-bit value X. -/
def iBfx (x : W64) (y : W32) : W32 :=
  let w := bfWidth y
  let f := x.toNat / 2 ^ bfStart y % 2 ^ w
  if w = 0 then 0
  else if y.getLsbD 16 && decide (2 ^ (w - 1) ≤ f) then BitVec.ofNat 32 (f + 2 ^ 32 - 2 ^ w) else BitVec.ofNat 32 f
/-- BFI of x into z. -/
def iBfi (x y z : W32) : W32 :=
  let mask := shlW (BitVec.ofNat 32 (2 ^ bfWidth y - 1)) (bfStart y)
  (z &&& ~~~mask) ||| (shlW x (bfStart y) &&& mask)
/-- The immediate of the LI form: IMM11, or with its IMM prefix 32 bits (R148, R165). -/
def immLI (p : Pfx) (i : BitVec 11) : W32 := match p.imm with
  | some q => q.setWidth 21 ++ i
  | none => i.signExtend 32
/-- The value of MOV16 with SEL 0 (R167). -/
def immLW (p : Pfx) (i : BitVec 16) : W32 := match p.imm with
  | some q => q.setWidth 16 ++ i
  | none => i.signExtend 32

def iAdd64 (x y : W64) : W64 := x + y
def iSub64 (x y : W64) : W64 := x - y
def iPadd (x : W64) (y : W32) : W64 := x.extractLsb' 32 32 ++ (x.setWidth 32 + y)
def iShl64 (x : W64) (y : W32) : W64 := shlW x y.toNat
def iShr64 (x : W64) (y : W32) : W64 := shrW x y.toNat
def iSar64 (x : W64) (y : W32) : W64 := sarW x y.toNat
def iMulw (x y : W32) : W64 := BitVec.ofInt 64 (x.toInt * y.toInt)
def iMulwui (x y : W32) : W64 := BitVec.ofNat 64 (x.toNat * y.toNat)

/-! ## What each word does in one lane -/

def eBfx (d a b : Reg) (ln : Lane) : Lane := ln.wv d.toNat (iBfx (ln.rv2 a.toNat) (ln.rv b.toNat))
def eMov64 (d a : Reg) (ln : Lane) : Lane := ln.wv2 d.toNat (ln.rv2 a.toNat)
def eP2v (d : Reg) (a : PReg) (ln : Lane) : Lane := ln.wv d.toNat (if ln.rp a then 1 else 0)
def eV2p (d : PReg) (a : Reg) (ln : Lane) : Lane := ln.wp d (ln.rv a.toNat != 0)
def ePnot (d a : PReg) (ln : Lane) : Lane := ln.wp d (!ln.rp a)
def eSel (d a b : Reg) (k : PReg) (ln : Lane) : Lane := ln.wv d.toNat (if ln.rp k then ln.rv a.toNat else ln.rv b.toNat)
def eMov16Hi (d : Reg) (i : BitVec 16) (ln : Lane) : Lane := ln.wv d.toNat (i ++ (ln.rv d.toNat).setWidth 16)
def eMov16 (d : Reg) (i : BitVec 16) (p : Pfx) (ln : Lane) : Lane := ln.wv d.toNat (immLW p i)
/-- vD ← f(vA, k). -/
def vvk (f : W32 → W32 → W32) (d a : Reg) (i : BitVec 11) (p : Pfx) (ln : Lane) : Lane := ln.wv d.toNat (f (ln.rv a.toNat) (immLI p i))
/-- vD ← f(vA, N), a shift by a count of 0 to 31 (R166). -/
def vvn (f : W32 → Nat → W32) (d a : Reg) (n : BitVec 5) (ln : Lane) : Lane := ln.wv d.toNat (f (ln.rv a.toNat) n.toNat)

/-! ## Meanings -/

def execAdd (g : Guard) (d a b : Reg) (s : State) : Host.Outcome State Fault Refusal := lane1 s g (vvv iAdd d a b)
def execSub (g : Guard) (d a b : Reg) (s : State) : Host.Outcome State Fault Refusal := lane1 s g (vvv iSub d a b)
def execAnd (g : Guard) (d a b : Reg) (s : State) : Host.Outcome State Fault Refusal := lane1 s g (vvv iAnd d a b)
def execOr (g : Guard) (d a b : Reg) (s : State) : Host.Outcome State Fault Refusal := lane1 s g (vvv iOr d a b)
def execXor (g : Guard) (d a b : Reg) (s : State) : Host.Outcome State Fault Refusal := lane1 s g (vvv iXor d a b)
def execAndn (g : Guard) (d a b : Reg) (s : State) : Host.Outcome State Fault Refusal := lane1 s g (vvv iAndn d a b)
def execShl (g : Guard) (d a b : Reg) (s : State) : Host.Outcome State Fault Refusal := lane1 s g (vvv iShl d a b)
def execShr (g : Guard) (d a b : Reg) (s : State) : Host.Outcome State Fault Refusal := lane1 s g (vvv iShr d a b)
def execSar (g : Guard) (d a b : Reg) (s : State) : Host.Outcome State Fault Refusal := lane1 s g (vvv iSar d a b)
def execMin (g : Guard) (d a b : Reg) (s : State) : Host.Outcome State Fault Refusal := lane1 s g (vvv iMin d a b)
def execMax (g : Guard) (d a b : Reg) (s : State) : Host.Outcome State Fault Refusal := lane1 s g (vvv iMax d a b)
def execMinui (g : Guard) (d a b : Reg) (s : State) : Host.Outcome State Fault Refusal := lane1 s g (vvv iMinui d a b)
def execMaxui (g : Guard) (d a b : Reg) (s : State) : Host.Outcome State Fault Refusal := lane1 s g (vvv iMaxui d a b)
def execMul (g : Guard) (d a b : Reg) (s : State) : Host.Outcome State Fault Refusal := lane1 s g (vvv iMul d a b)
def execMulhi (g : Guard) (d a b : Reg) (s : State) : Host.Outcome State Fault Refusal := lane1 s g (vvv iMulhi d a b)
def execMulhiu (g : Guard) (d a b : Reg) (s : State) : Host.Outcome State Fault Refusal := lane1 s g (vvv iMulhiu d a b)
def execAbs (g : Guard) (d a : Reg) (s : State) : Host.Outcome State Fault Refusal := lane1 s g (vv iAbs d a)
def execNeg (g : Guard) (d a : Reg) (s : State) : Host.Outcome State Fault Refusal := lane1 s g (vv iNeg d a)
def execPopc (g : Guard) (d a : Reg) (s : State) : Host.Outcome State Fault Refusal := lane1 s g (vv iPopc d a)
def execClz (g : Guard) (d a : Reg) (s : State) : Host.Outcome State Fault Refusal := lane1 s g (vv iClz d a)
def execBrev (g : Guard) (d a : Reg) (s : State) : Host.Outcome State Fault Refusal := lane1 s g (vv iBrev d a)
def execMov (g : Guard) (d a : Reg) (s : State) : Host.Outcome State Fault Refusal := lane1 s g (vv iMov d a)
def execMad (g : Guard) (d a b : Reg) (s : State) : Host.Outcome State Fault Refusal := lanep s g (vvvc iMad d a b)
def execBfx (g : Guard) (d a b : Reg) (s : State) : Host.Outcome State Fault Refusal := lane1 s g (eBfx d a b)
def execBfi (g : Guard) (d a b : Reg) (s : State) : Host.Outcome State Fault Refusal := lanep s g (vvvc iBfi d a b)
def execIcmpEq (g : Guard) (d : PReg) (a b : Reg) (s : State) : Host.Outcome State Fault Refusal := lane1 s g (pvv cmpEq d a b)
def execIcmpNe (g : Guard) (d : PReg) (a b : Reg) (s : State) : Host.Outcome State Fault Refusal := lane1 s g (pvv cmpNe d a b)
def execIcmpLt (g : Guard) (d : PReg) (a b : Reg) (s : State) : Host.Outcome State Fault Refusal := lane1 s g (pvv cmpLt d a b)
def execIcmpLe (g : Guard) (d : PReg) (a b : Reg) (s : State) : Host.Outcome State Fault Refusal := lane1 s g (pvv cmpLe d a b)
def execIcmpGt (g : Guard) (d : PReg) (a b : Reg) (s : State) : Host.Outcome State Fault Refusal := lane1 s g (pvv cmpGt d a b)
def execIcmpGe (g : Guard) (d : PReg) (a b : Reg) (s : State) : Host.Outcome State Fault Refusal := lane1 s g (pvv cmpGe d a b)
def execIcmpLtui (g : Guard) (d : PReg) (a b : Reg) (s : State) : Host.Outcome State Fault Refusal := lane1 s g (pvv cmpLtui d a b)
def execIcmpLeui (g : Guard) (d : PReg) (a b : Reg) (s : State) : Host.Outcome State Fault Refusal := lane1 s g (pvv cmpLeui d a b)
def execIcmpGtui (g : Guard) (d : PReg) (a b : Reg) (s : State) : Host.Outcome State Fault Refusal := lane1 s g (pvv cmpGtui d a b)
def execIcmpGeui (g : Guard) (d : PReg) (a b : Reg) (s : State) : Host.Outcome State Fault Refusal := lane1 s g (pvv cmpGeui d a b)
def execPand (g : Guard) (d a b : PReg) (s : State) : Host.Outcome State Fault Refusal := lane1 s g (ppp pAnd d a b)
def execPor (g : Guard) (d a b : PReg) (s : State) : Host.Outcome State Fault Refusal := lane1 s g (ppp pOr d a b)
def execPxor (g : Guard) (d a b : PReg) (s : State) : Host.Outcome State Fault Refusal := lane1 s g (ppp pXor d a b)
def execPandn (g : Guard) (d a b : PReg) (s : State) : Host.Outcome State Fault Refusal := lane1 s g (ppp pAndn d a b)
def execPnot (g : Guard) (d a : PReg) (s : State) : Host.Outcome State Fault Refusal := lane1 s g (ePnot d a)
def execP2v (g : Guard) (d : Reg) (a : PReg) (s : State) : Host.Outcome State Fault Refusal := lane1 s g (eP2v d a)
def execV2p (g : Guard) (d : PReg) (a : Reg) (s : State) : Host.Outcome State Fault Refusal := lane1 s g (eV2p d a)
def execAddi (g : Guard) (d a : Reg) (i : BitVec 11) (s : State) : Host.Outcome State Fault Refusal := lanep s g (vvk iAdd d a i)
def execAndi (g : Guard) (d a : Reg) (i : BitVec 11) (s : State) : Host.Outcome State Fault Refusal := lanep s g (vvk iAnd d a i)
def execOri (g : Guard) (d a : Reg) (i : BitVec 11) (s : State) : Host.Outcome State Fault Refusal := lanep s g (vvk iOr d a i)
def execXori (g : Guard) (d a : Reg) (i : BitVec 11) (s : State) : Host.Outcome State Fault Refusal := lanep s g (vvk iXor d a i)
def execShli (g : Guard) (d a : Reg) (n : BitVec 5) (s : State) : Host.Outcome State Fault Refusal := lane1 s g (vvn shlW d a n)
def execShri (g : Guard) (d a : Reg) (n : BitVec 5) (s : State) : Host.Outcome State Fault Refusal := lane1 s g (vvn shrW d a n)
def execSari (g : Guard) (d a : Reg) (n : BitVec 5) (s : State) : Host.Outcome State Fault Refusal := lane1 s g (vvn sarW d a n)
def execRoli (g : Guard) (d a : Reg) (n : BitVec 5) (s : State) : Host.Outcome State Fault Refusal := lane1 s g (vvn rolW d a n)
def execMov16 (g : Guard) (d : Reg) (i : BitVec 16) (s : State) : Host.Outcome State Fault Refusal := lanep s g (eMov16 d i)
def execMov16Hi (g : Guard) (d : Reg) (i : BitVec 16) (s : State) : Host.Outcome State Fault Refusal := lane1 s g (eMov16Hi d i)
def execAdd64 (g : Guard) (d a b : Reg) (s : State) : Host.Outcome State Fault Refusal := lane1 s g (ddd iAdd64 d a b)
def execSub64 (g : Guard) (d a b : Reg) (s : State) : Host.Outcome State Fault Refusal := lane1 s g (ddd iSub64 d a b)
def execPadd (g : Guard) (d a b : Reg) (s : State) : Host.Outcome State Fault Refusal := lane1 s g (ddv iPadd d a b)
def execShl64 (g : Guard) (d a b : Reg) (s : State) : Host.Outcome State Fault Refusal := lane1 s g (ddv iShl64 d a b)
def execShr64 (g : Guard) (d a b : Reg) (s : State) : Host.Outcome State Fault Refusal := lane1 s g (ddv iShr64 d a b)
def execSar64 (g : Guard) (d a b : Reg) (s : State) : Host.Outcome State Fault Refusal := lane1 s g (ddv iSar64 d a b)
def execMulw (g : Guard) (d a b : Reg) (s : State) : Host.Outcome State Fault Refusal := lane1 s g (dvv iMulw d a b)
def execMulwui (g : Guard) (d a b : Reg) (s : State) : Host.Outcome State Fault Refusal := lane1 s g (dvv iMulwui d a b)
def execMov64 (g : Guard) (d a : Reg) (s : State) : Host.Outcome State Fault Refusal := lane1 s g (eMov64 d a)
def execSel (g : Guard) (d a b : Reg) (k : PReg) (s : State) : Host.Outcome State Fault Refusal := lane1 s g (eSel d a b k)

/-! ## Exchange within a course (R170 to R173) -/

/-- vD ← vA of the lane each active lane names, or its own where that lane is not active (R171). -/
def xchgLane (src : Nat → Nat → Nat) (d a b : Reg) (act : List Nat) (old : Nat → Lane) (l : Nat) (ln : Lane) : Lane :=
  let k := src l (ln.rv b.toNat).toNat
  ln.wv d.toNat (if act.contains k then (old k).rv a.toNat else ln.rv a.toNat)
def srcPick (_l n : Nat) : Nat := n % 8
def srcRotu (l n : Nat) : Nat := (l + 8 - n % 8) % 8
def srcRotd (l n : Nat) : Nat := (l + n) % 8
def srcBfly (l n : Nat) : Nat := l ^^^ (n % 8)
/-- The set of lanes of a list as 8 bits (A8, B8 of R172). -/
def set8 (ls : List Nat) : BitVec 8 := lmaskOf ls
/-- Active lanes whose pA is 1. -/
def lanesOn (a : PReg) (act : List Nat) (old : Nat → Lane) : List Nat := act.filter (fun k => (old k).rp a)
def xLany (d a : PReg) (act : List Nat) (old : Nat → Lane) (_ : Nat) (ln : Lane) : Lane := ln.wp d (set8 (lanesOn a act old) != 0)
def xLall (d a : PReg) (act : List Nat) (old : Nat → Lane) (_ : Nat) (ln : Lane) : Lane := ln.wp d (set8 (lanesOn a act old) == set8 act)
def xLmask (d : Reg) (a : PReg) (act : List Nat) (old : Nat → Lane) (_ : Nat) (ln : Lane) : Lane :=
  ln.wv d.toNat ((set8 act ++ set8 (lanesOn a act old)).setWidth 32)
/-- vA combined over the active lanes in ascending order (R173). -/
def xComb (f : W32 → W32 → W32) (d a : Reg) (act : List Nat) (old : Nat → Lane) (_ : Nat) (ln : Lane) : Lane :=
  match act.map (fun k => (old k).rv a.toNat) with
  | [] => ln
  | x :: xs => ln.wv d.toNat (xs.foldl f x)

def execPick (g : Guard) (d a b : Reg) (s : State) : Host.Outcome State Fault Refusal := exch s g (xchgLane srcPick d a b)
def execRotu (g : Guard) (d a b : Reg) (s : State) : Host.Outcome State Fault Refusal := exch s g (xchgLane srcRotu d a b)
def execRotd (g : Guard) (d a b : Reg) (s : State) : Host.Outcome State Fault Refusal := exch s g (xchgLane srcRotd d a b)
def execBfly (g : Guard) (d a b : Reg) (s : State) : Host.Outcome State Fault Refusal := exch s g (xchgLane srcBfly d a b)
def execLany (g : Guard) (d a : PReg) (s : State) : Host.Outcome State Fault Refusal := exch s g (xLany d a)
def execLall (g : Guard) (d a : PReg) (s : State) : Host.Outcome State Fault Refusal := exch s g (xLall d a)
def execLmask (g : Guard) (d : Reg) (a : PReg) (s : State) : Host.Outcome State Fault Refusal := exch s g (xLmask d a)
def execCombAdd (g : Guard) (d a : Reg) (s : State) : Host.Outcome State Fault Refusal := exch s g (xComb iAdd d a)
def execCombMin (g : Guard) (d a : Reg) (s : State) : Host.Outcome State Fault Refusal := exch s g (xComb iMin d a)
def execCombMax (g : Guard) (d a : Reg) (s : State) : Host.Outcome State Fault Refusal := exch s g (xComb iMax d a)
def execCombMinui (g : Guard) (d a : Reg) (s : State) : Host.Outcome State Fault Refusal := exch s g (xComb iMinui d a)
def execCombMaxui (g : Guard) (d a : Reg) (s : State) : Host.Outcome State Fault Refusal := exch s g (xComb iMaxui d a)
def execCombAnd (g : Guard) (d a : Reg) (s : State) : Host.Outcome State Fault Refusal := exch s g (xComb iAnd d a)
def execCombOr (g : Guard) (d a : Reg) (s : State) : Host.Outcome State Fault Refusal := exch s g (xComb iOr d a)
def execCombXor (g : Guard) (d a : Reg) (s : State) : Host.Outcome State Fault Refusal := exch s g (xComb iXor d a)

end Sys2Proof.Machine
end

