-- ==== Sys2Proof/Machine/Float.lean ====
section
/-! DEFINITION. The floating-point, conversion and packing instructions of the lanes (R179 to R188), and what a word executed by ISSV does in
one lane (R219). -/

namespace Sys2Proof.Machine

/-! ## Operand shapes -/

/-- The mode of a ROUND prefix; RNE without one (R128, R148). -/
def modeOf (p : Pfx) : BitVec 2 := p.round.getD 0
def fpv (x : W32) : FV := unpackF fp32 x.toNat
def w32 (n : Nat) : W32 := BitVec.ofNat 32 n
/-- vD ← f(vA, vB) under the mode. -/
def fvv (f : BitVec 2 → Nat → Nat → Nat) (d a b : Reg) (p : Pfx) (ln : Lane) : Lane :=
  vvv (fun x y => w32 (f (modeOf p) x.toNat y.toNat)) d a b ln
/-- vD ← f(vA, vB, vC) under the mode. -/
def fvvc (f : BitVec 2 → Nat → Nat → Nat → Nat) (d a b : Reg) (p : Pfx) (ln : Lane) : Lane :=
  vvvc (fun x y z => w32 (f (modeOf p) x.toNat y.toNat z.toNat)) d a b p ln
/-- vD ← f(a) under the mode. -/
def fv1 (f : BitVec 2 → FV → Nat) (d a : Reg) (p : Pfx) (ln : Lane) : Lane := vv (fun x => w32 (f (modeOf p) (fpv x))) d a ln
/-- The operation on element 0 and element 1 (R183). -/
def x2 (f : Nat → Nat → Nat) (x y : Nat) : Nat := f (x % 65536) (y % 65536) + 65536 * f (x / 65536) (y / 65536)
def x3 (f : Nat → Nat → Nat → Nat) (x y z : Nat) : Nat :=
  f (x % 65536) (y % 65536) (z % 65536) + 65536 * f (x / 65536) (y / 65536) (z / 65536)

/-! ## Values -/

def vFadd (m : BitVec 2) (x y : Nat) : Nat := addF fp32 m x y
def vFsub (m : BitVec 2) (x y : Nat) : Nat := subF fp32 m x y
def vFmul (m : BitVec 2) (x y : Nat) : Nat := mulF fp32 m x y
def vFmin (_m : BitVec 2) (x y : Nat) : Nat := minF fp32 false x y
def vFmax (_m : BitVec 2) (x y : Nat) : Nat := minF fp32 true x y
def vAddF16x2 (m : BitVec 2) (x y : Nat) : Nat := x2 (addF fp16 m) x y
def vSubF16x2 (m : BitVec 2) (x y : Nat) : Nat := x2 (subF fp16 m) x y
def vMulF16x2 (m : BitVec 2) (x y : Nat) : Nat := x2 (mulF fp16 m) x y
def vMinF16x2 (_m : BitVec 2) (x y : Nat) : Nat := x2 (minF fp16 false) x y
def vMaxF16x2 (_m : BitVec 2) (x y : Nat) : Nat := x2 (minF fp16 true) x y
def vAddBf16x2 (m : BitVec 2) (x y : Nat) : Nat := x2 (addF bf16 m) x y
def vSubBf16x2 (m : BitVec 2) (x y : Nat) : Nat := x2 (subF bf16 m) x y
def vMulBf16x2 (m : BitVec 2) (x y : Nat) : Nat := x2 (mulF bf16 m) x y
def vMinBf16x2 (_m : BitVec 2) (x y : Nat) : Nat := x2 (minF bf16 false) x y
def vMaxBf16x2 (_m : BitVec 2) (x y : Nat) : Nat := x2 (minF bf16 true) x y
def vFfma (m : BitVec 2) (x y z : Nat) : Nat := fmaF fp32 m x y z
def vFmaF16x2 (m : BitVec 2) (x y z : Nat) : Nat := x3 (fmaF fp16 m) x y z
def vFmaBf16x2 (m : BitVec 2) (x y z : Nat) : Nat := x3 (fmaF bf16 m) x y z
def iFabs (x : W32) : W32 := x &&& 0x7FFFFFFF
def iFneg (x : W32) : W32 := x ^^^ 0x80000000
def iFcpys (x y : W32) : W32 := (x &&& 0x7FFFFFFF) ||| (y &&& 0x80000000)

def vRcp (m : BitVec 2) (x : FV) : Nat := rcpF m x
def vRsq (m : BitVec 2) (x : FV) : Nat := rsqF m x
def vSqrt (m : BitVec 2) (x : FV) : Nat := sqrtF m x
def vExp2 (m : BitVec 2) (x : FV) : Nat := exp2F m x
def vLog2 (m : BitVec 2) (x : FV) : Nat := log2F m x
def vSin (m : BitVec 2) (x : FV) : Nat := sinF m x
def vCos (m : BitVec 2) (x : FV) : Nat := cosF m x
def vTanh (m : BitVec 2) (x : FV) : Nat := tanhF m x

/-- Element H of a register in a 16-bit format, as FP32 (R185). -/
def vCvtHalf (F : Fmt) (h : BitVec 1) (x : W32) : W32 :=
  w32 (cvtV fp32 0 F.m (unpackF F (if h = 1 then x.toNat / 65536 else x.toNat % 65536)))
def vCvtF32F16 (h : BitVec 1) (x : W32) : W32 := vCvtHalf fp16 h x
def vCvtF32Bf16 (h : BitVec 1) (x : W32) : W32 := vCvtHalf bf16 h x
/-- Two FP32 values into a 16-bit format, a in element 0 (R185). -/
def vCvtPair (F : Fmt) (m : BitVec 2) (x y : Nat) : Nat := cvtV F m 23 (unpackF fp32 x) + 65536 * cvtV F m 23 (unpackF fp32 y)
def vCvtF16F32 (m : BitVec 2) (x y : Nat) : Nat := vCvtPair fp16 m x y
def vCvtBf16F32 (m : BitVec 2) (x y : Nat) : Nat := vCvtPair bf16 m x y
def vCvtF16F32Sr (x y : W32) : W32 := w32 (cvtSr fp16 y.toNat 23 (fpv x))
def vCvtBf16F32Sr (x y : W32) : W32 := w32 (cvtSr bf16 y.toNat 23 (fpv x))
def vCvtS32F32 (m : BitVec 2) (v : FV) : Nat := (BitVec.ofInt 32 (cvtInt m (-2147483648) 2147483647 0 v)).toNat
def vCvtUi32F32 (m : BitVec 2) (v : FV) : Nat := (BitVec.ofInt 32 (cvtInt m 0 4294967295 0 v)).toNat
def eCvtF32S32 (d a : Reg) (p : Pfx) (ln : Lane) : Lane := vv (fun x => w32 (valF fp32 (modeOf p) (ofInt x.toInt 0))) d a ln
def eCvtF32Ui32 (d a : Reg) (p : Pfx) (ln : Lane) : Lane := vv (fun x => w32 (valF fp32 (modeOf p) (ofInt x.toNat 0))) d a ln
/-- FX128: a two's-complement number of units 2^-64 (R126). -/
def eCvtFxF32 (d a : Reg) (p : Pfx) (ln : Lane) : Lane :=
  ln.wv4 d.toNat (BitVec.ofInt 128 (cvtInt (modeOf p) (-(2 ^ 127 : Nat)) (2 ^ 127 - 1 : Nat) (-64) (fpv (ln.rv a.toNat))))
def eCvtF32Fx (d a : Reg) (p : Pfx) (ln : Lane) : Lane :=
  ln.wv d.toNat (w32 (valF fp32 (modeOf p) (ofInt (ln.rv4 a.toNat).toInt (-64))))
def eCvtF32S64 (d a : Reg) (p : Pfx) (ln : Lane) : Lane :=
  ln.wv d.toNat (w32 (valF fp32 (modeOf p) (ofInt (ln.rv2 a.toNat).toInt 0)))
def eCvtF32Ui64 (d a : Reg) (p : Pfx) (ln : Lane) : Lane :=
  ln.wv d.toNat (w32 (valF fp32 (modeOf p) (ofInt (ln.rv2 a.toNat).toNat 0)))

/-- An exact product; a NaN operand or 0 × ∞ gives the value of R123 (R186). -/
def prodV (x y : FV) : FV :=
  match firstNan fp32 [x, y] with
  | some c => unpackF fp32 c
  | none => (mulV x y).getD (unpackF fp32 fp32.canon)
/-- t[j] of R186. -/
def pkT (a b : Reg) (ln : Lane) (j : Nat) : FV := prodV (fpv (ln.rv (a.toNat + j))) (fpv (ln.rv b.toNat))
/-- Four codes of w bits, code 0 lowest. -/
def codes4 (w : Nat) (f : Nat → Nat) : Nat := f 0 + 2 ^ w * (f 1 + 2 ^ w * (f 2 + 2 ^ w * f 3))
def ePk (F : Fmt) (d a b : Reg) (p : Pfx) (ln : Lane) : Lane :=
  ln.wv d.toNat (w32 (codes4 8 (fun j => cvtV F (modeOf p) 23 (pkT a b ln j))))
def ePkE4m3 (d a b : Reg) (p : Pfx) (ln : Lane) : Lane := ePk e4m3 d a b p ln
def ePkE5m2 (d a b : Reg) (p : Pfx) (ln : Lane) : Lane := ePk e5m2 d a b p ln
/-- RAND of element j is vC rotated left by 8j. -/
def ePkSr (F : Fmt) (d a b : Reg) (p : Pfx) (ln : Lane) : Lane :=
  ln.wv d.toNat (w32 (codes4 8 (fun j => cvtSr F (rolW (ln.rv (cReg p d)) (8 * j)).toNat 23 (pkT a b ln j))))
def ePkE4m3Sr (d a b : Reg) (p : Pfx) (ln : Lane) : Lane := ePkSr e4m3 d a b p ln
def ePkE5m2Sr (d a b : Reg) (p : Pfx) (ln : Lane) : Lane := ePkSr e5m2 d a b p ln
def ePkHs4 (d a b : Reg) (p : Pfx) (ln : Lane) : Lane :=
  ln.wv d.toNat ((ln.rv (cReg p d)).setWidth 16 ++ BitVec.ofNat 16 (codes4 4 (fun j => cvtHs4 (modeOf p) (pkT a b ln j))))
/-- e × vB for each of four elements, e given as FP32 (R187). -/
def eUpk (e : Nat → Nat → Nat) (d a b : Reg) (p : Pfx) (ln : Lane) : Lane :=
  let x := (ln.rv a.toNat).toNat
  let y := (ln.rv b.toNat).toNat
  [0, 1, 2, 3].foldl (fun m j => m.wv (d.toNat + j) (w32 (mulF fp32 (modeOf p) (e x j) y))) ln
def eUpkE4m3 (d a b : Reg) (p : Pfx) (ln : Lane) : Lane := eUpk (fun x j => cvtV fp32 0 3 (unpackF e4m3 (x / 2 ^ (8 * j) % 256))) d a b p ln
def eUpkE5m2 (d a b : Reg) (p : Pfx) (ln : Lane) : Lane := eUpk (fun x j => cvtV fp32 0 2 (unpackF e5m2 (x / 2 ^ (8 * j) % 256))) d a b p ln
def eUpkHs4 (d a b : Reg) (p : Pfx) (ln : Lane) : Lane := eUpk (fun x j => valF fp32 0 (hs4 (x / 2 ^ (4 * j)))) d a b p ln
/-- A power-of-two scale and its inverse; M = mm × 2^me (R188). -/
def eScx (mm : Nat) (me : Int) (d a : Reg) (ln : Lane) : Lane :=
  match fpv (ln.rv a.toNat) with
  | .nan _ _ => (ln.wv d.toNat 0x7FC00000).wv (d.toNat + 1) 0x7FC00000
  | v => (ln.wv d.toNat (w32 (pow2F (scxExp mm me v)))).wv (d.toNat + 1) (w32 (pow2F (-scxExp mm me v)))
def eScxE4m3 (d a : Reg) (ln : Lane) : Lane := eScx 7 6 d a ln
def eScxE5m2 (d a : Reg) (ln : Lane) : Lane := eScx 7 13 d a ln
def eScxHs4 (d a : Reg) (ln : Lane) : Lane := eScx 15 (-1) d a ln

/-! ## Meanings -/

def execFadd (g : Guard) (d a b : Reg) (s : State) : Host.Outcome State Fault Refusal := lanep s g (fvv vFadd d a b)
def execFsub (g : Guard) (d a b : Reg) (s : State) : Host.Outcome State Fault Refusal := lanep s g (fvv vFsub d a b)
def execFmul (g : Guard) (d a b : Reg) (s : State) : Host.Outcome State Fault Refusal := lanep s g (fvv vFmul d a b)
def execFfma (g : Guard) (d a b : Reg) (s : State) : Host.Outcome State Fault Refusal := lanep s g (fvvc vFfma d a b)
def execFmin (g : Guard) (d a b : Reg) (s : State) : Host.Outcome State Fault Refusal := lanep s g (fvv vFmin d a b)
def execFmax (g : Guard) (d a b : Reg) (s : State) : Host.Outcome State Fault Refusal := lanep s g (fvv vFmax d a b)
def execFabs (g : Guard) (d a : Reg) (s : State) : Host.Outcome State Fault Refusal := lane1 s g (vv iFabs d a)
def execFneg (g : Guard) (d a : Reg) (s : State) : Host.Outcome State Fault Refusal := lane1 s g (vv iFneg d a)
def execFcpys (g : Guard) (d a b : Reg) (s : State) : Host.Outcome State Fault Refusal := lane1 s g (vvv iFcpys d a b)
def execFcmpEq (g : Guard) (d : PReg) (a b : Reg) (s : State) : Host.Outcome State Fault Refusal := lane1 s g (pvv fEq d a b)
def execFcmpNe (g : Guard) (d : PReg) (a b : Reg) (s : State) : Host.Outcome State Fault Refusal := lane1 s g (pvv fNe d a b)
def execFcmpLt (g : Guard) (d : PReg) (a b : Reg) (s : State) : Host.Outcome State Fault Refusal := lane1 s g (pvv fLt d a b)
def execFcmpLe (g : Guard) (d : PReg) (a b : Reg) (s : State) : Host.Outcome State Fault Refusal := lane1 s g (pvv fLe d a b)
def execFcmpGt (g : Guard) (d : PReg) (a b : Reg) (s : State) : Host.Outcome State Fault Refusal := lane1 s g (pvv fGt d a b)
def execFcmpGe (g : Guard) (d : PReg) (a b : Reg) (s : State) : Host.Outcome State Fault Refusal := lane1 s g (pvv fGe d a b)
def execFcmpUnord (g : Guard) (d : PReg) (a b : Reg) (s : State) : Host.Outcome State Fault Refusal := lane1 s g (pvv fUnord d a b)
def execFcmpOrd (g : Guard) (d : PReg) (a b : Reg) (s : State) : Host.Outcome State Fault Refusal := lane1 s g (pvv fOrd d a b)
def execAddF16x2 (g : Guard) (d a b : Reg) (s : State) : Host.Outcome State Fault Refusal := lanep s g (fvv vAddF16x2 d a b)
def execSubF16x2 (g : Guard) (d a b : Reg) (s : State) : Host.Outcome State Fault Refusal := lanep s g (fvv vSubF16x2 d a b)
def execMulF16x2 (g : Guard) (d a b : Reg) (s : State) : Host.Outcome State Fault Refusal := lanep s g (fvv vMulF16x2 d a b)
def execMinF16x2 (g : Guard) (d a b : Reg) (s : State) : Host.Outcome State Fault Refusal := lanep s g (fvv vMinF16x2 d a b)
def execMaxF16x2 (g : Guard) (d a b : Reg) (s : State) : Host.Outcome State Fault Refusal := lanep s g (fvv vMaxF16x2 d a b)
def execAddBf16x2 (g : Guard) (d a b : Reg) (s : State) : Host.Outcome State Fault Refusal := lanep s g (fvv vAddBf16x2 d a b)
def execSubBf16x2 (g : Guard) (d a b : Reg) (s : State) : Host.Outcome State Fault Refusal := lanep s g (fvv vSubBf16x2 d a b)
def execMulBf16x2 (g : Guard) (d a b : Reg) (s : State) : Host.Outcome State Fault Refusal := lanep s g (fvv vMulBf16x2 d a b)
def execMinBf16x2 (g : Guard) (d a b : Reg) (s : State) : Host.Outcome State Fault Refusal := lanep s g (fvv vMinBf16x2 d a b)
def execMaxBf16x2 (g : Guard) (d a b : Reg) (s : State) : Host.Outcome State Fault Refusal := lanep s g (fvv vMaxBf16x2 d a b)
def execFmaF16x2 (g : Guard) (d a b : Reg) (s : State) : Host.Outcome State Fault Refusal := lanep s g (fvvc vFmaF16x2 d a b)
def execFmaBf16x2 (g : Guard) (d a b : Reg) (s : State) : Host.Outcome State Fault Refusal := lanep s g (fvvc vFmaBf16x2 d a b)
def execRcp (g : Guard) (d a : Reg) (_k : BitVec 4) (s : State) : Host.Outcome State Fault Refusal := lanep s g (fv1 vRcp d a)
def execRsq (g : Guard) (d a : Reg) (_k : BitVec 4) (s : State) : Host.Outcome State Fault Refusal := lanep s g (fv1 vRsq d a)
def execSqrt (g : Guard) (d a : Reg) (_k : BitVec 4) (s : State) : Host.Outcome State Fault Refusal := lanep s g (fv1 vSqrt d a)
def execExp2 (g : Guard) (d a : Reg) (_k : BitVec 4) (s : State) : Host.Outcome State Fault Refusal := lanep s g (fv1 vExp2 d a)
def execLog2 (g : Guard) (d a : Reg) (_k : BitVec 4) (s : State) : Host.Outcome State Fault Refusal := lanep s g (fv1 vLog2 d a)
def execSin (g : Guard) (d a : Reg) (_k : BitVec 4) (s : State) : Host.Outcome State Fault Refusal := lanep s g (fv1 vSin d a)
def execCos (g : Guard) (d a : Reg) (_k : BitVec 4) (s : State) : Host.Outcome State Fault Refusal := lanep s g (fv1 vCos d a)
def execTanh (g : Guard) (d a : Reg) (_k : BitVec 4) (s : State) : Host.Outcome State Fault Refusal := lanep s g (fv1 vTanh d a)
def execCvtF32F16 (g : Guard) (d a : Reg) (h : BitVec 1) (s : State) : Host.Outcome State Fault Refusal := lane1 s g (vv (vCvtF32F16 h) d a)
def execCvtF32Bf16 (g : Guard) (d a : Reg) (h : BitVec 1) (s : State) : Host.Outcome State Fault Refusal := lane1 s g (vv (vCvtF32Bf16 h) d a)
def execCvtF16F32 (g : Guard) (d a b : Reg) (s : State) : Host.Outcome State Fault Refusal := lanep s g (fvv vCvtF16F32 d a b)
def execCvtBf16F32 (g : Guard) (d a b : Reg) (s : State) : Host.Outcome State Fault Refusal := lanep s g (fvv vCvtBf16F32 d a b)
def execCvtS32F32 (g : Guard) (d a : Reg) (s : State) : Host.Outcome State Fault Refusal := lanep s g (fv1 vCvtS32F32 d a)
def execCvtUi32F32 (g : Guard) (d a : Reg) (s : State) : Host.Outcome State Fault Refusal := lanep s g (fv1 vCvtUi32F32 d a)
def execCvtF32S32 (g : Guard) (d a : Reg) (s : State) : Host.Outcome State Fault Refusal := lanep s g (eCvtF32S32 d a)
def execCvtF32Ui32 (g : Guard) (d a : Reg) (s : State) : Host.Outcome State Fault Refusal := lanep s g (eCvtF32Ui32 d a)
def execCvtFxF32 (g : Guard) (d a : Reg) (s : State) : Host.Outcome State Fault Refusal := lanep s g (eCvtFxF32 d a)
def execCvtF32Fx (g : Guard) (d a : Reg) (s : State) : Host.Outcome State Fault Refusal := lanep s g (eCvtF32Fx d a)
def execCvtF16F32Sr (g : Guard) (d a b : Reg) (s : State) : Host.Outcome State Fault Refusal := lane1 s g (vvv vCvtF16F32Sr d a b)
def execCvtBf16F32Sr (g : Guard) (d a b : Reg) (s : State) : Host.Outcome State Fault Refusal := lane1 s g (vvv vCvtBf16F32Sr d a b)
def execCvtF32S64 (g : Guard) (d a : Reg) (s : State) : Host.Outcome State Fault Refusal := lanep s g (eCvtF32S64 d a)
def execCvtF32Ui64 (g : Guard) (d a : Reg) (s : State) : Host.Outcome State Fault Refusal := lanep s g (eCvtF32Ui64 d a)
def execPkE4m3 (g : Guard) (d a b : Reg) (s : State) : Host.Outcome State Fault Refusal := lanep s g (ePkE4m3 d a b)
def execPkE5m2 (g : Guard) (d a b : Reg) (s : State) : Host.Outcome State Fault Refusal := lanep s g (ePkE5m2 d a b)
def execPkHs4 (g : Guard) (d a b : Reg) (s : State) : Host.Outcome State Fault Refusal := lanep s g (ePkHs4 d a b)
def execUpkE4m3 (g : Guard) (d a b : Reg) (s : State) : Host.Outcome State Fault Refusal := lanep s g (eUpkE4m3 d a b)
def execUpkE5m2 (g : Guard) (d a b : Reg) (s : State) : Host.Outcome State Fault Refusal := lanep s g (eUpkE5m2 d a b)
def execUpkHs4 (g : Guard) (d a b : Reg) (s : State) : Host.Outcome State Fault Refusal := lanep s g (eUpkHs4 d a b)
def execPkE4m3Sr (g : Guard) (d a b : Reg) (s : State) : Host.Outcome State Fault Refusal := lanep s g (ePkE4m3Sr d a b)
def execPkE5m2Sr (g : Guard) (d a b : Reg) (s : State) : Host.Outcome State Fault Refusal := lanep s g (ePkE5m2Sr d a b)
def execScxE4m3 (g : Guard) (d a : Reg) (s : State) : Host.Outcome State Fault Refusal := lane1 s g (eScxE4m3 d a)
def execScxE5m2 (g : Guard) (d a : Reg) (s : State) : Host.Outcome State Fault Refusal := lane1 s g (eScxE5m2 d a)
def execScxHs4 (g : Guard) (d a : Reg) (s : State) : Host.Outcome State Fault Refusal := lane1 s g (eScxHs4 d a)

/-! ## One lane of a word executed by ISSV (R219): the words of majors 0x00 to 0x10 other than 0x0A -/

/-- The guard and the effect; none for a word of another major. -/
def laneWord (i : Instr) (p : Pfx) : Option (Guard × (Lane → Lane)) :=
  match i with
  | .add g d a b => some (g, vvv iAdd d a b)
  | .sub g d a b => some (g, vvv iSub d a b)
  | .and g d a b => some (g, vvv iAnd d a b)
  | .or g d a b => some (g, vvv iOr d a b)
  | .xor g d a b => some (g, vvv iXor d a b)
  | .andn g d a b => some (g, vvv iAndn d a b)
  | .shl g d a b => some (g, vvv iShl d a b)
  | .shr g d a b => some (g, vvv iShr d a b)
  | .sar g d a b => some (g, vvv iSar d a b)
  | .min g d a b => some (g, vvv iMin d a b)
  | .max g d a b => some (g, vvv iMax d a b)
  | .minui g d a b => some (g, vvv iMinui d a b)
  | .maxui g d a b => some (g, vvv iMaxui d a b)
  | .mul g d a b => some (g, vvv iMul d a b)
  | .mulhi g d a b => some (g, vvv iMulhi d a b)
  | .mulhiu g d a b => some (g, vvv iMulhiu d a b)
  | .abs g d a => some (g, vv iAbs d a)
  | .neg g d a => some (g, vv iNeg d a)
  | .popc g d a => some (g, vv iPopc d a)
  | .clz g d a => some (g, vv iClz d a)
  | .brev g d a => some (g, vv iBrev d a)
  | .mad g d a b => some (g, vvvc iMad d a b p)
  | .bfx g d a b => some (g, eBfx d a b)
  | .bfi g d a b => some (g, vvvc iBfi d a b p)
  | .icmpEq g d a b => some (g, pvv cmpEq d a b)
  | .icmpNe g d a b => some (g, pvv cmpNe d a b)
  | .icmpLt g d a b => some (g, pvv cmpLt d a b)
  | .icmpLe g d a b => some (g, pvv cmpLe d a b)
  | .icmpGt g d a b => some (g, pvv cmpGt d a b)
  | .icmpGe g d a b => some (g, pvv cmpGe d a b)
  | .icmpLtui g d a b => some (g, pvv cmpLtui d a b)
  | .icmpLeui g d a b => some (g, pvv cmpLeui d a b)
  | .icmpGtui g d a b => some (g, pvv cmpGtui d a b)
  | .icmpGeui g d a b => some (g, pvv cmpGeui d a b)
  | .pand g d a b => some (g, ppp pAnd d a b)
  | .por g d a b => some (g, ppp pOr d a b)
  | .pxor g d a b => some (g, ppp pXor d a b)
  | .pandn g d a b => some (g, ppp pAndn d a b)
  | .pnot g d a => some (g, ePnot d a)
  | .p2v g d a => some (g, eP2v d a)
  | .v2p g d a => some (g, eV2p d a)
  | .addi g d a i => some (g, vvk iAdd d a i p)
  | .andi g d a i => some (g, vvk iAnd d a i p)
  | .ori g d a i => some (g, vvk iOr d a i p)
  | .xori g d a i => some (g, vvk iXor d a i p)
  | .shli g d a n => some (g, vvn shlW d a n)
  | .shri g d a n => some (g, vvn shrW d a n)
  | .sari g d a n => some (g, vvn sarW d a n)
  | .roli g d a n => some (g, vvn rolW d a n)
  | .mov16 g d i => some (g, eMov16 d i p)
  | .mov16Hi g d i => some (g, eMov16Hi d i)
  | .add64 g d a b => some (g, ddd iAdd64 d a b)
  | .sub64 g d a b => some (g, ddd iSub64 d a b)
  | .padd g d a b => some (g, ddv iPadd d a b)
  | .shl64 g d a b => some (g, ddv iShl64 d a b)
  | .shr64 g d a b => some (g, ddv iShr64 d a b)
  | .sar64 g d a b => some (g, ddv iSar64 d a b)
  | .mulw g d a b => some (g, dvv iMulw d a b)
  | .mulwui g d a b => some (g, dvv iMulwui d a b)
  | .mov64 g d a => some (g, eMov64 d a)
  | .fadd g d a b => some (g, fvv vFadd d a b p)
  | .fsub g d a b => some (g, fvv vFsub d a b p)
  | .fmul g d a b => some (g, fvv vFmul d a b p)
  | .ffma g d a b => some (g, fvvc vFfma d a b p)
  | .fmin g d a b => some (g, fvv vFmin d a b p)
  | .fmax g d a b => some (g, fvv vFmax d a b p)
  | .fabs g d a => some (g, vv iFabs d a)
  | .fneg g d a => some (g, vv iFneg d a)
  | .fcpys g d a b => some (g, vvv iFcpys d a b)
  | .fcmpEq g d a b => some (g, pvv fEq d a b)
  | .fcmpNe g d a b => some (g, pvv fNe d a b)
  | .fcmpLt g d a b => some (g, pvv fLt d a b)
  | .fcmpLe g d a b => some (g, pvv fLe d a b)
  | .fcmpGt g d a b => some (g, pvv fGt d a b)
  | .fcmpGe g d a b => some (g, pvv fGe d a b)
  | .fcmpUnord g d a b => some (g, pvv fUnord d a b)
  | .fcmpOrd g d a b => some (g, pvv fOrd d a b)
  | .addF16x2 g d a b => some (g, fvv vAddF16x2 d a b p)
  | .subF16x2 g d a b => some (g, fvv vSubF16x2 d a b p)
  | .mulF16x2 g d a b => some (g, fvv vMulF16x2 d a b p)
  | .minF16x2 g d a b => some (g, fvv vMinF16x2 d a b p)
  | .maxF16x2 g d a b => some (g, fvv vMaxF16x2 d a b p)
  | .addBf16x2 g d a b => some (g, fvv vAddBf16x2 d a b p)
  | .subBf16x2 g d a b => some (g, fvv vSubBf16x2 d a b p)
  | .mulBf16x2 g d a b => some (g, fvv vMulBf16x2 d a b p)
  | .minBf16x2 g d a b => some (g, fvv vMinBf16x2 d a b p)
  | .maxBf16x2 g d a b => some (g, fvv vMaxBf16x2 d a b p)
  | .fmaF16x2 g d a b => some (g, fvvc vFmaF16x2 d a b p)
  | .fmaBf16x2 g d a b => some (g, fvvc vFmaBf16x2 d a b p)
  | .rcp g d a _ => some (g, fv1 vRcp d a p)
  | .rsq g d a _ => some (g, fv1 vRsq d a p)
  | .sqrt g d a _ => some (g, fv1 vSqrt d a p)
  | .exp2 g d a _ => some (g, fv1 vExp2 d a p)
  | .log2 g d a _ => some (g, fv1 vLog2 d a p)
  | .sin g d a _ => some (g, fv1 vSin d a p)
  | .cos g d a _ => some (g, fv1 vCos d a p)
  | .tanh g d a _ => some (g, fv1 vTanh d a p)
  | .cvtF32F16 g d a h => some (g, vv (vCvtF32F16 h) d a)
  | .cvtF32Bf16 g d a h => some (g, vv (vCvtF32Bf16 h) d a)
  | .cvtF16F32 g d a b => some (g, fvv vCvtF16F32 d a b p)
  | .cvtBf16F32 g d a b => some (g, fvv vCvtBf16F32 d a b p)
  | .cvtS32F32 g d a => some (g, fv1 vCvtS32F32 d a p)
  | .cvtUi32F32 g d a => some (g, fv1 vCvtUi32F32 d a p)
  | .cvtF32S32 g d a => some (g, eCvtF32S32 d a p)
  | .cvtF32Ui32 g d a => some (g, eCvtF32Ui32 d a p)
  | .cvtFxF32 g d a => some (g, eCvtFxF32 d a p)
  | .cvtF32Fx g d a => some (g, eCvtF32Fx d a p)
  | .cvtF16F32Sr g d a b => some (g, vvv vCvtF16F32Sr d a b)
  | .cvtBf16F32Sr g d a b => some (g, vvv vCvtBf16F32Sr d a b)
  | .cvtF32S64 g d a => some (g, eCvtF32S64 d a p)
  | .cvtF32Ui64 g d a => some (g, eCvtF32Ui64 d a p)
  | .pkE4m3 g d a b => some (g, ePkE4m3 d a b p)
  | .pkE5m2 g d a b => some (g, ePkE5m2 d a b p)
  | .pkHs4 g d a b => some (g, ePkHs4 d a b p)
  | .upkE4m3 g d a b => some (g, eUpkE4m3 d a b p)
  | .upkE5m2 g d a b => some (g, eUpkE5m2 d a b p)
  | .upkHs4 g d a b => some (g, eUpkHs4 d a b p)
  | .pkE4m3Sr g d a b => some (g, ePkE4m3Sr d a b p)
  | .pkE5m2Sr g d a b => some (g, ePkE5m2Sr d a b p)
  | .scxE4m3 g d a => some (g, eScxE4m3 d a)
  | .scxE5m2 g d a => some (g, eScxE5m2 d a)
  | .scxHs4 g d a => some (g, eScxHs4 d a)
  | _ => none

end Sys2Proof.Machine
end

