-- ==== Sys2Proof/Machine/Mem.lean ====
section
/-! DEFINITION. The memory, pointer, atomic and tile instructions (R189 to R206, R294, R444): the access or tile access each makes, and its
meaning. -/

namespace Sys2Proof.Machine

/-! ## Forming accesses (R142, R192, R206) -/

/-- OFFSET, or with an IMM prefix its 32 bits (R148). -/
def offOf (p : Pfx) (ad : AddrWord) : W64 :=
  match p.imm with
  | some q => (q.setWidth 16 ++ ad.off : BitVec 32).signExtend 64
  | none => ad.off.signExtend 64
/-- The address formed; in slot 511 a physical one, without classes (R319). -/
def formAt (ag : Agent) (base off : W64) : W64 := if untranslated ag then base + off else formAddr base off
/-- The access of lane l of an issue, with nothing stored and nothing returned yet. -/
def laneAcc (s : State) (iss : Issue) (c sl l : Nat) (kind : AccKind) (n : Nat) (base : W64) (ad : AddrWord) : Access :=
  let ag := Agent.thread c sl l
  let form := formAt ag base (offOf iss.pfx ad)
  { id := 0, iss := iss.id, gang := iss.gang, ag := ag, kind := kind, form := form, ea := form, size := n, sig := ad.sig == 1, scope := ad.scope.toNat,
    ev := ad.ev.toNat, prv := prvOf s iss.who, pc := iss.pc, next := iss.next, issv := iss.issv, lanes := [l], acq := acqOf s ag }
/-- The access of a U-set word: of the thread of the lowest lane, or of the job. -/
def uniAcc (s : State) (iss : Issue) (kind : AccKind) (n : Nat) (a : Reg) (ad : AddrWord) : Access :=
  let ag := uniAgent iss
  let form := formAt ag ((uniOf s iss.who).rs a.toNat) (offOf iss.pfx ad)
  { id := 0, iss := iss.id, ag := ag, kind := kind, form := form, ea := form, size := n, sig := ad.sig == 1, scope := ad.scope.toNat,
    ev := ad.ev.toNat, prv := prvOf s iss.who, pc := iss.pc, next := iss.next,
    lanes := iss.mask, acq := acqOf s ag }

/-- The low n bytes of a lane's or a uniform register group. -/
def Uni.rsn (u : Uni) (r n : Nat) : Nat := if n = 16 then (u.rs2 r).toNat else (u.rs r).toNat % 2 ^ (8 * n)

/-! ## The access of each word -/

/-- An access builder: what lane l, as it stands, asks of memory. -/
abbrev MkAcc := State → Issue → Nat → Nat → Nat → Lane → Access

def aLd (sz : LdSize) (d a : Reg) (ad : AddrWord) : MkAcc := fun s iss c sl l ln =>
  { laneAcc s iss c sl l .load (ldBytes sz) (ln.rv2 a.toNat) ad with dest := .vreg d sz, last := ad.last == 1 }
def aSt (sz : StSize) (d a : Reg) (ad : AddrWord) : MkAcc := fun s iss c sl l ln =>
  { laneAcc s iss c sl l .store (stBytes sz) (ln.rv2 a.toNat) ad with data := natBytes (stBytes sz) (ln.rvn d.toNat (stBytes sz)) }
/-- RST: a store staged for the ridge group that SCOPE names (R294). -/
def aRst (sz : StSize) (d a : Reg) (ad : AddrWord) : MkAcc := fun s iss c sl l ln =>
  { aSt sz d a ad s iss c sl l ln with scope := 0, ridge := some ad.scope.toNat }
def aLdp (d a : Reg) (ad : AddrWord) : MkAcc := fun s iss c sl l ln =>
  { laneAcc s iss c sl l .ldp 16 (ln.rv2 a.toNat) ad with dest := .pair d, last := ad.last == 1 }
/-- STP: its data is the pair until the frame entry has been read (R114). -/
def aStp (d a : Reg) (ad : AddrWord) : MkAcc := fun s iss c sl l ln =>
  { laneAcc s iss c sl l .stp 16 (ln.rv2 a.toNat) ad with data := natBytes 8 (ln.rv2 d.toNat).toNat }
def aAtom (op : AtomOp) (n : Nat) (d a : Reg) (ad : AddrWord) : MkAcc := fun s iss c sl l ln =>
  { laneAcc s iss c sl l .atomic n (ln.rv2 a.toNat) ad with op := op, data := natBytes n (ln.rvn d.toNat n), dest := .vold d n }
def aCas (n : Nat) (d a b : Reg) (ad : AddrWord) : MkAcc := fun s iss c sl l ln =>
  { aAtom .cas n d a ad s iss c sl l ln with cmp := ln.rvn b.toNat n }
def aRed (op : AtomOp) (n : Nat) (d a : Reg) (ad : AddrWord) : MkAcc := fun s iss c sl l ln =>
  { laneAcc s iss c sl l .red n (ln.rv2 a.toNat) ad with op := op, data := natBytes n (ln.rvn d.toNat n) }
/-- A WAIT's read, from what the lane keeps of it (R203, R444). -/
def aWait (s : State) (c sl l : Nat) (prv : Bool) (pc : W64) (w : WaitRec) (iss : Nat) : Access :=
  let ag := Agent.thread c sl l
  let form := formAt ag w.base w.off
  { id := 0, iss := iss, ag := ag, kind := .wait, form := form, ea := form, size := if w.wide then 8 else 4, cmp := w.cmp, scope := w.scope,
    ev := w.ev, prv := prv, dest := .wait, pc := pc, next := w.next, lanes := [l], acq := acqOf s ag }
/-- Bytes of the 32-bit or 64-bit form. -/
def wBytes (w : Bool) : Nat := if w then 8 else 4

/-! ## Tiles reached by lanes (R196, R197) -/

def tileOf (co : Core) (blk tile : Nat) : Option (Nat × Tile) := co.tiles.find? (fun e => e.2.blk == blk && e.2.tile == tile)
/-- TSTATE (R392). -/
def tileNum : TileSt → Nat
  | .empty => 1 | .filling => 2 | .ready => 3 | .draining => 4
/-- TILE_STATE for an id (R392, R398). -/
def tileRec (reason : Nat) (t : Option Tile) (tile gen fent : Nat) : FaultRec :=
  { code := 0x20, aux := aux3 reason 0 0 ((t.map (fun t => tileNum t.st)).getD 0) tile fent ((t.map (fun t => t.gen.toNat)).getD 0) gen }
/-- A lane's check of its tile id and n bytes from offset k. -/
inductive TileChk where
  | ok (e : Nat) (t : Tile)
  | filling
  | bad (r : FaultRec)
  deriving DecidableEq, Repr
def tileChk (co : Core) (blk : Nat) (id : W32) (k n : Nat) : TileChk :=
  let tile := id.toNat % 256
  let gen := id.toNat / 2 ^ 20
  match tileOf co blk tile with
  | none => .bad (tileRec 0 none tile gen 0)
  | some (e, t) =>
    if id.getLsbD 19 && t.gen.toNat != gen then .bad (tileRec 1 (some t) tile gen 0)
    else if k + n > 256 * t.len then .bad (tileRec 2 (some t) tile gen 0)
    else if k % 32 + n > 32 then .bad (tileRec 7 (some t) tile gen 0)
    else match t.st with
      | .filling => .filling
      | .empty => .bad (tileRec 3 (some t) tile gen 0)
      | .draining => .bad (tileRec 4 (some t) tile gen 0)
      | .ready => .ok e t
/-- The byte offset of a lane: vB + OFFSET modulo 2^32. -/
def tileOff (p : Pfx) (b : Reg) (ad : AddrWord) (ln : Lane) : Nat := (ln.rv b.toNat + (offOf p ad).setWidth 32).toNat
/-- Every active lane's check; `none` where a filling tile holds the issue (R79). -/
def tileChks (s : State) (c sl : Nat) (act : List Nat) (a b : Reg) (p : Pfx) (ad : AddrWord) (n : Nat) : Option (List (Nat × TileChk)) :=
  let chks := act.map (fun l => (l, tileChk (s.core c) ((s.course? c sl).getD {}).blk ((s.lane c sl l).rv a.toNat) (tileOff p b ad (s.lane c sl l)) n))
  if chks.any (fun x => x.2 == .filling) then none else some chks
/-- A tile word's accesses: `f` makes one lane's. -/
def tileRun (s : State) (chks : List (Nat × TileChk)) (f : State → Nat → Nat → Tile → State) : Issued :=
  chks.foldl (fun (r : Issued) x => match x.2 with
    | .ok e t => { r with s := f r.s x.1 e t }
    | .bad rec => { r with bad := r.bad ++ [(x.1, rec)] }
    | .filling => { r with held := true }) { s := s }
/-- A lane's check where its bytes cannot be read (R379). -/
def tileReadChk (s : State) (c sl : Nat) (p : Pfx) (b : Reg) (ad : AddrWord) (n : Nat) (x : Nat × TileChk) : Nat × TileChk :=
  match x.2 with
  | .ok e _ => if tileErr s c e (tileOff p b ad (s.lane c sl x.1)) n then (x.1, .bad (unitRec 4)) else x
  | _ => x
/-- LDT of the active lanes. -/
def ldtRun (sz : LdSize) (d a b : Reg) (ad : AddrWord) (s : State) (iss : Issue) (c sl : Nat) (act : List Nat) : Issued :=
  match tileChks s c sl act a b iss.pfx ad (ldBytes sz) with
  | none => { s := s, held := true }
  | some chks => tileRun s (chks.map (tileReadChk s c sl iss.pfx b ad (ldBytes sz))) (fun s l _ t =>
      s.updLane c sl l (fun ln => ln.wvn d.toNat (ldWide sz) (extendLd sz 32 (leNum (t.read (tileOff iss.pfx b ad ln) (ldBytes sz))))))
/-- STT of the active lanes, in ascending order. -/
def sttRun (sz : StSize) (d a b : Reg) (ad : AddrWord) (s : State) (iss : Issue) (c sl : Nat) (act : List Nat) : Issued :=
  match tileChks s c sl act a b iss.pfx ad (stBytes sz) with
  | none => { s := s, held := true }
  | some chks => tileRun s chks (fun s l e _ =>
      let ln := s.lane c sl l
      s.updCore c (fun co => match mget? co.tiles e with
        | some t => { co with tiles := mset co.tiles e (t.write (tileOff iss.pfx b ad ln) (natBytes (stBytes sz) (ln.rvn d.toNat (stBytes sz)))) }
        | none => co))

/-! ## PFAR (R115, R200) -/

/-- quad(D) ← the slot value of pair(B), or STALE_FRAME as STP takes it. -/
def pfarRun (d b : Reg) (s : State) (c sl : Nat) (act : List Nat) : Issued :=
  act.foldl (fun (r : Issued) l =>
    let x := (s.lane c sl l).rv2 b.toNat
    match npBad s (s.bayOf c) x, unswizzle s (s.bayOf c) x with
    | some src, _ => { r with bad := r.bad ++ [(l, eccRec (x.setWidth 128) src)] }
    | none, .ok n => { r with s := r.s.updLane c sl l (fun ln => ln.wv4 d.toNat n) }
    | none, .error q => { r with bad := r.bad ++ [(l, staleRec s (s.bayOf c) x x q .stp 16)] }) { s := s }

/-! ## Meanings -/

/-- A memory word of the lanes. -/
def memWord (s : State) (g : Guard) (kind : AccKind) (mk : MkAcc) : Host.Outcome State Fault Refusal :=
  lword s g (fun iss c sl => memIssue s iss c sl g kind (mk s iss c sl))
/-- A word of the lanes that may fault and makes no memory access. -/
def runWord (s : State) (g : Guard) (run : Issue → Nat → Nat → List Nat → Issued) : Host.Outcome State Fault Refusal :=
  lword s g (fun iss c sl =>
    let act := activeLanes s iss g
    finishIssued s iss act .load (run iss c sl act))
/-- A memory word of the U-set. -/
def uniWord (s : State) (q : Guard) (mk : Issue → Access) : Host.Outcome State Fault Refusal := uword s q (fun iss => uniIssue s iss (mk iss))

def execLd (sz : LdSize) (g : Guard) (d a : Reg) (ad : AddrWord) (s : State) : Host.Outcome State Fault Refusal := memWord s g .load (aLd sz d a ad)
def execSt (sz : StSize) (g : Guard) (d a : Reg) (ad : AddrWord) (s : State) : Host.Outcome State Fault Refusal := memWord s g .store (aSt sz d a ad)
def execRst (sz : StSize) (g : Guard) (d a : Reg) (ad : AddrWord) (s : State) : Host.Outcome State Fault Refusal := memWord s g .store (aRst sz d a ad)
def execLdt (sz : LdSize) (g : Guard) (d a b : Reg) (ad : AddrWord) (s : State) : Host.Outcome State Fault Refusal := runWord s g (fun iss c sl act => ldtRun sz d a b ad s iss c sl act)
def execStt (sz : StSize) (g : Guard) (d a b : Reg) (ad : AddrWord) (s : State) : Host.Outcome State Fault Refusal := runWord s g (fun iss c sl act => sttRun sz d a b ad s iss c sl act)
def execLdp (g : Guard) (d a : Reg) (ad : AddrWord) (s : State) : Host.Outcome State Fault Refusal := memWord s g .ldp (aLdp d a ad)
def execStp (g : Guard) (d a : Reg) (ad : AddrWord) (s : State) : Host.Outcome State Fault Refusal := memWord s g .stp (aStp d a ad)
def execPfar (g : Guard) (d b : Reg) (_ad : AddrWord) (s : State) : Host.Outcome State Fault Refusal := runWord s g (fun _ c sl act => pfarRun d b s c sl act)
def execAtomAdd (w : Bool) (g : Guard) (d a : Reg) (ad : AddrWord) (s : State) : Host.Outcome State Fault Refusal := memWord s g .atomic (aAtom .add (wBytes w) d a ad)
def execAtomMin (w : Bool) (g : Guard) (d a : Reg) (ad : AddrWord) (s : State) : Host.Outcome State Fault Refusal := memWord s g .atomic (aAtom .min (wBytes w) d a ad)
def execAtomMax (w : Bool) (g : Guard) (d a : Reg) (ad : AddrWord) (s : State) : Host.Outcome State Fault Refusal := memWord s g .atomic (aAtom .max (wBytes w) d a ad)
def execAtomMinui (w : Bool) (g : Guard) (d a : Reg) (ad : AddrWord) (s : State) : Host.Outcome State Fault Refusal := memWord s g .atomic (aAtom .minui (wBytes w) d a ad)
def execAtomMaxui (w : Bool) (g : Guard) (d a : Reg) (ad : AddrWord) (s : State) : Host.Outcome State Fault Refusal := memWord s g .atomic (aAtom .maxui (wBytes w) d a ad)
def execAtomAnd (w : Bool) (g : Guard) (d a : Reg) (ad : AddrWord) (s : State) : Host.Outcome State Fault Refusal := memWord s g .atomic (aAtom .and (wBytes w) d a ad)
def execAtomOr (w : Bool) (g : Guard) (d a : Reg) (ad : AddrWord) (s : State) : Host.Outcome State Fault Refusal := memWord s g .atomic (aAtom .or (wBytes w) d a ad)
def execAtomXor (w : Bool) (g : Guard) (d a : Reg) (ad : AddrWord) (s : State) : Host.Outcome State Fault Refusal := memWord s g .atomic (aAtom .xor (wBytes w) d a ad)
def execAtomXchg (w : Bool) (g : Guard) (d a : Reg) (ad : AddrWord) (s : State) : Host.Outcome State Fault Refusal := memWord s g .atomic (aAtom .xchg (wBytes w) d a ad)
def execAtomCas (w : Bool) (g : Guard) (d a b : Reg) (ad : AddrWord) (s : State) : Host.Outcome State Fault Refusal := memWord s g .atomic (aCas (wBytes w) d a b ad)
def execAtomFaddF32 (g : Guard) (d a : Reg) (ad : AddrWord) (s : State) : Host.Outcome State Fault Refusal := memWord s g .atomic (aAtom .faddF32 4 d a ad)
def execAtomAddBf16x2 (g : Guard) (d a : Reg) (ad : AddrWord) (s : State) : Host.Outcome State Fault Refusal := memWord s g .atomic (aAtom .addBf16x2 4 d a ad)
def execAtomAddF16x2 (g : Guard) (d a : Reg) (ad : AddrWord) (s : State) : Host.Outcome State Fault Refusal := memWord s g .atomic (aAtom .addF16x2 4 d a ad)
def execAtomFxadd (g : Guard) (d a : Reg) (ad : AddrWord) (s : State) : Host.Outcome State Fault Refusal := memWord s g .atomic (aAtom .fxadd 16 d a ad)
def execRedAdd (w : Bool) (g : Guard) (d a : Reg) (ad : AddrWord) (s : State) : Host.Outcome State Fault Refusal := memWord s g .red (aRed .add (wBytes w) d a ad)
def execRedMin (w : Bool) (g : Guard) (d a : Reg) (ad : AddrWord) (s : State) : Host.Outcome State Fault Refusal := memWord s g .red (aRed .min (wBytes w) d a ad)
def execRedMax (w : Bool) (g : Guard) (d a : Reg) (ad : AddrWord) (s : State) : Host.Outcome State Fault Refusal := memWord s g .red (aRed .max (wBytes w) d a ad)
def execRedMinui (w : Bool) (g : Guard) (d a : Reg) (ad : AddrWord) (s : State) : Host.Outcome State Fault Refusal := memWord s g .red (aRed .minui (wBytes w) d a ad)
def execRedMaxui (w : Bool) (g : Guard) (d a : Reg) (ad : AddrWord) (s : State) : Host.Outcome State Fault Refusal := memWord s g .red (aRed .maxui (wBytes w) d a ad)
def execRedAnd (w : Bool) (g : Guard) (d a : Reg) (ad : AddrWord) (s : State) : Host.Outcome State Fault Refusal := memWord s g .red (aRed .and (wBytes w) d a ad)
def execRedOr (w : Bool) (g : Guard) (d a : Reg) (ad : AddrWord) (s : State) : Host.Outcome State Fault Refusal := memWord s g .red (aRed .or (wBytes w) d a ad)
def execRedXor (w : Bool) (g : Guard) (d a : Reg) (ad : AddrWord) (s : State) : Host.Outcome State Fault Refusal := memWord s g .red (aRed .xor (wBytes w) d a ad)
def execRedFaddF32 (g : Guard) (d a : Reg) (ad : AddrWord) (s : State) : Host.Outcome State Fault Refusal := memWord s g .red (aRed .faddF32 4 d a ad)
def execRedAddBf16x2 (g : Guard) (d a : Reg) (ad : AddrWord) (s : State) : Host.Outcome State Fault Refusal := memWord s g .red (aRed .addBf16x2 4 d a ad)
def execRedAddF16x2 (g : Guard) (d a : Reg) (ad : AddrWord) (s : State) : Host.Outcome State Fault Refusal := memWord s g .red (aRed .addF16x2 4 d a ad)
def execRedFxadd (g : Guard) (d a : Reg) (ad : AddrWord) (s : State) : Host.Outcome State Fault Refusal := memWord s g .red (aRed .fxadd 16 d a ad)

/-- WAIT keeps its base, offset and compare value for later reads, then makes its first (R203, R444). -/
def waitRec (w : Bool) (d a b : Reg) (ad : AddrWord) (iss : Issue) (ln : Lane) : WaitRec :=
  { wide := w, base := ln.rv2 a.toNat, off := offOf iss.pfx ad, cmp := ln.rvn b.toNat (wBytes w), d := d, ev := ad.ev.toNat,
    scope := ad.scope.toNat, iss := iss.id, next := iss.next }
def execWait (w : Bool) (g : Guard) (d a b : Reg) (ad : AddrWord) (s : State) : Host.Outcome State Fault Refusal :=
  lword s g (fun iss c sl =>
    let act := activeLanes s iss g
    let s1 := s.updCourse c sl (·.mapLanes (fun l ln => if act.contains l then { ln with wt := some (waitRec w d a b ad iss ln) } else ln))
    let r := memRun s1 c sl act (fun l ln => aWait s c sl l (prvOf s iss.who) iss.pc (waitRec w d a b ad iss ln) iss.id)
    if r.held then s else finishIssued s1 iss act .wait r)

/-- A read repeated after a wake, or where no monitor table has the lane any more (R203, R444). A read that cannot be placed is made later. -/
def execWaitReread (core slot lane : Nat) (s : State) : Host.Outcome State Fault Refusal :=
  .next (
    let ln := s.lane core slot lane
    match ln.wt with
    | none => s
    | some w =>
      if ln.st = .woken ∨ ln.st = .monitor ∧ !s.slices.any (fun e => e.2.mon.any (fun m => m.lanes.contains (core, slot, lane)))
          && !s.peerMon.any (fun e => e.2 == (core, slot, lane)) then
        -- an access of its own, issued now: every check is made, against the locks that stand now (R361, R444)
        let r := memRun { s with nextIss := s.nextIss + 1 } core slot [lane] (fun _ _ => aWait s core slot lane (prvOf s (.course core slot)) ln.pc w s.nextIss)
        if r.held then s
        else match r.bad with
          | (_, f) :: _ => takeFault s core slot ln.pc w.next [lane] f
          | [] => r.s.updLane core slot lane (fun x => { x with st := match r.parked with | (_, id) :: _ => .parked id | [] => .waitRead })
      else s)

/-! ## Fences (R205, R272) -/

def execFenceAcq (g : Guard) (_sc : BitVec 3) (s : State) : Host.Outcome State Fault Refusal := lane1 s g (fun ln => { ln with acq := s.nextAcc })
/-- REL: the lane is held, from its next issue on, until FENCE_PASS (log 22). -/
def execFenceRel (g : Guard) (sc : BitVec 3) (s : State) : Host.Outcome State Fault Refusal := lane1 s g (fun ln => { ln with fence := some (sc.toNat, false) })
def execFenceAcqrel (g : Guard) (sc : BitVec 3) (s : State) : Host.Outcome State Fault Refusal := lane1 s g (fun ln => { ln with fence := some (sc.toNat, true) })

/-! ## Uniform accesses (R206) -/

def aUld (sz : LdSize) (d a : Reg) (ad : AddrWord) (s : State) (iss : Issue) : Access :=
  { uniAcc s iss .load (ldBytes sz) a ad with dest := .ureg d sz, last := ad.last == 1 }
def aUst (sz : StSize) (d a : Reg) (ad : AddrWord) (s : State) (iss : Issue) : Access :=
  { uniAcc s iss .store (stBytes sz) a ad with data := natBytes (stBytes sz) ((uniOf s iss.who).rsn d.toNat (stBytes sz)) }
def aUatom (op : AtomOp) (n : Nat) (d a : Reg) (ad : AddrWord) (s : State) (iss : Issue) : Access :=
  { uniAcc s iss .atomic n a ad with op := op, data := natBytes n ((uniOf s iss.who).rsn d.toNat n), dest := .uold d n }
def aUcas (d a b : Reg) (ad : AddrWord) (s : State) (iss : Issue) : Access :=
  { aUatom .cas 8 d a ad s iss with cmp := ((uniOf s iss.who).rs b.toNat).toNat }
def execUld (sz : LdSize) (q : Guard) (d a : Reg) (ad : AddrWord) (s : State) : Host.Outcome State Fault Refusal := uniWord s q (aUld sz d a ad s)
def execUst (sz : StSize) (q : Guard) (d a : Reg) (ad : AddrWord) (s : State) : Host.Outcome State Fault Refusal := uniWord s q (aUst sz d a ad s)
def execUatomAdd (q : Guard) (d a : Reg) (ad : AddrWord) (s : State) : Host.Outcome State Fault Refusal := uniWord s q (aUatom .add 8 d a ad s)
def execUatomMin (q : Guard) (d a : Reg) (ad : AddrWord) (s : State) : Host.Outcome State Fault Refusal := uniWord s q (aUatom .min 8 d a ad s)
def execUatomMax (q : Guard) (d a : Reg) (ad : AddrWord) (s : State) : Host.Outcome State Fault Refusal := uniWord s q (aUatom .max 8 d a ad s)
def execUatomMinui (q : Guard) (d a : Reg) (ad : AddrWord) (s : State) : Host.Outcome State Fault Refusal := uniWord s q (aUatom .minui 8 d a ad s)
def execUatomMaxui (q : Guard) (d a : Reg) (ad : AddrWord) (s : State) : Host.Outcome State Fault Refusal := uniWord s q (aUatom .maxui 8 d a ad s)
def execUatomAnd (q : Guard) (d a : Reg) (ad : AddrWord) (s : State) : Host.Outcome State Fault Refusal := uniWord s q (aUatom .and 8 d a ad s)
def execUatomOr (q : Guard) (d a : Reg) (ad : AddrWord) (s : State) : Host.Outcome State Fault Refusal := uniWord s q (aUatom .or 8 d a ad s)
def execUatomXor (q : Guard) (d a : Reg) (ad : AddrWord) (s : State) : Host.Outcome State Fault Refusal := uniWord s q (aUatom .xor 8 d a ad s)
def execUatomXchg (q : Guard) (d a : Reg) (ad : AddrWord) (s : State) : Host.Outcome State Fault Refusal := uniWord s q (aUatom .xchg 8 d a ad s)
def execUatomCas (q : Guard) (d a b : Reg) (ad : AddrWord) (s : State) : Host.Outcome State Fault Refusal := uniWord s q (aUcas d a b ad s)
def execUatomFaddF32 (q : Guard) (d a : Reg) (ad : AddrWord) (s : State) : Host.Outcome State Fault Refusal := uniWord s q (aUatom .faddF32 4 d a ad s)
def execUatomFxadd (q : Guard) (d a : Reg) (ad : AddrWord) (s : State) : Host.Outcome State Fault Refusal := uniWord s q (aUatom .fxadd 16 d a ad s)

/-! ## Words executed by ISSV that reach memory or a tile (R219) -/

/-- The guard and what the active lanes do, for the words of majors 0x11 to 0x17. -/
def memWordRun (i : Instr) (s : State) (iss : Issue) (c sl : Nat) : Option (Guard × (List Nat → Issued)) :=
  let m := fun (g : Guard) (mk : MkAcc) => some (g, fun act => memRun s c sl act (mk s iss c sl))
  match i with
  | .ld sz g d a ad => m g (aLd sz d a ad)
  | .st sz g d a ad => m g (aSt sz d a ad)
  | .ldt sz g d a b ad => some (g, ldtRun sz d a b ad s iss c sl)
  | .stt sz g d a b ad => some (g, sttRun sz d a b ad s iss c sl)
  | .ldp g d a ad => m g (aLdp d a ad)
  | .stp g d a ad => m g (aStp d a ad)
  | .pfar g d b _ => some (g, pfarRun d b s c sl)
  | .atomAdd w g d a ad => m g (aAtom .add (wBytes w) d a ad)
  | .atomMin w g d a ad => m g (aAtom .min (wBytes w) d a ad)
  | .atomMax w g d a ad => m g (aAtom .max (wBytes w) d a ad)
  | .atomMinui w g d a ad => m g (aAtom .minui (wBytes w) d a ad)
  | .atomMaxui w g d a ad => m g (aAtom .maxui (wBytes w) d a ad)
  | .atomAnd w g d a ad => m g (aAtom .and (wBytes w) d a ad)
  | .atomOr w g d a ad => m g (aAtom .or (wBytes w) d a ad)
  | .atomXor w g d a ad => m g (aAtom .xor (wBytes w) d a ad)
  | .atomXchg w g d a ad => m g (aAtom .xchg (wBytes w) d a ad)
  | .atomCas w g d a b ad => m g (aCas (wBytes w) d a b ad)
  | .atomFaddF32 g d a ad => m g (aAtom .faddF32 4 d a ad)
  | .atomAddBf16x2 g d a ad => m g (aAtom .addBf16x2 4 d a ad)
  | .atomAddF16x2 g d a ad => m g (aAtom .addF16x2 4 d a ad)
  | .atomFxadd g d a ad => m g (aAtom .fxadd 16 d a ad)
  | .redAdd w g d a ad => m g (aRed .add (wBytes w) d a ad)
  | .redMin w g d a ad => m g (aRed .min (wBytes w) d a ad)
  | .redMax w g d a ad => m g (aRed .max (wBytes w) d a ad)
  | .redMinui w g d a ad => m g (aRed .minui (wBytes w) d a ad)
  | .redMaxui w g d a ad => m g (aRed .maxui (wBytes w) d a ad)
  | .redAnd w g d a ad => m g (aRed .and (wBytes w) d a ad)
  | .redOr w g d a ad => m g (aRed .or (wBytes w) d a ad)
  | .redXor w g d a ad => m g (aRed .xor (wBytes w) d a ad)
  | .redFaddF32 g d a ad => m g (aRed .faddF32 4 d a ad)
  | .redAddBf16x2 g d a ad => m g (aRed .addBf16x2 4 d a ad)
  | .redAddF16x2 g d a ad => m g (aRed .addF16x2 4 d a ad)
  | .redFxadd g d a ad => m g (aRed .fxadd 16 d a ad)
  | _ => none

end Sys2Proof.Machine
end

