-- ==== Sys2Proof/Machine/Batten.lean ====
section
/-! DEFINITION. Futures and batten jobs (R247 to R251, R396), tile allocation (R263), the batten words, and the steps of their transfers (R252 to
R262, R394, R395, R397). -/

namespace Sys2Proof.Machine

/-! ## Futures (R249 to R251, R396) -/

/-- A future handle (R249). -/
def futHandle (gen : BitVec 8) (c e : Nat) : W64 :=
  (0 : BitVec 32) ++ gen ++ BitVec.ofNat 8 c ++ (1 : BitVec 1) ++ (0 : BitVec 7) ++ BitVec.ofNat 8 e
/-- Generation of an entry, allocated or free. -/
def futGenOf (co : Core) (e : Nat) : BitVec 8 := match mget? co.futs e with
  | some f => f.gen
  | none => mget co.futGen e 0
/-- Whether a handle is current: its entry, or the record of HANDLE_STALE. -/
def futCheck (co : Core) (c : Nat) (h : W64) : Except FaultRec (Nat × Fut) :=
  let e := h.toNat % 256
  let hg := h.toNat / 2 ^ 24 % 256
  let stale := fun (reason : Nat) =>
    ({ code := 0x22, loc := h.setWidth 128, aux := aux3 reason 0 0 0 0 e (futGenOf co e).toNat hg } : FaultRec)
  if !h.getLsbD 15 ∨ h.toNat / 2 ^ 32 ≠ 0 ∨ h.toNat / 256 % 128 ≠ 0 then .error (stale 5)
  else if h.toNat / 2 ^ 16 % 256 ≠ c then .error (stale 6)
  else match mget? co.futs e with
    | none => .error (stale 7)
    | some f => if f.gen.toNat = hg then .ok (e, f) else .error (stale 7)
def FutSt.ended : FutSt → Bool
  | .queued => false | .running => false | _ => true
/-- The free entry that was freed longest ago becomes a future of a block (R250). -/
def allocFut (co : Core) (blk : Nat) (st : FutSt) (k : FutKind) : Option (Core × Nat) :=
  match co.futFree with
  | [] => none
  | e :: rest => some ({ co with futFree := rest, futs := mset co.futs e { st := st, val := 0, gen := mget co.futGen e 0, blk := blk, kind := k, cause := 0 } }, e)
/-- Whether a lane waits at an FWAIT on an entry. -/
def Lane.waitsOn (ln : Lane) (e : Nat) (gen : BitVec 8) : Bool :=
  match ln.st with
  | .future h _ _ _ => h.toNat % 256 == e && h.toNat / 2 ^ 24 % 256 == gen.toNat
  | _ => false
/-- The waiting lanes of a course go on with the value; the lowest lane of each issue performs the ACQ. -/
def wakeFuture (v : W64) (bound e : Nat) (gen : BitVec 8) (co : Course) : Course :=
  let u := co.lanes.foldl (fun (u : Uni) ln => match ln.st with
    | .future _ d _ _ => if ln.waitsOn e gen then u.ws d.toNat v else u
    | _ => u) co.u
  let low := fun (l : Nat) => !(List.range l).any (fun m => (co.lane m).waitsOn e gen && (co.lane m).futIss == (co.lane l).futIss)
  { co.mapLanes (fun l ln => match ln.st with
      | .future _ _ next _ => if ln.waitsOn e gen then { ln with st := .ready, pc := next, acq := if low l then bound else ln.acq } else ln
      | _ => ln) with u := u }
/-- A future resolves with a value; lanes parked in FWAIT on it go on (R250, R251). -/
def resolveFut (s : State) (c e : Nat) (v : W64) : State :=
  match mget? (s.core c).futs e with
  | none => s
  | some f => s.updCore c (fun co => { co with
      futs := mset co.futs e { f with st := .resolved, val := v },
      courses := co.courses.map (fun k => (k.1, wakeFuture v s.nextAcc e f.gen k.2)) })

/-- The processor with fewer jobs, 0 in a tie, if its queue or else the other's has room (R247). -/
def pickProc (s : State) (c : Nat) : Option Nat :=
  let n := fun p => (s.proc c p).queue.length + (if (s.proc c p).job.isSome then 1 else 0)
  let p := if n 1 < n 0 then 1 else 0
  if (s.proc c p).queue.length < 8 then some p
  else if (s.proc c (1 - p)).queue.length < 8 then some (1 - p) else none

def execBjob (q : Guard) (d : HReg) (a b : Reg) (s : State) : Host.Outcome State Fault Refusal :=
  cword s q (fun iss c k =>
    let co := (s.course? c k).getD {}
    let pc := co.u.rs a.toNat
    if b.toNat > 56 ∨ pc.toNat % 4 ≠ 0 then valueFault s iss
    else if (((s.block? c co.blk).getD {}).deferred && !co.ts) || !relPassed s (uniAgent iss) 7 then s
    else match allocFut (s.core c) co.blk .queued .job, pickProc s c with
      | some (core', e), some p =>
        let r : JobReq := { fut := e, blk := co.blk, slot := k, prv := co.prv, pc := pc,
                            args := (List.range 8).map (fun i => co.u.rs (b.toNat + i)), acq := 0 }
        let h := futHandle (futGenOf core' e) c e
        skip (((s.setCore c core').updProc c p (fun x => { x with queue := x.queue ++ [r] })).updCourse c k (·.wh d.toNat h)) iss true
      | _, _ => s)

def execFwait (q : Guard) (d : Reg) (a : HReg) (s : State) : Host.Outcome State Fault Refusal :=
  cword s q (fun iss c k =>
    let h := ((s.course? c k).getD {}).rh a.toNat
    match futCheck (s.core c) c h with
    | .error r => issueFault s iss iss.mask r
    | .ok (e, f) =>
      match f.st with
      | .resolved =>
        skip (s.updCourse c k (fun co => { (co.updLane iss.low (fun ln => { ln with acq := s.nextAcc })) with u := co.u.ws d.toNat f.val })) iss true
      | .cancelled => issueFault s iss iss.mask { code := 0x23, aux := aux3 0 0 0 0 0 e f.gen.toNat f.gen.toNat }
      | .faulted => issueFault s iss iss.mask { code := 0x23, aux := aux3 1 f.cause 0 0 0 e f.gen.toNat f.gen.toNat }
      | _ => endIssue s iss true (fun _ ln => { ln with st := .future h d iss.next iss.id }) iss.next)
def execFtest (q : Guard) (d : PReg) (a : HReg) (s : State) : Host.Outcome State Fault Refusal :=
  cword s q (fun iss c k => match futCheck (s.core c) c (((s.course? c k).getD {}).rh a.toNat) with
    | .error r => issueFault s iss iss.mask r
    | .ok (_, f) => skip (s.updCourse c k (fun co => { co with u := co.u.wq d f.st.ended })) iss true)

/-- The processor that runs the job of a future. -/
def procOf (s : State) (c e : Nat) : Nat := if ((s.job? c 1).map (·.fut)) == some e then 1 else 0
/-- An entry becomes cancelled: lanes parked on it take FUTURE_CANCELLED (R396). -/
def cancelFut (s : State) (c e : Nat) (f : Fut) : State :=
  cancelWaiters (s.updCore c (fun co => { co with futs := mset co.futs e { f with st := .cancelled } })) c e f.gen 0 0 none
def execFcancel (q : Guard) (a : HReg) (s : State) : Host.Outcome State Fault Refusal :=
  cword s q (fun iss c k => match futCheck (s.core c) c (((s.course? c k).getD {}).rh a.toNat) with
    | .error r => issueFault s iss iss.mask r
    | .ok (e, f) =>
      let s := skip s iss true
      if f.st.ended then s.updCore c (freeFut e)
      else if f.kind ≠ .job then s
      else if f.st = .queued then
        cancelFut ([0, 1].foldl (fun s p => s.updProc c p (fun x => { x with queue := x.queue.filter (·.fut != e) })) s) c e f
      else cancelFut (stopJob s c (procOf s c e)) c e f)
def execFmovHs (q : Guard) (d : Reg) (a : HReg) (s : State) : Host.Outcome State Fault Refusal :=
  cword s q (fun iss c k => skip (s.updCourse c k (fun co => { co with u := co.u.ws d.toNat (co.rh a.toNat) })) iss true)
def execFmovSh (q : Guard) (d : HReg) (a : Reg) (s : State) : Host.Outcome State Fault Refusal :=
  cword s q (fun iss c k => skip (s.updCourse c k (fun co => co.wh d.toNat (co.u.rs a.toNat))) iss true)

/-! ## Tile allocation (R75, R77, R263, R398) -/

/-- The lowest base set from which n lines fit. -/
def fitBset (co : Core) (n : Nat) : Option Nat :=
  (List.range 256).find? (fun b => (List.range 256).all (fun x => decide (pinned co x + pinsIn b n x ≤ 12)))
/-- Pinning ways evicts the ordinary lines that hold them (R76). -/
def pinWays (b n : Nat) (co : Core) : Core := (List.range 256).foldl (fun co x => if pinsIn b n x = 0 then co else Core.evictTo x 0 16 co) co
/-- Take a tile of a block: number, entry, tile; none where it does not fit. -/
def allocTile (co : Core) (blk tile n : Nat) (st : TileSt) (data : Map Byte) : Option (Core × Nat × Tile) :=
  match co.tileFree, fitBset co n with
  | e :: rest, some b =>
    let t : Tile := { blk := blk, tile := tile, bset := b, len := n, st := st, gen := mget co.tileGen e 0, data := data }
    some (pinWays b n { co with tileFree := rest, tiles := mset co.tiles e t }, e, t)
  | _, _ => none
/-- Tile lines a block holds. -/
def linesOf (co : Core) (blk : Nat) : Nat := co.tiles.foldl (fun m e => if e.2.blk = blk then m + e.2.len else m) 0

def execTalloc (q : Guard) (d a : Reg) (s : State) : Host.Outcome State Fault Refusal :=
  cword s q (fun iss c k =>
    let co := (s.course? c k).getD {}
    let n := (co.u.rs a.toNat).toNat % 4096
    let bl := (s.block? c co.blk).getD {}
    let out := fun (s : State) (x : W64) => skip (s.updCourse c k (fun co => { co with u := co.u.ws d.toNat x })) iss true
    if n = 0 ∨ n > 3072 then valueFault s iss
    else match (List.range bl.tent).find? (fun x => (tileOf (s.core c) co.blk x).isNone) with
      | none => out s (-1)
      | some x =>
        if linesOf (s.core c) co.blk + n > bl.tlines then out s (-1)
        else match allocTile (s.core c) co.blk x n .empty [] with
          | none => out s (-1)
          | some (core', _, t) => out (s.setCore c core') ((0 : BitVec 32) ++ t.gen ++ (1 : BitVec 1) ++ (0 : BitVec 11) ++ BitVec.ofNat 8 x))
/-- The tile a course's id names, or its REASON. -/
def tileNamed (co : Core) (blk : Nat) (id : W32) (fent : Nat) : Except FaultRec (Nat × Tile) :=
  let x := id.toNat % 256
  let g := id.toNat / 2 ^ 20
  match tileOf co blk x with
  | none => .error (tileRec 0 none x g fent)
  | some (e, t) => if id.getLsbD 19 && t.gen.toNat != g then .error (tileRec 1 (some t) x g fent) else .ok (e, t)
def execTfree (q : Guard) (a : Reg) (s : State) : Host.Outcome State Fault Refusal :=
  cword s q (fun iss c k =>
    let co := (s.course? c k).getD {}
    let id : W32 := (co.u.rs a.toNat).setWidth 32
    match tileNamed (s.core c) co.blk id 0 with
    | .error r => issueFault s iss iss.mask r
    | .ok (e, t) =>
      if t.st ≠ .empty then issueFault s iss iss.mask (tileRec 6 (some t) t.tile (id.toNat / 2 ^ 20) 0)
      else skip (s.updCore c (freeTile e)) iss true)
def execTstat (q : Guard) (d a : Reg) (s : State) : Host.Outcome State Fault Refusal :=
  cword s q (fun iss c k =>
    let co := (s.course? c k).getD {}
    let x : W64 := match tileNamed (s.core c) co.blk ((co.u.rs a.toNat).setWidth 32) 0 with
      | .error _ => 0
      | .ok (_, t) => (0 : BitVec 32) ++ t.gen ++ BitVec.ofNat 12 t.len ++ (0 : BitVec 5) ++ BitVec.ofNat 3 (tileNum t.st)
    skip (s.updCourse c k (fun co => { co with u := co.u.ws d.toNat x })) iss true)

/-! ## Layout records (R252 to R255) -/

/-- A record with the address it was read from. -/
structure Layout where
  addr : W64
  base : W64
  stride : List Int
  ext : List Nat
  gen : Nat
  swz : Nat
  esz : Nat
  deriving DecidableEq, Repr

def layoutOf (addr : W64) (v : Nat) : Layout :=
  { addr := addr, base := BitVec.ofNat 64 (v / 2 ^ 448),
    stride := (List.range 4).map (fun k => (BitVec.ofNat 32 (v / 2 ^ (320 + 32 * k))).toInt),
    ext := (List.range 4).map (fun k => v / 2 ^ (192 + 32 * k) % 2 ^ 32),
    gen := v / 2 ^ 180 % 4096, swz := v / 2 ^ 176 % 16, esz := v / 2 ^ 172 % 16 }
def Layout.inRange (l : Layout) : Bool := l.ext.all (fun e => decide (1 ≤ e ∧ e ≤ 65536)) && decide (l.esz ≤ 4) && decide (l.swz ≤ 3)
def Layout.size (l : Layout) : Nat := 2 ^ l.esz
def Layout.count (l : Layout) : Nat := l.ext.foldl (· * ·) 1
/-- HANDLE_STALE for a layout handle (R392). -/
def layStale (j : Job) (reason : Nat) (loc : W64) (lgen hgen : Nat) : FaultRec :=
  { code := 0x22, loc := loc.setWidth 128, aux := aux3 reason 0 0 0 0 j.fut lgen hgen }
def Layout.stale (l : Layout) (j : Job) (reason : Nat) : FaultRec := layStale j reason l.addr l.gen l.gen

/-- The four indices of a cursor (R254), and their position in cursor order if each is below its extent. -/
def cursorIx (c : W64) : List Nat := (List.range 4).map (fun k => c.toNat / 2 ^ (16 * k) % 65536)
def Layout.pos? (l : Layout) (c : W64) : Option Nat :=
  let i := cursorIx c
  if (List.range 4).all (fun k => decide (i.getD k 0 < l.ext.getD k 0)) then
    some (i.getD 0 0 + l.ext.getD 0 0 * (i.getD 1 0 + l.ext.getD 1 0 * (i.getD 2 0 + l.ext.getD 2 0 * i.getD 3 0)))
  else none
/-- Index k of a position. -/
def Layout.ixAt (l : Layout) (q k : Nat) : Nat := q / (l.ext.take k).foldl (· * ·) 1 % l.ext.getD k 1
/-- The cursor of a position, modulo N. -/
def Layout.cursor (l : Layout) (q : Nat) : W64 :=
  BitVec.ofNat 64 ((List.range 4).foldl (fun c k => c + l.ixAt (q % l.count) k * 2 ^ (16 * k)) 0)
/-- The address of the element at a position (R254). -/
def Layout.addrAt (l : Layout) (q : Nat) : W64 :=
  formAddr l.base (BitVec.ofInt 64 ((List.range 4).foldl (fun (x : Int) k => x + (l.ixAt (q % l.count) k : Int) * l.stride.getD k 0) 0))
/-- Addresses of n elements from a position. -/
def Layout.addrs (l : Layout) (q n : Nat) : List W64 := (List.range n).map (fun e => l.addrAt (q + e))
/-- Byte k of a tile after the bank swizzle (R255). -/
def swzByte (swz k : Nat) : Nat :=
  let j := k / 256
  let x := (if swz = 1 then j else if swz = 2 then j / 2 else if swz = 3 then j / 4 else 0) % 8
  256 * j + ((k % 256 / 32) ^^^ x) * 32 + k % 32

/-! ## A batten word -/

def batWord (s : State) (q : Guard) (k : Issue → Nat → Nat → Job → State) : Host.Outcome State Fault Refusal :=
  bword s q (fun iss c p => match s.job? c p with
    | none => s
    | some j => k iss c p j)
/-- A word's fault ends the job (R395). -/
def batFault (s : State) (iss : Issue) (r : FaultRec) : State := issueFault s iss [] r
/-- The record of a handle, read and checked (R253, R393). A handle is 32 bits (R252); the upper half of its register is not looked at (log 102). -/
def withLayout (s : State) (iss : Issue) (c : Nat) (j : Job) (h : W64) (k : State → Layout → State) : State :=
  let slot := h.toNat / 4096 % 2 ^ 20
  let gen := h.toNat % 4096
  let b := s.bay (s.bayOf c)
  if slot ≥ b.laySlots then batFault s iss (layStale j 1 0 0 gen)
  else
    let va := b.layBase + BitVec.ofNat 64 (64 * slot)
    withRead s iss va (opReadSecs s iss va 2 []) (fun s' x =>
      let l := layoutOf va (leNum x)
      if l.gen ≠ gen then batFault s' iss (layStale j 0 va l.gen gen)
      else if l.inRange then k s' l else batFault s' iss (layStale j 2 va l.gen gen))
/-- Where a cursor starts. -/
def withPos (s : State) (iss : Issue) (j : Job) (l : Layout) (cur : W64) (k : Nat → State) : State :=
  match l.pos? cur with
  | none => batFault s iss (l.stale j 3)
  | some x => k x

/-- A tile operand (R256). -/
def topArr (v : W64) : Option Nat := if v.getLsbD 63 then some (v.toNat / 2 ^ 48 % 1024) else none
def topOff (v : W64) : Nat := v.toNat / 2 ^ 32 % 65536
/-- Faults of a word's operands by themselves (R394): a tile operand, a count, an arrival's barrier. -/
def opndBad (s : State) (iss : Issue) (c : Nat) (j : Job) (top : Option W64) (n : Nat) (bar : Option Nat) : Option FaultRec :=
  if (match top with | some v => v.toNat / 2 ^ 58 % 32 != 0 | none => false) then some (encRec iss 0x02 0)
  else if n > 2 ^ 24 then some (encRec iss 0x02 5)
  else match bar with
    | some x => if ((s.block? c j.blk).getD {}).nbar ≤ x then some { code := 0x05, aux := aux0 0 iss.pos (barWord x 0 false) } else none
    | none => none
/-- The span of elements of n bytes (R258). -/
def spanOf (s : State) (b : Nat) (as : List W64) (n : Nat) (wr : Bool) : Option Lock :=
  match as.map (afterFrame s b) with
  | [] => none
  | a :: l => some { lo := l.foldl Nat.min a, hi := l.foldl Nat.max a + n - 1, wr := wr }

/-- Whether a transfer must wait: four in flight, or an earlier one whose ranges meet its own (R258). -/
def xferHeld (j : Job) (rd wr : Option Lock) : Bool := 4 ≤ (j.xfers.filter (fun x => !x.perf)).length || xferBlocks j rd wr
/-- Its place among the four. -/
def xferPlace (j : Job) : Nat := ((List.range 4).find? (fun k => !j.xfers.any (fun x => !x.perf && x.place == k))).getD 0
/-- A transfer of this issue with nothing to move. -/
def newXfer (iss : Issue) (j : Job) (k : XKind) (es : List XElem) (rd wr : Option Lock) : Xfer :=
  { id := iss.id, place := xferPlace j, kind := k, pc := iss.pc, elems := es, ent := none, swz := 0, arr := none,
    rd := rd.map (fun l => { l with iss := iss.id }), wr := wr.map (fun l => { l with iss := iss.id }), trans := false,
    replays := 0, sig := false, ridge := none, frame := none }
/-- A transfer starts: its ranges enter the table, the job goes on, its accesses are made (R258). -/
def startXfer (s : State) (iss : Issue) (c p : Nat) (x : Xfer) : State :=
  pump (skip (s.updJob c p (fun j => { j with xfers := j.xfers ++ [x] })) iss true) c p x.id

/-- The tile of a transfer: found, its bytes covered. -/
def withTile (s : State) (iss : Issue) (c : Nat) (j : Job) (v : W64) (n size : Nat) (k : Nat → Tile → State) : State :=
  let id : W32 := v.setWidth 32
  match tileNamed (s.core c) j.blk id j.fut with
  | .error r => batFault s iss r
  | .ok (e, t) =>
    if n ≠ 0 ∧ 32 * topOff v + n * size > 256 * t.len then batFault s iss (tileRec 2 (some t) t.tile (id.toNat / 2 ^ 20) j.fut)
    else k e t
def setTileSt (s : State) (c e : Nat) (st : TileSt) : State :=
  s.updCore c (fun co => match mget? co.tiles e with
    | some t => { co with tiles := mset co.tiles e { t with st := st } }
    | none => co)
/-- A fill (R258): held while the tile is filling or draining; it must be empty, and moves to filling. -/
def startFill (s : State) (iss : Issue) (c p : Nat) (j : Job) (v : W64) (l : Layout) (k : XKind) (es : List XElem) (rd : Option Lock) : State :=
  withTile s iss c j v es.length l.size (fun e t =>
    match t.st with
    | .ready => batFault s iss (tileRec 5 (some t) t.tile (v.toNat / 2 ^ 20 % 4096) j.fut)
    | .empty =>
      if xferHeld j rd none then s
      else startXfer (setTileSt s c e .filling) iss c p
        { newXfer iss j k es rd none with ent := some e, swz := l.swz, arr := topArr v, trans := true, tid := v.setWidth 32 }
    | _ => s)
/-- Tile bytes where elements still to be taken begin. -/
def tilePlaces (es : List XElem) : List Nat := es.filterMap (fun el => match el.src with | .tile k => some k | _ => none)
/-- An element's tile data in hand. -/
def XElem.take (t : Tile) (el : XElem) : XElem := match el.src with
  | .tile k => { el with src := .bytes (t.read k el.size) }
  | _ => el
/-- A drain (R258): held while the tile is filling; it must be ready, and moves to draining; a tile that drains gives REASON 4, which R393 lists for LDT and
STT (log 112). Every element but the last is taken now: the tile does not change while it drains. -/
def startDrain (s : State) (iss : Issue) (c p : Nat) (j : Job) (v : W64) (l : Layout) (k : XKind) (es : List XElem) (rd wr : Option Lock) : State :=
  withTile s iss c j v es.length l.size (fun e t =>
    let bad := fun (reason : Nat) => batFault s iss (tileRec reason (some t) t.tile (v.toNat / 2 ^ 20 % 4096) j.fut)
    match t.st with
    | .filling => s
    | .empty => bad 3
    | .draining => bad 4
    | .ready =>
      if xferHeld j rd wr then s
      else if es.any (fun el => match el.src with | .tile k => tileErr s c e k el.size | _ => false) then batFault s iss (unitRec 4)
      else reachBanks (startXfer (setTileSt s c e .draining) iss c p
        { newXfer iss j k (es.mapIdx (fun i el => if i + 1 = es.length then el else el.take t)) rd wr with
            ent := some e, swz := l.swz, arr := topArr v, trans := true, tid := v.setWidth 32 }) c p iss.id (tilePlaces es.dropLast))

/-- Count of a transfer (R257). -/
def countOf (j : Job) (b : Reg) : Nat := (j.u.rs b.toNat).toNat % 2 ^ 32
/-- Units of a tile that are written whole are good again (R379). -/
def tileWhole (s : State) (c e : Nat) (unit : Nat → Bool) : State :=
  { s with bad := s.bad.filter (fun u => match u with | .tile c' e' x => !(c' == c && e' == e && unit x) | _ => true) }
/-- Whether a transfer's elements cover 32 bytes of its tile. -/
def Xfer.covers (x : Xfer) (unit : Nat) : Bool :=
  32 ≤ x.elems.foldl (fun n el => match el.dst with | .tile k => if k / 32 = unit then n + el.size else n | _ => n) 0
/-- Tile place of element e of a transfer with a record. -/
def tileAt (v : W64) (l : Layout) (e : Nat) : XLoc := .tile (swzByte l.swz (32 * topOff v + e * l.size))

/-! ## The transfer words (R257, R259, R260) -/

def execBtld (q : Guard) (d a b : Reg) (s : State) : Host.Outcome State Fault Refusal :=
  batWord s q (fun iss c p j =>
    let n := countOf j b
    let v := j.u.rs d.toNat
    match opndBad s iss c j (some v) n (topArr v) with
    | some r => batFault s iss r
    | none => withLayout s iss c j (j.u.rs a.toNat) (fun s l => withPos s iss j l (j.u.rs (a.toNat + 1)) (fun x =>
        let as := l.addrs x n
        startFill s iss c p j v l .btld (as.mapIdx (fun e va => { src := .mem va, dst := tileAt v l e, size := l.size }))
          (spanOf s (s.bayOf c) as l.size false))))
def execBtst (q : Guard) (d a b : Reg) (s : State) : Host.Outcome State Fault Refusal :=
  batWord s q (fun iss c p j =>
    let n := countOf j b
    let v := j.u.rs a.toNat
    match opndBad s iss c j (some v) n (topArr v) with
    | some r => batFault s iss r
    | none => withLayout s iss c j (j.u.rs d.toNat) (fun s l => withPos s iss j l (j.u.rs (d.toNat + 1)) (fun x =>
        let as := l.addrs x n
        startDrain s iss c p j v l .btst (as.mapIdx (fun e va => { src := tileAt v l e, dst := .mem va, size := l.size }))
          none (spanOf s (s.bayOf c) as l.size true))))
/-- The index list of n places. R257 wants it 4-byte aligned and gives no fault for another: each index is then read as it lies, and one that crosses a
sector faults (log 101). -/
def indexList (list : W64) (n : Nat) : List W64 := (List.range n).map (fun e => formAddr list (BitVec.ofNat 64 (4 * e)))
def execBgath (q : Guard) (d a b : Reg) (s : State) : Host.Outcome State Fault Refusal :=
  batWord s q (fun iss c p j =>
    let n := countOf j b
    let v := j.u.rs d.toNat
    match opndBad s iss c j (some v) n (topArr v) with
    | some r => batFault s iss r
    | none => withLayout s iss c j (j.u.rs a.toNat) (fun s l =>
        let ix := indexList (j.u.rs (a.toNat + 1)) n
        startFill s iss c p j v l .bgath (ix.mapIdx (fun e va => { src := .index va l.base (l.stride.getD 0 0), dst := tileAt v l e, size := l.size }))
          (spanOf s (s.bayOf c) ix 4 false)))
def execBscat (q : Guard) (d a b : Reg) (s : State) : Host.Outcome State Fault Refusal :=
  batWord s q (fun iss c p j =>
    let n := countOf j b
    let v := j.u.rs a.toNat
    match opndBad s iss c j (some v) n (topArr v) with
    | some r => batFault s iss r
    | none => withLayout s iss c j (j.u.rs d.toNat) (fun s l =>
        let ix := indexList (j.u.rs (d.toNat + 1)) n
        startDrain s iss c p j v l .bscat (ix.mapIdx (fun e va => { src := tileAt v l e, dst := .index va l.base (l.stride.getD 0 0), size := l.size }))
          (spanOf s (s.bayOf c) ix 4 false) none))
/-- Elements from addresses to addresses. -/
def copyElems (src dst : List W64) (n : Nat) : List XElem := (src.zip dst).map (fun e => { src := .mem e.1, dst := .mem e.2, size := n })
def execBcopy (q : Guard) (d a b : Reg) (s : State) : Host.Outcome State Fault Refusal :=
  batWord s q (fun iss c p j =>
    let n := countOf j b
    match opndBad s iss c j none n none with
    | some r => batFault s iss r
    | none => withLayout s iss c j (j.u.rs d.toNat) (fun s ld => withLayout s iss c j (j.u.rs a.toNat) (fun s la =>
        if ld.esz ≠ la.esz then batFault s iss (ld.stale j 4)
        else withPos s iss j ld (j.u.rs (d.toNat + 1)) (fun xd => withPos s iss j la (j.u.rs (a.toNat + 1)) (fun xa =>
          let src := la.addrs xa n
          let dst := ld.addrs xd n
          let rd := spanOf s (s.bayOf c) src la.size false
          let wr := spanOf s (s.bayOf c) dst ld.size true
          if xferHeld j rd wr then s else startXfer s iss c p (newXfer iss j .bcopy (copyElems src dst la.size) rd wr))))))
def execBrem (q : Guard) (d a b : Reg) (s : State) : Host.Outcome State Fault Refusal :=
  batWord s q (fun iss c p j =>
    let n := countOf j b
    let base := j.u.rs d.toNat
    let ctl := j.u.rs (d.toNat + 1)
    let rt := ctl.getLsbD 8
    if ctl.toNat / 2 ^ 10 ≠ 0 then batFault s iss (encRec iss 0x02 0)
    else match opndBad s iss c j none n none with
    | some r => batFault s iss r
    | none => withLayout s iss c j (j.u.rs a.toNat) (fun s l => withPos s iss j l (j.u.rs (a.toNat + 1)) (fun x =>
        if rt && classAddr base != .peer then batFault s iss (accRec base 0x11 6 0 .bwrite l.size 0)
        else
          let src := l.addrs x n
          let dst := (List.range n).map (fun e => formAddr base (BitVec.ofNat 64 (e * l.size)))
          let rd := spanOf s (s.bayOf c) src l.size false
          let wr := spanOf s (s.bayOf c) dst l.size true
          if xferHeld j rd wr then s
          else startXfer s iss c p { newXfer iss j .brem (copyElems src dst l.size) rd wr with
            sig := ctl.getLsbD 9, ridge := if rt then some (ctl.toNat % 256) else none })))

/-- The pieces of a BFETCH: each in one sector of the source and of the destination. -/
def fetchPieces (src dst : W64) : Nat → Nat → Nat → List XElem
  | 0, _, _ => []
  | k + 1, i, n =>
    if i ≥ n then []
    else
      let a := formAddr src (BitVec.ofNat 64 i)
      let b := dst + BitVec.ofNat 64 i
      let m := Nat.min (n - i) (Nat.min (32 - a.toNat % 32) (32 - b.toNat % 32))
      { src := .mem a, dst := .mem b, size := m } :: fetchPieces src dst k (i + m) n
def execBfetch (q : Guard) (d a : Reg) (s : State) : Host.Outcome State Fault Refusal :=
  batWord s q (fun iss c p j =>
    let f := (j.u.rs d.toNat).toNat % 2 ^ 22
    let b := s.bayOf c
    if !j.prv then batFault s iss (encRec iss 0x03 0)
    else match frameBad s b f with
    | some src => eccAt s (uniAgent iss) iss.pc [] (j.u.rs a.toNat) src false
    | none =>
    if (s.bay b).fcnt ≤ f ∨ frameState s b f ≠ 1 then batFault s iss (encRec iss 0x02 5)
    else
      let n := frameLen s b f
      let es := fetchPieces (j.u.rs a.toNat) (frameBase s b f) n 0 n
      let lo := afterFrame s b (j.u.rs a.toNat)
      let rd : Lock := { lo := lo, hi := lo + n - 1, wr := false }
      let wr : Lock := { lo := (frameBase s b f).toNat, hi := (frameBase s b f).toNat + n - 1, wr := true }
      if xferHeld j (some rd) (some wr) then s
      else startXfer (s.updJob c p (fun j => { j with frames := j.frames ++ [f] })) iss c p { newXfer iss j .bfetch es (some rd) (some wr) with frame := some f })
def execBaccd (q : Guard) (d a b : Reg) (s : State) : Host.Outcome State Fault Refusal :=
  batWord s q (fun iss c p j =>
    let n := countOf j b
    let r := (j.u.rs a.toNat).toNat % 1024
    match opndBad s iss c j none n none with
    | some r => batFault s iss r
    | none =>
      -- a count of 0 names no row (R394)
      if n ≠ 0 ∧ r + n > 64 * ((s.block? c j.blk).getD {}).accu then batFault s iss (encRec iss 0x02 5)
      else withLayout s iss c j (j.u.rs d.toNat) (fun s l =>
        if l.esz ≠ 2 then batFault s iss (l.stale j 4)
        else withPos s iss j l (j.u.rs (d.toNat + 1)) (fun x =>
          let dst := l.addrs x (64 * n)
          let wr := spanOf s (s.bayOf c) dst 4 true
          if xferHeld j none wr then s
          else startXfer s iss c p (newXfer iss j .baccd (dst.mapIdx (fun e va => { src := .tile (64 * r + e), dst := .mem va, size := 4 })) none wr))))

def execBtset (q : Guard) (d a : Reg) (s : State) : Host.Outcome State Fault Refusal :=
  batWord s q (fun iss c p j =>
    let v := j.u.rs d.toNat
    match opndBad s iss c j (some v) 0 (topArr v) with
    | some r => batFault s iss r
    | none => withTile s iss c j v 0 1 (fun e t =>
        match t.st with
        | .ready => batFault s iss (tileRec 5 (some t) t.tile (v.toNat / 2 ^ 20 % 4096) j.fut)
        | .empty =>
          -- it is a transfer too: a fifth holds the job (R258)
          if xferHeld j none none then s
          else
          let s := addConflicts s c p (if banksOf s c p = 0 then 0 else 8 * t.len)
          let x := (natBytes 8 (j.u.rs a.toNat).toNat)
          let t' := { t with st := .ready, data := (List.range (256 * t.len)).map (fun k => (k, x.getD (k % 8) 0)) }
          let s := skip (tileWhole (s.updCore c (fun co => { co with tiles := mset co.tiles e t' })) c e (fun _ => true)) iss true
          (match topArr v with
           | some n => arrive s c j.blk n
           | none => s)
        | _ => s))

/-- BSTEP (R254). -/
def execBstep (q : Guard) (d b : Reg) (s : State) : Host.Outcome State Fault Refusal :=
  batWord s q (fun iss c p j =>
    withLayout s iss c j (j.u.rs d.toNat) (fun s l => withPos s iss j l (j.u.rs (d.toNat + 1)) (fun x =>
      skip (s.updJob c p (fun j => { j with u := j.u.ws (d.toNat + 1) (l.cursor (x + countOf j b)) })) iss true)))

/-! ## Explicit locks (R261) -/

def execBlock (q : Guard) (d a b : Reg) (s : State) : Host.Outcome State Fault Refusal :=
  batWord s q (fun iss c p j =>
    match (List.range 8).find? (fun k => (mget? j.locks k).isNone) with
    | none => batFault s iss (encRec iss 0x02 5)
    | some k =>
      let x := j.u.rs b.toNat
      let n := x.toNat % 2 ^ 48
      let lo := afterFrame s (s.bayOf c) (j.u.rs a.toNat)
      -- an empty range meets no access
      let l : Lock := if n = 0 then { lo := 2 ^ 65, hi := 0, wr := x.getLsbD 63, iss := iss.id }
        else { lo := lo, hi := lo + n - 1, wr := x.getLsbD 63, iss := iss.id }
      skip (s.updJob c p (fun j => { j with locks := mset j.locks k l, u := j.u.ws d.toNat (BitVec.ofNat 64 k) })) iss true)
def execBunlk (q : Guard) (a : Reg) (s : State) : Host.Outcome State Fault Refusal :=
  batWord s q (fun iss c p _ => skip (s.updJob c p (fun j => { j with locks := mdel j.locks ((j.u.rs a.toNat).toNat % 8) })) iss true)

/-! ## BDONE (R262) -/

/-- The frames a job was filling become resident (R106); an entry that cannot be read contains the bay (R379). -/
def frameDone (b : Nat) (s : State) (f : Nat) : State :=
  match frameBad s b f with
  | some src => contain s b (some { eccRec 0 src with tflt := s.t, async := true })
  | none => if frameState s b f = 1 then frameResident (setFrameState s b f 2) b f else s
def execBdone (q : Guard) (a b : Reg) (s : State) : Host.Outcome State Fault Refusal :=
  batWord s q (fun iss c p j =>
    let x := j.u.rs b.toNat
    let bar := if x.getLsbD 63 then some (x.toNat % 1024) else none
    match opndBad s iss c j none 0 bar with
    | some r => batFault s iss r
    | none =>
      if j.xfers.any (fun x => !x.perf || x.trans) || !relPassed s (.job c p) 7 then s
      else
        let v := j.u.rs a.toNat
        let s := { s with accs := s.accs.filter (fun a => !(a.ag == Agent.job c p)) }
        let s := s.updProc c p (fun pr => { pr with job := none })
        let s := resolveFut s c j.fut v
        let s := j.frames.foldl (frameDone (s.bayOf c)) s
        match bar with
        | some n => arrive s c j.blk n
        | none => s)

/-! ## Steps of the processors and of transfers -/

/-- A processor without a job starts the next of its queue (R248). -/
def execBattenJobStart (core proc : Nat) (s : State) : Host.Outcome State Fault Refusal :=
  .next (match (s.proc core proc).job, (s.proc core proc).queue with
    | none, r :: rest =>
      let j : Job := { fut := r.fut, blk := r.blk, slot := r.slot, prv := r.prv, pc := r.pc, u := { s := r.args.mapIdx (fun i x => (i, x)) } }
      (s.updProc core proc (fun pr => { pr with queue := rest, job := some j })).updCore core (fun co => match mget? co.futs r.fut with
        | some f => { co with futs := mset co.futs r.fut { f with st := .running } }
        | none => co)
    | _, _ => s)

/-- An element's accesses have all been performed. -/
def elemPerformed (s : State) (c p : Nat) (x : Xfer) (e : Nat) (el : XElem) : Bool :=
  let mine := fun (a : Access) => a.ag == .job c p && a.dest == .xfer x.id e && !a.ph.unperformed
  match el.ph with
  | .done => true
  | .write => s.accs.any mine
  | .read => (match el.dst with | .tile _ => s.accs.any mine | _ => false)
  | _ => false
/-- A transfer that is performed and has no tile transition left ends. -/
def dropXfer (s : State) (c p id : Nat) : State :=
  s.updJob c p (fun j => { j with xfers := j.xfers.filter (fun x => !(x.id == id && x.perf && !x.trans)) })
/-- Accumulator element k of the job's block is read as the element e of its transfer: one step (R243, R259). A row that cannot be read contains the bay
(R379). -/
def readRow (s : State) (c p : Nat) (x : Xfer) (e k : Nat) : State :=
  let blk := ((s.job? c p).map (·.blk)).getD 512
  if rowErr s c blk k 1 then jobFault s c p x.pc (unitRec 5)
  else
    let rows := ((s.block? c blk).getD {}).rows
    pump (setElem s c p x.id e (fun el => { el with src := .bytes (natBytes 4 (mget rows k 0).toNat) })) c p x.id

/-- The transfer is performed: its range-lock entries are removed. A BACCD with elements still to read reads the next of them. -/
def execTransferPerformed (core proc xfer : Nat) (s : State) : Host.Outcome State Fault Refusal :=
  .next (match xferOf s core proc xfer with
    | none => s
    | some x =>
      match (if x.kind = .baccd then (x.elems.mapIdx (fun e el => (e, el))).findSome? (fun y => match y.2.src with
          | .tile k => some (y.1, k)
          | _ => none) else none) with
      | some (e, k) => readRow s core proc x e k
      | none =>
        if (List.range x.elems.length).all (fun e => match x.elems[e]? with
          | some el => elemPerformed s core proc x e el
          | none => true)
        then dropXfer (updXfer s core proc xfer (fun x => { x with perf := true, rd := none, wr := none })) core proc xfer
        else s)

/-- A tile transition with its arrival. -/
def tileStep (s : State) (c p : Nat) (x : Xfer) (e : Nat) (st : TileSt) : State :=
  let blk := ((s.job? c p).map (·.blk)).getD 0
  let s := updXfer (setTileSt s c e st) c p x.id (fun x => { x with trans := false })
  match x.arr with
  | some n => arrive s c blk n
  | none => s
def execTileFillComplete (core proc xfer : Nat) (s : State) : Host.Outcome State Fault Refusal :=
  .next (match xferOf s core proc xfer with
    | none => s
    | some x => match x.ent with
      | none => s
      | some e =>
        if x.trans && (x.kind == .btld || x.kind == .bgath) && x.elems.all (·.ph == .done) then
          dropXfer (tileStep (tileWhole s core e x.covers) core proc x e .ready) core proc xfer
        else s)
def execTileDrainComplete (core proc xfer : Nat) (s : State) : Host.Outcome State Fault Refusal :=
  .next (match xferOf s core proc xfer with
    | none => s
    | some x => match x.ent, xferTile s core x with
      | some e, some t =>
        if x.trans && (x.kind == .btst || x.kind == .bscat) then
          if x.elems.any (fun el => match el.src with | .tile k => tileErr s core e k el.size | _ => false) then jobFault s core proc x.pc (unitRec 4)
          else
          let s := reachBanks (updXfer s core proc xfer (fun x => { x with elems := x.elems.map (·.take t) })) core proc xfer (tilePlaces x.elems)
          pump (dropXfer (tileStep s core proc x e .empty) core proc xfer) core proc xfer
        else s
      | _, _ => s)

/-- The first element of the sector that an access reads. -/
def sectorFirst (x : Xfer) (a : Access) : W64 :=
  ((x.elems.findSome? (fun el => match el.src with
    | .mem va => if va.toNat / 32 = a.form.toNat / 32 then some va else none
    | _ => none)).getD a.form)
/-- A fill's packet or sector fails its check (R397): requested again up to 4 times, then TILE_INTEGRITY. A local sector fails while it cannot be
corrected; a packet's tag fails as the fabric has it. -/
def execTileIntegrityReplay (core proc xfer acc : Nat) (s : State) : Host.Outcome State Fault Refusal :=
  .next (match xferOf s core proc xfer, s.accs.find? (·.id == acc) with
    | some x, some a =>
      if !fillRead s a || a.ag != .job core proc then s
      else
        let local' := match a.ph with
          | .flight d => !isPeer d && (badSector s (canonPa s d / 32)).isSome
          | _ => false
        let remote := match a.ph with | .remote t => some t | _ => none
        if !local' && remote.isNone then s
        else if x.replays < 4 then
          let s := updXfer s core proc xfer (fun x => { x with replays := x.replays + 1 })
          match remote with
          | some t => sendLoads { s with txns := mdel s.txns t } a (sortAccs (s.accs.filter (fun x => x.ph == .remote t))) a.ea.toNat
          | none => s
        else
          let t := xferTile s core x
          -- without room for the record the job waits (R395)
          if !recRoom s core then { s with accs := s.accs.map (fun y => if y.id = acc then { y with stuck := true } else y) }
          else jobFault s core proc x.pc {
            code := 0x21, loc := (sectorFirst x a).setWidth 128,
            aux := aux3 (if local' then 1 else 0) 0 4 ((t.map (fun t => tileNum t.st)).getD 0) ((t.map (·.tile)).getD 0)
              (((s.job? core proc).map (·.fut)).getD 0) ((t.map (fun t => t.gen.toNat)).getD 0) (x.tid.toNat / 2 ^ 20) }
    | _, _ => s)

end Sys2Proof.Machine
end

