-- ==== Sys2Proof/WellFormed.lean ====
section
/-! DEFINITION. A well-formed instruction word: no field that must be zero is set, every register group stands at a number its
kind allows, and no scope code is reserved (R150, R190, R212, R346). Whether the agent may execute the word, and whether its
registers lie below VREGS, depends on who issues it and is checked when it issues. -/

namespace Sys2Proof

/-- No field of the word breaks its entry (R346, last row). -/
def Instr.wellFormed (i : Instr) : Bool := (Machine.fieldFaults i).isEmpty

end Sys2Proof
end

