-- ==== Sys2Proof/Decode.lean ====
section
/-! DEFINITION. The decoder: any words to an instruction or a refusal by name, after the formats and opcode maps of spec/07
(R140 to R144, R153 to R155) and the entries' own layouts; and, after it, the encoder from the same tables. A word is read as a number;
`fld w lo n` is its bits lo + n - 1 down to lo. (The section is noncomputable only because compiled code has no room for
413 constructor tags; the kernel evaluates every definition here.) -/

namespace Sys2Proof

noncomputable section

/-- Bits lo + n - 1 down to lo of a number (R3). -/
def fld (w lo n : Nat) : Nat := w / 2 ^ lo % 2 ^ n

/-- The same bits as a field. -/
def bf (w lo n : Nat) : BitVec n := BitVec.ofNat n (fld w lo n)

/-- What a word is: an instruction; an instruction one of whose fixed zero fields is not zero (RESERVED_FIELD, REASON 0); or no instruction,
with the REASON of ILLEGAL_WORD (R346, R347: 0 reserved major, 1 reserved FN). -/
inductive Dec where
  | ok (i : Instr)
  | bad (i : Instr)
  | illegal (reason : Nat)
  deriving DecidableEq, Repr

/-- An instruction whose remaining fixed fields are as the layout says, or not. -/
def chk (b : Bool) (i : Instr) : Dec := if b then .ok i else .bad i

/-- The address word of R142. -/
def decAddr (w : Nat) : AddrWord := ⟨bf w 28 4, bf w 26 2, bf w 25 1, bf w 24 1, bf w 16 8, bf w 0 16⟩

/-- Load size codes of R154 and R155. -/
def decLd : Nat → Option LdSize
  | 0 => some .z8 | 1 => some .s8 | 2 => some .z16 | 3 => some .s16 | 4 => some .b32 | 5 => some .b64 | 6 => some .b128 | _ => none

/-- Store size codes of R154 and R155. -/
def decSt : Nat → Option StSize
  | 0 => some .b8 | 2 => some .b16 | 4 => some .b32 | 5 => some .b64 | 6 => some .b128 | _ => none

/-- L-set major 0x00 (R153, R154). -/
def decL00 (w : Nat) : Dec :=
  match fld w 0 5 with
  | 0 => .ok (.add (bf w 23 3) (bf w 17 6) (bf w 11 6) (bf w 5 6))
  | 1 => .ok (.sub (bf w 23 3) (bf w 17 6) (bf w 11 6) (bf w 5 6))
  | 2 => .ok (.and (bf w 23 3) (bf w 17 6) (bf w 11 6) (bf w 5 6))
  | 3 => .ok (.or (bf w 23 3) (bf w 17 6) (bf w 11 6) (bf w 5 6))
  | 4 => .ok (.xor (bf w 23 3) (bf w 17 6) (bf w 11 6) (bf w 5 6))
  | 5 => .ok (.andn (bf w 23 3) (bf w 17 6) (bf w 11 6) (bf w 5 6))
  | 6 => .ok (.shl (bf w 23 3) (bf w 17 6) (bf w 11 6) (bf w 5 6))
  | 7 => .ok (.shr (bf w 23 3) (bf w 17 6) (bf w 11 6) (bf w 5 6))
  | 8 => .ok (.sar (bf w 23 3) (bf w 17 6) (bf w 11 6) (bf w 5 6))
  | 9 => .ok (.min (bf w 23 3) (bf w 17 6) (bf w 11 6) (bf w 5 6))
  | 10 => .ok (.max (bf w 23 3) (bf w 17 6) (bf w 11 6) (bf w 5 6))
  | 11 => .ok (.minui (bf w 23 3) (bf w 17 6) (bf w 11 6) (bf w 5 6))
  | 12 => .ok (.maxui (bf w 23 3) (bf w 17 6) (bf w 11 6) (bf w 5 6))
  | 13 => chk (fld w 5 6 == 0) (.abs (bf w 23 3) (bf w 17 6) (bf w 11 6))
  | 14 => chk (fld w 5 6 == 0) (.neg (bf w 23 3) (bf w 17 6) (bf w 11 6))
  | _ => .illegal 1

/-- L-set major 0x01 (R153, R154). -/
def decL01 (w : Nat) : Dec :=
  match fld w 0 5 with
  | 0 => .ok (.mul (bf w 23 3) (bf w 17 6) (bf w 11 6) (bf w 5 6))
  | 1 => .ok (.mulhi (bf w 23 3) (bf w 17 6) (bf w 11 6) (bf w 5 6))
  | 2 => .ok (.mulhiu (bf w 23 3) (bf w 17 6) (bf w 11 6) (bf w 5 6))
  | 3 => .ok (.mad (bf w 23 3) (bf w 17 6) (bf w 11 6) (bf w 5 6))
  | 4 => chk (fld w 5 6 == 0) (.popc (bf w 23 3) (bf w 17 6) (bf w 11 6))
  | 5 => chk (fld w 5 6 == 0) (.clz (bf w 23 3) (bf w 17 6) (bf w 11 6))
  | 6 => chk (fld w 5 6 == 0) (.brev (bf w 23 3) (bf w 17 6) (bf w 11 6))
  | 7 => .ok (.bfx (bf w 23 3) (bf w 17 6) (bf w 11 6) (bf w 5 6))
  | 8 => .ok (.bfi (bf w 23 3) (bf w 17 6) (bf w 11 6) (bf w 5 6))
  | _ => .illegal 1

/-- L-set major 0x02 (R153, R154). -/
def decL02 (w : Nat) : Dec :=
  match fld w 0 5 with
  | 0 => chk (fld w 20 3 == 0) (.icmpEq (bf w 23 3) (bf w 17 3) (bf w 11 6) (bf w 5 6))
  | 1 => chk (fld w 20 3 == 0) (.icmpNe (bf w 23 3) (bf w 17 3) (bf w 11 6) (bf w 5 6))
  | 2 => chk (fld w 20 3 == 0) (.icmpLt (bf w 23 3) (bf w 17 3) (bf w 11 6) (bf w 5 6))
  | 3 => chk (fld w 20 3 == 0) (.icmpLe (bf w 23 3) (bf w 17 3) (bf w 11 6) (bf w 5 6))
  | 4 => chk (fld w 20 3 == 0) (.icmpGt (bf w 23 3) (bf w 17 3) (bf w 11 6) (bf w 5 6))
  | 5 => chk (fld w 20 3 == 0) (.icmpGe (bf w 23 3) (bf w 17 3) (bf w 11 6) (bf w 5 6))
  | 6 => chk (fld w 20 3 == 0) (.icmpLtui (bf w 23 3) (bf w 17 3) (bf w 11 6) (bf w 5 6))
  | 7 => chk (fld w 20 3 == 0) (.icmpLeui (bf w 23 3) (bf w 17 3) (bf w 11 6) (bf w 5 6))
  | 8 => chk (fld w 20 3 == 0) (.icmpGtui (bf w 23 3) (bf w 17 3) (bf w 11 6) (bf w 5 6))
  | 9 => chk (fld w 20 3 == 0) (.icmpGeui (bf w 23 3) (bf w 17 3) (bf w 11 6) (bf w 5 6))
  | 16 => chk (fld w 8 3 == 0 && fld w 14 3 == 0 && fld w 20 3 == 0) (.pand (bf w 23 3) (bf w 17 3) (bf w 11 3) (bf w 5 3))
  | 17 => chk (fld w 8 3 == 0 && fld w 14 3 == 0 && fld w 20 3 == 0) (.por (bf w 23 3) (bf w 17 3) (bf w 11 3) (bf w 5 3))
  | 18 => chk (fld w 8 3 == 0 && fld w 14 3 == 0 && fld w 20 3 == 0) (.pxor (bf w 23 3) (bf w 17 3) (bf w 11 3) (bf w 5 3))
  | 19 => chk (fld w 8 3 == 0 && fld w 14 3 == 0 && fld w 20 3 == 0) (.pandn (bf w 23 3) (bf w 17 3) (bf w 11 3) (bf w 5 3))
  | 20 => chk (fld w 5 6 == 0 && fld w 14 3 == 0 && fld w 20 3 == 0) (.pnot (bf w 23 3) (bf w 17 3) (bf w 11 3))
  | 21 => chk (fld w 5 6 == 0 && fld w 14 3 == 0) (.p2v (bf w 23 3) (bf w 17 6) (bf w 11 3))
  | 22 => chk (fld w 5 6 == 0 && fld w 20 3 == 0) (.v2p (bf w 23 3) (bf w 17 3) (bf w 11 6))
  | _ => .illegal 1

/-- L-set major 0x03 (R153, R154). -/
def decL03 (w : Nat) : Dec :=
  .ok (.addi (bf w 23 3) (bf w 17 6) (bf w 11 6) (bf w 0 11))

/-- L-set major 0x04 (R153, R154). -/
def decL04 (w : Nat) : Dec :=
  .ok (.andi (bf w 23 3) (bf w 17 6) (bf w 11 6) (bf w 0 11))

/-- L-set major 0x05 (R153, R154). -/
def decL05 (w : Nat) : Dec :=
  .ok (.ori (bf w 23 3) (bf w 17 6) (bf w 11 6) (bf w 0 11))

/-- L-set major 0x06 (R153, R154). -/
def decL06 (w : Nat) : Dec :=
  .ok (.xori (bf w 23 3) (bf w 17 6) (bf w 11 6) (bf w 0 11))

/-- L-set major 0x07 (R153, R154). -/
def decL07 (w : Nat) : Dec :=
  match fld w 9 2 with
  | 0 => chk (fld w 5 4 == 0) (.shli (bf w 23 3) (bf w 17 6) (bf w 11 6) (bf w 0 5))
  | 1 => chk (fld w 5 4 == 0) (.shri (bf w 23 3) (bf w 17 6) (bf w 11 6) (bf w 0 5))
  | 2 => chk (fld w 5 4 == 0) (.sari (bf w 23 3) (bf w 17 6) (bf w 11 6) (bf w 0 5))
  | 3 => chk (fld w 5 4 == 0) (.roli (bf w 23 3) (bf w 17 6) (bf w 11 6) (bf w 0 5))
  | _ => .illegal 1

/-- L-set major 0x08 (R153, R154). -/
def decL08 (w : Nat) : Dec :=
  match fld w 16 1 with
  | 0 => .ok (.mov16 (bf w 23 3) (bf w 17 6) (bf w 0 16))
  | 1 => .ok (.mov16Hi (bf w 23 3) (bf w 17 6) (bf w 0 16))
  | _ => .illegal 1

/-- L-set major 0x09 (R153, R154). -/
def decL09 (w : Nat) : Dec :=
  match fld w 0 5 with
  | 0 => .ok (.add64 (bf w 23 3) (bf w 17 6) (bf w 11 6) (bf w 5 6))
  | 1 => .ok (.sub64 (bf w 23 3) (bf w 17 6) (bf w 11 6) (bf w 5 6))
  | 2 => .ok (.padd (bf w 23 3) (bf w 17 6) (bf w 11 6) (bf w 5 6))
  | 3 => .ok (.shl64 (bf w 23 3) (bf w 17 6) (bf w 11 6) (bf w 5 6))
  | 4 => .ok (.shr64 (bf w 23 3) (bf w 17 6) (bf w 11 6) (bf w 5 6))
  | 5 => .ok (.sar64 (bf w 23 3) (bf w 17 6) (bf w 11 6) (bf w 5 6))
  | 6 => .ok (.mulw (bf w 23 3) (bf w 17 6) (bf w 11 6) (bf w 5 6))
  | 7 => .ok (.mulwui (bf w 23 3) (bf w 17 6) (bf w 11 6) (bf w 5 6))
  | 8 => chk (fld w 5 6 == 0) (.mov64 (bf w 23 3) (bf w 17 6) (bf w 11 6))
  | _ => .illegal 1

/-- L-set major 0x0A (R153, R154). -/
def decL0A (w : Nat) : Dec :=
  match fld w 0 5 with
  | 0 => chk (fld w 5 6 == 0) (.mov (bf w 23 3) (bf w 17 6) (bf w 11 6))
  | 8 => .ok (.sel (bf w 23 3) (bf w 17 6) (bf w 11 6) (bf w 5 6) (bf w 0 3))
  | 9 => .ok (.sel (bf w 23 3) (bf w 17 6) (bf w 11 6) (bf w 5 6) (bf w 0 3))
  | 10 => .ok (.sel (bf w 23 3) (bf w 17 6) (bf w 11 6) (bf w 5 6) (bf w 0 3))
  | 11 => .ok (.sel (bf w 23 3) (bf w 17 6) (bf w 11 6) (bf w 5 6) (bf w 0 3))
  | 12 => .ok (.sel (bf w 23 3) (bf w 17 6) (bf w 11 6) (bf w 5 6) (bf w 0 3))
  | 13 => .ok (.sel (bf w 23 3) (bf w 17 6) (bf w 11 6) (bf w 5 6) (bf w 0 3))
  | 14 => .ok (.sel (bf w 23 3) (bf w 17 6) (bf w 11 6) (bf w 5 6) (bf w 0 3))
  | 15 => .ok (.sel (bf w 23 3) (bf w 17 6) (bf w 11 6) (bf w 5 6) (bf w 0 3))
  | 1 => .ok (.pick (bf w 23 3) (bf w 17 6) (bf w 11 6) (bf w 5 6))
  | 2 => .ok (.rotu (bf w 23 3) (bf w 17 6) (bf w 11 6) (bf w 5 6))
  | 3 => .ok (.rotd (bf w 23 3) (bf w 17 6) (bf w 11 6) (bf w 5 6))
  | 4 => .ok (.bfly (bf w 23 3) (bf w 17 6) (bf w 11 6) (bf w 5 6))
  | 5 => chk (fld w 5 6 == 0 && fld w 14 3 == 0 && fld w 20 3 == 0) (.lany (bf w 23 3) (bf w 17 3) (bf w 11 3))
  | 6 => chk (fld w 5 6 == 0 && fld w 14 3 == 0 && fld w 20 3 == 0) (.lall (bf w 23 3) (bf w 17 3) (bf w 11 3))
  | 7 => chk (fld w 5 6 == 0 && fld w 14 3 == 0) (.lmask (bf w 23 3) (bf w 17 6) (bf w 11 3))
  | 16 => chk (fld w 5 6 == 0) (.combAdd (bf w 23 3) (bf w 17 6) (bf w 11 6))
  | 17 => chk (fld w 5 6 == 0) (.combMin (bf w 23 3) (bf w 17 6) (bf w 11 6))
  | 18 => chk (fld w 5 6 == 0) (.combMax (bf w 23 3) (bf w 17 6) (bf w 11 6))
  | 19 => chk (fld w 5 6 == 0) (.combMinui (bf w 23 3) (bf w 17 6) (bf w 11 6))
  | 20 => chk (fld w 5 6 == 0) (.combMaxui (bf w 23 3) (bf w 17 6) (bf w 11 6))
  | 21 => chk (fld w 5 6 == 0) (.combAnd (bf w 23 3) (bf w 17 6) (bf w 11 6))
  | 22 => chk (fld w 5 6 == 0) (.combOr (bf w 23 3) (bf w 17 6) (bf w 11 6))
  | 23 => chk (fld w 5 6 == 0) (.combXor (bf w 23 3) (bf w 17 6) (bf w 11 6))
  | _ => .illegal 1

/-- L-set major 0x0B (R153, R154). -/
def decL0B (w : Nat) : Dec :=
  match fld w 0 5 with
  | 0 => .ok (.fadd (bf w 23 3) (bf w 17 6) (bf w 11 6) (bf w 5 6))
  | 1 => .ok (.fsub (bf w 23 3) (bf w 17 6) (bf w 11 6) (bf w 5 6))
  | 2 => .ok (.fmul (bf w 23 3) (bf w 17 6) (bf w 11 6) (bf w 5 6))
  | 3 => .ok (.ffma (bf w 23 3) (bf w 17 6) (bf w 11 6) (bf w 5 6))
  | 4 => .ok (.fmin (bf w 23 3) (bf w 17 6) (bf w 11 6) (bf w 5 6))
  | 5 => .ok (.fmax (bf w 23 3) (bf w 17 6) (bf w 11 6) (bf w 5 6))
  | 6 => chk (fld w 5 6 == 0) (.fabs (bf w 23 3) (bf w 17 6) (bf w 11 6))
  | 7 => chk (fld w 5 6 == 0) (.fneg (bf w 23 3) (bf w 17 6) (bf w 11 6))
  | 8 => .ok (.fcpys (bf w 23 3) (bf w 17 6) (bf w 11 6) (bf w 5 6))
  | _ => .illegal 1

/-- L-set major 0x0C (R153, R154). -/
def decL0C (w : Nat) : Dec :=
  match fld w 0 5 with
  | 0 => chk (fld w 20 3 == 0) (.fcmpEq (bf w 23 3) (bf w 17 3) (bf w 11 6) (bf w 5 6))
  | 1 => chk (fld w 20 3 == 0) (.fcmpNe (bf w 23 3) (bf w 17 3) (bf w 11 6) (bf w 5 6))
  | 2 => chk (fld w 20 3 == 0) (.fcmpLt (bf w 23 3) (bf w 17 3) (bf w 11 6) (bf w 5 6))
  | 3 => chk (fld w 20 3 == 0) (.fcmpLe (bf w 23 3) (bf w 17 3) (bf w 11 6) (bf w 5 6))
  | 4 => chk (fld w 20 3 == 0) (.fcmpGt (bf w 23 3) (bf w 17 3) (bf w 11 6) (bf w 5 6))
  | 5 => chk (fld w 20 3 == 0) (.fcmpGe (bf w 23 3) (bf w 17 3) (bf w 11 6) (bf w 5 6))
  | 6 => chk (fld w 20 3 == 0) (.fcmpUnord (bf w 23 3) (bf w 17 3) (bf w 11 6) (bf w 5 6))
  | 7 => chk (fld w 20 3 == 0) (.fcmpOrd (bf w 23 3) (bf w 17 3) (bf w 11 6) (bf w 5 6))
  | _ => .illegal 1

/-- L-set major 0x0D (R153, R154). -/
def decL0D (w : Nat) : Dec :=
  match fld w 0 5 with
  | 0 => .ok (.addF16x2 (bf w 23 3) (bf w 17 6) (bf w 11 6) (bf w 5 6))
  | 1 => .ok (.subF16x2 (bf w 23 3) (bf w 17 6) (bf w 11 6) (bf w 5 6))
  | 2 => .ok (.mulF16x2 (bf w 23 3) (bf w 17 6) (bf w 11 6) (bf w 5 6))
  | 3 => .ok (.fmaF16x2 (bf w 23 3) (bf w 17 6) (bf w 11 6) (bf w 5 6))
  | 4 => .ok (.minF16x2 (bf w 23 3) (bf w 17 6) (bf w 11 6) (bf w 5 6))
  | 5 => .ok (.maxF16x2 (bf w 23 3) (bf w 17 6) (bf w 11 6) (bf w 5 6))
  | 16 => .ok (.addBf16x2 (bf w 23 3) (bf w 17 6) (bf w 11 6) (bf w 5 6))
  | 17 => .ok (.subBf16x2 (bf w 23 3) (bf w 17 6) (bf w 11 6) (bf w 5 6))
  | 18 => .ok (.mulBf16x2 (bf w 23 3) (bf w 17 6) (bf w 11 6) (bf w 5 6))
  | 19 => .ok (.fmaBf16x2 (bf w 23 3) (bf w 17 6) (bf w 11 6) (bf w 5 6))
  | 20 => .ok (.minBf16x2 (bf w 23 3) (bf w 17 6) (bf w 11 6) (bf w 5 6))
  | 21 => .ok (.maxBf16x2 (bf w 23 3) (bf w 17 6) (bf w 11 6) (bf w 5 6))
  | _ => .illegal 1

/-- L-set major 0x0E (R153, R154). -/
def decL0E (w : Nat) : Dec :=
  match fld w 0 5 with
  | 0 => chk (fld w 5 2 == 0) (.rcp (bf w 23 3) (bf w 17 6) (bf w 11 6) (bf w 7 4))
  | 1 => chk (fld w 5 2 == 0) (.rsq (bf w 23 3) (bf w 17 6) (bf w 11 6) (bf w 7 4))
  | 2 => chk (fld w 5 2 == 0) (.sqrt (bf w 23 3) (bf w 17 6) (bf w 11 6) (bf w 7 4))
  | 3 => chk (fld w 5 2 == 0) (.exp2 (bf w 23 3) (bf w 17 6) (bf w 11 6) (bf w 7 4))
  | 4 => chk (fld w 5 2 == 0) (.log2 (bf w 23 3) (bf w 17 6) (bf w 11 6) (bf w 7 4))
  | 5 => chk (fld w 5 2 == 0) (.sin (bf w 23 3) (bf w 17 6) (bf w 11 6) (bf w 7 4))
  | 6 => chk (fld w 5 2 == 0) (.cos (bf w 23 3) (bf w 17 6) (bf w 11 6) (bf w 7 4))
  | 7 => chk (fld w 5 2 == 0) (.tanh (bf w 23 3) (bf w 17 6) (bf w 11 6) (bf w 7 4))
  | _ => .illegal 1

/-- L-set major 0x0F (R153, R154). -/
def decL0F (w : Nat) : Dec :=
  match fld w 0 5 with
  | 0 => chk (fld w 6 5 == 0) (.cvtF32F16 (bf w 23 3) (bf w 17 6) (bf w 11 6) (bf w 5 1))
  | 1 => chk (fld w 6 5 == 0) (.cvtF32Bf16 (bf w 23 3) (bf w 17 6) (bf w 11 6) (bf w 5 1))
  | 2 => .ok (.cvtF16F32 (bf w 23 3) (bf w 17 6) (bf w 11 6) (bf w 5 6))
  | 3 => .ok (.cvtBf16F32 (bf w 23 3) (bf w 17 6) (bf w 11 6) (bf w 5 6))
  | 4 => chk (fld w 5 6 == 0) (.cvtS32F32 (bf w 23 3) (bf w 17 6) (bf w 11 6))
  | 5 => chk (fld w 5 6 == 0) (.cvtUi32F32 (bf w 23 3) (bf w 17 6) (bf w 11 6))
  | 6 => chk (fld w 5 6 == 0) (.cvtF32S32 (bf w 23 3) (bf w 17 6) (bf w 11 6))
  | 7 => chk (fld w 5 6 == 0) (.cvtF32Ui32 (bf w 23 3) (bf w 17 6) (bf w 11 6))
  | 8 => chk (fld w 5 6 == 0) (.cvtFxF32 (bf w 23 3) (bf w 17 6) (bf w 11 6))
  | 9 => chk (fld w 5 6 == 0) (.cvtF32Fx (bf w 23 3) (bf w 17 6) (bf w 11 6))
  | 10 => .ok (.cvtF16F32Sr (bf w 23 3) (bf w 17 6) (bf w 11 6) (bf w 5 6))
  | 11 => .ok (.cvtBf16F32Sr (bf w 23 3) (bf w 17 6) (bf w 11 6) (bf w 5 6))
  | 12 => chk (fld w 5 6 == 0) (.cvtF32S64 (bf w 23 3) (bf w 17 6) (bf w 11 6))
  | 13 => chk (fld w 5 6 == 0) (.cvtF32Ui64 (bf w 23 3) (bf w 17 6) (bf w 11 6))
  | _ => .illegal 1

/-- L-set major 0x10 (R153, R154). -/
def decL10 (w : Nat) : Dec :=
  match fld w 0 5 with
  | 0 => .ok (.pkE4m3 (bf w 23 3) (bf w 17 6) (bf w 11 6) (bf w 5 6))
  | 1 => .ok (.pkE5m2 (bf w 23 3) (bf w 17 6) (bf w 11 6) (bf w 5 6))
  | 2 => .ok (.pkHs4 (bf w 23 3) (bf w 17 6) (bf w 11 6) (bf w 5 6))
  | 3 => .ok (.upkE4m3 (bf w 23 3) (bf w 17 6) (bf w 11 6) (bf w 5 6))
  | 4 => .ok (.upkE5m2 (bf w 23 3) (bf w 17 6) (bf w 11 6) (bf w 5 6))
  | 5 => .ok (.upkHs4 (bf w 23 3) (bf w 17 6) (bf w 11 6) (bf w 5 6))
  | 6 => .ok (.pkE4m3Sr (bf w 23 3) (bf w 17 6) (bf w 11 6) (bf w 5 6))
  | 7 => .ok (.pkE5m2Sr (bf w 23 3) (bf w 17 6) (bf w 11 6) (bf w 5 6))
  | 8 => chk (fld w 5 6 == 0) (.scxE4m3 (bf w 23 3) (bf w 17 6) (bf w 11 6))
  | 9 => chk (fld w 5 6 == 0) (.scxE5m2 (bf w 23 3) (bf w 17 6) (bf w 11 6))
  | 10 => chk (fld w 5 6 == 0) (.scxHs4 (bf w 23 3) (bf w 17 6) (bf w 11 6))
  | _ => .illegal 1

/-- L-set major 0x19 (R153, R154). -/
def decL19 (w : Nat) : Dec :=
  match fld w 0 5 with
  | 0 => chk (fld w 5 12 == 0 && fld w 20 3 == 0) (.fenceAcq (bf w 23 3) (bf w 17 3))
  | 1 => chk (fld w 5 12 == 0 && fld w 20 3 == 0) (.fenceRel (bf w 23 3) (bf w 17 3))
  | 2 => chk (fld w 5 12 == 0 && fld w 20 3 == 0) (.fenceAcqrel (bf w 23 3) (bf w 17 3))
  | _ => .illegal 1

/-- L-set major 0x1A (R153, R154). -/
def decL1A (w : Nat) : Dec :=
  chk (fld w 16 7 == 0) (.bra (bf w 23 3) (bf w 0 16))

/-- L-set major 0x1B (R153, R154). -/
def decL1B (w : Nat) : Dec :=
  match fld w 0 5 with
  | 0 => chk (fld w 5 18 == 0) (.nop (bf w 23 3))
  | 1 => chk (fld w 5 6 == 0 && fld w 17 6 == 0) (.brx (bf w 23 3) (bf w 11 6))
  | 2 => .ok (.call (bf w 23 3) (bf w 17 6) (bf w 5 12))
  | 3 => chk (fld w 5 6 == 0) (.callx (bf w 23 3) (bf w 17 6) (bf w 11 6))
  | 4 => chk (fld w 5 6 == 0 && fld w 17 6 == 0) (.ret (bf w 23 3) (bf w 11 6))
  | 5 => chk (fld w 5 18 == 0) (.exit (bf w 23 3))
  | 6 => chk (fld w 22 1 == 0) (.barA (bf w 23 3) (bf w 21 1) (bf w 20 1) (bf w 17 3) (bf w 5 12))
  | 7 => chk (fld w 22 1 == 0) (.barW (bf w 23 3) (bf w 21 1) (bf w 20 1) (bf w 17 3) (bf w 5 12))
  | 8 => chk (fld w 22 1 == 0) (.barAw (bf w 23 3) (bf w 21 1) (bf w 20 1) (bf w 17 3) (bf w 5 12))
  | 9 => chk (fld w 5 6 == 0 && fld w 17 6 == 0) (.issv (bf w 23 3) (bf w 11 6))
  | _ => .illegal 1

/-- U-set major 0x00 (R155). -/
def decU00 (w : Nat) : Dec :=
  match fld w 0 4 with
  | 0 => .ok (.uadd (bf w 22 3) (bf w 16 6) (bf w 10 6) (bf w 4 6))
  | 1 => .ok (.usub (bf w 22 3) (bf w 16 6) (bf w 10 6) (bf w 4 6))
  | 2 => .ok (.uand (bf w 22 3) (bf w 16 6) (bf w 10 6) (bf w 4 6))
  | 3 => .ok (.uor (bf w 22 3) (bf w 16 6) (bf w 10 6) (bf w 4 6))
  | 4 => .ok (.uxor (bf w 22 3) (bf w 16 6) (bf w 10 6) (bf w 4 6))
  | 5 => .ok (.ushl (bf w 22 3) (bf w 16 6) (bf w 10 6) (bf w 4 6))
  | 6 => .ok (.ushr (bf w 22 3) (bf w 16 6) (bf w 10 6) (bf w 4 6))
  | 7 => .ok (.usar (bf w 22 3) (bf w 16 6) (bf w 10 6) (bf w 4 6))
  | 8 => .ok (.umin (bf w 22 3) (bf w 16 6) (bf w 10 6) (bf w 4 6))
  | 9 => .ok (.umax (bf w 22 3) (bf w 16 6) (bf w 10 6) (bf w 4 6))
  | 10 => .ok (.uminui (bf w 22 3) (bf w 16 6) (bf w 10 6) (bf w 4 6))
  | 11 => .ok (.umaxui (bf w 22 3) (bf w 16 6) (bf w 10 6) (bf w 4 6))
  | 12 => .ok (.umul (bf w 22 3) (bf w 16 6) (bf w 10 6) (bf w 4 6))
  | 13 => .ok (.umulhi (bf w 22 3) (bf w 16 6) (bf w 10 6) (bf w 4 6))
  | 14 => .ok (.umulhiu (bf w 22 3) (bf w 16 6) (bf w 10 6) (bf w 4 6))
  | _ => .illegal 1

/-- U-set major 0x01 (R155). -/
def decU01 (w : Nat) : Dec :=
  match fld w 0 4 with
  | 0 => chk (fld w 19 3 == 0) (.ucmpEq (bf w 22 3) (bf w 16 3) (bf w 10 6) (bf w 4 6))
  | 1 => chk (fld w 19 3 == 0) (.ucmpNe (bf w 22 3) (bf w 16 3) (bf w 10 6) (bf w 4 6))
  | 2 => chk (fld w 19 3 == 0) (.ucmpLt (bf w 22 3) (bf w 16 3) (bf w 10 6) (bf w 4 6))
  | 3 => chk (fld w 19 3 == 0) (.ucmpLe (bf w 22 3) (bf w 16 3) (bf w 10 6) (bf w 4 6))
  | 4 => chk (fld w 19 3 == 0) (.ucmpGt (bf w 22 3) (bf w 16 3) (bf w 10 6) (bf w 4 6))
  | 5 => chk (fld w 19 3 == 0) (.ucmpGe (bf w 22 3) (bf w 16 3) (bf w 10 6) (bf w 4 6))
  | 6 => chk (fld w 19 3 == 0) (.ucmpLtui (bf w 22 3) (bf w 16 3) (bf w 10 6) (bf w 4 6))
  | 7 => chk (fld w 19 3 == 0) (.ucmpLeui (bf w 22 3) (bf w 16 3) (bf w 10 6) (bf w 4 6))
  | 8 => chk (fld w 19 3 == 0) (.ucmpGtui (bf w 22 3) (bf w 16 3) (bf w 10 6) (bf w 4 6))
  | 9 => chk (fld w 19 3 == 0) (.ucmpGeui (bf w 22 3) (bf w 16 3) (bf w 10 6) (bf w 4 6))
  | 10 => chk (fld w 7 3 == 0 && fld w 13 3 == 0 && fld w 19 3 == 0) (.qand (bf w 22 3) (bf w 16 3) (bf w 10 3) (bf w 4 3))
  | 11 => chk (fld w 7 3 == 0 && fld w 13 3 == 0 && fld w 19 3 == 0) (.qor (bf w 22 3) (bf w 16 3) (bf w 10 3) (bf w 4 3))
  | 12 => chk (fld w 7 3 == 0 && fld w 13 3 == 0 && fld w 19 3 == 0) (.qxor (bf w 22 3) (bf w 16 3) (bf w 10 3) (bf w 4 3))
  | 13 => chk (fld w 7 3 == 0 && fld w 13 3 == 0 && fld w 19 3 == 0) (.qandn (bf w 22 3) (bf w 16 3) (bf w 10 3) (bf w 4 3))
  | 14 => chk (fld w 4 6 == 0 && fld w 13 3 == 0 && fld w 19 3 == 0) (.qnot (bf w 22 3) (bf w 16 3) (bf w 10 3))
  | _ => .illegal 1

/-- U-set major 0x02 (R155). -/
def decU02 (w : Nat) : Dec :=
  .ok (.uaddi (bf w 22 3) (bf w 16 6) (bf w 10 6) (bf w 0 10))

/-- U-set major 0x03 (R155). -/
def decU03 (w : Nat) : Dec :=
  .ok (.uandi (bf w 22 3) (bf w 16 6) (bf w 10 6) (bf w 0 10))

/-- U-set major 0x04 (R155). -/
def decU04 (w : Nat) : Dec :=
  .ok (.uori (bf w 22 3) (bf w 16 6) (bf w 10 6) (bf w 0 10))

/-- U-set major 0x05 (R155). -/
def decU05 (w : Nat) : Dec :=
  .ok (.uxori (bf w 22 3) (bf w 16 6) (bf w 10 6) (bf w 0 10))

/-- U-set major 0x06 (R155). -/
def decU06 (w : Nat) : Dec :=
  match fld w 8 2 with
  | 0 => chk (fld w 6 2 == 0) (.ushli (bf w 22 3) (bf w 16 6) (bf w 10 6) (bf w 0 6))
  | 1 => chk (fld w 6 2 == 0) (.ushri (bf w 22 3) (bf w 16 6) (bf w 10 6) (bf w 0 6))
  | 2 => chk (fld w 6 2 == 0) (.usari (bf w 22 3) (bf w 16 6) (bf w 10 6) (bf w 0 6))
  | 3 => chk (fld w 6 2 == 0) (.uroli (bf w 22 3) (bf w 16 6) (bf w 10 6) (bf w 0 6))
  | _ => .illegal 1

/-- U-set major 0x07 (R155). -/
def decU07 (w : Nat) : Dec :=
  .ok (.umov16 (bf w 22 3) (bf w 16 6) (bf w 0 16))

/-- U-set major 0x08 (R155). -/
def decU08 (w : Nat) : Dec :=
  .ok (.umovk (bf w 22 3) (bf w 16 6) (bf w 0 16))

/-- U-set major 0x09 (R155). -/
def decU09 (w : Nat) : Dec :=
  match fld w 0 4 with
  | 0 => chk (fld w 4 6 == 0) (.umov (bf w 22 3) (bf w 16 6) (bf w 10 6))
  | 1 => .ok (.readlane (bf w 22 3) (bf w 16 6) (bf w 10 6) (bf w 4 6))
  | 2 => chk (fld w 4 6 == 0) (.bcast (bf w 22 3) (bf w 16 6) (bf w 10 6))
  | _ => .illegal 1

/-- U-set major 0x10 (R155). -/
def decU10 (w : Nat) : Dec :=
  .ok (.ubra (bf w 22 3) (bf w 0 22))

/-- U-set major 0x11 (R155). -/
def decU11 (w : Nat) : Dec :=
  match fld w 0 4 with
  | 0 => .ok (.ucall (bf w 22 3) (bf w 16 6) (bf w 4 12))
  | 1 => chk (fld w 4 6 == 0) (.ucallx (bf w 22 3) (bf w 16 6) (bf w 10 6))
  | 2 => chk (fld w 4 6 == 0 && fld w 16 6 == 0) (.uret (bf w 22 3) (bf w 10 6))
  | 3 => .ok (.uloop (bf w 22 3) (bf w 16 6) (bf w 4 12))
  | _ => .illegal 1

/-- U-set major 0x14 (R155). -/
def decU14 (w : Nat) : Dec :=
  match fld w 0 4 with
  | 0 => chk (fld w 4 6 == 0) (.spawn (bf w 22 3) (bf w 16 6) (bf w 10 6))
  | 1 => .ok (.sfence (bf w 22 3) (bf w 16 6) (bf w 10 6) (bf w 4 6))
  | _ => .illegal 1

/-- U-set major 0x15 (R155). -/
def decU15 (w : Nat) : Dec :=
  match fld w 0 4 with
  | 0 => chk (fld w 20 2 == 0) (.bjob (bf w 22 3) (bf w 16 4) (bf w 10 6) (bf w 4 6))
  | 1 => chk (fld w 4 6 == 0 && fld w 14 2 == 0) (.fwait (bf w 22 3) (bf w 16 6) (bf w 10 4))
  | 2 => chk (fld w 4 6 == 0 && fld w 14 2 == 0 && fld w 19 3 == 0) (.ftest (bf w 22 3) (bf w 16 3) (bf w 10 4))
  | 3 => chk (fld w 4 6 == 0 && fld w 14 8 == 0) (.fcancel (bf w 22 3) (bf w 10 4))
  | 4 => chk (fld w 4 6 == 0 && fld w 14 2 == 0) (.fmovHs (bf w 22 3) (bf w 16 6) (bf w 10 4))
  | 5 => chk (fld w 4 6 == 0 && fld w 20 2 == 0) (.fmovSh (bf w 22 3) (bf w 16 4) (bf w 10 6))
  | _ => .illegal 1

/-- U-set major 0x16 (R155). -/
def decU16 (w : Nat) : Dec :=
  match fld w 0 4 with
  | 0 => chk (fld w 4 6 == 0) (.talloc (bf w 22 3) (bf w 16 6) (bf w 10 6))
  | 1 => chk (fld w 4 6 == 0 && fld w 16 6 == 0) (.tfree (bf w 22 3) (bf w 10 6))
  | 2 => chk (fld w 4 6 == 0) (.tstat (bf w 22 3) (bf w 16 6) (bf w 10 6))
  | _ => .illegal 1

/-- U-set major 0x17 (R155). -/
def decU17 (w : Nat) : Dec :=
  match fld w 0 4 with
  | 0 => chk (fld w 16 6 == 0) (.barinit (bf w 22 3) (bf w 10 6) (bf w 4 6))
  | 1 => chk (fld w 4 6 == 0 && fld w 16 6 == 0) (.barsave (bf w 22 3) (bf w 10 6))
  | 2 => chk (fld w 4 6 == 0 && fld w 16 6 == 0) (.barload (bf w 22 3) (bf w 10 6))
  | _ => .illegal 1

/-- U-set major 0x18 (R155). -/
def decU18 (w : Nat) : Dec :=
  match fld w 0 4 with
  | 0 => chk (fld w 20 2 == 0) (.mcst (bf w 22 3) (bf w 16 4) (bf w 10 6) (bf w 4 6))
  | 1 => chk (fld w 4 6 == 0 && fld w 20 2 == 0) (.ridge (bf w 22 3) (bf w 16 4) (bf w 10 6))
  | 2 => chk (fld w 4 6 == 0) (.rstat (bf w 22 3) (bf w 16 6) (bf w 10 6))
  | _ => .illegal 1

/-- U-set major 0x19 (R155). -/
def decU19 (w : Nat) : Dec :=
  match fld w 0 4 with
  | 0 => chk (fld w 4 6 == 0) (.mbxrd (bf w 22 3) (bf w 16 6) (bf w 10 6))
  | 1 => chk (fld w 16 6 == 0) (.mbxwr (bf w 22 3) (bf w 10 6) (bf w 4 6))
  | _ => .illegal 1

/-- U-set major 0x1A (R155). -/
def decU1A (w : Nat) : Dec :=
  match fld w 0 4 with
  | 0 => chk (fld w 4 6 == 0) (.movsFromSys (bf w 22 3) (bf w 16 6) (bf w 10 6))
  | 1 => chk (fld w 4 6 == 0) (.movsToSys (bf w 22 3) (bf w 16 6) (bf w 10 6))
  | 2 => chk (fld w 4 6 == 0) (.therm (bf w 22 3) (bf w 16 6) (bf w 10 6))
  | 3 => chk (fld w 4 12 == 0) (.clock (bf w 22 3) (bf w 16 6))
  | _ => .illegal 1

/-- U-set major 0x1B (R155). -/
def decU1B (w : Nat) : Dec :=
  match fld w 0 4 with
  | 0 => chk (fld w 4 6 == 0) (.accrd (bf w 22 3) (bf w 16 6) (bf w 10 6))
  | 1 => chk (fld w 4 6 == 0) (.accwr (bf w 22 3) (bf w 16 6) (bf w 10 6))
  | 2 => chk (fld w 4 6 == 0 && fld w 16 6 == 0) (.accz (bf w 22 3) (bf w 10 6))
  | _ => .illegal 1

/-- U-set major 0x28 (R155). -/
def decU28 (w : Nat) : Dec :=
  match fld w 0 4 with
  | 0 => .ok (.trap (bf w 22 3) (bf w 16 6) (bf w 10 6) (bf w 4 6))
  | 1 => if fld w 16 1 == 0 then chk (fld w 4 18 == 0) (.eret (bf w 22 3)) else chk (fld w 16 6 == 1) (.eretAns (bf w 22 3) (bf w 10 6) (bf w 4 6))
  | _ => .illegal 1

/-- U-set major 0x29 (R155). -/
def decU29 (w : Nat) : Dec :=
  match fld w 0 4 with
  | 0 => chk (fld w 16 6 == 0) (.tlbw (bf w 22 3) (bf w 10 6) (bf w 4 6))
  | 1 => chk (fld w 16 6 == 0) (.tlbi (bf w 22 3) (bf w 10 6) (bf w 4 6))
  | _ => .illegal 1

/-- U-set major 0x2A (R155). -/
def decU2A (w : Nat) : Dec :=
  match fld w 0 4 with
  | 0 => chk (fld w 4 12 == 0) (.mqpop (bf w 22 3) (bf w 16 6))
  | _ => .illegal 1

/-- U-set major 0x2B (R155). -/
def decU2B (w : Nat) : Dec :=
  match fld w 0 4 with
  | 0 => .ok (.objmap (bf w 22 3) (bf w 16 6) (bf w 10 6) (bf w 4 6))
  | 1 => .ok (.objunmap (bf w 22 3) (bf w 16 6) (bf w 10 6) (bf w 4 6))
  | 2 => chk (fld w 4 6 == 0) (.objstat (bf w 22 3) (bf w 16 6) (bf w 10 6))
  | _ => .illegal 1

/-- U-set major 0x2C (R155). -/
def decU2C (w : Nat) : Dec :=
  match fld w 0 4 with
  | 0 => .ok (.harvest (bf w 22 3) (bf w 16 6) (bf w 10 6) (bf w 4 6))
  | _ => .illegal 1

/-- U-set major 0x2D (R155). -/
def decU2D (w : Nat) : Dec :=
  match fld w 0 4 with
  | 0 => chk (fld w 16 6 == 0) (.preempt (bf w 22 3) (bf w 10 6) (bf w 4 6))
  | 1 => chk (fld w 16 6 == 0) (.resume (bf w 22 3) (bf w 10 6) (bf w 4 6))
  | _ => .illegal 1

/-- U-set major 0x2E (R155). -/
def decU2E (w : Nat) : Dec :=
  match fld w 0 4 with
  | 0 => chk (fld w 4 18 == 0) (.halt (bf w 22 3))
  | _ => .illegal 1

/-- U-set major 0x30 (R155). -/
def decU30 (w : Nat) : Dec :=
  match fld w 0 4 with
  | 0 => chk (fld w 22 3 == 7) (.mma (bf w 16 6) (bf w 10 6) (bf w 4 6))
  | _ => .illegal 1

/-- U-set major 0x31 (R155). -/
def decU31 (w : Nat) : Dec :=
  match fld w 0 4 with
  | 0 => chk (fld w 4 12 == 0 && fld w 22 3 == 7) (.mzero (bf w 16 6))
  | _ => .illegal 1

/-- U-set major 0x32 (R155). -/
def decU32 (w : Nat) : Dec :=
  match fld w 0 4 with
  | 0 => chk (fld w 22 3 == 7) (.mscl (bf w 16 6) (bf w 10 6) (bf w 7 3) (bf w 4 3))
  | _ => .illegal 1

/-- U-set major 0x33 (R155). -/
def decU33 (w : Nat) : Dec :=
  match fld w 0 4 with
  | 0 => chk (fld w 18 7 == 112) (.mloop (bf w 16 2) (bf w 10 6) (bf w 4 6))
  | _ => .illegal 1

/-- U-set major 0x34 (R155). -/
def decU34 (w : Nat) : Dec :=
  chk (fld w 22 3 == 7) (.mjmp (bf w 0 22))

/-- U-set major 0x35 (R155). -/
def decU35 (w : Nat) : Dec :=
  match fld w 0 4 with
  | 0 => chk (fld w 14 2 == 0 && fld w 19 6 == 56) (.mbarW (bf w 16 3) (bf w 4 10))
  | _ => .illegal 1

/-- U-set major 0x36 (R155). -/
def decU36 (w : Nat) : Dec :=
  match fld w 0 4 with
  | 0 => if fld w 16 1 == 0 then chk (fld w 14 11 == 1792) (.mbarA (bf w 4 10)) else chk (fld w 14 11 == 1796) (.mbarADrain (bf w 4 10))
  | _ => .illegal 1

/-- U-set major 0x37 (R155). -/
def decU37 (w : Nat) : Dec :=
  match fld w 0 4 with
  | 0 => chk (fld w 4 21 == 1835008) (.mend)
  | _ => .illegal 1

/-- U-set major 0x38 (R155). -/
def decU38 (w : Nat) : Dec :=
  match fld w 0 4 with
  | 0 => .ok (.bcopy (bf w 22 3) (bf w 16 6) (bf w 10 6) (bf w 4 6))
  | 1 => chk (fld w 4 6 == 0) (.bfetch (bf w 22 3) (bf w 16 6) (bf w 10 6))
  | _ => .illegal 1

/-- U-set major 0x39 (R155). -/
def decU39 (w : Nat) : Dec :=
  match fld w 0 4 with
  | 0 => .ok (.btld (bf w 22 3) (bf w 16 6) (bf w 10 6) (bf w 4 6))
  | 1 => .ok (.btst (bf w 22 3) (bf w 16 6) (bf w 10 6) (bf w 4 6))
  | _ => .illegal 1

/-- U-set major 0x3A (R155). -/
def decU3A (w : Nat) : Dec :=
  match fld w 0 4 with
  | 0 => .ok (.bgath (bf w 22 3) (bf w 16 6) (bf w 10 6) (bf w 4 6))
  | 1 => .ok (.bscat (bf w 22 3) (bf w 16 6) (bf w 10 6) (bf w 4 6))
  | _ => .illegal 1

/-- U-set major 0x3B (R155). -/
def decU3B (w : Nat) : Dec :=
  match fld w 0 4 with
  | 0 => chk (fld w 10 6 == 0) (.bstep (bf w 22 3) (bf w 16 6) (bf w 4 6))
  | _ => .illegal 1

/-- U-set major 0x3C (R155). -/
def decU3C (w : Nat) : Dec :=
  match fld w 0 4 with
  | 0 => .ok (.block (bf w 22 3) (bf w 16 6) (bf w 10 6) (bf w 4 6))
  | 1 => chk (fld w 4 6 == 0 && fld w 16 6 == 0) (.bunlk (bf w 22 3) (bf w 10 6))
  | _ => .illegal 1

/-- U-set major 0x3D (R155). -/
def decU3D (w : Nat) : Dec :=
  match fld w 0 4 with
  | 0 => chk (fld w 4 6 == 0) (.btset (bf w 22 3) (bf w 16 6) (bf w 10 6))
  | 1 => .ok (.baccd (bf w 22 3) (bf w 16 6) (bf w 10 6) (bf w 4 6))
  | _ => .illegal 1

/-- U-set major 0x3E (R155). -/
def decU3E (w : Nat) : Dec :=
  match fld w 0 4 with
  | 0 => .ok (.brem (bf w 22 3) (bf w 16 6) (bf w 10 6) (bf w 4 6))
  | 1 => chk (fld w 16 6 == 0) (.bdone (bf w 22 3) (bf w 10 6) (bf w 4 6))
  | _ => .illegal 1

/-- LD (R154, R195). -/
def decL11 (w ad : Nat) : Dec :=
  match decLd (fld w 0 5) with
  | some sz => chk (fld w 5 6 == 0) (.ld sz (bf w 23 3) (bf w 17 6) (bf w 11 6) (decAddr ad))
  | none => .illegal 1

/-- ST (R154, R195). -/
def decL12 (w ad : Nat) : Dec :=
  match decSt (fld w 0 5) with
  | some sz => chk (fld w 5 6 == 0) (.st sz (bf w 23 3) (bf w 17 6) (bf w 11 6) (decAddr ad))
  | none => .illegal 1

/-- LDT (R154, R196). -/
def decL13 (w ad : Nat) : Dec :=
  match decLd (fld w 0 5) with
  | some sz => .ok (.ldt sz (bf w 23 3) (bf w 17 6) (bf w 11 6) (bf w 5 6) (decAddr ad))
  | none => .illegal 1

/-- STT (R154, R196). -/
def decL14 (w ad : Nat) : Dec :=
  match decSt (fld w 0 5) with
  | some sz => .ok (.stt sz (bf w 23 3) (bf w 17 6) (bf w 11 6) (bf w 5 6) (decAddr ad))
  | none => .illegal 1

/-- LDP, STP, PFAR (R154, R198 to R200). -/
def decL15 (w ad : Nat) : Dec :=
  match fld w 0 5 with
  | 0 => chk (fld w 5 6 == 0) (.ldp (bf w 23 3) (bf w 17 6) (bf w 11 6) (decAddr ad))
  | 1 => chk (fld w 5 6 == 0) (.stp (bf w 23 3) (bf w 17 6) (bf w 11 6) (decAddr ad))
  | 2 => chk (fld w 11 6 == 0) (.pfar (bf w 23 3) (bf w 17 6) (bf w 5 6) (decAddr ad))
  | _ => .illegal 1

/-- ATOM (R154, R201). -/
def decL16 (w ad : Nat) : Dec :=
  match fld w 0 5 with
  | 0 => chk (fld w 5 6 == 0) (.atomAdd false (bf w 23 3) (bf w 17 6) (bf w 11 6) (decAddr ad))
  | 16 => chk (fld w 5 6 == 0) (.atomAdd true (bf w 23 3) (bf w 17 6) (bf w 11 6) (decAddr ad))
  | 1 => chk (fld w 5 6 == 0) (.atomMin false (bf w 23 3) (bf w 17 6) (bf w 11 6) (decAddr ad))
  | 17 => chk (fld w 5 6 == 0) (.atomMin true (bf w 23 3) (bf w 17 6) (bf w 11 6) (decAddr ad))
  | 2 => chk (fld w 5 6 == 0) (.atomMax false (bf w 23 3) (bf w 17 6) (bf w 11 6) (decAddr ad))
  | 18 => chk (fld w 5 6 == 0) (.atomMax true (bf w 23 3) (bf w 17 6) (bf w 11 6) (decAddr ad))
  | 3 => chk (fld w 5 6 == 0) (.atomMinui false (bf w 23 3) (bf w 17 6) (bf w 11 6) (decAddr ad))
  | 19 => chk (fld w 5 6 == 0) (.atomMinui true (bf w 23 3) (bf w 17 6) (bf w 11 6) (decAddr ad))
  | 4 => chk (fld w 5 6 == 0) (.atomMaxui false (bf w 23 3) (bf w 17 6) (bf w 11 6) (decAddr ad))
  | 20 => chk (fld w 5 6 == 0) (.atomMaxui true (bf w 23 3) (bf w 17 6) (bf w 11 6) (decAddr ad))
  | 5 => chk (fld w 5 6 == 0) (.atomAnd false (bf w 23 3) (bf w 17 6) (bf w 11 6) (decAddr ad))
  | 21 => chk (fld w 5 6 == 0) (.atomAnd true (bf w 23 3) (bf w 17 6) (bf w 11 6) (decAddr ad))
  | 6 => chk (fld w 5 6 == 0) (.atomOr false (bf w 23 3) (bf w 17 6) (bf w 11 6) (decAddr ad))
  | 22 => chk (fld w 5 6 == 0) (.atomOr true (bf w 23 3) (bf w 17 6) (bf w 11 6) (decAddr ad))
  | 7 => chk (fld w 5 6 == 0) (.atomXor false (bf w 23 3) (bf w 17 6) (bf w 11 6) (decAddr ad))
  | 23 => chk (fld w 5 6 == 0) (.atomXor true (bf w 23 3) (bf w 17 6) (bf w 11 6) (decAddr ad))
  | 8 => chk (fld w 5 6 == 0) (.atomXchg false (bf w 23 3) (bf w 17 6) (bf w 11 6) (decAddr ad))
  | 24 => chk (fld w 5 6 == 0) (.atomXchg true (bf w 23 3) (bf w 17 6) (bf w 11 6) (decAddr ad))
  | 9 => .ok (.atomCas false (bf w 23 3) (bf w 17 6) (bf w 11 6) (bf w 5 6) (decAddr ad))
  | 25 => .ok (.atomCas true (bf w 23 3) (bf w 17 6) (bf w 11 6) (bf w 5 6) (decAddr ad))
  | 10 => chk (fld w 5 6 == 0) (.atomFaddF32 (bf w 23 3) (bf w 17 6) (bf w 11 6) (decAddr ad))
  | 11 => chk (fld w 5 6 == 0) (.atomAddBf16x2 (bf w 23 3) (bf w 17 6) (bf w 11 6) (decAddr ad))
  | 12 => chk (fld w 5 6 == 0) (.atomAddF16x2 (bf w 23 3) (bf w 17 6) (bf w 11 6) (decAddr ad))
  | 13 => chk (fld w 5 6 == 0) (.atomFxadd (bf w 23 3) (bf w 17 6) (bf w 11 6) (decAddr ad))
  | _ => .illegal 1

/-- RED (R154, R201). -/
def decL17 (w ad : Nat) : Dec :=
  match fld w 0 5 with
  | 0 => chk (fld w 5 6 == 0) (.redAdd false (bf w 23 3) (bf w 17 6) (bf w 11 6) (decAddr ad))
  | 16 => chk (fld w 5 6 == 0) (.redAdd true (bf w 23 3) (bf w 17 6) (bf w 11 6) (decAddr ad))
  | 1 => chk (fld w 5 6 == 0) (.redMin false (bf w 23 3) (bf w 17 6) (bf w 11 6) (decAddr ad))
  | 17 => chk (fld w 5 6 == 0) (.redMin true (bf w 23 3) (bf w 17 6) (bf w 11 6) (decAddr ad))
  | 2 => chk (fld w 5 6 == 0) (.redMax false (bf w 23 3) (bf w 17 6) (bf w 11 6) (decAddr ad))
  | 18 => chk (fld w 5 6 == 0) (.redMax true (bf w 23 3) (bf w 17 6) (bf w 11 6) (decAddr ad))
  | 3 => chk (fld w 5 6 == 0) (.redMinui false (bf w 23 3) (bf w 17 6) (bf w 11 6) (decAddr ad))
  | 19 => chk (fld w 5 6 == 0) (.redMinui true (bf w 23 3) (bf w 17 6) (bf w 11 6) (decAddr ad))
  | 4 => chk (fld w 5 6 == 0) (.redMaxui false (bf w 23 3) (bf w 17 6) (bf w 11 6) (decAddr ad))
  | 20 => chk (fld w 5 6 == 0) (.redMaxui true (bf w 23 3) (bf w 17 6) (bf w 11 6) (decAddr ad))
  | 5 => chk (fld w 5 6 == 0) (.redAnd false (bf w 23 3) (bf w 17 6) (bf w 11 6) (decAddr ad))
  | 21 => chk (fld w 5 6 == 0) (.redAnd true (bf w 23 3) (bf w 17 6) (bf w 11 6) (decAddr ad))
  | 6 => chk (fld w 5 6 == 0) (.redOr false (bf w 23 3) (bf w 17 6) (bf w 11 6) (decAddr ad))
  | 22 => chk (fld w 5 6 == 0) (.redOr true (bf w 23 3) (bf w 17 6) (bf w 11 6) (decAddr ad))
  | 7 => chk (fld w 5 6 == 0) (.redXor false (bf w 23 3) (bf w 17 6) (bf w 11 6) (decAddr ad))
  | 23 => chk (fld w 5 6 == 0) (.redXor true (bf w 23 3) (bf w 17 6) (bf w 11 6) (decAddr ad))
  | 10 => chk (fld w 5 6 == 0) (.redFaddF32 (bf w 23 3) (bf w 17 6) (bf w 11 6) (decAddr ad))
  | 11 => chk (fld w 5 6 == 0) (.redAddBf16x2 (bf w 23 3) (bf w 17 6) (bf w 11 6) (decAddr ad))
  | 12 => chk (fld w 5 6 == 0) (.redAddF16x2 (bf w 23 3) (bf w 17 6) (bf w 11 6) (decAddr ad))
  | 13 => chk (fld w 5 6 == 0) (.redFxadd (bf w 23 3) (bf w 17 6) (bf w 11 6) (decAddr ad))
  | _ => .illegal 1

/-- WAIT (R154, R203). -/
def decL18 (w ad : Nat) : Dec :=
  match fld w 0 5 with
  | 0 => .ok (.wait false (bf w 23 3) (bf w 17 6) (bf w 11 6) (bf w 5 6) (decAddr ad))
  | 1 => .ok (.wait true (bf w 23 3) (bf w 17 6) (bf w 11 6) (bf w 5 6) (decAddr ad))
  | _ => .illegal 1

/-- RST (R154, R294). -/
def decL1C (w ad : Nat) : Dec :=
  match decSt (fld w 0 5) with
  | some sz => chk (fld w 5 6 == 0) (.rst sz (bf w 23 3) (bf w 17 6) (bf w 11 6) (decAddr ad))
  | none => .illegal 1

/-- ULD (R155, R206). -/
def decU0A (w ad : Nat) : Dec :=
  match decLd (fld w 0 4) with
  | some sz => chk (fld w 4 6 == 0) (.uld sz (bf w 22 3) (bf w 16 6) (bf w 10 6) (decAddr ad))
  | none => .illegal 1

/-- UST (R155, R206). -/
def decU0B (w ad : Nat) : Dec :=
  match decSt (fld w 0 4) with
  | some sz => chk (fld w 4 6 == 0) (.ust sz (bf w 22 3) (bf w 16 6) (bf w 10 6) (decAddr ad))
  | none => .illegal 1

/-- UATOM (R155, R206). -/
def decU0C (w ad : Nat) : Dec :=
  match fld w 0 4 with
  | 0 => chk (fld w 4 6 == 0) (.uatomAdd (bf w 22 3) (bf w 16 6) (bf w 10 6) (decAddr ad))
  | 1 => chk (fld w 4 6 == 0) (.uatomMin (bf w 22 3) (bf w 16 6) (bf w 10 6) (decAddr ad))
  | 2 => chk (fld w 4 6 == 0) (.uatomMax (bf w 22 3) (bf w 16 6) (bf w 10 6) (decAddr ad))
  | 3 => chk (fld w 4 6 == 0) (.uatomMinui (bf w 22 3) (bf w 16 6) (bf w 10 6) (decAddr ad))
  | 4 => chk (fld w 4 6 == 0) (.uatomMaxui (bf w 22 3) (bf w 16 6) (bf w 10 6) (decAddr ad))
  | 5 => chk (fld w 4 6 == 0) (.uatomAnd (bf w 22 3) (bf w 16 6) (bf w 10 6) (decAddr ad))
  | 6 => chk (fld w 4 6 == 0) (.uatomOr (bf w 22 3) (bf w 16 6) (bf w 10 6) (decAddr ad))
  | 7 => chk (fld w 4 6 == 0) (.uatomXor (bf w 22 3) (bf w 16 6) (bf w 10 6) (decAddr ad))
  | 8 => chk (fld w 4 6 == 0) (.uatomXchg (bf w 22 3) (bf w 16 6) (bf w 10 6) (decAddr ad))
  | 9 => .ok (.uatomCas (bf w 22 3) (bf w 16 6) (bf w 10 6) (bf w 4 6) (decAddr ad))
  | 10 => chk (fld w 4 6 == 0) (.uatomFaddF32 (bf w 22 3) (bf w 16 6) (bf w 10 6) (decAddr ad))
  | 12 => chk (fld w 4 6 == 0) (.uatomFxadd (bf w 22 3) (bf w 16 6) (bf w 10 6) (decAddr ad))
  | _ => .illegal 1

/-- Whether an operation word is followed by an address word: formats LM and UM (R153, R155). -/
def twoWords (w : Nat) : Bool :=
  if fld w 31 1 == 0 then (0x11 ≤ fld w 26 5 && fld w 26 5 ≤ 0x18) || fld w 26 5 == 0x1C
  else 0x0A ≤ fld w 25 6 && fld w 25 6 ≤ 0x0C

/-- Whether a word is a prefix of the L-set or of the U-set (R147). -/
def isPrefix (w : Nat) : Bool := if fld w 31 1 == 0 then fld w 26 5 == 0x1F else fld w 25 6 == 0x3F

/-- An L-set operation word, with the word after it for format LM (R153). -/
def decL (w ad : Nat) : Dec :=
  match fld w 26 5 with
  | 0 => decL00 w
  | 1 => decL01 w
  | 2 => decL02 w
  | 3 => decL03 w
  | 4 => decL04 w
  | 5 => decL05 w
  | 6 => decL06 w
  | 7 => decL07 w
  | 8 => decL08 w
  | 9 => decL09 w
  | 10 => decL0A w
  | 11 => decL0B w
  | 12 => decL0C w
  | 13 => decL0D w
  | 14 => decL0E w
  | 15 => decL0F w
  | 16 => decL10 w
  | 17 => decL11 w ad
  | 18 => decL12 w ad
  | 19 => decL13 w ad
  | 20 => decL14 w ad
  | 21 => decL15 w ad
  | 22 => decL16 w ad
  | 23 => decL17 w ad
  | 24 => decL18 w ad
  | 25 => decL19 w
  | 26 => decL1A w
  | 27 => decL1B w
  | 28 => decL1C w ad
  | _ => .illegal 0

/-- A U-set operation word, with the word after it for format UM (R155). -/
def decU (w ad : Nat) : Dec :=
  match fld w 25 6 with
  | 0 => decU00 w
  | 1 => decU01 w
  | 2 => decU02 w
  | 3 => decU03 w
  | 4 => decU04 w
  | 5 => decU05 w
  | 6 => decU06 w
  | 7 => decU07 w
  | 8 => decU08 w
  | 9 => decU09 w
  | 10 => decU0A w ad
  | 11 => decU0B w ad
  | 12 => decU0C w ad
  | 16 => decU10 w
  | 17 => decU11 w
  | 20 => decU14 w
  | 21 => decU15 w
  | 22 => decU16 w
  | 23 => decU17 w
  | 24 => decU18 w
  | 25 => decU19 w
  | 26 => decU1A w
  | 27 => decU1B w
  | 40 => decU28 w
  | 41 => decU29 w
  | 42 => decU2A w
  | 43 => decU2B w
  | 44 => decU2C w
  | 45 => decU2D w
  | 46 => decU2E w
  | 48 => decU30 w
  | 49 => decU31 w
  | 50 => decU32 w
  | 51 => decU33 w
  | 52 => decU34 w
  | 53 => decU35 w
  | 54 => decU36 w
  | 55 => decU37 w
  | 56 => decU38 w
  | 57 => decU39 w
  | 58 => decU3A w
  | 59 => decU3B w
  | 60 => decU3C w
  | 61 => decU3D w
  | 62 => decU3E w
  | _ => .illegal 0

/-- The instruction that an operation word is, `ad` being the word after it (R140, R143). A prefix word is no instruction. -/
def decode (w ad : Nat) : Dec := if fld w 31 1 == 0 then decL w ad else decU w ad

/-- Bytes at rising addresses as a number (R4). -/
def leNat : List Byte → Nat
  | [] => 0
  | b :: bs => b.toNat + 256 * leNat bs

/-- The `n` bytes of a number, lowest first (R4). -/
def leBytes : Nat → Nat → List Byte
  | 0, _ => []
  | n + 1, x => BitVec.ofNat 8 x :: leBytes n (x / 256)

/-- An instruction read from the bytes at an address (R139): the instruction and its length, or nothing. -/
def decodeBytes (bs : List Byte) : Option (Instr × Nat) :=
  match decode (leNat (bs.take 4)) (leNat ((bs.drop 4).take 4)) with
  | .ok i => if i.wellFormed then some (i, if twoWords (leNat (bs.take 4)) then 8 else 4) else none
  | _ => none

/-- The instruction the decoder reads from bits numbered as the opcode table numbers them. -/
def decodeTableWord (_nbits w : Nat) : Option Instr := (decodeBytes (leBytes 8 w)).map (·.1)

/-! ## The encoder -/

/-- A field at its place in a word (R3). -/
def plc {n : Nat} (x : BitVec n) (lo : Nat) : Nat := x.toNat * 2 ^ lo

/-- The fixed bits of a word with its fields. -/
def enc (base : Nat) : List Nat → Nat
  | [] => base
  | x :: xs => x + enc base xs

/-- The address word of R142. -/
def encAddr (ad : AddrWord) : Nat :=
  enc 0 [plc ad.look 28, plc ad.ev 26, plc ad.last 25, plc ad.sig 24, plc ad.scope 16, plc ad.off 0]

/-- Load size codes of R154. -/
def encLd : LdSize → Nat
  | .z8 => 0 | .s8 => 1 | .z16 => 2 | .s16 => 3 | .b32 => 4 | .b64 => 5 | .b128 => 6

/-- Store size codes of R154. -/
def encSt : StSize → Nat
  | .b8 => 0 | .b16 => 2 | .b32 => 4 | .b64 => 5 | .b128 => 6

/-- FN of a 32-bit or 64-bit form (R154). -/
def encWide (w : Bool) : Nat := if w then 16 else 0

/-- The L-set fields G, D, A, B below a major and FN (R141). -/
def encLR (major : Nat) (g : Guard) (d a b : Reg) (fn : Nat) : Nat :=
  enc (major * 2 ^ 26 + fn) [plc g 23, plc d 17, plc a 11, plc b 5]

/-- The U-set fields QG, D, A, B below a major and FN (R144). -/
def encUR (major : Nat) (q : Guard) (d a b : Reg) (fn : Nat) : Nat :=
  enc (2 ^ 31 + major * 2 ^ 25 + fn) [plc q 22, plc d 16, plc a 10, plc b 4]

/-- The words of an instruction, first word first; an event has none. -/
def encodeWords : Instr → List Nat
  | .add g d a b => [enc 0x00000000 [plc g 23, plc d 17, plc a 11, plc b 5]]
  | .sub g d a b => [enc 0x00000001 [plc g 23, plc d 17, plc a 11, plc b 5]]
  | .and g d a b => [enc 0x00000002 [plc g 23, plc d 17, plc a 11, plc b 5]]
  | .or g d a b => [enc 0x00000003 [plc g 23, plc d 17, plc a 11, plc b 5]]
  | .xor g d a b => [enc 0x00000004 [plc g 23, plc d 17, plc a 11, plc b 5]]
  | .andn g d a b => [enc 0x00000005 [plc g 23, plc d 17, plc a 11, plc b 5]]
  | .shl g d a b => [enc 0x00000006 [plc g 23, plc d 17, plc a 11, plc b 5]]
  | .shr g d a b => [enc 0x00000007 [plc g 23, plc d 17, plc a 11, plc b 5]]
  | .sar g d a b => [enc 0x00000008 [plc g 23, plc d 17, plc a 11, plc b 5]]
  | .min g d a b => [enc 0x00000009 [plc g 23, plc d 17, plc a 11, plc b 5]]
  | .max g d a b => [enc 0x0000000A [plc g 23, plc d 17, plc a 11, plc b 5]]
  | .minui g d a b => [enc 0x0000000B [plc g 23, plc d 17, plc a 11, plc b 5]]
  | .maxui g d a b => [enc 0x0000000C [plc g 23, plc d 17, plc a 11, plc b 5]]
  | .abs g d a => [enc 0x0000000D [plc g 23, plc d 17, plc a 11]]
  | .neg g d a => [enc 0x0000000E [plc g 23, plc d 17, plc a 11]]
  | .mul g d a b => [enc 0x04000000 [plc g 23, plc d 17, plc a 11, plc b 5]]
  | .mulhi g d a b => [enc 0x04000001 [plc g 23, plc d 17, plc a 11, plc b 5]]
  | .mulhiu g d a b => [enc 0x04000002 [plc g 23, plc d 17, plc a 11, plc b 5]]
  | .mad g d a b => [enc 0x04000003 [plc g 23, plc d 17, plc a 11, plc b 5]]
  | .popc g d a => [enc 0x04000004 [plc g 23, plc d 17, plc a 11]]
  | .clz g d a => [enc 0x04000005 [plc g 23, plc d 17, plc a 11]]
  | .brev g d a => [enc 0x04000006 [plc g 23, plc d 17, plc a 11]]
  | .bfx g d a b => [enc 0x04000007 [plc g 23, plc d 17, plc a 11, plc b 5]]
  | .bfi g d a b => [enc 0x04000008 [plc g 23, plc d 17, plc a 11, plc b 5]]
  | .icmpEq g d a b => [enc 0x08000000 [plc g 23, plc d 17, plc a 11, plc b 5]]
  | .icmpNe g d a b => [enc 0x08000001 [plc g 23, plc d 17, plc a 11, plc b 5]]
  | .icmpLt g d a b => [enc 0x08000002 [plc g 23, plc d 17, plc a 11, plc b 5]]
  | .icmpLe g d a b => [enc 0x08000003 [plc g 23, plc d 17, plc a 11, plc b 5]]
  | .icmpGt g d a b => [enc 0x08000004 [plc g 23, plc d 17, plc a 11, plc b 5]]
  | .icmpGe g d a b => [enc 0x08000005 [plc g 23, plc d 17, plc a 11, plc b 5]]
  | .icmpLtui g d a b => [enc 0x08000006 [plc g 23, plc d 17, plc a 11, plc b 5]]
  | .icmpLeui g d a b => [enc 0x08000007 [plc g 23, plc d 17, plc a 11, plc b 5]]
  | .icmpGtui g d a b => [enc 0x08000008 [plc g 23, plc d 17, plc a 11, plc b 5]]
  | .icmpGeui g d a b => [enc 0x08000009 [plc g 23, plc d 17, plc a 11, plc b 5]]
  | .pand g d a b => [enc 0x08000010 [plc g 23, plc d 17, plc a 11, plc b 5]]
  | .por g d a b => [enc 0x08000011 [plc g 23, plc d 17, plc a 11, plc b 5]]
  | .pxor g d a b => [enc 0x08000012 [plc g 23, plc d 17, plc a 11, plc b 5]]
  | .pandn g d a b => [enc 0x08000013 [plc g 23, plc d 17, plc a 11, plc b 5]]
  | .pnot g d a => [enc 0x08000014 [plc g 23, plc d 17, plc a 11]]
  | .p2v g d a => [enc 0x08000015 [plc g 23, plc d 17, plc a 11]]
  | .v2p g d a => [enc 0x08000016 [plc g 23, plc d 17, plc a 11]]
  | .addi g d a i => [enc 0x0C000000 [plc g 23, plc d 17, plc a 11, plc i 0]]
  | .andi g d a i => [enc 0x10000000 [plc g 23, plc d 17, plc a 11, plc i 0]]
  | .ori g d a i => [enc 0x14000000 [plc g 23, plc d 17, plc a 11, plc i 0]]
  | .xori g d a i => [enc 0x18000000 [plc g 23, plc d 17, plc a 11, plc i 0]]
  | .shli g d a n => [enc 0x1C000000 [plc g 23, plc d 17, plc a 11, plc n 0]]
  | .shri g d a n => [enc 0x1C000200 [plc g 23, plc d 17, plc a 11, plc n 0]]
  | .sari g d a n => [enc 0x1C000400 [plc g 23, plc d 17, plc a 11, plc n 0]]
  | .roli g d a n => [enc 0x1C000600 [plc g 23, plc d 17, plc a 11, plc n 0]]
  | .mov16 g d i => [enc 0x20000000 [plc g 23, plc d 17, plc i 0]]
  | .mov16Hi g d i => [enc 0x20010000 [plc g 23, plc d 17, plc i 0]]
  | .add64 g d a b => [enc 0x24000000 [plc g 23, plc d 17, plc a 11, plc b 5]]
  | .sub64 g d a b => [enc 0x24000001 [plc g 23, plc d 17, plc a 11, plc b 5]]
  | .padd g d a b => [enc 0x24000002 [plc g 23, plc d 17, plc a 11, plc b 5]]
  | .shl64 g d a b => [enc 0x24000003 [plc g 23, plc d 17, plc a 11, plc b 5]]
  | .shr64 g d a b => [enc 0x24000004 [plc g 23, plc d 17, plc a 11, plc b 5]]
  | .sar64 g d a b => [enc 0x24000005 [plc g 23, plc d 17, plc a 11, plc b 5]]
  | .mulw g d a b => [enc 0x24000006 [plc g 23, plc d 17, plc a 11, plc b 5]]
  | .mulwui g d a b => [enc 0x24000007 [plc g 23, plc d 17, plc a 11, plc b 5]]
  | .mov64 g d a => [enc 0x24000008 [plc g 23, plc d 17, plc a 11]]
  | .mov g d a => [enc 0x28000000 [plc g 23, plc d 17, plc a 11]]
  | .sel g d a b k => [enc 0x28000008 [plc g 23, plc d 17, plc a 11, plc b 5, plc k 0]]
  | .pick g d a b => [enc 0x28000001 [plc g 23, plc d 17, plc a 11, plc b 5]]
  | .rotu g d a b => [enc 0x28000002 [plc g 23, plc d 17, plc a 11, plc b 5]]
  | .rotd g d a b => [enc 0x28000003 [plc g 23, plc d 17, plc a 11, plc b 5]]
  | .bfly g d a b => [enc 0x28000004 [plc g 23, plc d 17, plc a 11, plc b 5]]
  | .lany g d a => [enc 0x28000005 [plc g 23, plc d 17, plc a 11]]
  | .lall g d a => [enc 0x28000006 [plc g 23, plc d 17, plc a 11]]
  | .lmask g d a => [enc 0x28000007 [plc g 23, plc d 17, plc a 11]]
  | .combAdd g d a => [enc 0x28000010 [plc g 23, plc d 17, plc a 11]]
  | .combMin g d a => [enc 0x28000011 [plc g 23, plc d 17, plc a 11]]
  | .combMax g d a => [enc 0x28000012 [plc g 23, plc d 17, plc a 11]]
  | .combMinui g d a => [enc 0x28000013 [plc g 23, plc d 17, plc a 11]]
  | .combMaxui g d a => [enc 0x28000014 [plc g 23, plc d 17, plc a 11]]
  | .combAnd g d a => [enc 0x28000015 [plc g 23, plc d 17, plc a 11]]
  | .combOr g d a => [enc 0x28000016 [plc g 23, plc d 17, plc a 11]]
  | .combXor g d a => [enc 0x28000017 [plc g 23, plc d 17, plc a 11]]
  | .fadd g d a b => [enc 0x2C000000 [plc g 23, plc d 17, plc a 11, plc b 5]]
  | .fsub g d a b => [enc 0x2C000001 [plc g 23, plc d 17, plc a 11, plc b 5]]
  | .fmul g d a b => [enc 0x2C000002 [plc g 23, plc d 17, plc a 11, plc b 5]]
  | .ffma g d a b => [enc 0x2C000003 [plc g 23, plc d 17, plc a 11, plc b 5]]
  | .fmin g d a b => [enc 0x2C000004 [plc g 23, plc d 17, plc a 11, plc b 5]]
  | .fmax g d a b => [enc 0x2C000005 [plc g 23, plc d 17, plc a 11, plc b 5]]
  | .fabs g d a => [enc 0x2C000006 [plc g 23, plc d 17, plc a 11]]
  | .fneg g d a => [enc 0x2C000007 [plc g 23, plc d 17, plc a 11]]
  | .fcpys g d a b => [enc 0x2C000008 [plc g 23, plc d 17, plc a 11, plc b 5]]
  | .fcmpEq g d a b => [enc 0x30000000 [plc g 23, plc d 17, plc a 11, plc b 5]]
  | .fcmpNe g d a b => [enc 0x30000001 [plc g 23, plc d 17, plc a 11, plc b 5]]
  | .fcmpLt g d a b => [enc 0x30000002 [plc g 23, plc d 17, plc a 11, plc b 5]]
  | .fcmpLe g d a b => [enc 0x30000003 [plc g 23, plc d 17, plc a 11, plc b 5]]
  | .fcmpGt g d a b => [enc 0x30000004 [plc g 23, plc d 17, plc a 11, plc b 5]]
  | .fcmpGe g d a b => [enc 0x30000005 [plc g 23, plc d 17, plc a 11, plc b 5]]
  | .fcmpUnord g d a b => [enc 0x30000006 [plc g 23, plc d 17, plc a 11, plc b 5]]
  | .fcmpOrd g d a b => [enc 0x30000007 [plc g 23, plc d 17, plc a 11, plc b 5]]
  | .addF16x2 g d a b => [enc 0x34000000 [plc g 23, plc d 17, plc a 11, plc b 5]]
  | .subF16x2 g d a b => [enc 0x34000001 [plc g 23, plc d 17, plc a 11, plc b 5]]
  | .mulF16x2 g d a b => [enc 0x34000002 [plc g 23, plc d 17, plc a 11, plc b 5]]
  | .fmaF16x2 g d a b => [enc 0x34000003 [plc g 23, plc d 17, plc a 11, plc b 5]]
  | .minF16x2 g d a b => [enc 0x34000004 [plc g 23, plc d 17, plc a 11, plc b 5]]
  | .maxF16x2 g d a b => [enc 0x34000005 [plc g 23, plc d 17, plc a 11, plc b 5]]
  | .addBf16x2 g d a b => [enc 0x34000010 [plc g 23, plc d 17, plc a 11, plc b 5]]
  | .subBf16x2 g d a b => [enc 0x34000011 [plc g 23, plc d 17, plc a 11, plc b 5]]
  | .mulBf16x2 g d a b => [enc 0x34000012 [plc g 23, plc d 17, plc a 11, plc b 5]]
  | .fmaBf16x2 g d a b => [enc 0x34000013 [plc g 23, plc d 17, plc a 11, plc b 5]]
  | .minBf16x2 g d a b => [enc 0x34000014 [plc g 23, plc d 17, plc a 11, plc b 5]]
  | .maxBf16x2 g d a b => [enc 0x34000015 [plc g 23, plc d 17, plc a 11, plc b 5]]
  | .rcp g d a k => [enc 0x38000000 [plc g 23, plc d 17, plc a 11, plc k 7]]
  | .rsq g d a k => [enc 0x38000001 [plc g 23, plc d 17, plc a 11, plc k 7]]
  | .sqrt g d a k => [enc 0x38000002 [plc g 23, plc d 17, plc a 11, plc k 7]]
  | .exp2 g d a k => [enc 0x38000003 [plc g 23, plc d 17, plc a 11, plc k 7]]
  | .log2 g d a k => [enc 0x38000004 [plc g 23, plc d 17, plc a 11, plc k 7]]
  | .sin g d a k => [enc 0x38000005 [plc g 23, plc d 17, plc a 11, plc k 7]]
  | .cos g d a k => [enc 0x38000006 [plc g 23, plc d 17, plc a 11, plc k 7]]
  | .tanh g d a k => [enc 0x38000007 [plc g 23, plc d 17, plc a 11, plc k 7]]
  | .cvtF32F16 g d a h => [enc 0x3C000000 [plc g 23, plc d 17, plc a 11, plc h 5]]
  | .cvtF32Bf16 g d a h => [enc 0x3C000001 [plc g 23, plc d 17, plc a 11, plc h 5]]
  | .cvtF16F32 g d a b => [enc 0x3C000002 [plc g 23, plc d 17, plc a 11, plc b 5]]
  | .cvtBf16F32 g d a b => [enc 0x3C000003 [plc g 23, plc d 17, plc a 11, plc b 5]]
  | .cvtS32F32 g d a => [enc 0x3C000004 [plc g 23, plc d 17, plc a 11]]
  | .cvtUi32F32 g d a => [enc 0x3C000005 [plc g 23, plc d 17, plc a 11]]
  | .cvtF32S32 g d a => [enc 0x3C000006 [plc g 23, plc d 17, plc a 11]]
  | .cvtF32Ui32 g d a => [enc 0x3C000007 [plc g 23, plc d 17, plc a 11]]
  | .cvtFxF32 g d a => [enc 0x3C000008 [plc g 23, plc d 17, plc a 11]]
  | .cvtF32Fx g d a => [enc 0x3C000009 [plc g 23, plc d 17, plc a 11]]
  | .cvtF16F32Sr g d a b => [enc 0x3C00000A [plc g 23, plc d 17, plc a 11, plc b 5]]
  | .cvtBf16F32Sr g d a b => [enc 0x3C00000B [plc g 23, plc d 17, plc a 11, plc b 5]]
  | .cvtF32S64 g d a => [enc 0x3C00000C [plc g 23, plc d 17, plc a 11]]
  | .cvtF32Ui64 g d a => [enc 0x3C00000D [plc g 23, plc d 17, plc a 11]]
  | .pkE4m3 g d a b => [enc 0x40000000 [plc g 23, plc d 17, plc a 11, plc b 5]]
  | .pkE5m2 g d a b => [enc 0x40000001 [plc g 23, plc d 17, plc a 11, plc b 5]]
  | .pkHs4 g d a b => [enc 0x40000002 [plc g 23, plc d 17, plc a 11, plc b 5]]
  | .upkE4m3 g d a b => [enc 0x40000003 [plc g 23, plc d 17, plc a 11, plc b 5]]
  | .upkE5m2 g d a b => [enc 0x40000004 [plc g 23, plc d 17, plc a 11, plc b 5]]
  | .upkHs4 g d a b => [enc 0x40000005 [plc g 23, plc d 17, plc a 11, plc b 5]]
  | .pkE4m3Sr g d a b => [enc 0x40000006 [plc g 23, plc d 17, plc a 11, plc b 5]]
  | .pkE5m2Sr g d a b => [enc 0x40000007 [plc g 23, plc d 17, plc a 11, plc b 5]]
  | .scxE4m3 g d a => [enc 0x40000008 [plc g 23, plc d 17, plc a 11]]
  | .scxE5m2 g d a => [enc 0x40000009 [plc g 23, plc d 17, plc a 11]]
  | .scxHs4 g d a => [enc 0x4000000A [plc g 23, plc d 17, plc a 11]]
  | .ld sz g d a ad => [encLR 0x11 g d a 0 (encLd sz), encAddr ad]
  | .st sz g d a ad => [encLR 0x12 g d a 0 (encSt sz), encAddr ad]
  | .ldt sz g d a b ad => [encLR 0x13 g d a b (encLd sz), encAddr ad]
  | .stt sz g d a b ad => [encLR 0x14 g d a b (encSt sz), encAddr ad]
  | .ldp g d a ad => [encLR 0x15 g d a 0 0, encAddr ad]
  | .stp g d a ad => [encLR 0x15 g d a 0 1, encAddr ad]
  | .pfar g d b ad => [encLR 0x15 g d 0 b 2, encAddr ad]
  | .atomAdd w g d a ad => [encLR 0x16 g d a 0 (0 + encWide w), encAddr ad]
  | .atomMin w g d a ad => [encLR 0x16 g d a 0 (1 + encWide w), encAddr ad]
  | .atomMax w g d a ad => [encLR 0x16 g d a 0 (2 + encWide w), encAddr ad]
  | .atomMinui w g d a ad => [encLR 0x16 g d a 0 (3 + encWide w), encAddr ad]
  | .atomMaxui w g d a ad => [encLR 0x16 g d a 0 (4 + encWide w), encAddr ad]
  | .atomAnd w g d a ad => [encLR 0x16 g d a 0 (5 + encWide w), encAddr ad]
  | .atomOr w g d a ad => [encLR 0x16 g d a 0 (6 + encWide w), encAddr ad]
  | .atomXor w g d a ad => [encLR 0x16 g d a 0 (7 + encWide w), encAddr ad]
  | .atomXchg w g d a ad => [encLR 0x16 g d a 0 (8 + encWide w), encAddr ad]
  | .atomCas w g d a b ad => [encLR 0x16 g d a b (9 + encWide w), encAddr ad]
  | .atomFaddF32 g d a ad => [encLR 0x16 g d a 0 10, encAddr ad]
  | .atomAddBf16x2 g d a ad => [encLR 0x16 g d a 0 11, encAddr ad]
  | .atomAddF16x2 g d a ad => [encLR 0x16 g d a 0 12, encAddr ad]
  | .atomFxadd g d a ad => [encLR 0x16 g d a 0 13, encAddr ad]
  | .redAdd w g d a ad => [encLR 0x17 g d a 0 (0 + encWide w), encAddr ad]
  | .redMin w g d a ad => [encLR 0x17 g d a 0 (1 + encWide w), encAddr ad]
  | .redMax w g d a ad => [encLR 0x17 g d a 0 (2 + encWide w), encAddr ad]
  | .redMinui w g d a ad => [encLR 0x17 g d a 0 (3 + encWide w), encAddr ad]
  | .redMaxui w g d a ad => [encLR 0x17 g d a 0 (4 + encWide w), encAddr ad]
  | .redAnd w g d a ad => [encLR 0x17 g d a 0 (5 + encWide w), encAddr ad]
  | .redOr w g d a ad => [encLR 0x17 g d a 0 (6 + encWide w), encAddr ad]
  | .redXor w g d a ad => [encLR 0x17 g d a 0 (7 + encWide w), encAddr ad]
  | .redFaddF32 g d a ad => [encLR 0x17 g d a 0 10, encAddr ad]
  | .redAddBf16x2 g d a ad => [encLR 0x17 g d a 0 11, encAddr ad]
  | .redAddF16x2 g d a ad => [encLR 0x17 g d a 0 12, encAddr ad]
  | .redFxadd g d a ad => [encLR 0x17 g d a 0 13, encAddr ad]
  | .wait w g d a b ad => [encLR 0x18 g d a b (if w then 1 else 0), encAddr ad]
  | .waitReread _ _ _ => []
  | .fenceAcq g s => [enc 0x64000000 [plc g 23, plc s 17]]
  | .fenceRel g s => [enc 0x64000001 [plc g 23, plc s 17]]
  | .fenceAcqrel g s => [enc 0x64000002 [plc g 23, plc s 17]]
  | .bra g o => [enc 0x68000000 [plc g 23, plc o 0]]
  | .nop g => [enc 0x6C000000 [plc g 23]]
  | .brx g a => [enc 0x6C000001 [plc g 23, plc a 11]]
  | .call g d o => [enc 0x6C000002 [plc g 23, plc d 17, plc o 5]]
  | .callx g d a => [enc 0x6C000003 [plc g 23, plc d 17, plc a 11]]
  | .ret g a => [enc 0x6C000004 [plc g 23, plc a 11]]
  | .exit g => [enc 0x6C000005 [plc g 23]]
  | .barA g s p r n => [enc 0x6C000006 [plc g 23, plc s 21, plc p 20, plc r 17, plc n 5]]
  | .barW g s p r n => [enc 0x6C000007 [plc g 23, plc s 21, plc p 20, plc r 17, plc n 5]]
  | .barAw g s p r n => [enc 0x6C000008 [plc g 23, plc s 21, plc p 20, plc r 17, plc n 5]]
  | .issv g a => [enc 0x6C000009 [plc g 23, plc a 11]]
  | .rst sz g d a ad => [encLR 0x1C g d a 0 (encSt sz), encAddr ad]
  | .uadd q d a b => [enc 0x80000000 [plc q 22, plc d 16, plc a 10, plc b 4]]
  | .usub q d a b => [enc 0x80000001 [plc q 22, plc d 16, plc a 10, plc b 4]]
  | .uand q d a b => [enc 0x80000002 [plc q 22, plc d 16, plc a 10, plc b 4]]
  | .uor q d a b => [enc 0x80000003 [plc q 22, plc d 16, plc a 10, plc b 4]]
  | .uxor q d a b => [enc 0x80000004 [plc q 22, plc d 16, plc a 10, plc b 4]]
  | .ushl q d a b => [enc 0x80000005 [plc q 22, plc d 16, plc a 10, plc b 4]]
  | .ushr q d a b => [enc 0x80000006 [plc q 22, plc d 16, plc a 10, plc b 4]]
  | .usar q d a b => [enc 0x80000007 [plc q 22, plc d 16, plc a 10, plc b 4]]
  | .umin q d a b => [enc 0x80000008 [plc q 22, plc d 16, plc a 10, plc b 4]]
  | .umax q d a b => [enc 0x80000009 [plc q 22, plc d 16, plc a 10, plc b 4]]
  | .uminui q d a b => [enc 0x8000000A [plc q 22, plc d 16, plc a 10, plc b 4]]
  | .umaxui q d a b => [enc 0x8000000B [plc q 22, plc d 16, plc a 10, plc b 4]]
  | .umul q d a b => [enc 0x8000000C [plc q 22, plc d 16, plc a 10, plc b 4]]
  | .umulhi q d a b => [enc 0x8000000D [plc q 22, plc d 16, plc a 10, plc b 4]]
  | .umulhiu q d a b => [enc 0x8000000E [plc q 22, plc d 16, plc a 10, plc b 4]]
  | .ucmpEq q d a b => [enc 0x82000000 [plc q 22, plc d 16, plc a 10, plc b 4]]
  | .ucmpNe q d a b => [enc 0x82000001 [plc q 22, plc d 16, plc a 10, plc b 4]]
  | .ucmpLt q d a b => [enc 0x82000002 [plc q 22, plc d 16, plc a 10, plc b 4]]
  | .ucmpLe q d a b => [enc 0x82000003 [plc q 22, plc d 16, plc a 10, plc b 4]]
  | .ucmpGt q d a b => [enc 0x82000004 [plc q 22, plc d 16, plc a 10, plc b 4]]
  | .ucmpGe q d a b => [enc 0x82000005 [plc q 22, plc d 16, plc a 10, plc b 4]]
  | .ucmpLtui q d a b => [enc 0x82000006 [plc q 22, plc d 16, plc a 10, plc b 4]]
  | .ucmpLeui q d a b => [enc 0x82000007 [plc q 22, plc d 16, plc a 10, plc b 4]]
  | .ucmpGtui q d a b => [enc 0x82000008 [plc q 22, plc d 16, plc a 10, plc b 4]]
  | .ucmpGeui q d a b => [enc 0x82000009 [plc q 22, plc d 16, plc a 10, plc b 4]]
  | .qand q d a b => [enc 0x8200000A [plc q 22, plc d 16, plc a 10, plc b 4]]
  | .qor q d a b => [enc 0x8200000B [plc q 22, plc d 16, plc a 10, plc b 4]]
  | .qxor q d a b => [enc 0x8200000C [plc q 22, plc d 16, plc a 10, plc b 4]]
  | .qandn q d a b => [enc 0x8200000D [plc q 22, plc d 16, plc a 10, plc b 4]]
  | .qnot q d a => [enc 0x8200000E [plc q 22, plc d 16, plc a 10]]
  | .uaddi q d a i => [enc 0x84000000 [plc q 22, plc d 16, plc a 10, plc i 0]]
  | .uandi q d a i => [enc 0x86000000 [plc q 22, plc d 16, plc a 10, plc i 0]]
  | .uori q d a i => [enc 0x88000000 [plc q 22, plc d 16, plc a 10, plc i 0]]
  | .uxori q d a i => [enc 0x8A000000 [plc q 22, plc d 16, plc a 10, plc i 0]]
  | .ushli q d a n => [enc 0x8C000000 [plc q 22, plc d 16, plc a 10, plc n 0]]
  | .ushri q d a n => [enc 0x8C000100 [plc q 22, plc d 16, plc a 10, plc n 0]]
  | .usari q d a n => [enc 0x8C000200 [plc q 22, plc d 16, plc a 10, plc n 0]]
  | .uroli q d a n => [enc 0x8C000300 [plc q 22, plc d 16, plc a 10, plc n 0]]
  | .umov16 q d i => [enc 0x8E000000 [plc q 22, plc d 16, plc i 0]]
  | .umovk q d i => [enc 0x90000000 [plc q 22, plc d 16, plc i 0]]
  | .umov q d a => [enc 0x92000000 [plc q 22, plc d 16, plc a 10]]
  | .readlane q d a b => [enc 0x92000001 [plc q 22, plc d 16, plc a 10, plc b 4]]
  | .bcast q d a => [enc 0x92000002 [plc q 22, plc d 16, plc a 10]]
  | .uld sz q d a ad => [encUR 0x0A q d a 0 (encLd sz), encAddr ad]
  | .ust sz q d a ad => [encUR 0x0B q d a 0 (encSt sz), encAddr ad]
  | .uatomAdd q d a ad => [encUR 0x0C q d a 0 0, encAddr ad]
  | .uatomMin q d a ad => [encUR 0x0C q d a 0 1, encAddr ad]
  | .uatomMax q d a ad => [encUR 0x0C q d a 0 2, encAddr ad]
  | .uatomMinui q d a ad => [encUR 0x0C q d a 0 3, encAddr ad]
  | .uatomMaxui q d a ad => [encUR 0x0C q d a 0 4, encAddr ad]
  | .uatomAnd q d a ad => [encUR 0x0C q d a 0 5, encAddr ad]
  | .uatomOr q d a ad => [encUR 0x0C q d a 0 6, encAddr ad]
  | .uatomXor q d a ad => [encUR 0x0C q d a 0 7, encAddr ad]
  | .uatomXchg q d a ad => [encUR 0x0C q d a 0 8, encAddr ad]
  | .uatomCas q d a b ad => [encUR 0x0C q d a b 9, encAddr ad]
  | .uatomFaddF32 q d a ad => [encUR 0x0C q d a 0 10, encAddr ad]
  | .uatomFxadd q d a ad => [encUR 0x0C q d a 0 12, encAddr ad]
  | .ubra q o => [enc 0xA0000000 [plc q 22, plc o 0]]
  | .ucall q d o => [enc 0xA2000000 [plc q 22, plc d 16, plc o 4]]
  | .ucallx q d a => [enc 0xA2000001 [plc q 22, plc d 16, plc a 10]]
  | .uret q a => [enc 0xA2000002 [plc q 22, plc a 10]]
  | .uloop q d o => [enc 0xA2000003 [plc q 22, plc d 16, plc o 4]]
  | .spawn q d a => [enc 0xA8000000 [plc q 22, plc d 16, plc a 10]]
  | .sfence q d a b => [enc 0xA8000001 [plc q 22, plc d 16, plc a 10, plc b 4]]
  | .bjob q d a b => [enc 0xAA000000 [plc q 22, plc d 16, plc a 10, plc b 4]]
  | .fwait q d a => [enc 0xAA000001 [plc q 22, plc d 16, plc a 10]]
  | .ftest q d a => [enc 0xAA000002 [plc q 22, plc d 16, plc a 10]]
  | .fcancel q a => [enc 0xAA000003 [plc q 22, plc a 10]]
  | .fmovHs q d a => [enc 0xAA000004 [plc q 22, plc d 16, plc a 10]]
  | .fmovSh q d a => [enc 0xAA000005 [plc q 22, plc d 16, plc a 10]]
  | .talloc q d a => [enc 0xAC000000 [plc q 22, plc d 16, plc a 10]]
  | .tfree q a => [enc 0xAC000001 [plc q 22, plc a 10]]
  | .tstat q d a => [enc 0xAC000002 [plc q 22, plc d 16, plc a 10]]
  | .barinit q a b => [enc 0xAE000000 [plc q 22, plc a 10, plc b 4]]
  | .barsave q a => [enc 0xAE000001 [plc q 22, plc a 10]]
  | .barload q a => [enc 0xAE000002 [plc q 22, plc a 10]]
  | .mcst q d a b => [enc 0xB0000000 [plc q 22, plc d 16, plc a 10, plc b 4]]
  | .ridge q d a => [enc 0xB0000001 [plc q 22, plc d 16, plc a 10]]
  | .rstat q d a => [enc 0xB0000002 [plc q 22, plc d 16, plc a 10]]
  | .mbxrd q d a => [enc 0xB2000000 [plc q 22, plc d 16, plc a 10]]
  | .mbxwr q a b => [enc 0xB2000001 [plc q 22, plc a 10, plc b 4]]
  | .movsFromSys q d a => [enc 0xB4000000 [plc q 22, plc d 16, plc a 10]]
  | .movsToSys q d a => [enc 0xB4000001 [plc q 22, plc d 16, plc a 10]]
  | .therm q d a => [enc 0xB4000002 [plc q 22, plc d 16, plc a 10]]
  | .clock q d => [enc 0xB4000003 [plc q 22, plc d 16]]
  | .accrd q d a => [enc 0xB6000000 [plc q 22, plc d 16, plc a 10]]
  | .accwr q d a => [enc 0xB6000001 [plc q 22, plc d 16, plc a 10]]
  | .accz q a => [enc 0xB6000002 [plc q 22, plc a 10]]
  | .trap q d a b => [enc 0xD0000000 [plc q 22, plc d 16, plc a 10, plc b 4]]
  | .eret q => [enc 0xD0000001 [plc q 22]]
  | .eretAns q a b => [enc 0xD0010001 [plc q 22, plc a 10, plc b 4]]
  | .tlbw q a b => [enc 0xD2000000 [plc q 22, plc a 10, plc b 4]]
  | .tlbi q a b => [enc 0xD2000001 [plc q 22, plc a 10, plc b 4]]
  | .mqpop q d => [enc 0xD4000000 [plc q 22, plc d 16]]
  | .objmap q d a b => [enc 0xD6000000 [plc q 22, plc d 16, plc a 10, plc b 4]]
  | .objunmap q d a b => [enc 0xD6000001 [plc q 22, plc d 16, plc a 10, plc b 4]]
  | .objstat q d a => [enc 0xD6000002 [plc q 22, plc d 16, plc a 10]]
  | .harvest q d a b => [enc 0xD8000000 [plc q 22, plc d 16, plc a 10, plc b 4]]
  | .preempt q a b => [enc 0xDA000000 [plc q 22, plc a 10, plc b 4]]
  | .resume q a b => [enc 0xDA000001 [plc q 22, plc a 10, plc b 4]]
  | .halt q => [enc 0xDC000000 [plc q 22]]
  | .mma d a b => [enc 0xE1C00000 [plc d 16, plc a 10, plc b 4]]
  | .mzero d => [enc 0xE3C00000 [plc d 16]]
  | .mscl d a y x => [enc 0xE5C00000 [plc d 16, plc a 10, plc y 7, plc x 4]]
  | .mloop n a b => [enc 0xE7C00000 [plc n 16, plc a 10, plc b 4]]
  | .mjmp o => [enc 0xE9C00000 [plc o 0]]
  | .mbarW k n => [enc 0xEBC00000 [plc k 16, plc n 4]]
  | .mbarA n => [enc 0xEDC00000 [plc n 4]]
  | .mbarADrain n => [enc 0xEDC10000 [plc n 4]]
  | .mend => [enc 0xEFC00000 []]
  | .bcopy q d a b => [enc 0xF0000000 [plc q 22, plc d 16, plc a 10, plc b 4]]
  | .bfetch q d a => [enc 0xF0000001 [plc q 22, plc d 16, plc a 10]]
  | .btld q d a b => [enc 0xF2000000 [plc q 22, plc d 16, plc a 10, plc b 4]]
  | .btst q d a b => [enc 0xF2000001 [plc q 22, plc d 16, plc a 10, plc b 4]]
  | .bgath q d a b => [enc 0xF4000000 [plc q 22, plc d 16, plc a 10, plc b 4]]
  | .bscat q d a b => [enc 0xF4000001 [plc q 22, plc d 16, plc a 10, plc b 4]]
  | .bstep q d b => [enc 0xF6000000 [plc q 22, plc d 16, plc b 4]]
  | .block q d a b => [enc 0xF8000000 [plc q 22, plc d 16, plc a 10, plc b 4]]
  | .bunlk q a => [enc 0xF8000001 [plc q 22, plc a 10]]
  | .btset q d a => [enc 0xFA000000 [plc q 22, plc d 16, plc a 10]]
  | .baccd q d a b => [enc 0xFA000001 [plc q 22, plc d 16, plc a 10, plc b 4]]
  | .brem q d a b => [enc 0xFC000000 [plc q 22, plc d 16, plc a 10, plc b 4]]
  | .bdone q a b => [enc 0xFC000001 [plc q 22, plc a 10, plc b 4]]
  | .surplusPhaseComplete _ _ _ => []
  | .courseDemotion _ _ => []
  | .coursePromotion _ _ => []
  | .activeSetTimesliceExpiry _ _ => []
  | .jobParse _ _ => []
  | .placementStep _ => []
  | .placementStarvationTimeout _ _ => []
  | .blockStart _ _ => []
  | .fenceRecordRead _ _ => []
  | .fenceCounterPoll _ _ _ => []
  | .blockRetirement _ _ => []
  | .doneAddRecord _ _ => []
  | .noticeQueueDrain _ => []
  | .coreMessageAppend _ => []
  | .hostMailboxWrite _ _ => []
  | .registerWriteOther _ => []
  | .hbmEarlyRefresh _ _ => []
  | .copyHit _ => []
  | .homeRead _ => []
  | .loadReply _ => []
  | .homeWrite _ => []
  | .completionRecord _ => []
  | .fencePass _ _ _ => []
  | .copyExpiry _ _ => []
  | .l1CopySweep _ => []
  | .publication _ _ _ => []
  | .cxlWriteCompletion _ => []
  | .cxlSnoop _ _ => []
  | .clockSkewCheck => []
  | .columnTempRefresh _ => []
  | .tripRecovery => []
  | .powerInterval _ => []
  | .operatingPointChange _ _ _ => []
  | .operatingPointSettle _ => []
  | .tlbiComplete _ _ => []
  | .sideLogTimeout _ => []
  | .objectRequestResend _ _ => []
  | .objectParkRetry _ => []
  | .objunmapDrainReturn _ _ => []
  | .objunmapVacateStep _ _ => []
  | .battenJobStart _ _ => []
  | .transferPerformed _ _ _ => []
  | .tileFillComplete _ _ _ => []
  | .tileDrainComplete _ _ _ => []
  | .tileIntegrityReplay _ _ _ _ => []
  | .mmaUpdate _ _ _ _ _ => []
  | .mbarWRelease _ _ => []
  | .mbarAArrival _ _ => []
  | .mendStep _ _ => []
  | .barsaveHeldAdds _ _ => []
  | .sequencerStop _ _ => []
  | .yieldTrapEntry _ _ => []
  | .swapOut _ _ => []
  | .faultRecordDelivery _ => []
  | .supervisorStallTimeout _ => []
  | .fabricIngressRequest _ => []
  | .remoteReply _ => []
  | .remoteTimeout _ => []
  | .packetReplay _ => []
  | .incarnationAnnouncement _ _ _ => []
  | .planeDead _ => []
  | .planeReroute _ => []
  | .mcstAck _ _ => []
  | .mcstResolve _ => []
  | .mcstMemberTimeout _ _ => []
  | .ridgeVoteStart _ => []
  | .ridgeCount _ _ _ => []
  | .ridgeStageTimeout _ _ => []
  | .ridgeAnswer _ _ _ => []
  | .ridgeAnswerTimeout _ _ => []
  | .ridgePublishMsg _ _ _ => []
  | .ridgeAbortMsg _ _ => []
  | .ridgeAbortResend _ => []
  | .ridgeAck _ _ => []
  | .ridgePublishTimeout _ => []
  | .hostHdmAccess _ _ _ => []
  | .cxlLinkFailure _ => []
  | .cxlRequestTimeout _ => []
  | .cxlLinkUp _ => []
  | .pcieLinkDown => []
  | .pageRequestAnswer _ _ => []
  | .pageRequestTimeout _ _ => []
  | .soffitSplit _ _ => []
  | .objTables _ => []
  | .layoutBase _ _ _ => []
  | .exportSet _ _ _ => []
  | .mcgSet _ _ _ => []
  | .eaveSet _ _ _ => []
  | .walkerSet _ _ _ => []
  | .objRevoke _ _ _ => []
  | .pageRequest _ _ _ => []
  | .pageRelease _ _ => []
  | .baySet _ => []
  | .attest _ => []
  | .bootSet _ _ => []
  | .perstRelease => []
  | .rootStageComplete _ => []
  | .serviceStageComplete => []
  | .serviceFirmwareRestart => []
  | .illegalWord _ _ _ _ => []
  | .perstAssert => []

/-- The words of a well-formed instruction as 32-bit words. -/
def encode (i : Instr) : List W32 := (encodeWords i).map (BitVec.ofNat 32)

/-- Words at rising addresses as bytes (R139). -/
def wordBytes (ws : List W32) : List Byte := ws.flatMap (fun w => leBytes 4 w.toNat)

end

end Sys2Proof
end

