-- ==== Sys2Proof/Machine/Fetch.lean ====
section
/-! DEFINITION. Selecting, fetching and parsing an issue (R22 to R28, R139, R147, R148, R170), what decides the fate of a word that is no
instruction (R345 to R347), and the scoreboard (R30). Words are read within the issue step, from a copy of the core that may serve or at
their homes (R269, R270; log 8). -/

namespace Sys2Proof.Machine

noncomputable section

/-! ## Selection -/

/-- The PC a slice selects, and whether the fairness override chose it (R23). -/
def selectPc (co : Course) (sl : Nat) : Option (W64 × Bool) :=
  let ls := [4 * sl, 4 * sl + 1, 4 * sl + 2, 4 * sl + 3].filter (fun l => (co.lane l).isReady)
  match ls.find? (fun l => (co.lane l).fair ≥ 4096) with
  | some l => some ((co.lane l).pc, true)
  | none => match ls with
    | [] => none
    | l :: rest => some (rest.foldl (fun m k => if (co.lane k).pc.toNat < m.toNat then (co.lane k).pc else m) (co.lane l).pc, false)
/-- The course minimum (R28). -/
def courseMin (co : Course) : Option W64 :=
  match (List.range 8).filter (fun l => (co.lane l).isReady) with
  | [] => none
  | l :: rest => some (rest.foldl (fun m k => if (co.lane k).pc.toNat < m.toNat then (co.lane k).pc else m) (co.lane l).pc)

/-! ## Fetching words -/

/-- One word fetched: the word; a miss; a word of another package, to be asked for; a fault; stored data that cannot be corrected; a sector held for its
publication. -/
inductive WordRes where
  | word (w : W32) (refill : Option TlbE)
  | miss (va : W64)
  | far (va : W64)
  | bad (r : FaultRec)
  | ecc (src : Nat) (va : W64)
  | wait
  deriving DecidableEq, Repr

/-- Where a word lies: its physical address with a TLB refill, or why it cannot be fetched. -/
inductive Place where
  | at (pa : Nat) (refill : Option TlbE)
  | no (r : WordRes)
  deriving DecidableEq, Repr

/-- The checks of a fetch (R139, R361, R370): a peer-window address is the peer's, or REMOTE_NACK where the peer is not valid (R402); TRANSLATION outside
these classes (log 70), the address as it stands in slot 511 (R319). -/
def fetchPlace (s : State) (ag : Agent) (prv : Bool) (pc : W64) : Place :=
  if untranslated ag then
    match target? s pc.toNat with
    | none => .no (.bad (accRec pc 0x10 3 0 .fetch 4 0))
    | some t => if (t.tier = .pool && !s.mUp) || (t.tier = .host && !s.hUp) then .no (.bad (accRec pc 0x32 0 0 .fetch 4 0)) else .at pc.toNat none
  else if classAddr pc = .peer then
    (if peerValid s (peerOf pc.toNat) then .at pc.toNat none
     else .no (.bad { code := 0x30, loc := pc.setWidth 128, aux := peerAux 1 pc.toNat 0 .fetch 4 }))
  else if classAddr pc ≠ .ordinary then .no (.bad (accRec pc 0x10 0 0 .fetch 4 0))
  else match tlbFind s ((agentCore? ag).getD 0) (quarter? ag) pc.toNat with
    | none => .no (.miss pc)
    | some (e, fill) => match leafCheck s e.z e.leaf pc.toNat .fetch prv with
      | .bad code reason det => .no (.bad (accRec pc code reason 0 .fetch 4 det))
      | .ok pa => .at pa (if fill then some e else none)

/-- The copy of a core that serves a fetch: a copy that may serve a load serves it, or the fetch is performed at the home all the same, and the copy stays
until the reply replaces it (R269, R270). Which of the two is open. -/
def fetchCopy (s : State) (c pa : Nat) : Option Copy :=
  match servingCopy s c (granOf s pa) with
  | none => none
  | some cp => if Config.copyServes s.stepNo (granOf s pa) then some cp else none

/-- The access by which a word of another package has come, until the issue that asked for it is made (R406). -/
def farWord (s : State) (ag : Agent) (pc : W64) : Option Access :=
  s.accs.find? (fun a => a.kind == .fetch && a.form == pc && (match a.ph with | .replied .. => true | _ => false) &&
    (a.ag == ag || (a.ag.fellow ag && (match ag with | .thread _ _ l => a.lanes.contains l | _ => false))))
/-- Fetch one word: from a copy that serves, or at its home. -/
def fetchWord (s : State) (ag : Agent) (prv : Bool) (pc : W64) : WordRes :=
  match fetchPlace s ag prv pc with
  | .no r => r
  | .at pa refill =>
    match fetchCopy s ((agentCore? ag).getD 0) pa with
    | some cp => .word (BitVec.ofNat 32 (leNum (sliceGran cp.data pa 4))) refill
    | none =>
      if isPeer pa then (match farWord s ag pc with
        | some x => (match x.ph with
          | .replied b _ _ => .word (BitVec.ofNat 32 (leNum (sliceGran b pa 4))) refill
          | _ => .far pc)
        | none => .far pc)
      else
      let t := canonPa s pa
      match badSector s (t / 32) with
      | some src => .ecc src pc
      | none => if heldForTp s (t / 32) (homeT s (homeOf s pa)) then .wait else .word (BitVec.ofNat 32 (s.readNat t 4)) refill

/-- Whether a fetch may be performed in the order of R271 and R272: no earlier access of its agent that may go to the granule, and no load before its
ACQ, is unperformed, and the copy that would serve is not older than what the agent has seen. -/
def fetchOrdered (s : State) (ag : Agent) (prv : Bool) (pc : W64) : Bool :=
  match fetchPlace s ag prv pc with
  | .no _ => true
  | .at pa _ =>
    s.accs.all (fun x => !(x.ag == ag && x.ph.unperformed && (mayMeet s x pa || (!x.kind.isWrite && decide (x.id < acqOf s ag)))))
    && (match fetchCopy s ((agentCore? ag).getD 0) pa with
        | some cp => decide (seenAt s ag (secOf s pa) ≤ stampAt cp.stamp pa)
        | none => true)
/-- The same of the n words of an issue. -/
def wordsOrdered (s : State) (ag : Agent) (prv : Bool) (pc : W64) (n : Nat) : Bool :=
  (List.range n).all (fun j => fetchOrdered s ag prv (pc + BitVec.ofNat 64 (4 * j)))
/-- What an agent has seen after the fetch of one word (R271). -/
def seeFetch (s : State) (ag : Agent) (prv : Bool) (pc : W64) : State :=
  match fetchPlace s ag prv pc with
  | .no _ => s
  | .at pa _ => noteSeen s ag (secOf s pa) (stampAt (match fetchCopy s ((agentCore? ag).getD 0) pa, farWord s ag pc with
      | some cp, _ => cp.stamp
      | none, some x => x.stamp
      | none, none => stampNow s pa) pa)
/-- The fetch of one word is a load: served by a copy, or performed at its home, where it is granted a lease and its reply installs a copy
(R266 to R269). -/
def loadFetch (s : State) (ag : Agent) (prv : Bool) (pc : W64) : State :=
  match fetchPlace s ag prv pc with
  | .no _ => s
  | .at pa _ =>
    let c := (agentCore? ag).getD 0
    match fetchCopy s c pa, target? s pa with
    | some _, _ => s.updCore c (·.touch (granOf s pa) 0 (thisStamp s))
    | none, none => s
    | none, some t =>
      let a : Access := { id := 0, iss := 0, ag := ag, kind := .fetch, form := pc, ea := pc, size := 4, prv := prv, nosc := noscOf s c ag pc,
                          stamp := stampNow s pa }
      let b := s.readBytes (t.canon / 64 * 64) 64
      let r := grantLease s a t
      installCopy (sofTouch r.1 t 0 a.nosc false) a b r.2 pa
/-- The fetch of the n words of an issue by the agents of its lanes, or by the agent that issues it. -/
def noteFetch (s : State) (ags : List Agent) (prv : Bool) (pc : W64) (n : Nat) : State :=
  let at' := fun (j : Nat) => pc + BitVec.ofNat 64 (4 * j)
  (List.range n).foldl (fun s j =>
    let s := ags.foldl (fun s ag => seeFetch s ag prv (at' j)) s
    match ags with
    | [] => s
    | ag :: _ => loadFetch s ag prv (at' j)) s

/-- The words of one issue, in order: prefixes, the instruction, its address word; a third prefix ends it (R147). -/
inductive WordsRes where
  | words (ws : List W32) (refill : Option TlbE)
  | stop (r : WordRes)
  deriving DecidableEq, Repr

def fetchWords (s : State) (ag : Agent) (prv : Bool) (pc : W64) : Nat → List W32 → Option TlbE → WordsRes
  | 0, ws, rf => .words ws rf
  | n + 1, ws, rf =>
    match fetchWord s ag prv (pc + BitVec.ofNat 64 (4 * ws.length)) with
    | .word w rf' =>
      let rf := rf.or rf'
      let ws' := ws ++ [w]
      if isPrefix w.toNat then (if ws'.length = 3 then .words ws' rf else fetchWords s ag prv pc n ws' rf)
      else if twoWords w.toNat then
        (match fetchWord s ag prv (pc + BitVec.ofNat 64 (4 * ws'.length)) with
         | .word a rf'' => .words (ws' ++ [a]) (rf.or rf'')
         | r => .stop r)
      else .words ws' rf
    | r => .stop r

/-! ## Parsing an issue -/

/-- An issue's words told apart: prefixes, the instruction's word and address word. -/
structure Parts where
  pre : List W32 := []
  op : Option W32 := none
  ad : W32 := 0
  deriving DecidableEq, Repr

def splitWords : List W32 → Parts → Parts
  | [], p => p
  | w :: ws, p =>
    match p.op with
    | some _ => { p with ad := w }
    | none => if isPrefix w.toNat then splitWords ws { p with pre := p.pre ++ [w] } else splitWords ws { p with op := some w }

/-- Set of a word: 1 for the U-set. -/
def wordSet (w : W32) : Bool := w.getLsbD 31
/-- KIND of a prefix (R148). -/
def preKind (w : W32) : Nat := if wordSet w then w.toNat / 2 ^ 22 % 8 else w.toNat / 2 ^ 23 % 8
def prePayload (w : W32) : Nat := if wordSet w then w.toNat % 2 ^ 22 else w.toNat % 2 ^ 23
/-- Payload bits a kind uses (R148). -/
def preUsed (i : Instr) (kind : Nat) : Nat :=
  if kind = 0 then (immBits i).getD 0 else if kind = 1 then 2 else if kind = 2 then 4 else 6
def preAccepted (i : Instr) (kind : Nat) : Bool :=
  if kind = 0 then (immBits i).isSome else if kind = 1 then true else if kind = 2 then acceptsLook i else if kind = 3 then usesC i else false

/-- The prefixes as the instruction takes them. -/
def toPfx : List W32 → Pfx → Pfx
  | [], p => p
  | w :: ws, p =>
    let x := prePayload w
    toPfx ws (match preKind w with
      | 0 => { p with imm := some (BitVec.ofNat 23 x) }
      | 1 => { p with round := some (BitVec.ofNat 2 x) }
      | 2 => { p with look := x % 16 }
      | 3 => { p with opnd := some (BitVec.ofNat 6 x) }
      | _ => p)

/-- Issuer kinds for the rows of R156. -/
def rowAllows (w : Issuer) : AgentRow → Bool
  | .course => match w with | .course .. => true | _ => false
  | .both => match w with | .seq .. => false | _ => true
  | .batten => match w with | .job .. => true | _ => false
  | .matrix => match w with | .seq .. => true | _ => false

/-- Bits of an operation word whose non-zero value breaks a register constraint of R150: the unused bits of a predicate or handle field. -/
def predFields (i : Instr) : Nat :=
  match i with
  | .icmpEq .. | .icmpNe .. | .icmpLt .. | .icmpLe .. | .icmpGt .. | .icmpGe .. | .icmpLtui .. | .icmpLeui .. | .icmpGtui .. | .icmpGeui ..
  | .fcmpEq .. | .fcmpNe .. | .fcmpLt .. | .fcmpLe .. | .fcmpGt .. | .fcmpGe .. | .fcmpUnord .. | .fcmpOrd .. | .v2p .. => 7 * 2 ^ 20
  | .pand .. | .por .. | .pxor .. | .pandn .. => 7 * 2 ^ 20 + 7 * 2 ^ 14 + 7 * 2 ^ 8
  | .pnot .. | .lany .. | .lall .. => 7 * 2 ^ 20 + 7 * 2 ^ 14
  | .p2v .. | .lmask .. => 7 * 2 ^ 14
  | .ucmpEq .. | .ucmpNe .. | .ucmpLt .. | .ucmpLe .. | .ucmpGt .. | .ucmpGe .. | .ucmpLtui .. | .ucmpLeui .. | .ucmpGtui .. | .ucmpGeui .. => 7 * 2 ^ 19
  | .qand .. | .qor .. | .qxor .. | .qandn .. => 7 * 2 ^ 19 + 7 * 2 ^ 13 + 7 * 2 ^ 7
  | .qnot .. => 7 * 2 ^ 19 + 7 * 2 ^ 13
  | .ftest .. => 7 * 2 ^ 19 + 3 * 2 ^ 14
  | .fwait .. | .fcancel .. | .fmovHs .. => 3 * 2 ^ 14
  | .fmovSh .. | .bjob .. | .mcst .. | .ridge .. => 3 * 2 ^ 20
  | _ => 0

/-- MOVS names a v register or pair for a lane-scope register (R151, R308). -/
def movsUses (i : Instr) : List RegUse :=
  match i with
  | .movsFromSys _ d a =>
    if a = 0 ∨ a = 7 then [.w .v d.toNat 2 2] else if a = 1 then [.w .v d.toNat 1 1] else [.w .s d.toNat 1 1]
  | .movsToSys _ d a =>
    if d = 0 ∨ d = 7 then [.r' .v a.toNat 2 2] else if d = 1 then [.r' .v a.toNat 1 1] else [.r' .s a.toNat 1 1]
  | _ => []

/-- Register groups of an issue, with its C operand (R148). -/
def allUses (i : Instr) (p : Pfx) : List RegUse :=
  regUses i ++ movsUses i ++ (if usesC i then [.r' .v ((p.opnd.getD (cDefault i)).toNat) 1 1] else [])

/-- RESERVED_FIELD reasons of the operation word, lowest first (R346, R347); `raw` is the instruction where a declared-zero field is set. -/
def opReasons (s : State) (who : Issuer) (op : W32) (i : Instr) (raw : Bool) : List Nat :=
  let extra := if raw then op.toNat ^^^ (encodeWords i).headD 0 else 0
  let job := match who with | .job .. => true | _ => false
  let uses := regUses i ++ movsUses i
  let v := vregsOf s who
  (if extra &&& (2 ^ 32 - 1 - predFields i) ≠ 0 || (zeroBad i && (addrOf i).isNone) then [0] else [])
  ++ (if extra &&& predFields i ≠ 0 || uses.any (fun u => u.r % u.align != 0) || (job && uses.any (fun u => u.file == .s && u.r + u.n > 32))
      then [1] else [])
  ++ (if uses.any (fun u => u.file == .v && decide (u.r + u.n - 1 > v)) then [2] else [])
/-- And of the address word. -/
def adReasons (i : Instr) : List Nat :=
  (if (addrOf i).isSome && zeroBad i then [0] else []) ++ (if scopeBad i then [3] else [])

/-- First (POS, cause) of a list. -/
def firstSome {α : Type} : List (Option α) → Option α
  | [] => none
  | some x :: _ => some x
  | none :: l => firstSome l

/-- The fate of an issue: an instruction, or code, REASON, POS and WORD (R346, R347). -/
inductive Fate where
  | instr (i : Instr)
  | bad (code reason pos : Nat) (w : W32)
  deriving DecidableEq, Repr

/-- Misused prefixes (third row of R346), lowest POS first. -/
def preMisuse (i : Option Instr) (set : Option Bool) (pre : List W32) : Option (Nat × Nat × W32) :=
  firstSome (pre.mapIdx (fun k w =>
    if preKind w ≥ 4 || (pre.take k).any (fun x => preKind x == preKind w) || (match set with | some b => b != wordSet w | none => false)
        || (match i with | some i => !preAccepted i (preKind w) | none => false) then some (2, k, w)
    else if k ≥ 2 then some (3, k, w) else none))

/-- RESERVED_FIELD of a prefix: an unused payload bit, or a C register above VREGS. -/
def preReserved (s : State) (who : Issuer) (i : Instr) (k : Nat) (w : W32) : Option (Nat × Nat × W32) :=
  if preKind w = 3 && prePayload w % 64 > vregsOf s who then some (2, k, w)
  else if prePayload w / 2 ^ preUsed i (preKind w) ≠ 0 then some (4, k, w) else none

/-- R346 on the words of one issue. -/
def fateOf (s : State) (who : Issuer) (p : Parts) : Fate :=
  let n := p.pre.length
  let outside := firstSome (p.pre.mapIdx (fun k w => match who with
    | .course .. => none
    | _ => if wordSet w then none else some (k, w)))
  match p.op with
  | none =>
    (match outside with
     | some (k, w) => .bad 0x01 4 k w
     | none => match preMisuse none none p.pre with
       | some (r, k, w) => .bad 0x01 r k w
       | none => .bad 0x01 3 0 (p.pre.headD 0))
  | some op =>
    match decode op.toNat p.ad.toNat with
    | .illegal r => .bad 0x01 r n op
    | d =>
      let i := match d with | .ok i => i | .bad i => i | .illegal _ => .mend
      let raw := match d with | .bad _ => true | _ => false
      match outside with
      | some (k, w) => .bad 0x01 4 k w
      | none =>
        if !rowAllows who (agentRow i) then .bad 0x01 4 n op
        else match preMisuse (some i) (some (wordSet op)) p.pre with
          | some (r, k, w) => .bad 0x01 r k w
          | none =>
            if privileged i && !prvOf s who then .bad 0x03 0 n op
            else match firstSome (p.pre.mapIdx (preReserved s who i)), opReasons s who op i raw, adReasons i with
              | some (r, k, w), _, _ => .bad 0x02 r k w
              | none, r :: _, _ => .bad 0x02 r n op
              | none, [], r :: _ => .bad 0x02 r (n + 1) p.ad
              | none, [], [] => .instr i

/-! ## The scoreboard (R30) -/

/-- Registers a value on its way goes to. -/
def Dest.inV (d : Dest) (r : Nat) : Bool :=
  match d with
  | .vreg d sz => decide (d.toNat ≤ r ∧ r < d.toNat + vRegs (ldWide sz))
  | .vold d n => decide (d.toNat ≤ r ∧ r < d.toNat + vRegs n)
  | .pair d => decide (d.toNat ≤ r ∧ r < d.toNat + 2)
  | _ => false
def Dest.inS (d : Dest) (r : Nat) : Bool :=
  match d with
  | .ureg d sz => decide (d.toNat ≤ r ∧ r < d.toNat + (if sz = .b128 then 2 else 1))
  | .uold d n => decide (d.toNat ≤ r ∧ r < d.toNat + (if n = 16 then 2 else 1))
  | _ => false
/-- Whether a word of an ISSV writes a v register (R218). -/
def wordWrites (w : W32) (r : Nat) : Bool :=
  match decode w.toNat 0 with
  | .ok i => (regUses i).any (fun u => u.file == .v && u.wr && decide (u.r ≤ r ∧ r < u.r + u.n))
  | _ => false
/-- The issues whose value for a v register of a lane is on its way; a lane in a WAIT waits for its own, and an ISSV held at a word still writes what its
words to come write (R178, R220). -/
def pendingV (s : State) (c k l r : Nat) : List Nat :=
  let ln := s.lane c k l
  if !ln.live then [] else
  (s.accs.filter (fun a => a.ag == .thread c k l && a.dest.inV r)).map (·.iss)
  ++ (((s.course? c k).getD {}).accOps.filter (fun x => x.left.any (fun m => match m with | .rd l' r' _ => l' == l && r' == r | .wr .. => false))).map (·.iss)
  ++ (((s.course? c k).getD {}).issv.filter (fun x => x.todo.any (fun w => w.2.contains l && wordWrites w.1 r))).map (·.iss)
  ++ (match ln.wt with
    | some w =>
      let waits := match ln.st with
        | .waitRead => true | .monitor => true | .woken => true
        | .parked id => s.accs.any (fun a => a.id == id && a.dest == .wait)
        | _ => false
      if waits && decide (w.d.toNat ≤ r ∧ r < w.d.toNat + vRegs (if w.wide then 8 else 4)) then [w.iss] else []
    | none => [])
/-- The same of an s register of a course or job: loads and atomics, and what FWAIT, TRAP or a supervisor word waits for. -/
def pendingS (s : State) (who : Issuer) (r : Nat) : List Nat :=
  (s.accs.filter (fun a => (match a.ag, who with
      | .thread c k _, .course c' k' => c == c' && k == k'
      | .job c p, .job c' p' => c == c' && p == p'
      | _, _ => false) && a.dest.inS r)).map (·.iss)
  ++ (match who with
    | .course c k =>
      let co := (s.course? c k).getD {}
      if (match co.trap with | some t => t.d.toNat == r | none => false)
        || co.lanes.any (fun ln => match ln.st with
          | .future _ d _ _ => d.toNat == r
          | .pend p => (p.kind == .unmapDrain || p.kind == .unmapVacate) && p.d.toNat == r
          | _ => false) then [mget co.sres r 0] else []
    | _ => [])

/-- The issues of MCSTs of other lanes that have still to write an h register (R446). -/
def pendingH (s : State) (c k : Nat) (mask : List Nat) (r : Nat) : List Nat :=
  (((s.course? c k).getD {}).mcst.filter (fun m => m.hd == r && !m.mask.any mask.contains)).map (·.iss)
/-- What holds an issue (R30): the issues of the results on their way to a register it reads or writes, or of an earlier access of a lane that may still
fault precisely; 0 for a release fence a lane of it waits at (R205). An ISSV waits for every v register of its lanes. -/
def holders (s : State) (who : Issuer) (mask : List Nat) (i : Instr) (p : Pfx) : List Nat :=
  let uses := allUses i p
  let on := fun (f : RFile) (at' : Nat → List Nat) => uses.flatMap (fun u => if u.file = f then (List.range u.n).flatMap (fun j => at' (u.r + j)) else [])
  let out := fun (c k : Nat) (to' : Dest → Bool) => mask.flatMap (fun l => (s.accs.filter (fun a => a.ag == .thread c k l && to' a.dest)).map (·.iss))
  on .s (pendingS s who)
  ++ (match who with
    | .course c k =>
      (if mask.any (fun l => (s.lane c k l).fence.isSome) then [0] else [])
      ++ (s.accs.filter (fun a => a.unsure && (match a.ag with | .thread c' k' _ => c' == c && k' == k | _ => false) && a.lanes.any mask.contains)).map (·.iss)
      ++ mask.flatMap (fun l => on .v (pendingV s c k l))
      ++ on .h (pendingH s c k mask)
      ++ (match i with
        | .issv .. => out c k (fun d => match d with | .vreg .. => true | .vold .. => true | .pair .. => true | _ => false)
            ++ (((s.course? c k).getD {}).accOps.filter (fun x => x.left.any (fun m => match m with
              | .rd l _ _ => mask.contains l
              | .wr .. => false))).map (·.iss)
        -- READLANE reads the lane it names (R178)
        | .readlane _ _ a b => pendingV s c k (((uniOf s who).rs b.toNat).toNat % 8) a.toNat
        | .accwr .. => out c k (· != .none)
        | .accrd .. => out c k (· != .none)
        | _ => [])
    | _ => [])
/-- Whether an issue is held by the scoreboard. -/
def scoreHeld (s : State) (who : Issuer) (mask : List Nat) (i : Instr) (p : Pfx) : Bool := !(holders s who mask i p).isEmpty

/-! ## Lookahead and eligibility (R65, R66, R146) -/

/-- What is left of the window of an issue; 0 for what opens none. -/
def Course.win (co : Course) (id : Nat) : Nat := ((co.wins.find? (·.1 == id)).map (·.2)).getD 0
/-- Whether a result of an issue has not been written yet: its window is open. -/
def resultOut (s : State) (c k : Nat) (co : Course) (id : Nat) : Bool :=
  s.accs.any (·.iss == id) || co.issv.any (·.iss == id) || co.accOps.any (·.iss == id)
    || (List.range 8).any (fun l => match (co.lane l).wt with | some w => w.iss == id && (co.lane l).st != .ready | none => false)
    || co.sres.any (fun e => e.2 == id && (pendingS s (.course c k) e.1).contains id)
/-- The holds on the word that a slice has selected; none without a ready lane. A word that cannot be fetched, or is no instruction, has no hold. -/
def sliceHolds (s : State) (c k sl : Nat) : Option (List Nat) :=
  let co := (s.course? c k).getD {}
  match selectPc co sl with
  | none => none
  | some (pc, _) =>
    let at' := fun (l : Nat) => (co.lane l).isReady && (co.lane l).pc == pc
    let mine := (List.range 8).filter (fun l => l / 4 == sl && at' l)
    match fetchWords s (.thread c k (mine.headD 0)) co.prv pc 3 [] none with
    | .stop _ => some []
    | .words ws _ =>
      let p := splitWords ws {}
      match fateOf s (.course c k) p with
      | .bad .. => some []
      | .instr i => some (holders s (.course c k) (if isU i || isExchange i then (List.range 8).filter at' else mine) i (toPfx p.pre {}))
/-- A course has a ready lane whose selected word is free of holds (R66). -/
def courseFree (s : State) (c k : Nat) : Bool := [0, 1].any (fun sl => sliceHolds s c k sl == some [])
/-- Every slice of a course that has a ready lane is held by a result whose window stands at 0 (R65). -/
def courseStuck (s : State) (c k : Nat) : Bool :=
  let hs := [0, 1].filterMap (sliceHolds s c k)
  !hs.isEmpty && hs.all (fun h => h.any (fun id => ((s.course? c k).getD {}).win id == 0))
/-- What the quarter schedulers of a core find of its courses. -/
def looksOf (s : State) (c : Nat) : List Look :=
  (mkeys (s.core c).courses).map (fun k => { core := c, slot := k, free := courseFree s c k, stuck := courseStuck s c k })
/-- k of R146. -/
def lookOf (i : Instr) (p : Pfx) : Nat :=
  match lsLook i, addrOf i with
  | some k, _ => k.toNat
  | none, some ad => ad.look.toNat
  | none, none => p.look
/-- What an issue leaves in its course: its window (the result of a word that an ISSV executes stands under the ISSV's, log 110), the s registers that
wait for it, and slice 0's place in a gang (R32). -/
def noteIssue (s : State) (c k sl : Nat) (iss : Issue) (i : Instr) (co : Course) : Course :=
  let co := if isLong i then { co with
      wins := co.wins.filter (fun w => resultOut s c k co w.1) ++ [(iss.id, lookOf i iss.pfx)],
      sres := (regUses i).foldl (fun m u => if u.file = .s ∧ u.wr then mset m u.r iss.id else m) co.sres } else co
  if sl = 0 ∧ !(isU i || isExchange i) then { co with lead := some (iss.id, iss.pc, s.stepNo, s.t) } else co
/-- The issue of slice 0 that an issue of slice 1 forms one gang with: of the same PC, in the step before, at the same T (R32, R33; log 81). -/
def gangOf (s : State) (co : Course) (sl : Nat) (pc : W64) : Nat :=
  match co.lead with
  | some (id, pc', n, t) => if sl = 1 ∧ pc' = pc ∧ n + 1 = s.stepNo ∧ t = s.t then id else 0
  | none => 0

/-- The v registers that a word reads in lanes other than its own: READLANE's source, in the lane it names (R178). -/
def farUses (s : State) (who : Issuer) : Instr → Option (Nat × Nat)
  | .readlane _ _ a b => some (((uniOf s who).rs b.toNat).toNat % 8, a.toNat)
  | _ => none
/-- Whether an issue reads a register that cannot be read (R379). A word whose guard reads 0 reads nothing (R25, R145). -/
def readErr (s : State) (who : Issuer) (mask : List Nat) (i : Instr) (p : Pfx) : Bool :=
  let lanes := match who, guardOf i with
    | .course c k, some g => if isU i then (if (uniOf s who).rq g then mask else []) else mask.filter (fun l => (s.lane c k l).rp g)
    | _, _ => mask
  (match who with
   | .course .. => !lanes.isEmpty
   | _ => true) && (match farUses s who i, who with
   | some (l, r), .course c k => vregErr s c (fun k' l' => k' == k && l' == l) r 1 || useErr s who lanes ((allUses i p).filter (·.file != .v))
   | _, _ => useErr s who lanes (allUses i p))

/-! ## The issue step -/

/-- What a scheduled issue comes to: nothing to execute (the state after it), or an instruction with `issue` set. -/
inductive Fetched where
  | stay (s : State)
  | go (s : State) (i : Instr)

/-- Lanes of a fetch miss park; the fetch is merged like any miss (R364, R90). The same of a fetch that goes to a peer (R406). -/
def parkFetch (s : State) (ag : Agent) (mask : List Nat) (pc va : W64) (prv : Bool) (iss : Nat) (pr : Probe) : State :=
  let c := (agentCore? ag).getD 0
  let a : Access := { id := s.nextAcc, iss := iss, ag := ag, kind := .fetch, form := va, ea := va, size := 4, prv := prv, pc := pc, next := pc, lanes := mask }
  match placeAcc s c a pr with
  | none => s
  | some (s, _) =>
    let s := { s with nextAcc := s.nextAcc + 1 }
    match ag with
    | .thread _ k _ => s.updCourse c k (·.mapLanes (fun l ln => if mask.contains l then { ln with st := .parked a.id } else ln))
    | _ => s

/-- Whether an issue's own word is a uniform or exchange word; prefixes are looked past, and with no word after them the first decides. -/
def uniformWord (p : Parts) (w0 : W32) : Bool :=
  match p.op with
  | none => wordSet w0
  | some w => wordSet w || (match decode w.toNat p.ad.toNat with
    | .ok i => isExchange i
    | .bad i => isExchange i
    | .illegal _ => false)
/-- A slice whose selected word is a uniform or exchange word, found at its PC (R28, R170). -/
def uniformAt (s : State) (c k : Nat) (pc : W64) : Bool :=
  let prv := prvOf s (.course c k)
  match fetchWords s (.thread c k 0) prv pc 3 [] none with
  | .stop _ => false
  | .words ws _ => uniformWord (splitWords ws {}) (ws.headD 0)

/-- The other slice, where its selected word is a uniform word that waits for the rest of the course: the issue counts for it too (R24, R28). -/
def otherHeld (s : State) (c k sl : Nat) (co : Course) (cmin : W64) : List Nat :=
  match selectPc co (1 - sl) with
  | some (pc, fair) => if !(pc == cmin || fair) && uniformAt s c k pc then [1 - sl] else []
  | none => []
/-- What lanes have asked for at other words, and the words of a fetch that its issue has used. -/
def dropStale (s : State) (ags : List Agent) (pc : W64) : State :=
  { s with accs := s.accs.filter (fun a => !(ags.contains a.ag && (match a.ph with
      | .replied .. => a.kind == .fetch || (a.dest == .again && a.pc != pc)
      | .flight _ => a.dest == .again && a.pc != pc
      | _ => false))) }
/-- Whether the course takes part in issue: it is active, or its quarter holds no more than 8 (R64). -/
def isActive (s : State) (c k : Nat) : Bool :=
  let co := (s.course? c k).getD {}
  co.active || ((mkeys (s.core c).courses).filter (fun j => j / 128 == k / 128)).length ≤ 8

/-- An issue of slice `sl` of a course. -/
def fetchSlice (s : State) (c k sl : Nat) : Fetched :=
  match s.course? c k with
  | none => .stay s
  | some co =>
    if !isActive s c k || co.yield || sl ≥ 2 then .stay s
    else match selectPc co sl, courseMin co with
      | some (pc, fair), some cmin =>
        let sliceMask := (List.range 8).filter (fun l => l / 4 == sl && (co.lane l).isReady && (co.lane l).pc == pc)
        let allMask := (List.range 8).filter (fun l => (co.lane l).isReady && (co.lane l).pc == pc)
        let l0 := sliceMask.headD 0
        let prv := prvOf s (.course c k)
        let id := s.nextIss
        let s := { s with nextIss := id + 1 }
        match fetchWords s (.thread c k l0) prv pc 3 [] none with
        | .stop (.miss va) => .stay (parkFetch s (.thread c k l0) sliceMask pc va prv id (.miss va))
        | .stop (.far va) => .stay (parkFetch s (.thread c k l0) sliceMask pc va prv id (.go va va.toNat none))
        | .stop (.bad r) => .stay (issueFault s { who := .course c k, mask := sliceMask, pc := pc, wpc := pc, next := r.loc.setWidth 64 + 4, id := id,
                                                  counts := sl :: otherHeld s c k sl co cmin } sliceMask r)
        | .stop (.ecc src va) => .stay (eccAt s (.thread c k l0) pc sliceMask va src false)
        | .stop (.word _ _) => .stay s
        | .stop .wait => .stay s
        | .words ws refill =>
          let s := match refill with
            | some e => tlbRefill s c (k / 128) e
            | none => s
          let p := splitWords ws {}
          let fate := fateOf s (.course c k) p
          let uni := match fate with
            | .instr i => isU i || isExchange i
            -- a badly encoded exchange word or ISSV gathers the course as a good one does (R170, R218, R345)
            | .bad .. => uniformWord p (ws.headD 0)
          if uni && !(pc == cmin || fair) then .stay s
          else
            let mask := if uni then allMask else sliceMask
            let counts := if uni then [0, 1] else sl :: otherHeld s c k sl co cmin
            let n := p.pre.length
            let iss : Issue := { who := .course c k, mask := mask, pc := pc, wpc := pc + BitVec.ofNat 64 (4 * n),
                                 next := pc + BitVec.ofNat 64 (4 * ws.length), pfx := toPfx p.pre {}, word := p.op.getD 0, pos := n, id := id,
                                 gang := if uni then 0 else gangOf s co sl pc, counts := counts }
            let ags := mask.map (Agent.thread c k ·)
            let fetched (s : State) : State := dropStale (noteFetch s ags prv pc ws.length) ags pc
            if !ags.all (fun ag => wordsOrdered s ag prv pc ws.length) then .stay s
            else match fate with
            | .bad code reason pos w => .go { fetched s with issue := some iss } (.illegalWord code reason pos w)
            | .instr i =>
              if co.issv.any (fun r => r.pc == pc && r.mask.any mask.contains) || scoreHeld s (.course c k) mask i iss.pfx then .stay s
              else if readErr s (.course c k) mask i iss.pfx then .stay (issueFault s iss mask (unitRec 6))
              else
                let s := fetched s
                .go { s.updCourse c k (noteIssue s c k sl iss i) with issue := some iss } i
      | _, _ => .stay s

/-- The next word of an agent without lanes: a batten job or a matrix sequencer. -/
def fetchAgent (s : State) (who : Issuer) (ag : Agent) (pc : W64) (bad : State → FaultRec → State) : Fetched :=
  let id := s.nextIss
  let s := { s with nextIss := id + 1 }
  if s.accs.any (fun a => a.ag == ag && (a.stuck || (a.kind == .fetch && (match a.ph with | .replied .. => false | _ => true))
      || (a.dest == .again && a.ph.cancels))) then .stay s
  else match fetchWords s ag (prvOf s who) pc 3 [] none with
    | .stop (.miss va) => .stay (parkFetch s ag [] pc va (prvOf s who) id (.miss va))
    | .stop (.far va) => .stay (parkFetch s ag [] pc va (prvOf s who) id (.go va va.toNat none))
    | .stop (.bad r) => .stay (bad s r)
    | .stop (.ecc src va) => .stay (eccAt s ag pc [] va src false)
    | .stop (.word _ _) => .stay s
    | .stop .wait => .stay s
    | .words ws _ =>
      let p := splitWords ws {}
      let n := p.pre.length
      let iss : Issue := { who := who, pc := pc, wpc := pc + BitVec.ofNat 64 (4 * n), next := pc + BitVec.ofNat 64 (4 * ws.length),
                           pfx := toPfx p.pre {}, word := p.op.getD 0, pos := n, id := id }
      let s1 := dropStale (noteFetch s [ag] (prvOf s who) pc ws.length) [ag] pc
      if !wordsOrdered s ag (prvOf s who) pc ws.length then .stay s
      else match fateOf s who p with
      | .bad code reason pos w => .go { s1 with issue := some iss } (.illegalWord code reason pos w)
      | .instr i =>
        if scoreHeld s who [] i iss.pfx then .stay s
        else if readErr s who [] i iss.pfx then .stay (issueFault s iss [] (unitRec 6))
        else .go { s1 with issue := some iss } i

/-- A batten job's next word (R248). -/
def fetchJob (s : State) (c p : Nat) : Fetched :=
  match s.job? c p with
  | none => .stay s
  | some j => fetchAgent s (.job c p) (.job c p) j.pc (fun s r => jobFault s c p j.pc r)

/-- A matrix sequencer's next word (R230): not while it waits, has ended, or is stopped or stopping (R325). -/
def fetchSeq (s : State) (c b : Nat) : Fetched :=
  match s.seq? c b with
  | none => .stay s
  | some q =>
    if q.run ≠ .running || q.stopped || q.stop.isSome || q.ops.any (fun x => x.kind == .mend) then .stay s
    else fetchAgent s (.seq c b) (.seq c b) q.pc (fun s r => seqFault s c b q.pc r)

end

end Sys2Proof.Machine
end

