-- ==== Sys2Proof/Machine/Trap.lean ====
section
/-! DEFINITION. Leaving a trap: the return of a course to its saved state (R307, R315), the sequencer image (R324), and the resume step of a block
(R329, R330). -/

namespace Sys2Proof.Machine

/-! ## The sequencer image (R324) -/

def runNum : Run → Nat
  | .running => 0 | .waiting => 1 | .ended => 2
/-- The 64 bytes of the image; zeros for a block without a sequencer. -/
def seqImage (q : Option Seq) : W512 :=
  match q with
  | none => 0
  | some q =>
    let c := fun (n : Nat) => mget q.c n 0
    let w := fun (n : Nat) => mget q.w n 0
    let arm := fun (n : Nat) => BitVec.ofBool (mget q.arm n false)
    q.pc ++ q.sb ++ c 3 ++ c 2 ++ c 1 ++ c 0 ++ w 7 ++ w 6 ++ w 5 ++ w 4 ++ w 3 ++ w 2 ++ w 1 ++ w 0 ++ (0 : BitVec 138) ++ q.sareg
      ++ BitVec.ofNat 2 (runNum q.run) ++ arm 3 ++ arm 2 ++ arm 1 ++ arm 0 ++ BitVec.ofBool q.sav ++ q.tb ++ q.ta ++ (0 : BitVec 3)
/-- The sequencer of an image. One that was waiting runs again, and its MBAR.W is evaluated anew (R329). -/
def seqOfImage (x : Nat) : Seq :=
  { pc := BitVec.ofNat 64 (x / 2 ^ 448), sb := BitVec.ofNat 32 (x / 2 ^ 416),
    c := (List.range 4).map (fun n => (n, BitVec.ofNat 32 (x / 2 ^ (288 + 32 * n)))),
    w := (List.range 8).map (fun n => (n, BitVec.ofNat 16 (x / 2 ^ (160 + 16 * n)))),
    sareg := BitVec.ofNat 6 (x / 2 ^ 16), run := if x / 2 ^ 14 % 4 = 2 then .ended else .running,
    arm := (List.range 4).map (fun n => (n, x / 2 ^ (10 + n) % 2 == 1)), sav := x / 2 ^ 9 % 2 == 1,
    tb := BitVec.ofNat 3 (x / 2 ^ 6), ta := BitVec.ofNat 3 (x / 2 ^ 3) }

/-! ## ERET without operands (R315) -/

/-- The barrier instruction at a PC, as barrier number and next issue: its words read through the bay's tables. -/
def barrierAt (s : State) (b : Nat) (u : Uni) (pc : W64) : Nat → Nat → Option (Nat × W64)
  | 0, _ => none
  | n + 1, k =>
    match bayAccess s b .fetch (pc + BitVec.ofNat 64 (4 * k)) 4 true with
    | .ok pa =>
      let w := s.readNat (canonPa s pa) 4
      let num := fun (sr : BitVec 1) (x : BitVec 12) => if sr = 1 then (u.rs (x.toNat / 64)).toNat % 1024 else x.toNat % 1024
      if isPrefix w then barrierAt s b u pc n (k + 1)
      else (match decL w 0 with
        | .ok (.barW _ sr _ _ x) => some (num sr x, pc + BitVec.ofNat 64 (4 * (k + 1)))
        | .ok (.barAw _ sr _ _ x) => some (num sr x, pc + BitVec.ofNat 64 (4 * (k + 1)))
        | _ => none)
    | _ => none
/-- A lane takes its saved state. A KIND 1 lane with no barrier instruction at its PC is ready there. -/
def restoreLane (s : State) (b : Nat) (u : Uni) (ln : Lane) : Lane :=
  if ln.st ≠ .eret then ln
  else if ln.skind = 2 then { ln with st := .exited, fence := none }
  else match (if ln.skind = 1 then barrierAt s b u ln.spc 3 0 else none) with
    | some (n, next) => { ln with st := .phase n next, pc := ln.spc }
    | none => { ln with st := .ready, pc := ln.spc }
/-- The loads still outstanding of lanes that exit write no register (R41), a ULD of the lowest lane among them (log 32). A UATOM is an atomic: it is
performed, and its old value goes to the s registers (R206). -/
def dropLoads (s : State) (c k : Nat) (ls : List Nat) : State :=
  { s with accs := s.accs.map (fun a => match a.ag, a.dest with
      | _, .uold _ _ => a
      | .thread c' k' l, _ => if c' = c ∧ k' = k ∧ ls.contains l then { a with dest := .none } else a
      | _, _ => a) }
/-- The course leaves its trap. Lanes that it leaves exited have no load outstanding (R41, R242). -/
def leaveTrap (s : State) (c k : Nat) (co : Course) : State :=
  let s := dropLoads s c k ((List.range 8).filter (fun l => (co.lane l).st == .eret && (co.lane l).skind == 2))
  s.setCourse c k { co.mapLanes (fun _ => restoreLane s (s.bayOf c) co.u) with ts := false, prv := false, cause := 0, addr := 0 }

/-- A course in a trap, or to enter one, with a live lane. -/
def inTrap (co : Course) : Bool := (co.ts || co.yield) && co.lanes.any (·.live)
/-- The resume step, made with the block's last ERET: the sequencer takes its image, BJOB is released, phases complete again. `fin` performs the ERET: an
image that cannot be read yet leaves the course at it. -/
def resumeStep (s0 : State) (fin : State → State) (c b : Nat) : State :=
  let s := fin s0
  match s.block? c b with
  | none => s
  | some bl =>
    if !bl.deferred || bl.slots.any (fun k => inTrap ((s.course? c k).getD {})) then s
    else
      let done := fun (s : State) (q : Option Seq) => s.setBlock c b { bl with st := .running, deferred := false, image := none, seq := q }
      match bl.seq with
      | none => done s none
      | some _ => match bayRead s0 (.core c) true [b, 512] (bl.save + 64) 3 64 (bl.save + 64) [] with
        | .ok s1 x => done (fin s1).bumpFree (some (seqOfImage (leNum x)))
        | .stay s1 => s1
        | .bad r => imageFault s0 c (bl.save + 64) r
        | .ecc src => eccAt s0 (.core c) 0 [] (bl.save + 64) src false

/-- The course performs the ERET once every live lane waits at it (R350). A course that has no live lane left is out of its trap. -/
def eretCheck (s : State) (c k : Nat) : State :=
  match s.course? c k with
  | none => s
  | some co =>
    let live := co.lanes.filter (·.live)
    if live.isEmpty then (if co.ts then resumeStep s id c co.blk else s)
    else if live.all (fun ln => ln.st == .eret && ln.pc == (live.headD {}).pc) then resumeStep s (fun s => leaveTrap s c k ((s.course? c k).getD co)) c co.blk
    else s

end Sys2Proof.Machine
end

