-- ==== Sys2Proof/Machine/Control.lean ====
section
/-! DEFINITION. Control flow: branches, calls, EXIT, the barrier instructions, shingle issue, uniform control, SPAWN and SFENCE (spec/11). -/

namespace Sys2Proof.Machine

noncomputable section

/-! ## Branches and calls of the lanes (R208, R209) -/

/-- W + 4 × a signed word offset. -/
def wordOff (w : W64) {n : Nat} (o : BitVec n) : W64 := w + (o.signExtend 64) * 4
/-- Bits 1:0 cleared. -/
def aligned (x : W64) : W64 := x &&& ~~~3#64
/-- An L-set word that moves the PCs of its active lanes; the others advance. -/
def jumpWord (s : State) (g : Guard) (f : Issue → Lane → Lane) : Host.Outcome State Fault Refusal :=
  lword s g (fun iss _ _ => endIssue s iss false (fun _ ln => if ln.rp g then f iss ln else { ln with pc := iss.next }) iss.next)

/-- Target of BRA: IMM16, or with an IMM prefix a 32-bit offset. -/
def braTarget (iss : Issue) (o : BitVec 16) : W64 :=
  match iss.pfx.imm with
  | some q => wordOff iss.wpc (q.setWidth 16 ++ o : BitVec 32)
  | none => wordOff iss.wpc o
/-- Target of CALL: A : B, or with an IMM prefix a 32-bit offset. -/
def callTarget (iss : Issue) (o : BitVec 12) : W64 :=
  match iss.pfx.imm with
  | some q => wordOff iss.wpc (q.setWidth 20 ++ o : BitVec 32)
  | none => wordOff iss.wpc o

def execBra (g : Guard) (o : BitVec 16) (s : State) : Host.Outcome State Fault Refusal :=
  jumpWord s g (fun iss ln => { ln with pc := braTarget iss o })
def execNop (g : Guard) (s : State) : Host.Outcome State Fault Refusal := lane1 s g (fun ln => ln)
def execBrx (g : Guard) (a : Reg) (s : State) : Host.Outcome State Fault Refusal :=
  jumpWord s g (fun _ ln => { ln with pc := aligned (ln.rv2 a.toNat) })
def execCall (g : Guard) (d : Reg) (o : BitVec 12) (s : State) : Host.Outcome State Fault Refusal :=
  jumpWord s g (fun iss ln => { ln.wv2 d.toNat iss.next with pc := callTarget iss o })
def execCallx (g : Guard) (d a : Reg) (s : State) : Host.Outcome State Fault Refusal :=
  jumpWord s g (fun iss ln => { ln.wv2 d.toNat iss.next with pc := aligned (ln.rv2 a.toNat) })
def execRet (g : Guard) (a : Reg) (s : State) : Host.Outcome State Fault Refusal :=
  jumpWord s g (fun _ ln => { ln with pc := aligned (ln.rv2 a.toNat) })

/-- EXIT (R41, R210); it may complete a gather or an ERET, or split the course. -/
def execExit (g : Guard) (s : State) : Host.Outcome State Fault Refusal :=
  lword s g (fun iss c sl =>
    let act := activeLanes s iss g
    eretCheck (gatherCheck (dropLoads
      (endIssue s iss false (fun _ ln => if ln.rp g then { ln with st := .exited, fence := none } else { ln with pc := iss.next }) iss.next)
      c sl act) c sl) c sl)

/-! ## Barrier instructions (R212, R213) -/

/-- The lanes whose guard reads 1 wait at the instruction; then the course may gather. -/
def barWord1 (k : BarKind) (g : Guard) (sr p : BitVec 1) (r : BitVec 3) (n : BitVec 12) (s : State) : Host.Outcome State Fault Refusal :=
  lword s g (fun iss c sl =>
    let ref : BarRef := { kind := k, sreg := sr == 1, peer := p == 1, rank := r.toNat,
                          num := if sr = 1 then n.toNat / 64 else n.toNat, pos := iss.pos, next := iss.next }
    gatherCheck (endIssue s iss false (fun _ ln => if ln.rp g then { ln with st := .barrier ref } else { ln with pc := iss.next }) iss.next) c sl)
def execBarA (g : Guard) (sc p : BitVec 1) (r : BitVec 3) (n : BitVec 12) (s : State) : Host.Outcome State Fault Refusal := barWord1 .a g sc p r n s
def execBarW (g : Guard) (sc p : BitVec 1) (r : BitVec 3) (n : BitVec 12) (s : State) : Host.Outcome State Fault Refusal := barWord1 .w g sc p r n s
def execBarAw (g : Guard) (sc p : BitVec 1) (r : BitVec 3) (n : BitVec 12) (s : State) : Host.Outcome State Fault Refusal := barWord1 .aw g sc p r n s

/-- A further phase of a barrier whose COUNT still reaches EXPECT (R211), in a later step. -/
def execSurplusPhaseComplete (core blk bar : Nat) (s : State) : Host.Outcome State Fault Refusal := .next (completePhase s core blk bar)

/-! ## Shingle issue (R218 to R220, R351, R352) -/

/-- The distinct words of the active lanes, by the lowest lane that holds each (R218). -/
def issvWords (s : State) (c k : Nat) (a : Reg) : List Nat → List (W32 × List Nat) → List (W32 × List Nat)
  | [], ws => ws
  | l :: ls, ws =>
    let w := (s.lane c k l).rv a.toNat
    issvWords s c k a ls (if ws.any (·.1 == w) then ws.map (fun e => if e.1 == w then (e.1, e.2 ++ [l]) else e) else ws ++ [(w, [l])])

/-- What a word of an ISSV comes to: an effect in each lane, accesses, or the REASON of ISSV_LANE. -/
inductive IssvWord where
  | lane (g : Guard) (f : Lane → Lane)
  | mem (g : Guard) (run : List Nat → Issued)
  | bad (reason : Nat)
def issvWord (s : State) (iss : Issue) (c k : Nat) (w : W32) : IssvWord :=
  if w.getLsbD 31 ∨ w.toNat / 2 ^ 26 > 0x17 ∨ w.toNat / 2 ^ 26 = 0x0A then .bad 7
  else
    let go := fun (i : Instr) (raw : Bool) =>
      match opReasons s iss.who w i raw with
      | r :: _ => IssvWord.bad r
      | [] => match laneWord i iss.pfx, memWordRun i s iss c k with
        | some x, _ => .lane x.1 x.2
        | none, some x => .mem x.1 x.2
        | none, none => .bad 7
    match decL w.toNat 0 with
    | .illegal _ => .bad 6
    | .bad i => go i true
    | .ok i => go i false

/-- The words one after another; a word that must be held ends the list, with what is left. -/
def issvRun (iss : Issue) (c k : Nat) : State → List (Nat × FaultRec) → List (W32 × List Nat) →
    State × List (Nat × FaultRec) × List (W32 × List Nat)
  | s, bad, [] => (s, bad, [])
  | s, bad, (w, ls) :: rest =>
    match issvWord s iss c k w with
    | .bad reason => issvRun iss c k s (bad ++ ls.map (fun l => (l, { code := 0x04, aux := aux0 reason 0 w }))) rest
    | .lane g f => issvRun iss c k (s.updCourse c k (·.mapLanes (fun l ln => if ls.contains l && ln.rp g then f ln else ln))) bad rest
    | .mem g run =>
      let r := run (ls.filter (fun l => (s.lane c k l).rp g))
      if r.held then (s, bad, (w, ls) :: rest)
      else
        -- a lane whose access parks waits, already past the ISSV
        let s' := r.s.updCourse c k (·.mapLanes (fun l ln => match r.parked.find? (·.1 == l) with
          | some (_, id) => { ln with st := .parked id, pc := iss.next, fair := 0 }
          | none => ln))
        issvRun iss c k s' (bad ++ r.bad) rest

/-- Faulting lanes in ascending order, so that each record carries its lowest lane's details (R352). -/
def insertBad (x : Nat × FaultRec) : List (Nat × FaultRec) → List (Nat × FaultRec)
  | [] => [x]
  | y :: l => if x.1 ≤ y.1 then x :: y :: l else y :: insertBad x l

/-- The words of an ISSV from the first that has not executed: to the end, or to a word that must be held. Lanes that park are past the ISSV and wait
at it no more. -/
def issvGo (s : State) (c k : Nat) (run : IssvRun) : State :=
  let iss : Issue := { who := .course c k, id := run.iss, mask := run.mask, pc := run.pc, wpc := run.next - 4, next := run.next, word := run.word,
                       pos := run.pos, counts := run.counts, pfx := { round := run.round }, issv := true }
  let err := run.todo.any (fun w => match decL w.1.toNat 0 with
    | .ok i => useErr s iss.who w.2 (allUses i {})
    | .bad i => useErr s iss.who w.2 (allUses i {})
    | .illegal _ => false)
  if err then faultLanes s iss run.mask (unitRec 6)
  else
  let r := issvRun iss c k s run.bad run.todo
  let rest := ((s.course? c k).getD {}).issv.filter (fun x => x.pc != run.pc)
  if r.2.2.isEmpty then
    let bad := r.2.1.foldr insertBad []
    let s' := r.1.updCourse c k (fun x => { x with issv := rest })
    let s' := endIssue s' iss false (fun l ln =>
      if ln.isReady && ln.pc == run.pc && !bad.any (·.1 == l) then { ln with pc := run.next } else ln) run.next
    faultByCode s' iss bad.length bad
  else
    let here := fun (l : Nat) => (r.1.lane c k l).isReady && (r.1.lane c k l).pc == run.pc
    r.1.updCourse c k (fun x => { x with issv := rest ++ [{ run with mask := run.mask.filter here, todo := r.2.2, bad := r.2.1 }] })
def execIssv (g : Guard) (a : Reg) (s : State) : Host.Outcome State Fault Refusal :=
  lword s g (fun iss c k =>
    issvGo s c k { iss := iss.id, mask := iss.mask, pc := iss.pc, next := iss.next, word := iss.word, pos := iss.pos, counts := iss.counts,
                   round := iss.pfx.round, todo := issvWords s c k a (activeLanes s iss g) [], bad := [] })
/-- An ISSV held at a word goes on (R220). It is part of an issue already made, so a yield does not stop it. -/
def issvResume (s : State) (c k : Nat) (pc : W64) : State :=
  match ((s.course? c k).getD {}).issv.find? (fun r => r.pc == pc) with
  | some r => issvGo s c k r
  | none => s

/-! ## Uniform control (R221, R222) -/

/-- The PCs of the mask, or the job's PC, move. -/
def ujump (s : State) (iss : Issue) (pc : W64) : State := endIssue s iss true (fun _ ln => { ln with pc := pc }) pc
/-- The uniform registers of the issuer rewritten. -/
def updIss (s : State) (w : Issuer) (f : Uni → Uni) : State :=
  match w with
  | .course c k => s.updCourse c k (fun co => { co with u := f co.u })
  | .job c p => s.updJob c p (fun j => { j with u := f j.u })
  | .seq _ _ => s
def ubraTarget (iss : Issue) (o : BitVec 22) : W64 :=
  match iss.pfx.imm with
  | some q => wordOff iss.wpc (q.setWidth 10 ++ o : BitVec 32)
  | none => wordOff iss.wpc o
def execUbra (q : Guard) (o : BitVec 22) (s : State) : Host.Outcome State Fault Refusal := uword s q (fun iss => ujump s iss (ubraTarget iss o))
def execUcall (q : Guard) (d : Reg) (o : BitVec 12) (s : State) : Host.Outcome State Fault Refusal :=
  cword s q (fun iss _ _ => ujump (updIss s iss.who (·.ws d.toNat iss.next)) iss (wordOff iss.wpc o))
def execUcallx (q : Guard) (d a : Reg) (s : State) : Host.Outcome State Fault Refusal :=
  cword s q (fun iss _ _ => ujump (updIss s iss.who (·.ws d.toNat iss.next)) iss (aligned ((uniOf s iss.who).rs a.toNat)))
def execUret (q : Guard) (a : Reg) (s : State) : Host.Outcome State Fault Refusal :=
  uword s q (fun iss => ujump s iss (aligned ((uniOf s iss.who).rs a.toNat)))
def execUloop (q : Guard) (d : Reg) (o : BitVec 12) (s : State) : Host.Outcome State Fault Refusal :=
  uword s q (fun iss =>
    let x := (uniOf s iss.who).rs d.toNat
    if x = 0 then ujump s iss iss.next
    else ujump (updIss s iss.who (·.ws d.toNat (x - 1))) iss (if x - 1 = 0 then iss.next else wordOff iss.wpc o))

/-! ## Barrier initialisation, saving and loading (R214 to R217) -/

/-- The block of the issuer. -/
def issBlock (s : State) (iss : Issue) : Block := (s.block? (issCore iss.who) (blkOf s iss.who)).getD {}

/-- BARINIT (R214). An EXPECT of 0 comes before a number the block does not have: R349 orders neither (log 106). -/
def execBarinit (q : Guard) (a b : Reg) (s : State) : Host.Outcome State Fault Refusal :=
  cword s q (fun iss c _ =>
    let u := uniOf s iss.who
    let n := (u.rs a.toNat).toNat % 1024
    let e : BitVec 16 := (u.rs b.toNat).setWidth 16
    if e = 0 then valueFault s iss
    else if (issBlock s iss).nbar ≤ n then issueFault s iss iss.mask { code := 0x05, aux := aux0 0 iss.pos (barWord n 0 false) }
    else skip (s.updBlock c (blkOf s iss.who) (fun bl => { bl with bars := mset bl.bars n { bl.bar n with count := 0, expect := e } })) iss true)

/-- The 8 bytes of an image entry (R215). -/
def barImage (x : Barrier) : List Byte := natBytes 8 (x.phase ++ x.expect ++ x.count).toNat

/-- The stores of a BARSAVE, entry by entry; the first check that fails, or a store that must be held, stops it before any effect. An image address that is
not 8-byte aligned takes no fault of its own (R215, R349): only a store that crosses a sector fails (log 111). -/
def barStores (iss : Issue) (c k : Nat) (bl : Block) (img : W64) : List Nat → Issued → Issued
  | [], r => r
  | n :: ns, r =>
    let va := img + BitVec.ofNat 64 (8 * n)
    let ag := Agent.thread c k iss.low
    let a : Access := { id := 0, iss := r.s.nextAcc, ag := ag, kind := .store, form := va, ea := va, size := 8, data := barImage (bl.bar n), scope := 3,
                        prv := prvOf r.s iss.who, pc := iss.pc, next := iss.next, lanes := iss.mask, acq := acqOf r.s ag }
    let id := r.s.nextAcc
    let r' := issueOne c r iss.low a
    if r'.held || !r'.bad.isEmpty then r' else barStores iss c k bl img ns { r' with parked := r'.parked ++ [(0, id)] }

def execBarsave (q : Guard) (a : Reg) (s : State) : Host.Outcome State Fault Refusal :=
  cword s q (fun iss c k =>
    let img := (uniOf s iss.who).rs a.toNat
    let b := blkOf s iss.who
    let bl := issBlock s iss
    if !((s.course? c k).getD {}).ts then noPriv s iss
    else if bl.dir.isSome then valueFault s iss
    else if ((s.core c).blocks.filter (fun e => e.2.dir.isSome)).length ≥ 64 then s
    else
      let r := barStores iss c k bl img (List.range bl.nbar) { s := s }
      if r.held then s
      else match r.bad with
        | (_, f) :: _ => issueFault s iss iss.mask f
        | [] =>
          let ids := r.parked.map (·.2)
          let s' := r.s.updBlock c b (fun x => { x with dir := some img, imgStores := ids })
          endIssue s' iss true (fun _ ln => { ln with st := .pend { kind := .barsave, accs := ids, frame := 0, d := 0, next := iss.next } }) iss.next)

/-- Adds of the core to the image that have not been performed, or are held (R216, R217). -/
def imageAddsOut (s : State) (c : Nat) (bl : Block) (img : W64) : Bool :=
  !bl.heldAdds.isEmpty || s.accs.any (fun a => a.ag == Agent.core c && a.ph.unperformed &&
    decide (img.toNat ≤ a.form.toNat ∧ a.form.toNat < img.toNat + 8 * bl.nbar))

/-- The held arrivals are applied, and BARSAVE completes once its stores and they have been performed (R216). -/
def execBarsaveHeldAdds (core blk : Nat) (s : State) : Host.Outcome State Fault Refusal :=
  .next (
    let s := drainAdds s core blk (((s.block? core blk).map (·.heldAdds.length)).getD 0)
    match s.block? core blk with
    | none => s
    | some bl => match bl.dir with
      | none => s
      | some img =>
        if imageBusy s bl || imageAddsOut s core bl img then s
        else bl.slots.foldl (fun s k => s.updCourse core k (·.mapLanes (fun _ ln => match ln.st with
          | .pend p => if p.kind = .barsave then { ln with st := .ready, pc := p.next } else ln
          | _ => ln))) s)

/-- A barrier from its image entry. -/
def barOfImage (x : Nat) : Barrier :=
  { count := BitVec.ofNat 32 x, expect := BitVec.ofNat 16 (x / 2 ^ 32), phase := BitVec.ofNat 16 (x / 2 ^ 48) }
/-- The entries of an image, read one by one. -/
def barLoads (iss : Issue) (img : W64) : List Nat → State → Map Barrier → Except OpRead (State × Map Barrier)
  | [], s, m => .ok (s, m)
  | n :: ns, s, m =>
    match opReadSec s iss (img + BitVec.ofNat 64 (8 * n)) 8 with
    | .ok s' b => barLoads iss img ns s' (mset m n (barOfImage (leNum b)))
    | r => .error r

def execBarload (q : Guard) (a : Reg) (s : State) : Host.Outcome State Fault Refusal :=
  cword s q (fun iss c k =>
    let img := (uniOf s iss.who).rs a.toNat
    let b := blkOf s iss.who
    let bl := issBlock s iss
    if !((s.course? c k).getD {}).ts then noPriv s iss
    else if bl.dir ≠ some img then valueFault s iss
    else if imageBusy s bl || imageAddsOut s c bl img then s
    else match barLoads iss img (List.range bl.nbar) s bl.bars with
      | .error r => withRead s iss img r (fun s _ => s)
      | .ok (s', bars) => skip (s'.updBlock c b (fun x => { x with bars := bars, dir := none, imgStores := [] })) iss true)

/-! ## SPAWN and SFENCE (R50, R223, R224) -/

/-- Append an entry to a level, numbered with the bay's next JSEQ, which goes to sD. -/
def spawnAppend (s : State) (iss : Issue) (c k lvl : Nat) (fence : Bool) (addr : W64) (d : Reg) : State :=
  let b := s.bayOf c
  let j := (s.bay b).jseq
  let e : SpawnE := { jseq := j, fence := fence, addr := addr, prv := prvOf s iss.who, core := c, slot := k }
  let s := s.updBay b (fun y => { y with jseq := j + 1, levels := mset y.levels lvl (mget y.levels lvl [] ++ [e]) })
  skip (updIss s iss.who (·.ws d.toNat (BitVec.ofNat 64 j))) iss true
def levelFull (s : State) (c lvl : Nat) : Bool := 1024 ≤ (mget (s.bay (s.bayOf c)).levels lvl []).length

def execSpawn (q : Guard) (d a : Reg) (s : State) : Host.Outcome State Fault Refusal :=
  cword s q (fun iss c k =>
    let h := (uniOf s iss.who).rs a.toNat
    if h.toNat % 64 ≠ 0 then valueFault s iss
    else if !relPassed s (uniAgent iss) 7 then s
    else withRead s iss (h + 51) (opReadSec s iss (h + 51) 1 true) (fun s' x =>
      -- byte 51 holds bits 415:408; PRIO is bits 412:411
      let lvl := leNum x / 8 % 4
      if levelFull s' c lvl then s else spawnAppend s' iss c k lvl false h d))

def execSfence (q : Guard) (d a b : Reg) (s : State) : Host.Outcome State Fault Refusal :=
  cword s q (fun iss c k =>
    let u := uniOf s iss.who
    let r := u.rs a.toNat
    let lvl := (u.rs b.toNat).toNat
    if r.toNat % 64 ≠ 0 ∨ lvl ≥ 4 then valueFault s iss
    else if !relPassed s (uniAgent iss) 7 || levelFull s c lvl then s
    else spawnAppend s iss c k lvl true r d)

end

end Sys2Proof.Machine
end

