-- ==== Sys2Proof/Machine/Events.lean ====
section
/-! DEFINITION. The steps of the lease machine (R267 to R275, R281), of the quarter scheduler (R64 to R66), of time (R378), and of the messages that
wait for room in mailbox 14 (R49). -/

namespace Sys2Proof.Machine

noncomputable section

/-! ## The lease machine -/

def execCopyHit (acc : Nat) (s : State) : Host.Outcome State Fault Refusal := .next (copyHit s acc)
def execHomeRead (acc : Nat) (s : State) : Host.Outcome State Fault Refusal := .next (homeRead s acc)
def execLoadReply (acc : Nat) (s : State) : Host.Outcome State Fault Refusal := .next (loadReply s acc)
def execHomeWrite (acc : Nat) (s : State) : Host.Outcome State Fault Refusal := .next (homeWrite s acc)
def execCompletionRecord (acc : Nat) (s : State) : Host.Outcome State Fault Refusal := .next (completionRecord s acc)
/-- A lane's fence passes; the oldest arrival of its course whose release can pass is applied (R277). -/
def execFencePass (core slot lane : Nat) (s : State) : Host.Outcome State Fault Refusal :=
  .next (applyArrival (fencePass s core slot lane) core ((s.course? core slot).getD {}).blk slot)
/-- A copy is dropped (R269). -/
def execCopyExpiry (core gran : Nat) (s : State) : Host.Outcome State Fault Refusal :=
  .next (s.updCore core (fun co => co.dropCopy gran))
/-- The sweep drops the copies that may no longer serve (R269). -/
def execL1CopySweep (core : Nat) (s : State) : Host.Outcome State Fault Refusal :=
  .next (s.updCore core (fun co => { co.keepCopies (fun _ cp => mayServe cp.exp (s.coreT core)) with swept := s.coreT core }))
def execCxlWriteCompletion (acc : Nat) (s : State) : Host.Outcome State Fault Refusal := .next (cxlWriteCompletion s acc)

/-- Write bytes at their offsets in a sector, in order. -/
def writeSector (s : State) (sector : Nat) (b : List (Nat × Byte)) : State := b.foldl (fun s e => s.writeByte (32 * sector + e.1) e.2) s
/-- The write-through of a 64-byte line of host or pool memory (R275). -/
def toLink (s : State) (canon : Nat) : State :=
  let line := { s with out := s.out ++ [.cxlWrite (canon / 64 * 64) (s.readBytes (canon / 64 * 64) 64)] }
  match tierOf s canon with
  | .host => line
  | .pool => line
  | _ => s
/-- What a write of a sector at its home does to the lease level and the cache part (`nosc`: its mapping allocates nothing there, R89; R268). -/
def writeHome (s : State) (sector : Nat) (nosc : Bool) : State :=
  let canon := 32 * sector
  let s := { s with leases := mset s.leases (canon / 64) { leaseOf s canon with lvl := 0 } }
  match target? s canon with
  | some t => sofTouch s t 0 nosc true
  | none => s
/-- What a write step at a home does besides the value: LVL, the dirty record, the monitor lookup, and with `link` the write-through (R268, R270, R275,
R96). -/
def afterWriteBy (s : State) (sector : Nat) (sig nosc link : Bool) : State :=
  let sl := homeOf s (32 * sector)
  let s := writeHome s sector nosc
  let s := recordDirty (if link then toLink s (32 * sector) else s) sl (32 * sector)
  if sig then lookupSector s sl sector else s
def afterWrite (s : State) (sector : Nat) (sig nosc : Bool) : State := afterWriteBy s sector sig nosc true

/-- Bytes written at the home of one sector in one step as an access of an agent, with the record, or the write-through before it, on its way (R267,
R275); without `link` its line is written through with the next sector. -/
def sectorWriteBy (s : State) (a : Access) (sector : Nat) (bs : List (Nat × Byte)) (link : Bool) : State :=
  match target? s (32 * sector) with
  | none => s
  | some t =>
    let s := if wholeSector bs then { s with bad := s.bad.filter (fun u => match u with | .memory x _ => x != sector | _ => true) } else s
    let r := recordAt s t t.canon
    let ph : Phase := if t.tier = .host ∨ t.tier = .pool then .cxl r [] t.canon else .recorded r [] t.canon
    afterWriteBy { writeSector s sector bs with accs := s.accs ++ [{ a with id := s.nextAcc, ph := ph, t0 := s.t }], nextAcc := s.nextAcc + 1 } sector
      a.sig a.nosc link
def sectorWrite (s : State) (a : Access) (sector : Nat) (bs : List (Nat × Byte)) : State := sectorWriteBy s a sector bs true
/-- Whether a service core's stores of n bytes can be performed now: no FENCE of it waits (R272), what it issued before is performed (R271, R303), no
sector of them is to be published first (R298), and the port of far memory is up (R377). -/
def svcReady (s : State) (pa n : Nat) : Bool :=
  !(mget s.services 0 {}).fence && !s.accs.any (fun a => a.ag == Agent.service 0 && a.ph.unperformed)
  && (List.range (n / 32 + 2)).all (fun k => match target? s (32 * (pa / 32 + k)) with
    | none => true
    | some t => decide (pa + n ≤ 32 * (pa / 32 + k)) || (!lateForTp s (t.canon / 32) (homeT s t.slice)
        && (match t.tier with | .host => s.hUp | .pool => s.mUp | _ => true)))
/-- A service core's store of bytes from a physical address, sector by sector (R266): performed at their homes in this step, each with its record to
come; a 64-byte line of far memory leaves in one write (R425). The spec does not say which of the four cores does what; the model takes core 0 (log 62). -/
def svcStore (s : State) (pa : Nat) (b : List Byte) : State :=
  (List.range (b.length / 32 + 2)).foldl (fun s k =>
    let sec := pa / 32 + k
    let bs := (b.mapIdx (fun i x => (pa + i, x))).filter (fun e => e.1 / 32 == sec)
    let at' := BitVec.ofNat 64 (32 * sec)
    if bs.isEmpty then s
    else sectorWriteBy s { id := 0, iss := 0, ag := .service 0, kind := .store, form := at', ea := at', size := 32 } sec (bs.map (fun e => (e.1 % 32, e.2)))
      (sec % 2 == 1 || decide (pa + b.length ≤ 32 * (sec + 1)))) s

/-- A destination has published everything: it acknowledges once its T has reached TP (R295). -/
def stageDone (s : State) (k : Nat) (st : Stage) : State :=
  if st.left.isEmpty then { s with stages := mdel s.stages k, out := s.out ++ [.ack (hopOf s st.bay none) (k / 256) (k % 256)] }
  else { s with stages := mset s.stages k st }
/-- Groups whose publication of a sector comes first: the same TP or an earlier one, in ascending initiator and group (R298). -/
def publishFirst (s : State) (k sector tp : Nat) : Bool :=
  s.stages.any (fun e => e.1 != k && e.2.left.contains sector && (match e.2.tp with
    | some x => decide (x < tp ∨ x = tp ∧ e.1 < k)
    | none => false))
/-- Publication of one sector of a group, once its home's T has reached TP (R281): a write (R267) of the ingress agent of its initiator, whose record
comes, for host and pool memory, after its write-through (R275; log 92). -/
def execPublication (pkg group sector : Nat) (s : State) : Host.Outcome State Fault Refusal :=
  .next (
    let k := 256 * pkg + group
    match mget? s.stages k with
    | none => s
    | some st => match st.tp with
      | none => s
      | some tp =>
        if !st.left.contains sector || decide (homeT s (homeOf s (32 * sector)) < tp) || publishFirst s k sector tp then s
        else
          let ws := st.writes.filter (fun w => w.sector == sector)
          let bs := ws.flatMap (·.bytes)
          let at' := BitVec.ofNat 64 (32 * sector)
          -- a port that has failed takes no publication: its sector keeps its value (R418; log 119)
          let up := match tierOf s (32 * sector) with
            | .host => s.hUp
            | .pool => s.mUp
            | _ => true
          let a : Access := { id := 0, iss := 0, ag := .ingress { pkg := pkg, tag := group, bay := st.bay, plane := 0 }, kind := .store, form := at',
                              ea := at', size := 32, sig := ws.any (·.sig), nosc := true, ridge := some group }
          let s := if up then sectorWrite s a sector bs else s
          stageDone s k { st with left := st.left.filter (· != sector), writes := st.writes.filter (fun w => w.sector != sector) })

/-- An outside write to host or pool memory arrives as a snoop; its home answers it, and the write is then in place, only when T has reached the
leases of the sector (R275), and after a publication that comes first (R298). A sector written through and not yet completed is written first. -/
def execCxlSnoop (pa : Nat) (data : List Byte) (s : State) : Host.Outcome State Fault Refusal :=
  .next (match target? s pa with
    | none => s
    | some t =>
      let ls := leaseOf s t.canon
      let busy := s.accs.any (fun a => match a.ph with | .cxl _ _ d => d / 32 == pa / 32 | _ => false)
      if (t.tier != .host && t.tier != .pool) || busy || decide (pa % 32 + data.length > 32)
          || decide (homeT s t.slice < Nat.max ls.l0 ls.l1) || lateForTp s (t.canon / 32) (homeT s t.slice) then s
      else
        let s := s.writeBytes t.canon data
        let s := recordDirty s t.slice t.canon
        { s with leases := mset s.leases (t.canon / 64) { ls with lvl := 0 }, out := s.out ++ [.snoopAns pa] })

/-- The time unit compares every unit's T with its own: 16 ns or more away enters the safe mode and drops its copies; back within 8 ns leaves it
(R378). -/
def execClockSkewCheck (s : State) : Host.Outcome State Fault Refusal :=
  .next (
    let away := fun (u : Nat) => (mget s.skew u 0).natAbs
    let safe := (List.range 512).filter (fun u => decide (16 ≤ away u) || (s.safe.contains u && decide (8 < away u)))
    safe.foldl (fun s u => if u < 256 ∧ 16 ≤ away u then s.updCore u (·.keepCopies (fun _ _ => false)) else s) { s with safe := safe })

/-! ## Active sets (R64 to R66) -/

def quarterOf (s : State) (c q : Nat) : List Nat := (s.core c).quarter q
def Course.anyReady (co : Course) : Bool := co.lanes.any (·.isReady)
/-- What the quarter scheduler found of a course as it chose this step (R65, R66). -/
def eligible (s : State) (c k : Nat) : Bool := s.looks.any (fun x => x.core == c && x.slot == k && x.free)
def stalled (s : State) (c k : Nat) : Bool := s.looks.any (fun x => x.core == c && x.slot == k && x.stuck)
def pendingAt (s : State) (c k : Nat) : Bool := !((s.course? c k).getD {}).active
/-- Course j comes before k in a promotion: the reserved courses, then the earliest demoted, then the lower slot (R66). -/
def promotesFirst (s : State) (c j k : Nat) : Bool :=
  let cj := (s.course? c j).getD {}
  let ck := (s.course? c k).getD {}
  if decide (510 ≤ j) != decide (510 ≤ k) then decide (510 ≤ j) else decide (cj.since < ck.since ∨ cj.since = ck.since ∧ j < k)
/-- Into a vacancy goes the eligible course demoted earliest (R66). -/
def execCoursePromotion (core slot : Nat) (s : State) : Host.Outcome State Fault Refusal :=
  .next (match s.course? core slot with
    | none => s
    | some co =>
      let qs := quarterOf s core (slot / 128)
      let full := 8 ≤ (qs.filter (fun k => ((s.course? core k).getD {}).active)).length
      let later := qs.any (fun j => j != slot && pendingAt s core j && eligible s core j && promotesFirst s core j slot)
      if co.active || !eligible s core slot || full || later then s
      else s.setCourse core slot { co with active := true, since := s.t, cyc := coreCyc s core })
def demote (s : State) (c k : Nat) (co : Course) : State := s.setCourse c k { co with active := false, since := s.t }
/-- Demotion: no ready lane, or no slice with a free word and every held slice held by a result whose window stands at 0 (R65). In a quarter of 8 courses
or fewer all are active (R64). -/
def execCourseDemotion (core slot : Nat) (s : State) : Host.Outcome State Fault Refusal :=
  .next (match s.course? core slot with
    | none => s
    | some co =>
      if co.active && decide (8 < (quarterOf s core (slot / 128)).length) && (!co.anyReady || stalled s core slot) then demote s core slot co else s)
/-- The course promoted earliest of those active 512 clocks or more is demoted while a pending course is eligible (R65). -/
def execActiveSetTimesliceExpiry (core slot : Nat) (s : State) : Host.Outcome State Fault Refusal :=
  .next (match s.course? core slot with
    | none => s
    | some co =>
      let qs := quarterOf s core (slot / 128)
      let pending := qs.any (fun j => pendingAt s core j && eligible s core j)
      let earlier := qs.any (fun j => let x := (s.course? core j).getD {}
        x.active && decide (j < 510) && decide (x.since < co.since ∨ x.since = co.since ∧ j < slot))
      if co.active && decide (slot < 510) && decide (co.cyc + 512000 ≤ coreCyc s core) && pending && !earlier then demote s core slot co else s)

/-! ## Mailbox 14 (R49) -/

def mailRoom (s : State) (b m : Nat) : Bool := s.unread b m < 256
/-- A page-filled notice (R374). -/
def pageNotice (r : PageReq) (rid : Nat) : W512 := r.vaddr ++ (0 : BitVec 432) ++ BitVec.ofNat 8 rid ++ (0x05 : BitVec 8)
/-- A page has been filled: its request ends and its notice enters the queue. -/
def pageFilled (s : State) (b rid : Nat) (r : PageReq) : State :=
  pushNotice (s.updBay b (fun y => { y with pages := mdel y.pages rid })) b (pageNotice r rid)
/-- Answers that found the queue full are taken while it has room (R49). -/
def takeHeldAns (s : State) (b : Nat) : Nat → State
  | 0 => s
  | n + 1 => match (s.bay b).heldAns with
    | [] => s
    | rid :: rest =>
      if !noticeRoom s b then s
      else
        let s := s.updBay b (fun y => { y with heldAns := rest })
        takeHeldAns (match mget? (s.bay b).pages rid with | some r => pageFilled s b rid r | none => s) b n
def execNoticeQueueDrain (bay : Nat) (s : State) : Host.Outcome State Fault Refusal :=
  .next (match (s.bay bay).notices with
    | [] => s
    | m :: rest =>
      if mailRoom s bay 14 then takeHeldAns ((s.updBay bay (fun y => { y with notices := rest })).appendMail bay 14 m) bay 64 else s)
/-- An object request or TRAP call that waits in its core enters mailbox 14. -/
def execCoreMessageAppend (core : Nat) (s : State) : Host.Outcome State Fault Refusal :=
  .next (match (s.core core).msgs with
    | [] => s
    | m :: rest =>
      if mailRoom s (s.bayOf core) 14 then (s.updCore core (fun co => { co with msgs := rest })).appendMail (s.bayOf core) 14 m else s)

end

end Sys2Proof.Machine
end

