-- ==== Sys2Proof/Machine/Spawn.lean ====
section
/-! DEFINITION. The spawn queue and its agent (R50 to R60, R356, R357, R448), placement (R61 to R63), the start and retirement of blocks (R42, R43, R59), and
the refresh hint (R68). -/

namespace Sys2Proof.Machine

/-! ## Parsing a job (R35, R51, R56 to R58, R356) -/

/-- Field of w bits from bit lo. -/
def fieldOf (h lo w : Nat) : Nat := h / 2 ^ lo % 2 ^ w
def widths (h : Nat) : List Nat := (List.range 6).map (fun k => fieldOf h (320 + 6 * k) 6)
/-- S_k, the sum of the first k widths (R35). -/
def sumW (h k : Nat) : Nat := ((widths h).take k).foldl (· + ·) 0
def blkBits (h : Nat) : Nat := sumW h (fieldOf h 356 3)
def clBits (h : Nat) : Nat := sumW h (fieldOf h 359 3)
/-- REASON of a header that fails R57, in the order of the table: widths, field ranges, program counters. A block of a header in range fits an empty
core, so 0x03 does not arise. -/
def headerBad (h : Nat) : Option Nat :=
  let b := fieldOf h 356 3
  let c := fieldOf h 359 3
  if sumW h 6 > 64 ∨ b > c ∨ c > 6 ∨ blkBits h > 10 ∨ clBits h - blkBits h > 3 then some 1
  else if fieldOf h 368 9 > 256 ∨ fieldOf h 377 12 > 3072 ∨ fieldOf h 389 11 > 1024 ∨ fieldOf h 400 5 > 16 ∨ fieldOf h 415 4 > 8
      ∨ fieldOf h 192 64 % 8 ≠ 0 ∨ (fieldOf h 415 4 ≠ 0 ∧ fieldOf h 256 64 % 16 ≠ 0) then some 2
  else if fieldOf h 0 64 % 4 ≠ 0 ∨ (fieldOf h 64 64 ≠ 0 ∧ (fieldOf h 64 64 % 4 ≠ 0 ∨ blkBits h < 6)) then some 5
  else none
/-- A region-list entry (R58). -/
def regionOf (addr : W64) (x : Nat) : Region :=
  { addr := addr, tile := fieldOf x 112 8, lines := fieldOf x 96 16, stride := fieldOf x 64 32, base := BitVec.ofNat 64 x }
/-- The first region that fails R58, with the lines of those before it. -/
def regionBad (h : Nat) : List Region → List Region → Option Region
  | _, [] => none
  | seen, r :: rs =>
    if fieldOf h 368 9 ≤ r.tile ∨ seen.any (·.tile == r.tile) ∨ r.lines = 0 ∨ r.lines > 3072 ∨ r.base.toNat % 256 ≠ 0
        ∨ (seen.foldl (fun m x => m + x.lines) 0) + r.lines > fieldOf h 377 12 then some r
    else regionBad h (seen ++ [r]) rs
/-- The region list, entry by entry. -/
def regionsRead (b : Nat) (prv : Bool) (tag : List Nat) (list : W64) : Nat → State → List Region → Except (OpRead × W64) (State × List Region)
  | 0, s, rs => .ok (s, rs)
  | k + 1, s, rs =>
    let a := list + BitVec.ofNat 64 (16 * rs.length)
    match bayRead s (.bayq b) prv tag a 2 16 a [] with
    | .ok s' x => (match regionsRead b prv tag list k s' (rs ++ [regionOf a (leNum x)]) with
      | .error (.stay s'', l) => .error (.stay (keepRead s'' (bayAcc s'' (.bayq b) prv tag a a 16) x), l)
      | r => r)
    | r => .error (r, a)
/-- The job of a valid header. Its level is the one SPAWN chose (R223). -/
def jobOf (e : SpawnE) (h : Nat) (rs : List Region) (b lvl : Nat) : JobInfo :=
  { jseq := e.jseq, tag := BitVec.ofNat 16 (fieldOf h 448 16), note := fieldOf h 414 1 = 1, done := BitVec.ofNat 64 (fieldOf h 192 64), prv := e.prv,
    lvl := lvl, nblk := 2 ^ (sumW h 6 - blkBits h), left := 2 ^ (sumW h 6 - blkBits h), blkThreads := 2 ^ blkBits h,
    clSize := 2 ^ (clBits h - blkBits h), widBits := blkBits h, hv := fieldOf h 410 1 = 1, hcol := fieldOf h 405 5, core := e.core, slot := e.slot,
    proto := { bay := b, jseq := e.jseq, prv := e.prv, jcore := e.core, jslot := e.slot, st := .placed, threads := 2 ^ blkBits h, clusterSize := 2 ^ (clBits h - blkBits h),
               vregs := fieldOf h 362 6, nbar := fieldOf h 389 11, tent := fieldOf h 368 9, tlines := fieldOf h 377 12, accu := fieldOf h 400 5,
               mspc := BitVec.ofNat 64 (fieldOf h 64 64), entry := BitVec.ofNat 64 h, arg := BitVec.ofNat 64 (fieldOf h 128 64), regions := rs,
               cbnd := fieldOf h 413 1 = 1 } }

def execJobParse (bay lvl : Nat) (s : State) : Host.Outcome State Fault Refusal :=
  .next (match levelOf s bay lvl with
    | [] => s
    | e :: rest =>
      if e.fence || e.parsed then s
      else match bayRead s (.bayq bay) e.prv (readTag lvl e []) e.addr 2 64 e.addr [] with
        | .ok s x =>
          let h := leNum x
          let fail := fun (reason : Nat) (loc : W64) => failEntry s bay lvl e rest 0x02 reason loc
          match regionsRead bay e.prv (readTag lvl e []) (BitVec.ofNat 64 (fieldOf h 256 64)) (fieldOf h 415 4) s [] with
          -- the header has been read, once
          | .error (.stay s', _) => keepBytes s' (.bayq bay) e.prv (readTag lvl e []) e.addr x
          | .error (r, a) => readFailed s bay lvl e rest r a
          | .ok (s, rs) => match headerBad h with
            | some reason => fail reason e.addr
            | none => match regionBad h [] rs with
              | some r => fail 4 r.addr
              | none =>
                (setLevel s.bumpFree bay lvl ({ e with parsed := true } :: rest)).updBay bay (fun y =>
                  { y with jobs := y.jobs ++ [jobOf e h rs bay lvl] })
        | r => readFailed s bay lvl e rest r e.addr)

/-! ## Fences (R53, R54) -/

def condOf (x i : Nat) : Nat × W64 × W64 :=
  (fieldOf x (128 * i) 3, BitVec.ofNat 64 (fieldOf x (128 * i) 64 / 8 * 8), BitVec.ofNat 64 (fieldOf x (128 * i + 64) 64))
def execFenceRecordRead (bay lvl : Nat) (s : State) : Host.Outcome State Fault Refusal :=
  .next (match levelOf s bay lvl with
    | [] => s
    | e :: rest =>
      if !e.fence || e.parsed then s
      else match bayRead s (.bayq bay) e.prv (readTag lvl e []) e.addr 6 192 e.addr [] with
        | .ok s x =>
          let cs := (List.range 12).map (condOf (leNum x))
          match (List.range 12).find? (fun i => (cs.getD i (0, 0, 0)).1 == 7) with
          | some i => failEntry s bay lvl e rest 0x02 6 (e.addr + BitVec.ofNat 64 (16 * i))
          | none => putFence s bay lvl e rest (readConds bay lvl (List.range 12) s { e with parsed := true, conds := cs })
        | r => readFailed s bay lvl e rest r e.addr)
/-- One unlatched counter is read again. -/
def execFenceCounterPoll (bay lvl cond : Nat) (s : State) : Host.Outcome State Fault Refusal :=
  .next (rereadCond s bay lvl cond)

/-! ## Placement (R52, R61 to R63) -/

/-- Whole degrees of a reading, rounded down, and the column temperature (R12, R312). -/
def sensorMax (x : Sensors) : Int := max (max x.c1.toInt x.c6.toInt) (max x.f1.toInt x.f6.toInt)
def colTemp (s : State) (g : Nat) : Int := sensorMax (mget s.sensors g ⟨0, 0, 0, 0⟩) / 16
/-- Courses of a block. -/
def coursesOf (bl : Block) : Nat := (bl.threads + 7) / 8
def freeSlots (co : Core) (q : Nat) : List Nat :=
  ((List.range 128).map (fun i => 128 * q + i)).filter (fun k => decide (k < 510) && !co.blocks.any (fun e => e.2.slots.contains k) && (mget? co.courses k).isNone)
/-- Course slots for a block: course k takes the lowest free slot of quarter k mod 4 (R61). -/
def pickSlots (co : Core) (n : Nat) : Option (List Nat) :=
  let f := (List.range 4).map (fun q => freeSlots co q)
  let ks := (List.range n).map (fun k => (f.getD (k % 4) [])[k / 4]?)
  if ks.all (·.isSome) then some (ks.filterMap id) else none
/-- What resident blocks hold, swapped-out ones left aside (R69). -/
def held (co : Core) (f : Block → Nat) : Nat := co.blocks.foldl (fun m e => if e.2.st = .swapped then m else m + f e.2) 0
/-- Whether a core has what a block needs besides course and block slots (R61). -/
def fits (co : Core) (bl : Block) : Bool :=
  decide (held co (·.nbar) + bl.nbar ≤ 1024 ∧ held co (·.tent) + bl.tent ≤ 256 ∧ held co (·.tlines) + bl.tlines ≤ 3072 ∧ held co (·.accu) + bl.accu ≤ 16)
/-- A core with a block placed on it. -/
def placeOn (co : Core) (bl : Block) : Option (Core × Nat) :=
  match (List.range 510).find? (fun b => (mget? co.blocks b).isNone), pickSlots co (coursesOf bl) with
  | some b, some ks => if fits co bl then some ({ co with blocks := mset co.blocks b { bl with slots := ks } }, b) else none
  | _, _ => none
/-- The first core of a list that can hold the block. -/
def placeBlockIn (s : State) (bl : Block) : List Nat → Option State
  | [] => none
  | c :: cs => match placeOn (s.core c) bl with
    | some (co, _) => some (s.setCore c co)
    | none => placeBlockIn s bl cs
/-- Every block of a unit, in rank order, on the cores of a column. -/
def placeUnit (s : State) (cores : List Nat) : List Block → Option State
  | [] => some s
  | bl :: bls => match placeBlockIn s bl cores with
    | some s' => placeUnit s' cores bls
    | none => none
/-- The blocks of the next unit of a job. -/
def unitOf (j : JobInfo) (next : Nat) : List Block :=
  (List.range j.clSize).map (fun r => { j.proto with number := next + r, rank := r, cluster := next / j.clSize })
/-- Lowest temperature first, then the lowest column. -/
def coolest (s : State) : List Nat → Option Nat
  | [] => none
  | g :: gs => some (gs.foldl (fun m x => if colTemp s x < colTemp s m then x else m) g)
/-- R62 for one unit: the state with it placed. Where every eligible column is at or above the hot mark, all of them stay, and HCOL or the coolest is taken:
which of several stay R62 does not say (log 109). -/
def tryPlace (s : State) (b : Nat) (j : JobInfo) (next : Nat) : Option State :=
  let at' := fun (g : Nat) => placeUnit s ((List.range 8).map (fun i => 8 * g + i)) (unitOf j next)
  let elig := (List.range 32).filter (fun g => mget? s.cols g == some b && (at' g).isSome)
  let cool := elig.filter (fun g => decide (colTemp s g < (s.bay b).hot.toNat))
  let cand := if cool.isEmpty then elig else cool
  (if j.hv && cand.contains j.hcol then some j.hcol else coolest s cand).bind at'
/-- Whether the next block of a level has waited 1,000,000 ns without fitting. The spec does not say from when: the model counts from the first placement
step that has found no place for it (R52; log 97). -/
def starving (s : State) (e : SpawnE) : Bool := e.starved || (match e.since with
  | some t => decide (t + 1000000 ≤ s.t)
  | none => false)
/-- The levels in priority order until one places, or a starved one stops the rest (R52). -/
def placeLevels (s : State) (b : Nat) : List Nat → State
  | [] => s
  | lvl :: lvls =>
    match levelOf s b lvl with
    | [] => placeLevels s b lvls
    | e :: rest =>
      if e.fence || !e.parsed then placeLevels s b lvls
      else match (s.bay b).jobs.find? (·.jseq == e.jseq) with
        | none => placeLevels s b lvls
        | some j => match tryPlace s b j e.nextBlk with
          | some s' =>
            let next := e.nextBlk + j.clSize
            setLevel s' b lvl (if j.nblk ≤ next then rest else { e with nextBlk := next, since := none, starved := false } :: rest)
          | none =>
            let s := setLevel s b lvl ({ e with since := some (e.since.getD s.t) } :: rest)
            if starving s e then s else placeLevels s b lvls
def execPlacementStep (bay : Nat) (s : State) : Host.Outcome State Fault Refusal :=
  -- a core that a containment has stopped takes no block (R341)
  .next (if (s.bay bay).contained then s else placeLevels s bay [3, 2, 1, 0])
/-- A block that has waited 1,000,000 ns without fitting stops the lower levels (R52). -/
def execPlacementStarvationTimeout (bay lvl : Nat) (s : State) : Host.Outcome State Fault Refusal :=
  .next (match levelOf s bay lvl with
    | [] => s
    | e :: rest => if starving s e then setLevel s bay lvl ({ e with starved := true } :: rest) else s)

/-! ## The start of a block (R35, R59, R225, R229) -/

/-- Course k of a block as it starts. -/
def startCourse (s : State) (c blk : Nat) (bl : Block) (bits k : Nat) : Course :=
  { blk := blk, idx := k, since := s.t, cyc := coreCyc s c,
    lanes := (List.range 8).map (fun l =>
      let t := 8 * k + l
      { pc := bl.entry, st := if t < bl.threads then .ready else .exited, wid := BitVec.ofNat 64 (bl.number * 2 ^ bits + t) }),
    u := { s := [(0, bl.arg), (1, BitVec.ofNat 64 bl.number), (2, BitVec.ofNat 64 bl.jseq)] } }
/-- The tiles of the regions taken for a placed block, filling. -/
def stageTiles (blk : Nat) : List Region → Core → Option Core
  | [], co => some co
  | r :: rs, co => (allocTile co blk r.tile r.lines .filling []).bind (fun x => stageTiles blk rs x.1)
/-- The read of sector k of region i of a placed block (R58), with the privilege of its job (R357). -/
def stageAcc (c blk : Nat) (bl : Block) (i : Nat) (r : Region) (k : Nat) : Access :=
  let va := r.base + BitVec.ofNat 64 (bl.number * r.stride * 256 + 32 * k)
  { id := 0, iss := 0, ag := .stage c blk, kind := .bread, form := va, ea := va, size := 32, prv := bl.prv, dest := .stage i k }
/-- The core stages the regions of a placed block through its batten processors (R59): their tiles are taken and their reads are made, as batten
accesses, each sector a step of its own from then on (R95, R364). Once that has been done, reads that found no room are looked up again. -/
def stageStep (s : State) (c blk : Nat) : State :=
  match s.block? c blk with
  | none => s
  | some bl =>
    if bl.st ≠ .placed then s
    else if bl.staging then retryAccs s (s.accs.filter (fun a => a.ag == .stage c blk && a.ph == .queued))
    else match stageTiles blk bl.regions (s.core c) with
      | none => s
      | some co =>
        let as := (bl.regions.mapIdx (fun i r => (List.range (8 * r.lines)).map (stageAcc c blk bl i r))).flatten
        -- a read that fails ends the staging, and the reads after it are not made
        as.foldl (fun s a => if (s.block? c blk).isSome then launch s c a else s)
          (s.setCore c { co with blocks := mset co.blocks blk { bl with staging := true } })
/-- Whether the tiles of a block's regions are ready. -/
def stagedAll (co : Core) (blk : Nat) (bl : Block) : Bool :=
  bl.regions.all (fun r => co.tiles.any (fun e => e.2.blk == blk && e.2.tile == r.tile && e.2.st == .ready))
/-- Barriers of a block at its start (R59). An arrival that a cluster peer made before it is gone (log 98). -/
def freshBars (bl : Block) : Map Barrier :=
  (List.range bl.nbar).map (fun i => (i, ({ count := 0, expect := BitVec.ofNat 16 (coursesOf bl), phase := 0 } : Barrier)))
/-- A placed block starts in one step, once its region tiles are ready (R59). -/
def execBlockStart (core blk : Nat) (s : State) : Host.Outcome State Fault Refusal :=
  .next (match s.block? core blk with
    | none => s
    | some bl =>
      if bl.st ≠ .placed ∨ !stagedAll (s.core core) blk bl then s
      else
        let bl' := { bl with st := .running, bars := freshBars bl, rows := [], seq := if bl.mspc = 0 then none else some { pc := bl.mspc } }
        let bits := Nat.log2 bl.threads
        let cs := bl.slots.mapIdx (fun k slot => (slot, startCourse s core blk bl bits k))
        settleCore (s.bumpFree.updCore core (fun co => { co with
          blocks := mset co.blocks blk bl', courses := cs.foldl (fun m e => mset m e.1 e.2) co.courses })) core)

/-! ## Retirement (R42, R43, R49, R60, R448) -/

/-- A course's threads could pass a REL of system scope. -/
def courseReleased (s : State) (c k : Nat) : Bool := (List.range 8).all (fun l => relPassed s (.thread c k l) 7)
def blkJobs (s : State) (c blk : Nat) : Bool :=
  [0, 1].any (fun p => (s.proc c p).queue.any (·.blk == blk) || ((s.job? c p).map (·.blk)) == some blk)
def tilesQuiet (s : State) (c blk : Nat) : Bool :=
  (s.core c).tiles.all (fun e => e.2.blk != blk || (e.2.st != .filling && e.2.st != .draining))
/-- The conditions of R42, with no arrival still to be applied (R277). -/
def mayRetire (s : State) (c blk : Nat) (bl : Block) : Bool :=
  bl.st != .placed && bl.st != .swapped && bl.slots.all (fun k => ((s.course? c k).getD {}).lanes.all (fun ln => !ln.live) && courseReleased s c k)
    && !blkJobs s c blk && tilesQuiet s c blk && (match bl.seq with | none => true | some q => q.run == .ended) && bl.arrivals.isEmpty
/-- Everything a block holds is released (R43, R250). -/
def releaseBlock (s : State) (c blk : Nat) (bl : Block) : State :=
  let es := (mkeys (s.core c).futs).filter (fun e => ((mget? (s.core c).futs e).map (·.blk)) == some blk)
  let ts := (mkeys (s.core c).tiles).filter (fun e => ((mget? (s.core c).tiles e).map (·.blk)) == some blk)
  settleCore (s.updCore c (fun co =>
    let co := ts.foldl (fun co e => freeTile e co) (es.foldl (fun co e => freeFut e co) co)
    { co with courses := bl.slots.foldl mdel co.courses, blocks := mdel co.blocks blk })) c
/-- The DONE add of the bay queue (R60): issued; waiting for the walker, a frame or room in the miss queue; or its one record (R448). -/
def doneAdd (s : State) (b : Nat) (j : JobInfo) : State :=
  let c := s.svCore b
  let a : Access := { id := s.nextAcc, iss := 0, ag := .bayq b, kind := .atomic, op := .add, form := j.done, ea := j.done, size := 8, data := natBytes 8 1,
                      sig := true, scope := 7, prv := j.prv, t0 := s.t }
  let s := ({ s with nextAcc := s.nextAcc + 1 } : State).updBay b (fun y => { y with
    jobs := y.jobs.map (fun x => if x.jseq = j.jseq then { j with add := some a.id } else x),
    reserved := if j.note then y.reserved + 1 else y.reserved })
  let wait : State := { s with accs := s.accs ++ [{ a with ph := .queued }] }
  match probeOf s c a with
  | .bad r => (queueFault wait b a r).getD wait
  | pr => ((placeAcc s c a pr).map (·.1)).getD wait
def execBlockRetirement (core blk : Nat) (s : State) : Host.Outcome State Fault Refusal :=
  .next (match s.block? core blk with
    | none => s
    | some bl =>
      if !mayRetire s core blk bl then s
      else match (s.bay bl.bay).jobs.find? (·.jseq == bl.jseq) with
        | none => releaseBlock s core blk bl
        | some j =>
          if j.left > 1 then
            (releaseBlock s core blk bl).updBay bl.bay (fun y => { y with
              jobs := y.jobs.map (fun x => if x.jseq = j.jseq then { x with left := x.left - 1, tfin := s.t } else x) })
          else
            let j' := { j with left := 0, tfin := s.t }
            -- the step is held for a place in the notice queue (R49); the record of a failed add waits for its room by itself (R339)
            if j.note && !noticeRoom s bl.bay then s
            else
              let s := releaseBlock s core blk bl
              if j.done = 0 then finishJob s bl.bay j' false else doneAdd s bl.bay j')
/-- The DONE add's record returns and the notice is appended. An add that found no room is looked up again. -/
def execDoneAddRecord (bay acc : Nat) (s : State) : Host.Outcome State Fault Refusal :=
  .next (match s.accs.find? (·.id == acc), (s.bay bay).jobs.find? (·.add == some acc) with
    | some a, some j =>
      if a.ag != .bayq bay then s
      else match a.ph with
        | .recorded r _ d => finishJob (addRecord (dropAcc s acc) (.bayq bay) r (isPeer d)) bay j j.note
        | .queued => retryAccs s [a]
        | _ => s
    | _, _ => s)

/-! ## Refresh hints (R68) -/

/-- A compute-bound interval: every resident block is of a job with CBND = 1. A swapped-out block is not resident (R328, R350). -/
def computeBound (s : State) : Bool := s.cores.all (fun e => e.2.blocks.all (fun b => b.2.st == .swapped || b.2.cbnd))
/-- A controller of one of the eight stacks (R10, R15) banks a refresh of a bank ahead of its schedule, up to 8; outside the interval a banked one stands in
for a scheduled one. -/
def execHbmEarlyRefresh (stack bank : Nat) (s : State) : Host.Outcome State Fault Refusal :=
  .next (
    let k := stack * 2 ^ 16 + bank
    let n := mget s.banked k 0
    if 8 ≤ stack then s else { s with banked := mset s.banked k (if computeBound s then Nat.min (n + 1) 8 else n - 1) })

end Sys2Proof.Machine
end

