-- ==== Sys2Proof/Machine/System.lean ====
section
/-! DEFINITION. The supervisor, translation and context instructions (spec/19), the answers to held faults (R338, R445), and the steps that belong to
them: translation (R366 to R369), objects (R110, R111, R321), pre-emption (R325 to R330), the delivery of records (R339, R340), and a word that is no
instruction (R345, R346). -/

namespace Sys2Proof.Machine

noncomputable section

/-! ## Mailboxes (R310) -/

/-- A 64-byte entry from eight s registers, and back. -/
def entryOf (u : Uni) (r : Nat) : W512 := (List.range 8).foldl (fun (e : W512) k => e ||| ((u.rs (r + k)).setWidth 512 <<< (64 * k))) 0
def putEntry (e : W512) (r : Nat) (u : Uni) : Uni := (List.range 8).foldl (fun u k => u.ws (r + k) ((e >>> (64 * k)).setWidth 64)) u

def execMbxrd (q : Guard) (d a : Reg) (s : State) : Host.Outcome State Fault Refusal :=
  pword s q (fun iss c k =>
    let m := ((uniOf s iss.who).rs a.toNat).toNat
    let b := s.bayOf c
    let mb := (s.bay b).mailbox m
    if m ≥ 16 then valueFault s iss
    else match mb.entries with
      | [] => s
      | e :: rest =>
        let s := s.updBay b (fun y => { y with mail := mset y.mail m { mb with entries := rest, cons := mb.cons + 1, since := s.t } })
        skip (acquireLane (updIss s iss.who (putEntry e d.toNat)) c k iss.low) iss true)
def execMbxwr (q : Guard) (a b : Reg) (s : State) : Host.Outcome State Fault Refusal :=
  cword s q (fun iss c _ =>
    let u := uniOf s iss.who
    let m := (u.rs a.toNat).toNat
    if m ≥ 14 then valueFault s iss
    else if !relPassed s (uniAgent iss) 7 || 256 ≤ s.unread (s.bayOf c) m then s
    else skip (s.appendMail (s.bayOf c) m (entryOf u b.toNat)) iss true)

/-! ## System registers (R151, R306, R307, R311) -/

/-- SYS.FAULT. -/
def sysFault (co : Course) (slot : Nat) : W64 :=
  if co.ts then (co.addr &&& ~~~63#64) ||| BitVec.ofNat 64 (4 * co.cause + (if co.prv then 2 else 0) + 1)
  else if slot ≥ 510 then 2 else 0
/-- SYS.TPC of a lane. -/
def tpcOf (co : Course) (pc : W64) (ln : Lane) : W64 :=
  if co.ts then (0 : BitVec 8) ++ BitVec.ofNat 54 (ln.spc.toNat / 4) ++ BitVec.ofNat 2 ln.skind else pc
/-- A course-wide register as MOVS reads it: its number, its value. -/
def sysRead (s : State) (c k : Nat) (co : Course) (n : Nat) : Option W64 :=
  match n with
  | 2 => some (BitVec.ofNat 64 k)
  | 3 => some (BitVec.ofNat 64 co.blk)
  | 4 => some (BitVec.ofNat 64 c)
  | 5 => some (BitVec.ofNat 64 (s.coreT c))
  | 6 => some ((s.bay (s.bayOf c)).hot.setWidth 64)
  | 8 => some (sysFault co k)
  | 9 => some (((s.proc c 0).bankc + (s.proc c 1).bankc).setWidth 64)
  | _ => none
def execMovsFromSys (q : Guard) (d a : Reg) (s : State) : Host.Outcome State Fault Refusal :=
  cword s q (fun iss c k =>
    let co := (s.course? c k).getD {}
    let lanes := fun (f : Nat → Lane → Lane) => endIssue s iss true (fun l ln => { f l ln with pc := iss.next }) iss.next
    match a.toNat with
    | 0 => lanes (fun _ ln => ln.wv2 d.toNat ln.wid)
    | 1 => lanes (fun l ln => ln.wv d.toNat (BitVec.ofNat 32 l))
    | 7 => lanes (fun _ ln => ln.wv2 d.toNat (tpcOf co iss.pc ln))
    | n => match sysRead s c k co n with
      | some x => skip (updIss s iss.who (·.ws d.toNat x)) iss true
      | none => valueFault s iss)
def execMovsToSys (q : Guard) (d a : Reg) (s : State) : Host.Outcome State Fault Refusal :=
  cword s q (fun iss c k =>
    let co := (s.course? c k).getD {}
    let x := co.u.rs a.toNat
    match d.toNat with
    | 6 =>
      if !co.prv then noPriv s iss
      else if x.toNat / 256 ≠ 0 then valueFault s iss
      else skip (s.updBay (s.bayOf c) (fun y => { y with hot := x.setWidth 8 })) iss true
    | 7 =>
      let v := fun (l : Nat) => (co.lane l).rv2 a.toNat
      if co.ts then
        (if iss.mask.any (fun l => (v l).toNat % 4 == 3) then valueFault s iss
         else endIssue s iss true (fun l ln => { ln with
          spc := BitVec.ofNat 64 ((v l).toNat % 2 ^ 56 / 4 * 4), skind := (v l).toNat % 4, pc := iss.next }) iss.next)
      else if iss.mask.any (fun l => (v l).toNat % 4 != 0) then valueFault s iss
      else endIssue s iss true (fun l ln => { ln with pc := v l }) iss.next
    | 9 => skip ((s.updProc c 0 (fun p => { p with bankc := x.setWidth 32 })).updProc c 1 (fun p => { p with bankc := 0 })) iss true
    | _ => valueFault s iss)

/-! ## Sensors and clocks (R312, R313) -/

def execTherm (q : Guard) (d a : Reg) (s : State) : Host.Outcome State Fault Refusal :=
  cword s q (fun iss c _ =>
    let g := ((uniOf s iss.who).rs a.toNat).toNat
    let x := mget s.sensors g ⟨0, 0, 0, 0⟩
    if g ≥ 32 ∨ mget? s.cols g ≠ s.bayOf? c then valueFault s iss
    else skip (updIss s iss.who (·.ws d.toNat (x.f6 ++ x.f1 ++ x.c6 ++ x.c1))) iss true)
def execClock (q : Guard) (d : Reg) (s : State) : Host.Outcome State Fault Refusal :=
  cword s q (fun iss c _ => skip (updIss s iss.who (·.ws d.toNat (BitVec.ofNat 64 ((mget s.islands c {}).cyc / 1000)))) iss true)

/-! ## TRAP (R314) -/

/-- The 64-byte call. -/
def trapMsg (s : State) (c k : Nat) (arg : W64) (code : BitVec 16) : W512 :=
  arg ++ BitVec.ofNat 64 (s.coreT c) ++ (0 : BitVec 256) ++ ticket false (s.bay (s.bayOf c)).inc k c ++ (0 : BitVec 32) ++ code ++ (0 : BitVec 8)
    ++ (0x03 : BitVec 8)
def execTrap (q : Guard) (d a b : Reg) (s : State) : Host.Outcome State Fault Refusal :=
  cword s q (fun iss c k =>
    let co := (s.course? c k).getD {}
    let code := co.u.rs b.toNat
    if code.toNat / 2 ^ 16 ≠ 0 then valueFault s iss
    else if !relPassed s (uniAgent iss) 7 || co.trap.isSome then s
    else
      let s := postMsg s c (trapMsg s c k (co.u.rs a.toNat) (code.setWidth 16))
      endIssue (s.updCourse c k (fun co => { co with trap := some { d := d, next := iss.next } })) iss true (fun _ ln => { ln with st := .trap }) iss.next)

/-! ## ERET (R315, R338, R445) -/

def execEret (q : Guard) (s : State) : Host.Outcome State Fault Refusal :=
  pword s q (fun iss c k =>
    if !((s.course? c k).getD {}).ts then valueFault s iss
    else eretCheck (endIssue s iss true (fun _ ln => { ln with st := .eret }) iss.pc) c k)

/-- The answer of a TRAP: its lanes go on with it. -/
def trapAnswer (s : State) (c k : Nat) (v : W64) : State :=
  match s.course? c k with
  | none => s
  | some co => match co.trap with
    | none => s
    | some t => s.setCourse c k { co.mapLanes (fun _ ln => if ln.st == .trap then { ln with st := .ready, pc := t.next, acq := s.nextAcc } else ln) with
        u := co.u.ws t.d.toNat v, trap := none }
/-- The answer of a fault acts on every lane of the course held at its PC. -/
def faultAnswer (s : State) (c k : Nat) (v : W64) : State :=
  match s.course? c k with
  | none => s
  | some co =>
    let pc := v &&& ~~~3#64
    let here := fun (ln : Lane) => (match ln.st with | .held _ => true | _ => false) && ln.pc == pc
    -- once the block is pre-empted its holds have ended (R445)
    if co.yield || !co.lanes.any here then s
    else match v.toNat % 4 with
      | 0 => s.setCourse c k (co.mapLanes (fun _ ln => if here ln then { ln with st := .ready, acq := s.nextAcc } else ln))
      | 1 => s.setCourse c k (co.mapLanes (fun _ ln => match ln.st with
          | .held next => if ln.pc = pc then { ln with st := .ready, pc := next, acq := s.nextAcc } else ln
          | _ => ln))
      | 2 => killBlock s c co.blk
      | _ => s
def execEretAns (q : Guard) (a b : Reg) (s : State) : Host.Outcome State Fault Refusal :=
  pword s q (fun iss c _ =>
    let t := (uniOf s iss.who).rs a.toNat
    let v := (uniOf s iss.who).rs b.toNat
    let c' := t.toNat % 256
    let k' := t.toNat / 256 % 512
    if !relPassed s (uniAgent iss) 7 then s
    else
      let s := skip s iss true
      if t.toNat / 2 ^ 32 % 2 ^ 16 ≠ (s.bay (s.bayOf c)).inc.toNat ∨ s.bayOf? c' ≠ s.bayOf? c then s
      else if t.getLsbD 63 then faultAnswer s c' k' v else trapAnswer s c' k' v)

/-! ## The miss queue and the TLBs (R316 to R318, R366 to R368) -/

/-- Words A and B of an entry (R91). -/
def missA (m : Miss) : W64 := (m.va >>> 16) <<< 16
def missB (m : Miss) : W64 :=
  (0 : BitVec 16) ++ m.inc ++ (0 : BitVec 20) ++ BitVec.ofNat 2 m.qtr ++ BitVec.ofBool m.prv ++ BitVec.ofBool m.x ++ BitVec.ofBool m.w
    ++ BitVec.ofBool m.r ++ (0 : BitVec 6)
/-- The oldest waiting entry goes into service. -/
def popMiss : List Miss → Option (Miss × List Miss)
  | [] => none
  | m :: ms => if m.service then (popMiss ms).map (fun r => (r.1, m :: r.2)) else some (m, { m with service := true } :: ms)
def execMqpop (q : Guard) (d : Reg) (s : State) : Host.Outcome State Fault Refusal :=
  pword s q (fun iss c _ => match popMiss (s.core c).mq with
    | none => s
    | some (m, mq) =>
      skip (updIss (s.updCore c (fun co => { co with mq := mq })) iss.who (fun u => (u.ws d.toNat (missA m)).ws (d.toNat + 1) (missB m))) iss true)

/-- Whether an address lies in a range of size code z at va. -/
def inRange (va z a : Nat) : Bool := a / 2 ^ zBits z == va / 2 ^ zBits z
/-- A core's TLBs without the entries that overlap a range. -/
def tlbClear (va z : Nat) (co : Core) : Core :=
  { co with tlb := co.tlb.filter (fun e => !e.overlaps va z), qtlb := co.qtlb.map (fun e => (e.1, e.2.filter (fun x => !x.overlaps va z))) }
/-- Whether TLBW installs its leaf (R317, R350). -/
def installs (z : Nat) (leaf : W64) : Bool :=
  z != 3 && leaf.getLsbD 0 && leaf.getLsbD 1 && leaf.toNat / 65536 % 2 ^ 32 * 65536 % 2 ^ zBits z == 0

/-- What the replay of one side-log entry comes to. -/
def replayChk (s : State) (z : Nat) (leaf : W64) (a : Access) : Chk := leafCheck s z leaf a.ea.toNat a.kind a.prv
/-- The record of replayed entries that fail alike: SLOG counts them, LMASK holds their lanes (R362, R367). -/
def slogRec (s : State) (c : Nat) (as : List Access) (code reason det : Nat) : FaultRec :=
  match as with
  | [] => {}
  | a :: _ =>
    let k := match a.ag with | .thread _ k _ => k | _ => 0
    { threadRec s c k a.pc (as.flatMap (·.lanes)) (accRec a.form code reason as.length a.kind a.size det) with held := false }
/-- The first failures of waiting entries make their records, one for each issue, where the buffer has room. -/
def noteWaiting (s : State) (c det : Nat) (as : List Access) : State :=
  (as.map (·.iss)).eraseDups.foldl (fun s i =>
    let grp := as.filter (·.iss == i)
    let k := match grp.head?.map (·.ag) with | some (.thread _ k _) => k | _ => 0
    let r := slogRec s c grp 0x10 1 det
    if k ≥ 510 then contain s (s.bayOf c) (some { r with cont := true })
    else if recRoom s c then
      { s.updCore c (fun co => { co with recs := co.recs ++ [r] }) with
        accs := s.accs.map (fun x => if grp.any (·.id == x.id) then { x with noted := true } else x) }
    else s) s
/-- Whether a replay that fails leaves its entry waiting (R367). -/
def replayWaits : Chk → Bool
  | .bad 0x10 1 _ => true
  | _ => false
/-- An entry that a replay lets pass is performed as a write of its agent. What stands in the log before it does not hold it (R366); an access of its agent
on its way to the granule does (R271), and a publication (R298). -/
def replayWrite (s : State) (id : Nat) : State :=
  let log := s.accs.filter (fun a => a.ph == .sideLog)
  let s' := homeWrite { s with accs := s.accs.filter (fun a => a.ph != .sideLog) } id
  { s' with accs := s'.accs ++ log }
/-- The replay of the side log at a TLBW, entry by entry in log order (R366, R367): the entries before the first that fails for good are performed, or
wait where they have no page, with a record the first time; a failure for good contains, and discards what comes after it. -/
def replayLog (s : State) (c va z : Nat) (leaf : W64) : State :=
  let as := s.accs.filter (fun a => a.ph == .sideLog && agentCore? a.ag == some c && inRange va z a.ea.toNat)
  let hardly := fun (a : Access) => match replayChk s z leaf a with | .ok _ => false | r => !replayWaits r
  let before := as.takeWhile (fun a => !hardly a)
  let pass := before.filter (fun a => match replayChk s z leaf a with | .ok _ => true | _ => false)
  let soft := before.filter (fun a => replayWaits (replayChk s z leaf a))
  let s1 := pass.foldl (fun s a => match replayChk s z leaf a with
    | .ok pa => dropCopies { s with accs := s.accs.map (fun x => if x.id = a.id then { x with ph := .flight pa, nosc := leaf.getLsbD 8 } else x) } c pa a.ev
    | .bad .. => s) s
  let s2 := pass.foldl (fun s a => replayWrite s a.id) s1
  let s3 := { s2 with accs := s2.accs.map (fun x => if soft.any (·.id == x.id) then { x with tried := true } else x) }
  let s4 := noteWaiting s3 c (leaf.toNat % 2 ^ 32) (soft.filter (fun a => !a.noted))
  match as.find? hardly with
  | none => s4
  | some h => match replayChk s z leaf h with
    | .bad code reason det => asyncFault s4 (s.bayOf c) (slogRec s c (as.filter (fun a => a.iss == h.iss && replayChk s z leaf a == replayChk s z leaf h)) code reason det)
    | .ok _ => s4

/-- The accesses merged into the entries in service in a range are retried, and the entries are free. -/
def retryMissed (s : State) (c va z : Nat) : State :=
  let pages := ((s.core c).mq.filter (fun m => m.service && inRange va z m.va.toNat)).map (fun m => pageOf m.va.toNat)
  let as := s.accs.filter (fun a => a.ph == .missed && tlbCore? s a.ag == some c && pages.contains (pageOf a.ea.toNat))
  retryAccs (s.updCore c (fun co => { co with mq := co.mq.filter (fun m => !(m.service && inRange va z m.va.toNat)) })) as

/-- TLBW's step. A leaf that installs nothing stands in the TLB while the retried accesses meet it, and is then gone. -/
def tlbwStep (s : State) (c va z : Nat) (leaf : W64) : State :=
  let e : TlbE := { va := BitVec.ofNat 64 va, z := z, leaf := leaf }
  if installs z leaf then
    let s1 := (s.updCore c (fun co => let co := tlbClear va z co; { co with tlb := tlbPut 2048 (Config.freeChoice s.free) e co.tlb })).bumpFree
    refillQueue (retryMissed (replayLog s1 c va z leaf) c va z) c
  else
    let s1 := s.updCore c (fun co => let co := tlbClear va z co; { co with tlb := e :: co.tlb })
    let s2 := retryMissed (replayLog s1 c va z leaf) c va z
    refillQueue (s2.updCore c (fun co => { co with tlb := (s.core c).tlb, qtlb := (s.core c).qtlb })) c
def execTlbw (q : Guard) (a b : Reg) (s : State) : Host.Outcome State Fault Refusal :=
  pword s q (fun iss c _ =>
    let x := ((uniOf s iss.who).rs a.toNat).toNat
    let z := x % 4
    let va := x - z
    if va ≥ 2 ^ 56 ∨ va % 2 ^ zBits z ≠ 0 then valueFault s iss
    else tlbwStep (skip s iss true) c va z ((uniOf s iss.who).rs b.toNat))

/-- A page of waiting side-log entries is queued again, unless an entry waits for it already (R368). -/
def requeue (c : Nat) (s : State) (page : Nat) : State :=
  let co := s.core c
  let va := BitVec.ofNat 64 (page * 65536)
  if co.mq.any (fun m => !m.service && pageOf m.va.toNat == page) || co.heldPages.any (fun v => pageOf v.toNat == page) then s
  else if co.mq.length < 64 && co.heldPages.isEmpty then s.setCore c { co with mq := co.mq ++ [pageMiss s c va] }
  else s.setCore c { co with heldPages := insertPc va co.heldPages }
/-- A retried access whose entry is removed before it is performed misses again (R91). Its lane, if it is ready, waits once more and goes on from
where it stands (log 91). -/
def missAgain (c : Nat) (s : State) (a : Access) : State :=
  let s0 := { s with accs := s.accs.filter (fun x => x.id != a.id) }
  let r := match a.ag, a.lanes with
    | .thread _ k _, [l] => if (s.lane c k l).isReady && a.dest != .none then some (k, l) else none
    | _, _ => none
  let a' := match r with | some (k, l) => { a with next := (s.lane c k l).pc } | none => a
  let s1 := match placeAcc s0 c a' (.miss a.ea) with
    | some (s', _) => s'
    | none => { s0 with accs := s0.accs ++ [{ a' with looked := true, ph := .queued }] }
  match r with
  | some (k, l) => s1.updLane c k l (fun ln => { ln with st := .parked a.id })
  | none => s1
/-- What a TLBI stops translating at a core: its range, and the range of every entry that it removes (R318). -/
def tlbiHits (s : State) (c va z : Nat) (all : Bool) : Nat → Bool :=
  let gone := ((s.core c).tlb ++ (s.core c).qtlb.flatMap (·.2)).filter (fun e => e.overlaps va z)
  fun a => all || inRange va z a || gone.any (·.covers a)
/-- TLBI's step at one core; `all` takes every entry. -/
def tlbiCore (va z : Nat) (all : Bool) (s : State) (c : Nat) : State :=
  let hit := tlbiHits s c va z all
  let s := s.updCore c (fun co => if all then { co with tlb := [], qtlb := [] } else tlbClear va z co)
  let again := sortAccs (s.accs.filter (fun a => a.retried && tlbCore? s a.ag == some c && !untranslated a.ag
    && (match a.ph with | .flight d => !isPeer d | _ => false) && hit a.ea.toNat))
  let s := again.foldl (missAgain c) s
  let pages := (s.accs.filter (fun a => a.ph == .sideLog && agentCore? a.ag == some c && (all || inRange va z a.ea.toNat))).map (fun a => pageOf a.ea.toNat)
  pages.eraseDups.foldl (requeue c) s
/-- Accesses of the cores that were translated in the range, or through an entry that goes, and are not performed; those of agents that have ended among
them, the bay queue's too (R318, R375). `s` is the state before the TLBI. -/
def tlbiAccs (s : State) (cs : List Nat) (va z : Nat) (all : Bool) : List Nat :=
  (s.accs.filter (fun a => (match tlbCore? s a.ag with | some c => cs.contains c && tlbiHits s c va z all a.ea.toNat | none => false) && !untranslated a.ag
    && (match a.ph with | .flight d => !isPeer d | _ => false))).map (·.id)
/-- The lanes of the issue wait for accesses. -/
def pendIssue (s : State) (iss : Issue) (k : PendKind) (accs : List Nat) (f : Nat) (d : Reg) : State :=
  endIssue s iss true (fun _ ln => { ln with st := .pend { kind := k, accs := accs, frame := f, d := d, next := iss.next } }) iss.next
def execTlbi (q : Guard) (a b : Reg) (s : State) : Host.Outcome State Fault Refusal :=
  pword s q (fun iss c _ =>
    let x := ((uniOf s iss.who).rs a.toNat).toNat
    let r := (uniOf s iss.who).rs b.toNat
    let z := x % 4
    let cs := if r.getLsbD 0 then s.coresOf (s.bayOf c) else [c]
    if r.toNat / 2 ≠ 0 then valueFault s iss
    else
      let s' := cs.foldl (tlbiCore (x - z) z (z == 3)) s
      -- what misses again is no longer translated
      pendIssue s' iss .tlbi ((tlbiAccs s cs (x - z) z (z == 3)).filter (fun id => s'.accs.any (fun a => a.id == id && !a.ph.cancels))) 0 0)

/-- Whether accesses are all performed. -/
def accsDone (s : State) (ids : List Nat) : Bool := !s.accs.any (fun a => ids.contains a.id && a.ph.unperformed)
/-- The first wait of a kind in a course, once its accesses are performed. -/
def pendReady (s : State) (c k : Nat) (kind : PendKind) : Option Pend :=
  ((s.course? c k).getD {}).lanes.findSome? (fun ln => match ln.st with
    | .pend p => if p.kind = kind ∧ accsDone s p.accs = true then some p else none
    | _ => none)
/-- Its lanes go on, with a result in the s register it names. -/
def pendEnd (s : State) (c k : Nat) (p : Pend) (v : Option W64) : State :=
  s.updCourse c k (fun co => { co.mapLanes (fun _ ln => if ln.st == .pend p then { ln with st := .ready, pc := p.next } else ln) with
    u := match v with | some x => co.u.ws p.d.toNat x | none => co.u })
def execTlbiComplete (core slot : Nat) (s : State) : Host.Outcome State Fault Refusal :=
  .next (match pendReady s core slot .tlbi with
    | some p => pendEnd s core slot p none
    | none => s)

/-- A side-log entry too old contains the bay (R369). -/
def execSideLogTimeout (acc : Nat) (s : State) : Host.Outcome State Fault Refusal :=
  .next (match s.accs.find? (fun a => a.id == acc && a.ph == .sideLog) with
    | none => s
    | some a =>
      let c := (agentCore? a.ag).getD 0
      if s.coreT c < a.t0 + 10000000 then s
      else asyncFault s (s.bayOf c) (slogRec s c [a] 0x10 (if a.tried then 1 else 7) 0))

/-! ## Objects (R104 to R111, R320 to R322, R385) -/

/-- A result of OBJMAP and OBJUNMAP (R320). -/
def objResult (gen : BitVec 4) (f reason status : Nat) : W64 :=
  (0 : BitVec 6) ++ gen ++ BitVec.ofNat 22 f ++ (0 : BitVec 16) ++ BitVec.ofNat 8 reason ++ BitVec.ofNat 8 status
/-- OK, and FAILED with a REASON: the GEN of the frame as it stands. -/
def objOk (s : State) (b f : Nat) : W64 := objResult (frameGen s b f) f 0 0
def objFail (s : State) (b f reason : Nat) : W64 := objResult (if f < (s.bay b).fcnt then frameGen s b f else 0) f reason 2
/-- A bucket and a frame entry written (R104, R105). -/
def writeBucket (s : State) (b i : Nat) (name : W128) (f st : Nat) : State :=
  s.writeBytes (bucketAddr s b i) (natBytes 32 (name.toNat * 2 ^ 128 + f * 2 ^ 34 + st))
def writeFrame (s : State) (b f : Nat) (name : W128) (base : W64) (len : Nat) (gen : BitVec 4) (st mode : Nat) : State :=
  s.writeBytes (frameAddr s b f) (natBytes 32 (name.toNat * 2 ^ 128 + base.toNat * 2 ^ 64 + len * 2 ^ 32 + gen.toNat * 2 ^ 28 + st * 2 ^ 25 + mode * 2 ^ 23))
/-- The bucket of a name becomes a tombstone. -/
def tombstone (s : State) (b : Nat) (name : W128) : State :=
  match (if (s.bay b).otb = 0 then none else probeBucket s b name [0, 1, 2, 3, 4, 5, 6, 7]) with
  | some i => writeBucket s b i (bucketName s b i) (bucketFrame s b i) 2
  | none => s
/-- The first free bucket of the eight. -/
def freeBucket (s : State) (b : Nat) (name : W128) : Option Nat :=
  if (s.bay b).otb = 0 then none
  else ([0, 1, 2, 3, 4, 5, 6, 7].find? (fun k => bucketSt s b (probeAt s b name k) == 0 || bucketSt s b (probeAt s b name k) == 2)).map (probeAt s b name)
/-- The frame takes NAME, BASE, LEN and MODE of the request (R320); its FV is cleared in the revocation list (R385). -/
def mapFrame (s : State) (b t : Nat) (v : Nat) (gen : BitVec 4) : State :=
  let mode := v / 2 ^ 23 % 4
  let s := writeFrame s b t (BitVec.ofNat 128 (v / 2 ^ 128)) (BitVec.ofNat 64 (v / 2 ^ 64)) (v / 2 ^ 32 % 2 ^ 32) gen (if mode = 2 then 2 else 1) mode
  let s := s.updBay b (fun y => { y with revoked := y.revoked.map (fun e => if e.frame = t then { e with fv := false } else e) })
  if mode = 2 then frameResident s b t else s
/-- OBJMAP's step on a request: the state and the result. -/
def objmapStep (s : State) (b t v : Nat) : State × W64 :=
  let name := BitVec.ofNat 128 (v / 2 ^ 128)
  if (s.bay b).revoked.any (fun e => nameKey e.name == nameKey name) then (s, objFail s b t 4)
  else match probe s b name with
    | some f =>
      if frameState s b f ≠ 4 then (s, objOk s b f)
      else
        let s := mapFrame s b f v (frameGen s b f)
        (s, objOk s b f)
    | none =>
      if t ≥ (s.bay b).fcnt then (s, objFail s b t 3)
      else if frameState s b t ≠ 0 ∧ frameState s b t ≠ 4 then (s, objFail s b t 2)
      else match freeBucket s b name with
        | none => (s, objFail s b t 1)
        | some _ =>
          let s1 := if probe s b (frameName s b t) = some t then tombstone s b (frameName s b t) else s
          let s2 := match freeBucket s1 b name with
            | some i => writeBucket s1 b i name t 1
            | none => s1
          let s3 := mapFrame s2 b t v (frameGen s b t + 1)
          (s3, objOk s3 b t)
/-- Stored data that OBJMAP, or the dropping of a frame, reads in the tables and cannot correct (R379). -/
def dropBad (s : State) (b f : Nat) : Option Nat := (frameBad s b f).or (if f < (s.bay b).fcnt then probeBad s b (frameName s b f) else none)
def objmapBad (s : State) (b t v : Nat) : Option Nat := (probeBad s b (BitVec.ofNat 128 (v / 2 ^ 128))).or (dropBad s b t)
/-- Containment by a supervisor's read of the tables (R379). -/
def tableErr (s : State) (iss : Issue) (src : Nat) : State := eccAt s (uniAgent iss) iss.pc iss.mask 0 src false
def execObjmap (q : Guard) (d a b : Reg) (s : State) : Host.Outcome State Fault Refusal :=
  pword s q (fun iss c _ =>
    let va := (uniOf s iss.who).rs a.toNat
    let t := ((uniOf s iss.who).rs b.toNat).toNat % 2 ^ 22
    if va.toNat % 32 ≠ 0 then valueFault s iss
    else withRead s iss va (opReadSec s iss va 32) (fun s x => match objmapBad s (s.bayOf c) t (leNum x) with
      | some src => tableErr s iss src
      | none =>
        let r := objmapStep (skip s iss true) (s.bayOf c) t (leNum x)
        updIss r.1 iss.who (·.ws d.toNat r.2)))

/-- Accesses translated through a frame and not performed (R106), those of agents that have ended among them, and those that have missed the TLBs since. -/
def frameAccs (s : State) (b f : Nat) : List Nat :=
  (s.accs.filter (fun a => ownerBay s a.ag == b && classAddr a.form == .object && npFrame a.form == f && (match a.ph with
    | .flight _ => true
    | .remote _ => true
    | .sideLog => true
    | .missed => a.looked
    | .queued => a.looked
    | _ => false))).map (·.id)
/-- The third form: NAME becomes zero, the bucket a tombstone; GEN is kept. -/
def dropFrame (s : State) (b f : Nat) : State :=
  let s := if probe s b (frameName s b f) = some f then tombstone s b (frameName s b f) else s
  writeFrame s b f 0 (frameBase s b f) (frameLow s b f / 2 ^ 32) (frameGen s b f) 0 (frameMode s b f)
def execObjunmap (q : Guard) (d a b : Reg) (s : State) : Host.Outcome State Fault Refusal :=
  pword s q (fun iss c _ =>
    let f := ((uniOf s iss.who).rs a.toNat).toNat
    let form := ((uniOf s iss.who).rs b.toNat).toNat
    let y := s.bayOf c
    let fail := fun (reason : Nat) => skip (updIss s iss.who (·.ws d.toNat (objFail s y f reason))) iss true
    let need := if form = 0 then 2 else if form = 1 then 3 else 4
    if f ≥ 2 ^ 22 ∨ form ≥ 3 then valueFault s iss
    else if f ≥ (s.bay y).fcnt then fail 3
    else match (if form = 2 then dropBad s y f else frameBad s y f) with
    | some src => tableErr s iss src
    | none =>
    if frameState s y f ≠ need then fail 2
    else if form = 0 then pendIssue (setFrameState s y f 3) iss .unmapDrain (frameAccs s y f) f d
    else if form = 1 then pendIssue s iss .unmapVacate (frameAccs s y f) f d
    else
      let s := dropFrame s y f
      skip (updIss s iss.who (·.ws d.toNat (objOk s y f))) iss true)
def execObjunmapDrainReturn (core slot : Nat) (s : State) : Host.Outcome State Fault Refusal :=
  .next (match pendReady s core slot .unmapDrain with
    | some p => pendEnd s core slot p (some (objOk s (s.bayOf core) p.frame))
    | none => s)
/-- The vacating step; a frame that is no longer draining fails it. -/
def execObjunmapVacateStep (core slot : Nat) (s : State) : Host.Outcome State Fault Refusal :=
  .next (match pendReady s core slot .unmapVacate with
    | some p =>
      let b := s.bayOf core
      match frameBad s b p.frame with
      | some src => eccAt s (.thread core slot 0) 0 [] 0 src false
      | none =>
      if frameState s b p.frame = 3 then
        let s := setFrameState s b p.frame 4
        pendEnd s core slot p (some (objOk s b p.frame))
      else pendEnd s core slot p (some (objFail s b p.frame 2))
    | none => s)
def execObjstat (q : Guard) (d a : Reg) (s : State) : Host.Outcome State Fault Refusal :=
  pword s q (fun iss c _ =>
    let f := ((uniOf s iss.who).rs a.toNat).toNat
    let b := s.bayOf c
    let word := fun (k : Nat) => if f < (s.bay b).fcnt then BitVec.ofNat 64 (s.readNat (frameAddr s b f + 8 * k) 8) else 0
    if f ≥ 2 ^ 22 then valueFault s iss
    else match frameBad s b f with
    | some src => tableErr s iss src
    | none => skip (updIss s iss.who (fun u => (List.range 4).foldl (fun u k => u.ws (d.toNat + k) (word k)) u)) iss true)

/-- A request still outstanding 100,000 ns after TREQ is sent again (R110), with WR as its waiting accesses stand now; `name` is its place in the core's
list. The spec does not say whether it then carries the first T or the present one: TREQ becomes the present one, from which the next 100,000 ns count
(log 103). -/
def execObjectRequestResend (core name : Nat) (s : State) : Host.Outcome State Fault Refusal :=
  .next (match (s.core core).reqs[name]? with
    | none => s
    | some r =>
      if s.coreT core < r.treq + 100000 then s
      else
        let r' := { r with treq := s.coreT core, wr := waitsWrite s core r.name }
        postMsg (s.updCore core (fun co => { co with reqs := co.reqs.set name r' })) core (objMsg core r'))
/-- A parked LDP or access is tried again (R111). -/
def execObjectParkRetry (acc : Nat) (s : State) : Host.Outcome State Fault Refusal :=
  .next (match s.accs.find? (·.id == acc) with
    | none => s
    | some a =>
      if agentT s a.ag < a.t0 + 10000 then s
      else match a.ph with
        | .frame => retryAccs s [a]
        | .name _ => retryName s a
        | _ => s)

/-! ## HARVEST (R96, R97, R323) -/

/-- Whether a dirty-page number lies in the range a leaf maps; a write of a window byte has entered the pages of both its names. A leaf of size code 3,
which maps nothing (R317), is taken to stand for one 64 KiB page (log 114). -/
def leafPage (z : Nat) (e : W64) (page : Nat) : Bool := page * 65536 / 2 ^ zBits z == e.toNat / 65536 % 2 ^ 32 * 65536 / 2 ^ zBits z
/-- HARVEST's step. Its own write of DIRTY is none of the writes that R96 lists and enters no record; a leaf in a table page is not written, since nothing
but OBJMAP, OBJUNMAP and the transitions writes the tables (R103; log 114). -/
def harvestStep (s : State) (pa z : Nat) (clr satclr : Bool) : State × W64 :=
  let t := canonPa s pa
  let e := BitVec.ofNat 64 (s.readNat t 8)
  let s := s.bumpFree
  if !e.getLsbD 0 || !e.getLsbD 1 then (s, 0)
  else
    let sat := s.slices.any (·.2.sat)
    let w := sat || s.slices.any (fun x => x.2.dirty.any (leafPage z e))
    let s := if w && !inTables s pa then toLink (writeHome (s.writeBytes t (natBytes 8 (e ||| 0x200#64).toNat)) (t / 32) false) t else s
    let s := if clr then s.mapSlices (fun x => { x with dirty := x.dirty.filter (fun p => !leafPage z e p) }) else s
    let s := if satclr then s.mapSlices (fun x => { x with dirty := [], sat := false }) else s
    (s, BitVec.ofNat 64 ((if sat then 2 else 0) + (if w then 1 else 0)))
def execHarvest (q : Guard) (d a b : Reg) (s : State) : Host.Outcome State Fault Refusal :=
  pword s q (fun iss _ _ =>
    let pa := ((uniOf s iss.who).rs a.toNat).toNat
    let x := (uniOf s iss.who).rs b.toNat
    if pa % 8 ≠ 0 ∨ x.toNat / 16 ≠ 0 then valueFault s iss
    else match badSector s (canonPa s pa / 32) with
    | some src => eccAt s (uniAgent iss) iss.pc iss.mask (BitVec.ofNat 64 pa) src false
    | none =>
      let r := harvestStep s pa (x.toNat / 4 % 4) (x.getLsbD 0) (x.getLsbD 1)
      skip (updIss r.1 iss.who (·.ws d.toNat r.2)) iss true)

/-! ## Pre-emption (R325 to R330) -/

/-- Core and block slot an operand names. -/
def blockNamed (x : W64) : Nat × Nat := (x.toNat % 256, x.toNat / 256 % 512)
/-- PREEMPT's step: the traps are due, monitor waits are woken, phases are deferred, the sequencer stops. -/
def preemptStep (s : State) (c b : Nat) (bl : Block) (save : W64) : State :=
  let s := dropMonitors (fun l => l.1 == c && bl.slots.contains l.2.1) s
  let stopSeq := fun (q : Seq) => { q with stop := some save }
  let bl' := { bl with st := .saving, save := save, deferred := true, image := none, seq := bl.seq.map stopSeq }
  let s := s.setBlock c b bl'
  bl.slots.foldl (fun s k => s.updCourse c k (fun co =>
    { co.mapLanes (fun _ ln => if ln.st == .monitor then { ln with st := .woken } else ln) with yield := co.lanes.any (·.live) })) s
def execPreempt (q : Guard) (a b : Reg) (s : State) : Host.Outcome State Fault Refusal :=
  pword s q (fun iss c _ =>
    let x := (uniOf s iss.who).rs a.toNat
    let save := (uniOf s iss.who).rs b.toNat
    let n := blockNamed x
    if x.toNat / 2 ^ 17 ≠ 0 ∨ save.toNat % 64 ≠ 0 then valueFault s iss
    else match s.block? n.1 n.2 with
      | none => skip s iss true
      | some bl =>
        if bl.bay ≠ s.bayOf c ∨ bl.st ≠ .running ∨ bl.dir.isSome = true then skip s iss true
        else preemptStep (skip s iss true) n.1 n.2 bl save)

/-- The sequencer has stopped, or there is none, and its image is written (R325). -/
def execSequencerStop (core blk : Nat) (s : State) : Host.Outcome State Fault Refusal :=
  .next (match s.block? core blk with
    | none => s
    | some bl =>
      if bl.st ≠ .saving ∨ bl.image.isSome = true ∨ (match bl.seq with | some q => !q.ops.isEmpty | none => false) = true then s
      else
        let x := (seqImage bl.seq).toNat
        let va := fun (i : Nat) => bl.save + BitVec.ofNat 64 (64 + 32 * i)
        let store : Nat → Access := fun i => {
          id := s.nextAcc + i, iss := 0, ag := .core core, kind := .store, form := va i, ea := va i, size := 32,
          data := natBytes 32 (x / 2 ^ (256 * i)), scope := 3, prv := true }
        let go : State → Access → Option State := fun s a => match probeOf s core a with
          | .bad r => some (imageFault s core a.form r)
          | pr => (placeAcc s core a pr).map (fun x => x.1)
        let stopSeq := fun (q : Seq) => { q with stopped := true }
        let bl' := { bl with image := some [s.nextAcc, s.nextAcc + 1], seq := bl.seq.map stopSeq }
        let s0 := ({ s with nextAcc := s.nextAcc + 2 } : State).setBlock core blk bl'
        ((go s0 (store 0)).bind (fun s => go s (store 1))).getD s)

/-- A lane as its course enters the yield trap: saved PC and KIND, then ready at the save routine. -/
def yieldLane (as : List Access) (entry : W64) (ln : Lane) : Lane :=
  let to' := fun (pc : W64) (kind : Nat) => { ln with spc := pc, skind := kind, st := .ready, pc := entry, fair := 0, wt := none }
  match ln.st with
  | .exited => ln
  | .phase _ _ => to' ln.pc 1
  | .arriving _ _ => to' ln.pc 1
  | .parked id => to' (((as.find? (·.id == id)).map (·.pc)).getD ln.pc) 0
  | _ => to' ln.pc 0
/-- The yield trap of a course (R326). -/
def yieldEntry (s : State) (c k : Nat) (co : Course) (save entry : W64) : State :=
  let mine : Access → Bool := fun a => match a.ag with | .thread c' k' _ => c' == c && k' == k | _ => false
  let s := dropMonitors (fun l => l.1 == c && l.2.1 == k) s
  let as := s.accs
  let s := { s with accs := as.filter (fun (a : Access) => !(mine a && (a.ph.cancels || a.dest == Dest.again || (a.kind == AccKind.fetch && (match a.ph with
    | .replied .. => true
    | _ => false))))) }
  s.setCourse c k { co.mapLanes (fun _ => yieldLane as entry) with ts := true, prv := true, cause := 1, addr := save, yield := false, mcst := [] }
def execYieldTrapEntry (core slot : Nat) (s : State) : Host.Outcome State Fault Refusal :=
  .next (match s.course? core slot with
    | none => s
    | some co => match s.block? core co.blk with
      | none => s
      | some bl =>
        let out := s.accs.any (fun a => (match a.ag with | .thread c k _ => c == core && k == slot | _ => false)
          && a.dest != .none && a.dest != .again && !a.ph.cancels) || !co.accOps.isEmpty
        if !co.yield || co.trap.isSome || !co.issv.isEmpty || out || !(match bl.image with | some ids => accsDone s ids | none => false) then s
        else match bayRead s (.core core) true [co.blk, slot] bl.save 2 8 bl.save [] with
          | .ok s' x => yieldEntry s'.bumpFree core slot co bl.save (aligned (BitVec.ofNat 64 (leNum x)))
          | .stay s' => s'
          | .bad r => imageFault s core bl.save r
          | .ecc src => eccAt s (.core core) 0 [] bl.save src false)

/-- HALT: the lanes wait until the block swaps out (R328). -/
def execHalt (q : Guard) (s : State) : Host.Outcome State Fault Refusal :=
  pword s q (fun iss c k =>
    let co := (s.course? c k).getD {}
    if !co.ts ∨ co.cause ≠ 1 then valueFault s iss else endIssue s iss true (fun _ ln => { ln with st := .halted }) iss.next)
/-- The notice of a swap-out (R328). -/
def swapNotice (s : State) (c b : Nat) (save : W64) : W512 :=
  (0 : BitVec 320) ++ BitVec.ofNat 64 (s.coreT c) ++ save ++ (0 : BitVec 39) ++ BitVec.ofNat 9 b ++ BitVec.ofNat 8 c ++ (0x04 : BitVec 8)
def execSwapOut (core blk : Nat) (s : State) : Host.Outcome State Fault Refusal :=
  .next (match s.block? core blk with
    | none => s
    | some bl =>
      let cs := bl.slots.map (fun k => (s.course? core k).getD {})
      let ready := bl.st == .saving && cs.all (fun co => co.lanes.all (fun ln => !ln.live || ln.st == .halted)) && cs.any (fun co => co.lanes.any (·.live))
        && !blkJobs s core blk && tilesQuiet s core blk && bl.slots.all (courseReleased s core) && bl.arrivals.isEmpty && noticeRoom s bl.bay
      if !ready then s
      else
        let ts := (mkeys (s.core core).tiles).filter (fun e => ((mget? (s.core core).tiles e).map (·.blk)) == some blk)
        let s := settleCore (s.updCore core (fun co =>
          let co := ts.foldl (fun co e => freeTile e co) co
          { co with courses := bl.slots.foldl mdel co.courses,
                    blocks := mset co.blocks blk { bl with st := .swapped, slots := [], bars := [], rows := [], seq := none, image := none } })) core
        pushNotice s bl.bay (swapNotice s core blk bl.save))

/-- RESUME's step on a block its core can hold: new courses in the restore trap (R329). -/
def resumeBlock (s : State) (c b : Nat) (bl : Block) (ks : List Nat) (save entry : W64) : State :=
  let bl' : Block := { bl with st := .restoring, slots := ks, save := save, bars := freshBars bl, rows := [],
                               seq := if bl.mspc = 0 then none else some { pc := bl.mspc, stopped := true } }
  let cs := ks.mapIdx (fun i slot => (slot, ({ startCourse s c b { bl' with entry := entry } (Nat.log2 bl.threads) i with
    u := {}, ts := true, prv := true, cause := 2, addr := save } : Course)))
  settleCore (s.updCore c (fun co => { co with blocks := mset co.blocks b bl', courses := cs.foldl (fun m e => mset m e.1 e.2) co.courses })) c
def execResume (q : Guard) (a b : Reg) (s : State) : Host.Outcome State Fault Refusal :=
  pword s q (fun iss c _ =>
    let x := (uniOf s iss.who).rs a.toNat
    let save := (uniOf s iss.who).rs b.toNat
    let n := blockNamed x
    if x.toNat / 2 ^ 17 ≠ 0 ∨ save.toNat % 64 ≠ 0 then valueFault s iss
    else match s.block? n.1 n.2 with
      | none => skip s iss true
      | some bl =>
        if bl.bay ≠ s.bayOf c ∨ bl.st ≠ .swapped then skip s iss true
        else withRead s iss (save + 8) (opReadSec s iss (save + 8) 8) (fun s' x =>
          match pickSlots (s'.core n.1) (coursesOf bl) with
          | some ks =>
            if fits (s'.core n.1) bl then resumeBlock (skip s' iss true) n.1 n.2 bl ks save (aligned (BitVec.ofNat 64 (leNum x))) else s
          | none => s))

/-! ## Delivery of records (R339, R340, R447) -/

/-- Lanes parked in FWAIT on an entry that was cancelled, faulted or freed while the record buffer was full: their fault is found again (R339, R396).
A freed entry is taken as cancelled (log 94). -/
def lookAgain (s : State) (c : Nat) : State :=
  let hs := ((s.core c).courses.flatMap (fun k => k.2.lanes.filterMap (fun ln => match ln.st with
    | .future h _ _ _ => some (h.toNat % 256, BitVec.ofNat 8 (h.toNat / 2 ^ 24))
    | _ => none))).eraseDups
  hs.foldl (fun s h => match mget? (s.core c).futs h.1 with
    | some f => if f.gen = h.2 then (match f.st with
        | .cancelled => cancelWaiters s c h.1 h.2 0 0 none
        | .faulted => cancelWaiters s c h.1 h.2 1 f.cause none
        | _ => s) else cancelWaiters s c h.1 h.2 0 0 none
    | none => cancelWaiters s c h.1 h.2 0 0 none) s
/-- The first record of a core's buffer enters mailbox 15. The place it leaves lets a fault that found none take effect. -/
def execFaultRecordDelivery (core : Nat) (s : State) : Host.Outcome State Fault Refusal :=
  .next (match (s.core core).recs with
    | [] => s
    | r :: rest =>
      if 252 ≤ s.unread (s.bayOf core) 15 then s
      else
        let s := (s.updCore core (fun co => { co with recs := rest })).appendMail (s.bayOf core) 15 r.bits
        refillQueue (lookAgain ((mkeys (s.core core).courses).foldl (fun s k => gatherCheck s core k) s) core) core)
/-- The supervisor has not read mailbox 15 for 10,000,000 ns while it is not empty: containment without a trigger record (R340). The time runs on over a
containment: it is not counted anew for the supervisor that starts again (log 115). -/
def execSupervisorStallTimeout (bay : Nat) (s : State) : Host.Outcome State Fault Refusal :=
  .next (
    let mb := (s.bay bay).mailbox 15
    if mb.entries.isEmpty || decide (s.t < mb.since + 10000000) then s else contain s bay none)

/-! ## A word that is no instruction (R145, R345, R346) -/

/-- Guard field of an L-set word (R140), and QG of a U-set word (R143). -/
def rawG (w : W32) : Guard := BitVec.ofNat 3 (w.toNat / 2 ^ 23)
def rawQ (w : W32) : Guard := BitVec.ofNat 3 (w.toNat / 2 ^ 22)
/-- The encoding fault of an issue, as found when it was parsed. A word whose guard is false in every lane, or whose QG reads 0, takes none; an issue of
three prefixes has no guard and holds its mask. -/
def execIllegalWord (code reason pos : Nat) (wd : W32) (s : State) : Host.Outcome State Fault Refusal :=
  word s (fun iss =>
    let r : FaultRec := { code := code, aux := aux0 reason pos wd }
    let three := iss.pos = 3
    match iss.who with
    | .course _ _ =>
      if three then issueFault s iss iss.mask r
      else if iss.word.getLsbD 31 then
        (if (uniOf s iss.who).rq (rawQ iss.word) then issueFault s iss iss.mask r else skip s iss true)
      else
        let ls := activeLanes s iss (rawG iss.word)
        if ls.isEmpty then skip s iss false
        else faultLanes (endIssue s iss false (fun l ln => if ls.contains l then ln else { ln with pc := iss.next }) iss.next) iss ls r
    | .job _ _ => if three ∨ !iss.word.getLsbD 31 ∨ (uniOf s iss.who).rq (rawQ iss.word) then issueFault s iss [] r else skip s iss true
    | .seq _ _ => issueFault s iss [] r)

end

end Sys2Proof.Machine
end

