-- ==== Sys2Proof/Machine/Fabric.lean ====
section
/-! DEFINITION. The Grerak fabric: what a peer's access does here (R285, R404), replies and failures of remote accesses (R402 to R410), multicast (R289
to R291, R411, R446), ridge commits as initiator and as destination (R292 to R298, R412 to R414, R419), and the host and CXL links (R301, R374, R377,
R417, R418). -/

namespace Sys2Proof.Machine

noncomputable section

/-! ## Fabric ingress (R285, R404, R409) -/

/-- The export entry that covers an offset (R284). -/
def exportFor (s : State) (b off : Nat) : Option (BitVec 256) :=
  (List.range 64).findSome? (fun i =>
    let e := mget (s.bay b).exports i 0
    let lo := e.toNat / 2 ^ 128 % 2 ^ 64
    if e.getLsbD 7 && decide (lo ≤ off ∧ off < lo + e.toNat / 2 ^ 64 % 2 ^ 64) then some e else none)
/-- Virtual address that an entry gives an offset (R284). -/
def exportVa (e : BitVec 256) (off : Nat) : Nat := e.toNat / 2 ^ 192 + (off - e.toNat / 2 ^ 128 % 2 ^ 64)
/-- NOSC of the leaf that maps a request's offset (R86, R89). -/
def ingressNosc (s : State) (p : FabReq) : Bool :=
  match exportFor s p.bay p.off with
  | none => false
  | some e => (walk s p.bay (exportVa e p.off)).2.getLsbD 8
/-- Bits of an entry that an access needs: R 2, W 3, MC 5, RG 6. -/
def exportNeeds : FabOp → List Nat
  | .load _ _ => [2]
  | .wait _ _ => [2]
  | .store _ _ => [3]
  | .atomic _ _ ret => if ret then [2, 3] else [3]
  | .stage _ _ _ => [3, 6]
  | .mcast _ _ ridge => if ridge.isSome then [3, 5, 6] else [3, 5]
def fabKind : FabOp → AccKind
  | .load _ _ => .load
  | .wait _ _ => .wait
  | .atomic _ _ ret => if ret then .atomic else .red
  | _ => .store
/-- A packet of a form that some instruction sends: within one sector, or one whole line. -/
def fabFormed (off : Nat) : FabOp → Bool
  | .load n _ => decide (off % 32 + n ≤ 32)
  | .wait n _ => decide (off % 32 + n ≤ 32)
  | .store b _ => b.all (fun x => decide (x.1 < 32))
  | .atomic ls _ _ => ls.all (fun l => decide (l.1 + l.2.2.1 ≤ 32))
  | .stage b _ _ => b.all (fun x => decide (x.1 < 32))
  | .mcast d _ _ => d.length == 256 && off % 256 == 0
/-- The checks in order: the physical address, or the code of the NACK. -/
def ingressChk (s : State) (p : FabReq) : Except Nat Nat :=
  if (s.bay p.bay).contained then .error 0x3F
  else if p.tgtInc ≠ (s.bay p.bay).inc then .error 0x0B
  else if !(s.bay p.bay).formed then .error 0x02
  else match exportFor s p.bay p.off with
    | none => .error 0x02
    | some e =>
      if (exportNeeds p.op).any (fun k => !e.getLsbD k) then .error 0x03
      else
        let va := exportVa e p.off
        let wl := walk s p.bay va
        if 2 ^ 56 ≤ va then .error 0x04
        -- the walk reads stored data that cannot be corrected (R379)
        else if (walkBad s p.bay va).isSome then .error 0x07
        else match leafCheck s wl.1 wl.2 va (fabKind p.op) false with
          | .ok pa => .ok pa
          | .bad 0x10 _ _ => .error 0x04
          | .bad 0x11 r _ => .error (if r = 4 ∨ r = 5 then 0x04 else 0x05)
          | .bad _ _ _ => .error 0x06
/-- The request as its answers name it. -/
def reqOf (p : FabReq) : PeerReq := { pkg := p.src, tag := p.tag, bay := p.bay, plane := p.plane }
/-- An answer goes on the plane that carried the request (R286). -/
def sendReply (s : State) (p : FabReq) (ans : FabAns) : State :=
  { s with out := s.out ++ [.reply (hopOf s p.bay (some p.plane)) p.src p.tag ans] }
/-- A NACK is counted at 0xF10C and makes no record (R404). -/
def nackPeer (s : State) (p : PeerReq) (code : Nat) : State :=
  let ans : OutPkt := .reply (hopOf s p.bay (some p.plane)) p.pkg p.tag (.nack code (if code = 0x0B then (s.bay p.bay).inc else 0))
  { s with out := s.out ++ [ans] }.updBay p.bay (fun y => { y with f10c := y.f10c + 1 })
def sendNack (s : State) (p : FabReq) (code : Nat) : State := nackPeer s (reqOf p) code

/-- A write's record goes back, for host and pool memory once its CXL write has completed (R275). -/
def ingressDone (s : State) (p : FabReq) (t : Target) (pa : Nat) (r : Record) (old : List Byte) : State :=
  if t.tier == Tier.host || t.tier == Tier.pool then
    let a : Access := { id := s.nextAcc, iss := 0, ag := .ingress (reqOf p), kind := .store, form := 0, ea := 0, size := 32,
                        ph := .cxl r old pa, t0 := s.t }
    { s with nextAcc := s.nextAcc + 1, accs := s.accs ++ [a] }
  else sendReply s p (.record r old)
def clearBad (s : State) (sector : Nat) : State :=
  { s with bad := s.bad.filter (fun u => match u with | .memory x _ => x != sector | _ => true) }
def ingressStore (s : State) (p : FabReq) (t : Target) (pa : Nat) (b : List (Nat × Byte)) (sig : Bool) : State :=
  let sec := t.canon / 32
  if (badSector s sec).isSome && !wholeSector b then sendNack s p 0x07
  else
    let r := recordAt s t t.canon
    ingressDone (afterWrite (writeSector (clearBad s sec) sec b) sec sig (ingressNosc s p)) p t pa r []
/-- The lanes of an atomic, in order, as one step (R288): the state, and the old values one after another. -/
def atomLanes (s : State) (sec : Nat) : List (Nat × AtomOp × Nat × Nat × Nat) → List Byte → State × List Byte
  | [], old => (s, old)
  | (off, op, n, v, cmp) :: ls, old =>
    let a : Access := { id := 0, iss := 0, ag := .host, kind := .atomic, form := 0, ea := 0, size := n, data := natBytes n v, cmp := cmp, op := op }
    let x := writeOne s a (32 * sec + off)
    atomLanes x.1 sec ls (old ++ x.2)
def ingressLoad (s : State) (p : FabReq) (t : Target) (scope : Nat) : State :=
  let g := t.canon / 64 * 64
  match badSector s (t.canon / 32) with
  | some _ => sendNack s p 0x07
  | none =>
    let b := s.readBytes g 64
    let ls := leaseOf s t.canon
    let far := t.tier == Tier.host || t.tier == Tier.pool
    let s := sofTouch s t 0 (ingressNosc s p) false
    if scope ≥ 6 || stagedReady s (g / 32) || stagedReady s (g / 32 + 1) then sendReply s.bumpFree p (.data b none)
    else
      let e := homeT s t.slice + 64 * 2 ^ (if far then 0 else ls.lvl)
      let ls' := { ls with lvl := if far then ls.lvl else Nat.min (ls.lvl + 1) 14, lr := Nat.max ls.lr e }
      sendReply { s.bumpFree with leases := mset s.leases (t.canon / 64) ls' } p (.data b (some e))

/-- A WAIT's read for a lane of another package: its value, or an entry in the monitor table (R203, R204). -/
def ingressWait (s : State) (p : FabReq) (t : Target) (n cmp : Nat) : State :=
  if (badSector s (t.canon / 32)).isSome then sendNack s p 0x07
  else
    let b := s.readBytes t.canon n
    let s := sofTouch s t 0 (ingressNosc s p) false
    if leNum b = cmp then sendReply (enterMon s.bumpFree t.slice (t.canon / 32) [] [reqOf p]) p .parked
    else sendReply s.bumpFree p (.data b none)

/-! ### Staged writes (R280, R292, R293) -/

/-- Die whose eave buffer holds a staged write of a home. -/
def eaveDie (s : State) (b slice : Nat) : Nat := let d := dieOf slice; if (colsOnDie s b d).isEmpty then 1 - d else d
def eaveUsed (s : State) (b d : Nat) : Nat := s.stages.foldl (fun n e => n + (e.2.writes.filter (fun w => w.bay == b && w.die == d)).length) 0
def eaveRoom (s : State) (b d n : Nat) : Bool := decide (64 * (eaveUsed s b d + n) ≤ mget (s.bay b).eave d 0 * mib)
def stageOf (s : State) (k : Nat) : Stage := mget s.stages k {}
def sectorsOf (st : Stage) : List Nat := (st.writes.map (·.sector)).eraseDups
/-- R(d): the latest horizon over the staged sectors; of a home in the safe mode its T + 1,048,600 (R378). -/
def stageR (s : State) (st : Stage) : Nat :=
  (sectorsOf st).foldl (fun m x =>
    let l := leaseOf s (32 * x)
    let h := homeOf s (32 * x)
    Nat.max m (if safeUnit s (256 + h) then homeT s h + 1048600 else Nat.max l.l0 (Nat.max l.l1 l.lr))) 0
/-- A destination that holds the writes it was told of answers READY; leases on them stop (R295). -/
def stageAnswer (s : State) (k : Nat) : State :=
  let st := stageOf s k
  match st.want with
  | none => s
  | some (n, _) =>
    if n ≤ st.staged then
      { s with stages := mset s.stages k { st with want := none, ready := true }, out := s.out ++ [.ready (hopOf s st.bay none) (k / 256) (k % 256) (stageR s st)] }
    else s
/-- Sectors of a packet are staged in order. -/
def stageWrites (s : State) (p : FabReq) (g : Nat) (ws : List Staged) : State :=
  let k := 256 * p.src + g
  let st := stageOf s k
  stageAnswer { s with stages := mset s.stages k { st with
    writes := st.writes ++ ws, staged := st.staged + ws.length, bay := if st.staged = 0 ∧ st.want = none then p.bay else st.bay,
    srcBays := if st.srcBays.contains p.srcBay then st.srcBays else st.srcBays ++ [p.srcBay] } } k
def ingressStage (s : State) (p : FabReq) (t : Target) (g : Nat) (ws : List Staged) : State :=
  if eaveRoom s p.bay (eaveDie s p.bay t.slice) ws.length then
    sendReply (stageWrites s p g ws) p (.staged (homeT s t.slice))
  else sendNack s p 0x08

/-- The 8 sectors of a line. -/
def lineSectors (d : List Byte) : List (Nat × List (Nat × Byte)) :=
  (List.range 8).map (fun i => (i, ((d.drop (32 * i)).take 32).mapIdx (fun j x => (j, x))))
/-- A multicast member write: 8 sector writes of the ingress agent on their way to their homes, each a step of its own (R95, R291); one answer when
all have their records (R446). -/
def ingressLine (s : State) (p : FabReq) (pa : Nat) (d : List Byte) (sig : Bool) : State :=
  let as := (List.range 8).map (fun i => ({
    id := s.nextAcc + i, iss := 0, ag := .ingress (reqOf p), kind := .store, form := BitVec.ofNat 64 (pa + 32 * i), ea := BitVec.ofNat 64 (pa + 32 * i),
    size := 32, data := (d.drop (32 * i)).take 32, sig := sig, nosc := ingressNosc s p, ph := .flight (pa + 32 * i), t0 := s.t } : Access))
  { s with accs := s.accs ++ as, nextAcc := s.nextAcc + 8 }
/-- Sectors of an earlier multicast of the same initiator in the granule of an address are still on their way: what it sent later comes after them
(R271, R286). -/
def lineBefore (s : State) (p : FabReq) (pa : Nat) : Bool :=
  s.accs.any (fun a => (match a.ag with | .ingress q => q.pkg == p.src | _ => false) && (match a.ph with
    | .flight d => granOf s d == granOf s pa || (match p.op with | .mcast _ _ _ => canonPa s d / 256 == canonPa s pa / 256 | _ => false)
    | _ => false))

/-- What a packet that passed its checks does at its home. -/
def ingressPerform (s : State) (p : FabReq) (pa : Nat) (t : Target) : State :=
  let sec := t.canon / 32
  let staged := fun (i : Nat) (b : List (Nat × Byte)) (sig : Bool) =>
    ({ bay := p.bay, die := eaveDie s p.bay t.slice, sector := sec + i, bytes := b, sig := sig } : Staged)
  match p.op with
  | .load _ scope => if heldForTp s sec (homeT s t.slice) then s else ingressLoad s p t scope
  | .wait n cmp => if heldForTp s sec (homeT s t.slice) then s else ingressWait s p t n cmp
  | .stage b g sig => ingressStage s p t g [staged 0 b sig]
  | .mcast d sig (some g) => ingressStage s p t g ((lineSectors d).map (fun e => staged e.1 e.2 sig))
  | .store b sig => if lateForTp s sec (homeT s t.slice) then s else ingressStore s p t pa b sig
  | .mcast d sig none => ingressLine s p pa d sig
  | .atomic ls sig ret =>
    if lateForTp s sec (homeT s t.slice) then s
    else if (badSector s sec).isSome then sendNack s p 0x07
    else
      let r := recordAt s t t.canon
      let x := atomLanes s sec ls []
      ingressDone (afterWrite x.1 sec sig (ingressNosc s p)) p t pa r (if ret then x.2 else [])
/-- Whether the package takes part in the fabric: from the end of stage 2 of its bring-up (R426). -/
def fabricUp (s : State) : Bool := s.st == .service || s.st == .ready || s.st == .trip
/-- A request of a remote initiator (R285, R409): from another incarnation than the one held it is dropped and counted at 0xF104. One whose tag has
failed for the fifth time is NACKed (R408). -/
def execFabricIngressRequest (pkt : FabReq) (s : State) : Host.Outcome State Fault Refusal :=
  .next (
    if !fabricUp s || !fabFormed pkt.off pkt.op then s
    else if pkt.srcInc ≠ incOf s pkt.src pkt.srcBay then s.updBay pkt.bay (fun y => { y with f104 := y.f104 + 1 })
    else if pkt.failed then sendNack s pkt 0x07
    else match ingressChk s pkt with
      | .error c => sendNack s pkt c
      | .ok pa => match target? s pa with
        | none => s
        | some t => if lineBefore s pkt pa then s else ingressPerform s pkt pa t)

/-! ## Replies and failures at the initiator (R405 to R410) -/

def dropTxn (s : State) (tag : Nat) : State :=
  { s with txns := mdel s.txns tag, heldPkts := s.heldPkts.filter (fun p => match p with | .request _ _ _ _ x _ _ => x != tag | _ => true) }
/-- A request that waits for its plane has not left (R410). -/
def isHeld (s : State) (tag : Nat) : Bool :=
  s.heldPkts.any (fun p => match p with | .request _ _ _ _ x _ _ => x == tag | .mcast _ _ x _ _ _ _ _ => x == tag | _ => false)
def txnAccs (s : State) (tag : Nat) : List Access := sortAccs (s.accs.filter (fun a => a.ph == .remote tag))
def goneTag (s : State) (tag : Nat) : State := { s with accs := s.accs.filter (fun a => a.ph != .remote tag) }
/-- A failed ridge-tagged write is kept with its group; the first code of a destination stands (R412). -/
def markRidge (s : State) (g peer code : Nat) : State :=
  let r := mget s.ridges g {}
  { s with ridges := mset s.ridges g { r with marks := if (mget? r.marks peer).isSome then r.marks else mset r.marks peer code } }
/-- R406: what becomes of the accesses of a request that failed. -/
def failTxn (s : State) (tag : Nat) (x : Txn) (code reason : Nat) (rinc : BitVec 16) (nack : Bool) : State :=
  let as := txnAccs s tag
  let s := dropTxn s tag
  let rec' := fun (a : Access) =>
    ({ code := code, loc := a.ea.setWidth 128, aux := aux4 reason x.peer x.bay x.plane 0 rinc (kindNum a.kind) a.size } : FaultRec)
  match x.ridge with
  | some g => as.foldl (fun s a => finishWrite s a ⟨0, 0, 0, 0, 0⟩ [] true) (markRidge s g x.peer (if nack then reason else 0x0A))
  | none => match as with
    | [] => s
    | a :: _ =>
      let async := asyncFault (goneTag s tag) (agentBay s a.ag) (agentRec s a.ag a.pc (as.flatMap (·.lanes)) (rec' a))
      match a.ag, a.kind with
      | .orphan _ _, _ => goneTag s tag
      | .core c, _ => imageFault (goneTag s tag) c a.form (rec' a)
      -- a DONE add that a peer refuses (R448)
      | .bayq b, _ => if nack then (queueFault s b a (rec' a)).getD (setPhase s a.id .queued) else async
      | _, .store => async
      | _, .stp => async
      | _, .red => async
      | _, .atomic => faultAccs s as.length (as.map (fun a => (a, { rec' a with cont := !nack })))
      | _, _ => faultAccs s as.length (as.map (fun a => (a, rec' a)))

/-- A WAIT's read at a peer's home found the value waited on: the lane is in its monitor table (R203). -/
def remoteParked (s : State) (tag : Nat) (a : Access) : State :=
  let s := dropTxn s tag
  match a.ag, a.kind with
  | .thread c k l, .wait =>
    let s := leavePeer (dropAcc s a.id) (c, k, l)
    { s.updLane c k l (fun ln => { ln with st := .monitor }) with peerMon := mset s.peerMon tag (c, k, l) }
  | _, _ => s
/-- A lane in the monitor table of a peer's home is woken (R204). -/
def remoteWake (s : State) (tag : Nat) : State :=
  match mget? s.peerMon tag with
  | none => s
  | some l => wakeLanes { s with peerMon := mdel s.peerMon tag } [l]
/-- Data of a load: the proxy keeps the granule while its lease lasts (R276), and the value goes to the core. A WAIT's value differs from the one waited
on, or its lane would be parked there. -/
def remoteData (s : State) (tag : Nat) (a : Access) (bytes : List Byte) (exp : Option Nat) : State :=
  let g := a.ea.toNat / 64
  let as := txnAccs s tag
  if a.kind.isWrite then dropTxn s tag
  else if a.kind == .wait then
    if bytes.length ≠ a.size ∨ leNum bytes = a.cmp then s else readDone (dropTxn s tag) a bytes none a.ea.toNat (stampNow s a.ea.toNat)
  else if bytes.length ≠ 64 then dropTxn s tag
  else
    let s := dropTxn s tag
    let s := match exp with
      | some e => if proxyPending s g then s else putProxy s g a.ev { data := bytes, exp := e, stamp := stampNow s a.ea.toNat }
      | none => s
    readsDone s as bytes (exp.map (· - 24)) (stampNow s a.ea.toNat)
/-- The record of a write, with the old values of an atomic in lane order. -/
def remoteRecord (s : State) (tag : Nat) (r : Record) (old : List Byte) : State :=
  let as := txnAccs s tag
  let s := dropTxn s tag
  (as.foldl (fun (x : State × List Byte) a =>
    (if (match a.ag with | .orphan _ _ => true | _ => false) then dropAcc x.1 a.id
     else noteSeen (setPhase x.1 a.id (.recorded r (x.2.take a.size) a.ea.toNat)) a.ag (a.ea.toNat / 32) (thisStamp s), x.2.drop a.size)) (s, old)).1
/-- A reply (R406 to R409): of another incarnation it is dropped and counted; without a request it is dropped. It comes on the plane that carried the
request (R286). -/
def execRemoteReply (rep : FabReply) (s : State) : Host.Outcome State Fault Refusal :=
  .next (
    if allDead s then s
    else match mget? s.txns rep.tag with
    | none =>
      if rep.srcInc ≠ incOf s rep.src rep.srcBay then s.updBay rep.dest (fun y => { y with f104 := y.f104 + 1 })
      else if rep.ans = .wake then remoteWake s rep.tag
      else s
    | some x =>
      if rep.src ≠ x.peer ∨ rep.srcBay ≠ x.bay ∨ rep.plane ≠ x.plane then s
      else if rep.srcInc ≠ incOf s rep.src rep.srcBay then s.updBay x.bayOf (fun y => { y with f104 := y.f104 + 1 })
      else match rep.ans with
        | .nack code rinc => failTxn s rep.tag x (if code = 0x0B then 0x33 else 0x30) code (if code = 0x0B then rinc else 0) true
        | .record r old => if x.ridge.isSome then s else remoteRecord s rep.tag r old
        | .staged p => if x.ridge.isSome then remoteRecord s rep.tag ⟨p, 0, 0, 0, 0⟩ [] else s
        | .data b exp => (match txnAccs s rep.tag with
          | a :: _ => remoteData s rep.tag a b exp
          | [] => dropTxn s rep.tag)
        | .parked => (match txnAccs s rep.tag with
          | a :: _ => remoteParked s rep.tag a
          | [] => dropTxn s rep.tag)
        | .wake => s)
/-- No reply within FTO (R406): REMOTE_TIMEOUT, on a dead plane LINK_DOWN (R410). -/
def execRemoteTimeout (tag : Nat) (s : State) : Host.Outcome State Fault Refusal :=
  .next (match mget? s.txns tag with
    | none => s
    | some x =>
      if s.t < x.t0 + s.fto then s
      else failTxn s tag x (if (mget s.planes x.plane {}).dead then 0x32 else 0x31) 0 0 false)
/-- A reply failed its tag and is asked for again; the fifth failure is a NACK with INTEGRITY (R408). What goes into a tile is replayed by the step of
R397. -/
def execPacketReplay (tag : Nat) (s : State) : Host.Outcome State Fault Refusal :=
  .next (match mget? s.txns tag with
    | none => s
    | some x => if (txnAccs s tag).any (fillRead s) then s else if x.replays < 4 then { s with txns := mset s.txns tag { x with replays := x.replays + 1 } } else failTxn s tag x 0x30 0x07 0 true)
/-- A peer's bay announces its incarnation (R409); its groups without a PUBLISH are aborted (R414). -/
def execIncarnationAnnouncement (pkg bay : Nat) (inc : BitVec 16) (s : State) : Host.Outcome State Fault Refusal :=
  .next (if !fabricUp s then s else { s with
    peerInc := mset s.peerInc (16 * pkg + bay) inc,
    stages := s.stages.filter (fun e => !(e.1 / 256 == pkg && e.2.tp.isNone && e.2.srcBays.contains bay)) })

/-! ### Dead planes (R410) -/

/-- Plane k dies: its own lines, and those it carried for others, are held. -/
def execPlaneDead (k : Nat) (s : State) : Host.Outcome State Fault Refusal :=
  .next (if k < 8 then { s with planes := mset (s.planes.map (fun e => (e.1, if e.2.via = some k then { e.2 with via := none } else e.2))) k { dead := true } }
         else s)
/-- A request of a line of plane k is on its way. -/
def planeBusy (s : State) (k : Nat) : Bool :=
  s.txns.any (fun e => planeOf e.2.off == k && !isHeld s e.1) || s.mcsts.any (fun e => planeOf e.2.dest == k && !e.2.acked && !isHeld s e.1)
/-- The lowest live plane above k, counting cyclically. -/
def planeNext (s : State) (k : Nat) : Option Nat := ((List.range 8).map (fun i => (k + 1 + i) % 8)).find? (fun j => !(mget s.planes j {}).dead)
def pktLine (p : OutPkt) : Nat := match p with | .request _ _ _ off _ _ _ => off | .mcast _ _ _ off _ _ _ _ => off | _ => 0
def setPlane (j : Nat) : OutPkt → OutPkt
  | .request h a b off tag inc op => .request { h with plane := some j } a b off tag inc op
  | .mcast h g tag off d sig r incs => .mcast { h with plane := some j } g tag off d sig r incs
  | p => p
/-- Once none is outstanding the lines of plane k go on another plane, and the held packets are sent. -/
def execPlaneReroute (k : Nat) (s : State) : Host.Outcome State Fault Refusal :=
  .next (
    let p := mget s.planes k {}
    if !p.dead || p.via.isSome || planeBusy s k then s
    else match planeNext s k with
      | none => s
      | some j =>
        let mine := fun (p : OutPkt) => planeOf (pktLine p) == k
        { s with
          planes := mset s.planes k { p with via := some j }, out := s.out ++ (s.heldPkts.filter mine).map (setPlane j),
          heldPkts := s.heldPkts.filter (fun p => !mine p),
          txns := s.txns.map (fun e => (e.1, if planeOf e.2.off = k then { e.2 with plane := j } else e.2)),
          mcsts := s.mcsts.map (fun e => (e.1, if planeOf e.2.dest = k ∧ e.2.acked = false then { e.2 with plane := j } else e.2)) })

/-! ## Multicast (R289 to R291, R411, R446) -/

/-- Members of a bitmap, ascending. -/
def membersOf (m : BitVec 512) : List Nat := (List.range 512).filter (fun k => m.getLsbD k)
/-- Peer-window address of a member's destination. -/
def memberVa (dest m : Nat) : W64 := BitVec.ofNat 64 (2 ^ 56 + m * 2 ^ 47 + dest)
/-- The writes of an MCST stand in the issue buffer, one for each granule of each member, until the acknowledgement. -/
def mcstAccs (s : State) (iss : Issue) (tag dest : Nat) (ms : List Nat) (ridge : Option Nat) (sig : Bool) : List Access :=
  let vas := ms.flatMap (fun m => (List.range 4).map (fun k => memberVa dest m + BitVec.ofNat 64 (64 * k)))
  let t := s.coreT (issCore iss.who)
  vas.mapIdx (fun i va => ({
    id := s.nextAcc + i, iss := iss.id, ag := uniAgent iss, kind := .store, form := va, ea := va, size := 64, sig := sig, pc := iss.pc,
    next := iss.next, lanes := iss.mask, ph := .remote tag, t0 := t, ridge := ridge } : Access))
/-- MCST once its line is read and its future allocated: one packet, and 8 sector writes for each member counted for a ridge group. -/
def mcstSend (s : State) (iss : Issue) (c k e : Nat) (gen : BitVec 8) (dest : Nat) (ctl status : Nat) (ms : List Nat) (line : List Byte) : State :=
  let tag := s.nextTag
  let ridge := if ctl / 2 ^ 13 % 2 = 1 then some (ctl / 2 ^ 16 % 256) else none
  let sig := decide (ctl / 2 ^ 12 % 2 = 1)
  let as := mcstAccs s iss tag dest ms ridge sig
  let m : Mcst := {
    core := c, slot := k, lane := iss.low, lanes := iss.mask, fut := e, gen := gen, dest := dest, status := BitVec.ofNat 64 status, group := ctl % 4096,
    sig := sig, ridge := ridge, members := ms, pc := iss.pc, iss := iss.id, t0 := s.t, prv := prvOf s iss.who,
    plane := (planeNow s (planeOf dest)).getD (planeOf dest) }
  let s := if ridge.isSome then s else as.foldl (fun s a => dropCopies s c a.ea.toNat 0) s
  let pkt : OutPkt := .mcast (hopOf s (s.bayOf c) (some m.plane)) (ctl % 4096) tag dest line sig ridge
    (ms.map (fun x => (x, incOf s x (peerBay dest))))
  let s := { s with nextTag := tag + 1, nextAcc := s.nextAcc + as.length, accs := s.accs ++ as, mcsts := mset s.mcsts tag m }
  let s := match planeNow s (planeOf dest) with
    | some _ => { s with out := s.out ++ [pkt] }
    | none => { s with heldPkts := s.heldPkts ++ [pkt] }
  match ridge with
  | some g => ms.foldl (fun s m => countRidge s g m (s.bayOf c) 8) s
  | none => s
/-- The eight loads of the source line, of the issuing thread (R446); the first that fails a check, or that must be held, stops them. -/
def mcstLoads (s : State) (iss : Issue) (c : Nat) (src : W64) : Issued :=
  let ag := uniAgent iss
  (List.range 8).foldl (fun r i =>
    if r.held || !r.bad.isEmpty then r
    else issueOne c r iss.low {
      id := 0, iss := iss.id, ag := ag, kind := .load, form := formAddr src (BitVec.ofNat 64 (32 * i)), ea := formAddr src (BitVec.ofNat 64 (32 * i)),
      size := 32, prv := prvOf s iss.who, dest := .mcst iss.id i, pc := iss.pc, next := iss.next, lanes := iss.mask, acq := acqOf s ag }) { s := s }
/-- The lanes wait until the line has come, and issue the word again then. -/
def mcstRead (s : State) (iss : Issue) (c k : Nat) (d : HReg) (dst src ctl stat : W64) : State :=
  let r := mcstLoads s iss c src
  if r.held then s
  else match r.bad with
    | (_, f) :: _ => issueFault s iss iss.mask f
    | [] =>
      let m : McstRun := { iss := iss.id, mask := iss.mask, pc := iss.pc, dest := dst.toNat, ctl := ctl.toNat, status := stat.toNat,
                           ids := (List.range 8).map (s.nextAcc + ·), hd := d.toNat }
      r.s.updCourse c k (fun co => { co.mapLanes (fun l ln => if iss.mask.contains l
          then { ln with st := .pend { kind := .mcst, accs := m.ids, frame := 0, d := 0, next := iss.next } } else ln) with
        mcst := co.mcst.filter (fun x => !x.mask.any iss.mask.contains) ++ [m] })
/-- An MCST whose source line has come, for lanes of this issue. -/
def mcstRun? (s : State) (iss : Issue) (c k : Nat) : Option McstRun :=
  ((s.course? c k).getD {}).mcst.find? (fun m => m.pc == iss.pc && m.mask.all iss.mask.contains && m.got.length == m.ids.length)
/-- It goes on: a future is allocated, and the packet is sent. -/
def mcstGo (s : State) (iss : Issue) (c k : Nat) (d : HReg) (m : McstRun) (ms : BitVec 512) : State :=
  let iss' : Issue := { iss with id := m.iss, mask := m.mask }
  match allocFut (s.core c) (blkOf s iss.who) .running .mcst with
  | none => s
  | some (core', e) =>
    let gen := futGenOf core' e
    let s := (s.setCore c core').updCourse c k (fun co => { co.wh d.toNat (futHandle gen c e) with mcst := co.mcst.filter (fun x => x.iss != m.iss) })
    mcstSend (skip s iss' true) iss' c k e gen m.dest m.ctl m.status (membersOf ms) ((List.range 8).flatMap (fun i => mget m.got i []))

/-- Value checks of R349. -/
def mcstBad (a b : Reg) (dst src ctl stat : W64) : Bool :=
  a.getLsbD 0 || b.getLsbD 0 || decide (dst.toNat / 2 ^ 47 ≠ 0 ∨ ctl.toNat / 2 ^ 24 ≠ 0 ∨ ctl.toNat / 2 ^ 14 % 4 ≠ 0 ∨ dst.toNat % 256 ≠ 0
    ∨ src.toNat % 256 ≠ 0 ∨ stat.toNat % 64 ≠ 0) || classAddr src == .peer
def execMcst (q : Guard) (d : HReg) (a b : Reg) (s : State) : Host.Outcome State Fault Refusal :=
  cword s q (fun iss c k =>
    let u := uniOf s iss.who
    let dst := u.rs a.toNat
    let src := u.rs (a.toNat + 1)
    let ctl := u.rs b.toNat
    let stat := u.rs (b.toNat + 1)
    match mcstRun? s iss c k with
    | some m => if m.ctl / 2 ^ 13 % 2 = 1 && !ridgeMayLeave s (m.ctl / 2 ^ 16 % 256) then s else mcstGo s iss c k d m (mget s.mcg (m.ctl % 4096) { members := 0, bay := 0 }).members
    | none =>
      if mcstBad a b dst src ctl stat then valueFault s iss
      else match mget? s.mcg (ctl.toNat % 4096) with
        | none => noPriv s iss
        | some g =>
          if g.bay ≠ s.bayOf c then noPriv s iss
          else if !relPassed s (uniAgent iss) 6 || (ctl.getLsbD 13 && !ridgeMayLeave s (ctl.toNat / 2 ^ 16 % 256)) then s
          else mcstRead s iss c k d dst src ctl stat)

/-- A future of this kind resolves, if its entry still stands for it (R250). -/
def resolveIf (s : State) (c e : Nat) (gen : BitVec 8) (v : W64) : State :=
  match mget? (s.core c).futs e with
  | some f => if f.gen = gen then resolveFut s c e v else s
  | none => s
/-- The two sectors of a status record are stored; a failed check contains, room that is missing holds the step. -/
def statusStores (s : State) (m : Mcst) (x : Nat) : List Nat → Option State
  | [] => some s
  | i :: is =>
    let va := m.status + BitVec.ofNat 64 (32 * i)
    let a : Access := { id := s.nextAcc, iss := m.iss, ag := .thread m.core m.slot m.lane, kind := .store, form := va, ea := va, size := 32,
                        data := natBytes 32 (x / 2 ^ (256 * i)), prv := m.prv, pc := m.pc, next := m.pc, lanes := m.lanes }
    match probeOf s m.core a with
    | .bad r => some (asyncFault s (s.bayOf m.core) (agentRec s a.ag m.pc m.lanes r))
    | pr => match placeAcc s m.core a pr with
      | none => none
      | some (s', _) => statusStores { s' with nextAcc := s.nextAcc + 1 } m x is
/-- The aggregated record of the members that performed (R291). -/
def mcstRecord (res : List (Nat × McstRes)) : Record :=
  res.foldl (fun (m : Record) e => match e.2 with
    | .done _ x => joinRecord m x
    | .nack _ _ => m) ⟨0, 0, 0, 0, 0⟩
def mcstNacks (res : List (Nat × McstRes)) : List (Nat × Nat) :=
  res.filterMap (fun e => match e.2 with | .nack _ code => some (e.1, code) | .done _ _ => none)
/-- The value of a resolved MCST. -/
def mcstVal (members failed : Nat) : W64 := BitVec.ofNat 64 ((members - failed) % 1024 + 2 ^ 16 * (failed % 1024))
/-- The acknowledgement has come: the record, the marks of a ridge group, the status record or at once the value. -/
def mcstAcked (s : State) (tag : Nat) (m : Mcst) (res : List (Nat × McstRes)) : State :=
  let nacks := mcstNacks res
  let failed := m.failed ++ nacks.map (·.1)
  let v := mcstVal m.members.length failed.length
  let s1 := match m.ridge with
    | some g => nacks.foldl (fun s e => markRidge s g e.1 e.2) s
    | none => s
  let as := txnAccs s tag
  let s1 := goneTag s1 tag
  let s1 := match as with
    | a :: _ => finishWrite s1 a (mcstRecord res) [] true
    | [] => s1
  if m.status = 0 then resolveIf { s1 with mcsts := mdel s1.mcsts tag } m.core m.fut m.gen v
  else match statusStores { s1 with mcsts := mset s1.mcsts tag { m with acked := true, val := v, stat := [s1.nextAcc, s1.nextAcc + 1] } } m
      (failed.foldl (fun n k => n + 2 ^ k) 0) [0, 1] with
    | some s2 => s2
    | none => s
/-- A member's answer that carries another incarnation than the one held for its bay is dropped, and counted at 0xF104 of the initiator's (R409). -/
def mcstFresh (s : State) (own b : Nat) (res : List (Nat × McstRes)) : State × List (Nat × McstRes) :=
  let ok := fun (e : Nat × McstRes) => (match e.2 with | .done i _ => i | .nack i _ => i) == incOf s e.1 b
  (if res.all ok then s else s.updBay own (fun y => { y with f104 := y.f104 + BitVec.ofNat 32 (res.filter (fun e => !ok e)).length }), res.filter ok)
/-- Every member has answered, or is known not to (R411). The answer to a multicast of a killed block leaves its marks alone. -/
def execMcstAck (tag : Nat) (res : List (Nat × McstRes)) (s : State) : Host.Outcome State Fault Refusal :=
  .next (
    if allDead s then s
    else match mget? s.mcsts tag with
    | none =>
      let as := txnAccs s tag
      let x := mcstFresh s ((as.head?.map (fun a => ownerBay s a.ag)).getD 0) ((as.head?.map (fun a => peerBay a.ea.toNat)).getD 0) res
      let s := x.1
      let res := x.2
      if (mget? s.txns tag).isSome then s
      else match as.head?.bind (·.ridge) with
        | some g => goneTag ((mcstNacks res).foldl (fun s e => markRidge s g e.1 e.2) s) tag
        | none => goneTag s tag
    | some m =>
      let x := mcstFresh s (s.bayOf m.core) (peerBay m.dest) res
      let s := x.1
      let res := x.2
      let all := m.members.all (fun k => m.failed.contains k || res.any (·.1 == k)) && res.all (fun e => m.members.contains e.1 && !m.failed.contains e.1)
        && decide ((res.map (·.1)).eraseDups.length = res.length)
      if m.acked || !all then s else mcstAcked s tag m res)
/-- The status stores are performed: the future resolves (R446). -/
def execMcstResolve (tag : Nat) (s : State) : Host.Outcome State Fault Refusal :=
  .next (match mget? s.mcsts tag with
    | none => s
    | some m => if m.acked && accsDone s m.stat then resolveIf { s with mcsts := mdel s.mcsts tag } m.core m.fut m.gen m.val else s)
/-- A member without an answer within FTO: a plain MCST contains its context (R411); a ridge-tagged one is marked NO_ANSWER (R412). -/
def execMcstMemberTimeout (tag peer : Nat) (s : State) : Host.Outcome State Fault Refusal :=
  .next (match mget? s.mcsts tag with
    | none => s
    | some m =>
      if m.acked || !m.members.contains peer || m.failed.contains peer || decide (s.t < m.t0 + s.fto) then s
      else match m.ridge with
        | some g => { markRidge s g peer 0x0A with mcsts := mset s.mcsts tag { m with failed := m.failed ++ [peer] } }
        | none =>
          let va := memberVa m.dest peer
          let r : FaultRec := {
            code := if (mget s.planes m.plane {}).dead then 0x32 else 0x31, loc := va.setWidth 128,
            aux := aux4 0 peer (peerBay va.toNat) m.plane 0 0 1 32 }
          asyncFault s (s.bayOf m.core) (agentRec s (.thread m.core m.slot m.lane) m.pc m.lanes r))

/-! ## Ridge commits as initiator (R292 to R297, R412, R413, R419) -/

def ridgeOf (s : State) (g : Nat) : Ridge := mget s.ridges g {}
def setRidge (s : State) (g : Nat) (r : Ridge) : State := { s with ridges := mset s.ridges g r }
/-- The value of a committed ridge and of an aborted one (R296). -/
def ridgeOk (tp : Nat) : W64 := BitVec.ofNat 64 (tp % 2 ^ 63)
def ridgeAb (code peer : Nat) : W64 := BitVec.ofNat 64 (2 ^ 63 + code % 256 * 2 ^ 16 + peer % 512)
/-- The messages of a group go out for the bay of the RIDGE it serves, or else of the first bay that wrote to it (R287). -/
def ridgeHop (s : State) (r : Ridge) : Hop := hopOf s (match r.cur with | some op => op.bay | none => r.bays.headD 0) none
/-- ABORT to every destination; the group is publishing until each has acknowledged (R412). -/
def ridgeAbort (s : State) (g : Nat) (r : Ridge) (code peer : Nat) : State :=
  setRidge { s with out := s.out ++ (mkeys r.counts).map (fun d => .abort (ridgeHop s r) d g) } g
    { r with st := .publishing, aborted := some (code, peer), acked := [], sentAt := s.t }
/-- Ridge-tagged writes of earlier issues that have not left the package (R295): one whose packet waits for its plane has not (R410). -/
def ridgeUnsent (s : State) (g iss : Nat) : Bool :=
  s.accs.any (fun a => a.ridge == some g && decide (a.iss < iss) && a.ph.unperformed && (match a.ph with | .remote tag => isHeld s tag | _ => true))
  || s.cores.any (fun c => c.2.procs.any (fun p => (match p.2.job with
    | none => false
    | some j => j.xfers.any (fun x => x.ridge == some g && decide (x.id < iss) && x.elems.any (fun e => e.ph != .write && e.ph != .done)))))
/-- The lowest of some destinations, with its code. -/
def lowestOf (l : List (Nat × Nat)) : Option (Nat × Nat) := match l with
  | [] => none
  | e :: es => some (es.foldl (fun m x => if x.1 < m.1 then x else m) e)
/-- The RIDGE in progress starts its vote as soon as it can, or with a mark its abort. -/
def ridgeTry (s : State) (g : Nat) : State :=
  let r := ridgeOf s g
  match r.cur with
  | none => s
  | some op =>
    if r.st ≠ .opened then s
    else match lowestOf r.marks with
      | some (peer, code) => ridgeAbort s g r code peer
      | none =>
        if ridgeUnsent s g op.iss then s
        else setRidge { s with out := s.out ++ r.counts.map (fun e => .count (ridgeHop s r) e.1 g e.2) } g { r with st := .voting, answers := [], sentAt := s.t }
/-- The record of an aborted ridge (R413). -/
def ridgeRec (s : State) (g : Nat) (op : RidgeOp) (code peer : Nat) : FaultRec :=
  { code := 0x34, tflt := s.coreT op.core, pc := op.pc, aux := aux4 code peer 0 0 g 0 0 1,
    ticket := ticket true (s.bay op.bay).inc op.slot op.core, blk := op.blk }
/-- The group after its round: idle, no marks, no counts (R419); a waiting RIDGE keeps its place. -/
def ridgeFresh (r : Ridge) : Ridge := { waiting := r.waiting }
/-- RIDGEs resolve aborted, each with its record (R413); none where a record finds no room in its buffer. -/
def abortAll (g code peer : Nat) : List RidgeOp → State → Option State
  | [], s => some s
  | op :: ops, s =>
    if recRoom s op.core then abortAll g code peer ops (resolveIf (putRec s op.core (ridgeRec s g op code peer)) op.core op.fut op.gen (ridgeAb code peer))
    else none
/-- The last acknowledgement resolves the RIDGE (R295, R296, R413), and after a containment those that waited with it (R341). The records of an abort wait
for room in their buffers. -/
def ridgeResolve (s : State) (g : Nat) (r : Ridge) : State :=
  match r.aborted with
  | some (code, peer) => (abortAll g code peer (r.cur.toList ++ r.doomed) (setRidge s g (ridgeFresh r))).getD (setRidge s g r)
  | none => match r.cur with
    | none => setRidge s g (ridgeFresh r)
    | some op => resolveIf (setRidge s g (ridgeFresh r)) op.core op.fut op.gen (ridgeOk (r.tp.getD 0))
/-- A RIDGE takes its turn: an idle group commits at once, or with a mark aborts at once, having no destination (R295, R412); either clears the group
(R419). -/
def ridgeTake (s : State) (g : Nat) (op : RidgeOp) : State :=
  let r := ridgeOf s g
  if r.st = .idle then ridgeResolve s g { r with
    st := .publishing, cur := some op, tp := some (s.coreT op.core), aborted := (lowestOf r.marks).map (fun x => (x.2, x.1)), acked := [], sentAt := s.t }
  else ridgeTry (setRidge s g { r with cur := some op }) g
def execRidge (q : Guard) (d : HReg) (a : Reg) (s : State) : Host.Outcome State Fault Refusal :=
  cword s q (fun iss c k =>
    let x := (uniOf s iss.who).rs a.toNat
    let g := x.toNat
    if g ≥ 256 then valueFault s iss
    else match allocFut (s.core c) (blkOf s iss.who) .running .ridge with
      | none => s
      | some (core', e) =>
        let gen := futGenOf core' e
        let op : RidgeOp := { core := c, slot := k, blk := blkOf s iss.who, fut := e, gen := gen, pc := iss.pc, bay := s.bayOf c, iss := iss.id }
        let r := ridgeOf s g
        let s := skip ((s.setCore c core').updCourse c k (·.wh d.toNat (futHandle gen c e))) iss true
        if r.cur.isSome || !r.waiting.isEmpty || r.st == .voting || r.st == .publishing then setRidge s g { r with waiting := r.waiting ++ [op] }
        else ridgeTake s g op)
/-- The wait for earlier writes, or for an earlier RIDGE, ends. -/
def execRidgeVoteStart (group : Nat) (s : State) : Host.Outcome State Fault Refusal :=
  .next (
    let r := ridgeOf s group
    match r.cur, r.waiting with
    | some _, _ => ridgeTry s group
    | none, op :: rest => if r.st = .voting ∨ r.st = .publishing then s else ridgeTake (setRidge s group { r with waiting := rest }) group op
    | none, [] => s)
def ridgeNum : RidgeSt → Nat
  | .idle => 0 | .opened => 1 | .voting => 2 | .publishing => 3
/-- RSTAT's value (R297). -/
def rstatVal (r : Ridge) : W64 := BitVec.ofNat 64 (2 ^ 32 * r.counts.foldl (fun n e => n + e.2) 0 + 2 ^ 16 * r.counts.length + ridgeNum r.st)
def execRstat (q : Guard) (d a : Reg) (s : State) : Host.Outcome State Fault Refusal :=
  cword s q (fun iss _ _ =>
    let g := ((uniOf s iss.who).rs a.toNat).toNat
    if g ≥ 256 then valueFault s iss else skip (updIss s iss.who (·.ws d.toNat (rstatVal (ridgeOf s g)))) iss true)

/-- Every destination has answered (R295). A write that has failed during the vote has marked the group, which aborts it as a refusal does; the lowest
of the marked and refusing destinations is named (R412; log 55). -/
def ridgeDecide (s : State) (g : Nat) (r : Ridge) : State :=
  if !(mkeys r.counts).all (fun d => (mget? r.answers d).isSome) then setRidge s g r
  else match lowestOf (r.marks ++ r.answers.filterMap (fun e => match e.2 with | .refuse code => some (e.1, code) | .ready _ => none)) with
    | some (peer, code) => ridgeAbort s g r code peer
    | none =>
      let mx := r.answers.foldl (fun m e => match e.2 with | .ready x => Nat.max m (x + 24) | .refuse _ => m) 0
      let tp := Nat.max (s.t + s.pl) mx
      setRidge { s with out := s.out ++ (mkeys r.counts).map (fun d => .publish (ridgeHop s r) d g tp) } g
        { r with st := .publishing, tp := some tp, acked := [], sentAt := s.t }
/-- A message of another incarnation than the one held for its sender is dropped, and counted at 0xF104 of the bay it addresses (R409). -/
def fresh (s : State) (w : Sender) (k : State) : State :=
  if !fabricUp s then s
  else if w.inc ≠ incOf s w.pkg w.bay then s.updBay w.dest (fun y => { y with f104 := y.f104 + 1 }) else k
def execRidgeAnswer (group : Nat) (w : Sender) (ans : RidgeAns) (s : State) : Host.Outcome State Fault Refusal :=
  .next (fresh s w (
    let peer := w.pkg
    let r := ridgeOf s group
    if r.st ≠ .voting ∨ (mget? r.counts peer).isNone = true ∨ (mget? r.answers peer).isSome = true then s
    else ridgeDecide s group { r with answers := mset r.answers peer ans }))
/-- No answer within FTO of the count: NO_ANSWER (R412). -/
def execRidgeAnswerTimeout (group peer : Nat) (s : State) : Host.Outcome State Fault Refusal :=
  .next (
    let r := ridgeOf s group
    if r.st ≠ .voting ∨ (mget? r.counts peer).isNone = true ∨ (mget? r.answers peer).isSome = true ∨ s.t < r.sentAt + s.fto then s
    else ridgeDecide s group { r with answers := mset r.answers peer (.refuse 0x0A) })
def execRidgeAbortResend (group : Nat) (s : State) : Host.Outcome State Fault Refusal :=
  .next (
    let r := ridgeOf s group
    if r.st ≠ .publishing ∨ r.aborted.isNone = true then s
    -- every destination has acknowledged, and the records of the abort have waited for room (R339)
    else if (mkeys r.counts).all (fun d => r.acked.contains d) then ridgeResolve s group r
    else if s.t < r.sentAt + s.fto then s
    else setRidge { s with out := s.out ++ ((mkeys r.counts).filter (fun d => !r.acked.contains d)).map (fun d => .abort (ridgeHop s r) d group) } group { r with sentAt := s.t })
def execRidgeAck (group : Nat) (w : Sender) (s : State) : Host.Outcome State Fault Refusal :=
  .next (fresh s w (
    let peer := w.pkg
    let r := ridgeOf s group
    if r.st ≠ .publishing ∨ (mget? r.counts peer).isNone = true then s
    else
      let r := { r with acked := if r.acked.contains peer then r.acked else r.acked ++ [peer] }
      if (mkeys r.counts).all (fun d => r.acked.contains d) then ridgeResolve s group r else setRidge s group r))
/-- A PUBLISH without its acknowledgement by TP + FTO contains the initiator (R414). -/
def execRidgePublishTimeout (group : Nat) (s : State) : Host.Outcome State Fault Refusal :=
  .next (
    let r := ridgeOf s group
    match r.tp with
    | none => s
    | some tp =>
      if r.st ≠ .publishing ∨ s.t < tp + s.fto then s
      else
        let peer := (((mkeys r.counts).filter (fun d => !r.acked.contains d)).headD 0)
        let s' := setRidge s group (ridgeFresh r)
        match r.cur with
        | none => s'
        | some op => asyncFault s' op.bay {
            code := 0x31, tflt := s.coreT op.core, pc := op.pc, aux := aux4 0 peer 0 0 0 0 0 1, ticket := ticket true (s.bay op.bay).inc op.slot op.core,
            blk := op.blk })

/-! ## Ridge commits as destination (R281, R295, R414) -/

def execRidgeCount (w : Sender) (group n : Nat) (s : State) : Host.Outcome State Fault Refusal :=
  .next (fresh s w (
    let k := 256 * w.pkg + group
    let st := stageOf s k
    if st.ready || st.tp.isSome then s
    else stageAnswer { s with stages := mset s.stages k { st with want := some (n, s.t), bay := if st.staged = 0 then w.dest else st.bay } } k))
/-- Fewer writes than counted after 100,000 ns: STAGE_SHORT (R295, R403). -/
def execRidgeStageTimeout (pkg group : Nat) (s : State) : Host.Outcome State Fault Refusal :=
  .next (
    let k := 256 * pkg + group
    let st := stageOf s k
    match st.want with
    | none => s
    | some (_, t) =>
      if s.t < t + 100000 then s
      else { s with stages := mset s.stages k { st with want := none }, out := s.out ++ [.refuse (hopOf s st.bay none) pkg group 0x09] })
def execRidgePublishMsg (w : Sender) (group tp : Nat) (s : State) : Host.Outcome State Fault Refusal :=
  .next (fresh s w (
    let k := 256 * w.pkg + group
    match mget? s.stages k with
    | none => s
    | some st => if st.tp.isSome then s else stageDone s k { st with tp := some tp, left := sectorsOf st }))
/-- ABORT removes the group's writes in one step and is acknowledged; after PUBLISH it finds nothing to do (R281). -/
def execRidgeAbortMsg (w : Sender) (group : Nat) (s : State) : Host.Outcome State Fault Refusal :=
  .next (fresh s w (
    let k := 256 * w.pkg + group
    let st := stageOf s k
    if st.tp.isSome then s
    else { s with stages := mdel s.stages k, out := s.out ++ [.ack (hopOf s (if (mget? s.stages k).isSome then st.bay else w.dest) none) w.pkg group] }))

/-! ## The host and pool links (R301, R377, R417, R418) -/

/-- A host access to one sector of a bay's HDM range, at the host physical address `hpa`, performed at its home by the host ingress agent (R266, R301):
a read is answered in that step, with no data where they cannot be corrected (R379); a write once its record has come. -/
def execHostHdmAccess (bay hpa : Nat) (op : HdmOp) (s : State) : Host.Outcome State Fault Refusal :=
  .next (
    let y := s.bay bay
    let n := match op with | .read n => n | .write b => b.length
    let pa := y.hdmBase + (hpa - y.hdmHost)
    if hpa < y.hdmHost ∨ y.hdmHost + y.hdmLen < hpa + n ∨ pa % 32 + n > 32 ∨ s.hUp = false then s
    else match target? s pa with
      | none => s
      | some t =>
        let sec := t.canon / 32
        match op with
        | .read n =>
          if heldForTp s sec (homeT s t.slice) then s
          else if (badSector s sec).isSome then { s with out := s.out ++ [.hdmAns hpa []] }
          else
            let a : Access := { id := 0, iss := 0, ag := .host, kind := .load, form := BitVec.ofNat 64 hpa, ea := BitVec.ofNat 64 pa, size := n }
            let s' := sofTouch (grantLease s.bumpFree a t).1 t 0 false false
            { s' with out := s'.out ++ [.hdmAns hpa (s.readBytes t.canon n)] }
        | .write b =>
          let bs := sectorBytes t.canon b
          if lateForTp s sec (homeT s t.slice) then s
          else match (if wholeSector bs then none else badSector s sec) with
            | some src => asyncFault s bay {
                code := 0x3F, tflt := s.t, loc := BitVec.ofNat 128 pa, aux := BitVec.ofNat 64 src, agent := 4, ticket := ticket true y.inc 0 0 }
            | none => sectorWrite s { id := 0, iss := 0, ag := .host, kind := .store, form := BitVec.ofNat 64 hpa, ea := BitVec.ofNat 64 pa, size := 32 } sec bs)

/-- Whether an access is outstanding at a port: on its way to that tier, or its CXL write not completed. -/
def atPort (s : State) (m : Bool) (a : Access) : Bool :=
  let tier := fun (d : Nat) => !isPeer d && tierOf s d == (if m then Tier.pool else Tier.host)
  match a.ph with
  | .flight d => tier d
  | .cxl _ _ d => tier d
  | _ => false
/-- An outstanding access fails with its port (R377): its bay is contained; a peer is told TARGET_FAR and contains nothing here (R418). -/
def portFail (code : Nat) (s : State) (a : Access) : State :=
  match a.ag with
  -- a request answers once, whichever of its sectors fails; a publication has no answer, nor has a line of which a part has been performed (R411)
  | .ingress p =>
    let mine := s.accs.filter (fun x => x.ag == a.ag && x.ridge == none)
    if !s.accs.any (fun x => x.id == a.id) then s
    else if a.ridge.isSome then dropAcc s a.id
    else
      let s := { s with accs := s.accs.filter (fun x => !mine.contains x) }
      if mine.length ≤ 1 ∨ mine.all (fun x => match x.ph with | .flight _ => true | _ => false) then nackPeer s p 0x06 else s
  | .orphan _ _ => dropAcc s a.id
  | .service _ => dropAcc s a.id
  | .host => dropAcc s a.id
  | _ =>
    -- ended already with the containment of its bay
    if !s.accs.any (fun x => x.id == a.id && x.ag == a.ag) then s
    else contain s (agentBay s a.ag) (some (agentRec s a.ag a.pc a.lanes {
      code := code, loc := a.form.setWidth 128, aux := aux4 0 0 0 0 0 0 (kindNum a.kind) a.size, cont := true,
      async := a.kind.isWrite && (a.kind != .atomic || a.dest == .none) }))
/-- The answer of a management command (R429). -/
def cmdAns (s : State) (cmd : W512) (status reason : Nat) : State :=
  { s with cmd := none, ans := (0 : BitVec 480) ++ BitVec.ofNat 16 (cmd.toNat / 2 ^ 16) ++ BitVec.ofNat 8 reason ++ BitVec.ofNat 8 status }
/-- An attestation report whose stores the failure of port H has cut off: its command fails (R429). -/
def reportFail (s : State) : State := match s.report, s.cmd with
  | some _, some cmd => cmdAns { s with report := none } cmd 2 5
  | _, _ => s
/-- The port is down (R377, R418): the cache parts drop its sectors, and a sector whose write-through has not completed holds one of the values it has
had. -/
def linkFail (s : State) (m : Bool) (first : Option Access) : State :=
  let as := s.accs.filter (fun a => atPort s m a && some a.id != first.map (·.id))
  let open' := (s.accs.filter (atPort s m)).filterMap (fun a => match a.ph with | .cxl _ _ d => some (canonPa s d / 32) | _ => none)
  let s := if m then { s with mUp := false } else reportFail { s with hUp := false }
  let s := sofDropAll s (fun g => tierOf s (64 * g) == (if m then Tier.pool else Tier.host))
  let s := { s with undef := s.undef ++ open'.eraseDups.map (fun x => { lo := 32 * x, hi := 32 * x + 31, held := true }) }
  let s := match first with
    | some a => portFail 0x31 s a
    | none => s
  as.foldl (portFail 0x32) s
def execCxlLinkFailure (port : Port) (s : State) : Host.Outcome State Fault Refusal := .next (linkFail s (port == .m) none)
/-- A request without its completion within the port's timeout fails the port (R377). -/
def execCxlRequestTimeout (acc : Nat) (s : State) : Host.Outcome State Fault Refusal :=
  .next (match s.accs.find? (·.id == acc) with
    | none => s
    | some a =>
      let since := match a.ph with | .cxl r _ _ => r.p | _ => a.t0
      if atPort s true a && decide (since + s.mTo ≤ s.t) then linkFail s true (some a)
      else if atPort s false a && decide (since + s.hTo ≤ s.t) then linkFail s false (some a) else s)
def execCxlLinkUp (port : Port) (s : State) : Host.Outcome State Fault Refusal :=
  .next (match port with
    | .h => { s with hUp := true }
    | .m => { s with mUp := true })
/-- Writes in flight on PCIe are lost and nothing else changes (R417). -/
def execPcieLinkDown (s : State) : Host.Outcome State Fault Refusal := .next s

/-! ## Pages from the host (R373, R374) -/

/-- A page request failed: its entry is freed and the bay contained (R374). -/
def pageFailed (s : State) (b rid status : Nat) (r : PageReq) : State :=
  asyncFault (s.updBay b (fun y => { y with pages := mdel y.pages rid })) b {
    code := 0x35, agent := 4, loc := r.vaddr.setWidth 128, tflt := s.t, ticket := ticket true (s.bay b).inc 0 0,
    aux := BitVec.ofNat 64 (256 * rid + status) }
def execPageRequestAnswer (bay : Nat) (data : W512) (s : State) : Host.Outcome State Fault Refusal :=
  .next (
    let rid := data.toNat / 2 ^ 32 % 256
    let status := data.toNat % 256
    match (if data.toNat / 2 ^ 16 % 2 ^ 16 = (s.bay bay).inc.toNat then mget? (s.bay bay).pages rid else none) with
    | none => s.updBay bay (fun y => { y with e840 := y.e840 + 1 })
    | some r =>
      -- a second answer finds its request answered (R374)
      if (s.bay bay).heldAns.contains rid then s.updBay bay (fun y => { y with e840 := y.e840 + 1 })
      else if status ≠ 0 then pageFailed s bay rid status r
      else if noticeRoom s bay then pageFilled s bay rid r
      -- the answer is held, its request pending, until the queue has room (R49)
      else s.updBay bay (fun y => { y with heldAns := y.heldAns ++ [rid] }))
def execPageRequestTimeout (bay rid : Nat) (s : State) : Host.Outcome State Fault Refusal :=
  .next (match mget? (s.bay bay).pages rid with
    | none => s
    | some r => if s.t < r.treq + 100000000 ∨ (s.bay bay).heldAns.contains rid = true then s else pageFailed s bay rid 0xFF r)

end

end Sys2Proof.Machine
end

