-- ==== Sys2Proof/Machine/Uniform.lean ====
section
/-! DEFINITION. The uniform integer instructions, and the moves between lanes and uniform state (R174 to R178). -/

namespace Sys2Proof.Machine

/-! ## Operand shapes -/

/-- sD ← f(sA, sB). -/
def sss (f : W64 → W64 → W64) (d a b : Reg) (u : Uni) : Uni := u.ws d.toNat (f (u.rs a.toNat) (u.rs b.toNat))
/-- qD ← f(sA, sB). -/
def qss (f : W64 → W64 → Bool) (d : PReg) (a b : Reg) (u : Uni) : Uni := u.wq d (f (u.rs a.toNat) (u.rs b.toNat))
/-- qD ← f(qA, qB). -/
def qqq (f : Bool → Bool → Bool) (d a b : PReg) (u : Uni) : Uni := u.wq d (f (u.rq a) (u.rq b))
/-- The immediate of the UI form: IMM10, or with its IMM prefix 32 bits, extended to 64 (R148, R176). -/
def immUI (p : Pfx) (i : BitVec 10) : W64 := match p.imm with
  | some q => (q.setWidth 22 ++ i : BitVec 32).signExtend 64
  | none => i.signExtend 64
/-- The value of UMOV16 (R177). -/
def immUW (p : Pfx) (i : BitVec 16) : W64 := match p.imm with
  | some q => (q.setWidth 22 ++ i : BitVec 38).signExtend 64
  | none => i.signExtend 64
/-- sD ← f(sA, K). -/
def ssk (f : W64 → W64 → W64) (d a : Reg) (i : BitVec 10) (p : Pfx) (u : Uni) : Uni := u.ws d.toNat (f (u.rs a.toNat) (immUI p i))
/-- sD ← f(sA, N). -/
def ssn (f : W64 → Nat → W64) (d a : Reg) (n : BitVec 6) (u : Uni) : Uni := u.ws d.toNat (f (u.rs a.toNat) n.toNat)

/-! ## Values -/

def iUadd (x y : W64) : W64 := x + y
def iUsub (x y : W64) : W64 := x - y
def iUand (x y : W64) : W64 := x &&& y
def iUor (x y : W64) : W64 := x ||| y
def iUxor (x y : W64) : W64 := x ^^^ y
def iUshl (x y : W64) : W64 := shlW x y.toNat
def iUshr (x y : W64) : W64 := shrW x y.toNat
def iUsar (x y : W64) : W64 := sarW x y.toNat
def iUmin (x y : W64) : W64 := minS x y
def iUmax (x y : W64) : W64 := maxS x y
def iUminui (x y : W64) : W64 := minU x y
def iUmaxui (x y : W64) : W64 := maxU x y
def iUmul (x y : W64) : W64 := x * y
def iUmulhi (x y : W64) : W64 := mulhiS x y
def iUmulhiu (x y : W64) : W64 := mulhiU x y

/-! ## Meanings -/

def execUadd (q : Guard) (d a b : Reg) (s : State) : Host.Outcome State Fault Refusal := uni1 s q (sss iUadd d a b)
def execUsub (q : Guard) (d a b : Reg) (s : State) : Host.Outcome State Fault Refusal := uni1 s q (sss iUsub d a b)
def execUand (q : Guard) (d a b : Reg) (s : State) : Host.Outcome State Fault Refusal := uni1 s q (sss iUand d a b)
def execUor (q : Guard) (d a b : Reg) (s : State) : Host.Outcome State Fault Refusal := uni1 s q (sss iUor d a b)
def execUxor (q : Guard) (d a b : Reg) (s : State) : Host.Outcome State Fault Refusal := uni1 s q (sss iUxor d a b)
def execUshl (q : Guard) (d a b : Reg) (s : State) : Host.Outcome State Fault Refusal := uni1 s q (sss iUshl d a b)
def execUshr (q : Guard) (d a b : Reg) (s : State) : Host.Outcome State Fault Refusal := uni1 s q (sss iUshr d a b)
def execUsar (q : Guard) (d a b : Reg) (s : State) : Host.Outcome State Fault Refusal := uni1 s q (sss iUsar d a b)
def execUmin (q : Guard) (d a b : Reg) (s : State) : Host.Outcome State Fault Refusal := uni1 s q (sss iUmin d a b)
def execUmax (q : Guard) (d a b : Reg) (s : State) : Host.Outcome State Fault Refusal := uni1 s q (sss iUmax d a b)
def execUminui (q : Guard) (d a b : Reg) (s : State) : Host.Outcome State Fault Refusal := uni1 s q (sss iUminui d a b)
def execUmaxui (q : Guard) (d a b : Reg) (s : State) : Host.Outcome State Fault Refusal := uni1 s q (sss iUmaxui d a b)
def execUmul (q : Guard) (d a b : Reg) (s : State) : Host.Outcome State Fault Refusal := uni1 s q (sss iUmul d a b)
def execUmulhi (q : Guard) (d a b : Reg) (s : State) : Host.Outcome State Fault Refusal := uni1 s q (sss iUmulhi d a b)
def execUmulhiu (q : Guard) (d a b : Reg) (s : State) : Host.Outcome State Fault Refusal := uni1 s q (sss iUmulhiu d a b)
def execUcmpEq (q : Guard) (d : PReg) (a b : Reg) (s : State) : Host.Outcome State Fault Refusal := uni1 s q (qss cmpEq d a b)
def execUcmpNe (q : Guard) (d : PReg) (a b : Reg) (s : State) : Host.Outcome State Fault Refusal := uni1 s q (qss cmpNe d a b)
def execUcmpLt (q : Guard) (d : PReg) (a b : Reg) (s : State) : Host.Outcome State Fault Refusal := uni1 s q (qss cmpLt d a b)
def execUcmpLe (q : Guard) (d : PReg) (a b : Reg) (s : State) : Host.Outcome State Fault Refusal := uni1 s q (qss cmpLe d a b)
def execUcmpGt (q : Guard) (d : PReg) (a b : Reg) (s : State) : Host.Outcome State Fault Refusal := uni1 s q (qss cmpGt d a b)
def execUcmpGe (q : Guard) (d : PReg) (a b : Reg) (s : State) : Host.Outcome State Fault Refusal := uni1 s q (qss cmpGe d a b)
def execUcmpLtui (q : Guard) (d : PReg) (a b : Reg) (s : State) : Host.Outcome State Fault Refusal := uni1 s q (qss cmpLtui d a b)
def execUcmpLeui (q : Guard) (d : PReg) (a b : Reg) (s : State) : Host.Outcome State Fault Refusal := uni1 s q (qss cmpLeui d a b)
def execUcmpGtui (q : Guard) (d : PReg) (a b : Reg) (s : State) : Host.Outcome State Fault Refusal := uni1 s q (qss cmpGtui d a b)
def execUcmpGeui (q : Guard) (d : PReg) (a b : Reg) (s : State) : Host.Outcome State Fault Refusal := uni1 s q (qss cmpGeui d a b)
def execQand (q : Guard) (d a b : PReg) (s : State) : Host.Outcome State Fault Refusal := uni1 s q (qqq pAnd d a b)
def execQor (q : Guard) (d a b : PReg) (s : State) : Host.Outcome State Fault Refusal := uni1 s q (qqq pOr d a b)
def execQxor (q : Guard) (d a b : PReg) (s : State) : Host.Outcome State Fault Refusal := uni1 s q (qqq pXor d a b)
def execQandn (q : Guard) (d a b : PReg) (s : State) : Host.Outcome State Fault Refusal := uni1 s q (qqq pAndn d a b)
def execQnot (q : Guard) (d a : PReg) (s : State) : Host.Outcome State Fault Refusal := uni1 s q (fun u => u.wq d (!u.rq a))
def execUaddi (q : Guard) (d a : Reg) (i : BitVec 10) (s : State) : Host.Outcome State Fault Refusal := uword s q (fun iss => uniOp s iss (ssk iUadd d a i iss.pfx))
def execUandi (q : Guard) (d a : Reg) (i : BitVec 10) (s : State) : Host.Outcome State Fault Refusal := uword s q (fun iss => uniOp s iss (ssk iUand d a i iss.pfx))
def execUori (q : Guard) (d a : Reg) (i : BitVec 10) (s : State) : Host.Outcome State Fault Refusal := uword s q (fun iss => uniOp s iss (ssk iUor d a i iss.pfx))
def execUxori (q : Guard) (d a : Reg) (i : BitVec 10) (s : State) : Host.Outcome State Fault Refusal := uword s q (fun iss => uniOp s iss (ssk iUxor d a i iss.pfx))
def execUshli (q : Guard) (d a : Reg) (n : BitVec 6) (s : State) : Host.Outcome State Fault Refusal := uni1 s q (ssn shlW d a n)
def execUshri (q : Guard) (d a : Reg) (n : BitVec 6) (s : State) : Host.Outcome State Fault Refusal := uni1 s q (ssn shrW d a n)
def execUsari (q : Guard) (d a : Reg) (n : BitVec 6) (s : State) : Host.Outcome State Fault Refusal := uni1 s q (ssn sarW d a n)
def execUroli (q : Guard) (d a : Reg) (n : BitVec 6) (s : State) : Host.Outcome State Fault Refusal := uni1 s q (ssn rolW d a n)
def execUmov16 (q : Guard) (d : Reg) (i : BitVec 16) (s : State) : Host.Outcome State Fault Refusal := uword s q (fun iss => uniOp s iss (fun u => u.ws d.toNat (immUW iss.pfx i)))
def execUmovk (q : Guard) (d : Reg) (i : BitVec 16) (s : State) : Host.Outcome State Fault Refusal := uni1 s q (fun u => u.ws d.toNat ((u.rs d.toNat).setWidth 48 ++ i))
def execUmov (q : Guard) (d a : Reg) (s : State) : Host.Outcome State Fault Refusal := uni1 s q (fun u => u.ws d.toNat (u.rs a.toNat))
/-- READLANE: vA of the lane sB names, whatever that lane does (R178). -/
def execReadlane (q : Guard) (d a b : Reg) (s : State) : Host.Outcome State Fault Refusal :=
  cword s q (fun iss c k => uniOp s iss (fun u => u.ws d.toNat (((s.lane c k ((u.rs b.toNat).toNat % 8)).rv a.toNat).setWidth 64)))
/-- BCAST: every lane of the issue mask. -/
def execBcast (q : Guard) (d a : Reg) (s : State) : Host.Outcome State Fault Refusal :=
  cword s q (fun iss _ _ => endIssue s iss true (fun _ ln => { ln.wv d.toNat (((uniOf s iss.who).rs a.toNat).setWidth 32) with pc := iss.next }) iss.next)

end Sys2Proof.Machine
end

