-- ==== Sys2Proof/Machine/Matrix.lean ====
section
/-! DEFINITION. The matrix sequencer's words and steps (R229 to R241, R400), and the accumulator copies of courses (R245, R246, R399). -/

namespace Sys2Proof.Machine

/-! ## Element types and fragments (R232) -/

/-- Registers of a fragment of a type. -/
def fragRegs (t : BitVec 3) : Nat := if t = 2 then 8 else 16
/-- Elements along K of one MMA. -/
def fragK (t : BitVec 3) : Nat := if t.toNat < 3 then 64 else 32
/-- Whether (TA, TB) is a permitted pair. -/
def pairOk (a b : BitVec 3) : Bool := (a.toNat < 2 && b.toNat < 2) || (a == b && (a == 2 || a == 3 || a == 4))
/-- The value of element k of a fragment's registers. -/
def elemVal (t : BitVec 3) (f : List W32) (k : Nat) : FV :=
  match t.toNat with
  | 0 => unpackF e4m3 ((f.getD (k / 4) 0).toNat / 2 ^ (8 * (k % 4)) % 256)
  | 1 => unpackF e5m2 ((f.getD (k / 4) 0).toNat / 2 ^ (8 * (k % 4)) % 256)
  | 2 => hs4 ((f.getD (k / 8) 0).toNat / 2 ^ (4 * (k % 8)) % 16)
  | 3 => unpackF bf16 ((f.getD (k / 2) 0).toNat / 2 ^ (16 * (k % 2)) % 65536)
  | _ => unpackF fp16 ((f.getD (k / 2) 0).toNat / 2 ^ (16 * (k % 2)) % 65536)
/-- The chunk update of one element (R135). -/
def chunkNew (ta tb : BitVec 3) (fa fb : List W32) (sa sb acc : W32) : W32 :=
  w32 (chunkF acc.toNat ((List.range (fragK ta)).map (fun k => (elemVal ta fa k, elemVal tb fb k))) (fpv sa) (fpv sb))

/-- Matrix lane ℓ: lane ℓ mod 8 of the block's course ℓ / 8 (R229). -/
def matLane (s : State) (c : Nat) (bl : Block) (l : Nat) : Lane := s.lane c (bl.slots.getD (l / 8) 512) (l % 8)
/-- A fragment from register r in every matrix lane. -/
def frags (s : State) (c : Nat) (bl : Block) (r n : Nat) : List (List W32) :=
  (List.range 64).map (fun l => (List.range n).map (fun j => (matLane s c bl l).rv (r + j)))
/-- Whether a fragment cannot be read (R379). -/
def fragErr (s : State) (c : Nat) (bl : Block) (r n : Nat) : Bool := vregErr s c (fun k _ => (bl.slots.take 8).contains k) r n
/-- sA[31:0] of matrix course 0; 0 if it has exited (R233, R238). -/
def course0 (s : State) (c : Nat) (bl : Block) (a : Reg) : W32 :=
  match s.course? c (bl.slots.headD 512) with
  | none => 0
  | some co => if co.lanes.any (·.live) then (co.u.rs a.toNat).setWidth 32 else 0

/-! ## Issuing an operation -/

/-- A matrix word: its issue, the block and the sequencer. -/
def matWord (s : State) (k : Issue → Nat → Nat → Block → Seq → State) : Host.Outcome State Fault Refusal :=
  mword s (fun iss c b => match s.block? c b with
    | none => s
    | some bl => match bl.seq with
      | none => s
      | some q => k iss c b bl q)
/-- RESERVED_FIELD of a matrix word (R400). -/
def matBad (s : State) (iss : Issue) (reason : Nat) : State := issueFault s iss [] (encRec iss 0x02 reason)
/-- The sequencer after its word. -/
def setSeq (s : State) (c b : Nat) (q : Seq) : State := s.updSeq c b (fun _ => q)
/-- An operation joins what the sequencer has issued. -/
def pushOp (q : Seq) (k : SeqKind) (row0 : Nat) (next : W64) : Seq :=
  { q with pc := next, ops := q.ops ++ [{ id := q.nextId, kind := k, row0 := row0 }], nextId := q.nextId + 1 }
/-- Operations that update accumulator elements. -/
def SeqKind.updates : SeqKind → Bool
  | .mma .. => true
  | .mzero => true
  | _ => false

/-- MMA: the read step (R234). -/
def execMma (d a b : Reg) (s : State) : Host.Outcome State Fault Refusal :=
  matWord s (fun iss c bk bl q =>
    if a.toNat + fragRegs q.ta - 1 > bl.vregs ∨ b.toNat + fragRegs q.tb - 1 > bl.vregs then matBad s iss 2
    else if bl.accu ≤ d.toNat then matBad s iss 5
    else if fragErr s c bl a.toNat (fragRegs q.ta) || fragErr s c bl b.toNat (fragRegs q.tb) || (q.sav && fragErr s c bl q.sareg.toNat 1) then
      seqFault s c bk iss.pc (unitRec 6)
    else
      let one := 0x3F800000#32
      let sa := (List.range 64).map (fun l => if q.sav then (matLane s c bl l).rv q.sareg.toNat else one)
      let k : SeqKind := .mma q.ta q.tb (frags s c bl a.toNat (fragRegs q.ta)) (frags s c bl b.toNat (fragRegs q.tb)) sa (if q.sav then q.sb else one)
      setSeq s c bk (pushOp q k (64 * d.toNat) iss.next))
def execMzero (d : Reg) (s : State) : Host.Outcome State Fault Refusal :=
  matWord s (fun iss c bk bl q =>
    if bl.accu ≤ d.toNat then matBad s iss 5 else setSeq s c bk (pushOp q .mzero (64 * d.toNat) iss.next))
/-- MSCL (R233); for BF16 and FP16, D and A must be zero. -/
def execMscl (d a : Reg) (tb ta : BitVec 3) (s : State) : Host.Outcome State Fault Refusal :=
  matWord s (fun iss c bk bl q =>
    let wide := ta == 3 || ta == 4
    if wide ∧ (d ≠ 0 ∨ a ≠ 0) then matBad s iss 0
    else if !wide ∧ d.toNat > bl.vregs then matBad s iss 2
    else if !pairOk ta tb then matBad s iss 5
    else if wide then setSeq s c bk { q with pc := iss.next, ta := ta, tb := tb, sav := false, sb := 0x3F800000 }
    else setSeq s c bk { q with pc := iss.next, ta := ta, tb := tb, sav := true, sareg := d, sb := course0 s c bl a })
/-- MLOOP (R238). -/
def execMloop (n : BitVec 2) (a b : Reg) (s : State) : Host.Outcome State Fault Refusal :=
  matWord s (fun iss c bk bl q =>
    if b = 0 then matBad s iss 5
    else
      let t := if mget q.arm n.toNat false then mget q.c n.toNat 0 else course0 s c bl a
      if t.toNat ≤ 1 then
        setSeq s c bk { q with pc := iss.next, c := mset q.c n.toNat 0, arm := mset q.arm n.toNat false }
      else
        setSeq s c bk { q with pc := iss.wpc - BitVec.ofNat 64 (4 * b.toNat), c := mset q.c n.toNat (t - 1), arm := mset q.arm n.toNat true })
def execMjmp (o : BitVec 22) (s : State) : Host.Outcome State Fault Refusal :=
  matWord s (fun iss c bk _ q => setSeq s c bk { q with pc := ubraTarget iss o })

/-- Barrier of a matrix word that the block does not have. -/
def matBar (s : State) (iss : Issue) (n : Nat) : State := issueFault s iss [] { code := 0x05, aux := aux0 0 iss.pos (barWord n 0 false) }
/-- The condition of MBAR.W (R236). -/
def mbarOk (bl : Block) (q : Seq) (n k : Nat) : Bool :=
  let d := ((bl.bar n).phase - mget q.w k 0).toNat
  decide (1 ≤ d ∧ d ≤ 32767)
/-- MBAR.W: its release in this step, or the wait, with PC at the word. -/
def execMbarW (k : BitVec 3) (n : BitVec 10) (s : State) : Host.Outcome State Fault Refusal :=
  matWord s (fun iss c bk bl q =>
    if bl.nbar ≤ n.toNat then matBar s iss n.toNat
    else if mbarOk bl q n.toNat k.toNat then
      setSeq s c bk { q with pc := iss.next, w := mset q.w k.toNat (mget q.w k.toNat 0 + 1) }
    else setSeq s c bk { q with pc := iss.pc, run := .waiting, waitAt := some (n.toNat, k.toNat, iss.next) })
def execMbarA (n : BitVec 10) (s : State) : Host.Outcome State Fault Refusal :=
  matWord s (fun iss c bk bl q =>
    if bl.nbar ≤ n.toNat then matBar s iss n.toNat else setSeq s c bk (pushOp q (.arrive n.toNat false) 0 iss.next))
def execMbarADrain (n : BitVec 10) (s : State) : Host.Outcome State Fault Refusal :=
  matWord s (fun iss c bk bl q =>
    if bl.nbar ≤ n.toNat then matBar s iss n.toNat else setSeq s c bk (pushOp q (.arrive n.toNat true) 0 iss.next))
def execMend (s : State) : Host.Outcome State Fault Refusal :=
  matWord s (fun iss c bk _ q => setSeq s c bk (pushOp q .mend 0 iss.next))

/-! ## Steps of issued operations -/

/-- Operations before one. -/
def before (q : Seq) (id : Nat) : List SeqOp := q.ops.filter (fun x => decide (x.id < id))
/-- Whether an operation has its update of element (row, column) still to make; rows are the block's. -/
def SeqOp.owes (x : SeqOp) (row col : Nat) : Bool :=
  x.kind.updates && decide (x.row0 ≤ row ∧ row < x.row0 + 64 ∧ col < 64) && !mget x.done (64 * (row - x.row0) + col) false
/-- An operation without its update of an element; with no update left it is done. -/
def SeqOp.mark (x : SeqOp) (row col : Nat) : Option SeqOp :=
  let d := mset x.done (64 * (row - x.row0) + col) true
  if d.length = 4096 then none else some { x with done := d }

/-- One update step of an MMA or MZERO on one element, after every earlier operation's update of it (R137, R234, R235). -/
def execMmaUpdate (core blk op row col : Nat) (s : State) : Host.Outcome State Fault Refusal :=
  .next (match s.block? core blk with
    | none => s
    | some bl => match bl.seq with
      | none => s
      | some q => match q.ops.find? (fun x => x.id == op && x.owes row col) with
        | none => s
        | some x =>
          if (before q op).any (fun y => y.owes row col) then s
          else if x.kind != .mzero && rowErr s core blk (64 * row + col) 1 then seqFault s core blk q.pc (unitRec 5)
          else
            let k := 64 * row + col
            let v := match x.kind with
              | .mma ta tb fa fb sa sb => chunkNew ta tb (fa.getD (row - x.row0) []) (fb.getD col []) (sa.getD (row - x.row0) 0) sb (mget bl.rows k 0)
              | _ => 0
            let q' := { q with ops := q.ops.filterMap (fun y => if y.id = op then y.mark row col else some y) }
            s.setBlock core blk { bl with rows := mset bl.rows k v, seq := some q' })

/-- The sequencer's wait at MBAR.W ends (R236). -/
def execMbarWRelease (core blk : Nat) (s : State) : Host.Outcome State Fault Refusal :=
  .next (match s.block? core blk with
    | none => s
    | some bl => match bl.seq with
      | none => s
      | some q => match q.waitAt with
        | none => s
        | some (n, k, next) =>
          if q.run = .waiting && !q.stopped && q.stop.isNone && mbarOk bl q n k then
            setSeq s core blk { q with pc := next, run := .running, waitAt := none, w := mset q.w k (mget q.w k 0 + 1) }
          else s)

/-- Whether an arrival may be applied: with DRAIN, after every earlier update (R237). -/
def arriveReady (q : Seq) (x : SeqOp) : Bool :=
  match x.kind with
  | .arrive _ drain => !drain || !(before q x.id).any (fun y => y.kind.updates)
  | _ => false
/-- The oldest arrival that may be applied is applied (R211, R237). -/
def execMbarAArrival (core blk : Nat) (s : State) : Host.Outcome State Fault Refusal :=
  .next (match s.seq? core blk with
    | none => s
    | some q => match q.ops.find? (arriveReady q) with
      | none => s
      | some x =>
        let s := setSeq s core blk { q with ops := q.ops.filter (fun y => y.id != x.id) }
        match x.kind with
        | .arrive n _ => arrive s core blk n
        | _ => s)

/-- MEND takes effect (R240). -/
def execMendStep (core blk : Nat) (s : State) : Host.Outcome State Fault Refusal :=
  .next (match s.seq? core blk with
    | none => s
    | some q => match q.ops.find? (fun x => x.kind == .mend) with
      | none => s
      | some x =>
        if (before q x.id).any (fun y => y.kind.updates) then s
        else setSeq s core blk { q with run := .ended, ops := q.ops.filter (fun y => y.id != x.id) })

/-! ## Accumulator copies (R245, R246, R399) -/

/-- Row of lane l: ROW0 + 8c + l. -/
def accRow (co : Course) (x : W64) (l : Nat) : Nat := x.toNat % 1024 + 8 * co.idx + l
def accCq (x : W64) : Nat := x.toNat / 2 ^ 16 % 4
/-- The checks of R399, then the copy. -/
def accWord (q : Guard) (a : Reg) (s : State) (k : Issue → Nat → Nat → Course → W64 → State) : Host.Outcome State Fault Refusal :=
  cword s q (fun iss c sl =>
    let co := (s.course? c sl).getD {}
    let x := co.u.rs a.toNat
    if x.toNat / 2 ^ 18 ≠ 0 ∨ x.toNat / 2 ^ 10 % 64 ≠ 0 then issueFault s iss iss.mask (encRec iss 0x02 0)
    else if iss.mask.any (fun l => decide (64 * (issBlock s iss).accu ≤ accRow co x l)) then valueFault s iss
    else k iss c sl co x)
/-- A course's accumulator copy is issued: its elements are moved one by one in later steps, in its issue order (R243, R246). -/
def accIssue (s : State) (iss : Issue) (c k : Nat) (f : Nat → List AccMove) : State :=
  skip (s.updCourse c k (fun co => { co with accOps := co.accOps ++ [{ iss := iss.id, pc := iss.pc, lanes := iss.mask, left := iss.mask.flatMap f }] })) iss true
/-- Element j of column quarter CQ of a lane's row. -/
def accElem (co : Course) (x : W64) (l j : Nat) : Nat := 64 * accRow co x l + 16 * accCq x + j
def execAccrd (q : Guard) (d a : Reg) (s : State) : Host.Outcome State Fault Refusal :=
  accWord q a s (fun iss c k co x =>
    accIssue s iss c k (fun l => (List.range 16).map (fun j => .rd l (d.toNat + j) (accElem co x l j))))
/-- ACCWR's sources are read at issue (R150). -/
def execAccwr (q : Guard) (d a : Reg) (s : State) : Host.Outcome State Fault Refusal :=
  accWord q a s (fun iss c k co x =>
    accIssue s iss c k (fun l => (List.range 16).map (fun j => .wr (accElem co x l j) ((co.lane l).rv (d.toNat + j)))))
def execAccz (q : Guard) (a : Reg) (s : State) : Host.Outcome State Fault Refusal :=
  accWord q a s (fun iss c k co x =>
    accIssue s iss c k (fun l => (List.range 64).map (fun j => .wr (64 * accRow co x l + j) 0)))
/-- One element is moved; a row that cannot be read contains the bay (R379). -/
def accMove (s : State) (c k : Nat) (co : Course) (o : AccOp) (m : AccMove) : State :=
  match m with
  | .rd l r e =>
    if rowErr s c co.blk e 1 then takeFault s c k o.pc o.pc o.lanes (unitRec 5)
    else s.updLane c k l (fun ln => if ln.live then ln.wv r (mget (((s.block? c co.blk).getD {}).rows) e 0) else ln)
  | .wr e x => s.updBlock c co.blk (fun bl => { bl with rows := mset bl.rows e x })
/-- The next step of a course's accumulator copies. -/
def accStep (s : State) (c k : Nat) : State :=
  match s.course? c k with
  | none => s
  | some co => match co.accOps with
    | [] => s
    | o :: rest => match o.left with
      | [] => s.setCourse c k { co with accOps := rest }
      | m :: ms => accMove (s.setCourse c k { co with accOps := if ms.isEmpty then rest else { o with left := ms } :: rest }) c k co o m

end Sys2Proof.Machine
end

