-- ==== Sys2Proof/Machine/Platform.lean ====
section
/-! DEFINITION. The platform (spec/29): operating points, power and temperature (R421 to R424, R12), the host's registers and mailboxes (R47, R417, R425),
bring-up and the formation of bays (R426, R427), the management commands (R428 to R431), and the services of Zhesor root (R82, R103, R252, R284, R289,
R293, R319, R343, R372, R375, R384). -/

namespace Sys2Proof.Machine

noncomputable section

/-! ## Temperature, power, clocks -/

/-- Columns that throttle: from 105 °C on, until the column reads 100 °C or less (R423). -/
def throttled (s : State) : List Nat :=
  (List.range 32).filter (fun g =>
    let x := sensorMax (mget s.sensors g ⟨0, 0, 0, 0⟩)
    decide (1680 ≤ x) || (s.colhot.contains g && decide (1600 < x)))
def hottest (s : State) : Int := (List.range 32).foldl (fun m g => max m (sensorMax (mget s.sensors g ⟨0, 0, 0, 0⟩))) (-32768)
def formedBays (s : State) : List Nat := (List.range 16).filter (fun b => (s.bay b).formed)
/-- Whether Zhesor root runs: from stage 2 of the bring-up (R426). -/
def rootRuns (s : State) : Bool := s.st == .root || s.st == .service || s.st == .ready || s.st == .trip
/-- The sensors are read again, not before 1,000 ns have passed (R12); a column with no reading keeps its last. 120 °C at any sensor trips (R424). -/
def execColumnTempRefresh (readings : List Sensors) (s : State) : Host.Outcome State Fault Refusal :=
  .next (
    if (match s.sensedAt with | some t => decide (s.t < t + 1000) | none => false) then s
    else
    let new := (readings.take 32).mapIdx (fun g x => (g, x))
    let s := { s with sensors := new.foldl (fun m (e : Nat × Sensors) => mset m e.1 e.2) s.sensors, sensedAt := some s.t }
    let s := { s with colhot := throttled s }
    if rootRuns s && s.st != .trip && decide (1920 ≤ hottest s) then
      (formedBays s).foldl containNow { s with st := .trip, tripFrom := s.st, off := true }
    else s)
/-- Every sensor at 90 °C or less: step 5 of R341 for each bay, and READY (R424); a package that tripped in its bring-up goes on with the stage it was in
(log 118). -/
def execTripRecovery (s : State) : Host.Outcome State Fault Refusal :=
  .next (if s.st = .trip ∧ hottest s ≤ 1440 then
    (formedBays s).foldl (fun s b => if (s.bay b).contained then containRestart s b else s) { s with st := s.tripFrom, off := false } else s)
/-- One interval of 100,000 ns over the cap, or below 95 % of it, of a core island: 100 MHz less, down to 1.5 GHz, or 100 MHz more (R422). -/
def powerStep (cap mw t : Nat) (x : Island) : Island :=
  let base := pointMhz x t
  { x with cut := if cap * 1000 < mw then (if 1500 < cutMhz base x.cut then x.cut + 1 else x.cut) else if mw < cap * 950 then x.cut - 1 else x.cut }
/-- Input power over an interval of 100,000 ns, after the last one (R422). -/
def execPowerInterval (mw : Nat) (s : State) : Host.Outcome State Fault Refusal :=
  .next (if (match s.powerAt with | some t => decide (s.t < t + 100000) | none => false) then s else { s with
    power := mw, powerAt := some s.t,
    islands := (List.range 256).foldl (fun m i => mset m i (powerStep s.pcap mw s.t (mget s.islands i {}))) s.islands })
/-- Highest clock of a core island at a supply (R421); 0 where there is no operating point. -/
def maxMhz (mv : Nat) : Nat :=
  if 350 ≤ mv ∧ mv ≤ 374 then 1500 else if 375 ≤ mv ∧ mv ≤ 399 then 1800 else if 400 ≤ mv ∧ mv ≤ 650 then 2100 else 0
/-- A new operating point: until its voltage has settled the lower of the clock that runs and the new one runs; with no voltage to settle the new one
runs at once (R421). -/
def execOperatingPointChange (island mv mhz : Nat) (s : State) : Host.Outcome State Fault Refusal :=
  .next (
    if island < 260 ∧ 0 < mhz ∧ (256 ≤ island ∨ mhz ≤ maxMhz mv) then
      let x := mget s.islands island {}
      let settling := settleLeft x s.t != 0
      { s with islands := mset s.islands island (
        if mv = x.mv ∧ settling = false then { x with mhz := mhz, target := none }
        else { x with mv := mv, mhz := pointMhz x s.t, target := some mhz, since := if mv = x.mv then x.since else s.t }) }
    else s)
def execOperatingPointSettle (island : Nat) (s : State) : Host.Outcome State Fault Refusal :=
  .next (match (mget s.islands island {}).target with
    | some m => { s with islands := mset s.islands island { mget s.islands island {} with mhz := m, target := none } }
    | none => s)

/-! ## The host's writes (R47, R417, R425, R429) -/

def discardWrite (s : State) (b : Nat) : State := s.updBay b (fun y => { y with f108 := y.f108 + 1 })
/-- Whether a bay is under containment and step 3 has not been made: its mailbox writes are discarded (R417). -/
def eaveClosed (y : Bay) : Bool := match y.cont with
  | some k => !k.eave
  | none => false
/-- A write to a mailbox window: one entry, or a discard that is counted at 0xF108. -/
def execHostMailboxWrite (bay : Nat) (w : HostWrite) (s : State) : Host.Outcome State Fault Refusal :=
  .next (
    let m := w.off / 0x1000
    if (s.bay bay).formed && !eaveClosed (s.bay bay) && decide (m < 14 ∧ w.off % 0x1000 = 0 ∧ w.size = 64 ∧ s.unread bay m < 256) then s.appendMail bay m w.data
    else discardWrite s bay)
/-- Bits lo to hi − 1 of a command. -/
def cmdField (cmd : W512) (lo w : Nat) : Nat := cmd.toNat / 2 ^ lo % 2 ^ w
/-- CMD is written: discarded while a command is unanswered, or while Zhesor root does not run (log 118); a reserved OP fails. -/
def writeCmd (s : State) (cmd : W512) : State :=
  if s.cmd.isSome || !rootRuns s then s
  else if cmdField cmd 0 8 = 0 ∨ 3 < cmdField cmd 0 8 then cmdAns s cmd 2 1 else { s with cmd := some cmd }
def execRegisterWriteOther (w : HostWrite) (s : State) : Host.Outcome State Fault Refusal :=
  .next (
    let x := w.data.toNat % 2 ^ 64
    if w.fn = 0 then
      if w.off = 0x18 then (if 1200 ≤ x % 4096 ∧ x % 4096 ≤ 2600 then { s with pcap := x % 4096 } else s)
      else if w.off = 0x40 ∧ w.size = 64 then writeCmd s w.data
      else if 0x200 ≤ w.off ∧ w.off < 0x300 ∧ w.off % 16 = 0 then
        s.updBay ((w.off - 0x200) / 16) (fun y => { y with ringB := BitVec.ofNat 64 (x / 4096 * 4096 + x % 16) })
      else s
    -- the status registers of a bay are read-only; its windows take only whole entries
    else if w.fn ≤ 16 ∧ w.off < 0xE000 then discardWrite s (w.fn - 1) else s)

/-! ## The host's reads (R299, R425) -/

def PkgSt.num : PkgSt → Nat
  | .reset => 0 | .root => 1 | .service => 2 | .ready => 3 | .trip => 4 | .failed => 5
/-- A bit map of the numbers below n that a list holds. -/
def bitsOf (n : Nat) (l : List Nat) : Nat := ((List.range n).filter l.contains).foldl (fun m k => m + 2 ^ k) 0
/-- The management registers (R425): offset, bytes, value. CMD is written only. -/
def fn0Regs (s : State) : List (Nat × Nat × Nat) :=
  [(0x000, 8, s.st.num), (0x008, 8, s.pkgid.toNat), (0x010, 8, s.power), (0x018, 8, s.pcap), (0x020, 8, bitsOf 32 s.colhot),
   (0x028, 8, (BitVec.ofInt 64 (hottest s)).toNat), (0x030, 8, bitsOf 16 s.booterr), (0x080, 64, s.ans.toNat)]
  ++ (List.range 16).flatMap (fun b => [(0x200 + 16 * b, 8, (s.bay b).ringB.toNat), (0x208 + 16 * b, 8, (s.bay b).ringC.toNat)])
/-- The registers of bay b's function (R299, R342, R374, R404, R409, R417). -/
def bayRegs (s : State) (b : Nat) : List (Nat × Nat × Nat) :=
  let y := s.bay b
  (List.range 16).flatMap (fun m => [(0x1000 * m + 0x40, 4, (mget y.mail m {}).prod.toNat), (0x1000 * m + 0x44, 4, (mget y.mail m {}).cons.toNat)])
  ++ [(0xF100, 4, y.inc.toNat), (0xF104, 4, y.f104.toNat), (0xF108, 4, y.f108.toNat), (0xF10C, 4, y.f10c.toNat), (0xE840, 4, y.e840.toNat)]
/-- The byte that a read of a BAR0 gives: of the register that covers the offset, or 0. -/
def regByte (regs : List (Nat × Nat × Nat)) (off : Nat) : Byte :=
  match regs.find? (fun r => decide (r.1 ≤ off ∧ off < r.1 + r.2.1)) with
  | some r => BitVec.ofNat 8 (r.2.2 / 2 ^ (8 * (off - r.1)))
  | none => 0
/-- A host read of n bytes of a function's BAR0; none from a function that is hidden, a bay's before its formation (R426, R427). -/
def hostRead (s : State) (fn off n : Nat) : Option (List Byte) :=
  let bytes := fun (regs : List (Nat × Nat × Nat)) => some ((List.range n).map (fun i => regByte regs (off + i)))
  if fn = 0 then bytes (fn0Regs s) else if fn ≤ 16 ∧ (s.bay (fn - 1)).formed = true then bytes (bayRegs s (fn - 1)) else none

/-! ## Formation of a bay (R427, R428) -/

def hbmEnd : Nat := 0x8000000000
/-- Whether a byte range meets a table of some bay (R103). -/
def meetsTables (s : State) (lo n : Nat) : Bool :=
  s.bays.any (fun e =>
    (e.2.otb != 0 && decide (lo < e.2.otBase + 32 * 2 ^ e.2.otb ∧ e.2.otBase < lo + n))
    || (e.2.fcnt != 0 && decide (lo < e.2.ftBase + 32 * e.2.fcnt ∧ e.2.ftBase < lo + n)))
/-- The runs that follow the header, each an address, a length and its bytes, and what follows them; none where they are not all there (R427). -/
def runsOf : Nat → List Byte → Option (List (Nat × List Byte) × List Byte)
  | 0, b => some ([], b)
  | n + 1, b =>
    let len := leNum ((b.drop 8).take 8)
    let rest := b.drop 16
    if b.length < 16 ∨ rest.length < len then none
    else (runsOf n (rest.drop len)).map (fun x => ((leNum (b.take 8), rest.take len) :: x.1, x.2))
/-- A bay boot image in its bytes: the 64-byte header, NRUN runs, and the signature over every byte before it (R427). -/
def imageOf (b : List Byte) : Option BootImage :=
  let h := leNum (b.take 64)
  let n := h / 2 ^ 320 % 2 ^ 32
  if b.length < 64 ∨ 256 < n then none
  else (runsOf n (b.drop 64)).map (fun x => {
    root := BitVec.ofNat 64 (h / 2 ^ 256), walkPc := BitVec.ofNat 64 (h / 2 ^ 192), svPc := BitVec.ofNat 64 (h / 2 ^ 128), version := BitVec.ofNat 32 h,
    reservedZero := h / 2 ^ 352 == 0 && h / 2 ^ 32 % 2 ^ 96 == 0, sigOk := Config.imageSigned (b.take (b.length - x.2.length)) x.2, runs := x.1 })
/-- Whether an image of a kind passes its verification (R430). -/
def fwOk (k : FwKind) (f : Firmware) : Bool := f.sigOk && decide ((Config.minVersion k).toNat ≤ f.version.toNat)
/-- Whether Zhesor root accepts an image (R427, R430). -/
def imageOk (s : State) (i : BootImage) : Bool :=
  i.sigOk && i.reservedZero && decide ((Config.minVersion .bay).toNat ≤ i.version.toNat ∧ 1 ≤ i.runs.length ∧ i.runs.length ≤ 256)
    && decide (i.root.toNat % 65536 = 0 ∧ i.root.toNat < hbmEnd ∧ i.walkPc.toNat % 4 = 0 ∧ i.walkPc.toNat < hbmEnd ∧ i.svPc.toNat % 4 = 0)
    && i.runs.all (fun r => decide (r.1 % 64 = 0 ∧ r.2.length % 64 = 0 ∧ 0 < r.2.length ∧ r.1 + r.2.length ≤ hbmEnd) && !meetsTables s r.1 r.2.length)
/-- The HDM range that Zhesor root gives a bay, inside HBM4 and apart from every table (R103): base and length. -/
def hdmOf (s : State) (b : Nat) : Nat × Nat :=
  let lo := (Config.hdmRange b).1 % 2 ^ 23
  let n := 65536 * ((Config.hdmRange b).2.1 % (2 ^ 23 - lo + 1))
  (65536 * lo, if meetsTables s (65536 * lo) n then 0 else n)
/-- Whether a range meets the HDM range of a bay. -/
def meetsHdm (s : State) (lo n : Nat) : Bool := s.bays.any (fun e => decide (lo < e.2.hdmBase + e.2.hdmLen ∧ e.2.hdmBase < lo + n ∧ e.2.hdmLen ≠ 0))
/-- A bay as formed: only its counts, its ring and its producer counts stay. -/
def freshBay (y : Bay) (b : Nat) (i : BootImage) (hdm : Nat × Nat) : Bay :=
  { formed := true, inc := y.inc, root := i.root, walkPc := i.walkPc, svPc := i.svPc, bootRoot := i.root, bootWalk := i.walkPc,
    mail := (y.emptied (fun _ => false)).mail, hdmBase := hdm.1, hdmLen := hdm.2,
    hdmHost := 65536 * (Config.hdmRange b).2.2,
    f104 := y.f104, f108 := y.f108, f10c := y.f10c, e840 := y.e840, ringB := y.ringB, ringC := y.ringC }
/-- Whether the runs of a bay's image can be stored now. -/
def formReady (s : State) (b : Nat) : Bool := match mget? s.flash.boot b with
  | none => true
  | some i => !imageOk s i || i.runs.all (fun r => svcReady s r.1 r.2.length)
/-- Formation: the image's runs are copied, the incarnation advances, and walkers and supervisor start. A refused bay is not formed. -/
def formBay (s : State) (b : Nat) : State :=
  let none' := { s.setBay b { s.bay b with formed := false } with booterr := if s.booterr.contains b then s.booterr else s.booterr ++ [b] }
  match mget? s.flash.boot b with
  | none => none'
  | some i =>
    if !imageOk s i then none'
    else
      let s := i.runs.foldl (fun s r => svcStore s r.1 r.2) { s with loaded := mset s.loaded b i }
      let s := { s with booterr := s.booterr.filter (· != b) }
      let s := (s.coresOf b).foldl (fun s c => s.updCore c (fun co => { (clearCore co).keepCopies (fun _ _ => false) with qtlb := [], tlb := [], swept := s.coreT c })) s
      let s := { s with mcg := s.mcg.filter (fun e => e.2.bay != b) }
      startReserved (nextInc (s.setBay b (freshBay (s.bay b) b i (hdmOf s b))) b) b

/-! ## Bring-up (R426, R430) -/

def execPerstRelease (s : State) : Host.Outcome State Fault Refusal :=
  .next (if s.st = .reset then { s with st := if fwOk .root s.flash.root then .root else .failed } else s)
/-- The domain configuration of flash is taken, and the domain's time joined: 0 in a domain of one package. -/
def execRootStageComplete (t0 : Nat) (s : State) : Host.Outcome State Fault Refusal :=
  .next (
    let c := s.flash.cfg
    if s.st ≠ .root then s
    else { s with
      st := .service, pkgid := c.pkgid, members := c.members,
      fto := (match c.fto with | some x => if 100000 ≤ x ∧ x ≤ 64000000 then x else 2000000 | none => 2000000),
      pl := (match c.pl with | some x => if 2000 ≤ x ∧ x ≤ 1000000 then x else 10000 | none => 10000),
      t := if c.members = 1#512 <<< c.pkgid.toNat then 0 else t0 })
/-- The service firmware runs; the bays of the stored partition are formed, once the service core may store their images. -/
def execServiceStageComplete (s : State) : Host.Outcome State Fault Refusal :=
  .next (
    if s.st ≠ .service then s
    else if !fwOk .service s.flash.service then { s with st := .failed }
    else
      let s' := { s with st := .ready, cols := s.flash.part.filter (fun e => decide (e.1 < 32 ∧ e.2 < 16)) }
      let bs := (List.range 16).filter (fun b => s'.cols.any (fun e => e.2 == b))
      if bs.all (formReady s) then bs.foldl formBay s' else s)
/-- The service firmware restarts: every call that is pending is answered RESTART (R344). A call of PAGE_RELEASE is, until its leases have run out;
every other call is answered in the step that makes it (log 62). -/
def execServiceFirmwareRestart (s : State) : Host.Outcome State Fault Refusal :=
  .next { s with svcWait := [], svc := s.svc ++ s.svcWait.map (fun w => { bay := w.1, op := "PAGE_RELEASE", status := 1, val := 0 }) }
/-- PERST# asserted or power removed: what is left is flash, the memory of the host and of the pool, and the sensors (R426). -/
def execPerstAssert (s : State) : Host.Outcome State Fault Refusal :=
  .next { State.reset with
    flash := s.flash, sensors := s.sensors, mem := s.mem.filter (fun e => decide (0x100000000000 ≤ e.1)),
    undef := s.undef.filter (fun u => decide (0x100000000000 ≤ u.lo)), hist := s.hist.filter (fun e => decide (0x100000000000 ≤ e.1)),
    nextAcc := s.nextAcc, nextIss := s.nextIss, nextTag := s.nextTag, stepNo := s.stepNo, sched := s.sched, free := s.free, agenda := s.agenda }

/-! ## Management commands (R428 to R431) -/

/-- A command is executed by Zhesor root unless another is pending; `zero` are its fields that must be zero. -/
def command (s : State) (cmd : W512) (op : Nat) (zero : List (Nat × Nat)) (k : State) : State :=
  if rootRuns s = false ∨ s.cmd.isSome ∧ s.cmd ≠ some cmd ∨ cmdField cmd 0 8 ≠ op then s
  else if ((8, 8) :: (32, 32) :: zero).any (fun f => cmdField cmd f.1 f.2 != 0) then cmdAns s cmd 2 1 else k
/-- The bay a command gives a column. -/
def cmdCol (cmd : W512) (g : Nat) : Nat := cmdField cmd (64 + 8 * g) 8
/-- Bays with a column that changes. -/
def changedBays (s : State) (cmd : W512) : List Nat :=
  (List.range 16).filter (fun b => (List.range 32).any (fun g => (mget? s.cols g == some b) != (cmdCol cmd g == b)))
def holdsBlock (s : State) (b : Nat) : Bool := (s.coresOf b).any (fun c => !(s.core c).blocks.isEmpty)
/-- A bay stops: its supervisor and walkers, its queues; then it waits for its formation. -/
def unformBay (s : State) (b : Nat) : State :=
  let s := vacateFilling ((s.coresOf b).foldl (fun s c => stopCore s b c) s) b
  (stopFabric s b).updBay b (fun y => { y.emptied (fun _ => false) with formed := false, cont := none })
/-- BAY_SET (R428). A bay is formed only in stage 4: until then, and in a trip, the command stays pending (R426; log 118); so it does until the service core
may store the images. -/
def execBaySet (cmd : W512) (s : State) : Host.Outcome State Fault Refusal :=
  .next (command s cmd 1 [(320, 192)] (
    let bad := (List.range 32).any (fun g => decide (16 ≤ cmdCol cmd g ∧ cmdCol cmd g ≠ 0x1F))
    let bs := changedBays s cmd
    if bad || bs.any (holdsBlock s) then cmdAns s cmd 2 2
    else if s.st ≠ .ready ∨ bs.all (formReady s) = false then { s with cmd := some cmd }
    else
      let s := bs.foldl unformBay s
      let s := { s with cols := ((List.range 32).filter (fun g => decide (cmdCol cmd g < 16))).map (fun g => (g, cmdCol cmd g)) }
      cmdAns ((bs.filter (fun b => s.cols.any (fun e => e.2 == b))).foldl formBay s) cmd 0 0))
/-- Whether the stores of a report are all performed at the host. -/
def reportDone (s : State) (r : Nat × Nat) : Bool := !s.accs.any (fun a => decide (r.1 ≤ a.id ∧ a.id < r.2))
/-- A report of at most 4 KiB goes to host memory; the leaf index advances before its signature is released (R430). The row again is the step that answers
the command, once the report is performed at the host (R431). -/
def execAttest (cmd : W512) (s : State) : Host.Outcome State Fault Refusal :=
  .next (command s cmd 2 [(384, 128)] (
    let host := cmdField cmd 320 64
    if s.report.isSome then (if reportDone s (s.report.getD (0, 0)) then cmdAns { s with report := none } cmd 0 0 else s)
    else if 2 ^ 20 ≤ s.flash.leaf then cmdAns s cmd 2 4
    else if host % 4096 ≠ 0 ∨ 2 ^ 44 ≤ host ∨ s.hUp = false then cmdAns s cmd 2 5
    else
      let leaf := s.flash.leaf
      let pa := 0x100000000000 + host
      let incs := (List.range 16).map (fun b => (s.bay b).inc.toNat)
      let b := (Config.report (BitVec.ofNat 256 (cmd.toNat / 2 ^ 64)) s.pkgid (s.flash.root.code, s.flash.service.code)
        (s.loaded.filter (fun e => (s.bay e.1).formed)) s.cols incs leaf).take 4096
      if !svcReady s pa b.length then { s with cmd := some cmd }
      else
        let s' := svcStore { s with flash := { s.flash with leaf := leaf + 1 } } pa b
        { s' with out := s'.out ++ [.report pa leaf], cmd := some cmd, report := some (s.nextAcc, s'.nextAcc) }))
/-- The bytes at the command's host address become the bay's boot image, as they are laid out (R427, R429). The row's image is the one that those bytes are:
with another the step is not taken (log 7). -/
def execBootSet (cmd : W512) (img : BootImage) (s : State) : Host.Outcome State Fault Refusal :=
  .next (command s cmd 3 [(72, 56), (256, 256)] (
    let b := cmdField cmd 64 8
    let host := cmdField cmd 128 64
    let len := cmdField cmd 192 64
    let pa := 0x100000000000 + host
    if host % 64 ≠ 0 ∨ 2 ^ 44 ≤ host ∨ s.hUp = false then cmdAns s cmd 2 5
    else if 16 ≤ b ∨ 16 * mib < len then cmdAns s cmd 2 3
    else if 2 ^ 44 < host + len ∨ (List.range ((len + 31) / 32)).any (fun k => (badSector s (pa / 32 + k)).isSome) then cmdAns s cmd 2 5
    else match imageOf (s.readBytes pa len) with
      | none => cmdAns s.bumpFree cmd 2 3
      | some x =>
        if x ≠ img then s
        else if imageOk s img then cmdAns { s.bumpFree with flash := { s.flash with boot := mset s.flash.boot b img } } cmd 0 0 else cmdAns s.bumpFree cmd 2 3))

/-! ## Services of Zhesor root (R343) -/

def answer (s : State) (b : Nat) (op : String) (status val : Nat) : State :=
  { s with svc := s.svc ++ [{
      bay := b, op := op, status := status, val := val,
      tables := if op = "OBJ_TABLES" ∧ status = 0 then some ((s.bay b).otBase, (s.bay b).otb, (s.bay b).ftBase, (s.bay b).fcnt) else none }] }
/-- A service: OK with its effect, or FAILED without one. A call for a bay that is not formed fails. -/
def service (s : State) (b : Nat) (op : String) (ok : Bool) (val : Nat) (k : State) : State :=
  if (s.bay b).formed && ok then answer k b op 0 val else answer s b op 2 0

/-- Whether a block other than the reserved courses is resident in the bay (R82). -/
def residentBlock (s : State) (b : Nat) : Bool := (s.coresOf b).any (fun c => (s.core c).blocks.any (fun e => e.2.st != .swapped))
def bayStaged (s : State) (b : Nat) : Bool := s.stages.any (fun e => e.2.writes.any (fun w => w.bay == b))
/-- The window of a column becomes undefined. -/
def undefWindow (w : Nat) (s : State) (g : Nat) : State :=
  let lo := 0x10000000000 + g * 0x2000000
  { s with undef := { lo := lo, hi := lo + w * mib - 1, held := false } :: s.undef.filter (fun u => !(decide (lo ≤ u.lo ∧ u.hi < lo + 0x2000000))) }
/-- A new W (R82): OK only with no block resident and no staged write in the bay's eave buffers (R293), and again for the call that was answered OK
last (R343). -/
def execSoffitSplit (bay w : Nat) (s : State) : Host.Outcome State Fault Refusal :=
  .next (
    let y := s.bay bay
    let cols := (List.range 32).filter (fun g => mget? s.cols g == some bay)
    let s' := s.updBay bay (fun y => { y with split := some w })
    service s bay "SOFFIT_SPLIT" (decide (w ≤ 28) && !bayStaged s bay && (y.split == some w || !residentBlock s bay)) 0
      (if w = y.w then s'
       else
        -- the cache part of the bay's columns is laid out anew: what it held is written back and read again
        let s := sofDropAll s' (fun g => cols.contains (homeOf s' (64 * g) / 8))
        let s := s.updBay bay (fun y => { y with w := w, eave := [] })
        if w = 0 then s else cols.foldl (undefWindow w) s))
/-- Bytes of HBM4 from lo to below hi read 0. -/
def zeroRange (s : State) (lo hi : Nat) : State :=
  let inside := fun (a : Nat) => decide (lo ≤ a ∧ a < hi)
  { s with
    mem := s.mem.filter (fun e => !inside e.1), hist := s.hist.filter (fun e => !inside e.1),
    undef := s.undef.flatMap (fun u => if u.hi < lo ∨ hi ≤ u.lo then [u] else
      (if u.lo < lo then [{ u with hi := lo - 1 }] else []) ++ (if hi ≤ u.hi then [{ u with lo := hi }] else [])),
    bad := s.bad.filter (fun u => match u with | .memory x _ => !inside (32 * x) | _ => true) }
/-- Where Zhesor root places the tables of a bay: object table, OTB, frame table and FCNT, both tables from 64 KiB pages inside HBM4 and apart (R103, log 104);
which place is open (log 17). -/
def tablePlace (free : Nat) : Nat × Nat × Nat × Nat :=
  let x := Config.objTables free
  let otb := 10 + x.2.1 % 15
  let n := 1 + x.2.2.2 % 4194304
  let ot := x.1 % ((hbmEnd - 32 * 2 ^ otb) / 65536 + 1)
  -- pages where the frame table may begin: below the object table, and from the first page after it
  let below := if 32 * n ≤ 65536 * ot then (65536 * ot - 32 * n) / 65536 + 1 else 0
  let after := ot + (32 * 2 ^ otb + 65535) / 65536
  let above := (hbmEnd - 32 * n) / 65536 + 1 - after
  let k := x.2.2.1 % (below + above)
  (65536 * ot, otb, 65536 * (if k < below then k else after + (k - below)), n)
/-- The tables that Zhesor root gives the bay, every bucket empty and every frame absent with GEN 0 (R105, log 87), or FAILED where they would meet another
bay's tables or its HDM range; asked again, the same (R103, R343). -/
def execObjTables (bay : Nat) (s : State) : Host.Outcome State Fault Refusal :=
  .next (
    let (ot, otb, ft, n) := tablePlace s.free
    if (s.bay bay).fcnt ≠ 0 then service s bay "OBJ_TABLES" true 0 s
    else service s bay "OBJ_TABLES" (!meetsTables s ot (32 * 2 ^ otb) && !meetsTables s ft (32 * n) && !meetsHdm s ot (32 * 2 ^ otb) && !meetsHdm s ft (32 * n)) 0
      ((zeroRange (zeroRange s.bumpFree ot (ot + 32 * 2 ^ otb)) ft (ft + 32 * n)).updBay bay (fun y => { y with otBase := ot, otb := otb, ftBase := ft, fcnt := n })))
def execLayoutBase (bay : Nat) (base : W64) (slots : Nat) (s : State) : Host.Outcome State Fault Refusal :=
  .next (service s bay "LAYOUT_BASE" (decide (base.toNat % 64 = 0) && (List.range 21).any (fun k => slots == 2 ^ k)) 0
    (s.updBay bay (fun y => { y with layBase := base, laySlots := slots })))
/-- Whether an export entry is as R284 lays it out; its reserved bits are ignored (R5). -/
def exportOk (e : BitVec 256) : Bool :=
  let x := e.toNat
  let vbase := x / 2 ^ 192
  let obase := x / 2 ^ 128 % 2 ^ 64
  let len := x / 2 ^ 64 % 2 ^ 64
  !e.getLsbD 7 || decide (vbase % 65536 = 0 ∧ vbase < 2 ^ 56 ∧ obase % 65536 = 0 ∧ obase < 2 ^ 43
    ∧ 0 < len ∧ len % 65536 = 0 ∧ obase + len ≤ 2 ^ 43)
def execExportSet (bay idx : Nat) (entry : BitVec 256) (s : State) : Host.Outcome State Fault Refusal :=
  .next (service s bay "EXPORT_SET" (decide (idx < 64) && exportOk entry) 0
    (s.updBay bay (fun y => { y with exports := mset y.exports idx entry })))
def execMcgSet (bay group : Nat) (members : BitVec 512) (s : State) : Host.Outcome State Fault Refusal :=
  .next (
    let free := match mget? s.mcg group with | some g => g.bay == bay | none => true
    service s bay "MCG_SET" (decide (group < 4096) && free && decide (members &&& ~~~s.members = 0)) 0
      { s with mcg := mset s.mcg group { members := members, bay := bay } })
def execEaveSet (bay die e : Nat) (s : State) : Host.Outcome State Fault Refusal :=
  .next (
    let y := s.bay bay
    let n := (colsOnDie s bay die).length
    let others := s.bays.foldl (fun m x => if x.1 = bay then m else m + mget x.2.eave die 0) 0
    let staged := s.stages.any (fun x => x.2.writes.any (fun w => w.bay == bay && w.die == die))
    service s bay "EAVE_SET" (decide (die < 2 ∧ 0 < n ∧ e % 8 = 0 ∧ e ≤ y.w * n ∧ others + e ≤ 128) && !staged) 0
      (s.updBay bay (fun y => { y with eave := mset y.eave die e })))
/-- Every walker course restarts at the new entry, and what it had in service waits again (R319). -/
def execWalkerSet (bay : Nat) (pc root : W64) (s : State) : Host.Outcome State Fault Refusal :=
  .next (service s bay "WALKER_SET" (decide (pc.toNat % 4 = 0 ∧ root.toNat % 65536 = 0)) 0 (
    let s := s.updBay bay (fun y => { y with walkPc := pc, root := root })
    let walker := fun (a : Agent) => match a with | .thread c k _ => k == 511 && s.bayOf? c == some bay | _ => false
    let s := { s with accs := orphanAccs bay walker s.accs }
    (s.coresOf bay).foldl (fun s c =>
      settleCore ((s.setCourse c 511 { reservedCourse 511 pc { s := [(0, root)] } with since := s.t, cyc := coreCyc s c }).updCore c (fun co => { co with
        mq := co.mq.map (fun m => { m with service := false }) })) c) s))

/-- The job that fills a frame stops as by FCANCEL (R262, R384). -/
def stopFill (s : State) (b f : Nat) : State :=
  (s.coresOf b).foldl (fun s c => [0, 1].foldl (fun s p =>
    match s.job? c p with
    | none => s
    | some j =>
      if !j.frames.contains f then s
      else match mget? (s.core c).futs j.fut with
        | some x => cancelFut (stopJob s c p) c j.fut x
        | none => stopJob s c p) s) s
/-- OBJ_REVOKE's step for a name not yet listed. Table entries that it cannot read contain the bay (R379). -/
def revokeStep (s : State) (b : Nat) (name : W128) : State :=
  let f := probe s b name
  let e : Revoked := { name := nameOff name 0, frame := f.getD 0, gen := (f.map (frameGen s b)).getD 0, fv := f.isSome }
  let s := s.updBay b (fun y => { y with revoked := y.revoked ++ [e] })
  let s := match f with
    | some f =>
      let s := if frameState s b f = 1 then stopFill s b f else s
      (match frameBad s b f with
       | some src => contain s b (some { eccRec 0 src with tflt := s.t, async := true })
       | none => setFrameState s b f 4)
    | none => s
  endReqs (failParked s b f name 1 0) b name
def execObjRevoke (bay : Nat) (name : W128) (op : Nat) (s : State) : Host.Outcome State Fault Refusal :=
  .next (
    let y := s.bay bay
    let listed := y.revoked.any (fun e => nameKey e.name == nameKey name)
    if op = 0 then service s bay "OBJ_REVOKE" (listed || decide (y.revoked.length < 64)) 0 (if listed then s else revokeStep s bay name)
    else service s bay "OBJ_REVOKE" (op == 1) 0
      (s.updBay bay (fun y => { y with revoked := y.revoked.filter (fun e => nameKey e.name != nameKey name) })))

/-- The message of a page request (R372). -/
def pageMsg (b rid : Nat) (inc : BitVec 16) (r : PageReq) : W512 :=
  r.vaddr ++ r.paddr ++ BitVec.ofNat 64 r.treq ++ (0 : BitVec 280) ++ BitVec.ofNat 8 rid ++ inc ++ (0 : BitVec 4) ++ BitVec.ofNat 4 b ++ (0x06 : BitVec 8)
/-- Where message n of a bay's ring goes: entry n modulo the ring's length (R425). -/
def ringPa (y : Bay) : Nat := 0x100000000000 + (y.ringB.toNat / 4096 * 4096 + 64 * (y.ringC.toNat % 2 ^ (y.ringB.toNat % 16))) % 2 ^ 44
/-- The request enters the table under a free id, and its message goes to the host's ring (R425). With port H down it does not leave: the request ends by
its timeout (R418; log 119). -/
def pageSend (s : State) (b rid : Nat) (r : PageReq) : State :=
  let y := s.bay b
  let n := y.ringC.toNat
  let m := pageMsg b rid y.inc r
  let s := s.updBay b (fun y => { y with pages := mset y.pages rid r })
  if !s.hUp then s
  else
    let s := (svcStore s (ringPa y) (natBytes 64 m.toNat)).updBay b (fun y => { y with ringC := y.ringC + 1 })
    { s with out := s.out ++ [.hostRing b n m] }
def execPageRequest (bay : Nat) (vaddr paddr : W64) (s : State) : Host.Outcome State Fault Refusal :=
  .next (
    let y := s.bay bay
    let code := y.ringB.toNat % 16
    let free := (List.range 64).filter (fun k => (mget? y.pages k).isNone)
    let inHdm := decide (y.hdmBase ≤ paddr.toNat ∧ paddr.toNat + 65536 ≤ y.hdmBase + y.hdmLen)
    match y.pages.find? (fun e => e.2.vaddr == vaddr) with
    | some e => service s bay "PAGE_REQUEST" true e.1 s
    | none =>
      let rid := free.getD (Config.freeChoice s.free % free.length) 0
      -- the message waits for the service core
      if s.hUp && !svcReady s (ringPa y) 64 then s
      else service s bay "PAGE_REQUEST"
        (decide (vaddr.toNat % 65536 = 0 ∧ paddr.toNat % 65536 = 0 ∧ 4 ≤ code ∧ code ≤ 12) && inHdm && !free.isEmpty) rid
        (pageSend s.bumpFree bay rid { vaddr := vaddr, paddr := paddr, treq := s.t, inc := y.inc }))
/-- The page's dirty lines are written back and its copies dropped; the call is pending until every lease of the page has run out and no access left
without its agent is on its way there, and the row again is the step that answers it (R375, R376, R344). A page outside the HDM range of the caller's bay
is not its own (R430; log 120). -/
def execPageRelease (bay : Nat) (paddr : W64) (s : State) : Host.Outcome State Fault Refusal :=
  .next (
    let p := paddr.toNat
    let done := s.svcWait.filter (fun w => w != (bay, p))
    let grans := (List.range 1024).map (fun i => p / 64 + i)
    let late := grans.any (fun g => let l := mget s.leases g {}; decide (homeT s (homeOf s (64 * g)) < Nat.max l.l0 (Nat.max l.l1 l.lr)))
    let orphan := s.accs.any (fun a => (match a.ag with | .orphan _ _ => true | _ => false) && (match a.ph with
      | .flight d => !isPeer d && canonPa s d / 65536 == p / 65536
      | _ => false))
    let own := decide ((s.bay bay).hdmBase ≤ p ∧ p + 65536 ≤ (s.bay bay).hdmBase + (s.bay bay).hdmLen)
    if p % 65536 ≠ 0 ∨ hbmEnd ≤ p ∨ own = false then service s bay "PAGE_RELEASE" false 0 s
    else
      let inside := fun (g : Nat) => decide (p / 64 ≤ g ∧ g < p / 64 + 1024)
      let s := sofDropAll { s with cores := s.cores.map (fun e => (e.1, e.2.keepCopies (fun g _ => !inside g))) } inside
      if late || orphan then (if (s.bay bay).formed then { s with svcWait := done ++ [(bay, p)] } else answer s bay "PAGE_RELEASE" 2 0)
      else service s bay "PAGE_RELEASE" true 0 { s with svcWait := done })

end

end Sys2Proof.Machine
end

