-- ==== Sys2Proof/Machine/Dispatch.lean ====
section
/-! DEFINITION. One arm for each row of spec/opcode_table.json: one direct call of the row's meaning. -/

namespace Sys2Proof.Machine

def exec (i : Instr) (s : State) : Host.Outcome State Fault Refusal :=
  match i with
  | .add g d a b => Sys2Proof.Machine.execAdd g d a b s
  | .sub g d a b => Sys2Proof.Machine.execSub g d a b s
  | .and g d a b => Sys2Proof.Machine.execAnd g d a b s
  | .or g d a b => Sys2Proof.Machine.execOr g d a b s
  | .xor g d a b => Sys2Proof.Machine.execXor g d a b s
  | .andn g d a b => Sys2Proof.Machine.execAndn g d a b s
  | .shl g d a b => Sys2Proof.Machine.execShl g d a b s
  | .shr g d a b => Sys2Proof.Machine.execShr g d a b s
  | .sar g d a b => Sys2Proof.Machine.execSar g d a b s
  | .min g d a b => Sys2Proof.Machine.execMin g d a b s
  | .max g d a b => Sys2Proof.Machine.execMax g d a b s
  | .minui g d a b => Sys2Proof.Machine.execMinui g d a b s
  | .maxui g d a b => Sys2Proof.Machine.execMaxui g d a b s
  | .abs g d a => Sys2Proof.Machine.execAbs g d a s
  | .neg g d a => Sys2Proof.Machine.execNeg g d a s
  | .mul g d a b => Sys2Proof.Machine.execMul g d a b s
  | .mulhi g d a b => Sys2Proof.Machine.execMulhi g d a b s
  | .mulhiu g d a b => Sys2Proof.Machine.execMulhiu g d a b s
  | .mad g d a b => Sys2Proof.Machine.execMad g d a b s
  | .popc g d a => Sys2Proof.Machine.execPopc g d a s
  | .clz g d a => Sys2Proof.Machine.execClz g d a s
  | .brev g d a => Sys2Proof.Machine.execBrev g d a s
  | .bfx g d a b => Sys2Proof.Machine.execBfx g d a b s
  | .bfi g d a b => Sys2Proof.Machine.execBfi g d a b s
  | .icmpEq g d a b => Sys2Proof.Machine.execIcmpEq g d a b s
  | .icmpNe g d a b => Sys2Proof.Machine.execIcmpNe g d a b s
  | .icmpLt g d a b => Sys2Proof.Machine.execIcmpLt g d a b s
  | .icmpLe g d a b => Sys2Proof.Machine.execIcmpLe g d a b s
  | .icmpGt g d a b => Sys2Proof.Machine.execIcmpGt g d a b s
  | .icmpGe g d a b => Sys2Proof.Machine.execIcmpGe g d a b s
  | .icmpLtui g d a b => Sys2Proof.Machine.execIcmpLtui g d a b s
  | .icmpLeui g d a b => Sys2Proof.Machine.execIcmpLeui g d a b s
  | .icmpGtui g d a b => Sys2Proof.Machine.execIcmpGtui g d a b s
  | .icmpGeui g d a b => Sys2Proof.Machine.execIcmpGeui g d a b s
  | .pand g d a b => Sys2Proof.Machine.execPand g d a b s
  | .por g d a b => Sys2Proof.Machine.execPor g d a b s
  | .pxor g d a b => Sys2Proof.Machine.execPxor g d a b s
  | .pandn g d a b => Sys2Proof.Machine.execPandn g d a b s
  | .pnot g d a => Sys2Proof.Machine.execPnot g d a s
  | .p2v g d a => Sys2Proof.Machine.execP2v g d a s
  | .v2p g d a => Sys2Proof.Machine.execV2p g d a s
  | .addi g d a imm => Sys2Proof.Machine.execAddi g d a imm s
  | .andi g d a imm => Sys2Proof.Machine.execAndi g d a imm s
  | .ori g d a imm => Sys2Proof.Machine.execOri g d a imm s
  | .xori g d a imm => Sys2Proof.Machine.execXori g d a imm s
  | .shli g d a n => Sys2Proof.Machine.execShli g d a n s
  | .shri g d a n => Sys2Proof.Machine.execShri g d a n s
  | .sari g d a n => Sys2Proof.Machine.execSari g d a n s
  | .roli g d a n => Sys2Proof.Machine.execRoli g d a n s
  | .mov16 g d imm => Sys2Proof.Machine.execMov16 g d imm s
  | .mov16Hi g d imm => Sys2Proof.Machine.execMov16Hi g d imm s
  | .add64 g d a b => Sys2Proof.Machine.execAdd64 g d a b s
  | .sub64 g d a b => Sys2Proof.Machine.execSub64 g d a b s
  | .padd g d a b => Sys2Proof.Machine.execPadd g d a b s
  | .shl64 g d a b => Sys2Proof.Machine.execShl64 g d a b s
  | .shr64 g d a b => Sys2Proof.Machine.execShr64 g d a b s
  | .sar64 g d a b => Sys2Proof.Machine.execSar64 g d a b s
  | .mulw g d a b => Sys2Proof.Machine.execMulw g d a b s
  | .mulwui g d a b => Sys2Proof.Machine.execMulwui g d a b s
  | .mov64 g d a => Sys2Proof.Machine.execMov64 g d a s
  | .mov g d a => Sys2Proof.Machine.execMov g d a s
  | .sel g d a b k => Sys2Proof.Machine.execSel g d a b k s
  | .pick g d a b => Sys2Proof.Machine.execPick g d a b s
  | .rotu g d a b => Sys2Proof.Machine.execRotu g d a b s
  | .rotd g d a b => Sys2Proof.Machine.execRotd g d a b s
  | .bfly g d a b => Sys2Proof.Machine.execBfly g d a b s
  | .lany g d a => Sys2Proof.Machine.execLany g d a s
  | .lall g d a => Sys2Proof.Machine.execLall g d a s
  | .lmask g d a => Sys2Proof.Machine.execLmask g d a s
  | .combAdd g d a => Sys2Proof.Machine.execCombAdd g d a s
  | .combMin g d a => Sys2Proof.Machine.execCombMin g d a s
  | .combMax g d a => Sys2Proof.Machine.execCombMax g d a s
  | .combMinui g d a => Sys2Proof.Machine.execCombMinui g d a s
  | .combMaxui g d a => Sys2Proof.Machine.execCombMaxui g d a s
  | .combAnd g d a => Sys2Proof.Machine.execCombAnd g d a s
  | .combOr g d a => Sys2Proof.Machine.execCombOr g d a s
  | .combXor g d a => Sys2Proof.Machine.execCombXor g d a s
  | .fadd g d a b => Sys2Proof.Machine.execFadd g d a b s
  | .fsub g d a b => Sys2Proof.Machine.execFsub g d a b s
  | .fmul g d a b => Sys2Proof.Machine.execFmul g d a b s
  | .ffma g d a b => Sys2Proof.Machine.execFfma g d a b s
  | .fmin g d a b => Sys2Proof.Machine.execFmin g d a b s
  | .fmax g d a b => Sys2Proof.Machine.execFmax g d a b s
  | .fabs g d a => Sys2Proof.Machine.execFabs g d a s
  | .fneg g d a => Sys2Proof.Machine.execFneg g d a s
  | .fcpys g d a b => Sys2Proof.Machine.execFcpys g d a b s
  | .fcmpEq g d a b => Sys2Proof.Machine.execFcmpEq g d a b s
  | .fcmpNe g d a b => Sys2Proof.Machine.execFcmpNe g d a b s
  | .fcmpLt g d a b => Sys2Proof.Machine.execFcmpLt g d a b s
  | .fcmpLe g d a b => Sys2Proof.Machine.execFcmpLe g d a b s
  | .fcmpGt g d a b => Sys2Proof.Machine.execFcmpGt g d a b s
  | .fcmpGe g d a b => Sys2Proof.Machine.execFcmpGe g d a b s
  | .fcmpUnord g d a b => Sys2Proof.Machine.execFcmpUnord g d a b s
  | .fcmpOrd g d a b => Sys2Proof.Machine.execFcmpOrd g d a b s
  | .addF16x2 g d a b => Sys2Proof.Machine.execAddF16x2 g d a b s
  | .subF16x2 g d a b => Sys2Proof.Machine.execSubF16x2 g d a b s
  | .mulF16x2 g d a b => Sys2Proof.Machine.execMulF16x2 g d a b s
  | .fmaF16x2 g d a b => Sys2Proof.Machine.execFmaF16x2 g d a b s
  | .minF16x2 g d a b => Sys2Proof.Machine.execMinF16x2 g d a b s
  | .maxF16x2 g d a b => Sys2Proof.Machine.execMaxF16x2 g d a b s
  | .addBf16x2 g d a b => Sys2Proof.Machine.execAddBf16x2 g d a b s
  | .subBf16x2 g d a b => Sys2Proof.Machine.execSubBf16x2 g d a b s
  | .mulBf16x2 g d a b => Sys2Proof.Machine.execMulBf16x2 g d a b s
  | .fmaBf16x2 g d a b => Sys2Proof.Machine.execFmaBf16x2 g d a b s
  | .minBf16x2 g d a b => Sys2Proof.Machine.execMinBf16x2 g d a b s
  | .maxBf16x2 g d a b => Sys2Proof.Machine.execMaxBf16x2 g d a b s
  | .rcp g d a k => Sys2Proof.Machine.execRcp g d a k s
  | .rsq g d a k => Sys2Proof.Machine.execRsq g d a k s
  | .sqrt g d a k => Sys2Proof.Machine.execSqrt g d a k s
  | .exp2 g d a k => Sys2Proof.Machine.execExp2 g d a k s
  | .log2 g d a k => Sys2Proof.Machine.execLog2 g d a k s
  | .sin g d a k => Sys2Proof.Machine.execSin g d a k s
  | .cos g d a k => Sys2Proof.Machine.execCos g d a k s
  | .tanh g d a k => Sys2Proof.Machine.execTanh g d a k s
  | .cvtF32F16 g d a h => Sys2Proof.Machine.execCvtF32F16 g d a h s
  | .cvtF32Bf16 g d a h => Sys2Proof.Machine.execCvtF32Bf16 g d a h s
  | .cvtF16F32 g d a b => Sys2Proof.Machine.execCvtF16F32 g d a b s
  | .cvtBf16F32 g d a b => Sys2Proof.Machine.execCvtBf16F32 g d a b s
  | .cvtS32F32 g d a => Sys2Proof.Machine.execCvtS32F32 g d a s
  | .cvtUi32F32 g d a => Sys2Proof.Machine.execCvtUi32F32 g d a s
  | .cvtF32S32 g d a => Sys2Proof.Machine.execCvtF32S32 g d a s
  | .cvtF32Ui32 g d a => Sys2Proof.Machine.execCvtF32Ui32 g d a s
  | .cvtFxF32 g d a => Sys2Proof.Machine.execCvtFxF32 g d a s
  | .cvtF32Fx g d a => Sys2Proof.Machine.execCvtF32Fx g d a s
  | .cvtF16F32Sr g d a b => Sys2Proof.Machine.execCvtF16F32Sr g d a b s
  | .cvtBf16F32Sr g d a b => Sys2Proof.Machine.execCvtBf16F32Sr g d a b s
  | .cvtF32S64 g d a => Sys2Proof.Machine.execCvtF32S64 g d a s
  | .cvtF32Ui64 g d a => Sys2Proof.Machine.execCvtF32Ui64 g d a s
  | .pkE4m3 g d a b => Sys2Proof.Machine.execPkE4m3 g d a b s
  | .pkE5m2 g d a b => Sys2Proof.Machine.execPkE5m2 g d a b s
  | .pkHs4 g d a b => Sys2Proof.Machine.execPkHs4 g d a b s
  | .upkE4m3 g d a b => Sys2Proof.Machine.execUpkE4m3 g d a b s
  | .upkE5m2 g d a b => Sys2Proof.Machine.execUpkE5m2 g d a b s
  | .upkHs4 g d a b => Sys2Proof.Machine.execUpkHs4 g d a b s
  | .pkE4m3Sr g d a b => Sys2Proof.Machine.execPkE4m3Sr g d a b s
  | .pkE5m2Sr g d a b => Sys2Proof.Machine.execPkE5m2Sr g d a b s
  | .scxE4m3 g d a => Sys2Proof.Machine.execScxE4m3 g d a s
  | .scxE5m2 g d a => Sys2Proof.Machine.execScxE5m2 g d a s
  | .scxHs4 g d a => Sys2Proof.Machine.execScxHs4 g d a s
  | .ld sz g d a ad => Sys2Proof.Machine.execLd sz g d a ad s
  | .st sz g d a ad => Sys2Proof.Machine.execSt sz g d a ad s
  | .ldt sz g d a b ad => Sys2Proof.Machine.execLdt sz g d a b ad s
  | .stt sz g d a b ad => Sys2Proof.Machine.execStt sz g d a b ad s
  | .ldp g d a ad => Sys2Proof.Machine.execLdp g d a ad s
  | .stp g d a ad => Sys2Proof.Machine.execStp g d a ad s
  | .pfar g d b ad => Sys2Proof.Machine.execPfar g d b ad s
  | .atomAdd w g d a ad => Sys2Proof.Machine.execAtomAdd w g d a ad s
  | .atomMin w g d a ad => Sys2Proof.Machine.execAtomMin w g d a ad s
  | .atomMax w g d a ad => Sys2Proof.Machine.execAtomMax w g d a ad s
  | .atomMinui w g d a ad => Sys2Proof.Machine.execAtomMinui w g d a ad s
  | .atomMaxui w g d a ad => Sys2Proof.Machine.execAtomMaxui w g d a ad s
  | .atomAnd w g d a ad => Sys2Proof.Machine.execAtomAnd w g d a ad s
  | .atomOr w g d a ad => Sys2Proof.Machine.execAtomOr w g d a ad s
  | .atomXor w g d a ad => Sys2Proof.Machine.execAtomXor w g d a ad s
  | .atomXchg w g d a ad => Sys2Proof.Machine.execAtomXchg w g d a ad s
  | .atomCas w g d a b ad => Sys2Proof.Machine.execAtomCas w g d a b ad s
  | .atomFaddF32 g d a ad => Sys2Proof.Machine.execAtomFaddF32 g d a ad s
  | .atomAddBf16x2 g d a ad => Sys2Proof.Machine.execAtomAddBf16x2 g d a ad s
  | .atomAddF16x2 g d a ad => Sys2Proof.Machine.execAtomAddF16x2 g d a ad s
  | .atomFxadd g d a ad => Sys2Proof.Machine.execAtomFxadd g d a ad s
  | .redAdd w g d a ad => Sys2Proof.Machine.execRedAdd w g d a ad s
  | .redMin w g d a ad => Sys2Proof.Machine.execRedMin w g d a ad s
  | .redMax w g d a ad => Sys2Proof.Machine.execRedMax w g d a ad s
  | .redMinui w g d a ad => Sys2Proof.Machine.execRedMinui w g d a ad s
  | .redMaxui w g d a ad => Sys2Proof.Machine.execRedMaxui w g d a ad s
  | .redAnd w g d a ad => Sys2Proof.Machine.execRedAnd w g d a ad s
  | .redOr w g d a ad => Sys2Proof.Machine.execRedOr w g d a ad s
  | .redXor w g d a ad => Sys2Proof.Machine.execRedXor w g d a ad s
  | .redFaddF32 g d a ad => Sys2Proof.Machine.execRedFaddF32 g d a ad s
  | .redAddBf16x2 g d a ad => Sys2Proof.Machine.execRedAddBf16x2 g d a ad s
  | .redAddF16x2 g d a ad => Sys2Proof.Machine.execRedAddF16x2 g d a ad s
  | .redFxadd g d a ad => Sys2Proof.Machine.execRedFxadd g d a ad s
  | .wait w g d a b ad => Sys2Proof.Machine.execWait w g d a b ad s
  | .waitReread core slot lane => Sys2Proof.Machine.execWaitReread core slot lane s
  | .fenceAcq g sc => Sys2Proof.Machine.execFenceAcq g sc s
  | .fenceRel g sc => Sys2Proof.Machine.execFenceRel g sc s
  | .fenceAcqrel g sc => Sys2Proof.Machine.execFenceAcqrel g sc s
  | .bra g o => Sys2Proof.Machine.execBra g o s
  | .nop g => Sys2Proof.Machine.execNop g s
  | .brx g a => Sys2Proof.Machine.execBrx g a s
  | .call g d o => Sys2Proof.Machine.execCall g d o s
  | .callx g d a => Sys2Proof.Machine.execCallx g d a s
  | .ret g a => Sys2Proof.Machine.execRet g a s
  | .exit g => Sys2Proof.Machine.execExit g s
  | .barA g sc p r n => Sys2Proof.Machine.execBarA g sc p r n s
  | .barW g sc p r n => Sys2Proof.Machine.execBarW g sc p r n s
  | .barAw g sc p r n => Sys2Proof.Machine.execBarAw g sc p r n s
  | .issv g a => Sys2Proof.Machine.execIssv g a s
  | .rst sz g d a ad => Sys2Proof.Machine.execRst sz g d a ad s
  | .uadd q d a b => Sys2Proof.Machine.execUadd q d a b s
  | .usub q d a b => Sys2Proof.Machine.execUsub q d a b s
  | .uand q d a b => Sys2Proof.Machine.execUand q d a b s
  | .uor q d a b => Sys2Proof.Machine.execUor q d a b s
  | .uxor q d a b => Sys2Proof.Machine.execUxor q d a b s
  | .ushl q d a b => Sys2Proof.Machine.execUshl q d a b s
  | .ushr q d a b => Sys2Proof.Machine.execUshr q d a b s
  | .usar q d a b => Sys2Proof.Machine.execUsar q d a b s
  | .umin q d a b => Sys2Proof.Machine.execUmin q d a b s
  | .umax q d a b => Sys2Proof.Machine.execUmax q d a b s
  | .uminui q d a b => Sys2Proof.Machine.execUminui q d a b s
  | .umaxui q d a b => Sys2Proof.Machine.execUmaxui q d a b s
  | .umul q d a b => Sys2Proof.Machine.execUmul q d a b s
  | .umulhi q d a b => Sys2Proof.Machine.execUmulhi q d a b s
  | .umulhiu q d a b => Sys2Proof.Machine.execUmulhiu q d a b s
  | .ucmpEq q d a b => Sys2Proof.Machine.execUcmpEq q d a b s
  | .ucmpNe q d a b => Sys2Proof.Machine.execUcmpNe q d a b s
  | .ucmpLt q d a b => Sys2Proof.Machine.execUcmpLt q d a b s
  | .ucmpLe q d a b => Sys2Proof.Machine.execUcmpLe q d a b s
  | .ucmpGt q d a b => Sys2Proof.Machine.execUcmpGt q d a b s
  | .ucmpGe q d a b => Sys2Proof.Machine.execUcmpGe q d a b s
  | .ucmpLtui q d a b => Sys2Proof.Machine.execUcmpLtui q d a b s
  | .ucmpLeui q d a b => Sys2Proof.Machine.execUcmpLeui q d a b s
  | .ucmpGtui q d a b => Sys2Proof.Machine.execUcmpGtui q d a b s
  | .ucmpGeui q d a b => Sys2Proof.Machine.execUcmpGeui q d a b s
  | .qand q d a b => Sys2Proof.Machine.execQand q d a b s
  | .qor q d a b => Sys2Proof.Machine.execQor q d a b s
  | .qxor q d a b => Sys2Proof.Machine.execQxor q d a b s
  | .qandn q d a b => Sys2Proof.Machine.execQandn q d a b s
  | .qnot q d a => Sys2Proof.Machine.execQnot q d a s
  | .uaddi q d a imm => Sys2Proof.Machine.execUaddi q d a imm s
  | .uandi q d a imm => Sys2Proof.Machine.execUandi q d a imm s
  | .uori q d a imm => Sys2Proof.Machine.execUori q d a imm s
  | .uxori q d a imm => Sys2Proof.Machine.execUxori q d a imm s
  | .ushli q d a n => Sys2Proof.Machine.execUshli q d a n s
  | .ushri q d a n => Sys2Proof.Machine.execUshri q d a n s
  | .usari q d a n => Sys2Proof.Machine.execUsari q d a n s
  | .uroli q d a n => Sys2Proof.Machine.execUroli q d a n s
  | .umov16 q d imm => Sys2Proof.Machine.execUmov16 q d imm s
  | .umovk q d imm => Sys2Proof.Machine.execUmovk q d imm s
  | .umov q d a => Sys2Proof.Machine.execUmov q d a s
  | .readlane q d a b => Sys2Proof.Machine.execReadlane q d a b s
  | .bcast q d a => Sys2Proof.Machine.execBcast q d a s
  | .uld sz q d a ad => Sys2Proof.Machine.execUld sz q d a ad s
  | .ust sz q d a ad => Sys2Proof.Machine.execUst sz q d a ad s
  | .uatomAdd q d a ad => Sys2Proof.Machine.execUatomAdd q d a ad s
  | .uatomMin q d a ad => Sys2Proof.Machine.execUatomMin q d a ad s
  | .uatomMax q d a ad => Sys2Proof.Machine.execUatomMax q d a ad s
  | .uatomMinui q d a ad => Sys2Proof.Machine.execUatomMinui q d a ad s
  | .uatomMaxui q d a ad => Sys2Proof.Machine.execUatomMaxui q d a ad s
  | .uatomAnd q d a ad => Sys2Proof.Machine.execUatomAnd q d a ad s
  | .uatomOr q d a ad => Sys2Proof.Machine.execUatomOr q d a ad s
  | .uatomXor q d a ad => Sys2Proof.Machine.execUatomXor q d a ad s
  | .uatomXchg q d a ad => Sys2Proof.Machine.execUatomXchg q d a ad s
  | .uatomCas q d a b ad => Sys2Proof.Machine.execUatomCas q d a b ad s
  | .uatomFaddF32 q d a ad => Sys2Proof.Machine.execUatomFaddF32 q d a ad s
  | .uatomFxadd q d a ad => Sys2Proof.Machine.execUatomFxadd q d a ad s
  | .ubra q o => Sys2Proof.Machine.execUbra q o s
  | .ucall q d o => Sys2Proof.Machine.execUcall q d o s
  | .ucallx q d a => Sys2Proof.Machine.execUcallx q d a s
  | .uret q a => Sys2Proof.Machine.execUret q a s
  | .uloop q d o => Sys2Proof.Machine.execUloop q d o s
  | .spawn q d a => Sys2Proof.Machine.execSpawn q d a s
  | .sfence q d a b => Sys2Proof.Machine.execSfence q d a b s
  | .bjob q d a b => Sys2Proof.Machine.execBjob q d a b s
  | .fwait q d a => Sys2Proof.Machine.execFwait q d a s
  | .ftest q d a => Sys2Proof.Machine.execFtest q d a s
  | .fcancel q a => Sys2Proof.Machine.execFcancel q a s
  | .fmovHs q d a => Sys2Proof.Machine.execFmovHs q d a s
  | .fmovSh q d a => Sys2Proof.Machine.execFmovSh q d a s
  | .talloc q d a => Sys2Proof.Machine.execTalloc q d a s
  | .tfree q a => Sys2Proof.Machine.execTfree q a s
  | .tstat q d a => Sys2Proof.Machine.execTstat q d a s
  | .barinit q a b => Sys2Proof.Machine.execBarinit q a b s
  | .barsave q a => Sys2Proof.Machine.execBarsave q a s
  | .barload q a => Sys2Proof.Machine.execBarload q a s
  | .mcst q d a b => Sys2Proof.Machine.execMcst q d a b s
  | .ridge q d a => Sys2Proof.Machine.execRidge q d a s
  | .rstat q d a => Sys2Proof.Machine.execRstat q d a s
  | .mbxrd q d a => Sys2Proof.Machine.execMbxrd q d a s
  | .mbxwr q a b => Sys2Proof.Machine.execMbxwr q a b s
  | .movsFromSys q d a => Sys2Proof.Machine.execMovsFromSys q d a s
  | .movsToSys q d a => Sys2Proof.Machine.execMovsToSys q d a s
  | .therm q d a => Sys2Proof.Machine.execTherm q d a s
  | .clock q d => Sys2Proof.Machine.execClock q d s
  | .accrd q d a => Sys2Proof.Machine.execAccrd q d a s
  | .accwr q d a => Sys2Proof.Machine.execAccwr q d a s
  | .accz q a => Sys2Proof.Machine.execAccz q a s
  | .trap q d a b => Sys2Proof.Machine.execTrap q d a b s
  | .eret q => Sys2Proof.Machine.execEret q s
  | .eretAns q a b => Sys2Proof.Machine.execEretAns q a b s
  | .tlbw q a b => Sys2Proof.Machine.execTlbw q a b s
  | .tlbi q a b => Sys2Proof.Machine.execTlbi q a b s
  | .mqpop q d => Sys2Proof.Machine.execMqpop q d s
  | .objmap q d a b => Sys2Proof.Machine.execObjmap q d a b s
  | .objunmap q d a b => Sys2Proof.Machine.execObjunmap q d a b s
  | .objstat q d a => Sys2Proof.Machine.execObjstat q d a s
  | .harvest q d a b => Sys2Proof.Machine.execHarvest q d a b s
  | .preempt q a b => Sys2Proof.Machine.execPreempt q a b s
  | .resume q a b => Sys2Proof.Machine.execResume q a b s
  | .halt q => Sys2Proof.Machine.execHalt q s
  | .mma d a b => Sys2Proof.Machine.execMma d a b s
  | .mzero d => Sys2Proof.Machine.execMzero d s
  | .mscl d a y x => Sys2Proof.Machine.execMscl d a y x s
  | .mloop n a b => Sys2Proof.Machine.execMloop n a b s
  | .mjmp o => Sys2Proof.Machine.execMjmp o s
  | .mbarW k n => Sys2Proof.Machine.execMbarW k n s
  | .mbarA n => Sys2Proof.Machine.execMbarA n s
  | .mbarADrain n => Sys2Proof.Machine.execMbarADrain n s
  | .mend => Sys2Proof.Machine.execMend s
  | .bcopy q d a b => Sys2Proof.Machine.execBcopy q d a b s
  | .bfetch q d a => Sys2Proof.Machine.execBfetch q d a s
  | .btld q d a b => Sys2Proof.Machine.execBtld q d a b s
  | .btst q d a b => Sys2Proof.Machine.execBtst q d a b s
  | .bgath q d a b => Sys2Proof.Machine.execBgath q d a b s
  | .bscat q d a b => Sys2Proof.Machine.execBscat q d a b s
  | .bstep q d b => Sys2Proof.Machine.execBstep q d b s
  | .block q d a b => Sys2Proof.Machine.execBlock q d a b s
  | .bunlk q a => Sys2Proof.Machine.execBunlk q a s
  | .btset q d a => Sys2Proof.Machine.execBtset q d a s
  | .baccd q d a b => Sys2Proof.Machine.execBaccd q d a b s
  | .brem q d a b => Sys2Proof.Machine.execBrem q d a b s
  | .bdone q a b => Sys2Proof.Machine.execBdone q a b s
  | .surplusPhaseComplete core blk bar => Sys2Proof.Machine.execSurplusPhaseComplete core blk bar s
  | .courseDemotion core slot => Sys2Proof.Machine.execCourseDemotion core slot s
  | .coursePromotion core slot => Sys2Proof.Machine.execCoursePromotion core slot s
  | .activeSetTimesliceExpiry core slot => Sys2Proof.Machine.execActiveSetTimesliceExpiry core slot s
  | .jobParse bay lvl => Sys2Proof.Machine.execJobParse bay lvl s
  | .placementStep bay => Sys2Proof.Machine.execPlacementStep bay s
  | .placementStarvationTimeout bay lvl => Sys2Proof.Machine.execPlacementStarvationTimeout bay lvl s
  | .blockStart core blk => Sys2Proof.Machine.execBlockStart core blk s
  | .fenceRecordRead bay lvl => Sys2Proof.Machine.execFenceRecordRead bay lvl s
  | .fenceCounterPoll bay lvl cond => Sys2Proof.Machine.execFenceCounterPoll bay lvl cond s
  | .blockRetirement core blk => Sys2Proof.Machine.execBlockRetirement core blk s
  | .doneAddRecord bay acc => Sys2Proof.Machine.execDoneAddRecord bay acc s
  | .noticeQueueDrain bay => Sys2Proof.Machine.execNoticeQueueDrain bay s
  | .coreMessageAppend core => Sys2Proof.Machine.execCoreMessageAppend core s
  | .hostMailboxWrite bay w => Sys2Proof.Machine.execHostMailboxWrite bay w s
  | .registerWriteOther w => Sys2Proof.Machine.execRegisterWriteOther w s
  | .hbmEarlyRefresh stack bank => Sys2Proof.Machine.execHbmEarlyRefresh stack bank s
  | .copyHit acc => Sys2Proof.Machine.execCopyHit acc s
  | .homeRead acc => Sys2Proof.Machine.execHomeRead acc s
  | .loadReply acc => Sys2Proof.Machine.execLoadReply acc s
  | .homeWrite acc => Sys2Proof.Machine.execHomeWrite acc s
  | .completionRecord acc => Sys2Proof.Machine.execCompletionRecord acc s
  | .fencePass core slot lane => Sys2Proof.Machine.execFencePass core slot lane s
  | .copyExpiry core gran => Sys2Proof.Machine.execCopyExpiry core gran s
  | .l1CopySweep core => Sys2Proof.Machine.execL1CopySweep core s
  | .publication pkg group sector => Sys2Proof.Machine.execPublication pkg group sector s
  | .cxlWriteCompletion acc => Sys2Proof.Machine.execCxlWriteCompletion acc s
  | .cxlSnoop pa data => Sys2Proof.Machine.execCxlSnoop pa data s
  | .clockSkewCheck => Sys2Proof.Machine.execClockSkewCheck s
  | .columnTempRefresh readings => Sys2Proof.Machine.execColumnTempRefresh readings s
  | .tripRecovery => Sys2Proof.Machine.execTripRecovery s
  | .powerInterval mw => Sys2Proof.Machine.execPowerInterval mw s
  | .operatingPointChange island mv mhz => Sys2Proof.Machine.execOperatingPointChange island mv mhz s
  | .operatingPointSettle island => Sys2Proof.Machine.execOperatingPointSettle island s
  | .tlbiComplete core slot => Sys2Proof.Machine.execTlbiComplete core slot s
  | .sideLogTimeout acc => Sys2Proof.Machine.execSideLogTimeout acc s
  | .objectRequestResend core name => Sys2Proof.Machine.execObjectRequestResend core name s
  | .objectParkRetry acc => Sys2Proof.Machine.execObjectParkRetry acc s
  | .objunmapDrainReturn core slot => Sys2Proof.Machine.execObjunmapDrainReturn core slot s
  | .objunmapVacateStep core slot => Sys2Proof.Machine.execObjunmapVacateStep core slot s
  | .battenJobStart core proc => Sys2Proof.Machine.execBattenJobStart core proc s
  | .transferPerformed core proc xfer => Sys2Proof.Machine.execTransferPerformed core proc xfer s
  | .tileFillComplete core proc xfer => Sys2Proof.Machine.execTileFillComplete core proc xfer s
  | .tileDrainComplete core proc xfer => Sys2Proof.Machine.execTileDrainComplete core proc xfer s
  | .tileIntegrityReplay core proc xfer acc => Sys2Proof.Machine.execTileIntegrityReplay core proc xfer acc s
  | .mmaUpdate core blk op row col => Sys2Proof.Machine.execMmaUpdate core blk op row col s
  | .mbarWRelease core blk => Sys2Proof.Machine.execMbarWRelease core blk s
  | .mbarAArrival core blk => Sys2Proof.Machine.execMbarAArrival core blk s
  | .mendStep core blk => Sys2Proof.Machine.execMendStep core blk s
  | .barsaveHeldAdds core blk => Sys2Proof.Machine.execBarsaveHeldAdds core blk s
  | .sequencerStop core blk => Sys2Proof.Machine.execSequencerStop core blk s
  | .yieldTrapEntry core slot => Sys2Proof.Machine.execYieldTrapEntry core slot s
  | .swapOut core blk => Sys2Proof.Machine.execSwapOut core blk s
  | .faultRecordDelivery core => Sys2Proof.Machine.execFaultRecordDelivery core s
  | .supervisorStallTimeout bay => Sys2Proof.Machine.execSupervisorStallTimeout bay s
  | .fabricIngressRequest pkt => Sys2Proof.Machine.execFabricIngressRequest pkt s
  | .remoteReply rep => Sys2Proof.Machine.execRemoteReply rep s
  | .remoteTimeout tag => Sys2Proof.Machine.execRemoteTimeout tag s
  | .packetReplay tag => Sys2Proof.Machine.execPacketReplay tag s
  | .incarnationAnnouncement pkg bay inc => Sys2Proof.Machine.execIncarnationAnnouncement pkg bay inc s
  | .planeDead k => Sys2Proof.Machine.execPlaneDead k s
  | .planeReroute k => Sys2Proof.Machine.execPlaneReroute k s
  | .mcstAck tag res => Sys2Proof.Machine.execMcstAck tag res s
  | .mcstResolve tag => Sys2Proof.Machine.execMcstResolve tag s
  | .mcstMemberTimeout tag peer => Sys2Proof.Machine.execMcstMemberTimeout tag peer s
  | .ridgeVoteStart group => Sys2Proof.Machine.execRidgeVoteStart group s
  | .ridgeCount pkg group n => Sys2Proof.Machine.execRidgeCount pkg group n s
  | .ridgeStageTimeout pkg group => Sys2Proof.Machine.execRidgeStageTimeout pkg group s
  | .ridgeAnswer group peer ans => Sys2Proof.Machine.execRidgeAnswer group peer ans s
  | .ridgeAnswerTimeout group peer => Sys2Proof.Machine.execRidgeAnswerTimeout group peer s
  | .ridgePublishMsg pkg group tp => Sys2Proof.Machine.execRidgePublishMsg pkg group tp s
  | .ridgeAbortMsg pkg group => Sys2Proof.Machine.execRidgeAbortMsg pkg group s
  | .ridgeAbortResend group => Sys2Proof.Machine.execRidgeAbortResend group s
  | .ridgeAck group peer => Sys2Proof.Machine.execRidgeAck group peer s
  | .ridgePublishTimeout group => Sys2Proof.Machine.execRidgePublishTimeout group s
  | .hostHdmAccess bay pa op => Sys2Proof.Machine.execHostHdmAccess bay pa op s
  | .cxlLinkFailure port => Sys2Proof.Machine.execCxlLinkFailure port s
  | .cxlRequestTimeout acc => Sys2Proof.Machine.execCxlRequestTimeout acc s
  | .cxlLinkUp port => Sys2Proof.Machine.execCxlLinkUp port s
  | .pcieLinkDown => Sys2Proof.Machine.execPcieLinkDown s
  | .pageRequestAnswer bay data => Sys2Proof.Machine.execPageRequestAnswer bay data s
  | .pageRequestTimeout bay rid => Sys2Proof.Machine.execPageRequestTimeout bay rid s
  | .soffitSplit bay w => Sys2Proof.Machine.execSoffitSplit bay w s
  | .objTables bay => Sys2Proof.Machine.execObjTables bay s
  | .layoutBase bay base slots => Sys2Proof.Machine.execLayoutBase bay base slots s
  | .exportSet bay idx entry => Sys2Proof.Machine.execExportSet bay idx entry s
  | .mcgSet bay group members => Sys2Proof.Machine.execMcgSet bay group members s
  | .eaveSet bay die e => Sys2Proof.Machine.execEaveSet bay die e s
  | .walkerSet bay pc root => Sys2Proof.Machine.execWalkerSet bay pc root s
  | .objRevoke bay name op => Sys2Proof.Machine.execObjRevoke bay name op s
  | .pageRequest bay vaddr paddr => Sys2Proof.Machine.execPageRequest bay vaddr paddr s
  | .pageRelease bay paddr => Sys2Proof.Machine.execPageRelease bay paddr s
  | .baySet cmd => Sys2Proof.Machine.execBaySet cmd s
  | .attest cmd => Sys2Proof.Machine.execAttest cmd s
  | .bootSet cmd img => Sys2Proof.Machine.execBootSet cmd img s
  | .perstRelease => Sys2Proof.Machine.execPerstRelease s
  | .rootStageComplete t0 => Sys2Proof.Machine.execRootStageComplete t0 s
  | .serviceStageComplete => Sys2Proof.Machine.execServiceStageComplete s
  | .serviceFirmwareRestart => Sys2Proof.Machine.execServiceFirmwareRestart s
  | .illegalWord code reason pos word => Sys2Proof.Machine.execIllegalWord code reason pos word s
  | .perstAssert => Sys2Proof.Machine.execPerstAssert s

end Sys2Proof.Machine
end

