-- ==== Sys2Proof/Machine/Sched.lean ====
section
/-! DEFINITION. Which step comes next (log 5): the agenda, else the free schedule; the passing of time and of island clocks (R265, R313,
R421 to R423); and what only the environment does: a clock drifting (R378), stored data failing (R379). -/

namespace Sys2Proof.Machine

noncomputable section

/-- Clock of an island in MHz (R421 to R424) whose operating point gives `base`: less the power cap's steps, at most 1.5 GHz in a throttled column, none
while core islands are held off. -/
def capMhz (s : State) (i base : Nat) : Nat :=
  if i ≥ 256 then base
  else if s.off then 0
  else
    let x := cutMhz base (mget s.islands i {}).cut
    if s.colhot.contains (i / 8) then Nat.min x 1500 else x
def effMhz (s : State) (i : Nat) : Nat := capMhz s i (pointMhz (mget s.islands i {}) s.t)
/-- Cycles of an island in dt ns, in thousandths: at the clock of now while its voltage settles, then at the new one. -/
def cycles (s : State) (i dt : Nat) : Nat :=
  let x := mget s.islands i {}
  let d := Nat.min dt (settleLeft x s.t)
  d * effMhz s i + (dt - d) * capMhz s i (x.target.getD x.mhz)

/-- dt ns pass: T, and the cycles each island has run since the package left reset. -/
def advance (s : State) (dt : Nat) : State :=
  if dt = 0 then s
  else { s with
    t := s.t + dt,
    islands := if s.st = .reset then s.islands else (List.range 260).map (fun i =>
      let x := mget s.islands i {}
      (i, { x with cyc := x.cyc + cycles s i dt })) }

/-- Core whose quarter schedulers choose a step by what they find of its courses (R65, R66). -/
def looksAt? : Action → Option Nat
  | .event (.coursePromotion c _) => some c
  | .event (.courseDemotion c _) => some c
  | .event (.activeSetTimesliceExpiry c _) => some c
  | _ => none
/-- The next step of the agenda, or of the free schedule, with its time passed. -/
def nextAction (s : State) : State × Action :=
  let s := { s with issue := none, stepNo := s.stepNo + 1 }
  match s.agenda with
  | (dt, a) :: rest => (advance { s with agenda := rest } dt, a)
  | [] =>
    let x := Config.schedule s.sched
    (advance { s with sched := s.sched + 1 } x.1, x.2)
/-- The same, with what the quarter schedulers find of the courses it concerns. -/
def takeAction (s : State) : State × Action :=
  let x := nextAction s
  ({ x.1 with looks := ((looksAt? x.2).map (looksOf x.1)).getD [] }, x.2)

/-- Whether a tile line, a row or a register of the unit is there. -/
def unitThere (s : State) : BadUnit → Bool
  | .tile c e x => (match mget? (s.core c).tiles e with | some t => decide (x < 8 * t.len) | none => false)
  | .row c b x => (match s.block? c b with | some bl => decide (x < 512 * bl.accu) | none => false)
  | .vreg c k l x => (s.course? c k).isSome && decide (l < 8 ∧ x < 8)
  | .sreg c k x => (s.course? c k).isSome && decide (x < 16)
  | .jreg c p x => (s.job? c p).isSome && decide (x < 16)
  | .mreg c b => (s.seq? c b).isSome
  | _ => true
/-- A unit of stored data fails (R379). Bad memory stays bad until a whole-sector write, and a copy is dropped; a tile line, a row or a register stays bad
as long as its tile, block, course or job is there, or until it is written whole. -/
def softErr (s : State) (u : BadUnit) : State :=
  match u with
  | .memory x src =>
    let g := x / 2
    (match sofFind s g, src with
     -- a clean sector of the cache part is dropped and read again; a dirty one is the only copy of its bits
     | some e, 3 => if e.dirty then { s with bad := u :: s.bad } else sofDrop s (sofDie s g) g
     | none, 3 => s
     | _, 2 => if tierOf s (32 * x) = .win && canonPa s (32 * x) == 32 * x then { s with bad := u :: s.bad } else s
     | _, 1 => if decide (32 * x < 0x8000000000) then { s with bad := u :: s.bad } else s
     | _, _ => s)
  | .copy c g => s.updCore c (·.dropCopy g)
  | u => if unitThere s u then { s with bad := u :: s.bad } else s

/-- Rows that are steps of their own: events, services and commands. An instruction word, or a word that is none, comes only from an issue. -/
def isEvent (i : Instr) : Bool :=
  (encodeWords i).isEmpty && !(match i with | .illegalWord .. => true | _ => false)

/-- Any two units stay within 20 ns of one another and of the global time unit (R265). -/
def driftOk (s : State) (u : Nat) (d : Int) : Bool :=
  decide (u < 512 ∧ -20 ≤ d ∧ d ≤ 20) && s.skew.all (fun e => e.1 == u || decide (-20 ≤ e.2 - d ∧ e.2 - d ≤ 20))
/-- A service core issues an access of one sector, or a FENCE, which is a release and an acquire of system scope (R17, R266). While a FENCE has not
passed the core issues nothing, and its next step passes it (R272). -/
def svcIssue (s : State) (n : Nat) (op : SvcOp) : State :=
  let v := mget s.services n {}
  let put := fun (v : SvcCore) => { s with services := mset s.services n v }
  let acc := fun (kind : AccKind) (pa size : Nat) (data : List Byte) =>
    -- a store does not reach what only the transitions and the staging write (R103, R292)
    let kept := match target? s pa with
      | none => true
      | some t => kind == .store && (inTables s t.canon || (t.tier == .win && inEave s t.canon))
    if pa % 32 + size ≤ 32 ∧ !kept then
      { s with nextAcc := s.nextAcc + 1, nextIss := s.nextIss + 1,
               accs := s.accs ++ [{ id := s.nextAcc, iss := s.nextIss, ag := .service n, kind := kind, form := BitVec.ofNat 64 pa,
                                    ea := BitVec.ofNat 64 pa, size := size, data := data, prv := true, acq := v.acq, ph := .flight pa, t0 := s.t }] }
    else s
  if 4 ≤ n then s
  else if v.fence then (if relPassed s (.service n) 7 then put { v with fence := false, acq := s.nextAcc } else s)
  else match op with
    | .load pa size => acc .load pa size []
    | .store pa data => acc .store pa data.length data
    | .fence => put { v with fence := true }
/-- Whether an action is a step of a core's own, which a core that is held off does not make (R424). -/
def coreStep : Action → Bool
  | .slice .. => true
  | .batten .. => true
  | .matrix .. => true
  | .stage .. => true
  | .issv .. => true
  | .eret .. => true
  | .accum .. => true
  | _ => false
/-- What a scheduled action comes to where its unit runs: an instruction or event to execute, or a state. -/
def actOn (s : State) : Action → Fetched
  | .slice c k sl => fetchSlice s c k sl
  | .batten c p => fetchJob s c p
  | .matrix c b => fetchSeq s c b
  | .event i => if isEvent i then .go s i else .stay s
  | .drift u d => .stay (if driftOk s u d then { s with skew := mset s.skew u d } else s)
  | .softError u => .stay (softErr s u)
  | .service n op => .stay (svcIssue s n op)
  | .stage c b => .stay (stageStep s c b)
  | .issv c k pc => .stay (issvResume s c k pc)
  | .eret c k => .stay (eretCheck s c k)
  | .accum c k => .stay (accStep s c k)
  | .contain b c => .stay (containStep s b c)
  | .portTimeout p ns => .stay (if 50000 ≤ ns ∧ ns ≤ 64000000 then (match p with
      | .h => { s with hTo := ns }
      | .m => { s with mTo := ns }) else s)
/-- What a scheduled action comes to. -/
def act (s : State) (a : Action) : Fetched := if s.off && coreStep a then .stay s else actOn s a

/-- A thread that has not exited, a running job or sequencer. -/
def agentLives (s : State) : Agent → Bool
  | .thread c k l => (s.lane c k l).live
  | .job c p => (s.job? c p).isSome
  | .seq c b => (s.seq? c b).isSome
  | _ => false
/-- The end of a step; what an agent that has ended has seen, and the failed units of what is gone, are forgotten. -/
def endStep (s : State) : State :=
  { s with issue := none, looks := [], seen := s.seen.filter (fun e => agentLives s e.1), bad := s.bad.filter (unitThere s) }

/-! ## Placing one instruction word where the next step fetches it (log 21) -/

/-- Physical address, and virtual one where translation applies, of the placed word. -/
def placePc : W64 := 0x10000

/-- The bytes of a word of n bits and the zeros above it, at the placed address; a formed bay 0 over column 0. -/
def placeBytes (s : State) (w : Nat) : State :=
  let s := { s with cols := mset s.cols 0 0, bays := mset s.bays 0 { s.bay 0 with formed := true }, issue := none,
                    bad := s.bad.filter (fun u => match u with | .memory x _ => x != 0x800 | .copy .. => true | _ => false) }
  s.writeBytes 0x10000 (natBytes 12 (w % 2 ^ 64))

/-- Without accesses of the agents that may hold the issue. -/
def placeQuiet (s : State) : State :=
  { s with accs := s.accs.filter (fun a => agentCore? a.ag != some 0) }

/-- A block of 8 threads in block slot 0 of core 0, with the TLB entry of the placed word's page. -/
def placeBlock (s : State) (q : Option Seq) (j : Option Job) : State :=
  s.updCore 0 (fun co => { co with
    blocks := mset co.blocks 0 { bay := 0, threads := 8, slots := [0], vregs := 63, nbar := 1, accu := 64, seq := q },
    tlb := { va := 0x10000, z := 0, leaf := 0x1001F } :: co.tlb,
    procs := mset co.procs 0 { mget co.procs 0 {} with job := j } })

/-- Slot 511 of core 0 with 8 ready lanes at the placed word: privileged and untranslated. -/
def placeCourse (s : State) : State :=
  s.setCourse 0 511 { reservedCourse 511 placePc {} with active := true }

/-- The whole placement: the agent that may execute the word, and its issue as the very next step. -/
def placeWord (s : State) (nbits w : Nat) : State :=
  let s := placeQuiet (placeBytes s (w % 2 ^ nbits))
  match (decodeTableWord nbits w).map agentRow with
  | some .batten =>
    { placeBlock s none (some { fut := 0, blk := 0, slot := 0, prv := false, pc := placePc, u := {} }) with agenda := (0, .batten 0 0) :: s.agenda }
  | some .matrix => { placeBlock s (some { pc := placePc }) none with agenda := (0, .matrix 0 0) :: s.agenda }
  | _ => { placeCourse s with agenda := (0, .slice 0 511 0) :: s.agenda }

end

end Sys2Proof.Machine
end

