-- ==== Sys2Proof/Machine/Step.lean ====
section
/-! DEFINITION. One step of the package: the scheduled agent acts (R265, R270; log 5). A slice, batten processor or sequencer fetches, decodes and
executes one instruction; an event row is executed as it stands. -/

namespace Sys2Proof.Machine

/-- One step: the next action of the agenda or of the free schedule. -/
noncomputable def step (s : State) : Host.Outcome State Fault Refusal :=
  match act (takeAction s).1 (takeAction s).2 with
  | .stay s' => .next (endStep s')
  | .go s' i =>
    match exec i s' with
    | .next t => .next (endStep t)
    | .fault r => .fault r
    | .refused r => .refused r

/-- The state with an instruction word where the next step fetches and runs it (log 21). -/
noncomputable def State.withFetchWord (s : State) (nbits w : Nat) : State := placeWord s nbits w

end Sys2Proof.Machine
end

