-- ==== Sys2Proof/Safety.lean ====
section
/-! DEFINITION. What a safe run is: no step stops. The hardware's own faults are next states (R337, R340); the one fault of the model stands for
no behaviour of the hardware. And the terms that statements use: who issues, what one issue leaves in its course, and what it leaves alone. -/

namespace Sys2Proof

/-- A step that gives a next state. -/
def Safe (s : Machine.State) : Prop := ∃ t, Machine.step s = .next t

/-- Safe for n steps. -/
def SafeFor : Nat → Machine.State → Prop
  | 0, _ => True
  | n + 1, s => ∃ t, Machine.step s = .next t ∧ SafeFor n t

namespace Machine

/-! ## Who issues -/

/-- Course x, in slot k of core c, issues (R22, R27). -/
def CourseIssues (s : State) (iss : Issue) (c k : Nat) (x : Course) : Prop :=
  s.issue = some iss ∧ iss.who = .course c k ∧ s.course? c k = some x
/-- Batten job j, on processor p of core c, issues (R247). -/
def JobIssues (s : State) (iss : Issue) (c p : Nat) (j : Job) : Prop :=
  s.issue = some iss ∧ iss.who = .job c p ∧ s.job? c p = some j
/-- The matrix sequencer q of block b of core c issues (R229). -/
def SeqIssues (s : State) (iss : Issue) (c b : Nat) (q : Seq) : Prop :=
  s.issue = some iss ∧ iss.who = .seq c b ∧ s.seq? c b = some q

/-! ## What an issue leaves alone -/

/-- Every byte of memory reads in t as in s. -/
def SameBytes (s t : State) : Prop := ∀ a, t.readByte a = s.readByte a
/-- The same where free values were used on the way: memory, its open ranges and their earlier values are as they were, so every byte that is not
open reads in t as in s. -/
structure SameMemory (s t : State) : Prop where
  mem : t.mem = s.mem
  undef : t.undef = s.undef
  hist : t.hist = s.hist
  bytes : ∀ a, s.undef.find? (fun u => decide (u.lo ≤ a ∧ a ≤ u.hi)) = none → t.readByte a = s.readByte a
/-- t is s but for one course: the package, other cores, the rest of its core and the other courses are as they were, and so is every byte. -/
structure OnlyCourse (s t : State) (c k : Nat) : Prop where
  package : { t with cores := s.cores } = s
  cores : ∀ d, d ≠ c → t.core d = s.core d
  core : { t.core c with courses := (s.core c).courses } = s.core c
  courses : ∀ j, j ≠ k → t.course? c j = s.course? c j
  bytes : SameBytes s t
/-- t is s but for the running job of one batten processor. -/
structure OnlyJob (s t : State) (c p : Nat) : Prop where
  package : { t with cores := s.cores } = s
  cores : ∀ d, d ≠ c → t.core d = s.core d
  core : { t.core c with procs := (s.core c).procs } = s.core c
  procs : ∀ r, r ≠ p → t.proc c r = s.proc c r
  proc : { t.proc c p with job := (s.proc c p).job } = s.proc c p
  bytes : SameBytes s t
/-- t is s but for one core. -/
structure OnlyCore (s t : State) (c : Nat) : Prop where
  package : { t with cores := s.cores } = s
  cores : ∀ d, d ≠ c → t.core d = s.core d
  bytes : SameBytes s t
/-- t is s but for one block. -/
structure OnlyBlock (s t : State) (c b : Nat) : Prop where
  package : { t with cores := s.cores } = s
  cores : ∀ d, d ≠ c → t.core d = s.core d
  core : { t.core c with blocks := (s.core c).blocks } = s.core c
  blocks : ∀ j, j ≠ b → t.block? c j = s.block? c j
  bytes : SameBytes s t

/-! ## What an issue leaves in its course (R22, R24, R65, R67) -/

/-- A lane after an issue: in the mask, `f` of it with its fairness counter 0; a ready lane outside it, in a slice the issue counts for,
with 1 added to its counter (R24); any other lane as it was. -/
def laneAfter (iss : Issue) (f : Nat → Lane → Lane) (l : Nat) (ln : Lane) : Lane :=
  if l ∈ iss.mask then { f l ln with fair := 0 }
  else if ln.isReady && iss.counts.contains (l / 4) then { ln with fair := ln.fair + 1 } else ln
/-- Course y is course x after an issue that makes `f` of the lanes of its mask and leaves u in the uniform state. Every lookahead window but the
issue's own falls by 1 (R65), and the issue's kind has its time noted (R67); nothing else changes. -/
structure CourseAfter (s : State) (iss : Issue) (uset : Bool) (u : Uni) (x y : Course) (f : Nat → Lane → Lane) : Prop where
  lane : ∀ l, l < 8 → y.lane l = laneAfter iss f l (x.lane l)
  wins : y.wins = x.wins.map (fun w => if w.1 = iss.id then w else (w.1, w.2 - 1))
  times : (y.lastL, y.lastU) = if uset then (x.lastL, s.t) else (s.t, x.lastU)
  rest : { y with lanes := x.lanes, wins := x.wins, lastL := x.lastL, lastU := x.lastU } = { x with u := u }

/-- The issuing course after a word that does its work elsewhere: its uniform state is u, its lanes go to the next issue. -/
def CourseAdvanced (s : State) (iss : Issue) (u : Uni) (x : Course) (t : State) (c k : Nat) : Prop :=
  ∃ y, t.course? c k = some y ∧ CourseAfter s iss true u x y (fun _ ln => { ln with pc := iss.next })

/-! ## What a word gives when it completes -/

/-- The instruction, issued by a course, completes: each active lane becomes `f` of itself, every lane of the mask goes to the next issue, and
nothing else changes. -/
def LaneGives (i : Instr) (g : Guard) (f : Pfx → Lane → Lane) : Prop :=
  ∀ s iss c k x, CourseIssues s iss c k x → ∃ t y, exec i s = .next t ∧ OnlyCourse s t c k ∧ t.course? c k = some y ∧
    CourseAfter s iss false x.u x y (fun _ ln => { (if ln.rp g then f iss.pfx ln else ln) with pc := iss.next })
/-- The same for a word that moves the program counters of its active lanes itself. -/
def JumpGives (i : Instr) (g : Guard) (f : Issue → Lane → Lane) : Prop :=
  ∀ s iss c k x, CourseIssues s iss c k x → ∃ t y, exec i s = .next t ∧ OnlyCourse s t c k ∧ t.course? c k = some y ∧
    CourseAfter s iss false x.u x y (fun _ ln => if ln.rp g then f iss ln else { ln with pc := iss.next })
/-- The same for an exchange word: `f` makes an active lane from the active lanes and all lanes as they stood (R170). -/
def ExchGives (i : Instr) (g : Guard) (f : List Nat → (Nat → Lane) → Nat → Lane → Lane) : Prop :=
  ∀ s iss c k x, CourseIssues s iss c k x → ∃ t y, exec i s = .next t ∧ OnlyCourse s t c k ∧ t.course? c k = some y ∧
    CourseAfter s iss false x.u x y (fun l ln =>
      { (if l ∈ iss.mask ∧ (x.lane l).rp g then f (iss.mask.filter (fun j => (x.lane j).rp g)) x.lane l ln else ln) with pc := iss.next })
/-- A uniform word completes for a course and for a batten job: with its guard 1 the uniform state becomes `f` of itself, once (R29, R145). -/
def UniGives (i : Instr) (q : Guard) (f : Pfx → Uni → Uni) : Prop :=
  (∀ s iss c k x, CourseIssues s iss c k x → ∃ t y, exec i s = .next t ∧ OnlyCourse s t c k ∧ t.course? c k = some y ∧
    CourseAfter s iss true (if x.u.rq q then f iss.pfx x.u else x.u) x y (fun _ ln => { ln with pc := iss.next })) ∧
  (∀ s iss c p j, JobIssues s iss c p j → ∃ t, exec i s = .next t ∧ OnlyJob s t c p ∧
    t.job? c p = some { j with u := if j.u.rq q then f iss.pfx j.u else j.u, pc := iss.next })

/-- A uniform word of a course, its guard 1, completes where `P` holds: the uniform state becomes `f`, the lanes of the mask go to the next issue,
and nothing else changes. -/
def CourseGives (i : Instr) (q : Guard) (P : State → Nat → Nat → Course → Prop) (f : State → Nat → Nat → Course → Uni) : Prop :=
  ∀ s iss c k x, CourseIssues s iss c k x → x.u.rq q = true → P s c k x →
    ∃ t, exec i s = .next t ∧ OnlyCourse s t c k ∧ CourseAdvanced s iss (f s c k x) x t c k

/-! ## Memory words -/

/-- What every access of a word holds: its number, issue, agent, kind, size, the address formed, privilege, SIG, EV and the next issue (R142, R192, R265). -/
structure AccessIs (A : Access) (id : Nat) (iss : Issue) (ag : Agent) (kind : AccKind) (n : Nat) (base : W64) (ad : AddrWord) (prv : Bool) : Prop where
  number : A.id = id
  issue : A.iss = iss.id
  agent : A.ag = ag
  what : A.kind = kind
  bytes : A.size = n
  address : A.form = formAt ag base (offOf iss.pfx ad)
  signals : A.sig = (ad.sig == 1)
  evict : A.ev = ad.ev.toNat
  mode : A.prv = prv
  after : A.next = iss.next
/-- A memory word of the lanes, whose accesses `mk` makes, completes: where no access has to be held and none fails a check, one access for each active
lane (none where every lane is guarded off), in ascending lane order with consecutive numbers, joins those in flight; no byte of memory and no register changes; each lane of the mask
goes to the next issue, or parks on its access. -/
def MemGives (i : Instr) (g : Guard) (mk : MkAcc) (kind : AccKind) (n : Nat) (a : Reg) (ad : AddrWord) (more : Lane → Access → Prop) : Prop :=
  ∀ s iss c k x, CourseIssues s iss c k x →
    let act := iss.mask.filter (fun l => (x.lane l).rp g)
    let r := memRun s c k act (mk s iss c k)
    iss.mask.Nodup → r.held = false → r.bad = [] →
    ∃ t y new, exec i s = .next t ∧ t.accs = s.accs ++ new ∧ new.length = act.length ∧
      (∀ j l A, act[j]? = some l → new[j]? = some A →
        AccessIs A (s.nextAcc + j) iss (.thread c k l) kind n ((x.lane l).rv2 a.toNat) ad x.prv ∧ more (x.lane l) A) ∧
      SameMemory s t ∧ t.course? c k = some y ∧ y.u = x.u ∧ y.h = x.h ∧
      (∀ l, l < 8 → (y.lane l).v = (x.lane l).v ∧ (y.lane l).p = (x.lane l).p) ∧
      (∀ l, l < 8 → l ∈ iss.mask → ((y.lane l).pc = iss.next ∧ (y.lane l).st = (x.lane l).st) ∨
        (l ∈ act ∧ (y.lane l).pc = (x.lane l).pc ∧ ∃ A ∈ new, (y.lane l).st = .parked A.id ∧ A.ag = .thread c k l))
/-- A uniform memory word completes in the same way: one access, of the thread of the lowest lane of the mask or of the job (R206). -/
def UniMemGives (i : Instr) (q : Guard) (mk : State → Issue → Access) (kind : AccKind) (n : Nat) (a : Reg) (ad : AddrWord) (more : Uni → Access → Prop) : Prop :=
  (∀ s iss c k x, CourseIssues s iss c k x → x.u.rq q = true →
    let r := issueOne c (Issued.mk s [] [] false) iss.low (mk s iss)
    r.held = false → r.bad = [] → ∃ t y A, exec i s = .next t ∧ t.accs = s.accs ++ [A] ∧
      AccessIs A s.nextAcc iss (.thread c k iss.low) kind n (x.u.rs a.toNat) ad x.prv ∧ more x.u A ∧
      SameMemory s t ∧ t.course? c k = some y ∧ y.u = x.u ∧ y.h = x.h ∧
      (∀ l, l < 8 → (y.lane l).v = (x.lane l).v ∧ (y.lane l).p = (x.lane l).p) ∧
      ((∀ l, l < 8 → l ∈ iss.mask → (y.lane l).pc = iss.next ∧ (y.lane l).st = (x.lane l).st) ∨
       (∀ l, l < 8 → l ∈ iss.mask → (y.lane l).pc = (x.lane l).pc ∧ (y.lane l).st = .parked s.nextAcc))) ∧
  (∀ s iss c p j, JobIssues s iss c p j → j.u.rq q = true →
    let r := issueOne c (Issued.mk s [] [] false) iss.low (mk s iss)
    r.held = false → r.bad = [] → jobWaits s iss.who (mk s iss) = false → ∃ t A, exec i s = .next t ∧ t.accs = s.accs ++ [A] ∧
      AccessIs A s.nextAcc iss (.job c p) kind n (j.u.rs a.toNat) ad j.prv ∧ more j.u A ∧
      SameMemory s t ∧ t.job? c p = some { j with pc := iss.next })

end Machine

end Sys2Proof
end

