-- ==== Sys2Proof/Certificates/Slice0/Obligations.lean ====
section
/-! DEFINITION. The statements for the provers. Formulas are written from the tables of spec/, with exact natural and integer arithmetic narrowed at
the end, not with the functions that the meanings call. -/

namespace Sys2Proof.Machine

/-! ## Shapes of results: what a word of the lanes writes, for every guard, register and prefix -/

/-- `op vD, vA, vB` (R141). -/
def V3 (mk : Guard → Reg → Reg → Reg → Instr) (f : W32 → W32 → W32) : Prop :=
  ∀ g d a b, LaneGives (mk g d a b) g (fun _ ln => ln.wv d.toNat (f (ln.rv a.toNat) (ln.rv b.toNat)))
/-- `op vD, vA`. -/
def V2 (mk : Guard → Reg → Reg → Instr) (f : W32 → W32) : Prop :=
  ∀ g d a, LaneGives (mk g d a) g (fun _ ln => ln.wv d.toNat (f (ln.rv a.toNat)))
/-- `op vD, vA, vB, vC`: vC is the register an OPND prefix names, without one vD (R148, R162). -/
def V4 (mk : Guard → Reg → Reg → Reg → Instr) (f : W32 → W32 → W32 → W32) : Prop :=
  ∀ g d a b, LaneGives (mk g d a b) g (fun p ln =>
    ln.wv d.toNat (f (ln.rv a.toNat) (ln.rv b.toNat) (ln.rv (match p.opnd with | some c => c.toNat | none => d.toNat))))
/-- `op pD, vA, vB`. -/
def P3 (mk : Guard → PReg → Reg → Reg → Instr) (f : W32 → W32 → Bool) : Prop :=
  ∀ g d a b, LaneGives (mk g d a b) g (fun _ ln => ln.wp d (f (ln.rv a.toNat) (ln.rv b.toNat)))
/-- `op pD, pA, pB`. -/
def PP3 (mk : Guard → PReg → PReg → PReg → Instr) (f : Bool → Bool → Bool) : Prop :=
  ∀ g d a b, LaneGives (mk g d a b) g (fun _ ln => ln.wp d (f (ln.rp a) (ln.rp b)))
/-- `op pair(D), pair(A), pair(B)`. -/
def D3 (mk : Guard → Reg → Reg → Reg → Instr) (f : W64 → W64 → W64) : Prop :=
  ∀ g d a b, LaneGives (mk g d a b) g (fun _ ln => ln.wv2 d.toNat (f (ln.rv2 a.toNat) (ln.rv2 b.toNat)))
/-- `op pair(D), pair(A), vB`. -/
def DV (mk : Guard → Reg → Reg → Reg → Instr) (f : W64 → W32 → W64) : Prop :=
  ∀ g d a b, LaneGives (mk g d a b) g (fun _ ln => ln.wv2 d.toNat (f (ln.rv2 a.toNat) (ln.rv b.toNat)))
/-- `op pair(D), vA, vB`. -/
def DW (mk : Guard → Reg → Reg → Reg → Instr) (f : W32 → W32 → W64) : Prop :=
  ∀ g d a b, LaneGives (mk g d a b) g (fun _ ln => ln.wv2 d.toNat (f (ln.rv a.toNat) (ln.rv b.toNat)))
/-- `op sD, sA, sB`. -/
def U3 (mk : Guard → Reg → Reg → Reg → Instr) (f : W64 → W64 → W64) : Prop :=
  ∀ q d a b, UniGives (mk q d a b) q (fun _ u => u.ws d.toNat (f (u.rs a.toNat) (u.rs b.toNat)))
/-- `op qD, sA, sB`. -/
def UQ3 (mk : Guard → PReg → Reg → Reg → Instr) (f : W64 → W64 → Bool) : Prop :=
  ∀ q d a b, UniGives (mk q d a b) q (fun _ u => u.wq d (f (u.rs a.toNat) (u.rs b.toNat)))

/-- Shifts of R161, R168 and R174 by a count n of any size, over w bits. -/
def shlExact (w : Nat) (x : BitVec w) (n : Nat) : BitVec w := if n < w then BitVec.ofNat w (x.toNat * 2 ^ n) else 0
def shrExact (w : Nat) (x : BitVec w) (n : Nat) : BitVec w := if n < w then BitVec.ofNat w (x.toNat / 2 ^ n) else 0
def sarExact (w : Nat) (x : BitVec w) (n : Nat) : BitVec w :=
  if n < w then BitVec.ofInt w (x.toInt / (2 : Int) ^ n) else if x.toInt < 0 then BitVec.allOnes w else 0
/-- Rotate left by n < w (R166, R176). -/
def rolExact (w : Nat) (x : BitVec w) (n : Nat) : BitVec w :=
  if n = 0 then x else BitVec.ofNat w (x.toNat * 2 ^ n + x.toNat / 2 ^ (w - n))

end Sys2Proof.Machine

open Sys2Proof Sys2Proof.Machine

/-- R161: the IALU instructions, with results modulo 2^32. R162, R163: multiplication, counts, bit reversal and bit fields. The control of BFX and BFI is vB: START bits 5:0, WIDTH bits 13:8, SX bit 16. -/
def Obligations.IntegerArithmeticResults : Prop :=
  (
  V3 .add (fun x y => BitVec.ofNat 32 (x.toNat + y.toNat)) ∧
  V3 .sub (fun x y => BitVec.ofInt 32 ((x.toNat : Int) - y.toNat)) ∧
  V3 .and (fun x y => x &&& y) ∧ V3 .or (fun x y => x ||| y) ∧ V3 .xor (fun x y => x ^^^ y) ∧ V3 .andn (fun x y => x &&& ~~~y) ∧
  V3 .shl (fun x y => shlExact 32 x y.toNat) ∧ V3 .shr (fun x y => shrExact 32 x y.toNat) ∧ V3 .sar (fun x y => sarExact 32 x y.toNat) ∧
  V3 .min (fun x y => BitVec.ofInt 32 (min x.toInt y.toInt)) ∧ V3 .max (fun x y => BitVec.ofInt 32 (max x.toInt y.toInt)) ∧
  V3 .minui (fun x y => BitVec.ofNat 32 (min x.toNat y.toNat)) ∧ V3 .maxui (fun x y => BitVec.ofNat 32 (max x.toNat y.toNat)) ∧
  V2 .abs (fun x => BitVec.ofInt 32 |x.toInt|) ∧ V2 .neg (fun x => BitVec.ofInt 32 (-x.toInt))) ∧
  (
  V3 .mul (fun x y => BitVec.ofNat 32 (x.toNat * y.toNat)) ∧
  V3 .mulhi (fun x y => (BitVec.ofInt 64 (x.toInt * y.toInt)).extractLsb' 32 32) ∧
  V3 .mulhiu (fun x y => (BitVec.ofNat 64 (x.toNat * y.toNat)).extractLsb' 32 32) ∧
  V4 .mad (fun x y z => BitVec.ofNat 32 (x.toNat * y.toNat + z.toNat)) ∧
  V2 .popc (fun x => BitVec.ofNat 32 ((List.range 32).map (fun i => (x.getLsbD i).toNat)).sum) ∧
  V2 .clz (fun x => BitVec.ofNat 32 ((List.range 32).findIdx (fun i => x.getLsbD (31 - i)))) ∧
  V2 .brev (fun x => x.reverse) ∧
  (∀ g d a b, LaneGives (.bfx g d a b) g (fun _ ln =>
    let y := ln.rv b.toNat
    let f := (ln.rv2 a.toNat).extractLsb' (y.extractLsb' 0 6).toNat (min (y.extractLsb' 8 6).toNat 32)
    ln.wv d.toNat (if y.getLsbD 16 then f.signExtend 32 else f.setWidth 32))) ∧
  V4 .bfi (fun x y z =>
    let start := (y.extractLsb' 0 6).toNat
    let mask := BitVec.ofNat 32 ((2 ^ min (y.extractLsb' 8 6).toNat 32 - 1) * 2 ^ start)
    (z &&& ~~~mask) ||| (BitVec.ofNat 32 (x.toNat * 2 ^ start) &&& mask)))

/-- R164, R145: compares and predicate logic. A write to p7 is discarded and p7 reads 1, whatever was written. R165, R166, R167: the immediate forms. k is the sign-extended IMM11, or the 32 bits that an IMM prefix gives: its payload above IMM11 (R148). -/
def Obligations.CompareAndImmediateResults : Prop :=
  (
  P3 .icmpEq (fun x y => decide (x.toInt = y.toInt)) ∧ P3 .icmpNe (fun x y => decide (x.toInt ≠ y.toInt)) ∧
  P3 .icmpLt (fun x y => decide (x.toInt < y.toInt)) ∧ P3 .icmpLe (fun x y => decide (x.toInt ≤ y.toInt)) ∧
  P3 .icmpGt (fun x y => decide (x.toInt > y.toInt)) ∧ P3 .icmpGe (fun x y => decide (x.toInt ≥ y.toInt)) ∧
  P3 .icmpLtui (fun x y => decide (x.toNat < y.toNat)) ∧ P3 .icmpLeui (fun x y => decide (x.toNat ≤ y.toNat)) ∧
  P3 .icmpGtui (fun x y => decide (x.toNat > y.toNat)) ∧ P3 .icmpGeui (fun x y => decide (x.toNat ≥ y.toNat)) ∧
  PP3 .pand (fun x y => x && y) ∧ PP3 .por (fun x y => x || y) ∧ PP3 .pxor (fun x y => x ^^ y) ∧ PP3 .pandn (fun x y => x && !y) ∧
  (∀ g d a, LaneGives (.pnot g d a) g (fun _ ln => ln.wp d (!ln.rp a))) ∧
  (∀ g d a, LaneGives (.p2v g d a) g (fun _ ln => ln.wv d.toNat (if ln.rp a then 1 else 0))) ∧
  (∀ g d a, LaneGives (.v2p g d a) g (fun _ ln => ln.wp d (decide (ln.rv a.toNat ≠ 0)))) ∧
  (∀ (ln : Lane) (k j : PReg) (b : Bool), (ln.wp k b).rp j = if j = 7 then true else if j = k then b else ln.rp j) ∧
  (∀ (ln : Lane) (b : Bool), ln.wp 7 b = ln)) ∧
  (
  (∀ (mk : Guard → Reg → Reg → BitVec 11 → Instr) (f : W32 → W32 → W32),
    (mk, f) ∈ [(Instr.addi, fun (x k : W32) => BitVec.ofNat 32 (x.toNat + k.toNat)), (Instr.andi, fun x k => x &&& k),
               (Instr.ori, fun x k => x ||| k), (Instr.xori, fun x k => x ^^^ k)] →
    ∀ g d a i, LaneGives (mk g d a i) g (fun p ln => ln.wv d.toNat (f (ln.rv a.toNat) (match p.imm with
      | some q => BitVec.ofNat 32 (q.toNat * 2 ^ 11 + i.toNat)
      | none => BitVec.ofInt 32 i.toInt)))) ∧
  (∀ (mk : Guard → Reg → Reg → BitVec 5 → Instr) (f : W32 → Nat → W32),
    (mk, f) ∈ [(Instr.shli, shlExact 32), (Instr.shri, shrExact 32), (Instr.sari, sarExact 32), (Instr.roli, rolExact 32)] →
    ∀ g d a n, LaneGives (mk g d a n) g (fun _ ln => ln.wv d.toNat (f (ln.rv a.toNat) n.toNat))) ∧
  (∀ g d i, LaneGives (.mov16 g d i) g (fun p ln => ln.wv d.toNat (match p.imm with
    | some q => BitVec.ofNat 32 (q.toNat * 2 ^ 16 + i.toNat)
    | none => BitVec.ofInt 32 i.toInt))) ∧
  (∀ g d i, LaneGives (.mov16Hi g d i) g (fun _ ln => ln.wv d.toNat (BitVec.ofNat 32 (i.toNat * 2 ^ 16 + (ln.rv d.toNat).toNat % 2 ^ 16)))))

/-- R168, R169: the PAIR instructions, MOV and SEL. PADD never carries into bits 63:32. R170 to R173: the exchange words. Every read precedes every write; a source that is not active gives the lane's own vA. -/
def Obligations.PairMoveAndExchangeResults : Prop :=
  (
  D3 .add64 (fun x y => BitVec.ofNat 64 (x.toNat + y.toNat)) ∧ D3 .sub64 (fun x y => BitVec.ofInt 64 ((x.toNat : Int) - y.toNat)) ∧
  DV .padd (fun x y => BitVec.ofNat 64 (x.toNat / 2 ^ 32 * 2 ^ 32 + (x.toNat % 2 ^ 32 + y.toNat) % 2 ^ 32)) ∧
  DV .shl64 (fun x y => shlExact 64 x y.toNat) ∧ DV .shr64 (fun x y => shrExact 64 x y.toNat) ∧ DV .sar64 (fun x y => sarExact 64 x y.toNat) ∧
  DW .mulw (fun x y => BitVec.ofInt 64 (x.toInt * y.toInt)) ∧ DW .mulwui (fun x y => BitVec.ofNat 64 (x.toNat * y.toNat)) ∧
  (∀ g d a, LaneGives (.mov64 g d a) g (fun _ ln => ln.wv2 d.toNat (ln.rv2 a.toNat))) ∧
  V2 .mov (fun x => x) ∧
  (∀ g d a b k, LaneGives (.sel g d a b k) g (fun _ ln => ln.wv d.toNat (if ln.rp k then ln.rv a.toNat else ln.rv b.toNat))) ∧
  (∀ (ln : Lane) (r : Nat) (x : W64), (ln.wv2 r x).rv r = x.extractLsb' 0 32 ∧ (ln.wv2 r x).rv (r + 1) = x.extractLsb' 32 32 ∧ (ln.wv2 r x).rv2 r = x)) ∧
  (
  let bits (ls : List Nat) : BitVec 8 := BitVec.ofNat 8 (((List.range 8).filter (· ∈ ls)).map (2 ^ ·)).sum
  (∀ (mk : Guard → Reg → Reg → Reg → Instr) (src : Nat → Nat → Nat),
    (mk, src) ∈ [(Instr.pick, fun (_ n : Nat) => n % 8), (Instr.rotu, fun l n => (((l : Int) - n) % 8).toNat), (Instr.rotd, fun l n => (l + n) % 8),
                 (Instr.bfly, fun l n => l ^^^ (n % 8))] →
    ∀ g d a b s iss c k x, CourseIssues s iss c k x → (∀ l ∈ iss.mask, l < 8) → ∃ t y, exec (mk g d a b) s = .next t ∧ OnlyCourse s t c k ∧
      t.course? c k = some y ∧ CourseAfter s iss false x.u x y (fun l ln =>
        { (if ln.rp g then
            (let j := src l (ln.rv b.toNat).toNat
             ln.wv d.toNat (if j ∈ iss.mask ∧ (x.lane j).rp g then (x.lane j).rv a.toNat else ln.rv a.toNat)) else ln) with pc := iss.next })) ∧
  (∀ g d a, ExchGives (.lany g d a) g (fun act old _ ln => ln.wp d (bits (act.filter (fun j => (old j).rp a)) != 0))) ∧
  (∀ g d a, ExchGives (.lall g d a) g (fun act old _ ln => ln.wp d (bits (act.filter (fun j => (old j).rp a)) == bits act))) ∧
  (∀ g d a, ExchGives (.lmask g d a) g (fun act old _ ln => ln.wv d.toNat ((bits act ++ bits (act.filter (fun j => (old j).rp a))).setWidth 32))) ∧
  (∀ (mk : Guard → Reg → Reg → Instr) (f : W32 → W32 → W32),
    (mk, f) ∈ [(Instr.combAdd, fun (x y : W32) => BitVec.ofNat 32 (x.toNat + y.toNat)), (Instr.combMin, fun x y => BitVec.ofInt 32 (min x.toInt y.toInt)),
               (Instr.combMax, fun x y => BitVec.ofInt 32 (max x.toInt y.toInt)), (Instr.combMinui, fun x y => BitVec.ofNat 32 (min x.toNat y.toNat)),
               (Instr.combMaxui, fun x y => BitVec.ofNat 32 (max x.toNat y.toNat)), (Instr.combAnd, fun x y => x &&& y),
               (Instr.combOr, fun x y => x ||| y), (Instr.combXor, fun x y => x ^^^ y)] →
    ∀ g d a, ExchGives (mk g d a) g (fun act old _ ln => match act with
      | [] => ln
      | l :: ls => ln.wv d.toNat (ls.foldl (fun v j => f v ((old j).rv a.toNat)) ((old l).rv a.toNat)))))

/-- R174, R175: the uniform integer instructions, compares and predicate logic, for a course and for a batten job. R176, R177, R178: the uniform immediate forms and moves, READLANE and BCAST. BCAST writes the lanes of its issue mask and no other. -/
def Obligations.UniformIntegerResults : Prop :=
  (
  U3 .uadd (fun x y => BitVec.ofNat 64 (x.toNat + y.toNat)) ∧ U3 .usub (fun x y => BitVec.ofInt 64 ((x.toNat : Int) - y.toNat)) ∧
  U3 .uand (fun x y => x &&& y) ∧ U3 .uor (fun x y => x ||| y) ∧ U3 .uxor (fun x y => x ^^^ y) ∧
  U3 .ushl (fun x y => shlExact 64 x y.toNat) ∧ U3 .ushr (fun x y => shrExact 64 x y.toNat) ∧ U3 .usar (fun x y => sarExact 64 x y.toNat) ∧
  U3 .umin (fun x y => BitVec.ofInt 64 (min x.toInt y.toInt)) ∧ U3 .umax (fun x y => BitVec.ofInt 64 (max x.toInt y.toInt)) ∧
  U3 .uminui (fun x y => BitVec.ofNat 64 (min x.toNat y.toNat)) ∧ U3 .umaxui (fun x y => BitVec.ofNat 64 (max x.toNat y.toNat)) ∧
  U3 .umul (fun x y => BitVec.ofNat 64 (x.toNat * y.toNat)) ∧
  U3 .umulhi (fun x y => (BitVec.ofInt 128 (x.toInt * y.toInt)).extractLsb' 64 64) ∧
  U3 .umulhiu (fun x y => (BitVec.ofNat 128 (x.toNat * y.toNat)).extractLsb' 64 64) ∧
  UQ3 .ucmpEq (fun x y => decide (x.toInt = y.toInt)) ∧ UQ3 .ucmpNe (fun x y => decide (x.toInt ≠ y.toInt)) ∧
  UQ3 .ucmpLt (fun x y => decide (x.toInt < y.toInt)) ∧ UQ3 .ucmpLe (fun x y => decide (x.toInt ≤ y.toInt)) ∧
  UQ3 .ucmpGt (fun x y => decide (x.toInt > y.toInt)) ∧ UQ3 .ucmpGe (fun x y => decide (x.toInt ≥ y.toInt)) ∧
  UQ3 .ucmpLtui (fun x y => decide (x.toNat < y.toNat)) ∧ UQ3 .ucmpLeui (fun x y => decide (x.toNat ≤ y.toNat)) ∧
  UQ3 .ucmpGtui (fun x y => decide (x.toNat > y.toNat)) ∧ UQ3 .ucmpGeui (fun x y => decide (x.toNat ≥ y.toNat)) ∧
  (∀ (mk : Guard → PReg → PReg → PReg → Instr) (f : Bool → Bool → Bool),
    (mk, f) ∈ [(Instr.qand, fun x y => x && y), (Instr.qor, fun x y => x || y), (Instr.qxor, fun x y => x ^^ y), (Instr.qandn, fun x y => x && !y)] →
    ∀ q d a b, UniGives (mk q d a b) q (fun _ u => u.wq d (f (u.rq a) (u.rq b)))) ∧
  (∀ q d a, UniGives (.qnot q d a) q (fun _ u => u.wq d (!u.rq a))) ∧
  (∀ (u : Uni) (k j : PReg) (b : Bool), (u.wq k b).rq j = if j = 7 then true else if j = k then b else u.rq j) ∧ (∀ (u : Uni) (b : Bool), u.wq 7 b = u)) ∧
  (
  (∀ (mk : Guard → Reg → Reg → BitVec 10 → Instr) (f : W64 → W64 → W64),
    (mk, f) ∈ [(Instr.uaddi, fun (x k : W64) => BitVec.ofNat 64 (x.toNat + k.toNat)), (Instr.uandi, fun x k => x &&& k),
               (Instr.uori, fun x k => x ||| k), (Instr.uxori, fun x k => x ^^^ k)] →
    ∀ q d a i, UniGives (mk q d a i) q (fun p u => u.ws d.toNat (f (u.rs a.toNat) (match p.imm with
      | some y => BitVec.ofInt 64 (BitVec.ofNat 32 (y.toNat * 2 ^ 10 + i.toNat)).toInt
      | none => BitVec.ofInt 64 i.toInt)))) ∧
  (∀ (mk : Guard → Reg → Reg → BitVec 6 → Instr) (f : W64 → Nat → W64),
    (mk, f) ∈ [(Instr.ushli, shlExact 64), (Instr.ushri, shrExact 64), (Instr.usari, sarExact 64), (Instr.uroli, rolExact 64)] →
    ∀ q d a n, UniGives (mk q d a n) q (fun _ u => u.ws d.toNat (f (u.rs a.toNat) n.toNat))) ∧
  (∀ q d i, UniGives (.umov16 q d i) q (fun p u => u.ws d.toNat (match p.imm with
    | some y => BitVec.ofInt 64 (BitVec.ofNat 38 (y.toNat * 2 ^ 16 + i.toNat)).toInt
    | none => BitVec.ofInt 64 i.toInt))) ∧
  (∀ q d i, UniGives (.umovk q d i) q (fun _ u => u.ws d.toNat (BitVec.ofNat 64 ((u.rs d.toNat).toNat * 2 ^ 16 + i.toNat)))) ∧
  (∀ q d a, UniGives (.umov q d a) q (fun _ u => u.ws d.toNat (u.rs a.toNat))) ∧
  (∀ q d a b s iss c k x, CourseIssues s iss c k x → ∃ t y, exec (.readlane q d a b) s = .next t ∧ OnlyCourse s t c k ∧ t.course? c k = some y ∧
    CourseAfter s iss true (if x.u.rq q then x.u.ws d.toNat (BitVec.ofNat 64 ((x.lane ((x.u.rs b.toNat).toNat % 8)).rv a.toNat).toNat) else x.u) x y
      (fun _ ln => { ln with pc := iss.next })) ∧
  (∀ q d a s iss c k x, CourseIssues s iss c k x → ∃ t y, exec (.bcast q d a) s = .next t ∧ OnlyCourse s t c k ∧ t.course? c k = some y ∧
    CourseAfter s iss true x.u x y
      (fun _ ln => { (if x.u.rq q then ln.wv d.toNat ((x.u.rs a.toNat).extractLsb' 0 32) else ln) with pc := iss.next })))

namespace Sys2Proof.Machine

/-! ## Floating point: exact values as rationals -/

/-- The value of a finite datum (R121). -/
def ratOf : FV → ℚ
  | .fin s m e => (if s then -1 else 1) * (m : ℚ) * (2 : ℚ) ^ e
  | _ => 0
/-- Less by value, over values and infinities; false with a NaN (R182). -/
def lessV : FV → FV → Prop
  | .fin s m e, .fin t n f => ratOf (.fin s m e) < ratOf (.fin t n f)
  | .fin _ _ _, .inf t => t = false
  | .inf s, .fin _ _ _ => s = true
  | .inf s, .inf t => s = true ∧ t = false
  | _, _ => False
/-- The value of a finite code, by the formulas of R121. -/
def codeVal (K : Type) [Field K] (F : Fmt) (c : Nat) : K :=
  let E := c / 2 ^ F.m % 2 ^ F.e
  let f : K := ((c % 2 ^ F.m : Nat) : K) / 2 ^ F.m
  (if c / 2 ^ (F.e + F.m) % 2 = 1 then -1 else 1) * (if E = 0 then 2 ^ (1 - (F.bias : Int)) * f else 2 ^ ((E : Int) - F.bias) * (1 + f))
/-- How a magnitude x ≥ 0 and its rounded value v, of sign s, stand under a mode, in units u (R128). -/
def RoundedIn {K : Type} [Field K] [LinearOrder K] (mode : BitVec 2) (s : Bool) (x v u : K) : Prop :=
  (mode = 0 → |v - x| ≤ u / 2) ∧ (mode = 1 → v ≤ x ∧ x < v + u) ∧
  (mode = 2 → if s then x ≤ v ∧ v < x + u else v ≤ x ∧ x < v + u) ∧ (mode = 3 → if s then v ≤ x ∧ x < v + u else x ≤ v ∧ v < x + u)
/-- u is the spacing of the values of F at a magnitude x > 0, that of the subnormals included. -/
def SpacingAt {K : Type} [Field K] [LinearOrder K] (F : Fmt) (x u : K) : Prop :=
  ∃ j : Int, 2 ^ j ≤ x ∧ x < 2 ^ (j + 1) ∧ u = 2 ^ max (j - F.m) (1 - (F.bias : Int) - F.m)
/-- c is a finite code of F with the sign of x. -/
def FiniteLike {K : Type} [Field K] [LinearOrder K] (F : Fmt) (x : K) (c : Nat) : Prop :=
  c / 2 ^ (F.e + F.m) = (if x < 0 then 1 else 0) ∧ c % 2 ^ (F.e + F.m) ≤ F.maxCode
/-- c is the non-zero value x of F's finite range, rounded under the mode, a tie to the even code (R128, R129). -/
def RoundsFinite {K : Type} [Field K] [LinearOrder K] (F : Fmt) (mode : BitVec 2) (x : K) (c : Nat) : Prop :=
  FiniteLike F x c ∧ ∃ u : K, SpacingAt F |x| u ∧ RoundedIn mode (decide (x < 0)) |x| |codeVal K F c| u ∧
    (mode = 0 → 2 * abs (abs (codeVal K F c) - abs x) = u → c % 2 = 0)
/-- c is the non-zero value x rounded once into FP32, BF16 or FP16, with the overflow table of R130: from half a unit above the largest finite value under
RNE, else above it. -/
def RoundsOnce {K : Type} [Field K] [LinearOrder K] (F : Fmt) (mode : BitVec 2) (x : K) (c : Nat) : Prop :=
  let M : K := codeVal K F F.maxCode
  let U : K := M - codeVal K F (F.maxCode - 1)
  let sign := F.sign (decide (x < 0))
  (|x| ≤ M → RoundsFinite F mode x c) ∧
  (M < |x| → (mode = 0 → c = sign + if 2 * |x| < 2 * M + U then F.maxCode else F.infCode) ∧ (mode = 1 → c = sign + F.maxCode) ∧
    (mode = 2 → c = sign + if x < 0 then F.infCode else F.maxCode) ∧ (mode = 3 → c = sign + if x < 0 then F.maxCode else F.infCode))
/-- c is the non-zero value x converted to E4M3 or E5M2, which saturate in every mode (R132). -/
def RoundsSaturating (F : Fmt) (mode : BitVec 2) (x : ℚ) (c : Nat) : Prop :=
  (|x| ≤ codeVal ℚ F F.maxCode → RoundsFinite F mode x c) ∧ (codeVal ℚ F F.maxCode < |x| → c = F.sign (decide (x < 0)) + F.maxCode)
/-- c is the non-zero value x converted stochastically with the random word r (R133, R185). -/
def RoundsStochastic (F : Fmt) (r : Nat) (x : ℚ) (c : Nat) : Prop :=
  ∃ u : ℚ, SpacingAt F |x| u ∧
    let n := ⌊|x| / u⌋₊
    let up := 2 ^ 32 ≤ ⌊(|x| / u - n) * 2 ^ 32⌋₊ + r
    let mag : ℚ := (if up then n + 1 else n) * u
    (mag ≤ codeVal ℚ F F.maxCode → FiniteLike F x c ∧ |codeVal ℚ F c| = mag) ∧
    (codeVal ℚ F F.maxCode < mag → c = F.sign (decide (x < 0)) + if F = e4m3 ∨ F = e5m2 then F.maxCode else F.infCode)
/-- n is y rounded to an integer under the mode (R128). -/
def RoundsToInt (mode : BitVec 2) (y : ℚ) (n : Int) : Prop :=
  (mode = 0 → |(n : ℚ) - y| ≤ 1 / 2 ∧ (|(n : ℚ) - y| = 1 / 2 → n % 2 = 0)) ∧ (mode = 1 → n = if y < 0 then ⌈y⌉ else ⌊y⌋) ∧
  (mode = 2 → n = ⌊y⌋) ∧ (mode = 3 → n = ⌈y⌉)

/-- `op vD, vA, vB` under the instruction's mode: the ROUND prefix's, else RNE (R128, R148). -/
def F3 (mk : Guard → Reg → Reg → Reg → Instr) (f : BitVec 2 → Nat → Nat → Nat) : Prop :=
  ∀ g d a b, LaneGives (mk g d a b) g (fun p ln =>
    ln.wv d.toNat (BitVec.ofNat 32 (f (p.round.getD 0) (ln.rv a.toNat).toNat (ln.rv b.toNat).toNat)))
/-- `op vD, vA, vB, vC` under the instruction's mode. -/
def F4 (mk : Guard → Reg → Reg → Reg → Instr) (f : BitVec 2 → Nat → Nat → Nat → Nat) : Prop :=
  ∀ g d a b, LaneGives (mk g d a b) g (fun p ln => ln.wv d.toNat (BitVec.ofNat 32 (f (p.round.getD 0)
    (ln.rv a.toNat).toNat (ln.rv b.toNat).toNat (ln.rv (match p.opnd with | some c => c.toNat | none => d.toNat)).toNat)))
/-- An operation on element 0 and element 1, each by itself (R131, R183). -/
def each2 (f : Nat → Nat → Nat) (x y : Nat) : Nat := f (x % 2 ^ 16) (y % 2 ^ 16) + 2 ^ 16 * f (x / 2 ^ 16) (y / 2 ^ 16)
def each3 (f : Nat → Nat → Nat → Nat) (x y z : Nat) : Nat :=
  f (x % 2 ^ 16) (y % 2 ^ 16) (z % 2 ^ 16) + 2 ^ 16 * f (x / 2 ^ 16) (y / 2 ^ 16) (z / 2 ^ 16)
/-- vA read as FP32. -/
def f32 (x : W32) : FV := unpackF fp32 x.toNat

end Sys2Proof.Machine

/-- R180, R181, R183, R184 (operands and destinations): every arithmetic, sign, minimum, packed and special-function word of the lanes writes the value of
its operation on its operands, under its own mode. What the operations compute on codes is stated by the statements on rounding, arithmetic, special
values and square roots; of EXP2, LOG2, SIN, COS and TANH on other than special and exact operands no statement gives the value (log 18). R182: FP32 compares, by value with −0 equal to +0; with a NaN only NE and UNORD hold. -/
def Obligations.FloatingWordResults : Prop :=
  (
  (∀ mk f, (mk, f) ∈ [(Instr.fadd, addF fp32), (Instr.fsub, subF fp32), (Instr.fmul, mulF fp32),
      (Instr.fmin, fun _ => minF fp32 false), (Instr.fmax, fun _ => minF fp32 true),
      (Instr.addF16x2, fun m => each2 (addF fp16 m)), (Instr.subF16x2, fun m => each2 (subF fp16 m)), (Instr.mulF16x2, fun m => each2 (mulF fp16 m)),
      (Instr.minF16x2, fun _ => each2 (minF fp16 false)), (Instr.maxF16x2, fun _ => each2 (minF fp16 true)),
      (Instr.addBf16x2, fun m => each2 (addF bf16 m)), (Instr.subBf16x2, fun m => each2 (subF bf16 m)), (Instr.mulBf16x2, fun m => each2 (mulF bf16 m)),
      (Instr.minBf16x2, fun _ => each2 (minF bf16 false)), (Instr.maxBf16x2, fun _ => each2 (minF bf16 true))] → F3 mk f) ∧
  (∀ mk f, (mk, f) ∈ [(Instr.ffma, fmaF fp32), (Instr.fmaF16x2, fun m => each3 (fmaF fp16 m)), (Instr.fmaBf16x2, fun m => each3 (fmaF bf16 m))] →
    F4 mk f) ∧
  V2 .fabs (fun x => BitVec.ofNat 32 (x.toNat % 2 ^ 31)) ∧ V2 .fneg (fun x => x ^^^ 0x80000000#32) ∧
  V3 .fcpys (fun x y => BitVec.ofNat 32 (x.toNat % 2 ^ 31 + y.toNat / 2 ^ 31 * 2 ^ 31)) ∧
  (∀ (mk : Guard → Reg → Reg → BitVec 4 → Instr) (f : BitVec 2 → FV → Nat),
    (mk, f) ∈ [(Instr.rcp, rcpF), (Instr.rsq, rsqF), (Instr.sqrt, sqrtF), (Instr.exp2, exp2F), (Instr.log2, log2F), (Instr.sin, sinF), (Instr.cos, cosF),
               (Instr.tanh, tanhF)] →
    ∀ g d a n, LaneGives (mk g d a n) g (fun p ln => ln.wv d.toNat (BitVec.ofNat 32 (f (p.round.getD 0) (f32 (ln.rv a.toNat))))))) ∧
  (
  ∀ (mk : Guard → PReg → Reg → Reg → Instr) (rel : FV → FV → Prop),
    (mk, rel) ∈ [(Instr.fcmpLt, fun x y => lessV x y), (Instr.fcmpGt, fun x y => lessV y x),
      (Instr.fcmpEq, fun x y => isNan x = false ∧ isNan y = false ∧ ¬ lessV x y ∧ ¬ lessV y x),
      (Instr.fcmpNe, fun x y => isNan x = true ∨ isNan y = true ∨ lessV x y ∨ lessV y x),
      (Instr.fcmpLe, fun x y => isNan x = false ∧ isNan y = false ∧ ¬ lessV y x), (Instr.fcmpGe, fun x y => isNan x = false ∧ isNan y = false ∧ ¬ lessV x y),
      (Instr.fcmpUnord, fun x y => isNan x = true ∨ isNan y = true), (Instr.fcmpOrd, fun x y => isNan x = false ∧ isNan y = false)] →
    ∀ (g : Guard) (d : PReg) (a b : Reg), ∃ r : W32 → W32 → Bool, (∀ x y, r x y = true ↔ rel (f32 x) (f32 y)) ∧
      LaneGives (mk g d a b) g (fun _ ln => ln.wp d (r (ln.rv a.toNat) (ln.rv b.toNat))))

/-- R120, R128, R130: what each mode makes of an exact magnitude m × 2^e. A whole number of units 2^q; and a code of each format: nearest, with a tie to
the even code, toward zero, down, up; beyond the largest finite value the table of R130. R123, R129, R130: a sum, difference, product and fused product of finite operands is the exact result rounded once; an exact zero has the sign R129
gives; a NaN operand gives the first one, quieted; an invalid operation gives the canonical NaN. -/
def Obligations.RoundingAndArithmetic : Prop :=
  (
  (fp32.maxCode = 0x7F7FFFFF ∧ bf16.maxCode = 0x7F7F ∧ fp16.maxCode = 0x7BFF ∧ e4m3.maxCode = 0x7E ∧ e5m2.maxCode = 0x7B ∧
    fp32.infCode = 0x7F800000 ∧ bf16.infCode = 0x7F80 ∧ fp16.infCode = 0x7C00) ∧
  (∀ F ∈ [fp32, bf16, fp16, e4m3, e5m2], ∀ (c : Nat) s m e, unpackF F c = .fin s m e → codeVal ℚ F c = ratOf (.fin s m e)) ∧
  (∀ (mode : BitVec 2) (s : Bool) (m : Nat) (e q : Int), RoundedIn mode s ((m : ℚ) * 2 ^ e) (((roundTo mode s m e q false : Nat) : ℚ) * 2 ^ q) ((2 : ℚ) ^ q) ∧
    (mode = 0 → 2 * |((roundTo mode s m e q false : Nat) : ℚ) * 2 ^ q - (m : ℚ) * 2 ^ e| = (2 : ℚ) ^ q → roundTo mode s m e q false % 2 = 0)) ∧
  (∀ F ∈ [fp32, bf16, fp16], ∀ (mode : BitVec 2) (s : Bool) (m : Nat) (e : Int), m ≠ 0 → RoundsOnce F mode (ratOf (.fin s m e)) (roundF F mode s m e false))) ∧
  (
  ∀ F ∈ [fp32, bf16, fp16], ∀ (mode : BitVec 2) (a b c : Nat),
    let x := unpackF F a
    let y := unpackF F b
    let z := unpackF F c
    (∀ s m e t n f, x = .fin s m e → y = .fin t n f →
      (ratOf x + ratOf y ≠ 0 → RoundsOnce F mode (ratOf x + ratOf y) (addF F mode a b)) ∧
      (ratOf x - ratOf y ≠ 0 → RoundsOnce F mode (ratOf x - ratOf y) (subF F mode a b)) ∧
      (ratOf x * ratOf y ≠ 0 → RoundsOnce F mode (ratOf x * ratOf y) (mulF F mode a b)) ∧
      (ratOf x * ratOf y = 0 → mulF F mode a b = F.sign (s != t)) ∧
      (ratOf x + ratOf y = 0 → addF F mode a b = F.sign (if m = 0 ∧ s = t then s else decide (mode = 2))) ∧
      (ratOf x - ratOf y = 0 → subF F mode a b = F.sign (if m = 0 ∧ s ≠ t then s else decide (mode = 2))) ∧
      (∀ u k g, z = .fin u k g → ratOf x * ratOf y + ratOf z ≠ 0 → RoundsOnce F mode (ratOf x * ratOf y + ratOf z) (fmaF F mode a b c))) ∧
    (∀ s f, x = .nan s f → addF F mode a b = quietF F s f ∧ subF F mode a b = quietF F s f ∧ mulF F mode a b = quietF F s f ∧
      fmaF F mode a b c = quietF F s f) ∧
    (∀ s f, isNan x = false → y = .nan s f → addF F mode a b = quietF F s f ∧ subF F mode a b = quietF F s f ∧ mulF F mode a b = quietF F s f ∧
      fmaF F mode a b c = quietF F s f) ∧
    (∀ s f, isNan x = false → isNan y = false → z = .nan s f → fmaF F mode a b c = quietF F s f) ∧
    (∀ s, x = .inf s → y = .inf (!s) → addF F mode a b = F.canon) ∧ (∀ s, x = .inf s → y = .inf s → subF F mode a b = F.canon) ∧
    (∀ s t e, x = .inf s → y = .fin t 0 e → mulF F mode a b = F.canon ∧ (isNan z = false → fmaF F mode a b c = F.canon)))

/-- R181, R184: FMIN and FMAX return one operand's bits, with −0 below +0; the special values of the special functions, in every mode; RCP, SQRT and RSQ
of every operand; EXP2, LOG2, SIN and COS where the result is exact. Their other values, and TANH's, are no part of it (log 18). R132, R133, R185: the scalar conversions, the sources and destinations of each, what a conversion to an integer clamps to, and what a conversion to a
float makes of finite values, zeros, infinities and NaNs, rounded or stochastic. -/
def Obligations.SpecialValueAndConversionResults : Prop :=
  (
  (∀ (hi : Bool) (a b : Nat),
    let x := unpackF fp32 a
    let y := unpackF fp32 b
    (∀ s f, x = .nan s f → isNan y = true → minF fp32 hi a b = quietF fp32 s f) ∧ (isNan x = true → isNan y = false → minF fp32 hi a b = b) ∧
    (isNan x = false → isNan y = true → minF fp32 hi a b = a) ∧
    (lessV x y → minF fp32 hi a b = if hi then b else a) ∧ (lessV y x → minF fp32 hi a b = if hi then a else b) ∧
    (isNan x = false → isNan y = false → ¬ lessV x y → ¬ lessV y x →
      minF fp32 hi a b = if signV x = signV y then a else if signV x = hi then b else a)) ∧
  (∀ (mode : BitVec 2) (s : Bool) (e : Int) (f : Nat),
    (rcpF mode (.fin s 0 e) = fp32.sign s + fp32.infCode ∧ rcpF mode (.inf s) = fp32.sign s) ∧
    (rsqF mode (.fin s 0 e) = fp32.sign s + fp32.infCode ∧ rsqF mode (.inf false) = 0 ∧ rsqF mode (.inf true) = fp32.canon) ∧
    (sqrtF mode (.fin s 0 e) = fp32.sign s ∧ sqrtF mode (.inf false) = fp32.infCode ∧ sqrtF mode (.inf true) = fp32.canon) ∧
    (exp2F mode (.inf true) = 0 ∧ exp2F mode (.inf false) = fp32.infCode) ∧
    (log2F mode (.fin s 0 e) = fp32.sign true + fp32.infCode ∧ log2F mode (.inf false) = fp32.infCode ∧ log2F mode (.inf true) = fp32.canon ∧
      log2F mode (f32 0x3F800000) = 0) ∧
    (sinF mode (.inf s) = fp32.canon ∧ cosF mode (.inf s) = fp32.canon) ∧
    (tanhF mode (.inf s) = fp32.sign s + 0x3F800000 ∧ tanhF mode (.fin s 0 e) = fp32.sign s) ∧
    (∀ m, m ≠ 0 → sqrtF mode (.fin true m e) = fp32.canon ∧ rsqF mode (.fin true m e) = fp32.canon ∧ log2F mode (.fin true m e) = fp32.canon) ∧
    (∀ h ∈ [rcpF, rsqF, sqrtF, exp2F, log2F, sinF, cosF, tanhF], h mode (.nan s f) = quietF fp32 s f)) ∧
  -- finite operands: the exact value rounded once, where it is algebraic, and where it is representable
  (∀ (mode : BitVec 2) (a : Nat) (s : Bool) (m : Nat) (e : Int), f32 (BitVec.ofNat 32 a) = .fin s m e →
    let x : ℚ := ratOf (.fin s m e)
    (m ≠ 0 → RoundsOnce fp32 mode (1 / x) (rcpF mode (.fin s m e))) ∧
    (m ≠ 0 → s = false → RoundsOnce fp32 mode (Real.sqrt x) (sqrtF mode (.fin s m e)) ∧ RoundsOnce fp32 mode (1 / Real.sqrt x) (rsqF mode (.fin s m e))) ∧
    (∀ n : Int, x = n → RoundsOnce fp32 mode ((2 : ℚ) ^ n) (exp2F mode (.fin s m e)) ∧ sinF mode (.fin s m e) = fp32.sign s ∧
      cosF mode (.fin s m e) = fp32.sign (decide (n % 2 = 1)) + 0x3F800000) ∧
    (∀ n : Int, n ≠ 0 → x = 2 ^ n → RoundsOnce fp32 mode (n : ℚ) (log2F mode (.fin s m e))) ∧
    (∀ n : Int, x = n + 1 / 2 → sinF mode (.fin s m e) = fp32.sign (decide (n % 2 = 1)) + 0x3F800000 ∧ cosF mode (.fin s m e) = 0))) ∧
  (
  (∀ g d a h, LaneGives (.cvtF32F16 g d a h) g (fun _ ln =>
    ln.wv d.toNat (BitVec.ofNat 32 (cvtV fp32 0 10 (unpackF fp16 ((ln.rv a.toNat).extractLsb' (16 * h.toNat) 16).toNat))))) ∧
  (∀ g d a h, LaneGives (.cvtF32Bf16 g d a h) g (fun _ ln =>
    ln.wv d.toNat (BitVec.ofNat 32 (cvtV fp32 0 7 (unpackF bf16 ((ln.rv a.toNat).extractLsb' (16 * h.toNat) 16).toNat))))) ∧
  F3 .cvtF16F32 (fun m x y => cvtV fp16 m 23 (unpackF fp32 x) + 2 ^ 16 * cvtV fp16 m 23 (unpackF fp32 y)) ∧
  F3 .cvtBf16F32 (fun m x y => cvtV bf16 m 23 (unpackF fp32 x) + 2 ^ 16 * cvtV bf16 m 23 (unpackF fp32 y)) ∧
  F3 .cvtF16F32Sr (fun _ x y => cvtSr fp16 y 23 (unpackF fp32 x)) ∧ F3 .cvtBf16F32Sr (fun _ x y => cvtSr bf16 y 23 (unpackF fp32 x)) ∧
  (∀ g d a, LaneGives (.cvtS32F32 g d a) g (fun p ln =>
    ln.wv d.toNat (BitVec.ofInt 32 (cvtInt (p.round.getD 0) (-2 ^ 31) (2 ^ 31 - 1) 0 (f32 (ln.rv a.toNat)))))) ∧
  (∀ g d a, LaneGives (.cvtUi32F32 g d a) g (fun p ln =>
    ln.wv d.toNat (BitVec.ofInt 32 (cvtInt (p.round.getD 0) 0 (2 ^ 32 - 1) 0 (f32 (ln.rv a.toNat)))))) ∧
  (∀ g d a, LaneGives (.cvtFxF32 g d a) g (fun p ln =>
    ln.wv4 d.toNat (BitVec.ofInt 128 (cvtInt (p.round.getD 0) (-2 ^ 127) (2 ^ 127 - 1) (-64) (f32 (ln.rv a.toNat)))))) ∧
  (∀ (mk : Guard → Reg → Reg → Instr) (v : Lane → Nat → Int) (e : Int),
    (mk, v, e) ∈ [(Instr.cvtF32S32, fun ln r => (ln.rv r).toInt, (0 : Int)), (Instr.cvtF32Ui32, fun ln r => (ln.rv r).toNat, 0),
                  (Instr.cvtF32S64, fun ln r => (ln.rv2 r).toInt, 0), (Instr.cvtF32Ui64, fun ln r => (ln.rv2 r).toNat, 0),
                  (Instr.cvtF32Fx, fun ln r => (ln.rv4 r).toInt, -64)] →
    ∀ g d a, LaneGives (mk g d a) g (fun p ln => ln.wv d.toNat (BitVec.ofNat 32
      (let x := v ln a.toNat
       if x = 0 then 0 else roundF fp32 (p.round.getD 0) (x < 0) x.natAbs e false)))) ∧
  (∀ mode lo hi q, cvtInt mode lo hi q (.inf true) = lo ∧ cvtInt mode lo hi q (.inf false) = hi ∧ (∀ s f, cvtInt mode lo hi q (.nan s f) = 0) ∧
    (∀ s m e, lo ≤ hi → ∃ n : Int, RoundsToInt mode (ratOf (.fin s m e) * 2 ^ (-q)) n ∧ cvtInt mode lo hi q (.fin s m e) = max lo (min hi n))) ∧
  -- what a conversion to a float gives: finite values, zeros and infinities
  (∀ F ∈ [fp32, bf16, fp16], ∀ mode n s m e, m ≠ 0 → RoundsOnce F mode (ratOf (.fin s m e)) (cvtV F mode n (.fin s m e))) ∧
  (∀ F ∈ [e4m3, e5m2], ∀ mode n s m e, m ≠ 0 → RoundsSaturating F mode (ratOf (.fin s m e)) (cvtV F mode n (.fin s m e))) ∧
  (∀ F ∈ [fp32, bf16, fp16, e4m3, e5m2], ∀ mode n s e, cvtV F mode n (.fin s 0 e) = F.sign s ∧
    cvtV F mode n (.inf s) = F.sign s + if F = e4m3 then 0x7E else if F = e5m2 then 0x7C else F.infCode) ∧
  -- NaNs
  (∀ mode (s : Bool) f, f < 2 ^ 23 →
    cvtV fp16 mode 23 (.nan s f) = fp16.sign s + 0x7C00 + (f / 2 ^ 13 ||| 0x200) ∧ cvtV bf16 mode 23 (.nan s f) = bf16.sign s + 0x7F80 + (f / 2 ^ 16 ||| 0x40) ∧
    cvtV e4m3 mode 23 (.nan s f) = e4m3.sign s + 0x7F ∧ cvtV e5m2 mode 23 (.nan s f) = e5m2.sign s + 0x7E ∧
    (f < 2 ^ 10 → cvtV fp32 mode 10 (.nan s f) = fp32.sign s + 0x7F800000 + (f * 2 ^ 13 ||| 0x400000)) ∧
    (f < 2 ^ 7 → cvtV fp32 mode 7 (.nan s f) = fp32.sign s + 0x7F800000 + (f * 2 ^ 16 ||| 0x400000)) ∧
    cvtV fp32 mode 3 (.nan s f) = fp32.sign s + 0x7FC00000 ∧ cvtV fp32 mode 2 (.nan s f) = fp32.sign s + 0x7FC00000) ∧
  -- the stochastic forms
  (∀ F ∈ [bf16, fp16, e4m3, e5m2], ∀ r n, (∀ s m e, m ≠ 0 → r < 2 ^ 32 → RoundsStochastic F r (ratOf (.fin s m e)) (cvtSr F r n (.fin s m e))) ∧
    (∀ s e f, cvtSr F r n (.fin s 0 e) = cvtV F 0 n (.fin s 0 e) ∧ cvtSr F r n (.inf s) = cvtV F 0 n (.inf s) ∧ cvtSr F r n (.nan s f) = cvtV F 0 n (.nan s f))))

/-- R124 to R126, R132, R186 to R188: packing four values against a scale, the HS4 codes, unpacking four, and the scale of SCX with its inverse. -/
def Obligations.PackAndScaleResults : Prop :=
  let prod (x y : FV) : FV := match firstNan fp32 [x, y] with
    | some c => unpackF fp32 c
    | none => (mulV x y).getD (unpackF fp32 fp32.canon)
  let t (a b : Reg) (ln : Lane) (j : Nat) : FV := prod (f32 (ln.rv (a.toNat + j))) (f32 (ln.rv b.toNat))
  let c (d : Reg) (p : Pfx) : Nat := match p.opnd with | some c => c.toNat | none => d.toNat
  -- HS4 (R124, R125)
  (∀ mode s f, cvtHs4 mode (.nan s f) = 0 ∧ cvtHs4 mode (.inf false) = 7 ∧ cvtHs4 mode (.inf true) = 8) ∧
  (∀ mode s m e, ∃ n : Int, RoundsToInt mode (ratOf (.fin s m e) - 1 / 2) n ∧ (cvtHs4 mode (.fin s m e) : Int) = max (-8) (min 7 n) % 16) ∧
  (∀ n, n < 16 → ∃ s m e, hs4 n = .fin s m e ∧ ratOf (.fin s m e) = (if n < 8 then (n : ℚ) else (n : ℚ) - 16) + 1 / 2) ∧
  (∀ g d a b, LaneGives (.pkE4m3 g d a b) g (fun p ln =>
    ln.wv d.toNat (BitVec.ofNat 32 ((List.range 4).map (fun j => 2 ^ (8 * j) * cvtV e4m3 (p.round.getD 0) 23 (t a b ln j))).sum))) ∧
  (∀ g d a b, LaneGives (.pkE5m2 g d a b) g (fun p ln =>
    ln.wv d.toNat (BitVec.ofNat 32 ((List.range 4).map (fun j => 2 ^ (8 * j) * cvtV e5m2 (p.round.getD 0) 23 (t a b ln j))).sum))) ∧
  (∀ g d a b, LaneGives (.pkE4m3Sr g d a b) g (fun p ln => ln.wv d.toNat (BitVec.ofNat 32
    ((List.range 4).map (fun j => 2 ^ (8 * j) * cvtSr e4m3 (rolExact 32 (ln.rv (c d p)) (8 * j)).toNat 23 (t a b ln j))).sum))) ∧
  (∀ g d a b, LaneGives (.pkE5m2Sr g d a b) g (fun p ln => ln.wv d.toNat (BitVec.ofNat 32
    ((List.range 4).map (fun j => 2 ^ (8 * j) * cvtSr e5m2 (rolExact 32 (ln.rv (c d p)) (8 * j)).toNat 23 (t a b ln j))).sum))) ∧
  (∀ g d a b, LaneGives (.pkHs4 g d a b) g (fun p ln => ln.wv d.toNat (BitVec.ofNat 32
    ((ln.rv (c d p)).toNat % 2 ^ 16 * 2 ^ 16 + ((List.range 4).map (fun j => 2 ^ (4 * j) * cvtHs4 (p.round.getD 0) (t a b ln j))).sum)))) ∧
  (∀ (mk : Guard → Reg → Reg → Reg → Instr) (e : Nat → Nat → Nat),
    (mk, e) ∈ [(Instr.upkE4m3, fun x j => cvtV fp32 0 3 (unpackF e4m3 (x / 2 ^ (8 * j) % 256))),
               (Instr.upkE5m2, fun x j => cvtV fp32 0 2 (unpackF e5m2 (x / 2 ^ (8 * j) % 256))),
               (Instr.upkHs4, fun x j => valF fp32 0 (hs4 (x / 2 ^ (4 * j) % 16)))] →
    ∀ g d a b, ∃ f : Pfx → Lane → Lane, LaneGives (mk g d a b) g f ∧ ∀ p ln,
      (∀ j, j < 4 → (f p ln).rv (d.toNat + j) = BitVec.ofNat 32 (mulF fp32 (p.round.getD 0) (e (ln.rv a.toNat).toNat j) (ln.rv b.toNat).toNat)) ∧
      (∀ r, r < d.toNat ∨ d.toNat + 4 ≤ r → (f p ln).rv r = ln.rv r) ∧ { f p ln with v := ln.v } = ln) ∧
  (∀ (mk : Guard → Reg → Reg → Instr) (M : ℚ), (mk, M) ∈ [(Instr.scxE4m3, (448 : ℚ)), (Instr.scxE5m2, 57344), (Instr.scxHs4, 15 / 2)] →
    ∀ g d a, ∃ f : Lane → Lane, LaneGives (mk g d a) g (fun _ => f) ∧ ∀ ln, { f ln with v := ln.v } = ln ∧
      (∀ r, r ≠ d.toNat → r ≠ d.toNat + 1 → (f ln).rv r = ln.rv r) ∧
      (isNan (f32 (ln.rv a.toNat)) = true → (f ln).rv d.toNat = 0x7FC00000 ∧ (f ln).rv (d.toNat + 1) = 0x7FC00000) ∧
      (∀ s, f32 (ln.rv a.toNat) = .inf s → ratOf (f32 ((f ln).rv d.toNat)) = (2 : ℚ) ^ (127 : Int) ∧
        ratOf (f32 ((f ln).rv (d.toNat + 1))) = (2 : ℚ) ^ (-127 : Int)) ∧
      (∀ s m e, f32 (ln.rv a.toNat) = .fin s m e → ∃ k : Int, -126 ≤ k ∧ k ≤ 127 ∧ ((m : ℚ) * 2 ^ e ≤ M * 2 ^ k ∨ k = 127) ∧
        (∀ j : Int, -126 ≤ j → j < k → M * 2 ^ j < (m : ℚ) * 2 ^ e) ∧
        ratOf (f32 ((f ln).rv d.toNat)) = (2 : ℚ) ^ k ∧ ratOf (f32 ((f ln).rv (d.toNat + 1))) = (2 : ℚ) ^ (-k)))

namespace Sys2Proof.Machine

/-- n is the slot of the pair x in bay b (R114): the name in the entry of the frame that x names, where the frame has an object of x's GEN, with x's
OFFSET; else the plain slot. The entry is that of R105. -/
def SlotValue (s : State) (b : Nat) (x : W64) (n : W128) : Prop :=
  let f := x.toNat / 2 ^ 32 % 2 ^ 22
  let e := s.readNat ((s.bay b).ftBase + 32 * f) 32
  if x.toNat / 2 ^ 58 = 0b111110 then
    f < (s.bay b).fcnt ∧ e / 2 ^ 25 % 8 ≠ 0 ∧ e / 2 ^ 28 % 16 = x.toNat / 2 ^ 54 % 16 ∧ n.toNat = e / 2 ^ 160 * 2 ^ 32 + x.toNat % 2 ^ 32
  else n.toNat = x.toNat
/-- No byte of the entry that x names is open (R82, R93). -/
def EntryFixed (s : State) (b : Nat) (x : W64) : Prop :=
  ∀ i, i < 32 → ∀ u ∈ s.undef, ¬ (u.lo ≤ (s.bay b).ftBase + 32 * (x.toNat / 2 ^ 32 % 2 ^ 22) + i ∧ (s.bay b).ftBase + 32 * (x.toNat / 2 ^ 32 % 2 ^ 22) + i ≤ u.hi)

end Sys2Proof.Machine

/-- R192 to R195, R198, R199, R201, R202, R294: loads, stores, staged stores, pointer loads and stores, atomics and reductions of the lanes. The data of a store are the low
bytes of its register group, little-endian; a load's or atomic's value goes to the group D names. STP stores the slot of its pair, read when its slot address has passed its
checks; parked on a frame it holds the pair. An issue whose lanes are all guarded off makes no access and advances. -/
def Obligations.LaneMemoryWordsMakeTheirAccesses : Prop :=
  (∀ sz g d a ad, MemGives (.ld sz g d a ad) g (aLd sz d a ad) .load (ldBytes sz) a ad (fun _ A =>
    A.dest = .vreg d sz ∧ A.last = (ad.last == 1) ∧ A.scope = ad.scope.toNat)) ∧
  (∀ sz g d a ad, MemGives (.st sz g d a ad) g (aSt sz d a ad) .store (stBytes sz) a ad (fun ln A =>
    A.dest = .none ∧ A.ridge = none ∧ A.data = natBytes (stBytes sz) (ln.rvn d.toNat (stBytes sz)))) ∧
  (∀ sz g d a ad, MemGives (.rst sz g d a ad) g (aRst sz d a ad) .store (stBytes sz) a ad (fun ln A =>
    A.dest = .none ∧ A.ridge = some ad.scope.toNat ∧ A.data = natBytes (stBytes sz) (ln.rvn d.toNat (stBytes sz)))) ∧
  (∀ g d a ad, MemGives (.ldp g d a ad) g (aLdp d a ad) .ldp 16 a ad (fun _ A => A.dest = .pair d)) ∧
  (∀ g d a ad, MemGives (.stp g d a ad) g (aStp d a ad) .stp 16 a ad (fun ln A =>
    A.dest = .none ∧ (A.ph = .frame → A.data = natBytes 8 (ln.rv2 d.toNat).toNat) ∧ (A.ph ≠ .frame → A.data.length = 16))) ∧
  (∀ g d a ad s iss c k x, CourseIssues s iss c k x → iss.mask.Nodup →
    let act := iss.mask.filter (fun l => (x.lane l).rp g)
    let r := memRun s c k act (aStp d a ad s iss c k)
    r.held = false → r.bad = [] → (∀ l ∈ act, EntryFixed s (s.bayOf c) ((x.lane l).rv2 d.toNat)) →
    ∃ (t : State) (new : List Access), exec (.stp g d a ad) s = .next t ∧ t.accs = s.accs ++ new ∧ new.length = act.length ∧
      ∀ (j l : Nat) (A : Access), act[j]? = some l → new[j]? = some A → A.ph ≠ .frame →
        ∃ n, SlotValue s (s.bayOf c) ((x.lane l).rv2 d.toNat) n ∧ A.data = natBytes 16 n.toNat) ∧
  (∀ (mk : Bool → Guard → Reg → Reg → AddrWord → Instr) (op : AtomOp),
    (mk, op) ∈ [(Instr.atomAdd, AtomOp.add), (Instr.atomMin, .min), (Instr.atomMax, .max), (Instr.atomMinui, .minui), (Instr.atomMaxui, .maxui),
                (Instr.atomAnd, .and), (Instr.atomOr, .or), (Instr.atomXor, .xor), (Instr.atomXchg, .xchg)] →
    ∀ w g d a ad, MemGives (mk w g d a ad) g (aAtom op (if w then 8 else 4) d a ad) .atomic (if w then 8 else 4) a ad (fun ln A =>
      A.op = op ∧ A.dest = .vold d (if w then 8 else 4) ∧ A.data = natBytes (if w then 8 else 4) (ln.rvn d.toNat (if w then 8 else 4)))) ∧
  (∀ w g d a b ad, MemGives (.atomCas w g d a b ad) g (aCas (if w then 8 else 4) d a b ad) .atomic (if w then 8 else 4) a ad (fun ln A =>
    A.op = .cas ∧ A.dest = .vold d (if w then 8 else 4) ∧ A.data = natBytes (if w then 8 else 4) (ln.rvn d.toNat (if w then 8 else 4)) ∧
    A.cmp = ln.rvn b.toNat (if w then 8 else 4))) ∧
  (∀ (mk : Guard → Reg → Reg → AddrWord → Instr) (op : AtomOp) (n : Nat),
    (mk, op, n) ∈ [(Instr.atomFaddF32, AtomOp.faddF32, 4), (Instr.atomAddBf16x2, .addBf16x2, 4), (Instr.atomAddF16x2, .addF16x2, 4),
                   (Instr.atomFxadd, .fxadd, 16)] →
    ∀ g d a ad, MemGives (mk g d a ad) g (aAtom op n d a ad) .atomic n a ad (fun ln A =>
      A.op = op ∧ A.dest = .vold d n ∧ A.data = natBytes n (ln.rvn d.toNat n))) ∧
  (∀ (mk : Bool → Guard → Reg → Reg → AddrWord → Instr) (op : AtomOp),
    (mk, op) ∈ [(Instr.redAdd, AtomOp.add), (Instr.redMin, .min), (Instr.redMax, .max), (Instr.redMinui, .minui), (Instr.redMaxui, .maxui),
                (Instr.redAnd, .and), (Instr.redOr, .or), (Instr.redXor, .xor)] →
    ∀ w g d a ad, MemGives (mk w g d a ad) g (aRed op (if w then 8 else 4) d a ad) .red (if w then 8 else 4) a ad (fun ln A =>
      A.op = op ∧ A.dest = .none ∧ A.data = natBytes (if w then 8 else 4) (ln.rvn d.toNat (if w then 8 else 4)))) ∧
  (∀ (mk : Guard → Reg → Reg → AddrWord → Instr) (op : AtomOp) (n : Nat),
    (mk, op, n) ∈ [(Instr.redFaddF32, AtomOp.faddF32, 4), (Instr.redAddBf16x2, .addBf16x2, 4), (Instr.redAddF16x2, .addF16x2, 4),
                   (Instr.redFxadd, .fxadd, 16)] →
    ∀ g d a ad, MemGives (mk g d a ad) g (aRed op n d a ad) .red n a ad (fun ln A =>
      A.op = op ∧ A.dest = .none ∧ A.data = natBytes n (ln.rvn d.toNat n)))

/-- R206, R258: loads, stores and atomics of the uniform state make one access, for a course or for a batten job. -/
def Obligations.UniformMemoryWordsMakeTheirAccess : Prop :=
  let low (u : Uni) (d n : Nat) : Nat := if n = 16 then (u.rs2 d).toNat else (u.rs d).toNat % 2 ^ (8 * n)
  (∀ sz q d a ad, UniMemGives (.uld sz q d a ad) q (aUld sz d a ad) .load (ldBytes sz) a ad (fun _ A => A.dest = .ureg d sz ∧ A.scope = ad.scope.toNat)) ∧
  (∀ sz q d a ad, UniMemGives (.ust sz q d a ad) q (aUst sz d a ad) .store (stBytes sz) a ad (fun u A =>
    A.dest = .none ∧ A.data = natBytes (stBytes sz) (low u d.toNat (stBytes sz)))) ∧
  (∀ (mk : Guard → Reg → Reg → AddrWord → Instr) (op : AtomOp) (n : Nat),
    (mk, op, n) ∈ [(Instr.uatomAdd, AtomOp.add, 8), (Instr.uatomMin, .min, 8), (Instr.uatomMax, .max, 8), (Instr.uatomMinui, .minui, 8),
                   (Instr.uatomMaxui, .maxui, 8), (Instr.uatomAnd, .and, 8), (Instr.uatomOr, .or, 8), (Instr.uatomXor, .xor, 8),
                   (Instr.uatomXchg, .xchg, 8), (Instr.uatomFaddF32, .faddF32, 4), (Instr.uatomFxadd, .fxadd, 16)] →
    ∀ q d a ad, UniMemGives (mk q d a ad) q (aUatom op n d a ad) .atomic n a ad (fun u A =>
      A.op = op ∧ A.dest = .uold d n ∧ A.data = natBytes n (low u d.toNat n))) ∧
  (∀ q d a b ad, UniMemGives (.uatomCas q d a b ad) q (aUcas d a b ad) .atomic 8 a ad (fun u A =>
    A.op = .cas ∧ A.dest = .uold d 8 ∧ A.data = natBytes 8 (low u d.toNat 8) ∧ A.cmp = (u.rs b.toNat).toNat))

/-- R196, R197, R115, R200: LDT and STT reach the bytes of a ready tile, lane by lane in ascending order; PFAR writes the slot value of a near pointer. Nothing
else changes. (A frame entry whose stored data cannot be corrected is a fault, R379.) -/
def Obligations.TileAndPointerWordResults : Prop :=
  (∀ sz g d a b ad s iss c k x, CourseIssues s iss c k x → iss.mask.Nodup →
    ∀ T : Nat → Nat × Tile, (∀ l ∈ iss.mask, (x.lane l).rp g = true →
      tileChk (s.core c) x.blk ((x.lane l).rv a.toNat) (tileOff iss.pfx b ad (x.lane l)) (ldBytes sz) = .ok (T l).1 (T l).2 ∧
        tileErr s c (T l).1 (tileOff iss.pfx b ad (x.lane l)) (ldBytes sz) = false) →
    ∃ (t : State) (y : Course), exec (.ldt sz g d a b ad) s = .next t ∧ OnlyCourse s t c k ∧ t.course? c k = some y ∧
      CourseAfter s iss false x.u x y (fun l ln => { (if (x.lane l).rp g then
        ln.wvn d.toNat (ldWide sz) (extendLd sz 32 (leNum ((T l).2.read (tileOff iss.pfx b ad ln) (ldBytes sz)))) else ln) with pc := iss.next })) ∧
  (∀ sz g d a b ad s iss c k x, CourseIssues s iss c k x → iss.mask.Nodup →
    let act := iss.mask.filter (fun l => (x.lane l).rp g)
    ∀ T : Nat → Nat × Tile, (∀ l ∈ act,
      tileChk (s.core c) x.blk ((x.lane l).rv a.toNat) (tileOff iss.pfx b ad (x.lane l)) (stBytes sz) = .ok (T l).1 (T l).2) →
    ∃ (t : State) (y : Course), exec (.stt sz g d a b ad) s = .next t ∧ SameBytes s t ∧ t.course? c k = some y ∧
      CourseAfter s iss false x.u x y (fun _ ln => { ln with pc := iss.next }) ∧
      (t.core c).tiles = act.foldl (fun m l => match mget? m (T l).1 with
        | some t => mset m (T l).1 (t.write (tileOff iss.pfx b ad (x.lane l)) (natBytes (stBytes sz) ((x.lane l).rvn d.toNat (stBytes sz))))
        | none => m) (s.core c).tiles ∧
      { t with cores := s.cores } = s ∧ (∀ e, e ≠ c → t.core e = s.core e) ∧
      { t.core c with courses := (s.core c).courses, tiles := (s.core c).tiles } = s.core c ∧ ∀ j, j ≠ k → t.course? c j = s.course? c j) ∧
  (∀ g d b ad s iss c k x, CourseIssues s iss c k x → iss.mask.Nodup →
    ∀ n : Nat → W128, (∀ l ∈ iss.mask, (x.lane l).rp g = true → SlotValue s (s.bayOf c) ((x.lane l).rv2 b.toNat) (n l) ∧
      npBad s (s.bayOf c) ((x.lane l).rv2 b.toNat) = none) →
    ∃ (t : State) (y : Course), exec (.pfar g d b ad) s = .next t ∧ OnlyCourse s t c k ∧ t.course? c k = some y ∧
      CourseAfter s iss false x.u x y (fun l ln => { (if (x.lane l).rp g then ln.wv4 d.toNat (n l) else ln) with pc := iss.next }))

/-- R203, R205, R444: fences and WAIT. ACQ makes later loads follow every access issued so far; REL holds the lane's later issues until its pass; a WAIT's read
goes out while the lane waits, and a woken one's goes out again as an access of its own. That the lane of a REL goes to the next issue with its fence pending is the model's reading (log 22). -/
def Obligations.FenceAndWaitResults : Prop :=
  (∀ g sc s iss c k x, CourseIssues s iss c k x →
    (∃ (t : State) (y : Course), exec (.fenceAcq g sc) s = .next t ∧ OnlyCourse s t c k ∧ t.course? c k = some y ∧
      CourseAfter s iss false x.u x y (fun _ ln => { (if ln.rp g then { ln with acq := s.nextAcc } else ln) with pc := iss.next })) ∧
    (∃ (t : State) (y : Course), exec (.fenceRel g sc) s = .next t ∧ OnlyCourse s t c k ∧ t.course? c k = some y ∧
      CourseAfter s iss false x.u x y (fun _ ln => { (if ln.rp g then { ln with fence := some (sc.toNat, false) } else ln) with pc := iss.next })) ∧
    (∃ (t : State) (y : Course), exec (.fenceAcqrel g sc) s = .next t ∧ OnlyCourse s t c k ∧ t.course? c k = some y ∧
      CourseAfter s iss false x.u x y (fun _ ln => { (if ln.rp g then { ln with fence := some (sc.toNat, true) } else ln) with pc := iss.next }))) ∧
  (∀ w g d a b ad s iss c k x, CourseIssues s iss c k x →
    let act := iss.mask.filter (fun l => (x.lane l).rp g)
    let s1 := s.updCourse c k (·.mapLanes (fun l ln => if act.contains l then { ln with wt := some (waitRec w d a b ad iss ln) } else ln))
    let r := memRun s1 c k act (fun l ln => aWait s c k l (prvOf s iss.who) iss.pc (waitRec w d a b ad iss ln) iss.id)
    iss.mask.Nodup → r.held = false → r.bad = [] →
    ∃ t y new, exec (.wait w g d a b ad) s = .next t ∧ t.accs = s.accs ++ new ∧ new.length = act.length ∧ SameMemory s t ∧ t.course? c k = some y ∧
      (∀ j l A, act[j]? = some l → new[j]? = some A → A.id = s.nextAcc + j ∧ A.ag = .thread c k l ∧ A.kind = .wait ∧ A.size = (if w then 8 else 4) ∧
        A.form = formAt (.thread c k l) ((x.lane l).rv2 a.toNat) (offOf iss.pfx ad) ∧ A.cmp = (x.lane l).rvn b.toNat (if w then 8 else 4)) ∧
      (∀ l, l < 8 → (y.lane l).v = (x.lane l).v ∧ (y.lane l).p = (x.lane l).p) ∧
      (∀ l, l < 8 → l ∈ act → (y.lane l).pc = (x.lane l).pc ∧ ((y.lane l).st = .waitRead ∨ ∃ A ∈ new, (y.lane l).st = .parked A.id)) ∧
      (∀ l, l < 8 → l ∈ iss.mask → l ∉ act → (y.lane l).pc = iss.next)) ∧
  (∀ (s : State) c k l x w, s.course? c k = some x → l < 8 → (x.lane l).wt = some w → (x.lane l).st = .woken →
    let r := memRun { s with nextIss := s.nextIss + 1 } c k [l] (fun _ _ => aWait s c k l x.prv (x.lane l).pc w s.nextIss)
    r.held = false → r.bad = [] →
    ∃ (t : State) (A : Access), exec (.waitReread c k l) s = .next t ∧ t.accs = s.accs ++ [A] ∧ A.kind = .wait ∧ A.iss = s.nextIss ∧ A.form = formAt (.thread c k l) w.base w.off ∧ SameMemory s t ∧
      ((t.lane c k l).st = .waitRead ∨ (t.lane c k l).st = .parked A.id) ∧ (t.lane c k l).pc = (x.lane l).pc ∧ (t.lane c k l).v = (x.lane l).v)

namespace Sys2Proof.Machine

/-- W + 4 × a signed word offset (R139, R209). -/
def branchTo (w : W64) {n : Nat} (o : BitVec n) : W64 := BitVec.ofInt 64 ((w.toNat : Int) + 4 * o.toInt)
/-- An address with bits 1:0 cleared. -/
def clear2 (x : W64) : W64 := BitVec.ofNat 64 (x.toNat / 4 * 4)
/-- A uniform word that moves program counters: its lanes, or its job, go to `pc` where its guard reads 1, else to the next issue. -/
def UniJumpCourse (i : Instr) (q : Guard) (f : Issue → Uni → Uni) (pc : Issue → Uni → W64) : Prop :=
  ∀ (s : State) iss c k x, CourseIssues s iss c k x → ∃ (t : State) (y : Course), exec i s = .next t ∧ OnlyCourse s t c k ∧ t.course? c k = some y ∧
    CourseAfter s iss true (if x.u.rq q then f iss x.u else x.u) x y (fun _ ln => { ln with pc := if x.u.rq q then pc iss x.u else iss.next })
/-- s with the loads of lanes ls of a course, which exit, dropped: they write no register (R41). An atomic still returns its old value (R206). -/
def lanesGone (s : State) (c k : Nat) (ls : List Nat) : State :=
  { s with accs := s.accs.map (fun a => match a.dest with
      | .uold _ _ => a
      | _ => if ∃ l ∈ ls, a.ag = .thread c k l then { a with dest := .none } else a) }
/-- Barrier n of bl' is that of bl after one arrival, and so after the phase that it completes (R38, R211); the others are as they were. -/
def ArrivedOnce (bl bl' : Block) (n : Nat) : Prop :=
  let b := bl.bar n
  let full := bl.deferred = false ∧ b.expect ≠ 0 ∧ b.expect.toNat ≤ (b.count + 1).toNat
  (full → bl'.bar n = { b with count := b.count + 1 - b.expect.setWidth 32, phase := b.phase + 1 }) ∧
  (¬ full → bl'.bar n = { b with count := b.count + 1 }) ∧ ∀ m, m ≠ n → bl'.bar m = bl.bar m
def UniJumpJob (i : Instr) (q : Guard) (f : Issue → Uni → Uni) (pc : Issue → Uni → W64) : Prop :=
  ∀ (s : State) iss c p j, JobIssues s iss c p j → ∃ t : State, exec i s = .next t ∧ OnlyJob s t c p ∧
    t.job? c p = some { j with u := if j.u.rq q then f iss j.u else j.u, pc := if j.u.rq q then pc iss j.u else iss.next }

end Sys2Proof.Machine

/-- R221, R222: uniform branches, calls and ULOOP. ULOOP on 0 falls through and changes nothing; else it subtracts 1 and branches while the result is not 0. -/
def Obligations.UniformControlFlowResults : Prop :=
  let loopU (d : Reg) : Issue → Uni → Uni := fun _ u => if u.rs d.toNat = 0 then u else u.ws d.toNat (u.rs d.toNat - 1)
  let loopPc (d : Reg) (o : BitVec 12) : Issue → Uni → W64 := fun iss u => if 2 ≤ (u.rs d.toNat).toNat then branchTo iss.wpc o else iss.next
  let braPc (o : BitVec 22) : Issue → Uni → W64 := fun iss _ => match iss.pfx.imm with
    | some p => branchTo iss.wpc (BitVec.ofNat 32 (p.toNat * 2 ^ 22 + o.toNat))
    | none => branchTo iss.wpc o
  (∀ q o, UniJumpCourse (.ubra q o) q (fun _ u => u) (braPc o) ∧ UniJumpJob (.ubra q o) q (fun _ u => u) (braPc o)) ∧
  (∀ q a, UniJumpCourse (.uret q a) q (fun _ u => u) (fun _ u => clear2 (u.rs a.toNat)) ∧
    UniJumpJob (.uret q a) q (fun _ u => u) (fun _ u => clear2 (u.rs a.toNat))) ∧
  (∀ q d o, UniJumpCourse (.uloop q d o) q (loopU d) (loopPc d o) ∧ UniJumpJob (.uloop q d o) q (loopU d) (loopPc d o)) ∧
  (∀ q d o, UniJumpCourse (.ucall q d o) q (fun iss u => u.ws d.toNat iss.next) (fun iss _ => branchTo iss.wpc o)) ∧
  (∀ q d a, UniJumpCourse (.ucallx q d a) q (fun iss u => u.ws d.toNat iss.next) (fun _ u => clear2 (u.rs a.toNat)))

/-- R208 to R210: branches and calls of the lanes, and NOP. W is the address of the word itself; an IMM prefix gives a 32-bit offset; a call writes the address of
the next issue, and reads its target before it writes. R41, R210: EXIT makes its active lanes exited; loads they have outstanding write no register. Stated where a lane stays ready, so that neither a gather nor an ERET completes, and where no lane of a course
outside a trap is left. -/
def Obligations.LaneControlResults : Prop :=
  (
  (∀ g (o : BitVec 16), JumpGives (.bra g o) g (fun iss ln => { ln with pc := match iss.pfx.imm with
    | some q => branchTo iss.wpc (BitVec.ofNat 32 (q.toNat * 2 ^ 16 + o.toNat))
    | none => branchTo iss.wpc o })) ∧
  (∀ g, LaneGives (.nop g) g (fun _ ln => ln)) ∧
  (∀ g a, JumpGives (.brx g a) g (fun _ ln => { ln with pc := clear2 (ln.rv2 a.toNat) })) ∧
  (∀ g a, JumpGives (.ret g a) g (fun _ ln => { ln with pc := clear2 (ln.rv2 a.toNat) })) ∧
  (∀ g d (o : BitVec 12), JumpGives (.call g d o) g (fun iss ln => { ln.wv2 d.toNat iss.next with pc := match iss.pfx.imm with
    | some q => branchTo iss.wpc (BitVec.ofNat 32 (q.toNat * 2 ^ 12 + o.toNat))
    | none => branchTo iss.wpc o })) ∧
  (∀ g d a, JumpGives (.callx g d a) g (fun iss ln => { ln.wv2 d.toNat iss.next with pc := clear2 (ln.rv2 a.toNat) }))) ∧
  (
  ∀ g s iss c k x, CourseIssues s iss c k x →
    let act := iss.mask.filter (fun l => (x.lane l).rp g)
    ((∃ l, l < 8 ∧ l ∉ act ∧ (x.lane l).st = .ready) ∨ ((∀ l, l < 8 → l ∉ act → (x.lane l).st = .exited) ∧ x.ts = false)) →
    ∃ (t : State) (y : Course), exec (.exit g) s = .next t ∧
      OnlyCourse (lanesGone s c k act) t c k ∧
      t.course? c k = some y ∧ CourseAfter s iss false x.u x y (fun _ ln => if ln.rp g then { ln with st := .exited, fence := none } else { ln with pc := iss.next }))

/-- R37, R213: a barrier instruction. While a live lane is not at a barrier, the active lanes wait at it. When every live lane of the course gathers at one BAR.W, they wait for
the next phase; at one BAR.A of an own barrier they go on to the next issue, at a BAR.AW they wait. The arrival of either is applied at once, once, where the
gathered lanes have no access outstanding and their horizon is passed (R277), and queued where an access of theirs is outstanding. R38, R211: one arrival adds 1 to COUNT. Below EXPECT nothing else happens; at EXPECT the phase completes: COUNT falls by EXPECT, PHASE rises by 1, and each lane
of the block's courses that waits on the barrier is ready at its next issue. Arrivals in excess complete a further phase in a later step. -/
def Obligations.BarrierResults : Prop :=
  (
  let ref (kind : BarKind) (iss : Issue) (sr p : BitVec 1) (r : BitVec 3) (n : BitVec 12) : BarRef :=
    { kind := kind, sreg := sr == 1, peer := p == 1, rank := r.toNat, num := if sr = 1 then n.toNat / 64 else n.toNat, pos := iss.pos, next := iss.next }
  (∀ (mk : Guard → BitVec 1 → BitVec 1 → BitVec 3 → BitVec 12 → Instr) (kind : BarKind),
    (mk, kind) ∈ [(Instr.barA, BarKind.a), (Instr.barW, .w), (Instr.barAw, .aw)] →
    ∀ g sr p r n s iss c k x, CourseIssues s iss c k x → (∃ l, l < 8 ∧ (x.lane l).st = .ready ∧ (l ∉ iss.mask ∨ (x.lane l).rp g = false)) →
      ∃ (t : State) (y : Course), exec (mk g sr p r n) s = .next t ∧ OnlyCourse s t c k ∧ t.course? c k = some y ∧
        CourseAfter s iss false x.u x y (fun _ ln => if ln.rp g then { ln with st := .barrier (ref kind iss sr p r n) } else { ln with pc := iss.next })) ∧
  (∀ g r n s iss c k x bl, CourseIssues s iss c k x → s.block? c x.blk = some bl → n.toNat < bl.nbar → bl.arrivals = [] → iss.mask ≠ [] →
    (∀ l ∈ iss.mask, l < 8 ∧ (x.lane l).rp g = true ∧ (x.lane l).pc = iss.pc) → (∀ l, l < 8 → l ∉ iss.mask → (x.lane l).st = .exited) →
    bl.dir = none → bl.st ≠ .swapped →
    (∃ (t : State) (y : Course), exec (.barW g 0 0 r n) s = .next t ∧ OnlyCourse s t c k ∧ t.course? c k = some y ∧
      CourseAfter s iss false x.u x y (fun _ ln => { ln with st := .phase n.toNat iss.next })) ∧
    let out : Prop := ∃ a ∈ s.accs, a.id < s.nextAcc ∧ ∃ l ∈ iss.mask, a.ag = .thread c k l
    let clear : Prop := (∀ o ∈ x.accOps, s.nextIss ≤ o.iss) ∧ ∀ l ∈ iss.mask, (x.lane l).hor.at 3 ≤ s.coreT c
    let queued (bl' : Block) : Prop := bl'.bars = bl.bars ∧ ∃ A, bl'.arrivals = [A] ∧ A.slot = k ∧ (∀ l, l ∈ A.lanes ↔ l ∈ iss.mask) ∧ A.rank = bl.rank ∧
      A.bar = n.toNat ∧ A.bound = s.nextAcc
    let applied (bl' : Block) : Prop := bl'.arrivals = [] ∧ ArrivedOnce bl bl' n.toNat
    (∃ (t : State) (bl' : Block), exec (.barA g 0 0 r n) s = .next t ∧ t.block? c x.blk = some bl' ∧
      (∀ l ∈ iss.mask, (t.lane c k l).st = .ready ∧ (t.lane c k l).pc = iss.next) ∧ (out → queued bl') ∧ (¬ out → clear → applied bl')) ∧
    (∃ (t : State) (bl' : Block), exec (.barAw g 0 0 r n) s = .next t ∧ t.block? c x.blk = some bl' ∧
      (out → queued bl' ∧ ∀ l ∈ iss.mask, (t.lane c k l).st = .arriving n.toNat iss.next) ∧
      (¬ out → clear → applied bl' ∧ ∀ l ∈ iss.mask,
        if bl.deferred = false ∧ (bl.bar n.toNat).expect ≠ 0 ∧ (bl.bar n.toNat).expect.toNat ≤ ((bl.bar n.toNat).count + 1).toNat ∧ k ∈ bl.slots then
          (t.lane c k l).st = .ready ∧ (t.lane c k l).pc = iss.next
        else (t.lane c k l).st = .phase n.toNat iss.next)))) ∧
  (
  (∀ (s : State) c b n bl, s.block? c b = some bl → bl.dir = none → bl.st ≠ .swapped → ((bl.bar n).count + 1).toNat < (bl.bar n).expect.toNat →
    arrive s c b n = s.updBlock c b (fun bl => { bl with bars := mset bl.bars n { bl.bar n with count := (bl.bar n).count + 1 } })) ∧
  (∀ (s : State) c b n bl, s.block? c b = some bl → bl.dir = none → bl.st ≠ .swapped → bl.deferred = false → (bl.bar n).expect ≠ 0 → (bl.bar n).expect.toNat ≤ ((bl.bar n).count + 1).toNat →
    ∃ bl', (arrive s c b n).block? c b = some bl' ∧
      (bl'.bar n).count = (bl.bar n).count + 1 - (bl.bar n).expect.setWidth 32 ∧ (bl'.bar n).phase = (bl.bar n).phase + 1 ∧
      (bl'.bar n).expect = (bl.bar n).expect ∧ (∀ m, m ≠ n → bl'.bar m = bl.bar m) ∧
      (∀ k ∈ bl.slots, ∀ l, l < 8 → ∀ next, (s.course? c k).isSome → (s.lane c k l).st = .phase n next →
        ((arrive s c b n).lane c k l).st = .ready ∧ ((arrive s c b n).lane c k l).pc = next) ∧
      (∀ k l, l < 8 → (∀ next, (s.lane c k l).st ≠ .phase n next) → ((arrive s c b n).lane c k l).st = (s.lane c k l).st)) ∧
  (∀ (s : State) core blk bar bl, s.block? core blk = some bl → bl.deferred = false → (bl.bar bar).expect ≠ 0 → (bl.bar bar).expect.toNat ≤ (bl.bar bar).count.toNat →
    ∃ (t : State) (bl' : Block), exec (.surplusPhaseComplete core blk bar) s = .next t ∧ t.block? core blk = some bl' ∧
      (bl'.bar bar).count = (bl.bar bar).count - (bl.bar bar).expect.setWidth 32 ∧ (bl'.bar bar).phase = (bl.bar bar).phase + 1))

/-- R218 to R220: ISSV executes, in each active lane, the word that lane holds. Stated for words that act on registers alone: each lane takes the effect of its own word under
that word's guard, and goes to the next issue. -/
def Obligations.IssvExecutesEachLanesWord : Prop :=
  ∀ (g : Guard) (a : Reg) (s : State) (iss : Issue) (c k : Nat) (x : Course), CourseIssues s iss c k x →
    (x.issv.find? (fun r => r.pc == iss.pc) = none) → iss.mask.Nodup → (∀ l ∈ iss.mask, l < 8 ∧ (x.lane l).st = .ready ∧ (x.lane l).pc = iss.pc) →
    ∀ (I : Nat → Instr) (G : Nat → Guard) (F : Nat → Lane → Lane),
    (∀ l ∈ iss.mask, (x.lane l).rp g = true → useErr s iss.who [0, 1, 2, 3, 4, 5, 6, 7] (allUses (I l) {}) = false ∧
      let w := (x.lane l).rv a.toNat
      w.toNat / 2 ^ 26 < 0x18 ∧ w.toNat / 2 ^ 26 ≠ 0x0A ∧ decL w.toNat 0 = .ok (I l) ∧ opReasons s iss.who w (I l) false = [] ∧
        laneWord (I l) { round := iss.pfx.round } = some (G l, F l)) →
    ∃ (t : State) (y : Course), exec (.issv g a) s = .next t ∧ OnlyCourse s t c k ∧ t.course? c k = some y ∧
      CourseAfter s iss false x.u x y (fun l ln =>
        { (if (x.lane l).rp g then (if ln.rp (G l) then F l ln else ln) else ln) with pc := iss.next })

/-- R214 to R217: BARINIT sets COUNT 0 and EXPECT and keeps PHASE; BARSAVE stores the image of every barrier and turns later arrivals to it; BARLOAD takes the barriers back. -/
def Obligations.BarrierSetupResults : Prop :=
  (∀ q a b s iss c k x bl, CourseIssues s iss c k x → s.block? c x.blk = some bl → x.u.rq q = true →
    let n := (x.u.rs a.toNat).toNat % 2 ^ 10
    n < bl.nbar → (x.u.rs b.toNat).toNat % 2 ^ 16 ≠ 0 →
    ∃ (t : State) (bl' : Block), exec (.barinit q a b) s = .next t ∧ OnlyCore s t c ∧ CourseAdvanced s iss x.u x t c k ∧ t.block? c x.blk = some bl' ∧
      { bl' with bars := bl.bars } = bl ∧ (∀ m, m ≠ n → bl'.bar m = bl.bar m) ∧
      bl'.bar n = { count := 0, expect := BitVec.ofNat 16 (x.u.rs b.toNat).toNat, phase := (bl.bar n).phase }) ∧
  (∀ q a s iss c k x bl, CourseIssues s iss c k x → s.block? c x.blk = some bl → x.u.rq q = true → x.ts = true → bl.dir = none →
    ((s.core c).blocks.filter (fun e => e.2.dir.isSome)).length < 64 →
    let img := x.u.rs a.toNat
    let r := barStores iss c k bl img (List.range bl.nbar) (Issued.mk s [] [] false)
    r.held = false → r.bad = [] →
    ∃ t bl' new, exec (.barsave q a) s = .next t ∧ t.block? c x.blk = some bl' ∧ bl'.dir = some img ∧ bl'.bars = bl.bars ∧ SameMemory s t ∧
      t.accs = s.accs ++ new ∧ new.length = bl.nbar ∧
      (∀ n A, new[n]? = some A → A.kind = .store ∧ A.form = img + BitVec.ofNat 64 (8 * n) ∧ A.size = 8 ∧
        A.data = natBytes 8 ((bl.bar n).count.toNat + 2 ^ 32 * (bl.bar n).expect.toNat + 2 ^ 48 * (bl.bar n).phase.toNat)) ∧
      (∀ l ∈ iss.mask, l < 8 → ∃ p, (t.lane c k l).st = .pend p ∧ p.kind = .barsave ∧ p.next = iss.next)) ∧
  (∀ q a s iss c k x bl s' bars, CourseIssues s iss c k x → s.block? c x.blk = some bl → x.u.rq q = true → x.ts = true →
    bl.dir = some (x.u.rs a.toNat) → imageBusy s bl = false → imageAddsOut s c bl (x.u.rs a.toNat) = false →
    barLoads iss (x.u.rs a.toNat) (List.range bl.nbar) s bl.bars = .ok (s', bars) →
    ∃ (t : State) (bl' : Block), exec (.barload q a) s = .next t ∧ t.block? c x.blk = some bl' ∧ bl'.dir = none ∧ bl'.bars = bars ∧ t.mem = s.mem ∧
      (∀ l ∈ iss.mask, l < 8 → (t.lane c k l).pc = iss.next))

/-- R50, R223, R224: SPAWN and SFENCE append an entry to a level of the bay's spawn queue, numbered with the bay's next JSEQ, which goes to sD. -/
def Obligations.SpawnAndFenceResults : Prop :=
  let appended (s t : State) (c k : Nat) (x : Course) (lvl : Nat) (fence : Bool) (addr : W64) : Prop :=
    let b := s.bayOf c
    (t.bay b).jseq = (s.bay b).jseq + 1 ∧
    mget (t.bay b).levels lvl [] = mget (s.bay b).levels lvl [] ++
      [{ jseq := (s.bay b).jseq, fence := fence, addr := addr, prv := x.prv, core := c, slot := k : SpawnE }] ∧
    (∀ m, m ≠ lvl → mget (t.bay b).levels m [] = mget (s.bay b).levels m []) ∧ (∀ d, d ≠ b → t.bay d = s.bay d) ∧ t.mem = s.mem
  (∀ q d a s iss c k x s' v, CourseIssues s iss c k x → x.u.rq q = true → (x.u.rs a.toNat).toNat % 64 = 0 → relPassed s (uniAgent iss) 7 = true →
    opReadSec s iss (x.u.rs a.toNat + 51) 1 true = .ok s' [v] → (mget (s.bay (s.bayOf c)).levels (v.toNat / 8 % 4) []).length < 1024 →
    ∃ (t : State) (y : Course), exec (.spawn q d a) s = .next t ∧ appended s t c k x (v.toNat / 8 % 4) false (x.u.rs a.toNat) ∧ t.course? c k = some y ∧
      CourseAfter s iss true (x.u.ws d.toNat (BitVec.ofNat 64 (s.bay (s.bayOf c)).jseq)) x y (fun _ ln => { ln with pc := iss.next })) ∧
  (∀ q d a b s iss c k x, CourseIssues s iss c k x → x.u.rq q = true → (x.u.rs a.toNat).toNat % 64 = 0 → (x.u.rs b.toNat).toNat < 4 →
    relPassed s (uniAgent iss) 7 = true → (mget (s.bay (s.bayOf c)).levels (x.u.rs b.toNat).toNat []).length < 1024 →
    ∃ (t : State) (y : Course), exec (.sfence q d a b) s = .next t ∧ appended s t c k x (x.u.rs b.toNat).toNat true (x.u.rs a.toNat) ∧ t.course? c k = some y ∧
      CourseAfter s iss true (x.u.ws d.toNat (BitVec.ofNat 64 (s.bay (s.bayOf c)).jseq)) x y (fun _ ln => { ln with pc := iss.next }))

namespace Sys2Proof.Machine

/-- s with mailbox m of bay b replaced. -/
def putBox (s : State) (b m : Nat) (mb : Mailbox) : State := s.setBay b { s.bay b with mail := mset (s.bay b).mail m mb }

end Sys2Proof.Machine

/-- R151, R306, R307, R311: MOVS from SYS, for each of its ten registers: in every lane of the mask for WID, LANE and TPC, once for the others. R151, R255, R307, R311: MOVS to SYS.COLTEMP, SYS.TPC and SYS.BANKC. Outside a trap a write of SYS.TPC sets the running PC; in one it sets the lane's saved state.
That the model holds the count of both processors in the first (SYS.BANKC) is its own choice. -/
def Obligations.SystemRegisterResults : Prop :=
  (
  let lanes (n : Reg) (f : Issue → Course → Nat → Reg → Lane → Lane) : Prop :=
    ∀ q d s iss c k x, CourseIssues s iss c k x → x.u.rq q = true → ∃ (t : State) (y : Course), exec (.movsFromSys q d n) s = .next t ∧ OnlyCourse s t c k ∧
      t.course? c k = some y ∧ CourseAfter s iss true x.u x y (fun l ln => { f iss x l d ln with pc := iss.next })
  let once (n : Reg) (f : State → Nat → Nat → Course → W64) : Prop :=
    ∀ q d, CourseGives (.movsFromSys q d n) q (fun _ _ _ x => x.ts = true → x.cause < 4) (fun s c k x => x.u.ws d.toNat (f s c k x))
  lanes 0 (fun _ _ _ d ln => ln.wv2 d.toNat ln.wid) ∧
  lanes 1 (fun _ _ l d ln => ln.wv d.toNat (BitVec.ofNat 32 l)) ∧
  lanes 7 (fun iss x _ d ln => ln.wv2 d.toNat
    (if x.ts then BitVec.ofNat 64 (ln.spc.toNat % 2 ^ 56 / 4 * 4 + ln.skind % 4) else iss.pc)) ∧
  once 2 (fun _ _ k _ => BitVec.ofNat 64 k) ∧
  once 3 (fun _ _ _ x => BitVec.ofNat 64 x.blk) ∧
  once 4 (fun _ c _ _ => BitVec.ofNat 64 c) ∧
  once 5 (fun s c _ _ => BitVec.ofNat 64 ((s.t : Int) + mget s.skew c 0).toNat) ∧
  once 6 (fun s c _ _ => BitVec.ofNat 64 (s.bay (s.bayOf c)).hot.toNat) ∧
  once 8 (fun _ _ k x =>
    if x.ts then BitVec.ofNat 64 (x.addr.toNat / 64 * 64 + 4 * x.cause + (if x.prv then 2 else 0) + 1) else if 510 ≤ k then 2 else 0) ∧
  once 9 (fun s c _ _ => BitVec.ofNat 64 ((s.proc c 0).bankc + (s.proc c 1).bankc).toNat)) ∧
  (
  (∀ q a s iss c k x, CourseIssues s iss c k x → x.u.rq q = true → x.prv = true → (x.u.rs a.toNat).toNat < 256 →
    ∃ t : State, exec (.movsToSys q 6 a) s = .next t ∧
      OnlyCourse (s.setBay (s.bayOf c) { s.bay (s.bayOf c) with hot := BitVec.ofNat 8 (x.u.rs a.toNat).toNat }) t c k ∧
      CourseAdvanced s iss x.u x t c k) ∧
  (∀ q a s iss c k x, CourseIssues s iss c k x → x.u.rq q = true → x.ts = true →
    (∀ l ∈ iss.mask, ((x.lane l).rv2 a.toNat).toNat % 4 ≠ 3) →
    ∃ (t : State) (y : Course), exec (.movsToSys q 7 a) s = .next t ∧ OnlyCourse s t c k ∧ t.course? c k = some y ∧
      CourseAfter s iss true x.u x y (fun l ln => { ln with
        spc := BitVec.ofNat 64 (((x.lane l).rv2 a.toNat).toNat % 2 ^ 56 / 4 * 4), skind := ((x.lane l).rv2 a.toNat).toNat % 4, pc := iss.next })) ∧
  (∀ q a s iss c k x, CourseIssues s iss c k x → x.u.rq q = true → x.ts = false →
    (∀ l ∈ iss.mask, ((x.lane l).rv2 a.toNat).toNat % 4 = 0) →
    ∃ (t : State) (y : Course), exec (.movsToSys q 7 a) s = .next t ∧ OnlyCourse s t c k ∧ t.course? c k = some y ∧
      CourseAfter s iss true x.u x y (fun l ln => { ln with pc := (x.lane l).rv2 a.toNat })) ∧
  (∀ q a s iss c k x, CourseIssues s iss c k x → x.u.rq q = true →
    ∃ t : State, exec (.movsToSys q 9 a) s = .next t ∧ CourseAdvanced s iss x.u x t c k ∧ (t.proc c 0).bankc + (t.proc c 1).bankc = (x.u.rs a.toNat).setWidth 32 ∧
      OnlyCourse (s.setCore c { s.core c with procs := (t.core c).procs }) t c k ∧
      (∀ p, { t.proc c p with bankc := (s.proc c p).bankc } = s.proc c p)))

/-- R310: MBXRD takes the oldest entry of a mailbox into eight s registers and performs an ACQ; MBXWR appends one. R312, R313: THERM reads the four sensors of a column of the bay, CLOCK the clocks of the core's island (of which the model counts thousandths). -/
def Obligations.MailboxAndSensorResults : Prop :=
  (
  (∀ q (d a : Reg) s iss c k x e rest, CourseIssues s iss c k x → x.u.rq q = true → x.prv = true → iss.mask ≠ [] → d.toNat % 8 = 0 →
    let m := (x.u.rs a.toNat).toNat
    let mb := (s.bay (s.bayOf c)).mailbox m
    m < 16 → mb.entries = e :: rest →
    ∃ t y u, exec (.mbxrd q d a) s = .next t ∧ t.course? c k = some y ∧
      (∀ i, i < 8 → u.rs (d.toNat + i) = BitVec.ofNat 64 (e.toNat / 2 ^ (64 * i))) ∧ (∀ r, r < d.toNat ∨ d.toNat + 8 ≤ r → u.rs r = x.u.rs r) ∧ u.q = x.u.q ∧
      CourseAfter s iss true u x y (fun l ln => { ln with pc := iss.next, acq := if l = iss.low then s.nextAcc else ln.acq }) ∧
      OnlyCourse (putBox s (s.bayOf c) m { mb with entries := rest, cons := mb.cons + 1, since := s.t }) t c k) ∧
  (∀ q (a b : Reg) s iss c k x, CourseIssues s iss c k x → x.u.rq q = true → relPassed s (uniAgent iss) 7 = true →
    let m := (x.u.rs a.toNat).toNat
    let mb := (s.bay (s.bayOf c)).mailbox m
    m < 14 → mb.entries.length < 256 →
    ∃ t e, exec (.mbxwr q a b) s = .next t ∧ CourseAdvanced s iss x.u x t c k ∧
      (∀ i, i < 8 → BitVec.ofNat 64 (e.toNat / 2 ^ (64 * i)) = x.u.rs (b.toNat + i)) ∧
      OnlyCourse (putBox s (s.bayOf c) m { mb with entries := mb.entries ++ [e], prod := mb.prod + 1, since := if mb.entries.isEmpty then s.t else mb.since }) t c k)) ∧
  (
  (∀ q d (a : Reg), CourseGives (.therm q d a) q
    (fun s c _ x => (x.u.rs a.toNat).toNat < 32 ∧ mget? s.cols (x.u.rs a.toNat).toNat = s.bayOf? c)
    (fun s _ _ x =>
      let r := mget s.sensors (x.u.rs a.toNat).toNat ⟨0, 0, 0, 0⟩
      x.u.ws d.toNat (BitVec.ofNat 64 (r.c1.toNat + 2 ^ 16 * r.c6.toNat + 2 ^ 32 * r.f1.toNat + 2 ^ 48 * r.f6.toNat)))) ∧
  (∀ q d, CourseGives (.clock q d) q (fun _ _ _ _ => True)
    (fun s c _ x => x.u.ws d.toNat (BitVec.ofNat 64 ((mget s.islands c {}).cyc / 1000)))))

/-- R247 to R251: BJOB queues a job at the processor with fewer jobs and gives the handle of its new future; FWAIT takes the value of a resolved future, or its lanes wait; FTEST
says whether one has ended; FCANCEL frees an ended one and cancels a job, a running one with its accesses dropped, its filling and draining tiles empty and
the frames it was filling vacated (R262, R443); FMOV moves handles. A handle is current when it names an allocated entry of its core with
that entry's generation. -/
def Obligations.FutureWordResults : Prop :=
  (∀ co c (h : W64) e f, c < 256 → (futCheck co c h = .ok (e, f) ↔
    h.toNat = e + 2 ^ 15 + c * 2 ^ 16 + f.gen.toNat * 2 ^ 24 ∧ e < 256 ∧ mget? co.futs e = some f)) ∧
  (∀ q (d : HReg) (a b : Reg) s iss c k x e rest, CourseIssues s iss c k x → x.u.rq q = true → b.toNat ≤ 56 → (x.u.rs a.toNat).toNat % 4 = 0 →
    (x.ts = true ∨ ∀ bl, s.block? c x.blk = some bl → bl.deferred = false) → relPassed s (uniAgent iss) 7 = true → (s.core c).futFree = e :: rest →
    let n := fun p => (s.proc c p).queue.length + (if (s.proc c p).job.isSome then 1 else 0)
    let p := if n 1 < n 0 then 1 else 0
    (s.proc c p).queue.length < 8 →
    let gen := mget (s.core c).futGen e 0
    let r : JobReq := { fut := e, blk := x.blk, slot := k, prv := x.prv, pc := x.u.rs a.toNat, args := (List.range 8).map (fun i => x.u.rs (b.toNat + i)), acq := 0 }
    ∃ (t : State) (y : Course), exec (.bjob q d a b) s = .next t ∧ t.course? c k = some y ∧
      CourseAfter s iss true x.u (x.wh d.toNat (BitVec.ofNat 64 (e % 256 + 2 ^ 15 + c % 256 * 2 ^ 16 + gen.toNat * 2 ^ 24))) y (fun _ ln => { ln with pc := iss.next }) ∧
      OnlyCourse (s.setCore c { s.core c with
        futFree := rest, futs := mset (s.core c).futs e { st := .queued, val := 0, gen := gen, blk := x.blk, kind := .job, cause := 0 },
        procs := mset (s.core c).procs p { s.proc c p with queue := (s.proc c p).queue ++ [r] } }) t c k) ∧
  (∀ q (d : Reg) (a : HReg) s iss c k x e f, CourseIssues s iss c k x → x.u.rq q = true → iss.mask ≠ [] → futCheck (s.core c) c (x.rh a.toNat) = .ok (e, f) →
    ∃ (t : State) (y : Course), exec (.fwait q d a) s = .next t ∧ (f.st ≠ .cancelled → f.st ≠ .faulted → OnlyCourse s t c k ∧ t.course? c k = some y ∧
      (f.st = .resolved → CourseAfter s iss true (x.u.ws d.toNat f.val) x y (fun l ln => { ln with pc := iss.next, acq := if l = iss.low then s.nextAcc else ln.acq })) ∧
      (f.st ≠ .resolved → CourseAfter s iss true x.u x y (fun _ ln => { ln with st := .future (x.rh a.toNat) d iss.next iss.id })))) ∧
  (∀ q (d : PReg) (a : HReg) e f, CourseGives (.ftest q d a) q (fun s c _ x => futCheck (s.core c) c (x.rh a.toNat) = .ok (e, f))
    (fun _ _ _ x => x.u.wq d (decide (f.st ≠ .queued ∧ f.st ≠ .running)))) ∧
  (∀ q (a : HReg) s iss c k x e f, CourseIssues s iss c k x → x.u.rq q = true → futCheck (s.core c) c (x.rh a.toNat) = .ok (e, f) →
    (f.st ≠ .queued → f.st ≠ .running → ∃ t : State, exec (.fcancel q a) s = .next t ∧ CourseAdvanced s iss x.u x t c k ∧
      OnlyCourse (s.setCore c { s.core c with
        futs := mdel (s.core c).futs e, futFree := (s.core c).futFree ++ [e], futGen := mset (s.core c).futGen e (f.gen + 1) }) t c k) ∧
    (f.st = .queued ∨ f.st = .running → f.kind ≠ .job → ∃ t : State, exec (.fcancel q a) s = .next t ∧ CourseAdvanced s iss x.u x t c k ∧ OnlyCourse s t c k) ∧
    (f.st = .queued → f.kind = .job → (∀ k' x', s.course? c k' = some x' → ∀ l, l < 8 → (x'.lane l).waitsOn e f.gen = false) →
      ∃ t : State, exec (.fcancel q a) s = .next t ∧ CourseAdvanced s iss x.u x t c k ∧ SameBytes s t ∧
        mget? (t.core c).futs e = some { f with st := .cancelled } ∧
        (∀ p, p < 2 → (t.proc c p).job = (s.proc c p).job ∧ (t.proc c p).queue = (s.proc c p).queue.filter (fun r => decide (r.fut ≠ e)))) ∧
    (f.st = .running → f.kind = .job → (∀ k' x', s.course? c k' = some x' → ∀ l, l < 8 → (x'.lane l).waitsOn e f.gen = false) →
      ∀ p j, p < 2 → s.job? c p = some j → j.fut = e → (∀ r j', r ≠ p → s.job? c r = some j' → j'.fut ≠ e) →
      ∃ t : State, exec (.fcancel q a) s = .next t ∧ CourseAdvanced s iss x.u x t c k ∧
        mget? (t.core c).futs e = some { f with st := .cancelled } ∧ t.proc c p = { s.proc c p with job := none } ∧ (∀ r, r ≠ p → t.proc c r = s.proc c r) ∧
        t.accs = s.accs.filter (fun A => decide (A.ag ≠ .job c p)) ∧
        (∀ i T, mget? (s.core c).tiles i = some T → mget? (t.core c).tiles i = some
          (if (∃ X ∈ j.xfers, X.trans = true ∧ X.ent = some i) ∧ (T.st = .filling ∨ T.st = .draining) then { T with st := .empty } else T)) ∧
        (∀ r ∈ j.frames, frameState s (s.bayOf c) r = 1 → frameState t (s.bayOf c) r = 4) ∧
        (∀ m, (∀ r ∈ j.frames, m < frameAddr s (s.bayOf c) r ∨ frameAddr s (s.bayOf c) r + 8 ≤ m) → t.readByte m = s.readByte m))) ∧
  (∀ q d (a : HReg), CourseGives (.fmovHs q d a) q (fun _ _ _ _ => True) (fun _ _ _ x => x.u.ws d.toNat (x.rh a.toNat))) ∧
  (∀ q (d : HReg) (a : Reg) s iss c k x, CourseIssues s iss c k x → x.u.rq q = true → ∃ (t : State) (y : Course), exec (.fmovSh q d a) s = .next t ∧ OnlyCourse s t c k ∧
    t.course? c k = some y ∧ CourseAfter s iss true x.u (x.wh d.toNat (x.u.rs a.toNat)) y (fun _ ln => { ln with pc := iss.next }))

/-- R243, R245, R246: ACCRD, ACCWR and ACCZ. Lane l of a course meets row ROW0 + 8c + l of the block's accumulator, in the sixteen columns CQ names; ACCZ takes the whole row.
The word leaves its elements to be moved, in ascending lane order, ACCWR's sources read already; a step then moves one element, by itself. R75, R76, R77, R263: TALLOC takes the lowest free tile number of the block and the entry free the longest, and gives the tile's id, or all ones; ordinary lines of L1 leave
only the sets in which it pins a way. TFREE frees an empty tile and advances its generation; TSTAT reads a tile's state, length and generation. -/
def Obligations.TileAndAccumulatorResults : Prop :=
  (
  let ok (s : State) (iss : Issue) (c : Nat) (x : Course) (w : Nat) (bl : Block) : Prop :=
    s.block? c x.blk = some bl ∧ w / 2 ^ 18 = 0 ∧ w / 2 ^ 10 % 64 = 0 ∧ ∀ l ∈ iss.mask, l < 8 ∧ w % 1024 + 8 * x.idx + l < 64 * bl.accu
  let at' (x : Course) (w l j : Nat) : Nat := 64 * (w % 1024 + 8 * x.idx + l) + 16 * (w / 2 ^ 16 % 4) + j
  let owed (s : State) (iss : Issue) (x : Course) (ms : List AccMove) (y : Course) : Prop :=
    CourseAfter s iss true x.u { x with accOps := x.accOps ++ [{ iss := iss.id, pc := iss.pc, lanes := iss.mask, left := ms }] } y (fun _ ln => { ln with pc := iss.next })
  (∀ q (d a : Reg) s iss c k x bl, CourseIssues s iss c k x → x.u.rq q = true → ok s iss c x (x.u.rs a.toNat).toNat bl →
    ∃ (t : State) (y : Course), exec (.accrd q d a) s = .next t ∧ OnlyCourse s t c k ∧ t.course? c k = some y ∧
      owed s iss x (iss.mask.flatMap (fun l => (List.range 16).map (fun j => .rd l (d.toNat + j) (at' x (x.u.rs a.toNat).toNat l j)))) y) ∧
  (∀ q (d a : Reg) s iss c k x bl, CourseIssues s iss c k x → x.u.rq q = true → ok s iss c x (x.u.rs a.toNat).toNat bl →
    ∃ (t : State) (y : Course), exec (.accwr q d a) s = .next t ∧ OnlyCourse s t c k ∧ t.course? c k = some y ∧
      owed s iss x (iss.mask.flatMap (fun l => (List.range 16).map (fun j => .wr (at' x (x.u.rs a.toNat).toNat l j) ((x.lane l).rv (d.toNat + j))))) y) ∧
  (∀ q (a : Reg) s iss c k x bl, CourseIssues s iss c k x → x.u.rq q = true → ok s iss c x (x.u.rs a.toNat).toNat bl →
    ∃ (t : State) (y : Course), exec (.accz q a) s = .next t ∧ OnlyCourse s t c k ∧ t.course? c k = some y ∧
      owed s iss x (iss.mask.flatMap (fun l => (List.range 64).map (fun j => .wr (64 * ((x.u.rs a.toNat).toNat % 1024 + 8 * x.idx + l) + j) 0))) y) ∧
  (∀ (s : State) c k x o os m ms, s.course? c k = some x → x.accOps = o :: os → o.left = m :: ms →
    (∀ l r e, m = .rd l r e → rowErr s c x.blk e 1 = false) →
    ∃ (t : State) (y : Course), act s (.accum c k) = .stay t ∧ t.course? c k = some y ∧
      y.accOps = (if ms = [] then os else { o with left := ms } :: os) ∧ { y with accOps := x.accOps, lanes := x.lanes } = x ∧
      (∀ l r e, m = .rd l r e → OnlyCourse s t c k ∧ ∀ j, j < 8 →
        y.lane j = if j = l ∧ (x.lane l).live then (x.lane l).wv r (mget ((s.block? c x.blk).getD {}).rows e 0) else x.lane j) ∧
      (∀ e v bl, m = .wr e v → s.block? c x.blk = some bl → OnlyCourse (s.setBlock c x.blk { bl with rows := mset bl.rows e v }) t c k ∧
        ∀ j, j < 8 → y.lane j = x.lane j))) ∧
  (
  (∀ q (d a : Reg) s iss c k x bl, CourseIssues s iss c k x → x.u.rq q = true → s.block? c x.blk = some bl →
    let n := (x.u.rs a.toNat).toNat % 4096
    1 ≤ n → n ≤ 3072 →
    (∀ i e rest b, (List.range bl.tent).find? (fun i => (tileOf (s.core c) x.blk i).isNone) = some i → linesOf (s.core c) x.blk + n ≤ bl.tlines →
      (s.core c).tileFree = e :: rest → fitBset (s.core c) n = some b →
      let gen := mget (s.core c).tileGen e 0
      ∃ t : State, exec (.talloc q d a) s = .next t ∧
        CourseAdvanced s iss (x.u.ws d.toNat (BitVec.ofNat 64 (i % 256 + 2 ^ 19 + gen.toNat * 2 ^ 20))) x t c k ∧
        OnlyCourse (s.setCore c { s.core c with
          tileFree := rest, tiles := mset (s.core c).tiles e { blk := x.blk, tile := i, bset := b, len := n, st := .empty, gen := gen, data := [] },
          lines := (t.core c).lines, copies := (t.core c).copies }) t c k ∧
        (∀ w ∈ (t.core c).lines, w ∈ (s.core c).lines) ∧ (∀ w ∈ (t.core c).copies, w ∈ (s.core c).copies) ∧
        (∀ w ∈ (s.core c).lines, (∀ w' ∈ (s.core c).lines, w'.1 = w.1 → w' = w) → n / 256 = 0 → n % 256 ≤ (w.2.set + 256 - b % 256) % 256 →
          w ∈ (t.core c).lines)) ∧
    ((List.range bl.tent).find? (fun i => (tileOf (s.core c) x.blk i).isNone) = none ∨ bl.tlines < linesOf (s.core c) x.blk + n ∨
        (s.core c).tileFree = [] ∨ fitBset (s.core c) n = none →
      ∃ t : State, exec (.talloc q d a) s = .next t ∧ OnlyCourse s t c k ∧ CourseAdvanced s iss (x.u.ws d.toNat (BitVec.allOnes 64)) x t c k)) ∧
  (∀ q (a : Reg) s iss c k x e t0, CourseIssues s iss c k x → x.u.rq q = true →
    tileNamed (s.core c) x.blk ((x.u.rs a.toNat).setWidth 32) 0 = .ok (e, t0) → mget? (s.core c).tiles e = some t0 → t0.st = .empty →
    ∃ t : State, exec (.tfree q a) s = .next t ∧ CourseAdvanced s iss x.u x t c k ∧
      OnlyCourse (s.setCore c { s.core c with tiles := mdel (s.core c).tiles e, tileFree := (s.core c).tileFree ++ [e], tileGen := mset (s.core c).tileGen e (t0.gen + 1) }) t c k) ∧
  (∀ q d (a : Reg) e t0, CourseGives (.tstat q d a) q (fun s c _ x => tileNamed (s.core c) x.blk ((x.u.rs a.toNat).setWidth 32) 0 = .ok (e, t0))
    (fun _ _ _ x => x.u.ws d.toNat (BitVec.ofNat 64 ((match t0.st with | .empty => 1 | .filling => 2 | .ready => 3 | .draining => 4) + 2 ^ 8 * (t0.len % 4096) +
      2 ^ 20 * t0.gen.toNat)))) ∧
  (∀ q d (a : Reg) r, CourseGives (.tstat q d a) q (fun s c _ x => tileNamed (s.core c) x.blk ((x.u.rs a.toNat).setWidth 32) 0 = .error r)
    (fun _ _ _ x => x.u.ws d.toNat 0)))

/-- R314, R315, R329, R330: TRAP sends its call to mailbox 14, or leaves it waiting in the core, and its lanes wait; it is held behind an earlier one. ERET.ANS answers it. At ERET lanes wait until every live lane of the course is there; it then gives every
live lane its saved state and leaves the trap, and lanes it leaves exited write no register any more; where it is the last of its block to do so the block's resume step is made with it: the sequencer takes its image, phases complete again. R329 has that
step after the block's last ERET; that it is made with it is the model's reading, of log 49 and of the step list of spec/95_what_each_step_holds.md. -/
def Obligations.TrapAndReturnResults : Prop :=
  (∀ q (d a b : Reg) s iss c k x, CourseIssues s iss c k x → x.u.rq q = true → (x.u.rs b.toNat).toNat < 2 ^ 16 → x.trap = none → relPassed s (uniAgent iss) 7 = true →
    let y := s.bay (s.bayOf c)
    let m : W512 := BitVec.ofNat 512 (3 + (x.u.rs b.toNat).toNat * 2 ^ 16 + (c % 256 + k % 512 * 2 ^ 8 + y.inc.toNat * 2 ^ 32) * 2 ^ 64 +
      s.coreT c % 2 ^ 64 * 2 ^ 384 + (x.u.rs a.toNat).toNat * 2 ^ 448)
    let mb := y.mailbox 14
    ∃ (t : State) (z : Course), exec (.trap q d a b) s = .next t ∧ t.course? c k = some z ∧
      CourseAfter s iss true x.u { x with trap := some { d := d, next := iss.next } } z (fun _ ln => { ln with st := .trap }) ∧
      ((s.core c).msgs = [] → mb.entries.length < 256 → OnlyCourse (putBox s (s.bayOf c) 14
        { mb with entries := mb.entries ++ [m], prod := mb.prod + 1, since := if mb.entries.isEmpty then s.t else mb.since }) t c k) ∧
      ((s.core c).msgs ≠ [] ∨ 256 ≤ mb.entries.length → OnlyCourse (s.setCore c { s.core c with msgs := (s.core c).msgs ++ [m] }) t c k)) ∧
  (∀ q (a b : Reg) s iss c k x c' k' x' tr, CourseIssues s iss c k x → x.u.rq q = true → x.prv = true → relPassed s (uniAgent iss) 7 = true →
    (c', k') ≠ (c, k) → s.course? c' k' = some x' → x'.trap = some tr → s.bayOf? c' = s.bayOf? c → c' < 256 → k' < 512 →
    (x.u.rs a.toNat).toNat = c' + k' * 2 ^ 8 + (s.bay (s.bayOf c)).inc.toNat * 2 ^ 32 →
    ∃ (t : State) (z : Course), exec (.eretAns q a b) s = .next t ∧ CourseAdvanced s iss x.u x t c k ∧ t.course? c' k' = some z ∧ SameBytes s t ∧
      z.u = x'.u.ws tr.d.toNat (x.u.rs b.toNat) ∧ z.trap = none ∧ (∀ l, l < 8 → z.lane l =
        if (x'.lane l).st = .trap then { x'.lane l with st := .ready, pc := tr.next, acq := s.nextAcc } else x'.lane l)) ∧
  (∀ q (d a b : Reg) s iss c k x tr, CourseIssues s iss c k x → x.u.rq q = true → (x.u.rs b.toNat).toNat < 2 ^ 16 → x.trap = some tr → exec (.trap q d a b) s = .next s) ∧
  (∀ q s iss c k x m, CourseIssues s iss c k x → x.u.rq q = true → x.prv = true → x.ts = true → m < 8 → m ∉ iss.mask → (x.lane m).st ≠ .exited → (x.lane m).st ≠ .eret →
    ∃ (t : State) (y : Course), exec (.eret q) s = .next t ∧ OnlyCourse s t c k ∧ t.course? c k = some y ∧ CourseAfter s iss true x.u x y (fun _ ln => { ln with st := .eret })) ∧
  (∀ (s : State) c k x pc, s.course? c k = some x → (∃ ln ∈ x.lanes, ln.st ≠ .exited) → x.lanes.length ≤ 8 → (∀ ln ∈ x.lanes, ln.st = .exited ∨ (ln.st = .eret ∧ ln.pc = pc)) → (∀ bl, s.block? c x.blk = some bl → bl.deferred = false) →
    s.off = false →
    ∃ (t : State) (y : Course), act s (.eret c k) = .stay t ∧
      OnlyCourse (lanesGone s c k ((List.range 8).filter (fun l => (x.lane l).st = .eret ∧ (x.lane l).skind = 2))) t c k ∧ t.course? c k = some y ∧ y.ts = false ∧ y.prv = false ∧ y.cause = 0 ∧ y.u = x.u ∧ y.h = x.h ∧
      ∀ l, l < x.lanes.length → l < 8 → (y.lane l).v = (x.lane l).v ∧ ((x.lane l).st = .exited → y.lane l = x.lane l) ∧
        ((x.lane l).st = .eret → (x.lane l).skind = 0 → (y.lane l).st = .ready ∧ (y.lane l).pc = (x.lane l).spc)) ∧
  (∀ q s iss c k x, CourseIssues s iss c k x → x.u.rq q = true → x.prv = true → x.ts = true → iss.mask ≠ [] →
    (∀ l, l < 8 → (l ∈ iss.mask ↔ (x.lane l).st ≠ .exited)) → (∀ l ∈ iss.mask, l < 8 ∧ (x.lane l).pc = iss.pc) →
    let gone := (List.range 8).filter (fun l => l ∈ iss.mask ∧ (x.lane l).skind = 2)
    let at' := endIssue s iss true (fun _ ln => { ln with st := .eret }) iss.pc
    let left (t s' : State) : Prop := exec (.eret q) s = .next t ∧ OnlyCourse (lanesGone s' c k gone) t c k ∧ ∃ y, t.course? c k = some y ∧ y.ts = false ∧ y.prv = false ∧ y.cause = 0 ∧ y.u = x.u ∧ y.h = x.h ∧
      ∀ l ∈ iss.mask, (y.lane l).v = (x.lane l).v ∧ (y.lane l).p = (x.lane l).p ∧
        ((x.lane l).skind = 0 → (y.lane l).st = .ready ∧ (y.lane l).pc = (x.lane l).spc) ∧
        ((x.lane l).skind = 2 → (y.lane l).st = .exited) ∧
        (∀ n next, (x.lane l).skind = 1 → barrierAt s (s.bayOf c) x.u (x.lane l).spc 3 0 = some (n, next) →
          (y.lane l).st = .phase n next ∧ (y.lane l).pc = (x.lane l).spc)
    let others (bl : Block) : Prop := ∃ j ∈ bl.slots, j ≠ k ∧ ∃ y, s.course? c j = some y ∧ (y.ts = true ∨ y.yield = true) ∧ ∃ ln ∈ y.lanes, ln.st ≠ .exited
    let resumed (s : State) (bl : Block) (q : Option Seq) : State := s.setBlock c x.blk { bl with st := .running, deferred := false, image := none, seq := q }
    ((∀ bl, s.block? c x.blk = some bl → bl.deferred = false ∨ others bl) → ∃ t : State, left t s) ∧
    (∀ bl, s.block? c x.blk = some bl → bl.deferred = true → ¬ others bl → x.yield = false →
      (bl.seq = none → ∃ t : State, left t (resumed s bl none)) ∧
      (∀ q1 s1 v, bl.seq = some q1 → bayRead at' (.core c) true [x.blk, 512] (bl.save + 64) 3 64 (bl.save + 64) [] = .ok s1 v →
        ∃ t : State, left t (resumed s1 bl (some (seqOfImage (leNum v)))).bumpFree)))

namespace Sys2Proof.Machine

/-- An access that waits for a page of core c. -/
def waitsPage (s : State) (c : Nat) (a : Access) : Prop := tlbCore? s a.ag = some c ∧ (a.ph = .missed ∨ a.ph = .sideLog ∨ a.ph = .queued)
/-- Leaf and size code of a TLBW that install an entry at va (R317, R350). -/
def tlbwMaps (z : Nat) (leaf : W64) : Prop :=
  z ≠ 3 ∧ leaf.getLsbD 0 = true ∧ leaf.getLsbD 1 = true ∧ leaf.toNat / 65536 % 2 ^ 32 * 65536 % 2 ^ zBits z = 0
/-- The lanes of an issue that wait for accesses of its word, in a course else as `CourseAfter` says. -/
def IssueWaits (s : State) (iss : Issue) (x : Course) (t : State) (c k : Nat) (kind : PendKind) : Prop :=
  ∃ y, t.course? c k = some y ∧ CourseAfter s iss true x.u x y (fun l ln => { ln with st := (y.lane l).st }) ∧
    ∀ l ∈ iss.mask, l < 8 → ∃ p, (y.lane l).st = .pend p ∧ p.kind = kind ∧ p.next = iss.next
/-- The lanes of a course that wait with p go on at its next issue, its uniform registers becoming u. -/
def WaitEnds (t : State) (c k : Nat) (x : Course) (p : Pend) (u : Uni) : Prop :=
  ∃ y, t.course? c k = some y ∧ y.u = u ∧ y.h = x.h ∧
    ∀ l, l < 8 → y.lane l = if (x.lane l).st = .pend p then { x.lane l with st := .ready, pc := p.next } else x.lane l
/-- The bucket of the object table where a probe for a name looks k-th (R104). -/
def bucketOf (s : State) (b : Nat) (n : W128) (k : Nat) : Nat :=
  let oid := n.toNat / 2 ^ 48 % 2 ^ 64
  let h := oid ^^^ (oid / 2 ^ 32) ^^^ (n.toNat / 2 ^ 112 % 2 ^ 15 * 2 ^ 17)
  (h % 2 ^ (s.bay b).otb + k) % 2 ^ (s.bay b).otb
/-- The 32 bytes of a bucket, and its BST. -/
def bucketVal (s : State) (b i : Nat) : Nat := s.readNat ((s.bay b).otBase + 32 * i) 32
/-- Bucket i is the one that a probe for a name hits, k-th, and it gives frame f (R104). -/
def HitAt (s : State) (b : Nat) (n : W128) (k i f : Nat) : Prop :=
  let same (j : Nat) : Prop := bucketVal s b j % 4 = 1 ∧ bucketVal s b j / 2 ^ 176 % 2 ^ 79 = n.toNat / 2 ^ 48 % 2 ^ 79
  k < 8 ∧ i = bucketOf s b n k ∧ same i ∧ bucketVal s b i / 2 ^ 34 % 2 ^ 22 = f ∧ ∀ j, j < k → bucketVal s b (bucketOf s b n j) % 4 ≠ 0 ∧ ¬ same (bucketOf s b n j)
/-- The object table and the frame table of a bay do not overlap (R103). -/
def TablesApart (s : State) (b : Nat) : Prop :=
  (s.bay b).otBase + 32 * 2 ^ (s.bay b).otb ≤ (s.bay b).ftBase ∨ (s.bay b).ftBase + 32 * (s.bay b).fcnt ≤ (s.bay b).otBase
/-- Every wait of a course of this kind is p. -/
def OnlyWait (x : Course) (p : Pend) : Prop := (∃ l, l < 8 ∧ (x.lane l).st = .pend p) ∧ ∀ l q, (x.lane l).st = .pend q → q.kind = p.kind → q = p

end Sys2Proof.Machine

/-- R91, R316 to R318: MQPOP takes the oldest waiting entry into service and gives its two words, and without one it is held; TLBW installs a leaf and removes what overlaps it, or reports that
none maps, frees the entries in service of its range and retries what they hold: stated whole where nothing waits for a page, and for a load that does; TLBI removes entries, an access that a TLBW
has retried and that is not performed misses again, and its lanes wait for the other accesses translated in its range, or through an entry that goes, until they are performed. Every one of the
four completes. -/
def Obligations.TranslationWordResults : Prop :=
  (∀ q (d : Reg) s iss c k x pre m post, CourseIssues s iss c k x → x.u.rq q = true → x.prv = true →
    (s.core c).mq = pre ++ m :: post → (∀ e ∈ pre, e.service = true) → m.service = false →
    let n := fun (b : Bool) => if b then 1 else 0
    ∃ t : State, exec (.mqpop q d) s = .next t ∧ OnlyCourse (s.setCore c { s.core c with mq := pre ++ { m with service := true } :: post }) t c k ∧
      CourseAdvanced s iss ((x.u.ws d.toNat (BitVec.ofNat 64 (m.va.toNat / 65536 * 65536))).ws (d.toNat + 1)
        (BitVec.ofNat 64 (64 * n m.r + 128 * n m.w + 256 * n m.x + 512 * n m.prv + 1024 * (m.qtr % 4) + 2 ^ 32 * m.inc.toNat))) x t c k) ∧
  (∀ q (d : Reg) s iss c k x, CourseIssues s iss c k x → x.u.rq q = true → x.prv = true → (∀ m ∈ (s.core c).mq, m.service = true) → exec (.mqpop q d) s = .next s) ∧
  (∀ q (a b : Reg) s iss c k x, CourseIssues s iss c k x → x.u.rq q = true → x.prv = true →
    let z := (x.u.rs a.toNat).toNat % 4
    let va := (x.u.rs a.toNat).toNat - z
    let leaf := x.u.rs b.toNat
    va < 2 ^ 56 → va % 2 ^ zBits z = 0 →
    ∃ t : State, exec (.tlbw q a b) s = .next t ∧
      ((∀ A ∈ s.accs, ¬ waitsPage s c A) → (s.core c).heldPages = [] →
        SameMemory s t ∧ t.accs = s.accs ∧ CourseAdvanced s iss x.u x t c k ∧ (∀ e, e ≠ c → t.core e = s.core e) ∧
        (t.core c).mq = (s.core c).mq.filter (fun m => !(m.service && decide (m.va.toNat / 2 ^ zBits z = va / 2 ^ zBits z))) ∧
        (tlbwMaps z leaf → (∃ rest, (t.core c).tlb = { va := BitVec.ofNat 64 va, z := z, leaf := leaf } :: rest ∧
            ∀ e ∈ rest, e ∈ (s.core c).tlb ∧ e.overlaps va z = false) ∧
          ∀ p, ∀ e ∈ mget (t.core c).qtlb p [], e.overlaps va z = false) ∧
        (¬ tlbwMaps z leaf → (t.core c).tlb = (s.core c).tlb ∧ (t.core c).qtlb = (s.core c).qtlb)) ∧
      (∀ A slot l m pa, A ∈ s.accs → (∀ B ∈ s.accs, B = A ∨ ¬ waitsPage s c B ∧ B.id ≠ A.id) → (s.core c).heldPages = [] → A.ph = .missed → A.ag = .thread c slot l →
        slot ≠ 511 → slot ≠ k → A.kind = .load → A.dest ≠ .again → A.looked = true → m ∈ (s.core c).mq → m.service = true → m.va.toNat / 2 ^ zBits z = va / 2 ^ zBits z →
        m.va.toNat / 65536 = A.ea.toNat / 65536 → tlbwMaps z leaf → leafCheck s z leaf A.ea.toNat .load A.prv = .ok pa →
        SameMemory s t ∧ CourseAdvanced s iss x.u x t c k ∧ m ∉ (t.core c).mq ∧ (∃ A' ∈ t.accs, A'.id = A.id ∧ A'.ag = A.ag ∧ A'.ph = .flight pa ∧ A'.retried = true) ∧
        (∀ B ∈ s.accs, B ≠ A → B ∈ t.accs) ∧
        (l < 8 → l ∈ A.lanes → (s.lane c slot l).st = .parked A.id → A.issv = false → (t.lane c slot l).st = .ready ∧ (t.lane c slot l).pc = A.next))) ∧
  (∀ q (a b : Reg) s iss c k x, CourseIssues s iss c k x → x.u.rq q = true → x.prv = true → (x.u.rs b.toNat).toNat < 2 →
    let z := (x.u.rs a.toNat).toNat % 4
    let va := (x.u.rs a.toNat).toNat - z
    let cs := if x.u.rs b.toNat = 1 then s.coresOf (s.bayOf c) else [c]
    let gone (e : Nat) (A : Access) : Prop := z = 3 ∨ A.ea.toNat / 2 ^ zBits z = va / 2 ^ zBits z ∨
      ∃ y, (y ∈ (s.core e).tlb ∨ ∃ Q ∈ (s.core e).qtlb, y ∈ Q.2) ∧ y.overlaps va z = true ∧ y.covers A.ea.toNat = true
    let through (A : Access) : Prop := untranslated A.ag = false ∧ (∃ d, A.ph = .flight d ∧ isPeer d = false) ∧ ∃ e ∈ cs, tlbCore? s A.ag = some e ∧ gone e A
    ∃ t : State, exec (.tlbi q a b) s = .next t ∧ SameBytes s t ∧
      (∀ l ∈ iss.mask, l < 8 → ∃ p, (t.lane c k l).st = .pend p ∧ p.kind = .tlbi ∧ p.next = iss.next) ∧
      ((∀ A ∈ s.accs, A.retried = true → ∀ d, A.ph ≠ .flight d) → t.accs = s.accs ∧ IssueWaits s iss x t c k .tlbi) ∧
      ((∀ A ∈ s.accs, ∀ B ∈ s.accs, A.id = B.id → A = B) →
        (∀ A ∈ s.accs, A.retried = true → through A → ∃ A' ∈ t.accs, A'.id = A.id ∧ A'.ag = A.ag ∧ (A'.ph = .missed ∨ A'.ph = .queued ∨ A'.ph = .sideLog)) ∧
        (∀ l ∈ iss.mask, l < 8 → ∀ p, (t.lane c k l).st = .pend p → ∀ A ∈ s.accs, A.retried = false → (A.id ∈ p.accs ↔ through A))) ∧
      (∀ e ∈ cs, (t.core e).tlb = (s.core e).tlb.filter (fun y => decide (z ≠ 3) && !y.overlaps va z) ∧
        ∀ p, mget (t.core e).qtlb p [] = (mget (s.core e).qtlb p []).filter (fun y => decide (z ≠ 3) && !y.overlaps va z)) ∧
      (∀ e, e ∉ cs → (t.core e).tlb = (s.core e).tlb ∧ (t.core e).qtlb = (s.core e).qtlb)) ∧
  (∀ (s : State) core slot x p, s.course? core slot = some x → p.kind = .tlbi → OnlyWait x p →
    ((∀ A ∈ s.accs, A.id ∈ p.accs → A.ph.unperformed = false) → ∃ t : State, exec (.tlbiComplete core slot) s = .next t ∧ OnlyCourse s t core slot ∧ WaitEnds t core slot x p x.u) ∧
    ((∃ A ∈ s.accs, A.id ∈ p.accs ∧ A.ph.unperformed = true) → exec (.tlbiComplete core slot) s = .next s))

/-- R104 to R107, R320, R385: OBJMAP. A name that is mapped answers OK and changes nothing; the four failures leave everything as it was; a new name, or a vacated frame of its name, takes
the frame, whose entry then holds NAME, BASE, LEN and MODE of the request, with GEN advanced or kept, filling or, in MODE 2, resident. A new name goes to the first free bucket of its eight; the bucket
that held the frame's old name is a tombstone. That a revoked name is answered before every other failure, and that the reserved MODE 3 starts filling, is the model's reading (log 53). R106, R321, R322: OBJUNMAP and OBJSTAT. Form 0 takes a resident frame to draining and waits; form 1 waits, and its step takes a draining frame to vacated; form 2 makes a vacated frame
absent, with NAME zero and GEN kept, and its name's bucket a tombstone; a frame out of range or in another state fails and changes nothing. -/
def Obligations.ObjectWordResults : Prop :=
  (
  ∀ q (d a b : Reg) s iss c k x s' v, CourseIssues s iss c k x → x.u.rq q = true → x.prv = true → (x.u.rs a.toNat).toNat % 32 = 0 →
    opReadSec s iss (x.u.rs a.toNat) 32 = .ok s' v →
    let y := s.bayOf c
    let r := leNum v
    let name : W128 := BitVec.ofNat 128 (r / 2 ^ 128)
    let f := (x.u.rs b.toNat).toNat % 2 ^ 22
    let revoked := ∃ e ∈ (s'.bay y).revoked, nameKey e.name = nameKey name
    let result (t : State) (g : BitVec 4) (f reason status : Nat) : Prop :=
      CourseAdvanced s iss (x.u.ws d.toNat (BitVec.ofNat 64 (status + 2 ^ 8 * reason + 2 ^ 32 * f + 2 ^ 54 * g.toNat))) x t c k
    let fails (reason : Nat) : Prop := ∃ t : State, exec (.objmap q d a b) s = .next t ∧ OnlyCourse s' t c k ∧
      result t (if f < (s'.bay y).fcnt then frameGen s' y f else 0) f reason 2
    let mode := r / 2 ^ 23 % 4
    let mapped (f : Nat) (g : BitVec 4) (more : State → Prop) : Prop := ∃ t : State, exec (.objmap q d a b) s = .next t ∧ result t g f 0 0 ∧ more t ∧
      t.readNat (frameAddr s' y f) 32 = r / 2 ^ 128 % 2 ^ 128 * 2 ^ 128 + r / 2 ^ 64 % 2 ^ 64 * 2 ^ 64 + r / 2 ^ 32 % 2 ^ 32 * 2 ^ 32 +
        g.toNat * 2 ^ 28 + (if mode = 2 then 2 else 1) * 2 ^ 25 + mode * 2 ^ 23 ∧
      (mode = 2 → ∀ e ∈ s'.coresOf y, (t.core e).reqs = (s'.core e).reqs.filter (fun R => decide (nameKey R.name ≠ nameKey name)))
    -- the bucket of the frame's old name, free ones of the new name's eight, and what the step makes of them
    let old (i : Nat) : Prop := ∃ k, HitAt s' y (frameName s' y f) k i f
    let free (i : Nat) : Prop := bucketVal s' y i % 4 = 0 ∨ bucketVal s' y i % 4 = 2 ∨ old i
    let inserted (t : State) : Prop := ∃ k, k < 8 ∧ free (bucketOf s' y name k) ∧ (∀ j, j < k → ¬ free (bucketOf s' y name j)) ∧
      bucketVal t y (bucketOf s' y name k) = name.toNat * 2 ^ 128 + f * 2 ^ 34 + 1 ∧
      ∀ i, i ≠ bucketOf s' y name k → (old i → bucketVal t y i % 4 = 2) ∧ (¬ old i → i < 2 ^ (s'.bay y).otb → bucketVal t y i = bucketVal s' y i)
    -- what is parked on a frame or a name is tried again in a step that makes a frame resident
    let quiet : Prop := mode = 2 → ∀ A ∈ s'.accs, A.ph ≠ .frame ∧ ∀ n, A.ph ≠ .name n
    objmapBad s' y f r = none →
    (revoked → fails 4) ∧
    (¬ revoked → ∀ g, probe s' y name = some g → g < 2 ^ 22 → frameState s' y g ≠ 4 →
      ∃ t : State, exec (.objmap q d a b) s = .next t ∧ OnlyCourse s' t c k ∧ result t (frameGen s' y g) g 0 0) ∧
    (¬ revoked → probe s' y name = none →
      ((s'.bay y).fcnt ≤ f → fails 3) ∧
      (f < (s'.bay y).fcnt → frameState s' y f ≠ 0 → frameState s' y f ≠ 4 → fails 2) ∧
      (f < (s'.bay y).fcnt → frameState s' y f = 0 ∨ frameState s' y f = 4 →
        ((∀ k, k < 8 → bucketVal s' y (bucketOf s' y name k) % 4 = 1 ∨ bucketVal s' y (bucketOf s' y name k) % 4 = 3) → fails 1) ∧
        ((s'.bay y).otb ≠ 0 → (∃ k, k < 8 ∧ (bucketVal s' y (bucketOf s' y name k) % 4 = 0 ∨ bucketVal s' y (bucketOf s' y name k) % 4 = 2)) →
          TablesApart s' y → quiet → mapped f (frameGen s' y f + 1) inserted))) ∧
    (¬ revoked → ∀ g, probe s' y name = some g → g < 2 ^ 22 → frameState s' y g = 4 → quiet → mapped g (frameGen s' y g) (fun _ => True)) ∧
    ((s'.bay y).otb ≠ 0 → ∀ g, probe s' y name = some g ↔ ∃ k i, HitAt s' y name k i g)) ∧
  (
  let res (g : BitVec 4) (f reason status : Nat) : W64 := BitVec.ofNat 64 (status + 2 ^ 8 * reason + 2 ^ 32 * f + 2 ^ 54 * g.toNat)
  (∀ q (d a b : Reg) s iss c k x, CourseIssues s iss c k x → x.u.rq q = true → x.prv = true →
    let f := (x.u.rs a.toNat).toNat
    let form := (x.u.rs b.toNat).toNat
    let y := s.bayOf c
    let fails (g : BitVec 4) (reason : Nat) : Prop := ∃ t : State, exec (.objunmap q d a b) s = .next t ∧ OnlyCourse s t c k ∧
      CourseAdvanced s iss (x.u.ws d.toNat (res g f reason 2)) x t c k
    f < 2 ^ 22 → form < 3 →
    ((s.bay y).fcnt ≤ f → fails 0 3) ∧
    (f < (s.bay y).fcnt → dropBad s y f = none →
      (frameState s y f ≠ form + 2 → fails (frameGen s y f) 2) ∧
      (form = 0 → frameState s y f = 2 → ∃ t : State, exec (.objunmap q d a b) s = .next t ∧ frameState t y f = 3 ∧ frameGen t y f = frameGen s y f ∧
        IssueWaits s iss x t c k .unmapDrain ∧ ∀ e, e < frameAddr s y f ∨ frameAddr s y f + 8 ≤ e → t.readByte e = s.readByte e) ∧
      (form = 1 → frameState s y f = 3 → ∃ t : State, exec (.objunmap q d a b) s = .next t ∧ OnlyCourse s t c k ∧ IssueWaits s iss x t c k .unmapVacate) ∧
      (form = 2 → frameState s y f = 4 → (s.bay y).otb ≠ 0 → TablesApart s y →
        let old (i : Nat) : Prop := ∃ k, HitAt s y (frameName s y f) k i f
        ∃ t : State, (∀ i, (old i → bucketVal t y i % 4 = 2) ∧ (¬ old i → i < 2 ^ (s.bay y).otb → bucketVal t y i = bucketVal s y i)) ∧ exec (.objunmap q d a b) s = .next t ∧ frameState t y f = 0 ∧ frameName t y f = 0 ∧ frameGen t y f = frameGen s y f ∧
          CourseAdvanced s iss (x.u.ws d.toNat (res (frameGen s y f) f 0 0)) x t c k))) ∧
  (∀ (s : State) core slot x p, s.course? core slot = some x → p.kind = .unmapDrain → OnlyWait x p → accsDone s p.accs = true → p.frame < (s.bay (s.bayOf core)).fcnt →
    ∃ t : State, exec (.objunmapDrainReturn core slot) s = .next t ∧ OnlyCourse s t core slot ∧
      WaitEnds t core slot x p (x.u.ws p.d.toNat (res (frameGen s (s.bayOf core) p.frame) (p.frame % 2 ^ 22) 0 0))) ∧
  (∀ (s : State) core slot x p, s.course? core slot = some x → p.kind = .unmapVacate → OnlyWait x p → accsDone s p.accs = true → p.frame < (s.bay (s.bayOf core)).fcnt →
    let y := s.bayOf core
    frameBad s y p.frame = none → frameState s y p.frame = 3 → ∃ t : State, exec (.objunmapVacateStep core slot) s = .next t ∧ frameState t y p.frame = 4 ∧ frameGen t y p.frame = frameGen s y p.frame ∧
      WaitEnds t core slot x p (x.u.ws p.d.toNat (res (frameGen s y p.frame) (p.frame % 2 ^ 22) 0 0)) ∧
      ∀ e, e < frameAddr s y p.frame ∨ frameAddr s y p.frame + 8 ≤ e → t.readByte e = s.readByte e) ∧
  (∀ q (d a : Reg) s iss c k x, CourseIssues s iss c k x → x.u.rq q = true → x.prv = true → d.toNat % 4 = 0 → (x.u.rs a.toNat).toNat < 2 ^ 22 →
    frameBad s (s.bayOf c) (x.u.rs a.toNat).toNat = none →
    ∃ t u, exec (.objstat q d a) s = .next t ∧ OnlyCourse s t c k ∧ CourseAdvanced s iss u x t c k ∧ u.q = x.u.q ∧
      (∀ i, i < 4 → u.rs (d.toNat + i) = if (x.u.rs a.toNat).toNat < (s.bay (s.bayOf c)).fcnt
        then BitVec.ofNat 64 (s.readNat ((s.bay (s.bayOf c)).ftBase + 32 * (x.u.rs a.toNat).toNat + 8 * i) 8) else 0) ∧
      (∀ r, r < d.toNat ∨ d.toNat + 4 ≤ r → u.rs r = x.u.rs r)))

/-- R96, R97, R323: HARVEST. A leaf that maps nothing gives 0; else bit 1 of the result says that a slice was saturated, bit 0 that a page of the range counts as written, and then DIRTY is set in
the leaf, unless it lies in an object table (R103; log 114); CLR takes the range's pages out of every slice's record, SATCLR empties them all. -/
def Obligations.HarvestResults : Prop :=
  ∀ q (d a b : Reg) s iss c k x, CourseIssues s iss c k x → x.u.rq q = true → x.prv = true → (x.u.rs a.toNat).toNat % 8 = 0 → (x.u.rs b.toNat).toNat < 16 →
    let at' := canonPa s (x.u.rs a.toNat).toNat
    let e : W64 := BitVec.ofNat 64 (s.readNat at' 8)
    let z := (x.u.rs b.toNat).toNat / 4
    let inLeaf := fun (p : Nat) => p * 65536 / 2 ^ zBits z = e.toNat / 65536 % 2 ^ 32 * 65536 / 2 ^ zBits z
    let sat := ∃ y ∈ s.slices, y.2.sat = true
    let tables := inTables s (x.u.rs a.toNat).toNat = true
    let wrote := sat ∨ ∃ y ∈ s.slices, ∃ p ∈ y.2.dirty, inLeaf p
    badSector s (at' / 32) = none →
    ∃ t v, exec (.harvest q d a b) s = .next t ∧ CourseAdvanced s iss (x.u.ws d.toNat v) x t c k ∧ t.accs = s.accs ∧
      (e.getLsbD 0 = false ∨ e.getLsbD 1 = false → v = 0 ∧ t.mem = s.mem ∧ t.slices = s.slices) ∧
      (e.getLsbD 0 = true → e.getLsbD 1 = true →
        (v.getLsbD 1 = true ↔ sat) ∧ (v.getLsbD 0 = true ↔ wrote) ∧ v.toNat < 4 ∧
        (wrote → ¬ tables → t.readNat at' 8 = (e ||| 0x200#64).toNat ∧ ∀ g, g < at' ∨ at' + 8 ≤ g → memGet t.mem g = memGet s.mem g) ∧
        (¬ wrote ∨ tables → t.mem = s.mem) ∧
        ((x.u.rs b.toNat).getLsbD 0 = true → ∀ y ∈ t.slices, ∀ p ∈ y.2.dirty, ¬ inLeaf p) ∧
        ((x.u.rs b.toNat).getLsbD 1 = true → ∀ y ∈ t.slices, y.2.dirty = [] ∧ y.2.sat = false) ∧
        ((x.u.rs b.toNat).toNat % 4 = 0 → ¬ wrote → t.slices = s.slices))

/-- R325 to R330: pre-emption. PREEMPT makes the traps of a running block due; a course enters its yield trap; HALT, and the swap-out once every course has halted; RESUME makes the courses
anew in the restore trap. R328 holds the course at HALT until its block is released; that HALT makes its lanes halted at once and the wait stands at the swap-out is the model's reading (log 49),
and so is that RESUME reads the restore routine's entry in its own step (log 23). -/
def Obligations.PreemptionResults : Prop :=
  (∀ q (a b : Reg) s iss c k x bl, CourseIssues s iss c k x → x.u.rq q = true → x.prv = true → (x.u.rs a.toNat).toNat < 2 ^ 17 → (x.u.rs b.toNat).toNat % 64 = 0 →
    let c' := (x.u.rs a.toNat).toNat % 256
    let b' := (x.u.rs a.toNat).toNat / 256
    s.block? c' b' = some bl → bl.bay = s.bayOf c → bl.st = .running → bl.dir = none → (c' = c → k ∉ bl.slots) →
    ∃ (t : State) (bl' : Block), exec (.preempt q a b) s = .next t ∧ SameBytes s t ∧ t.accs = s.accs ∧ CourseAdvanced s iss x.u x t c k ∧ t.block? c' b' = some bl' ∧
      bl'.st = .saving ∧ bl'.save = x.u.rs b.toNat ∧ bl'.deferred = true ∧ bl'.slots = bl.slots ∧ bl'.bars = bl.bars ∧ bl'.rows = bl.rows ∧
      (∀ j ∈ bl.slots, ∀ y, s.course? c' j = some y → (∃ l, l < 8 ∧ (y.lane l).st ≠ .exited) → y.lanes.length = 8 →
        ∃ z, t.course? c' j = some z ∧ z.yield = true ∧ ∀ l, l < 8 → z.lane l = if (y.lane l).st = .monitor then { y.lane l with st := .woken } else y.lane l)) ∧
  (∀ (s : State) core slot x bl ids s' v, s.course? core slot = some x → s.block? core x.blk = some bl → x.yield = true → x.trap = none → x.issv = [] → bl.image = some ids →
    accsDone s ids = true → (∀ a ∈ s.accs, ∀ l, a.ag = .thread core slot l → a.dest = .none ∨ a.dest = .again ∨ a.ph = .missed ∨ a.ph = .queued ∨ a.ph = .frame ∨ ∃ n, a.ph = .name n) →
    x.accOps = [] → bayRead s (.core core) true [x.blk, slot] bl.save 2 8 bl.save [] = .ok s' v →
    ∃ (t : State) (y : Course), exec (.yieldTrapEntry core slot) s = .next t ∧ t.course? core slot = some y ∧ SameMemory s t ∧ y.ts = true ∧ y.prv = true ∧ y.cause = 1 ∧ y.addr = bl.save ∧
      y.yield = false ∧ y.u = x.u ∧ y.h = x.h ∧
      ∀ l, l < 8 → ((x.lane l).st = .exited → y.lane l = x.lane l) ∧
        ((x.lane l).st ≠ .exited → (y.lane l).st = .ready ∧ (y.lane l).pc = clear2 (BitVec.ofNat 64 (leNum v)) ∧ (y.lane l).fair = 0 ∧
          (y.lane l).v = (x.lane l).v ∧ (y.lane l).p = (x.lane l).p ∧
          ((∃ n next, (x.lane l).st = .phase n next ∨ (x.lane l).st = .arriving n next) → (y.lane l).skind = 1 ∧ (y.lane l).spc = (x.lane l).pc) ∧
          ((x.lane l).st = .ready ∨ (∃ r, (x.lane l).st = .barrier r) ∨ (x.lane l).st = .woken ∨ (∃ h d n i, (x.lane l).st = .future h d n i) →
            (y.lane l).skind = 0 ∧ (y.lane l).spc = (x.lane l).pc))) ∧
  (∀ q s iss c k x, CourseIssues s iss c k x → x.u.rq q = true → x.prv = true → x.ts = true → x.cause = 1 →
    ∃ (t : State) (y : Course), exec (.halt q) s = .next t ∧ OnlyCourse s t c k ∧ t.course? c k = some y ∧ CourseAfter s iss true x.u x y (fun _ ln => { ln with st := .halted })) ∧
  (∀ (s : State) core blk bl, s.block? core blk = some bl → bl.st = .saving → bl.slots ≠ [] →
    (∀ k ∈ bl.slots, ∃ x, s.course? core k = some x ∧ (∀ ln ∈ x.lanes, ln.st = .exited ∨ ln.st = .halted) ∧ (∃ ln ∈ x.lanes, ln.st = .halted)) →
    blkJobs s core blk = false → tilesQuiet s core blk = true → (∀ k ∈ bl.slots, courseReleased s core k = true) → bl.arrivals = [] →
    (s.bay bl.bay).notices.length + (s.bay bl.bay).reserved < 4096 →
    ∃ (t : State) (bl' : Block), exec (.swapOut core blk) s = .next t ∧ SameBytes s t ∧ t.block? core blk = some bl' ∧ bl'.st = .swapped ∧ bl'.slots = [] ∧ bl'.dir = bl.dir ∧
      (∀ k ∈ bl.slots, t.course? core k = none) ∧ (t.core core).futs = (s.core core).futs ∧ (∀ e y, mget? (t.core core).tiles e = some y → y.blk ≠ blk) ∧
      (t.bay bl.bay).notices = (s.bay bl.bay).notices ++
        [BitVec.ofNat 512 (4 + core % 256 * 2 ^ 8 + blk % 512 * 2 ^ 16 + bl.save.toNat * 2 ^ 64 + s.coreT core % 2 ^ 64 * 2 ^ 128)]) ∧
  (∀ q (a b : Reg) s iss c k x bl s' v ks, CourseIssues s iss c k x → x.u.rq q = true → x.prv = true → (x.u.rs a.toNat).toNat < 2 ^ 17 → (x.u.rs b.toNat).toNat % 64 = 0 →
    let c' := (x.u.rs a.toNat).toNat % 256
    let b' := (x.u.rs a.toNat).toNat / 256
    s.block? c' b' = some bl → bl.bay = s.bayOf c → bl.st = .swapped → opReadSec s iss (x.u.rs b.toNat + 8) 8 = .ok s' v →
    pickSlots (s'.core c') ((bl.threads + 7) / 8) = some ks → ks.Nodup → fits (s'.core c') bl = true → (c' = c → k ∉ ks ∧ x.active = true) →
    ∃ (t : State) (bl' : Block), exec (.resume q a b) s = .next t ∧ CourseAdvanced s iss x.u x t c k ∧ t.mem = s.mem ∧ t.block? c' b' = some bl' ∧ bl'.st = .restoring ∧ bl'.slots = ks ∧
      bl'.save = x.u.rs b.toNat ∧ bl'.deferred = bl.deferred ∧ bl'.dir = bl.dir ∧ bl'.rows = [] ∧
      ∀ i j, ks[i]? = some j → ∃ y, t.course? c' j = some y ∧ y.blk = b' ∧ y.idx = i ∧ y.ts = true ∧ y.prv = true ∧ y.cause = 2 ∧ y.addr = x.u.rs b.toNat ∧ y.u = {} ∧ y.h = [] ∧
        ∀ l, l < 8 → (y.lane l).v = [] ∧ (y.lane l).p = 0 ∧ (y.lane l).pc = clear2 (BitVec.ofNat 64 (leNum v)) ∧
          (y.lane l).st = if 8 * i + l < bl.threads then .ready else .exited)

/-- R24, R305, R309, R346: each privileged word issued without privilege takes PRIV before any effect: one record in the core's buffer, its lanes held at their PC, and nothing else changes but
what every issue leaves in its course. -/
def Obligations.PrivilegedWordsFault : Prop :=
  ∀ (q : Guard) (i : Instr), (∃ d a, i = .mbxrd q d a) ∨ i = .eret q ∨ (∃ a b, i = .eretAns q a b) ∨ (∃ a b, i = .tlbw q a b) ∨ (∃ a b, i = .tlbi q a b) ∨
      (∃ d, i = .mqpop q d) ∨ (∃ d a b, i = .objmap q d a b) ∨ (∃ d a b, i = .objunmap q d a b) ∨ (∃ d a, i = .objstat q d a) ∨
      (∃ d a b, i = .harvest q d a b) ∨ (∃ a b, i = .preempt q a b) ∨ (∃ a b, i = .resume q a b) ∨ i = .halt q →
    ∀ (s : State) iss c k x, CourseIssues s iss c k x → x.u.rq q = true → x.prv = false → k < 510 → (s.core c).recs.length < 16 →
      ∃ (t : State) (y : Course) (r : FaultRec), exec i s = .next t ∧ t.course? c k = some y ∧ r.code = 0x03 ∧ r.pc = iss.pc ∧ r.held = true ∧ r.blk = x.blk ∧
        OnlyCourse (s.setCore c { s.core c with recs := (s.core c).recs ++ [r] }) t c k ∧
        CourseAfter s iss (iss.word.getLsbD 31) x.u x y (fun _ ln => { ln with st := .held iss.next, pc := iss.pc })

namespace Sys2Proof.Machine

/-- A word of a matrix sequencer completes where `P` holds: the sequencer becomes `f` of itself, and nothing else changes (R230). -/
def SeqGives (i : Instr) (P : State → Nat → Block → Seq → Prop) (f : Issue → State → Nat → Block → Seq → Seq) : Prop :=
  ∀ (s : State) iss c b q bl, SeqIssues s iss c b q → s.block? c b = some bl → P s c bl q →
    ∃ t : State, exec i s = .next t ∧ OnlyBlock s t c b ∧ t.block? c b = some { bl with seq := some (f iss s c bl q) }
/-- Register r of matrix lane l: lane l mod 8 of the block's course l / 8 (R229). -/
def matReg (s : State) (c : Nat) (bl : Block) (l r : Nat) : W32 := (((s.course? c (bl.slots.getD (l / 8) 512)).getD {}).lane (l % 8)).rv r
/-- sA[31:0] of matrix course 0, or 0 if it has exited (R233, R238). -/
def course0Is (s : State) (c : Nat) (bl : Block) (a : Reg) (v : W32) : Prop :=
  match s.course? c (bl.slots.headD 512) with
  | none => v = 0
  | some x => if ∃ ln ∈ x.lanes, ln.st ≠ .exited then v = (x.u.rs a.toNat).setWidth 32 else v = 0
/-- The registers of a fragment (R232). -/
def fragN (t : BitVec 3) : Nat := if t = 2 then 8 else 16
/-- q with one more operation issued. -/
def seqPush (q : Seq) (k : SeqKind) (row0 : Nat) (next : W64) : Seq :=
  { q with pc := next, ops := q.ops ++ [{ id := q.nextId, kind := k, row0 := row0 }], nextId := q.nextId + 1 }
/-- FP32 codes of finite values. -/
def finite32 (x : W32) : Prop := ∃ s m e, unpackF fp32 x.toNat = .fin s m e

end Sys2Proof.Machine

/-- R230 to R240: the words of the matrix sequencer, where their operands are in range and no unit they read has an uncorrectable error (R379). MMA reads both fragments and the scales of every matrix lane in one step and issues its updates; MSCL sets types and
scales; MLOOP is bottom-tested; MBAR.W goes on, or waits with PC at the word; MBAR.A and MEND are issued. -/
def Obligations.MatrixWordResults : Prop :=
  (∀ d a b, SeqGives (.mma d a b)
    (fun s c bl q => a.toNat + fragN q.ta - 1 ≤ bl.vregs ∧ b.toNat + fragN q.tb - 1 ≤ bl.vregs ∧ d.toNat < bl.accu ∧
      fragErr s c bl a.toNat (fragN q.ta) = false ∧ fragErr s c bl b.toNat (fragN q.tb) = false ∧ (q.sav = true → fragErr s c bl q.sareg.toNat 1 = false))
    (fun iss s c bl q => seqPush q (.mma q.ta q.tb
      ((List.range 64).map (fun l => (List.range (fragN q.ta)).map (fun j => matReg s c bl l (a.toNat + j))))
      ((List.range 64).map (fun l => (List.range (fragN q.tb)).map (fun j => matReg s c bl l (b.toNat + j))))
      ((List.range 64).map (fun l => if q.sav then matReg s c bl l q.sareg.toNat else 0x3F800000#32))
      (if q.sav then q.sb else 0x3F800000#32)) (64 * d.toNat) iss.next)) ∧
  (∀ d, SeqGives (.mzero d) (fun _ _ bl _ => d.toNat < bl.accu) (fun iss _ _ _ q => seqPush q .mzero (64 * d.toNat) iss.next)) ∧
  (∀ d a tb ta v, (ta, tb) ∈ [(0#3, 0#3), (0, 1), (1, 0), (1, 1), (2, 2)] →
    SeqGives (.mscl d a tb ta) (fun s c bl _ => d.toNat ≤ bl.vregs ∧ course0Is s c bl a v)
      (fun iss _ _ _ q => { q with pc := iss.next, ta := ta, tb := tb, sav := true, sareg := d, sb := v })) ∧
  (∀ ty, ty = 3#3 ∨ ty = 4 → SeqGives (.mscl 0 0 ty ty) (fun _ _ _ _ => True)
    (fun iss _ _ _ q => { q with pc := iss.next, ta := ty, tb := ty, sav := false, sb := 0x3F800000#32 })) ∧
  (∀ n a b v, b ≠ 0 → SeqGives (.mloop n a b)
    (fun s c bl q => if mget q.arm n.toNat false then v = mget q.c n.toNat 0 else course0Is s c bl a v)
    (fun iss _ _ _ q => if v.toNat ≤ 1 then { q with pc := iss.next, c := mset q.c n.toNat 0, arm := mset q.arm n.toNat false }
      else { q with pc := BitVec.ofInt 64 ((iss.wpc.toNat : Int) - 4 * b.toNat), c := mset q.c n.toNat (v - 1), arm := mset q.arm n.toNat true })) ∧
  (∀ o, SeqGives (.mjmp o) (fun _ _ _ _ => True) (fun iss _ _ _ q => { q with pc := match iss.pfx.imm with
    | some p => branchTo iss.wpc (BitVec.ofNat 32 (p.toNat * 2 ^ 22 + o.toNat))
    | none => branchTo iss.wpc o })) ∧
  (∀ k n, SeqGives (.mbarW k n) (fun _ _ bl _ => n.toNat < bl.nbar) (fun iss _ _ bl q =>
    let w := mget q.w k.toNat 0
    let ahead := ((bl.bar n.toNat).phase.toNat + 2 ^ 16 - w.toNat) % 2 ^ 16
    if 1 ≤ ahead ∧ ahead ≤ 32767 then { q with pc := iss.next, w := mset q.w k.toNat (w + 1) }
    else { q with pc := iss.pc, run := .waiting, waitAt := some (n.toNat, k.toNat, iss.next) })) ∧
  (∀ n, SeqGives (.mbarA n) (fun _ _ bl _ => n.toNat < bl.nbar) (fun iss _ _ _ q => seqPush q (.arrive n.toNat false) 0 iss.next)) ∧
  (∀ n, SeqGives (.mbarADrain n) (fun _ _ bl _ => n.toNat < bl.nbar) (fun iss _ _ _ q => seqPush q (.arrive n.toNat true) 0 iss.next)) ∧
  SeqGives .mend (fun _ _ _ _ => True) (fun iss _ _ _ q => seqPush q .mend 0 iss.next)

/-- R135, R136: the update of one accumulator element. Over finite operands the exact sum of products, scaled and added to the accumulator, is rounded once, to nearest; a NaN in the
accumulator stays; any other NaN gives the canonical one. -/
def Obligations.MatrixUpdateRoundsOnce : Prop :=
  (∀ (ta tb : BitVec 3) (fa fb : List W32) (sa sb acc : W32),
    (ta, tb) ∈ [(0#3, 0#3), (0, 1), (1, 0), (1, 1), (2, 2), (3, 3), (4, 4)] → finite32 acc → finite32 sa → finite32 sb →
    let K := if ta.toNat < 3 then 64 else 32
    (∀ k, k < K → (∃ s m e, elemVal ta fa k = .fin s m e) ∧ ∃ s m e, elemVal tb fb k = .fin s m e) →
    let x := ratOf (f32 acc) + ((List.range K).map (fun k => ratOf (elemVal ta fa k) * ratOf (elemVal tb fb k))).sum * ratOf (f32 sa) * ratOf (f32 sb)
    x ≠ 0 → RoundsOnce fp32 0 x (chunkNew ta tb fa fb sa sb acc).toNat) ∧
  (∀ ta tb fa fb sa sb (acc : W32), isNan (f32 acc) = true → chunkNew ta tb fa fb sa sb acc = acc) ∧
  (∀ ta tb fa fb sa sb (acc : W32), isNan (f32 acc) = false →
    (isNan (f32 sa) = true ∨ isNan (f32 sb) = true ∨ ∃ k, k < fragK ta ∧ (isNan (elemVal ta fa k) = true ∨ isNan (elemVal tb fb k) = true)) →
    chunkNew ta tb fa fb sa sb acc = 0x7FC00000#32)

/-- R137, R211, R234 to R237, R240: the steps of issued operations. An update is made on one element after every earlier operation's update of it; an arrival with DRAIN and the MEND wait for every earlier
update. -/
def Obligations.MatrixStepResults : Prop :=
  (∀ (s : State) core blk op row col bl q o, s.block? core blk = some bl → bl.seq = some q → q.ops.find? (fun y => y.id == op && y.owes row col) = some o →
    (∀ y ∈ q.ops, y.id < op → y.owes row col = false) → (o.kind = .mzero ∨ rowErr s core blk (64 * row + col) 1 = false) →
    ∃ (t : State) (q' : Seq), exec (.mmaUpdate core blk op row col) s = .next t ∧ OnlyBlock s t core blk ∧
      t.block? core blk = some { bl with seq := some q', rows := mset bl.rows (64 * row + col) (match o.kind with
        | .mma ta tb fa fb sa sb => chunkNew ta tb (fa.getD (row - o.row0) []) (fb.getD col []) (sa.getD (row - o.row0) 0) sb (mget bl.rows (64 * row + col) 0)
        | _ => 0) } ∧
      { q' with ops := q.ops } = q ∧ (∀ y ∈ q'.ops, y.id = op → y.owes row col = false) ∧ (∀ y ∈ q.ops, y.id ≠ op → y ∈ q'.ops)) ∧
  (∀ (s : State) core blk op row col bl q, s.block? core blk = some bl → bl.seq = some q → (∃ y ∈ q.ops, y.id < op ∧ y.owes row col = true) →
    exec (.mmaUpdate core blk op row col) s = .next s) ∧
  (∀ (s : State) core blk bl q n k next, s.block? core blk = some bl → bl.seq = some q → q.run = .waiting → q.waitAt = some (n, k, next) → q.stop = none → q.stopped = false →
    let ahead := ((bl.bar n).phase.toNat + 2 ^ 16 - (mget q.w k 0).toNat) % 2 ^ 16
    1 ≤ ahead → ahead ≤ 32767 → ∃ t : State, exec (.mbarWRelease core blk) s = .next t ∧ OnlyBlock s t core blk ∧
      t.block? core blk = some { bl with seq := some { q with pc := next, run := .running, waitAt := none, w := mset q.w k (mget q.w k 0 + 1) } }) ∧
  (∀ (s : State) core blk bl q o n drain, s.block? core blk = some bl → bl.seq = some q → o.kind = .arrive n drain → q.ops.head? = some o → (∀ y ∈ q.ops.tail, o.id < y.id) →
    bl.dir = none → bl.st ≠ .swapped → ((bl.bar n).count + 1).toNat < (bl.bar n).expect.toNat →
    ∃ t : State, exec (.mbarAArrival core blk) s = .next t ∧ OnlyBlock s t core blk ∧ t.block? core blk =
      some { bl with seq := some { q with ops := q.ops.tail }, bars := mset bl.bars n { bl.bar n with count := (bl.bar n).count + 1 } }) ∧
  (∀ (s : State) core blk bl q o n, s.block? core blk = some bl → bl.seq = some q → o.kind = .arrive n true → o ∈ q.ops → (∀ y ∈ q.ops, ∀ m d, y.kind = .arrive m d → y = o) →
    (∃ y ∈ q.ops, y.id < o.id ∧ (y.kind = .mzero ∨ ∃ ta tb fa fb sa sb, y.kind = .mma ta tb fa fb sa sb)) → exec (.mbarAArrival core blk) s = .next s) ∧
  (∀ (s : State) core blk bl q o, s.block? core blk = some bl → bl.seq = some q → o.kind = .mend → q.ops = [o] →
    ∃ t : State, exec (.mendStep core blk) s = .next t ∧ OnlyBlock s t core blk ∧ t.block? core blk = some { bl with seq := some { q with run := .ended, ops := [] } }) ∧
  (∀ (s : State) core blk bl q o, s.block? core blk = some bl → bl.seq = some q → o.kind = .mend → o ∈ q.ops → (∀ y ∈ q.ops, y.kind = .mend → y = o) →
    (∃ y ∈ q.ops, y.id < o.id ∧ (y.kind = .mzero ∨ ∃ ta tb fa fb sa sb, y.kind = .mma ta tb fa fb sa sb)) → exec (.mendStep core blk) s = .next s)

namespace Sys2Proof.Machine

/-- Handle h names record l, as the job's two sector reads bring it; s' is the state after them (R252, R253). -/
def LayoutRead (s : State) (iss : Issue) (c : Nat) (h : W64) (s' : State) (l : Layout) : Prop :=
  let slot := h.toNat / 4096 % 2 ^ 20
  let va := (s.bay (s.bayOf c)).layBase + BitVec.ofNat 64 (64 * slot)
  slot < (s.bay (s.bayOf c)).laySlots ∧ ∃ v, opReadSecs s iss va 2 [] = .ok s' v ∧ l = layoutOf va (leNum v) ∧ l.gen = h.toNat % 4096 ∧ l.inRange = true
/-- A transfer starts: the job goes on with x among its transfers, the tile it fills or drains takes its state, and then its accesses are made, as far as they can go (R258). Where
it takes its elements from a tile, `took` are the tile bytes they begin at: the banks that it reaches then (R255). -/
def XferStarts (i : Instr) (s s' : State) (iss : Issue) (c p : Nat) (j : Job) (tile : Option (Nat × TileSt)) (took : Option (List Nat)) (X : Xfer → Prop) : Prop :=
  ∃ (s1 : State) (x : Xfer) (j1 : Job), exec i s = .next (match took with | some ks => reachBanks (pump s1 c p iss.id) c p iss.id ks | none => pump s1 c p iss.id) ∧ s1.job? c p = some j1 ∧ { j1 with frames := j.frames } = { j with pc := iss.next, xfers := j.xfers ++ [x] } ∧
    x.id = iss.id ∧ x.pc = iss.pc ∧ x.perf = false ∧ X x ∧ s1.mem = s'.mem ∧ s1.accs = s'.accs ∧
    (∀ f, mget? (s1.core c).tiles f = (mget? (s'.core c).tiles f).map (fun t => match tile with | some (e, st) => if f = e then { t with st := st } else t | none => t))
/-- A range that covers n bytes at each of some addresses, after the frame table. -/
def coversAll (s : State) (c : Nat) (r : Option Lock) (wr : Bool) (as : List W64) (n : Nat) : Prop :=
  as ≠ [] → ∃ k, r = some k ∧ k.wr = wr ∧ ∀ a ∈ as, k.lo ≤ afterFrame s (s.bayOf c) a ∧ afterFrame s (s.bayOf c) a + n - 1 ≤ k.hi
/-- The addresses of n elements from a position of a record, in cursor order, modulo its count (R254). -/
def elemsFrom (l : Layout) (x n : Nat) : List W64 := (List.range n).map (fun e => l.addrAt ((x + e) % l.count))
/-- Byte of the tile where element e of a transfer lies (R255, R256). -/
def tileByte (v : W64) (l : Layout) (e : Nat) : Nat :=
  let k := 32 * (v.toNat / 2 ^ 32 % 65536) + e * 2 ^ l.esz
  let j := k / 256
  let x := (if l.swz = 1 then j else if l.swz = 2 then j / 2 else if l.swz = 3 then j / 4 else 0) % 8
  256 * j + ((k % 256 / 32) ^^^ x) * 32 + k % 32
/-- A tile operand, count and arrival that no check refuses. -/
def opndOk (s : State) (c : Nat) (j : Job) (v : W64) (n : Nat) : Prop :=
  v.toNat / 2 ^ 58 % 32 = 0 ∧ n ≤ 2 ^ 24 ∧ (v.getLsbD 63 = true → ∃ bl, s.block? c j.blk = some bl ∧ v.toNat / 2 ^ 48 % 1024 < bl.nbar)
/-- Tile operand v names tile t, entry e, which holds n elements of size bytes from its offset. -/
def tileOk (s : State) (c : Nat) (j : Job) (v : W64) (n size e : Nat) (t : Tile) : Prop :=
  tileNamed (s.core c) j.blk (v.setWidth 32) j.fut = .ok (e, t) ∧ mget? (s.core c).tiles e = some t ∧ (n = 0 ∨ 32 * (v.toNat / 2 ^ 32 % 65536) + n * size ≤ 256 * t.len)

end Sys2Proof.Machine

/-- R253 to R260: the transfer words start their transfers, where no operand check refuses them, nothing holds them and what they take from a tile can be read (R379). Each element of a region goes from or to its address in cursor order, each tile element from or to its byte after the swizzle; the ranges entered
cover every element; a fill takes its tile to filling, a drain to draining, and keeps the arrival that ARR asks for. That bits 63:32 of a handle's register are ignored is the model's choice (log 102), that
an index list at an unaligned address is read as it lies too (log 101); the range of a near pointer is taken at the BASE its frame has then (log 37, DEDUCED). -/
def Obligations.TransferWordsStart : Prop :=
  (∀ q (d a b : Reg) s iss c p j s' l x e t, JobIssues s iss c p j → j.u.rq q = true →
    let n := (j.u.rs b.toNat).toNat % 2 ^ 32
    let v := j.u.rs d.toNat
    opndOk s c j v n → LayoutRead s iss c (j.u.rs a.toNat) s' l → l.pos? (j.u.rs (a.toNat + 1)) = some x → tileOk s' c j v n (2 ^ l.esz) e t → t.st = .empty →
    xferHeld j (spanOf s' (s'.bayOf c) (l.addrs x n) (2 ^ l.esz) false) none = false →
    XferStarts (.btld q d a b) s s' iss c p j (some (e, .filling)) none (fun y => y.kind = .btld ∧ y.ent = some e ∧ y.trans = true ∧ y.wr = none ∧
      y.arr = (if v.getLsbD 63 then some (v.toNat / 2 ^ 48 % 1024) else none) ∧ coversAll s' c y.rd false (elemsFrom l x n) (2 ^ l.esz) ∧
      y.elems = (List.range n).map (fun i => { src := .mem (l.addrAt ((x + i) % l.count)), dst := .tile (tileByte v l i), size := 2 ^ l.esz }))) ∧
  (∀ q (d a b : Reg) s iss c p j s' l x e t, JobIssues s iss c p j → j.u.rq q = true →
    let n := (j.u.rs b.toNat).toNat % 2 ^ 32
    let v := j.u.rs a.toNat
    opndOk s c j v n → LayoutRead s iss c (j.u.rs d.toNat) s' l → l.pos? (j.u.rs (d.toNat + 1)) = some x → tileOk s' c j v n (2 ^ l.esz) e t → t.st = .ready →
    (∀ i, i < n → tileErr s' c e (tileByte v l i) (2 ^ l.esz) = false) → xferHeld j none (spanOf s' (s'.bayOf c) (l.addrs x n) (2 ^ l.esz) true) = false →
    XferStarts (.btst q d a b) s s' iss c p j (some (e, .draining)) (some ((List.range (n - 1)).map (tileByte v l))) (fun y => y.kind = .btst ∧ y.ent = some e ∧ y.trans = true ∧ y.rd = none ∧ y.arr = (if v.getLsbD 63 then some (v.toNat / 2 ^ 48 % 1024) else none) ∧
      coversAll s' c y.wr true (elemsFrom l x n) (2 ^ l.esz) ∧ y.elems.length = n ∧ (∀ (i : Nat) (el : XElem), y.elems[i]? = some el → el.dst = .mem (l.addrAt ((x + i) % l.count)) ∧ el.size = 2 ^ l.esz ∧
        (i + 1 < n → el.src = .bytes ((List.range (2 ^ l.esz)).map (fun k => mget t.data (tileByte v l i + k) 0))) ∧ (i + 1 = n → el.src = .tile (tileByte v l i))))) ∧
  (∀ q (d a b : Reg) s iss c p j s' l e t, JobIssues s iss c p j → j.u.rq q = true →
    let n := (j.u.rs b.toNat).toNat % 2 ^ 32
    let v := j.u.rs d.toNat
    let list := fun (i : Nat) => formAddr (j.u.rs (a.toNat + 1)) (BitVec.ofNat 64 (4 * i))
    opndOk s c j v n → LayoutRead s iss c (j.u.rs a.toNat) s' l → tileOk s' c j v n (2 ^ l.esz) e t → t.st = .empty →
    xferHeld j (spanOf s' (s'.bayOf c) ((List.range n).map list) 4 false) none = false →
    XferStarts (.bgath q d a b) s s' iss c p j (some (e, .filling)) none (fun y => y.kind = .bgath ∧ y.ent = some e ∧ y.trans = true ∧ y.wr = none ∧ y.arr = (if v.getLsbD 63 then some (v.toNat / 2 ^ 48 % 1024) else none) ∧
      coversAll s' c y.rd false ((List.range n).map list) 4 ∧ y.elems = (List.range n).map (fun i =>
        { src := .index (list i) l.base (l.stride.getD 0 0), dst := .tile (tileByte v l i), size := 2 ^ l.esz }))) ∧
  (∀ q (d a b : Reg) s iss c p j s' l e t, JobIssues s iss c p j → j.u.rq q = true →
    let n := (j.u.rs b.toNat).toNat % 2 ^ 32
    let v := j.u.rs a.toNat
    let list := fun (i : Nat) => formAddr (j.u.rs (d.toNat + 1)) (BitVec.ofNat 64 (4 * i))
    opndOk s c j v n → LayoutRead s iss c (j.u.rs d.toNat) s' l → tileOk s' c j v n (2 ^ l.esz) e t → t.st = .ready →
    (∀ i, i < n → tileErr s' c e (tileByte v l i) (2 ^ l.esz) = false) → xferHeld j (spanOf s' (s'.bayOf c) ((List.range n).map list) 4 false) none = false →
    XferStarts (.bscat q d a b) s s' iss c p j (some (e, .draining)) (some ((List.range (n - 1)).map (tileByte v l))) (fun y => y.kind = .bscat ∧ y.ent = some e ∧ y.trans = true ∧ y.wr = none ∧ y.arr = (if v.getLsbD 63 then some (v.toNat / 2 ^ 48 % 1024) else none) ∧
      coversAll s' c y.rd false ((List.range n).map list) 4 ∧ y.elems.length = n ∧
      (∀ (i : Nat) (el : XElem), y.elems[i]? = some el → el.dst = .index (list i) l.base (l.stride.getD 0 0) ∧ el.size = 2 ^ l.esz ∧
        (i + 1 < n → el.src = .bytes ((List.range (2 ^ l.esz)).map (fun k => mget t.data (tileByte v l i + k) 0))) ∧ (i + 1 = n → el.src = .tile (tileByte v l i))))) ∧
  (∀ q (d a b : Reg) s iss c p j s1 s2 ld la xd xa, JobIssues s iss c p j → j.u.rq q = true →
    let n := (j.u.rs b.toNat).toNat % 2 ^ 32
    n ≤ 2 ^ 24 → LayoutRead s iss c (j.u.rs d.toNat) s1 ld → LayoutRead s1 iss c (j.u.rs a.toNat) s2 la → ld.esz = la.esz →
    ld.pos? (j.u.rs (d.toNat + 1)) = some xd → la.pos? (j.u.rs (a.toNat + 1)) = some xa →
    xferHeld j (spanOf s2 (s2.bayOf c) (la.addrs xa n) (2 ^ la.esz) false) (spanOf s2 (s2.bayOf c) (ld.addrs xd n) (2 ^ la.esz) true) = false →
    XferStarts (.bcopy q d a b) s s2 iss c p j none none (fun y => y.kind = .bcopy ∧ y.ent = none ∧ y.trans = false ∧ coversAll s2 c y.rd false (elemsFrom la xa n) (2 ^ la.esz) ∧
      coversAll s2 c y.wr true (elemsFrom ld xd n) (2 ^ la.esz) ∧ y.elems = (List.range n).map (fun i =>
        { src := .mem (la.addrAt ((xa + i) % la.count)), dst := .mem (ld.addrAt ((xd + i) % ld.count)), size := 2 ^ la.esz }))) ∧
  (∀ q (d a b : Reg) s iss c p j s' l x, JobIssues s iss c p j → j.u.rq q = true →
    let n := (j.u.rs b.toNat).toNat % 2 ^ 32
    let ctl := (j.u.rs (d.toNat + 1)).toNat
    let dst := fun (i : Nat) => formAddr (j.u.rs d.toNat) (BitVec.ofNat 64 (i * 2 ^ l.esz))
    n ≤ 2 ^ 24 → ctl < 2 ^ 10 → (ctl / 256 % 2 = 1 → classAddr (j.u.rs d.toNat) = .peer) → LayoutRead s iss c (j.u.rs a.toNat) s' l → l.pos? (j.u.rs (a.toNat + 1)) = some x →
    xferHeld j (spanOf s' (s'.bayOf c) (l.addrs x n) (2 ^ l.esz) false) (spanOf s' (s'.bayOf c) ((List.range n).map dst) (2 ^ l.esz) true) = false →
    XferStarts (.brem q d a b) s s' iss c p j none none (fun y => y.kind = .brem ∧ y.ent = none ∧ y.sig = decide (ctl / 512 = 1) ∧
      y.ridge = (if ctl / 256 % 2 = 1 then some (ctl % 256) else none) ∧ coversAll s' c y.rd false (elemsFrom l x n) (2 ^ l.esz) ∧
      coversAll s' c y.wr true ((List.range n).map dst) (2 ^ l.esz) ∧ y.elems = (List.range n).map (fun i => { src := .mem (l.addrAt ((x + i) % l.count)), dst := .mem (dst i), size := 2 ^ l.esz }))) ∧
  (∀ q (d a : Reg) s iss c p j, JobIssues s iss c p j → j.u.rq q = true → j.prv = true →
    let f := (j.u.rs d.toNat).toNat % 2 ^ 22
    let y := s.bayOf c
    let n := frameLen s y f
    let lo := afterFrame s y (j.u.rs a.toNat)
    let at' := fun (o : Nat) => formAddr (j.u.rs a.toNat) (BitVec.ofNat 64 o)
    let goal := fun (o : Nat) => frameBase s y f + BitVec.ofNat 64 o
    f < (s.bay y).fcnt → frameState s y f = 1 → frameBad s y f = none →
    xferHeld j (some { lo := lo, hi := lo + n - 1, wr := false }) (some { lo := (frameBase s y f).toNat, hi := (frameBase s y f).toNat + n - 1, wr := true }) = false →
    XferStarts (.bfetch q d a) s s iss c p j none none (fun x => x.kind = .bfetch ∧ x.frame = some f ∧ x.ent = none ∧
      x.rd = some { lo := lo, hi := lo + n - 1, wr := false, iss := iss.id } ∧ x.wr = some { lo := (frameBase s y f).toNat, hi := (frameBase s y f).toNat + n - 1, wr := true, iss := iss.id } ∧
      (x.elems.map (·.size)).sum = n ∧ ∀ (i : Nat) (el : XElem), x.elems[i]? = some el →
        let o := ((x.elems.take i).map (·.size)).sum
        el.src = .mem (at' o) ∧ el.dst = .mem (goal o) ∧ el.size = min (n - o) (min (32 - (at' o).toNat % 32) (32 - (goal o).toNat % 32)))) ∧
  (∀ q (d a b : Reg) s iss c p j s' l x bl, JobIssues s iss c p j → j.u.rq q = true →
    let n := (j.u.rs b.toNat).toNat % 2 ^ 32
    let r := (j.u.rs a.toNat).toNat % 1024
    n ≤ 2 ^ 24 → s.block? c j.blk = some bl → n = 0 ∨ r + n ≤ 64 * bl.accu → LayoutRead s iss c (j.u.rs d.toNat) s' l → l.esz = 2 → l.pos? (j.u.rs (d.toNat + 1)) = some x →
    xferHeld j none (spanOf s' (s'.bayOf c) (l.addrs x (64 * n)) 4 true) = false →
    XferStarts (.baccd q d a b) s s' iss c p j none none (fun y => y.kind = .baccd ∧ y.ent = none ∧ y.rd = none ∧ coversAll s' c y.wr true (elemsFrom l x (64 * n)) 4 ∧
      y.elems = (List.range (64 * n)).map (fun i => { src := .tile (64 * r + i), dst := .mem (l.addrAt ((x + i) % l.count)), size := 4 })))

/-- R254: a cursor within its extents names a position; the element there lies at BASE plus the sum of index times stride; cursors advance in order, dimension 0 fastest; BSTEP moves a cursor on by a count (bits 63:32 of a handle's register are ignored, the model's choice: log 102). R256, R259, R261, R262: BTSET fills an empty tile with a pattern and makes it ready, with one arrival where ARR asks for it; BLOCK and BUNLK enter and remove an explicit lock; BDONE, once every transfer and access of the job is performed and its writes are
released, ends the job and resolves its future, with one arrival where bit 63 asks for it. That BLOCK takes the lowest free entry is the model's reading (log 26). -/
def Obligations.BattenControlWordResults : Prop :=
  (
  (∀ (l : Layout) (cur : W64), l.inRange = true → l.ext.length = 4 → l.stride.length = 4 →
    let ix := fun (k : Nat) => cur.toNat / 2 ^ (16 * k) % 65536
    (∀ k, k < 4 → ix k < l.ext.getD k 0) → ∃ x, l.pos? cur = some x ∧ x < l.count ∧ l.cursor x = cur ∧
      l.addrAt x = formAddr l.base (BitVec.ofInt 64 (ix 0 * l.stride.getD 0 0 + ix 1 * l.stride.getD 1 0 + ix 2 * l.stride.getD 2 0 + ix 3 * l.stride.getD 3 0)) ∧
      (ix 0 + 1 < l.ext.getD 0 0 → l.cursor (x + 1) = cur + 1) ∧
      (ix 0 + 1 = l.ext.getD 0 0 → ix 1 + 1 < l.ext.getD 1 0 → l.cursor (x + 1) = cur - BitVec.ofNat 64 (ix 0) + 0x10000) ∧
      ((∀ k, k < 4 → ix k + 1 = l.ext.getD k 0) → l.cursor (x + 1) = 0)) ∧
  (∀ q (d b : Reg) s iss c p j s' l x, JobIssues s iss c p j → j.u.rq q = true → LayoutRead s iss c (j.u.rs d.toNat) s' l → l.pos? (j.u.rs (d.toNat + 1)) = some x →
    ∃ t : State, exec (.bstep q d b) s = .next t ∧ OnlyJob s' t c p ∧
      t.job? c p = some { j with u := j.u.ws (d.toNat + 1) (l.cursor (x + (j.u.rs b.toNat).toNat % 2 ^ 32)), pc := iss.next })) ∧
  (
  (∀ q (d a : Reg) s iss c p j e t, JobIssues s iss c p j → j.u.rq q = true → opndOk s c j (j.u.rs d.toNat) 0 → 
    ((j.u.rs d.toNat).getLsbD 63 = true → ∀ bl, s.block? c j.blk = some bl → bl.dir = none ∧ bl.st ≠ .swapped) →
    tileOk s c j (j.u.rs d.toNat) 0 1 e t → t.st = .empty → xferHeld j none none = false →
    ∃ s1 t', exec (.btset q d a) s = .next s1 ∧ s1.job? c p = some { j with pc := iss.next } ∧ mget? (s1.core c).tiles e = some t' ∧ { t' with st := t.st, data := t.data } = t ∧
      t'.st = .ready ∧ (∀ k, k < 256 * t.len → mget t'.data k 0 = BitVec.ofNat 8 ((j.u.rs a.toNat).toNat / 2 ^ (8 * (k % 8)))) ∧
      (∀ f, f ≠ e → mget? (s1.core c).tiles f = mget? (s.core c).tiles f) ∧ SameMemory s s1 ∧ s1.accs = s.accs ∧
      ((j.u.rs d.toNat).getLsbD 63 = false → s1.block? c j.blk = s.block? c j.blk) ∧
      ((j.u.rs d.toNat).getLsbD 63 = true → ∃ bl bl', s.block? c j.blk = some bl ∧ s1.block? c j.blk = some bl' ∧ ArrivedOnce bl bl' ((j.u.rs d.toNat).toNat / 2 ^ 48 % 1024))) ∧
  (∀ q (d a b : Reg) s iss c p j i, JobIssues s iss c p j → j.u.rq q = true → i < 8 → mget? j.locks i = none → (∀ m, m < i → (mget? j.locks m).isSome) →
    let n := (j.u.rs b.toNat).toNat % 2 ^ 48
    n ≠ 0 → let lo := afterFrame s (s.bayOf c) (j.u.rs a.toNat)
    ∃ t : State, exec (.block q d a b) s = .next t ∧ OnlyJob s t c p ∧ t.job? c p = some { j with
      pc := iss.next, u := j.u.ws d.toNat (BitVec.ofNat 64 i), locks := mset j.locks i { lo := lo, hi := lo + n - 1, wr := (j.u.rs b.toNat).getLsbD 63, iss := iss.id } }) ∧
  (∀ q (a : Reg) s iss c p j, JobIssues s iss c p j → j.u.rq q = true → ∃ t : State, exec (.bunlk q a) s = .next t ∧ OnlyJob s t c p ∧
    t.job? c p = some { j with pc := iss.next, locks := mdel j.locks ((j.u.rs a.toNat).toNat % 8) }) ∧
  (∀ q (a b : Reg) s iss c p j f, JobIssues s iss c p j → j.u.rq q = true → ((j.u.rs b.toNat).getLsbD 63 = true → ∃ bl, s.block? c j.blk = some bl ∧ bl.dir = none ∧ bl.st ≠ .swapped ∧ (j.u.rs b.toNat).toNat % 1024 < bl.nbar) → (∀ x ∈ j.xfers, x.perf = true ∧ x.trans = false) → j.frames = [] →
    relPassed s (.job c p) 7 = true → mget? (s.core c).futs j.fut = some f →
    ∃ t : State, exec (.bdone q a b) s = .next t ∧ t.job? c p = none ∧ (t.proc c p).queue = (s.proc c p).queue ∧ SameBytes s t ∧
      mget? (t.core c).futs j.fut = some { f with st := .resolved, val := j.u.rs a.toNat } ∧ (∀ e, e ≠ j.fut → mget? (t.core c).futs e = mget? (s.core c).futs e) ∧
      (∀ y ∈ t.accs, y ∈ s.accs ∧ y.ag ≠ .job c p) ∧
      ((j.u.rs b.toNat).getLsbD 63 = false → t.block? c j.blk = s.block? c j.blk) ∧
      ((j.u.rs b.toNat).getLsbD 63 = true → ∃ bl bl', s.block? c j.blk = some bl ∧ t.block? c j.blk = some bl' ∧ ArrivedOnce bl bl' ((j.u.rs b.toNat).toNat % 1024)) ∧
      (∀ k x, s.course? c k = some x → ∃ y, t.course? c k = some y ∧ ∀ l h d nx, l < 8 → ∀ i, (x.lane l).st = .future h d nx i →
        h.toNat % 256 = j.fut → h.toNat / 2 ^ 24 % 256 = f.gen.toNat → (y.lane l).st = .ready ∧ (y.lane l).pc = nx ∧ y.u.rs d.toNat = j.u.rs a.toNat)))

/-- R248, R258, R397: the steps of processors and transfers. A processor takes the next job of its queue; BACCD reads one accumulator element in a step (R243, R259); a transfer is performed once all its elements are, and its ranges then go; a tile
becomes ready when every element is written, or empty when its last element is taken; a fill that fails its check is tried again. That elements of one sector are written by one access is the model's reading (log 27). -/
def Obligations.BattenStepResults : Prop :=
  (∀ (s : State) core proc r rest f, (s.proc core proc).job = none → (s.proc core proc).queue = r :: rest → mget? (s.core core).futs r.fut = some f →
    ∃ t : State, exec (.battenJobStart core proc) s = .next t ∧ OnlyCore s t core ∧ (t.proc core proc).queue = rest ∧ mget? (t.core core).futs r.fut = some { f with st := .running } ∧
      ∃ j, t.job? core proc = some j ∧ j.pc = r.pc ∧ j.fut = r.fut ∧ j.blk = r.blk ∧ j.prv = r.prv ∧ j.u.q = 0 ∧ j.xfers = [] ∧ (∀ i, i < r.args.length → j.u.rs i = r.args.getD i 0) ∧
        ∀ i, r.args.length ≤ i → j.u.rs i = 0) ∧
  (∀ (s : State) core proc xfer j x, s.job? core proc = some j → j.xfers.filter (fun y => y.id == xfer) = [x] → (∀ el ∈ x.elems, el.ph = .done) → x.kind ≠ .baccd →
    ∃ (t : State) (j' : Job), exec (.transferPerformed core proc xfer) s = .next t ∧ OnlyJob s t core proc ∧ t.job? core proc = some j' ∧ { j' with xfers := j.xfers } = j ∧
      (∀ y ∈ j'.xfers, y.id = xfer → y = { x with perf := true, rd := none, wr := none } ∧ x.trans = true) ∧ (∀ y ∈ j.xfers, y.id ≠ xfer → y ∈ j'.xfers)) ∧
  (∀ (s : State) core proc xfer j x e el k bl, s.job? core proc = some j → j.xfers.filter (fun y => y.id == xfer) = [x] → x.kind = .baccd → x.elems[e]? = some el → el.src = .tile k →
    (∀ (i : Nat) (y : XElem), i < e → x.elems[i]? = some y → ∀ m, y.src ≠ .tile m) → s.block? core j.blk = some bl → rowErr s core j.blk k 1 = false →
    ∃ s1 : State, exec (.transferPerformed core proc xfer) s = .next (pump s1 core proc xfer) ∧ OnlyJob s s1 core proc ∧ s1.job? core proc = some { j with
      xfers := j.xfers.map (fun y => if y.id = xfer then { y with elems := y.elems.mapIdx (fun i z => if i = e then { z with src := .bytes (natBytes 4 (mget bl.rows k 0).toNat) } else z) } else y) }) ∧
  (∀ (s : State) core proc xfer j x e t0, s.job? core proc = some j → j.xfers.filter (fun y => y.id == xfer) = [x] → x.ent = some e → x.trans = true → x.kind = .btld ∨ x.kind = .bgath →
    (∀ el ∈ x.elems, el.ph = .done) → x.arr = none → mget? (s.core core).tiles e = some t0 →
    ∃ t : State, exec (.tileFillComplete core proc xfer) s = .next t ∧ mget? (t.core core).tiles e = some { t0 with st := .ready } ∧ SameMemory s t ∧
      ∃ j' : Job, t.job? core proc = some j' ∧ ∀ y ∈ j'.xfers, y.id = xfer → y = { x with trans := false } ∧ x.perf = false) ∧
  (∀ (s : State) core proc xfer j x e t0, s.job? core proc = some j → j.xfers.filter (fun y => y.id == xfer) = [x] → x.ent = some e → x.trans = true → x.kind = .btst ∨ x.kind = .bscat →
    x.elems = [] → x.arr = none → mget? (s.core core).tiles e = some t0 →
    ∃ t : State, exec (.tileDrainComplete core proc xfer) s = .next t ∧ mget? (t.core core).tiles e = some { t0 with st := .empty } ∧ SameMemory s t ∧
      ∃ j' : Job, t.job? core proc = some j' ∧ ∀ y ∈ j'.xfers, y.id = xfer → y = { x with trans := false } ∧ x.perf = false) ∧
  (∀ (s : State) core proc xfer acc j x a d src, s.job? core proc = some j → j.xfers.filter (fun y => y.id == xfer) = [x] → s.accs.find? (fun y => y.id == acc) = some a →
    a.ag = .job core proc → fillRead s a = true → a.ph = .flight d → isPeer d = false → badSector s (canonPa s d / 32) = some src → x.replays < 4 →
    ∃ (t : State) (j' : Job), exec (.tileIntegrityReplay core proc xfer acc) s = .next t ∧ OnlyJob s t core proc ∧ t.job? core proc = some j' ∧ { j' with xfers := j.xfers } = j ∧
      j'.xfers = j.xfers.map (fun y => if y.id = xfer then { y with replays := y.replays + 1 } else y))

namespace Sys2Proof.Machine

/-- Whether a condition of a fence record holds of a counter (R53). -/
def CondMet (cmp x : Nat) (w : W64) : Prop :=
  (cmp = 1 ∧ x = w.toNat) ∨ (cmp = 2 ∧ x ≠ w.toNat) ∨ (cmp = 3 ∧ w.toNat ≤ x) ∨ (cmp = 4 ∧ x < w.toNat) ∨
    (cmp = 5 ∧ w.toInt ≤ (BitVec.ofNat 64 x).toInt) ∨ (cmp = 6 ∧ (BitVec.ofNat 64 x).toInt < w.toInt)

end Sys2Proof.Machine

/-- R64 to R66: the steps of a quarter scheduler, in a quarter of more than 8 courses. A course with no ready lane, or whose every slice is held by a result whose window stands at 0, is demoted; a pending course
that is eligible is promoted while fewer than eight are active, the earliest demoted first; the course active longest for 512 clocks gives way to a pending one that is eligible. What the scheduler finds of the
courses it chooses among stands in `looks` for the length of a step: an eligible course has a ready lane whose word is free of holds (log 5). R35, R51 to R59: jobs and fences at the head of a level. A valid header makes a job of 2^(all width bits − Sb) blocks; a fence is read, its counters are latched as they are met, and with all of them
latched it leaves its level; placement puts the head of the highest level that has one to place in a column of the bay, a lower one where those above do not fit; a block that has not fitted for 1,000,000 ns, counted as log 97 says, stops the lower levels; the regions of a placed block are read into their tiles by batten accesses; a placed block
whose regions are staged starts its courses. -/
def Obligations.SchedulingSteps : Prop :=
  (
  (∀ (s : State) core slot x, s.course? core slot = some x → x.active = true → 8 < (quarterOf s core (slot / 128)).length →
    ((∀ ln ∈ x.lanes, ln.st ≠ .ready) ∨ ∃ lk ∈ s.looks, lk.core = core ∧ lk.slot = slot ∧ lk.stuck = true) →
    ∃ t : State, exec (.courseDemotion core slot) s = .next t ∧ OnlyCourse s t core slot ∧ t.course? core slot = some { x with active := false, since := s.t }) ∧
  (∀ (s : State) core slot x, s.course? core slot = some x → x.active = true → (∃ ln ∈ x.lanes, ln.st = .ready) → (∀ lk ∈ s.looks, lk.core = core → lk.slot = slot → lk.stuck = false) →
    exec (.courseDemotion core slot) s = .next s) ∧
  (∀ (s : State) core slot x, s.course? core slot = some x → x.active = false → (∃ lk ∈ s.looks, lk.core = core ∧ lk.slot = slot ∧ lk.free = true) →
    ((quarterOf s core (slot / 128)).filter (fun k => ((s.course? core k).getD {}).active)).length < 8 →
    (∀ j y, s.course? core j = some y → j / 128 = slot / 128 → j ≠ slot → y.active = true ∨ (∀ lk ∈ s.looks, lk.core = core → lk.slot = j → lk.free = false) ∨ (j < 510 ∧ 510 ≤ slot) ∨
      ((j < 510 ↔ slot < 510) ∧ (x.since < y.since ∨ x.since = y.since ∧ slot < j))) →
    ∃ t : State, exec (.coursePromotion core slot) s = .next t ∧ OnlyCourse s t core slot ∧
      t.course? core slot = some { x with active := true, since := s.t, cyc := (mget s.islands core {}).cyc }) ∧
  (∀ (s : State) core slot x j z, s.course? core slot = some x → x.active = true → slot < 510 → x.cyc + 512000 ≤ (mget s.islands core {}).cyc →
    s.course? core j = some z → j / 128 = slot / 128 → z.active = false → (∃ lk ∈ s.looks, lk.core = core ∧ lk.slot = j ∧ lk.free = true) →
    (∀ i y, s.course? core i = some y → i / 128 = slot / 128 → y.active = true → i < 510 → x.since < y.since ∨ x.since = y.since ∧ slot ≤ i) →
    ∃ t : State, exec (.activeSetTimesliceExpiry core slot) s = .next t ∧ OnlyCourse s t core slot ∧ t.course? core slot = some { x with active := false, since := s.t }) ∧
  (∀ (s : State) c b bl, s.block? c b = some bl → bl.st = .placed → bl.regions = [] → (bl.slots.Nodup) → (∀ k ∈ bl.slots, s.course? c k = none) →
    ∃ t : State, exec (.blockStart c b) s = .next t ∧ ∀ k ∈ bl.slots, ∃ y, t.course? c k = some y ∧ (y.active = true ↔ (quarterOf t c (k / 128)).length ≤ 8))) ∧
  (
  (∀ (s s1 s2 : State) bay lvl e rest v rs, mget (s.bay bay).levels lvl [] = e :: rest → e.fence = false → e.parsed = false → bayRead s (.bayq bay) e.prv [lvl, e.jseq] e.addr 2 64 e.addr [] = .ok s1 v →
    let h := leNum v
    let w := fun (n : Nat) => ((List.range n).map (fun k => h / 2 ^ (320 + 6 * k) % 64)).sum
    let sb := w (h / 2 ^ 356 % 8)
    regionsRead bay e.prv [lvl, e.jseq] (BitVec.ofNat 64 (h / 2 ^ 256)) (h / 2 ^ 415 % 16) s1 [] = .ok (s2, rs) → headerBad h = none → regionBad h [] rs = none →
    ∃ (t : State) (j : JobInfo), exec (.jobParse bay lvl) s = .next t ∧ SameMemory s t ∧ (t.bay bay).jobs = (s.bay bay).jobs ++ [j] ∧
      mget (t.bay bay).levels lvl [] = { e with parsed := true } :: rest ∧ j.jseq = e.jseq ∧ j.nblk = 2 ^ (w 6 - sb) ∧ j.left = j.nblk ∧ j.blkThreads = 2 ^ sb ∧
      j.clSize = 2 ^ (w (h / 2 ^ 359 % 8) - sb) ∧ j.done = BitVec.ofNat 64 (h / 2 ^ 192) ∧ j.tag = BitVec.ofNat 16 (h / 2 ^ 448) ∧ j.lvl = lvl ∧ j.prv = e.prv ∧
      (j.note = true ↔ h / 2 ^ 414 % 2 = 1) ∧ j.proto.entry = BitVec.ofNat 64 h ∧ j.proto.mspc = BitVec.ofNat 64 (h / 2 ^ 64) ∧ j.proto.arg = BitVec.ofNat 64 (h / 2 ^ 128) ∧
      j.proto.vregs = h / 2 ^ 362 % 64 ∧ j.proto.tent = h / 2 ^ 368 % 512 ∧ j.proto.tlines = h / 2 ^ 377 % 4096 ∧ j.proto.nbar = h / 2 ^ 389 % 2048 ∧
      j.proto.accu = h / 2 ^ 400 % 32 ∧ j.proto.threads = 2 ^ sb ∧ j.proto.regions = rs ∧ j.proto.prv = e.prv ∧ j.proto.jcore = e.core ∧ j.proto.jslot = e.slot) ∧
  (∀ (s s1 : State) bay lvl e rest v, mget (s.bay bay).levels lvl [] = e :: rest → e.fence = true → e.parsed = false → e.latched = [] →
    bayRead s (.bayq bay) e.prv [lvl, e.jseq] e.addr 6 192 e.addr [] = .ok s1 v →
    let cmp := fun (i : Nat) => leNum v / 2 ^ (128 * i) % 8
    let addr := fun (i : Nat) => BitVec.ofNat 64 (leNum v / 2 ^ (128 * i) % 2 ^ 64 / 8 * 8)
    let val := fun (i : Nat) => BitVec.ofNat 64 (leNum v / 2 ^ (128 * i + 64))
    -- the counters in use are read one after another, each in the state the reads before it have left
    ∀ (S : Nat → State) (w : Nat → List Byte), S 0 = s1 → (∀ i, i < 12 → cmp i ≠ 7) → (∀ i, i < 12 → cmp i = 0 → S (i + 1) = S i) →
    (∀ i, i < 12 → cmp i ≠ 0 → bayRead (S i) (.bayq bay) e.prv [lvl, e.jseq, i] (addr i) 2 8 (addr i) [] = .ok (S (i + 1)) (w i) ∧ (w i).length = 8) →
    let met := fun (i : Nat) => cmp i = 0 ∨ CondMet (cmp i) (leNum (w i)) (val i)
    ∃ t : State, exec (.fenceRecordRead bay lvl) s = .next t ∧ SameMemory s t ∧ ((∀ i, i < 12 → met i) → mget (t.bay bay).levels lvl [] = rest) ∧
      ((∃ i, i < 12 ∧ ¬ met i) → ∃ ls, (∀ i, i ∈ ls ↔ i < 12 ∧ met i) ∧ mget (t.bay bay).levels lvl [] =
        { e with parsed := true, latched := ls, conds := (List.range 12).map (fun i => (cmp i, addr i, val i)) } :: rest)) ∧
  (∀ (s s1 : State) bay lvl e rest i v cmp a w, mget (s.bay bay).levels lvl [] = e :: rest → e.fence = true → e.parsed = true → i < 12 → e.conds.length = 12 → i ∉ e.latched →
    e.conds[i]? = some (cmp, a, w) → cmp ≠ 0 → bayRead s (.bayq bay) e.prv [lvl, e.jseq, i] a 2 8 a [] = .ok s1 v →
    let met := CondMet cmp (leNum v) w
    leNum v < 2 ^ 64 → ∃ t : State, exec (.fenceCounterPoll bay lvl i) s = .next t ∧ SameMemory s t ∧
      (¬ met → e.latched.length < 12 → mget (t.bay bay).levels lvl [] = e :: rest) ∧
      (met → e.latched.length = 11 → mget (t.bay bay).levels lvl [] = rest) ∧
      (met → e.latched.length < 11 → mget (t.bay bay).levels lvl [] = { e with latched := e.latched ++ [i] } :: rest)) ∧
  (∀ (s : State) bay lvl e rest j s', lvl < 4 → (s.bay bay).cont = none → mget (s.bay bay).levels lvl [] = e :: rest → e.fence = false → e.parsed = true →
    (s.bay bay).jobs.find? (fun x => x.jseq == e.jseq) = some j → tryPlace s bay j e.nextBlk = some s' →
    -- a level above it has nothing to place, or a head that does not fit and has not waited for 1,000,000 ns
    (∀ m, lvl < m → m < 4 → ∀ e' rest', mget (s.bay bay).levels m [] = e' :: rest' → e'.fence = true ∨ e'.parsed = false ∨
      (e'.starved = false ∧ (∀ t0, e'.since = some t0 → s.t < t0 + 1000000) ∧ ∃ j', (s.bay bay).jobs.find? (fun x => x.jseq == e'.jseq) = some j' ∧ tryPlace s bay j' e'.nextBlk = none)) →
    ∃ t : State, exec (.placementStep bay) s = .next t ∧ t.cores = s'.cores ∧ SameBytes s t ∧
      (j.nblk ≤ e.nextBlk + j.clSize → mget (t.bay bay).levels lvl [] = rest) ∧
      (e.nextBlk + j.clSize < j.nblk → mget (t.bay bay).levels lvl [] = { e with nextBlk := e.nextBlk + j.clSize, since := none, starved := false } :: rest) ∧
      (∀ m, m < lvl → mget (t.bay bay).levels m [] = mget (s.bay bay).levels m [])) ∧
  (∀ (s : State) bay lvl e rest j t0, lvl < 4 → mget (s.bay bay).levels lvl [] = e :: rest → e.fence = false → e.parsed = true → (s.bay bay).jobs.find? (fun x => x.jseq == e.jseq) = some j →
    tryPlace s bay j e.nextBlk = none → e.since = some t0 → t0 + 1000000 ≤ s.t →
    (∀ m, lvl < m → m < 4 → ∀ e' rest', mget (s.bay bay).levels m [] = e' :: rest' → e'.fence = true ∨ e'.parsed = false) →
    ∃ t : State, exec (.placementStep bay) s = .next t ∧ t.cores = s.cores ∧ SameBytes s t ∧ ∀ lvl, mget (t.bay bay).levels lvl [] = mget (s.bay bay).levels lvl []) ∧
  (∀ (s : State) bay j next s', tryPlace s bay j next = some s' → ∃ g, g < 32 ∧ mget? s.cols g = some bay ∧
    placeUnit s ((List.range 8).map (fun i => 8 * g + i)) (unitOf j next) = some s' ∧
    (∀ g', g' < 32 → mget? s.cols g' = some bay → (placeUnit s ((List.range 8).map (fun i => 8 * g' + i)) (unitOf j next)).isSome →
      colTemp s g' < (s.bay bay).hot.toNat → colTemp s g < (s.bay bay).hot.toNat ∧ (colTemp s g < colTemp s g' ∨ colTemp s g = colTemp s g' ∧ g ≤ g' ∨ (j.hv = true ∧ g = j.hcol)))) ∧
  (∀ (s : State) bay lvl e rest t0, mget (s.bay bay).levels lvl [] = e :: rest → e.since = some t0 → t0 + 1000000 ≤ s.t →
    ∃ t : State, exec (.placementStarvationTimeout bay lvl) s = .next t ∧ SameBytes s t ∧ t.cores = s.cores ∧ mget (t.bay bay).levels lvl [] = { e with starved := true } :: rest) ∧
  (∀ (s : State) core blk bl co, s.block? core blk = some bl → bl.st = .placed → bl.staging = false → stageTiles blk bl.regions (s.core core) = some co →
    s.off = false →
    ∃ t : State, act s (.stage core blk) = .stay t ∧
      (bl.regions = [] → t = s.setBlock core blk { bl with staging := true }) ∧
      (t.block? core blk = none ∨ (t.block? core blk = some { bl with staging := true } ∧ (t.core core).tiles = co.tiles ∧ t.mem = s.mem ∧ ∃ new, t.accs = s.accs ++ new ∧
        new.length = (bl.regions.map (fun r => 8 * r.lines)).sum ∧ ∀ A ∈ new, A.ag = .stage core blk ∧ A.kind = .bread ∧ A.size = 32 ∧ A.prv = bl.prv ∧
          ∃ (i m : Nat) (r : Region), bl.regions[i]? = some r ∧ m < 8 * r.lines ∧ A.dest = .stage i m ∧ A.form = r.base + BitVec.ofNat 64 (bl.number * r.stride * 256 + 32 * m)))) ∧
  (∀ (s : State) core blk bl, s.block? core blk = some bl → bl.st = .placed → bl.slots.Nodup →
    (∀ r ∈ bl.regions, ∃ e tl, mget? (s.core core).tiles e = some tl ∧ tl.blk = blk ∧ tl.tile = r.tile ∧ tl.st = .ready) →
    ∃ (t : State) (bl' : Block), exec (.blockStart core blk) s = .next t ∧ SameMemory s t ∧ t.block? core blk = some bl' ∧ bl'.st = .running ∧ bl'.rows = [] ∧ (bl'.seq = none ↔ bl.mspc = 0) ∧
      (∀ q, bl'.seq = some q → q = { pc := bl.mspc }) ∧
      (∀ n, n < bl.nbar → bl'.bar n = { count := 0, expect := BitVec.ofNat 16 ((bl.threads + 7) / 8), phase := 0 }) ∧
      ∀ k slot, bl.slots[k]? = some slot → ∃ y, t.course? core slot = some y ∧ y.blk = blk ∧ y.idx = k ∧ y.prv = false ∧ y.ts = false ∧ y.u.q = 0 ∧
        y.u.rs 0 = bl.arg ∧ y.u.rs 1 = BitVec.ofNat 64 bl.number ∧ y.u.rs 2 = BitVec.ofNat 64 bl.jseq ∧ (∀ r, 3 ≤ r → y.u.rs r = 0) ∧
        ∀ l, l < 8 → (y.lane l).pc = bl.entry ∧ (y.lane l).v = [] ∧ (y.lane l).p = 0 ∧ (y.lane l).st = if 8 * k + l < bl.threads then .ready else .exited))

/-- R42, R43, R49, R60, R68, R417, R425, R429: the last block of a job retires once its courses are empty and released; what it holds is freed, and with DONE = 0 the job ends with its notice. With DONE the bay queue adds 1, and the
notice follows the add's record. Notices and the messages of cores enter mailbox 14 while it has room; a host's write to a mailbox window is one entry, or a discard that is counted; its writes to PCAP and CMD are taken where
they are in range, and a refresh of one of the eight stacks is banked while the package is compute-bound (what else a register write does is log 67; that CMD needs a running Zhesor root log 118). What the DONE add needs is the model's reading (log 43). -/
def Obligations.RetirementAndMessages : Prop :=
  (∀ (s : State) core blk bl j, s.block? core blk = some bl → mayRetire s core blk bl = true → (s.bay bl.bay).jobs.filter (fun x => x.jseq == bl.jseq) = [j] → j.left = 1 → j.done = 0 →
    (j.note = true → (s.bay bl.bay).notices.length + (s.bay bl.bay).reserved < 4096) →
    ∃ t : State, exec (.blockRetirement core blk) s = .next t ∧ SameBytes s t ∧ t.block? core blk = none ∧ (∀ k ∈ bl.slots, t.course? core k = none) ∧
      (∀ e y, mget? (t.core core).tiles e = some y → y.blk ≠ blk) ∧ (∀ e y, mget? (t.core core).futs e = some y → y.blk ≠ blk) ∧
      (∀ x ∈ (t.bay bl.bay).jobs, x.jseq ≠ bl.jseq) ∧ (t.bay bl.bay).notices = (s.bay bl.bay).notices ++ (if j.note then
        [BitVec.ofNat 512 (1 + j.lvl % 4 * 2 ^ 8 + j.tag.toNat * 2 ^ 16 + j.jseq % 2 ^ 64 * 2 ^ 64 + s.t % 2 ^ 64 * 2 ^ 128 + j.nblk % 2 ^ 64 * 2 ^ 192)] else [])) ∧
  (∀ (s : State) core blk bl j va pa refill, s.block? core blk = some bl → mayRetire s core blk bl = true → (s.bay bl.bay).jobs.filter (fun x => x.jseq == bl.jseq) = [j] → j.left = 1 → j.done ≠ 0 →
    (j.note = true → (s.bay bl.bay).notices.length + (s.bay bl.bay).reserved < 4096) →
    probeOf (({ releaseBlock s core blk bl with nextAcc := s.nextAcc + 1 } : State).updBay bl.bay (fun y => { y with
        jobs := y.jobs.map (fun x => if x.jseq = j.jseq then { j with left := 0, tfin := s.t, add := some s.nextAcc } else x), reserved := if j.note then y.reserved + 1 else y.reserved })) (s.svCore bl.bay)
      { id := s.nextAcc, iss := 0, ag := .bayq bl.bay, kind := .atomic, op := .add, form := j.done, ea := j.done, size := 8, data := natBytes 8 1, sig := true, scope := 7, prv := j.prv, t0 := s.t }
      = .go va pa refill →
    ∃ (t : State) (a : Access), exec (.blockRetirement core blk) s = .next t ∧ SameBytes s t ∧ t.block? core blk = none ∧ t.accs = s.accs ++ [a] ∧ a.ag = .bayq bl.bay ∧ a.kind = .atomic ∧ a.op = .add ∧
      a.size = 8 ∧ leNum a.data = 1 ∧ a.sig = true ∧ a.scope = 7 ∧ a.prv = j.prv ∧ a.ph = .flight pa ∧ a.form = j.done ∧ (t.bay bl.bay).notices = (s.bay bl.bay).notices) ∧
  (∀ (s : State) bay acc a j r old d, s.accs.find? (fun x => x.id == acc) = some a → (s.bay bay).jobs.find? (fun x => x.add == some acc) = some j → a.ag = .bayq bay → a.ph = .recorded r old d →
    ∃ t : State, exec (.doneAddRecord bay acc) s = .next t ∧ SameBytes s t ∧ t.accs = s.accs.filter (fun x => decide (x.id ≠ acc)) ∧ (∀ x ∈ (t.bay bay).jobs, x.jseq ≠ j.jseq) ∧
      (t.bay bay).notices = (s.bay bay).notices ++ (if j.note then [doneNotice j] else [])) ∧
  (∀ (s : State) bay m rest, (s.bay bay).notices = m :: rest → ((s.bay bay).mailbox 14).entries.length < 256 → (s.bay bay).heldAns = [] →
    ∃ t : State, exec (.noticeQueueDrain bay) s = .next t ∧ (t.bay bay).notices = rest ∧ ((t.bay bay).mailbox 14).entries = ((s.bay bay).mailbox 14).entries ++ [m] ∧
      ((t.bay bay).mailbox 14).prod = ((s.bay bay).mailbox 14).prod + 1 ∧ { t with bays := s.bays } = s ∧ ∀ b, b ≠ bay → t.bay b = s.bay b) ∧
  (∀ (s : State) bay m rest rid r, (s.bay bay).notices = m :: rest → ((s.bay bay).mailbox 14).entries.length < 256 → (s.bay bay).heldAns = [rid] → mget? (s.bay bay).pages rid = some r →
    rest.length + (s.bay bay).reserved < 4096 → rid < 64 →
    ∃ t : State, exec (.noticeQueueDrain bay) s = .next t ∧ (t.bay bay).notices = rest ++ [BitVec.ofNat 512 (5 + rid * 2 ^ 8 + r.vaddr.toNat * 2 ^ 448)] ∧ (t.bay bay).heldAns = [] ∧
      mget? (t.bay bay).pages rid = none) ∧
  (∀ (s : State) core m rest, (s.core core).msgs = m :: rest → ((s.bay (s.bayOf core)).mailbox 14).entries.length < 256 →
    ∃ t : State, exec (.coreMessageAppend core) s = .next t ∧ (t.core core).msgs = rest ∧ SameBytes s t ∧
      ((t.bay (s.bayOf core)).mailbox 14).entries = ((s.bay (s.bayOf core)).mailbox 14).entries ++ [m]) ∧
  (∀ (s : State) bay w, (s.bay bay).formed = true → (∀ k, (s.bay bay).cont = some k → k.eave = true) → w.off / 0x1000 < 14 → w.off % 0x1000 = 0 → w.size = 64 → ((s.bay bay).mailbox (w.off / 0x1000)).entries.length < 256 →
    ∃ t : State, exec (.hostMailboxWrite bay w) s = .next t ∧ { t with bays := s.bays } = s ∧ (∀ b, b ≠ bay → t.bay b = s.bay b) ∧
      ((t.bay bay).mailbox (w.off / 0x1000)).entries = ((s.bay bay).mailbox (w.off / 0x1000)).entries ++ [w.data] ∧
      ((t.bay bay).mailbox (w.off / 0x1000)).prod = ((s.bay bay).mailbox (w.off / 0x1000)).prod + 1) ∧
  (∀ (s : State) bay w, (s.bay bay).formed = false ∨ (∃ k, (s.bay bay).cont = some k ∧ k.eave = false) ∨ 14 ≤ w.off / 0x1000 ∨ w.off % 0x1000 ≠ 0 ∨ w.size ≠ 64 ∨ 256 ≤ ((s.bay bay).mailbox (w.off / 0x1000)).entries.length →
    ∃ t : State, exec (.hostMailboxWrite bay w) s = .next t ∧ t = s.setBay bay { s.bay bay with f108 := (s.bay bay).f108 + 1 }) ∧
  (∀ (s : State) w, w.fn = 0 → w.off = 0x18 → exec (.registerWriteOther w) s = .next (if 1200 ≤ w.data.toNat % 4096 ∧ w.data.toNat % 4096 ≤ 2600 then { s with pcap := w.data.toNat % 4096 } else s)) ∧
  (∀ (s : State) w, w.fn = 0 → w.off = 0x40 → w.size = 64 → s.cmd = none → rootRuns s = true → w.data.toNat % 256 ∈ [1, 2, 3] → exec (.registerWriteOther w) s = .next { s with cmd := some w.data }) ∧
  (∀ (s : State) stack bank, 8 ≤ stack → exec (.hbmEarlyRefresh stack bank) s = .next s) ∧
  (∀ (s : State) stack bank, stack < 8 → ∃ t : State, exec (.hbmEarlyRefresh stack bank) s = .next t ∧ { t with banked := s.banked } = s ∧
    mget t.banked (stack * 2 ^ 16 + bank) 0 = if ∀ e ∈ s.cores, ∀ b ∈ e.2.blocks, b.2.st = .swapped ∨ b.2.cbnd = true then min (mget s.banked (stack * 2 ^ 16 + bank) 0 + 1) 8 else mget s.banked (stack * 2 ^ 16 + bank) 0 - 1)

namespace Sys2Proof.Machine

/-- Access a, number id, stands alone in flight to the physical address dst, whose target is tg; nothing earlier of its agent holds it and no publication of its sector does (R270 to R272, R281). -/
structure AtHome (s : State) (id : Nat) (a : Access) (dst : Nat) (tg : Target) : Prop where
  found : s.accs.filter (fun x => x.id == id) = [a]
  phase : a.ph = .flight dst
  target : target? s dst = some tg
  here : isPeer dst = false
  order : orderOk s a dst false = true
  sound : badSector s (tg.canon / 32) = none
/-- What a lane's destination holds after a load of n bytes with value x (R195). -/
def loaded (ln : Lane) (d : Reg) (sz : LdSize) (x : Nat) : Lane :=
  match sz with
  | .z8 => ln.wv d.toNat (BitVec.ofNat 32 (x % 2 ^ 8))
  | .s8 => ln.wv d.toNat ((BitVec.ofNat 8 x).signExtend 32)
  | .z16 => ln.wv d.toNat (BitVec.ofNat 32 (x % 2 ^ 16))
  | .s16 => ln.wv d.toNat ((BitVec.ofNat 16 x).signExtend 32)
  | .b32 => ln.wv d.toNat (BitVec.ofNat 32 x)
  | .b64 => ln.wv2 d.toNat (BitVec.ofNat 64 x)
  | .b128 => ln.wv4 d.toNat (BitVec.ofNat 128 x)
/-- Bytes of a load. -/
def loadBytes : LdSize → Nat
  | .z8 => 1 | .s8 => 1 | .z16 => 2 | .s16 => 2 | .b32 => 4 | .b64 => 8 | .b128 => 16

end Sys2Proof.Machine

/-- R265, R268, R270, R273, R274: a load at its home takes the granule's bytes in one step. With a scope below 6, and no staged write of its sectors ready, it is granted a lease of 64 × 2^LVL ns from the home's T:
LVL rises to 14 at most, and the expiry of the loading core's die rises to the lease's end. The elements of a transfer that are on their way to the sector take it with it (log 27). The stamp, which names the writes whose
values it takes, is the model's own record of the order of R271 (log 85). -/
def Obligations.LoadAtItsHome : Prop :=
  ∀ (s : State) id a dst tg, AtHome s id a dst tg → (s.accs.map (·.id)).Nodup → a.kind.isWrite = false → a.kind ≠ .wait → a.dest ≠ .again → a.last = false → heldForTp s (tg.canon / 32) (homeT s tg.slice) = false →
    let ls := mget s.leases (tg.canon / 64) {}
    let e := s.unitT (256 + tg.slice) + 64 * 2 ^ (if tg.tier = .host ∨ tg.tier = .pool then 0 else ls.lvl)
    let c := agentDie a.ag
    ∃ t x, exec (.homeRead id) s = .next t ∧ SameMemory s t ∧
      t.accs = s.accs.map (fun y => if y ∈ readGroup s a dst then { y with ph := .replied ((List.range 64).map (fun i => s.readByte (tg.canon / 64 * 64 + i))) x y.dst, stamp := stampNow s dst } else y) ∧
      a ∈ readGroup s a dst ∧ (∀ y ∈ readGroup s a dst, y = a ∨ (y.ag = a.ag ∧ y.kind.isWrite = false ∧ secOf s y.dst = secOf s dst)) ∧ stampAt (stampNow s dst) dst ≤ seenAt t a.ag (secOf s dst) ∧
      (a.scope < 6 → a.ev ≠ 3 → (∀ k, k < 2 → stagedReady s (tg.canon / 64 * 2 + k) = false) → stagedReady s (tg.canon / 32) = false → x = some e ∧
        (∀ g, g ≠ tg.canon / 64 → mget? t.leases g = mget? s.leases g) ∧
        mget t.leases (tg.canon / 64) {} = { ls with
          lvl := if tg.tier = .host ∨ tg.tier = .pool then ls.lvl else min (ls.lvl + 1) 14, l0 := if c = 0 then max ls.l0 e else ls.l0, l1 := if c = 0 then ls.l1 else max ls.l1 e }) ∧
      (6 ≤ a.scope ∨ a.ev = 3 → x = none ∧ t.leases = s.leases)

/-- R92, R195, R269, R270, R274: a load's value comes back from its home, or from a copy of its core whose lease covers the core's T; it goes to the destination of the lane that made it, extended as its size says, and
parked lanes of the access go on. A reply with a lease leaves a copy unless a write of the core to the granule is outstanding. A load of scope 6 or 7 takes no copy. Its line takes the access's priority, unless EV is 3 (R92). A copy whose sector is older than what the agent has seen of it does not serve (R271; the stamps are the model's own, log 85). -/
def Obligations.LoadedValuesReachTheirLanes : Prop :=
  (∀ (s : State) id a g x dst c k l d sz co, s.accs.filter (fun y => y.id == id) = [a] → a.ph = .replied g x dst → a.kind = .load → a.last = false → a.ag = .thread c k l → l < 8 →
    a.dest = .vreg d sz → a.size = loadBytes sz → g.length = 64 → dst % 64 + a.size ≤ 64 → s.course? c k = some co → (co.lane l).st ≠ .exited → (∀ m, (co.lane m).st ≠ .parked id) →
    ∃ (t : State) (y : Course), exec (.loadReply id) s = .next t ∧ SameBytes s t ∧ t.accs = s.accs.filter (fun z => decide (z.id ≠ id)) ∧ t.course? c k = some y ∧ y.u = co.u ∧
      y.lane l = loaded (co.lane l) d sz (leNum ((g.drop (dst % 64)).take a.size)) ∧ (∀ m, m < 8 → m ≠ l → y.lane m = co.lane m) ∧
      (x = none → (t.core c).copies = (s.core c).copies) ∧
      (∀ e, x = some e → a.ev ≠ 3 → pendingMark s c (granOf s dst) = false → c ∉ s.safe →
        mget? (t.core c).copies (granOf s dst) = some { data := g, exp := BitVec.ofNat 24 ((e - 24) / 8), stamp := a.stamp } ∧
        ∃ ln, mget? (t.core c).lines (granOf s dst / 4) = some ln ∧ ln.ev = a.ev ∧ ln.used = s.stepNo + 1) ∧
      (pendingMark s c (granOf s dst) = true → (t.core c).copies = (s.core c).copies)) ∧
  (∀ (s : State) id a dst c k l d sz co cp, s.accs.filter (fun y => y.id == id) = [a] → a.ph = .flight dst → a.kind = .load → a.last = false → a.ag = .thread c k l → l < 8 → a.scope < 6 →
    c ∉ s.safe → orderOk s a dst false = true → mget? (s.core c).copies (granOf s dst) = some cp → sweepDue s c = false → seenAt s a.ag (secOf s dst) ≤ stampAt cp.stamp dst →
    (let left := (cp.exp.toNat + 2 ^ 24 - s.coreT c / 8 % 2 ^ 24) % 2 ^ 24; 1 ≤ left ∧ left ≤ 2 ^ 23 - 1) →
    a.dest = .vreg d sz → a.size = loadBytes sz → cp.data.length = 64 → dst % 64 + a.size ≤ 64 → s.course? c k = some co → (co.lane l).st ≠ .exited → (∀ m, (co.lane m).st ≠ .parked id) →
    ∃ (t : State) (y : Course), exec (.copyHit id) s = .next t ∧ OnlyCourse { s.updCore c (fun z => { z with lines := (t.core c).lines }) with accs := s.accs.filter (fun z => decide (z.id ≠ id)), seen := t.seen } t c k ∧ t.course? c k = some y ∧
      (∀ ln, mget? (s.core c).lines (granOf s dst / 4) = some ln → mget? (t.core c).lines (granOf s dst / 4) = some { ln with ev := if a.ev = 3 then ln.ev else a.ev, used := s.stepNo + 1 }) ∧
      (∀ m, m ≠ granOf s dst / 4 → mget? (t.core c).lines m = mget? (s.core c).lines m) ∧
      y.lane l = loaded (co.lane l) d sz (leNum ((cp.data.drop (dst % 64)).take a.size)) ∧ (∀ m, m < 8 → m ≠ l → y.lane m = co.lane m)) ∧
  (∀ (s : State) id a dst, s.accs.filter (fun y => y.id == id) = [a] → a.ph = .flight dst → 6 ≤ a.scope → exec (.copyHit id) s = .next s) ∧
  (∀ (s : State) id a dst c cp, s.accs.filter (fun y => y.id == id) = [a] → a.ph = .flight dst → agentCore? a.ag = some c → mget? (s.core c).copies (granOf s dst) = some cp →
    stampAt cp.stamp dst < seenAt s a.ag (secOf s dst) → exec (.copyHit id) s = .next s) ∧
  (∀ (s : State) core gran, ∃ t : State, exec (.copyExpiry core gran) s = .next t ∧ OnlyCore s t core ∧ mget? (t.core core).copies gran = none ∧
    (∀ g, g ≠ gran → mget? (t.core core).copies g = mget? (s.core core).copies g) ∧ { t.core core with copies := (s.core core).copies, lines := (s.core core).lines } = s.core core ∧
    (∀ m x, mget? (s.core core).lines m = some x → mget? (t.core core).lines m = some x ∨ (mget? (t.core core).lines m = none ∧ ∀ g, g / 4 = m → mget? (t.core core).copies g = none))) ∧
  (∀ (s : State) core, ∃ t : State, exec (.l1CopySweep core) s = .next t ∧ OnlyCore s t core ∧ { t.core core with copies := (s.core core).copies, lines := (s.core core).lines, swept := (s.core core).swept } = s.core core ∧
    ∀ e ∈ (s.core core).copies, (e ∈ (t.core core).copies ↔ 1 ≤ (e.2.exp.toNat + 2 ^ 24 - s.coreT core / 8 % 2 ^ 24) % 2 ^ 24 ∧
      (e.2.exp.toNat + 2 ^ 24 - s.coreT core / 8 % 2 ^ 24) % 2 ^ 24 ≤ 2 ^ 23 - 1))

/-- R194, R201, R202, R204, R267, R268, R270, R275: a write at its home. A store leaves its bytes, an atomic or reduction its operation on the bytes as they stood, whose old value its record carries; every other byte is
as it was. The record holds the home's T and the leases of the granule, and LVL returns to 0; a write to host or pool memory starts its write-through. A signaled write looks its sector up: the entry's lanes are woken, the
entry leaves, and a fence counter in the sector is read again (R54). -/
def Obligations.WriteAtItsHome : Prop :=
  let performed (s t : State) (id : Nat) (tg : Target) (dst : Nat) (old : List Byte) : Prop :=
    let ls := mget s.leases (tg.canon / 64) {}
    let far := tg.tier = .host ∨ tg.tier = .pool
    (∃ y ∈ t.accs, y.id = id) ∧ (∀ y ∈ t.accs, y.id = id → ∃ r, y.ph = (if far then .cxl r old dst else .recorded r old dst) ∧ (256 + tg.slice ∉ s.safe →
      r.p = s.unitT (256 + tg.slice) ∧ r.l0 = ls.l0 ∧ r.l1 = ls.l1 ∧ r.lr = ls.lr)) ∧ mget t.leases (tg.canon / 64) {} = { ls with lvl := 0 } ∧
    t.out = s.out ++ (if far then [.cxlWrite (tg.canon / 64 * 64) (t.readBytes (tg.canon / 64 * 64) 64)] else []) ∧
    (∀ y ∈ s.accs, y.id ≠ id → y ∈ t.accs) ∧ (∀ g, g ≠ tg.canon / 64 → mget? t.leases g = mget? s.leases g)
  (∀ (s : State) id a dst tg, AtHome s id a dst tg → a.kind = .store ∨ a.kind = .bwrite ∨ a.kind = .stp → a.ridge = none → groupOf s a dst = [a] →
    orderOk { s with accs := s.accs.filter (fun y => decide (y.id ≠ id)) } a dst false = true → lateForTp s (tg.canon / 32) (homeT s tg.slice) = false →
    ∃ t : State, exec (.homeWrite id) s = .next (if a.sig then lookupSector t tg.slice (tg.canon / 32) else t) ∧ performed s t id tg dst [] ∧
      (∀ i, i < a.data.length → t.readByte (tg.canon + i) = a.data.getD i 0) ∧ ∀ g, g < tg.canon ∨ tg.canon + a.data.length ≤ g → memGet t.mem g = memGet s.mem g) ∧
  (∀ (s : State) id a dst tg, AtHome s id a dst tg → a.kind = .atomic ∨ a.kind = .red → a.ridge = none → groupOf s a dst = [a] →
    orderOk { s with accs := s.accs.filter (fun y => decide (y.id ≠ id)) } a dst false = true → lateForTp s (tg.canon / 32) (homeT s tg.slice) = false → a.size ∈ [4, 8, 16] → a.data.length = a.size →
    let m := 2 ^ (8 * a.size)
    let w := tg.canon
    let old := s.readNat w a.size
    let v := leNum a.data
    let sgn := fun (x : Nat) => if 2 * x < m then (x : Int) else (x : Int) - m
    let half := fun (f : Fmt) => (addF f 0 (old % 2 ^ 16) (v % 2 ^ 16) + 2 ^ 16 * addF f 0 (old / 2 ^ 16) (v / 2 ^ 16)) % 2 ^ 32
    ∃ t : State, exec (.homeWrite id) s = .next (if a.sig then lookupSector t tg.slice (tg.canon / 32) else t) ∧ performed s t id tg dst (s.readBytes w a.size) ∧
      (∀ g, g < w ∨ w + a.size ≤ g → memGet t.mem g = memGet s.mem g) ∧
      (a.op = .add ∨ a.op = .fxadd → t.readNat w a.size = (old + v) % m) ∧ (a.op = .xchg → t.readNat w a.size = v) ∧
      (a.op = .and → t.readNat w a.size = old &&& v) ∧ (a.op = .or → t.readNat w a.size = old ||| v) ∧ (a.op = .xor → t.readNat w a.size = old ^^^ v) ∧
      (a.op = .minui → t.readNat w a.size = min old v) ∧ (a.op = .maxui → t.readNat w a.size = max old v) ∧
      (a.op = .min → t.readNat w a.size = if sgn old ≤ sgn v then old else v) ∧ (a.op = .max → t.readNat w a.size = if sgn old ≤ sgn v then v else old) ∧
      (a.op = .cas → old = a.cmp → t.readNat w a.size = v) ∧ (a.op = .cas → old ≠ a.cmp → t.mem = s.mem) ∧
      (a.op = .faddF32 → a.size = 4 → t.readNat w 4 = addF fp32 0 old v % 2 ^ 32) ∧
      (a.op = .addBf16x2 → a.size = 4 → t.readNat w 4 = half bf16) ∧ (a.op = .addF16x2 → a.size = 4 → t.readNat w 4 = half fp16)) ∧
  -- the lookup of a signaled write: monitor entries
  (∀ (s : State) sl sector, (∀ b lvl e rest, lvl < 4 → levelOf s b lvl = e :: rest → e.fence = false ∨ e.parsed = false) →
    let t := lookupSector s sl sector
    (t.slice sl).mon = (s.slice sl).mon.filter (fun e => e.sector != sector) ∧ t.mem = s.mem ∧ t.accs = s.accs ∧
    (∀ e ∈ (s.slice sl).mon, e.sector = sector → ∀ x ∈ e.lanes, (s.lane x.1 x.2.1 x.2.2).st = .monitor → (t.lane x.1 x.2.1 x.2.2).st = .woken) ∧
    (∀ e ∈ (s.slice sl).mon, e.sector = sector → ∀ p ∈ e.peers, ∃ h, OutPkt.reply h p.pkg p.tag .wake ∈ t.out)) ∧
  -- and a fence counter in the sector
  (∀ (s : State) sl sector b y lvl e rest i,
    let w := s.updSlice sl (fun x => { x with mon := x.mon.filter (fun m => m.sector != sector) })
    s.bays = [(b, y)] → (∀ m ∈ (s.slice sl).mon, m.sector ≠ sector) → s.coresOf b ≠ [] → lvl < 4 → levelOf s b lvl = e :: rest → e.fence = true → e.parsed = true →
    (∀ m, m < 4 → m ≠ lvl → ∀ e' rest', levelOf s b m = e' :: rest' → e'.fence = false ∨ e'.parsed = false) → (List.range 12).filter (condIn w b sector e) = [i] →
    exec (.fenceCounterPoll b lvl i) w = .next (lookupSector s sl sector))

/-- R266, R267, R269, R272, R275: a service core issues loads, stores and fences of system scope. A record reaches the agent that wrote. Each horizon of its lane rises to the record's times for that scope, and the access is done; a host write completes once T has reached the leases of its record (R301, R302; log 108); a fence passes once everything earlier is performed and recorded
and the lane's T has reached the horizon of its scope; a write-through takes XC when its CXL write completes, and its sector is then clean in the cache part. R275, R280, R281, R298, R378: publication writes a group's staged bytes of one sector once its home's T has reached TP, and is a write with its record (R267) or, for host and pool memory, its write-through before it; a snoop is answered, and its write in place, only past the leases of the sector; the time unit puts units 16 ns
away in the safe mode, where they drop their copies. -/
def Obligations.RecordsFencesAndPublication : Prop :=
  (
  (∀ (s : State) id a r old d c k l co, s.accs.filter (fun y => y.id == id) = [a] → a.ph = .recorded r old d → a.ag = .thread c k l → l < 8 → a.dest = .none → isPeer d = false → s.course? c k = some co →
    let m6 := max r.p (max r.l0 (max r.l1 r.lr))
    let h := (co.lane l).hor
    ∃ (t : State) (y : Course), exec (.completionRecord id) s = .next t ∧ SameBytes s t ∧ t.accs = s.accs.filter (fun z => decide (z.id ≠ id)) ∧ t.course? c k = some y ∧
      (∀ m, m < 8 → m ≠ l → y.lane m = co.lane m) ∧ y.lane l = { co.lane l with
        hor := ⟨max h.h4 (max r.p (if c < 128 then r.l0 else r.l1)), max h.h5 (max r.p (max r.l0 r.l1)), max h.h6 m6, max h.h7 (max m6 r.xc)⟩ }) ∧
  (∀ (s : State) n pa size data tg, n < 4 → (mget s.services n {}).fence = false → target? s pa = some tg → inTables s tg.canon = false → (tg.tier = .win → inEave s tg.canon = false) →
    let A : Access := { id := s.nextAcc, iss := s.nextIss, ag := .service n, kind := .load, form := BitVec.ofNat 64 pa, ea := BitVec.ofNat 64 pa, size := size, prv := true, acq := (mget s.services n {}).acq, ph := .flight pa, t0 := s.t }
    (pa % 32 + size ≤ 32 → act s (.service n (.load pa size)) = .stay { s with nextAcc := s.nextAcc + 1, nextIss := s.nextIss + 1, accs := s.accs ++ [A] }) ∧
    (pa % 32 + data.length ≤ 32 → act s (.service n (.store pa data)) = .stay { s with
      nextAcc := s.nextAcc + 1, nextIss := s.nextIss + 1, accs := s.accs ++ [{ A with kind := .store, size := data.length, data := data }] }) ∧
    act s (.service n .fence) = .stay { s with services := mset s.services n { mget s.services n {} with fence := true } }) ∧
  (∀ (s : State) id a r old d, s.accs.filter (fun y => y.id == id) = [a] → a.ph = .recorded r old d → a.ag = .host →
    (s.t < max r.l0 r.l1 → exec (.completionRecord id) s = .next s) ∧
    (max r.l0 r.l1 ≤ s.t → ∃ t : State, exec (.completionRecord id) s = .next t ∧ t.accs = s.accs.filter (fun z => decide (z.id ≠ id)) ∧ t.out = s.out ++ [.hdmAns a.form.toNat []] ∧ SameBytes s t)) ∧
  (∀ (s : State) n op, n < 4 → (mget s.services n {}).fence = true →
    (relPassed s (.service n) 7 = true → act s (.service n op) = .stay { s with services := mset s.services n { mget s.services n {} with fence := false, acq := s.nextAcc } }) ∧
    (relPassed s (.service n) 7 = false → act s (.service n op) = .stay s)) ∧
  (∀ (s : State) core slot lane co k acq, s.course? core slot = some co → lane < 8 → (co.lane lane).fence = some (k, acq) → (∀ a ∈ s.accs, a.ag = .thread core slot lane → a.ph.unperformed = false ∧ a.kind.isWrite = false) →
    (co.lane lane).hor.at k ≤ s.coreT core → (∀ bl, s.block? core co.blk = some bl → bl.arrivals = []) →
    ∃ (t : State) (y : Course), exec (.fencePass core slot lane) s = .next t ∧ OnlyCourse s t core slot ∧ t.course? core slot = some y ∧
      (∀ m, m < 8 → m ≠ lane → y.lane m = co.lane m) ∧ y.lane lane = { co.lane lane with fence := none, acq := if acq then s.nextAcc else (co.lane lane).acq }) ∧
  (∀ (s : State) core slot lane co k acq, s.course? core slot = some co → lane < 8 → (co.lane lane).fence = some (k, acq) → (∀ bl, s.block? core co.blk = some bl → bl.arrivals = []) →
    ((∃ a ∈ s.accs, a.ag = .thread core slot lane ∧ (a.ph.unperformed = true ∨ a.kind.isWrite = true)) ∨ s.coreT core < (co.lane lane).hor.at k) →
    exec (.fencePass core slot lane) s = .next s) ∧
  (∀ (s : State) id a r old d, s.accs.find? (fun y => y.id == id) = some a → a.ph = .cxl r old d →
    ∃ t : State, exec (.cxlWriteCompletion id) s = .next t ∧ { t with accs := s.accs, soffit := s.soffit, bad := s.bad } = s ∧
      ((∀ x ∈ s.accs, x.id ≠ id → ∀ r' old' d', x.ph = .cxl r' old' d' → granOf s d' ≠ granOf s d) → ∀ e, sofFind t (granOf s d) = some e → e.dirty = false) ∧
      t.accs = s.accs.map (fun y => if y.id = id then { y with ph := .recorded { r with xc := homeT s (homeOf s d) } old d } else y))) ∧
  (
  (∀ (s : State) pkg group sector st tp w tg, target? s (32 * sector) = some tg → mget? s.stages (256 * pkg + group) = some st → st.tp = some tp → sector ∈ st.left → st.writes.filter (fun x => x.sector == sector) = [w] → w.sig = false →
    tp ≤ homeT s (homeOf s (32 * sector)) → (tg.tier = .host → s.hUp = true) → (tg.tier = .pool → s.mUp = true) → publishFirst s (256 * pkg + group) sector tp = false → w.bytes.length ≤ 32 → (w.bytes.map (·.1)).Nodup → (∀ e ∈ w.bytes, e.1 < 32) →
    ∃ t : State, exec (.publication pkg group sector) s = .next t ∧ (∀ e ∈ w.bytes, t.readByte (32 * sector + e.1) = e.2) ∧
      (∀ g, (∀ e ∈ w.bytes, g ≠ 32 * sector + e.1) → memGet t.mem g = memGet s.mem g) ∧ (mget t.leases (32 * sector / 64) {}).lvl = 0 ∧
      (∃ A ∈ t.accs, A.id = s.nextAcc ∧ A.ag = .ingress { pkg := pkg, tag := group, bay := st.bay, plane := 0 } ∧ ∃ r d,
        A.ph = (if tg.tier = .host ∨ tg.tier = .pool then .cxl r [] d else .recorded r [] d) ∧ (256 + tg.slice ∉ s.safe → r.p = s.unitT (256 + tg.slice))) ∧
      (st.left = [sector] → mget? t.stages (256 * pkg + group) = none) ∧
      ((∃ x ∈ st.left, x ≠ sector) → ∃ st', mget? t.stages (256 * pkg + group) = some st' ∧ sector ∉ st'.left ∧ (∀ x ∈ st.left, x ≠ sector → x ∈ st'.left))) ∧
  (∀ (s : State) pkg group sector st tp, mget? s.stages (256 * pkg + group) = some st → st.tp = some tp → homeT s (homeOf s (32 * sector)) < tp → exec (.publication pkg group sector) s = .next s) ∧
  (∀ (s : State) pa data tg, target? s pa = some tg → tg.tier = .host ∨ tg.tier = .pool → pa % 32 + data.length ≤ 32 → (∀ a ∈ s.accs, ∀ r old d, a.ph ≠ .cxl r old d) → lateForTp s (tg.canon / 32) (homeT s tg.slice) = false →
    let ls := mget s.leases (tg.canon / 64) {}
    (max ls.l0 ls.l1 ≤ homeT s tg.slice → ∃ t : State, exec (.cxlSnoop pa data) s = .next t ∧ (∀ i, i < data.length → t.readByte (tg.canon + i) = data.getD i 0) ∧
      (∀ g, g < tg.canon ∨ tg.canon + data.length ≤ g → memGet t.mem g = memGet s.mem g) ∧ mget t.leases (tg.canon / 64) {} = { ls with lvl := 0 } ∧ t.out = s.out ++ [.snoopAns pa]) ∧
    (homeT s tg.slice < max ls.l0 ls.l1 → exec (.cxlSnoop pa data) s = .next s)) ∧
  (∀ s, ∃ t : State, exec .clockSkewCheck s = .next t ∧ SameBytes s t ∧ t.accs = s.accs ∧
    (∀ u, u ∈ t.safe ↔ u < 512 ∧ (16 ≤ (mget s.skew u 0).natAbs ∨ (u ∈ s.safe ∧ 8 < (mget s.skew u 0).natAbs))) ∧
    (∀ c, c < 256 → (t.core c).copies = if 16 ≤ (mget s.skew c 0).natAbs then [] else (s.core c).copies) ∧
    (∀ c, c < 256 → 16 ≤ (mget s.skew c 0).natAbs → (t.core c).lines = []) ∧ ∀ c, { t.core c with copies := (s.core c).copies, lines := (s.core c).lines } = s.core c))

namespace Sys2Proof.Machine

/-- Bits 63:0 of a ticket of core c and slot k under an incarnation; bit 63 marks a fault (R314, R335). -/
def ticketNat (inc : BitVec 16) (c k : Nat) : Nat := c % 256 + k % 512 * 2 ^ 8 + inc.toNat * 2 ^ 32 + 2 ^ 63
/-- The record of a thread's precise fault of class 0 (R334, R347). -/
structure ThreadFault (s : State) (iss : Issue) (c k : Nat) (x : Course) (r : FaultRec) (code reason pos : Nat) (w : W32) (ls : List Nat) : Prop where
  code : r.code = code
  pc : r.pc = iss.pc
  time : r.tflt = s.coreT c
  aux : r.aux = BitVec.ofNat 64 (w.toNat + pos % 16 * 2 ^ 32 + reason % 256 * 2 ^ 40)
  lanes : ∀ l, l < 8 → (r.lmask.getLsbD l = true ↔ l ∈ ls)
  ticket : r.ticket.toNat = ticketNat (s.bay (s.bayOf c)).inc c k
  place : r.blk = x.blk ∧ r.agent = 0 ∧ r.loc = 0 ∧ r.lf = false
  marks : r.held = true ∧ r.async = false ∧ r.cont = false
/-- The trigger step of bay b's containment, with these trigger records (R340, R341): its incarnation advances and is announced, and its steps are to come. -/
structure Triggered (s t : State) (b : Nat) (trigger : List W512) : Prop where
  inc : (t.bay b).inc = (s.bay b).inc + 1
  steps : (t.bay b).cont = some { stop := s.coresOf b, old := (s.bay b).inc }
  box : ((t.bay b).mailbox 15).entries = (((s.bay b).mailbox 15).entries ++ trigger).take (max 256 ((s.bay b).mailbox 15).entries.length)
  bay : { t.bay b with inc := (s.bay b).inc, cont := (s.bay b).cont, mail := (s.bay b).mail } = s.bay b ∧ ∀ m, m ≠ 15 → (t.bay b).mailbox m = (s.bay b).mailbox m
  others : ∀ d, d ≠ b → t.bay d = s.bay d
  told : .announce b ((s.bay b).inc + 1) ∈ t.out
/-- Step 2 of R341 at core c of bay b. -/
structure CoreStopped (s t : State) (b c : Nat) (k : Contain) : Prop where
  gone : (t.core c).courses = [] ∧ (t.core c).blocks = [] ∧ (t.core c).futs = [] ∧ (t.core c).tiles = [] ∧ (t.core c).recs = [] ∧ (t.core c).mq = [] ∧ (t.core c).reqs = [] ∧
    ∀ p, t.job? c p = none ∧ (t.proc c p).queue = []
  gens : (∀ e f, mget? (s.core c).futs e = some f → mget (t.core c).futGen e 0 = f.gen + 1) ∧ ∀ e f, mget? (s.core c).tiles e = some f → mget (t.core c).tileGen e 0 = f.gen + 1
  accs : (∀ a ∈ t.accs, agentCore? a.ag ≠ some c) ∧ (∀ a ∈ s.accs, agentCore? a.ag ≠ some c → a ∈ t.accs) ∧
    ∀ a ∈ s.accs, agentCore? a.ag = some c → a.kind.isWrite = true → (∃ d, a.ph = .flight d) → { a with ag := .orphan (some c) b, dest := .none } ∈ t.accs
  bay : t.bay b = { s.bay b with cont := some { k with stop := k.stop.filter (fun x => decide (x ≠ c)), lost := k.lost + (s.core c).recs.length } }
  others : (∀ d, d ≠ c → t.core d = s.core d) ∧ ∀ d, d ≠ b → t.bay d = s.bay d
  frames : s.undef = [] → ∀ f, f < (s.bay b).fcnt → frameState t b f = if (∀ x ∈ k.stop, x = c) ∧ frameState s b f = 1 then 4 else frameState s b f
/-- The CONTAINED record for the incarnation before a trigger, with the records lost (R341). -/
def containedBits (s : State) (old : BitVec 16) (lost : Nat) : Nat :=
  0x10 + 2 ^ 8 * min lost 255 + 2 ^ 16 * 7 + 2 ^ 24 * 0x3F + 2 ^ 105 + 2 ^ 128 * ticketNat (old + 1) 0 0 + 2 ^ 192 * old.toNat + 2 ^ 320 * (s.t % 2 ^ 64)
/-- The walkers and the supervisor of bay b stand at their start (R341, R427). -/
structure ReservedStart (s t : State) (b : Nat) (root walk sv : W64) : Prop where
  walkers : ∀ c ∈ s.coresOf b, ∃ x, t.course? c 511 = some x ∧ x.prv = true ∧ x.u.rs 0 = root ∧ ∀ l, l < 8 → (x.lane l).st = .ready ∧ (x.lane l).pc = walk
  supervisor : s.coresOf b ≠ [] → ∃ x, t.course? (s.svCore b) 510 = some x ∧ x.prv = true ∧ x.u.rs 0 = root ∧ x.u.rs 1 = BitVec.ofNat 64 (t.bay b).inc.toNat ∧
    (∀ g, (x.u.rs 2).getLsbD g = true ↔ g < 32 ∧ mget? s.cols g = some b) ∧ ∀ l, l < 8 → (x.lane l).st = .ready ∧ (x.lane l).pc = sv

end Sys2Proof.Machine

/-- R145, R334 to R339, R345, R347, R445: a word that is no instruction makes one record, whose bits stand as R334 lays them out, and holds the lanes in which its guard reads 1 at their PC, or, after three prefixes, every lane of its mask; no destination changes. The record enters
mailbox 15 while fewer than 252 of its entries are unread; ERET.ANS then retries, skips or kills. Delivery is stated where no other fault waits for its place, the answers for a block that is not pre-empted, KILL where no lane waits for a future. -/
def Obligations.PreciseFaultsAndTheirAnswers : Prop :=
  (∀ r : FaultRec, r.code < 256 → r.lost < 256 → r.agent < 8 → r.blk < 512 →
    let bit := fun (b : Bool) => if b then 1 else 0
    let cls := if r.code = 0x3F then 7 else if r.code < 0x10 then 0 else if r.code < 0x15 then 1 else if r.code < 0x20 then 2 else if r.code < 0x30 then 3 else 4
    r.bits.toNat = 0x10 + 2 ^ 8 * r.lost + 2 ^ 16 * cls + 2 ^ 24 * r.code + 2 ^ 104 * bit r.held + 2 ^ 105 * bit r.cont + 2 ^ 106 * bit r.async + 2 ^ 107 * bit r.lf +
      2 ^ 108 * r.agent + 2 ^ 111 * r.blk + 2 ^ 120 * r.lmask.toNat + 2 ^ 128 * r.ticket.toNat + 2 ^ 192 * r.aux.toNat + 2 ^ 256 * r.pc.toNat + 2 ^ 320 * (r.tflt % 2 ^ 64) +
      2 ^ 384 * r.loc.toNat) ∧
  (∀ code reason pos wd s iss c k x, CourseIssues s iss c k x → iss.word.getLsbD 31 = false → iss.pos ≠ 3 →
    k < 510 → (s.core c).recs.length < 16 → (∀ l ∈ iss.mask, l < 8) →
    let ls := iss.mask.filter (fun l => (x.lane l).rp (BitVec.ofNat 3 (iss.word.toNat / 2 ^ 23)))
    ls ≠ [] → ∃ (t : State) (y : Course) (r : FaultRec), exec (.illegalWord code reason pos wd) s = .next t ∧ ThreadFault s iss c k x r code reason pos wd ls ∧ t.course? c k = some y ∧
      OnlyCourse (s.setCore c { s.core c with recs := (s.core c).recs ++ [r] }) t c k ∧
      CourseAfter s iss false x.u x y (fun l ln => if l ∈ ls then { ln with st := .held iss.next, pc := iss.pc } else { ln with pc := iss.next })) ∧
  (∀ code reason pos wd s iss c k x, CourseIssues s iss c k x → iss.pos = 3 ∨ (iss.word.getLsbD 31 = true ∧ x.u.rq (BitVec.ofNat 3 (iss.word.toNat / 2 ^ 22)) = true) →
    k < 510 → (s.core c).recs.length < 16 → (∀ l ∈ iss.mask, l < 8) →
    ∃ (t : State) (y : Course) (r : FaultRec), exec (.illegalWord code reason pos wd) s = .next t ∧ ThreadFault s iss c k x r code reason pos wd iss.mask ∧ t.course? c k = some y ∧
      OnlyCourse (s.setCore c { s.core c with recs := (s.core c).recs ++ [r] }) t c k ∧
      CourseAfter s iss (iss.word.getLsbD 31) x.u x y (fun _ ln => { ln with st := .held iss.next, pc := iss.pc })) ∧
  (∀ (s : State) core r rest, (s.core core).recs = r :: rest → (s.core core).heldPages = [] → (∀ a ∈ s.accs, a.ph ≠ .queued) →
    (∀ j y, s.course? core j = some y → ∀ l, l < 8 → ∀ q, (y.lane l).st ≠ .barrier q) →
    (∀ j y, s.course? core j = some y → ∀ l, l < 8 → ∀ h d n i, (y.lane l).st = .future h d n i → ∃ f, mget? (s.core core).futs (h.toNat % 256) = some f ∧
      f.gen.toNat = h.toNat / 2 ^ 24 % 256 ∧ f.st ≠ .cancelled ∧ f.st ≠ .faulted) →
    let mb := (s.bay (s.bayOf core)).mailbox 15
    (mb.entries.length < 252 → ∃ t : State, exec (.faultRecordDelivery core) s = .next t ∧ t.accs = s.accs ∧ SameBytes s t ∧ (t.core core).recs = rest ∧
      { t.core core with recs := (s.core core).recs } = s.core core ∧ (∀ d, d ≠ core → t.core d = s.core d) ∧ (∀ b, b ≠ s.bayOf core → t.bay b = s.bay b) ∧
      t.bay (s.bayOf core) = { s.bay (s.bayOf core) with mail := mset (s.bay (s.bayOf core)).mail 15 ({ mb with entries := mb.entries ++ [r.bits], prod := mb.prod + 1, since := if mb.entries.isEmpty then s.t else mb.since }) }) ∧
    (252 ≤ mb.entries.length → exec (.faultRecordDelivery core) s = .next s)) ∧
  (∀ q (a b : Reg) s iss c k x c' k' x' pc, CourseIssues s iss c k x → x.u.rq q = true → x.prv = true → relPassed s (uniAgent iss) 7 = true → (c', k') ≠ (c, k) →
    s.course? c' k' = some x' → x'.yield = false → s.bayOf? c' = s.bayOf? c → c' < 256 → k' < 512 → (x.u.rs a.toNat).toNat = ticketNat (s.bay (s.bayOf c)).inc c' k' →
    pc = clear2 (x.u.rs b.toNat) → (∃ l, l < 8 ∧ ∃ n, (x'.lane l).st = .held n ∧ (x'.lane l).pc = pc) →
    let held := fun (l : Nat) (n : W64) => (x'.lane l).st = .held n ∧ (x'.lane l).pc = pc
    ((x.u.rs b.toNat).toNat % 4 ≠ 2 → ∃ (t : State) (z : Course), exec (.eretAns q a b) s = .next t ∧ CourseAdvanced s iss x.u x t c k ∧ t.course? c' k' = some z ∧ SameBytes s t ∧ z.u = x'.u ∧ z.h = x'.h ∧
      ∀ l, l < 8 → (∀ n, held l n → z.lane l = match (x.u.rs b.toNat).toNat % 4 with
          | 0 => { x'.lane l with st := .ready, acq := s.nextAcc }
          | 1 => { x'.lane l with st := .ready, pc := n, acq := s.nextAcc }
          | _ => x'.lane l) ∧ ((∀ n, ¬ held l n) → z.lane l = x'.lane l)) ∧
    (∀ bl, (x.u.rs b.toNat).toNat % 4 = 2 → s.block? c' x'.blk = some bl → (c' = c → k ∉ bl.slots ∧ x.active = true) →
      (∀ j y l h d n i, s.course? c' j = some y → (y.lane l).st ≠ .future h d n i) → (∀ p j, s.job? c' p = some j → j.blk ≠ x'.blk) →
      ∃ t : State, exec (.eretAns q a b) s = .next t ∧ CourseAdvanced s iss x.u x t c k ∧ SameBytes s t ∧ t.block? c' x'.blk = none ∧ (∀ j ∈ bl.slots, t.course? c' j = none) ∧
        (∀ e f, mget? (t.core c').futs e = some f → f.blk ≠ x'.blk) ∧ (∀ e f, mget? (t.core c').tiles e = some f → f.blk ≠ x'.blk) ∧
        (∀ j ∈ (t.bay bl.bay).jobs, j.jseq ≠ bl.jseq) ∧ ∀ m, ∀ e ∈ mget (t.bay bl.bay).levels m [], e.jseq ≠ bl.jseq))

/-- R340 to R342, R369, R388, R447: containment. The trigger step, shown for the two triggers that only a timer takes: a supervisor that leaves mailbox 15 unread for 10,000,000 ns, without a trigger record, and a side-log entry of that age,
whose asynchronous record comes first. Then one step at each core of the bay (its courses, jobs, sequencers, tiles, futures, records and requests are gone; the last of them vacates the filling frames), one at the eave die (mailboxes but the
fifteenth, notices, spawn queue, page requests and the bay's ridges and multicasts), one that makes the CONTAINED record while fewer than 256 entries are unread, and one in which walkers and supervisor start again, which a trip holds back
(R424). A second trigger before the last step advances the incarnation and makes one further record. In which steps the model does what R341 lists is log 10; the timer runs on over a containment (log 115). -/
def Obligations.ContainmentResults : Prop :=
  let stalled (s : State) (bay : Nat) : Prop := ((s.bay bay).mailbox 15).entries ≠ [] ∧ ((s.bay bay).mailbox 15).since + 10000000 ≤ s.t
  (∀ (s : State) bay, (s.bay bay).formed = true → (s.bay bay).cont = none → stalled s bay → ∃ t : State, exec (.supervisorStallTimeout bay) s = .next t ∧ Triggered s t bay [] ∧ { t with bays := s.bays, out := s.out } = s) ∧
  (∀ (s : State) bay k, (s.bay bay).formed = true → (s.bay bay).cont = some k → stalled s bay →
    ∃ t : State, exec (.supervisorStallTimeout bay) s = .next t ∧ t.cores = s.cores ∧ t.accs = s.accs ∧ SameBytes s t ∧ (t.bay bay).inc = (s.bay bay).inc + 1 ∧
      (k.noted = false → (t.bay bay).cont = some { k with again := some (s.bay bay).inc } ∧ (t.bay bay).mail = (s.bay bay).mail) ∧
      (k.noted = true → (t.bay bay).cont = some k ∧ ∃ r : W512, r.toNat = containedBits s (s.bay bay).inc 0 ∧
        ((t.bay bay).mailbox 15).entries = (((s.bay bay).mailbox 15).entries ++ [r]).take (max 256 ((s.bay bay).mailbox 15).entries.length)) ∧
      (∀ m, m ≠ 15 → (t.bay bay).mailbox m = (s.bay bay).mailbox m) ∧ ∀ d, d ≠ bay → t.bay d = s.bay d) ∧
  (∀ (s : State) bay, ¬ stalled s bay → exec (.supervisorStallTimeout bay) s = .next s) ∧
  (∀ (s : State) acc a c k l, s.accs.filter (fun y => y.id == acc) = [a] → a.ph = .sideLog → a.ag = .thread c k l → (s.bay (s.bayOf c)).formed = true → (s.bay (s.bayOf c)).cont = none →
    (a.t0 + 10000000 ≤ s.coreT c → ∃ (t : State) (r : FaultRec), exec (.sideLogTimeout acc) s = .next t ∧ Triggered s t (s.bayOf c) [r.bits] ∧ { t with bays := s.bays, out := s.out } = s ∧ r.code = 0x10 ∧ r.async = true ∧ r.cont = true ∧ r.held = false ∧
      r.pc = a.pc ∧ r.loc = BitVec.ofNat 128 a.form.toNat ∧ r.aux.toNat / 2 ^ 56 = (if a.tried then 1 else 7) ∧ r.aux.toNat / 2 ^ 48 % 2 ^ 8 = 1) ∧
    (s.coreT c < a.t0 + 10000000 → exec (.sideLogTimeout acc) s = .next s)) ∧
  -- the steps
  (∀ (s : State) b c, (s.bay b).cont = none → act s (.contain b c) = .stay s) ∧
  (∀ (s : State) b c k, (s.bay b).cont = some k → c ∈ k.stop → ∃ t : State, act s (.contain b c) = .stay t ∧ CoreStopped s t b c k) ∧
  (∀ (s : State) b c k, (s.bay b).cont = some k → c ∉ k.stop → k.stop ≠ [] → act s (.contain b c) = .stay s) ∧
  (∀ (s : State) b c k, (s.bay b).cont = some k → k.stop = [] → k.eave = false → ∃ t : State, act s (.contain b c) = .stay t ∧ t.cores = s.cores ∧ SameBytes s t ∧
    (t.bay b).cont = some { k with eave := true } ∧ (∀ m, m ≠ 15 → ((t.bay b).mailbox m).entries = [] ∧ ((t.bay b).mailbox m).cons = ((s.bay b).mailbox m).prod ∧ ((t.bay b).mailbox m).prod = ((s.bay b).mailbox m).prod) ∧
    (t.bay b).mailbox 15 = (s.bay b).mailbox 15 ∧ (t.bay b).notices = [] ∧ (t.bay b).levels = [] ∧ (t.bay b).jobs = [] ∧ (t.bay b).pages = [] ∧ (t.bay b).inc = (s.bay b).inc ∧
    (∀ a ∈ t.accs, a.ag ≠ .bayq b) ∧ (∀ e ∈ t.mcsts, e.2.core ∉ s.coresOf b) ∧ (∀ e ∈ t.ridges, (∀ o, e.2.cur = some o → o.bay ≠ b) ∧ ∀ o ∈ e.2.waiting, o.bay ≠ b) ∧ ∀ d, d ≠ b → t.bay d = s.bay d) ∧
  (∀ (s : State) b c k, (s.bay b).cont = some k → k.stop = [] → k.eave = true → k.noted = false → ∃ (t : State) (r : W512) (more : List W512), act s (.contain b c) = .stay t ∧ t.cores = s.cores ∧ t.accs = s.accs ∧ SameBytes s t ∧
    (t.bay b).cont = some { k with noted := true } ∧ r.toNat = containedBits s k.old k.lost ∧ more.map (·.toNat) = (k.again.map (fun old => containedBits s old 0)).toList ∧
    ((t.bay b).mailbox 15).entries = (((s.bay b).mailbox 15).entries ++ r :: more).take (max 256 ((s.bay b).mailbox 15).entries.length) ∧
    (∀ m, m ≠ 15 → (t.bay b).mailbox m = (s.bay b).mailbox m) ∧ (t.bay b).inc = (s.bay b).inc ∧ ∀ d, d ≠ b → t.bay d = s.bay d) ∧
  (∀ (s : State) b c k, (s.bay b).cont = some k → k.stop = [] → k.eave = true → k.noted = true →
    (s.st = .trip → act s (.contain b c) = .stay s) ∧
    (s.st ≠ .trip → ∃ t : State, act s (.contain b c) = .stay t ∧ t.accs = s.accs ∧ SameBytes s t ∧ ReservedStart s t b (s.bay b).bootRoot (s.bay b).bootWalk (s.bay b).svPc ∧
      t.bay b = { s.bay b with cont := none, walkPc := (s.bay b).bootWalk, root := (s.bay b).bootRoot } ∧ (∀ d, d ≠ b → t.bay d = s.bay d) ∧ ∀ d, d ∉ s.coresOf b → t.core d = s.core d))

/-- R110, R111, R216, R324, R325: work that waits for its time. A request still outstanding after 100,000 ns is sent again, with the T of that step as its TREQ (log 103) and WR as its waiting accesses stand then; an access parked on a frame is tried again after 10,000 ns, here to a place where it passes its checks; BARSAVE's
lanes go on once its stores and the held arrivals are performed; a sequencer told to stop does so when all it issued is done, and its image is stored. -/
def Obligations.WaitingWorkGoesOn : Prop :=
  (∀ (s : State) core i r, (s.core core).reqs[i]? = some r →
    let r' := { r with treq := s.coreT core, wr := waitsWrite s core r.name }
    let m : W512 := BitVec.ofNat 512 (2 + core % 256 * 2 ^ 24 + (if waitsWrite s core r.name then 2 ^ 40 else 0) + (if r.fv then 2 ^ 41 else 0) + r.frame % 2 ^ 22 * 2 ^ 42 + s.coreT core % 2 ^ 64 * 2 ^ 320 + r.name.toNat * 2 ^ 384)
    let mb := (s.bay (s.bayOf core)).mailbox 14
    let s1 := s.setCore core { s.core core with reqs := (s.core core).reqs.set i r' }
    (r.treq + 100000 ≤ s.coreT core → ∃ t : State, exec (.objectRequestResend core i) s = .next t ∧
      ((s.core core).msgs = [] → mb.entries.length < 256 →
        t = putBox s1 (s.bayOf core) 14 { mb with entries := mb.entries ++ [m], prod := mb.prod + 1, since := if mb.entries.isEmpty then s.t else mb.since }) ∧
      ((s.core core).msgs ≠ [] ∨ 256 ≤ mb.entries.length → t = s1.setCore core { s1.core core with msgs := (s.core core).msgs ++ [m] })) ∧
    (s.coreT core < r.treq + 100000 → exec (.objectRequestResend core i) s = .next s)) ∧
  (∀ (s : State) acc a c k l x ea dst, s.accs.filter (fun y => y.id == acc) = [a] → a.ph = .frame → a.ag = .thread c k l → a.kind = .load → isPeer dst = false → s.course? c k = some x →
    probeOf s c a = .go ea dst none → a.dest ≠ .again → a.issv = false →
    (a.t0 + 10000 ≤ s.coreT c → ∃ (t : State) (y : Course), exec (.objectParkRetry acc) s = .next t ∧ SameBytes s t ∧
      t.accs = s.accs.filter (fun z => decide (z.id ≠ acc)) ++ [{ a with ea := ea, ph := .flight dst, t0 := s.coreT c, retried := true, stuck := false, nosc := noscOf s c a.ag ea }] ∧ t.course? c k = some y ∧ y.u = x.u ∧ y.h = x.h ∧
      ∀ m, m < 8 → y.lane m = if m ∈ a.lanes ∧ (x.lane m).st = .parked acc then { x.lane m with st := .ready, pc := a.next } else x.lane m) ∧
    (s.coreT c < a.t0 + 10000 → exec (.objectParkRetry acc) s = .next s)) ∧
  (∀ (s : State) core blk bl img, s.block? core blk = some bl → bl.dir = some img → bl.heldAdds = [] → imageBusy s bl = false → imageAddsOut s core bl img = false → bl.slots.Nodup →
    ∃ t : State, exec (.barsaveHeldAdds core blk) s = .next t ∧ SameBytes s t ∧ t.accs = s.accs ∧ t.block? core blk = some bl ∧
      ∀ k x, s.course? core k = some x → ∃ y, t.course? core k = some y ∧ y.u = x.u ∧ ∀ l, l < 8 → y.lane l = match (x.lane l).st with
        | .pend p => if p.kind = .barsave ∧ k ∈ bl.slots then { x.lane l with st := .ready, pc := p.next } else x.lane l
        | _ => x.lane l) ∧
  (∀ (s : State) core blk bl q ea0 d0 ea1 d1, s.block? core blk = some bl → bl.seq = some q → bl.st = .saving → bl.image = none → q.ops = [] →
    let b := fun (x : Bool) => if x then 1 else 0
    let img := 8 * q.ta.toNat + 2 ^ 6 * q.tb.toNat + 2 ^ 9 * b q.sav + 2 ^ 10 * b (mget q.arm 0 false) + 2 ^ 11 * b (mget q.arm 1 false) + 2 ^ 12 * b (mget q.arm 2 false) +
      2 ^ 13 * b (mget q.arm 3 false) + 2 ^ 14 * (match q.run with | .running => 0 | .waiting => 1 | .ended => 2) + 2 ^ 16 * q.sareg.toNat +
      ((List.range 8).map (fun n => 2 ^ (160 + 16 * n) * (mget q.w n 0).toNat)).sum + ((List.range 4).map (fun n => 2 ^ (288 + 32 * n) * (mget q.c n 0).toNat)).sum +
      2 ^ 416 * q.sb.toNat + 2 ^ 448 * q.pc.toNat
    let st := fun (i : Nat) => ({ id := s.nextAcc + i, iss := 0, ag := .core core, kind := .store, form := bl.save + BitVec.ofNat 64 (64 + 32 * i), ea := bl.save + BitVec.ofNat 64 (64 + 32 * i), size := 32, data := natBytes 32 (img / 2 ^ (256 * i)), scope := 3, prv := true } : Access)
    probeOf s core (st 0) = .go ea0 d0 none → probeOf s core (st 1) = .go ea1 d1 none →
    ∃ t : State, exec (.sequencerStop core blk) s = .next t ∧ SameBytes s t ∧
      t.accs = s.accs ++ [{ st 0 with ea := ea0, ph := .flight d0, t0 := s.coreT core, nosc := !isPeer d0 && noscOf s core (.core core) ea0 },
        { st 1 with ea := ea1, ph := .flight d1, t0 := s.coreT core, nosc := !isPeer d1 && noscOf s core (.core core) ea1 }] ∧
      t.block? core blk = some { bl with image := some [s.nextAcc, s.nextAcc + 1], seq := some { q with stopped := true } }) ∧
  (∀ (s : State) core blk bl q, s.block? core blk = some bl → bl.seq = some q → q.ops ≠ [] → exec (.sequencerStop core blk) s = .next s)

namespace Sys2Proof.Machine

/-- Export entry e covers an offset (R284). -/
def exportCovers (e : BitVec 256) (off : Nat) : Prop :=
  e.getLsbD 7 = true ∧ e.toNat / 2 ^ 128 % 2 ^ 64 ≤ off ∧ off < e.toNat / 2 ^ 128 % 2 ^ 64 + e.toNat / 2 ^ 64 % 2 ^ 64
/-- The first entry of bay b's export table that covers an offset. -/
def exportAt (s : State) (b off : Nat) (e : BitVec 256) : Prop :=
  ∃ i, i < 64 ∧ mget (s.bay b).exports i 0 = e ∧ exportCovers e off ∧ ∀ j, j < i → ¬ exportCovers (mget (s.bay b).exports j 0) off
/-- An answer to a request goes on the plane that brought it, with the incarnation of the bay that answers (R286, R287). -/
def replyTo (s : State) (p : FabReq) (ans : FabAns) : OutPkt := .reply { bay := p.bay, inc := (s.bay p.bay).inc, plane := some p.plane } p.src p.tag ans
/-- The request is refused with a code: a NACK, which is counted; nothing else (R404). -/
def Nacked (s : State) (p : FabReq) (code : Nat) : Prop :=
  exec (.fabricIngressRequest p) s = .next { s.setBay p.bay { s.bay p.bay with f10c := (s.bay p.bay).f10c + 1 } with
    out := s.out ++ [replyTo s p (FabAns.nack code (if code = 0x0B then (s.bay p.bay).inc else 0))] }
/-- The package has been joined to its fabric (R426). -/
def OnFabric (s : State) : Prop := s.st = .service ∨ s.st = .ready ∨ s.st = .trip
/-- A request of the incarnation held, that has come whole, whose bytes lie as a packet's do, from a sender to a bay that it knows and that is open (R285, R409). -/
def Arrives (s : State) (p : FabReq) : Prop :=
  p.srcInc = incOf s p.src p.srcBay ∧ fabFormed p.off p.op = true ∧ (s.bay p.bay).cont = none ∧ p.tgtInc = (s.bay p.bay).inc ∧ (s.bay p.bay).formed = true ∧ OnFabric s ∧ p.failed = false
/-- It passes the remaining checks, to physical address pa in target tg, whose bytes can be read and to which no earlier multicast of its sender is on its way. -/
def Passes (s : State) (p : FabReq) (needs : List Nat) (k : AccKind) (pa : Nat) (tg : Target) : Prop :=
  Arrives s p ∧ ∃ e : BitVec 256, exportAt s p.bay p.off e ∧ (∀ n ∈ needs, e.getLsbD n = true) ∧
    let va : Nat := e.toNat / 2 ^ 192 + (p.off - e.toNat / 2 ^ 128 % 2 ^ 64)
    va < 2 ^ 56 ∧ walkBad s p.bay va = none ∧ leafCheck s (walk s p.bay va).1 (walk s p.bay va).2 va k false = .ok pa ∧ target? s pa = some tg ∧ tg.tier = .hbm ∧
    lateForTp s (tg.canon / 32) (homeT s tg.slice) = false ∧ heldForTp s (tg.canon / 32) (homeT s tg.slice) = false ∧ badSector s (tg.canon / 32) = none ∧ lineBefore s p pa = false
/-- One access in flight for a request, and the request's own record. -/
def InRequest (s : State) (tag : Nat) (x : Txn) (a : Access) : Prop :=
  mget? s.txns tag = some x ∧ s.accs.filter (fun y => y.ph == .remote tag) = [a] ∧ x.ridge = none
/-- The request ends in a precise fault of its lanes, a thread's: one record, its lanes held (R337, R405, R406). -/
def HeldBy (s t : State) (a : Access) (c k : Nat) (code reason : Nat) (x : Txn) (rinc : Nat) : Prop :=
  ∃ (y z : Course) (r : FaultRec), s.course? c k = some y ∧ t.course? c k = some z ∧ (t.core c).recs = (s.core c).recs ++ [r] ∧ r.code = code ∧ r.held = true ∧ r.pc = a.pc ∧
    r.loc = BitVec.ofNat 128 a.ea.toNat ∧ r.aux = BitVec.ofNat 64 (2 ^ 56 * (reason % 256) + 2 ^ 47 * (x.peer % 512) + 2 ^ 43 * (x.bay % 16) + 2 ^ 40 * (x.plane % 8) + 2 ^ 16 * rinc +
      2 ^ 12 * (match a.kind with | .load => 0 | .store => 1 | .atomic => 2 | .red => 3 | .fetch => 4 | .ldp => 5 | .stp => 6 | .wait => 7 | .bread => 8 | .bwrite => 9) + 2 ^ 8 * ((a.size - 1) % 16)) ∧
    SameBytes s t ∧ z.u = y.u ∧ z.h = y.h ∧ (∀ l, l < 8 → z.lane l = if l ∈ a.lanes then { y.lane l with st := .held a.next, pc := a.pc } else y.lane l)

end Sys2Proof.Machine

/-- R203, R204, R285, R286, R403, R404, R409: a peer's request. From another incarnation of its sender it is dropped and counted. The checks come in order, each with its NACK; a request that passes reads, writes, updates or stages bytes at
their home and is answered with them, with the record or with the home's T. One that fails its tag for the fifth time is NACKed (R408); before the package is joined to its fabric nothing is taken (R426, log 118). Accesses are stated for HBM4, a store and an atomic of one run of bytes. The order of the checks is the model's reading (log 57). -/
def Obligations.FabricIngressResults : Prop :=
  (∀ (s : State) (p : FabReq), ¬ OnFabric s → exec (.fabricIngressRequest p) s = .next s) ∧
  (∀ (s : State) (p : FabReq), OnFabric s → fabFormed p.off p.op = true → p.failed = true → p.srcInc = incOf s p.src p.srcBay → Nacked s p 0x07) ∧
  (∀ (s : State) (p : FabReq), OnFabric s → fabFormed p.off p.op = true → p.srcInc ≠ incOf s p.src p.srcBay →
    exec (.fabricIngressRequest p) s = .next (s.setBay p.bay { s.bay p.bay with f104 := (s.bay p.bay).f104 + 1 })) ∧
  (∀ (s : State) (p : FabReq), OnFabric s → fabFormed p.off p.op = true → p.failed = false → p.srcInc = incOf s p.src p.srcBay →
    (∀ k, (s.bay p.bay).cont = some k → Nacked s p 0x3F) ∧
    ((s.bay p.bay).cont = none → (p.tgtInc ≠ (s.bay p.bay).inc → Nacked s p 0x0B) ∧
      (p.tgtInc = (s.bay p.bay).inc → (s.bay p.bay).formed = false → Nacked s p 0x02))) ∧
  (∀ (s : State) (p : FabReq), Arrives s p → (∀ i, i < 64 → ¬ exportCovers (mget (s.bay p.bay).exports i 0) p.off) → Nacked s p 0x02) ∧
  (∀ (s : State) (p : FabReq) (e : BitVec 256), Arrives s p → exportAt s p.bay p.off e →
    (e.getLsbD (match p.op with | .load _ _ => 2 | .wait _ _ => 2 | _ => 3) = false → Nacked s p 0x03) ∧
    (∀ b g sig, p.op = .stage b g sig → e.getLsbD 6 = false → Nacked s p 0x03) ∧ (∀ d sig g, p.op = .mcast d sig g → e.getLsbD 5 = false → Nacked s p 0x03) ∧
    (∀ n sc r d, p.op = .load n sc → e.getLsbD 2 = true →
      let va : Nat := e.toNat / 2 ^ 192 + (p.off - e.toNat / 2 ^ 128 % 2 ^ 64)
      (2 ^ 56 ≤ va → Nacked s p 0x04) ∧ (∀ src, va < 2 ^ 56 → walkBad s p.bay va = some src → Nacked s p 0x07) ∧
      (va < 2 ^ 56 → walkBad s p.bay va = none → leafCheck s (walk s p.bay va).1 (walk s p.bay va).2 va .load false = .bad 0x10 r d → Nacked s p 0x04) ∧
      (va < 2 ^ 56 → walkBad s p.bay va = none → leafCheck s (walk s p.bay va).1 (walk s p.bay va).2 va .load false = .bad 0x11 r d → r ≠ 4 → r ≠ 5 → Nacked s p 0x05) ∧
      (va < 2 ^ 56 → walkBad s p.bay va = none → leafCheck s (walk s p.bay va).1 (walk s p.bay va).2 va .load false = .bad 0x32 r d → Nacked s p 0x06))) ∧
  (∀ (s : State) (p : FabReq) (n sc pa : Nat) (tg : Target), p.op = .load n sc → Passes s p [2] .load pa tg →
    let ls : Lease := mget s.leases (tg.canon / 64) {}
    let e : Nat := homeT s tg.slice + 64 * 2 ^ ls.lvl
    ∃ (t : State) (x : Option Nat), exec (.fabricIngressRequest p) s = .next t ∧ SameMemory s t ∧ t.accs = s.accs ∧
      t.out = s.out ++ [replyTo s p (FabAns.data ((List.range 64).map (fun i => s.readByte (tg.canon / 64 * 64 + i))) x)] ∧
      (6 ≤ sc → x = none ∧ t.leases = s.leases) ∧
      (sc < 6 → (∀ k, k < 2 → stagedReady s (tg.canon / 64 * 2 + k) = false) → x = some e ∧
        mget t.leases (tg.canon / 64) {} = { ls with lvl := min (ls.lvl + 1) 14, lr := max ls.lr e })) ∧
  (∀ (s : State) (p : FabReq) (n cmp pa : Nat) (tg : Target), p.op = .wait n cmp → Passes s p [2] .load pa tg → (s.slice tg.slice).mon.length < 2048 →
    ∃ t : State, exec (.fabricIngressRequest p) s = .next t ∧ SameMemory s t ∧ t.accs = s.accs ∧
      (leNum (s.readBytes tg.canon n) ≠ cmp → t.out = s.out ++ [replyTo s p (FabAns.data (s.readBytes tg.canon n) none)]) ∧
      (leNum (s.readBytes tg.canon n) = cmp → t.out = s.out ++ [replyTo s p FabAns.parked] ∧
        ∃ e ∈ (t.slice tg.slice).mon, e.sector = tg.canon / 32 ∧ { pkg := p.src, tag := p.tag, bay := p.bay, plane := p.plane } ∈ e.peers)) ∧
  (∀ (s : State) (p : FabReq) (b : List (Nat × Byte)) (sig : Bool) (pa : Nat) (tg : Target), p.op = .store b sig → Passes s p [3] .store pa tg → sig = false → (b.map (·.1)).Nodup → (256 + tg.slice) ∉ s.safe →
    let ls : Lease := mget s.leases (tg.canon / 64) {}
    ∃ t : State, exec (.fabricIngressRequest p) s = .next t ∧ (∀ e ∈ b, t.readByte (tg.canon / 32 * 32 + e.1) = e.2) ∧
      (∀ g, (∀ e ∈ b, g ≠ tg.canon / 32 * 32 + e.1) → memGet t.mem g = memGet s.mem g) ∧
      mget t.leases (tg.canon / 64) {} = { ls with lvl := 0 } ∧ t.accs = s.accs ∧
      t.out = s.out ++ [replyTo s p (FabAns.record { p := homeT s tg.slice, l0 := ls.l0, l1 := ls.l1, lr := ls.lr, xc := homeT s tg.slice } [])]) ∧
  (∀ (s : State) (p : FabReq) (off v pa : Nat) (tg : Target), p.op = .atomic [(off, .add, 4, v, 0)] false true → Passes s p [2, 3] .atomic pa tg → (256 + tg.slice) ∉ s.safe → v < 2 ^ 32 →
    let ls : Lease := mget s.leases (tg.canon / 64) {}
    let at' : Nat := tg.canon / 32 * 32 + off
    ∃ t : State, exec (.fabricIngressRequest p) s = .next t ∧ t.readNat at' 4 = (s.readNat at' 4 + v) % 2 ^ 32 ∧
      (∀ g, g < at' ∨ at' + 4 ≤ g → memGet t.mem g = memGet s.mem g) ∧
      t.out = s.out ++ [replyTo s p (FabAns.record { p := homeT s tg.slice, l0 := ls.l0, l1 := ls.l1, lr := ls.lr, xc := homeT s tg.slice } (s.readBytes at' 4))]) ∧
  (∀ (s : State) (p : FabReq) (b : List (Nat × Byte)) (g : Nat) (sig : Bool) (pa : Nat) (tg : Target), p.op = .stage b g sig → Passes s p [3, 6] .store pa tg →
    let die : Nat := if (colsOnDie s p.bay (dieOf tg.slice)).isEmpty then 1 - dieOf tg.slice else dieOf tg.slice
    let used : Nat := ((s.stages.map (fun (e : Nat × Stage) => (e.2.writes.filter (fun (w : Staged) => w.bay == p.bay && w.die == die)).length))).sum
    (mget (s.bay p.bay).eave die 0 * 2 ^ 20 < 64 * (used + 1) → Nacked s p 0x08) ∧
    (64 * (used + 1) ≤ mget (s.bay p.bay).eave die 0 * 2 ^ 20 → (mget s.stages (256 * p.src + g) {}).want = none →
      ∃ (t : State) (st : Stage), exec (.fabricIngressRequest p) s = .next t ∧ t.mem = s.mem ∧ t.out = s.out ++ [replyTo s p (FabAns.staged (homeT s tg.slice))] ∧
        mget? t.stages (256 * p.src + g) = some st ∧ st.staged = (mget s.stages (256 * p.src + g) {}).staged + 1 ∧
        st.writes = (mget s.stages (256 * p.src + g) {}).writes ++ [{ bay := p.bay, die := die, sector := tg.canon / 32, bytes := b, sig := sig }] ∧
        ∀ k, k ≠ 256 * p.src + g → mget? t.stages k = mget? s.stages k))

/-- R276, R287, R406 to R410: replies and failures at the initiator. A reply of another incarnation is dropped and counted, be its request known or not; one without its request is dropped; with all planes dead none comes. Data return to the access, a record to the write; a WAIT that found its value parks in the peer's monitor table until it is woken (R203, R204). A NACK, a timeout, and a
reply that fails five times end a load precisely and contain the bay of a store (a tile fill has its own replays, R397). An announcement takes effect in one step. A dead plane's lines move once none of its packets is outstanding. -/
def Obligations.RemoteAccessResults : Prop :=
  (∀ (s : State) (rep : FabReply), allDead s = true → exec (.remoteReply rep) s = .next s) ∧
  (∀ (s : State) (rep : FabReply), allDead s = false → mget? s.txns rep.tag = none →
    (rep.srcInc = incOf s rep.src rep.srcBay → rep.ans ≠ .wake → exec (.remoteReply rep) s = .next s) ∧
    (rep.srcInc ≠ incOf s rep.src rep.srcBay → exec (.remoteReply rep) s = .next (s.setBay rep.dest { s.bay rep.dest with f104 := (s.bay rep.dest).f104 + 1 }))) ∧
  (∀ (s : State) (rep : FabReply) (x : Txn), allDead s = false → mget? s.txns rep.tag = some x → rep.src = x.peer → rep.srcBay = x.bay → rep.plane = x.plane → rep.srcInc ≠ incOf s rep.src rep.srcBay →
    exec (.remoteReply rep) s = .next (s.setBay x.bayOf { s.bay x.bayOf with f104 := (s.bay x.bayOf).f104 + 1 })) ∧
  (∀ (s : State) (rep : FabReply) (x : Txn) (a : Access), allDead s = false → InRequest s rep.tag x a → rep.src = x.peer → rep.srcBay = x.bay → rep.plane = x.plane → rep.srcInc = incOf s rep.src rep.srcBay →
    (∀ b exp, rep.ans = .data b exp → b.length = 64 → a.kind = .load →
      ∃ t : State, exec (.remoteReply rep) s = .next t ∧ SameBytes s t ∧ mget? t.txns rep.tag = none ∧
        t.accs = s.accs.map (fun y => if y.id = a.id then { y with ph := .replied b (exp.map (· - 24)) a.ea.toNat, stamp := stampNow s a.ea.toNat } else y) ∧
        (∀ e, exp = some e → a.ev ≠ 3 → proxyPending (dropTxn s rep.tag) (a.ea.toNat / 64) = false → ∃ px, mget? t.proxies (a.ea.toNat / 64) = some px ∧ px.data = b ∧ px.exp = e ∧ px.stamp = stampNow s a.ea.toNat ∧ px.used = s.stepNo + 1) ∧
        (exp = none → ∀ g, (mget? t.proxies g).map (fun p => (p.data, p.exp)) = (mget? s.proxies g).map (fun p => (p.data, p.exp)))) ∧
    (∀ r old, rep.ans = .record r old → (∀ o b, a.ag ≠ .orphan o b) →
      ∃ t : State, exec (.remoteReply rep) s = .next t ∧ SameBytes s t ∧ mget? t.txns rep.tag = none ∧
        t.accs = s.accs.map (fun y => if y.id = a.id then { y with ph := .recorded r (old.take a.size) a.ea.toNat } else y)) ∧
    (∀ code rinc c k l, rep.ans = .nack code rinc → a.ag = .thread c k l → k < 510 → (s.core c).recs.length < 16 → (s.course? c k).isSome → (∀ l ∈ a.lanes, l < 8) →
      (a.kind = .load ∨ a.kind = .ldp ∨ a.kind = .wait ∨ a.kind = .atomic → ∃ t : State, exec (.remoteReply rep) s = .next t ∧
        HeldBy s t a c k (if code = 0x0B then 0x33 else 0x30) code x (if code = 0x0B then rinc.toNat else 0)) ∧
      (a.kind = .store ∨ a.kind = .stp ∨ a.kind = .red → (s.bay (s.bayOf c)).formed = true → (s.bay (s.bayOf c)).cont = none →
        ∃ (t : State) (r : FaultRec), exec (.remoteReply rep) s = .next t ∧ Triggered s t (s.bayOf c) [r.bits] ∧ r.code = (if code = 0x0B then 0x33 else 0x30) ∧ r.async = true ∧ r.cont = true))) ∧
  (∀ (s : State) (rep : FabReply) c k l y, allDead s = false → mget? s.txns rep.tag = none → rep.ans = .wake → mget? s.peerMon rep.tag = some (c, k, l) → rep.srcInc = incOf s rep.src rep.srcBay →
    s.course? c k = some y → l < 8 → (y.lane l).st = .monitor →
    ∃ (t : State) (z : Course), exec (.remoteReply rep) s = .next t ∧ OnlyCourse { s with peerMon := mdel s.peerMon rep.tag } t c k ∧ t.course? c k = some z ∧
      z.lane l = { y.lane l with st := .woken } ∧ ∀ m, m < 8 → m ≠ l → z.lane m = y.lane m) ∧
  (∀ (s : State) (rep : FabReply) (x : Txn) (a : Access) c k l y, allDead s = false → InRequest s rep.tag x a → rep.src = x.peer → rep.srcBay = x.bay → rep.plane = x.plane → rep.srcInc = incOf s rep.src rep.srcBay →
    rep.ans = .parked → a.ag = .thread c k l → a.kind = .wait → s.course? c k = some y → l < 8 → (s.accs.filter (fun z => z.id == a.id)).length = 1 →
    ∃ (t : State) (z : Course), exec (.remoteReply rep) s = .next t ∧ SameBytes s t ∧ mget? t.txns rep.tag = none ∧ mget? t.peerMon rep.tag = some (c, k, l) ∧
      t.accs = s.accs.filter (fun z => decide (z.id ≠ a.id)) ∧ t.course? c k = some z ∧ z.lane l = { y.lane l with st := .monitor } ∧ ∀ m, m < 8 → m ≠ l → z.lane m = y.lane m) ∧
  (∀ (s : State) tag x, mget? s.txns tag = some x → s.t < x.t0 + s.fto → exec (.remoteTimeout tag) s = .next s) ∧
  (∀ (s : State) tag (x : Txn) (a : Access) c k l, InRequest s tag x a → a.ag = .thread c k l → a.kind = .load ∨ a.kind = .ldp ∨ a.kind = .wait → k < 510 → (s.core c).recs.length < 16 →
    (s.course? c k).isSome → (∀ l ∈ a.lanes, l < 8) → x.t0 + s.fto ≤ s.t →
    ∃ t : State, exec (.remoteTimeout tag) s = .next t ∧ HeldBy s t a c k (if (mget s.planes x.plane {}).dead then 0x32 else 0x31) 0 x 0) ∧
  (∀ (s : State) tag x, mget? s.txns tag = some x → (∀ a ∈ s.accs, a.ph = .remote tag → fillRead s a = false) → x.replays < 4 → exec (.packetReplay tag) s = .next { s with txns := mset s.txns tag { x with replays := x.replays + 1 } }) ∧
  (∀ (s : State) tag (x : Txn) (a : Access) c k l, InRequest s tag x a → a.ag = .thread c k l → a.kind = .load → k < 510 → (s.core c).recs.length < 16 → (s.course? c k).isSome → (∀ l ∈ a.lanes, l < 8) →
    4 ≤ x.replays → ∃ t : State, exec (.packetReplay tag) s = .next t ∧ HeldBy s t a c k 0x30 0x07 x 0) ∧
  (∀ (s : State) pkg bay inc, ¬ OnFabric s → exec (.incarnationAnnouncement pkg bay inc) s = .next s) ∧
  (∀ (s : State) pkg bay inc, OnFabric s → ∃ t : State, exec (.incarnationAnnouncement pkg bay inc) s = .next t ∧ { t with peerInc := s.peerInc, stages := s.stages } = s ∧
    mget t.peerInc (16 * pkg + bay) 0 = inc ∧ (∀ k, k ≠ 16 * pkg + bay → mget? t.peerInc k = mget? s.peerInc k) ∧
    ∀ e ∈ s.stages, (e ∈ t.stages ↔ ¬ (e.1 / 256 = pkg ∧ e.2.tp = none ∧ bay ∈ e.2.srcBays))) ∧
  (∀ (s : State) k, k < 8 → ∃ t : State, exec (.planeDead k) s = .next t ∧ { t with planes := s.planes } = s ∧ mget t.planes k {} = { dead := true, via := none } ∧
    ∀ j, j ≠ k → (mget t.planes j {}).dead = (mget s.planes j {}).dead ∧ (mget t.planes j {}).via = if (mget s.planes j {}).via = some k then none else (mget s.planes j {}).via) ∧
  (∀ (s : State) k i, k < 8 → (mget s.planes k {}).dead = true → (mget s.planes k {}).via = none → i < 8 → (mget s.planes ((k + 1 + i) % 8) {}).dead = false →
    (∀ m, m < i → (mget s.planes ((k + 1 + m) % 8) {}).dead = true) →
    (planeBusy s k = true → exec (.planeReroute k) s = .next s) ∧
    (planeBusy s k = false → ∃ t : State, exec (.planeReroute k) s = .next t ∧ SameBytes s t ∧ (mget t.planes k {}).via = some ((k + 1 + i) % 8) ∧ (mget t.planes k {}).dead = true ∧
      (∃ sent, t.out = s.out ++ sent ∧ sent.length + t.heldPkts.length = s.heldPkts.length) ∧ (∀ p ∈ t.heldPkts, planeOf (pktLine p) ≠ k) ∧
      (∀ h a b off tag inc op, OutPkt.request h a b off tag inc op ∈ s.heldPkts → planeOf off = k → OutPkt.request { h with plane := some ((k + 1 + i) % 8) } a b off tag inc op ∈ t.out) ∧
      ∀ tag x, mget? s.txns tag = some x → mget? t.txns tag = some (if planeOf x.off = k then { x with plane := (k + 1 + i) % 8 } else x)))

namespace Sys2Proof.Machine

/-- A course's uniform word that gives the handle of a new future entry e to hD: its lanes go to the next issue, and the entry stands for the call (R249, R250). -/
def HandleGiven (s s' : State) (iss : Issue) (x : Course) (t : State) (c k : Nat) (d : HReg) (e : Nat) (kind : FutKind) : Prop :=
  ∃ y : Course, t.course? c k = some y ∧
    CourseAfter s iss true x.u (x.wh d.toNat (BitVec.ofNat 64 (e % 256 + 2 ^ 15 + c % 256 * 2 ^ 16 + (mget (s'.core c).futGen e 0).toNat * 2 ^ 24))) y (fun _ ln => { ln with pc := iss.next }) ∧
    ∃ f : Fut, mget? (t.core c).futs e = some f ∧ f.gen = mget (s'.core c).futGen e 0 ∧ f.kind = kind ∧ f.blk = x.blk
/-- The future of a call resolves with v (R250). -/
def FutureTakes (s t : State) (c e : Nat) (v : W64) : Prop :=
  ∀ f : Fut, mget? (s.core c).futs e = some f → mget? (t.core c).futs e = some { f with st := .resolved, val := v }
/-- The addresses of a multicast's member writes: 256 bytes at each member, a granule at a time. -/
def memberAt (dest m k : Nat) : W64 := BitVec.ofNat 64 (2 ^ 56 + m * 2 ^ 47 + dest + 64 * k)
/-- A message of bay b, with that bay's incarnation (R287). -/
def hopFor (s : State) (b : Nat) : Hop := { bay := b, inc := (s.bay b).inc, plane := none }
/-- The bay whose messages a group's are: of the RIDGE it serves, or else the first that wrote to it (R287). -/
def ridgeBay (r : Ridge) : Nat := match r.cur with | some op => op.bay | none => r.bays.headD 0
/-- A message of another incarnation than the one held for its sender is dropped and counted (R409); before the package is joined to its fabric none is taken (R426, log 118). -/
def DropsStale (i : Sender → Instr) : Prop :=
  ∀ (s : State) (w : Sender), (¬ OnFabric s → exec (i w) s = .next s) ∧ (OnFabric s → w.inc ≠ incOf s w.pkg w.bay → exec (i w) s = .next (s.setBay w.dest { s.bay w.dest with f104 := (s.bay w.dest).f104 + 1 }))
/-- A message of the incarnation held for its sender comes to a package on the fabric. -/
def Fresh (s : State) (w : Sender) : Prop := OnFabric s ∧ w.inc = incOf s w.pkg w.bay
/-- The incarnation that a member's answer carries. -/
def memberInc : McstRes → BitVec 16
  | .done i _ => i
  | .nack i _ => i
/-- The RIDGE op of group g takes the future of its handle. -/
def opOf (c k : Nat) (x : Course) (s : State) (iss : Issue) (e : Nat) : RidgeOp :=
  { core := c, slot := k, blk := x.blk, fut := e, gen := mget (s.core c).futGen e 0, pc := iss.pc, bay := s.bayOf c, iss := iss.id }

end Sys2Proof.Machine

/-- R290, R291, R411, R446: MCST reads its line of eight sectors, its lanes pending; issued again with the line read it takes a future entry and sends one packet; its member writes, four granules a member, stay outstanding until the acknowledgement,
and are counted where they are ridge-tagged. With every member accounted for, the value counts members performed and failed; a status record is stored first. An answer of another incarnation than the one held for the member is dropped and counted (R409). A member without an answer within FTO contains the bay, or marks its ridge group. That the
status record is two sectors, and that the line is read by an issue of its own, are the model's readings (log 35, log 23). -/
def Obligations.MulticastResults : Prop :=
  (∀ q (d : HReg) (a b : Reg) (s : State) iss c k x g, CourseIssues s iss c k x → x.u.rq q = true →
    let dst := (x.u.rs a.toNat).toNat
    let src := x.u.rs (a.toNat + 1)
    let ctl := (x.u.rs b.toNat).toNat
    let r := mcstLoads s iss c src
    a.toNat % 2 = 0 → b.toNat % 2 = 0 → dst < 2 ^ 47 → dst % 256 = 0 → ctl < 2 ^ 24 → ctl / 2 ^ 14 % 4 = 0 → src.toNat % 256 = 0 → classAddr src ≠ .peer → (x.u.rs (b.toNat + 1)).toNat % 64 = 0 →
    mcstRun? s iss c k = none → mget? s.mcg (ctl % 4096) = some g → g.bay = s.bayOf c → relPassed s (uniAgent iss) 6 = true → (ctl / 2 ^ 13 % 2 = 1 → ridgeMayLeave s (ctl / 2 ^ 16 % 256) = true) →
    r.held = false → r.bad = [] →
    ∃ (t : State) (y : Course) (new : List Access), exec (.mcst q d a b) s = .next t ∧ SameMemory s t ∧ t.mcsts = s.mcsts ∧ (t.core c).futs = (s.core c).futs ∧ t.accs = s.accs ++ new ∧ new.length = 8 ∧
      (∀ (i : Nat) (A : Access), new[i]? = some A → A.id = s.nextAcc + i ∧ A.iss = iss.id ∧ A.kind = .load ∧ A.size = 32 ∧ A.form = formAddr src (BitVec.ofNat 64 (32 * i)) ∧ A.dest = .mcst iss.id i ∧ A.ag = .thread c k iss.low) ∧
      t.course? c k = some y ∧ y.u = x.u ∧ y.h = x.h ∧
      (∀ l, l < 8 → y.lane l = if l ∈ iss.mask then { x.lane l with st := .pend { kind := .mcst, accs := (List.range 8).map (s.nextAcc + ·), frame := 0, d := 0, next := iss.next } } else x.lane l) ∧
      ∃ m ∈ y.mcst, m.iss = iss.id ∧ m.mask = iss.mask ∧ m.pc = iss.pc ∧ m.dest = dst ∧ m.ctl = ctl ∧ m.status = (x.u.rs (b.toNat + 1)).toNat ∧ m.ids = (List.range 8).map (s.nextAcc + ·) ∧ m.got = [] ∧ m.hd = d.toNat) ∧
  (∀ q (d : HReg) (a b : Reg) (s : State) iss c k x (m : McstRun) g e rest, CourseIssues s iss c k x → x.u.rq q = true → mcstRun? s iss c k = some m → mget? s.mcg (m.ctl % 4096) = some g →
    (m.ctl / 2 ^ 13 % 2 = 1 → ridgeMayLeave s (m.ctl / 2 ^ 16 % 256) = true) → (s.core c).futFree = e :: rest → m.dest < 2 ^ 47 →
    let ms := (List.range 512).filter (fun n => g.members.getLsbD n)
    let ridge := if m.ctl / 2 ^ 13 % 2 = 1 then some (m.ctl / 2 ^ 16 % 256) else none
    let iss' : Issue := { iss with id := m.iss, mask := m.mask }
    let p := mget s.planes (m.dest / 256 % 8) {}
    let pkt := fun (j : Nat) => OutPkt.mcast { bay := s.bayOf c, inc := (s.bay (s.bayOf c)).inc, plane := some j } (m.ctl % 4096) s.nextTag m.dest ((List.range 8).flatMap (fun i => mget m.got i [])) (decide (m.ctl / 2 ^ 12 % 2 = 1)) ridge
      (ms.map (fun n => (n, incOf s n (peerBay m.dest))))
    ∃ (t : State) (M : Mcst) (new : List Access), exec (.mcst q d a b) s = .next t ∧ HandleGiven s s iss' { x with mcst := x.mcst.filter (fun y => y.iss != m.iss) } t c k d e .mcst ∧ t.mem = s.mem ∧ mget? t.mcsts s.nextTag = some M ∧
      M.members = ms ∧ M.dest = m.dest ∧ M.status = BitVec.ofNat 64 m.status ∧ M.group = m.ctl % 4096 ∧ M.sig = decide (m.ctl / 2 ^ 12 % 2 = 1) ∧ M.ridge = ridge ∧ M.core = c ∧ M.fut = e ∧ M.acked = false ∧ M.pc = iss.pc ∧
      (∀ j, (if p.dead then p.via else some (m.dest / 256 % 8)) = some j → M.plane = j ∧ t.out = s.out ++ [pkt j] ∧ t.heldPkts = s.heldPkts) ∧
      (p.dead = true → p.via = none → t.out = s.out ∧ t.heldPkts = s.heldPkts ++ [pkt (m.dest / 256 % 8)]) ∧
      t.accs = s.accs ++ new ∧ new.length = 4 * ms.length ∧
      (∀ n ∈ ms, ∀ i, i < 4 → ∃ A ∈ new, A.ea = memberAt m.dest n i ∧ A.kind = .store ∧ A.size = 64 ∧ A.ph = .remote s.nextTag ∧ A.ag = .thread c k iss'.low) ∧
      (ridge = none → t.ridges = s.ridges) ∧
      (∀ G, ridge = some G → ms ≠ [] → (mget t.ridges G {}).st = .opened ∧ ∀ n, mget (mget t.ridges G {}).counts n 0 = mget (mget s.ridges G {}).counts n 0 + if n ∈ ms then 8 else 0)) ∧
  (∀ (s : State) tag (m : Mcst) (res : List (Nat × McstRes)) f, mget? s.mcsts tag = some m → m.acked = false → allDead s = false → (∀ e ∈ res, memberInc e.2 = incOf s e.1 (peerBay m.dest)) → (∀ n ∈ m.members, n ∈ m.failed ∨ ∃ r, (n, r) ∈ res) →
    (∀ e ∈ res, e.1 ∈ m.members ∧ e.1 ∉ m.failed) → (res.map (·.1)).Nodup → mget? (s.core m.core).futs m.fut = some f → f.gen = m.gen →
    (∀ A ∈ s.accs, A.ph = .remote tag → A.dest = .none ∧ ∀ B ∈ s.accs, B.id = A.id → B.ph = .remote tag) →
    let nacked := res.filterMap (fun e => match e.2 with | .nack _ code => some (e.1, code) | .done _ _ => none)
    let bad := m.failed.length + nacked.length
    let v : W64 := BitVec.ofNat 64 ((m.members.length - bad) % 1024 + bad % 1024 * 2 ^ 16)
    let bits := (m.failed ++ nacked.map (·.1)).foldl (fun n k => n + 2 ^ k) 0
    let st := fun (i : Nat) => ({ id := s.nextAcc + i, iss := m.iss, ag := .thread m.core m.slot m.lane, kind := .store, form := m.status + BitVec.ofNat 64 (32 * i), ea := m.status + BitVec.ofNat 64 (32 * i), size := 32, data := natBytes 32 (bits / 2 ^ (256 * i)), prv := m.prv, pc := m.pc, next := m.pc, lanes := m.lanes } : Access)
    (m.status = 0 → ∃ t : State, exec (.mcstAck tag res) s = .next t ∧ SameBytes s t ∧ mget? t.mcsts tag = none ∧ (∀ A ∈ t.accs, A.ph ≠ .remote tag) ∧
      FutureTakes s t m.core m.fut v ∧ ∀ n, m.ridge = none → mget? t.ridges n = mget? s.ridges n) ∧
    (∀ ea0 d0 ea1 d1, m.status ≠ 0 → probeOf s m.core (st 0) = .go ea0 d0 none → probeOf s m.core (st 1) = .go ea1 d1 none →
      ∃ (t : State) (n0 n1 : Bool), exec (.mcstAck tag res) s = .next t ∧ SameBytes s t ∧ mget? t.mcsts tag = some { m with acked := true, val := v, stat := [s.nextAcc, s.nextAcc + 1] } ∧
        t.accs = s.accs.filter (fun A => decide (A.ph ≠ .remote tag)) ++
          [{ st 0 with ea := ea0, nosc := n0, ph := .flight d0, t0 := s.coreT m.core }, { st 1 with ea := ea1, nosc := n1, ph := .flight d1, t0 := s.coreT m.core }] ∧
        mget? (t.core m.core).futs m.fut = some f) ∧
    (∀ g, m.ridge = some g → m.status = 0 → ∃ t : State, exec (.mcstAck tag res) s = .next t ∧ ∀ e ∈ nacked, (mget? (mget t.ridges g {}).marks e.1).isSome)) ∧
  (∀ (s : State) tag (m : Mcst) (res : List (Nat × McstRes)) n, mget? s.mcsts tag = some m → n ∈ m.members → n ∉ m.failed →
    (allDead s = true → exec (.mcstAck tag res) s = .next s) ∧
    (allDead s = false → (∀ e ∈ res, memberInc e.2 = incOf s e.1 (peerBay m.dest)) → (∀ r, (n, r) ∉ res) → exec (.mcstAck tag res) s = .next s) ∧
    (allDead s = false → res ≠ [] → (∀ e ∈ res, memberInc e.2 ≠ incOf s e.1 (peerBay m.dest)) → let b := s.bayOf m.core
      exec (.mcstAck tag res) s = .next (s.setBay b { s.bay b with f104 := (s.bay b).f104 + BitVec.ofNat 32 res.length }))) ∧
  (∀ (s : State) tag (m : Mcst) f, mget? s.mcsts tag = some m → m.acked = true → accsDone s m.stat = true → mget? (s.core m.core).futs m.fut = some f → f.gen = m.gen →
    ∃ t : State, exec (.mcstResolve tag) s = .next t ∧ SameBytes s t ∧ mget? t.mcsts tag = none ∧ t.accs = s.accs ∧ FutureTakes s t m.core m.fut m.val) ∧
  (∀ (s : State) tag (m : Mcst), mget? s.mcsts tag = some m → m.acked = false ∨ accsDone s m.stat = false → exec (.mcstResolve tag) s = .next s) ∧
  (∀ (s : State) tag (m : Mcst) peer, mget? s.mcsts tag = some m → m.acked = false → peer ∈ m.members → peer ∉ m.failed → m.t0 + s.fto ≤ s.t →
    (m.ridge = none → (s.bay (s.bayOf m.core)).formed = true → (s.bay (s.bayOf m.core)).cont = none → peer < 512 →
      ∃ (t : State) (r : FaultRec), exec (.mcstMemberTimeout tag peer) s = .next t ∧ Triggered s t (s.bayOf m.core) [r.bits] ∧ r.code = (if (mget s.planes m.plane {}).dead then 0x32 else 0x31) ∧ r.aux.toNat / 2 ^ 40 % 8 = m.plane % 8 ∧ r.async = true ∧ r.cont = true ∧
        r.loc = BitVec.ofNat 128 (memberAt m.dest peer 0).toNat ∧ r.pc = m.pc) ∧
    (∀ g, m.ridge = some g → (mget? (mget s.ridges g {}).marks peer) = none → ∃ t : State, exec (.mcstMemberTimeout tag peer) s = .next t ∧ SameBytes s t ∧
      mget? (mget t.ridges g {}).marks peer = some 0x0A ∧ mget? t.mcsts tag = some { m with failed := m.failed ++ [peer] })) ∧
  (∀ (s : State) tag (m : Mcst) peer, mget? s.mcsts tag = some m → s.t < m.t0 + s.fto → exec (.mcstMemberTimeout tag peer) s = .next s)

/-- R292, R295 to R297, R412 to R414, R419: ridge commits at the initiator. RIDGE takes a future entry; an idle group commits at once, an open one sends its counts once earlier writes have left, a marked one sends ABORT; a second RIDGE
waits. With every answer in, TP is the later of T + PL and every R(d) + 24, or the lowest destination that refused or is marked is named, and the group aborts. The last acknowledgement resolves the future, with a record where it aborted, for which the record buffer has room (R339), and leaves the group idle. That an idle group commits at once, or with a mark aborts at once, and that the lowest of the marked and refusing destinations is named are the model's readings (log 55). -/
def Obligations.RidgeInitiatorResults : Prop :=
  (∀ q (d : HReg) (a : Reg) (s : State) iss c k x e rest, CourseIssues s iss c k x → x.u.rq q = true → (x.u.rs a.toNat).toNat < 256 → (s.core c).futFree = e :: rest →
    (∀ j y, s.course? c j = some y → ∀ ln ∈ y.lanes, ln.waitsOn e (mget (s.core c).futGen e 0) = false) →
    let g := (x.u.rs a.toNat).toNat
    let r := mget s.ridges g {}
    let op := opOf c k x s iss e
    let free := r.cur = none ∧ r.waiting = []
    ∃ t : State, exec (.ridge q d a) s = .next t ∧ HandleGiven s s iss x t c k d e .ridge ∧ SameBytes s t ∧ t.accs = s.accs ∧
      (free → r.st = .idle → r.marks = [] → t.out = s.out ∧ mget? t.ridges g = some {} ∧ (t.core c).recs = (s.core c).recs ∧ ∃ f, mget? (t.core c).futs e = some f ∧ f.st = .resolved ∧ f.val.toNat = s.coreT c % 2 ^ 63) ∧
      (∀ n code, free → r.st = .idle → r.doomed = [] → (s.core c).recs.length < 16 → mget? r.marks n = some code → (∀ y ∈ r.marks, n < y.1 ∨ y = (n, code)) → t.out = s.out ∧ mget? t.ridges g = some {} ∧
        ∃ f z, mget? (t.core c).futs e = some f ∧ f.st = .resolved ∧ f.val = BitVec.ofNat 64 (2 ^ 63 + code % 256 * 2 ^ 16 + n % 512) ∧ (t.core c).recs = (s.core c).recs ++ [z] ∧ z.code = 0x34 ∧ z.pc = iss.pc) ∧
      (free → r.st = .opened → r.marks = [] → ridgeUnsent s g iss.id = false → t.out = s.out ++ r.counts.map (fun n => OutPkt.count (hopFor s op.bay) n.1 g n.2) ∧
        mget? t.ridges g = some { r with cur := some op, st := .voting, answers := [], sentAt := s.t }) ∧
      (free → r.st = .opened → r.marks = [] → ridgeUnsent s g iss.id = true → t.out = s.out ∧ mget? t.ridges g = some { r with cur := some op }) ∧
      (∀ n code, free → r.st = .opened → mget? r.marks n = some code → (∀ y ∈ r.marks, n < y.1 ∨ y = (n, code)) → t.out = s.out ++ (mkeys r.counts).map (fun m => OutPkt.abort (hopFor s op.bay) m g) ∧
        mget? t.ridges g = some { r with cur := some op, st := .publishing, aborted := some (code, n), acked := [], sentAt := s.t }) ∧
      (¬ free ∨ r.st = .voting ∨ r.st = .publishing → t.out = s.out ∧ mget? t.ridges g = some { r with waiting := r.waiting ++ [op] })) ∧
  (∀ q (d a : Reg), CourseGives (.rstat q d a) q (fun _ _ _ x => (x.u.rs a.toNat).toNat < 256) (fun s _ _ x =>
    let r := mget s.ridges (x.u.rs a.toNat).toNat {}
    x.u.ws d.toNat (BitVec.ofNat 64 ((r.counts.map (·.2)).sum * 2 ^ 32 + r.counts.length * 2 ^ 16 +
      (match r.st with | .idle => 0 | .opened => 1 | .voting => 2 | .publishing => 3))))) ∧
  (∀ (s : State) g op, (mget s.ridges g {}).cur = some op → (mget s.ridges g {}).st = .opened → (mget s.ridges g {}).marks = [] →
    (ridgeUnsent s g op.iss = false → exec (.ridgeVoteStart g) s = .next { s with
      out := s.out ++ (mget s.ridges g {}).counts.map (fun n => OutPkt.count (hopFor s op.bay) n.1 g n.2), ridges := mset s.ridges g { mget s.ridges g {} with st := .voting, answers := [], sentAt := s.t } }) ∧
    (ridgeUnsent s g op.iss = true → exec (.ridgeVoteStart g) s = .next s)) ∧
  (∀ (s : State) g (w : Sender) peer (ans : RidgeAns), let r := mget s.ridges g {}
    let h := hopFor s (ridgeBay r)
    let bad := fun (n code : Nat) => (n, code) ∈ r.marks ∨ (n, RidgeAns.refuse code) ∈ mset r.answers peer ans
    Fresh s w → w.pkg = peer → r.st = .voting → (mget? r.counts peer).isSome → mget? r.answers peer = none →
    let got := mset r.answers peer ans
    let all := ∀ n ∈ mkeys r.counts, (mget? got n).isSome
    (¬ all → exec (.ridgeAnswer g w ans) s = .next { s with ridges := mset s.ridges g { r with answers := got } }) ∧
    (∀ tp, all → r.marks = [] → (∀ y ∈ got, ∃ n, y.2 = .ready n) → s.t + s.pl ≤ tp → (∀ y ∈ got, ∀ n, y.2 = .ready n → n + 24 ≤ tp) → (tp = s.t + s.pl ∨ ∃ y ∈ got, ∃ n, y.2 = .ready n ∧ tp = n + 24) →
      exec (.ridgeAnswer g w ans) s = .next { s with
        out := s.out ++ (mkeys r.counts).map (fun n => OutPkt.publish h n g tp), ridges := mset s.ridges g { r with answers := got, st := .publishing, tp := some tp, acked := [], sentAt := s.t } }) ∧
    (∀ n code, all → bad n code → (∀ n' code', bad n' code' → n < n' ∨ (n' = n ∧ code' = code)) →
      exec (.ridgeAnswer g w ans) s = .next { s with
        out := s.out ++ (mkeys r.counts).map (fun m => OutPkt.abort h m g), ridges := mset s.ridges g { r with answers := got, st := .publishing, aborted := some (code, n), acked := [], sentAt := s.t } }) ∧
    (r.sentAt + s.fto ≤ s.t → exec (.ridgeAnswerTimeout g peer) s = exec (.ridgeAnswer g w (.refuse 0x0A)) s) ∧
    (s.t < r.sentAt + s.fto → exec (.ridgeAnswerTimeout g peer) s = .next s)) ∧
  (∀ (s : State) g, let r := mget s.ridges g {}
    r.st = .publishing → r.aborted.isSome →
    (∀ w, (∀ n ∈ mkeys r.counts, n ∈ r.acked) → Fresh s w → (mget? r.counts w.pkg).isSome → w.pkg ∈ r.acked → exec (.ridgeAbortResend g) s = exec (.ridgeAck g w) s) ∧
    ((∃ n ∈ mkeys r.counts, n ∉ r.acked) → s.t < r.sentAt + s.fto → exec (.ridgeAbortResend g) s = .next s) ∧
    ((∃ n ∈ mkeys r.counts, n ∉ r.acked) → r.sentAt + s.fto ≤ s.t → exec (.ridgeAbortResend g) s = .next { s with
      out := s.out ++ ((mkeys r.counts).filter (fun n => decide (n ∉ r.acked))).map (fun n => OutPkt.abort (hopFor s (ridgeBay r)) n g), ridges := mset s.ridges g { r with sentAt := s.t } })) ∧
  (∀ g, DropsStale (.ridgeAck g ·)) ∧ (∀ g ans, DropsStale (.ridgeAnswer g · ans)) ∧
  (∀ (s : State) g (w : Sender) peer op f, let r := mget s.ridges g {}
    Fresh s w → w.pkg = peer → r.st = .publishing → (mget? r.counts peer).isSome → peer ∉ r.acked → r.cur = some op → mget? (s.core op.core).futs op.fut = some f → f.gen = op.gen →
    ((∃ n ∈ mkeys r.counts, n ≠ peer ∧ n ∉ r.acked) → exec (.ridgeAck g w) s = .next { s with ridges := mset s.ridges g { r with acked := r.acked ++ [peer] } }) ∧
    ((∀ n ∈ mkeys r.counts, n = peer ∨ n ∈ r.acked) →
      (∀ tp, r.aborted = none → r.tp = some tp → ∃ t : State, exec (.ridgeAck g w) s = .next t ∧ SameBytes s t ∧ t.accs = s.accs ∧ mget? t.ridges g = some { waiting := r.waiting } ∧
        FutureTakes s t op.core op.fut (BitVec.ofNat 64 (tp % 2 ^ 63)) ∧ (t.core op.core).recs = (s.core op.core).recs) ∧
      (∀ code n, r.aborted = some (code, n) → 16 ≤ (s.core op.core).recs.length → exec (.ridgeAck g w) s = .next { s with ridges := mset s.ridges g { r with acked := r.acked ++ [peer] } }) ∧
      (∀ code n, r.aborted = some (code, n) → r.doomed = [] → (s.core op.core).recs.length < 16 → ∃ (t : State) (y : FaultRec), exec (.ridgeAck g w) s = .next t ∧ SameBytes s t ∧
        mget? t.ridges g = some { waiting := r.waiting } ∧ FutureTakes s t op.core op.fut (BitVec.ofNat 64 (2 ^ 63 + code % 256 * 2 ^ 16 + n % 512)) ∧
        (t.core op.core).recs = (s.core op.core).recs ++ [y] ∧ y.code = 0x34 ∧ y.pc = op.pc ∧ y.lmask = 0 ∧ y.held = false ∧ y.async = false ∧ y.cont = false ∧
        y.aux.toNat / 2 ^ 47 = code % 256 * 2 ^ 9 + n % 512 ∧ y.aux.toNat / 2 ^ 32 % 256 = g % 256 ∧ y.ticket.toNat = ticketNat (s.bay op.bay).inc op.core op.slot))) ∧
  (∀ (s : State) g (w : Sender) op f code n, let r := mget s.ridges g {}
    Fresh s w → r.st = .publishing → (mget? r.counts w.pkg).isSome → (∀ m ∈ mkeys r.counts, m = w.pkg ∨ m ∈ r.acked) → r.cur = none → r.doomed = [op] → r.aborted = some (code, n) →
    mget? (s.core op.core).futs op.fut = some f → f.gen = op.gen → (s.core op.core).recs.length < 16 → ∃ (t : State) (y : FaultRec), exec (.ridgeAck g w) s = .next t ∧ SameBytes s t ∧
      mget? t.ridges g = some { waiting := r.waiting } ∧ FutureTakes s t op.core op.fut (BitVec.ofNat 64 (2 ^ 63 + code % 256 * 2 ^ 16 + n % 512)) ∧ (t.core op.core).recs = (s.core op.core).recs ++ [y] ∧ y.code = 0x34 ∧ y.pc = op.pc) ∧
  (∀ (s : State) g op tp, let r := mget s.ridges g {}
    r.st = .publishing → r.tp = some tp → r.cur = some op → (s.t < tp + s.fto → exec (.ridgePublishTimeout g) s = .next s) ∧
    (tp + s.fto ≤ s.t → (s.bay op.bay).formed = true → (s.bay op.bay).cont = none → ∃ (t : State) (y : FaultRec), exec (.ridgePublishTimeout g) s = .next t ∧
      Triggered s t op.bay [y.bits] ∧ y.aux.toNat / 2 ^ 32 % 2 ^ 8 = 0 ∧ y.code = 0x31 ∧ y.async = true ∧ y.cont = true ∧ y.pc = op.pc))

/-- R281, R295, R403, R414: a ridge group at a destination. It answers READY, with the latest lease over its staged sectors (of a home in the safe mode its T + 1,048,600, R378), once it holds all the writes counted; it refuses when they are late. PUBLISH is kept until its sectors are published;
ABORT drops the staged writes and is acknowledged, and finds nothing to do after PUBLISH. ABORT after PUBLISH is the model's reading (log 56). -/
def Obligations.RidgeDestinationResults : Prop :=
  (∀ g n, DropsStale (.ridgeCount · g n)) ∧ (∀ g tp, DropsStale (.ridgePublishMsg · g tp)) ∧ (∀ g, DropsStale (.ridgeAbortMsg · g)) ∧
  (∀ (s : State) (w : Sender) pkg g n, g < 256 → Fresh s w → w.pkg = pkg → let st := mget s.stages (256 * pkg + g) {}
    let b := if st.staged = 0 then w.dest else st.bay
    st.ready = false → st.tp = none →
    (st.staged < n → exec (.ridgeCount w g n) s = .next { s with stages := mset s.stages (256 * pkg + g) { st with want := some (n, s.t), bay := b } }) ∧
    (∀ R, n ≤ st.staged → (∀ y ∈ st.writes, (256 + homeOf s (32 * y.sector)) ∉ s.safe) → (∀ w ∈ st.writes, let l := mget s.leases (32 * w.sector / 64) {}; max l.l0 (max l.l1 l.lr) ≤ R) →
      (R = 0 ∨ ∃ w ∈ st.writes, let l := mget s.leases (32 * w.sector / 64) {}; R = max l.l0 (max l.l1 l.lr)) →
      ∃ t : State, exec (.ridgeCount w g n) s = .next t ∧ { t with stages := s.stages, out := s.out } = s ∧ t.out = s.out ++ [OutPkt.ready (hopFor s b) pkg g R] ∧
        mget? t.stages (256 * pkg + g) = some { st with want := none, ready := true, bay := b } ∧ ∀ k, k ≠ 256 * pkg + g → mget? t.stages k = mget? s.stages k)) ∧
  (∀ (s : State) pkg g n t0, let st := mget s.stages (256 * pkg + g) {}
    st.want = some (n, t0) → (s.t < t0 + 100000 → exec (.ridgeStageTimeout pkg g) s = .next s) ∧
    (t0 + 100000 ≤ s.t → exec (.ridgeStageTimeout pkg g) s = .next { s with
      stages := mset s.stages (256 * pkg + g) { st with want := none }, out := s.out ++ [OutPkt.refuse (hopFor s st.bay) pkg g 0x09] })) ∧
  (∀ (s : State) (w : Sender) pkg g n, g < 256 → Fresh s w → w.pkg = pkg → let st := mget s.stages (256 * pkg + g) {}
    st.ready = false → st.tp = none → n ≤ st.staged → ∀ y ∈ st.writes, (256 + homeOf s (32 * y.sector)) ∈ s.safe →
      ∃ (t : State) (h : Hop) (R : Nat), exec (.ridgeCount w g n) s = .next t ∧ t.out = s.out ++ [OutPkt.ready h pkg g R] ∧ homeT s (homeOf s (32 * y.sector)) + 1048600 ≤ R) ∧
  (∀ (s : State) (w : Sender) pkg g tp st, g < 256 → Fresh s w → w.pkg = pkg → mget? s.stages (256 * pkg + g) = some st → st.tp = none →
    (st.writes = [] → exec (.ridgePublishMsg w g tp) s = .next { s with stages := mdel s.stages (256 * pkg + g), out := s.out ++ [OutPkt.ack (hopFor s st.bay) pkg g] }) ∧
    (st.writes ≠ [] → ∃ t : State, exec (.ridgePublishMsg w g tp) s = .next t ∧ { t with stages := s.stages } = s ∧
      ∃ st' : Stage, mget? t.stages (256 * pkg + g) = some st' ∧ { st' with left := st.left, tp := none } = st ∧ st'.tp = some tp ∧ ∀ x, x ∈ st'.left ↔ ∃ w ∈ st.writes, w.sector = x)) ∧
  (∀ (s : State) (w : Sender) pkg g, Fresh s w → w.pkg = pkg → (mget s.stages (256 * pkg + g) {}).tp = none →
    exec (.ridgeAbortMsg w g) s = .next { s with
      stages := mdel s.stages (256 * pkg + g), out := s.out ++ [OutPkt.ack (hopFor s (match mget? s.stages (256 * pkg + g) with | some st => st.bay | none => w.dest)) pkg g] }) ∧
  (∀ (s : State) (w : Sender) g tp, Fresh s w → (mget s.stages (256 * w.pkg + g) {}).tp = some tp → exec (.ridgeAbortMsg w g) s = .next s)

namespace Sys2Proof.Machine

/-- The one access outstanding at a port, a thread's (R377). -/
def OneAtPort (s : State) (pool : Bool) (a : Access) (c k l : Nat) : Prop :=
  s.accs.filter (fun y => atPort s pool y) = [a] ∧ a.ag = .thread c k l ∧ (s.bay (s.bayOf c)).formed = true ∧ (s.bay (s.bayOf c)).cont = none
/-- Host physical address hpa, for n bytes of one sector, lies in the bay's HDM range, which the link reaches: its byte there is tg's (R301). -/
def HdmAt (s : State) (bay hpa n : Nat) (tg : Target) : Prop :=
  let y := s.bay bay
  let pa := y.hdmBase + (hpa - y.hdmHost)
  y.hdmHost ≤ hpa ∧ hpa + n ≤ y.hdmHost + y.hdmLen ∧ pa % 32 + n ≤ 32 ∧ s.hUp = true ∧ target? s pa = some tg ∧ tg.canon % 32 = pa % 32
/-- Bay b has taken steps 1 to 4 of R341 and waits for step 5. -/
def HeldContained (s t : State) (b : Nat) : Prop :=
  (∃ k, (t.bay b).cont = some k ∧ k.stop = [] ∧ k.eave = true ∧ k.noted = true) ∧ (t.bay b).inc = (s.bay b).inc + 1 ∧ (∀ c ∈ s.coresOf b, (t.core c).blocks = [] ∧ ∀ k, t.course? c k = none) ∧
    (∀ m, m ≠ 15 → ((t.bay b).mailbox m).entries = []) ∧ ((t.bay b).mailbox 15).entries.length = min (((s.bay b).mailbox 15).entries.length + 1) (max 256 ((s.bay b).mailbox 15).entries.length)
/-- A boot image that Zhesor root accepts (R427, R430): its verdicts, its version, its fields, and its runs, which meet no table of a bay (R103). -/
def Accepted (s : State) (i : BootImage) : Prop :=
  i.sigOk = true ∧ i.reservedZero = true ∧ (Config.minVersion .bay).toNat ≤ i.version.toNat ∧ 1 ≤ i.runs.length ∧ i.runs.length ≤ 256 ∧
  i.root.toNat % 65536 = 0 ∧ i.root.toNat < 2 ^ 39 ∧ i.walkPc.toNat % 4 = 0 ∧ i.walkPc.toNat < 2 ^ 39 ∧ i.svPc.toNat % 4 = 0 ∧
  ∀ r ∈ i.runs, r.1 % 64 = 0 ∧ r.2.length % 64 = 0 ∧ 0 < r.2.length ∧ r.1 + r.2.length ≤ 2 ^ 39 ∧ ∀ e ∈ s.bays,
    (e.2.otb ≠ 0 → r.1 + r.2.length ≤ e.2.otBase ∨ e.2.otBase + 32 * 2 ^ e.2.otb ≤ r.1) ∧ (e.2.fcnt ≠ 0 → r.1 + r.2.length ≤ e.2.ftBase ∨ e.2.ftBase + 32 * e.2.fcnt ≤ r.1)
/-- The bytes of a boot image before its signature (R427): header, with version and reserved fields z and y, and runs. -/
def imageBody (i : BootImage) (z y : Nat) : List Byte :=
  natBytes 64 (i.version.toNat + 2 ^ 32 * z + 2 ^ 128 * i.svPc.toNat + 2 ^ 192 * i.walkPc.toNat + 2 ^ 256 * i.root.toNat + 2 ^ 320 * i.runs.length + 2 ^ 352 * y) ++
    i.runs.flatMap (fun r => natBytes 8 r.1 ++ natBytes 8 r.2.length ++ r.2)
/-- Service core 0 may store at once: it has no FENCE that waits and nothing on its way, and no sector is staged. -/
def ServiceFree (s : State) : Prop := (mget s.services 0 {}).fence = false ∧ (∀ a ∈ s.accs, a.ag ≠ .service 0) ∧ s.stages = []
/-- The answer of a management command (R429): STATUS, REASON, TAG, and nothing pending. -/
def Answered (s : State) (cmd : W512) (status reason : Nat) : State :=
  { s with cmd := none, ans := BitVec.ofNat 512 (status + 2 ^ 8 * reason + 2 ^ 16 * (cmd.toNat / 2 ^ 16 % 2 ^ 16)) }
/-- Zhesor root runs (R426). -/
def RootRuns (s : State) : Prop := s.st = .root ∨ s.st = .service ∨ s.st = .ready ∨ s.st = .trip
/-- A command of this OP that may be executed: Zhesor root runs, none other is pending, and its zero fields are zero (R429). -/
def Executable (s : State) (cmd : W512) (op : Nat) (zero : List (Nat × Nat)) : Prop :=
  RootRuns s ∧ (s.cmd = none ∨ s.cmd = some cmd) ∧ cmd.toNat % 256 = op ∧ cmd.toNat / 2 ^ 8 % 2 ^ 8 = 0 ∧ cmd.toNat / 2 ^ 32 % 2 ^ 32 = 0 ∧ ∀ f ∈ zero, cmd.toNat / 2 ^ f.1 % 2 ^ f.2 = 0
/-- A service answers OK with a value; it answers FAILED and changes nothing else (R343). -/
def serviceOk (s : State) (bay : Nat) (op : String) (v : Nat) : State := { s with svc := s.svc ++ [{ bay := bay, op := op, status := 0, val := v }] }
def serviceFails (i : Instr) (s : State) (bay : Nat) (op : String) : Prop :=
  exec i s = .next { s with svc := s.svc ++ [{ bay := bay, op := op, status := 2, val := 0 }] }

end Sys2Proof.Machine

/-- R49, R301, R373, R374, R377, R417, R418: the host and CXL links. A host access through HDM reads or writes bytes at their home; a write is answered once it has its record and T has reached the leases of it (log 108). A port that fails, or whose request is too old, ends what is outstanding at it with its bay contained. A PCIe link
that goes down changes nothing. A page answer frees its entry, with a notice, or with containment where it reports failure; an unmatched one is counted; one that finds the notice queue full is held (R49), and a second answer to it is counted. How a failing port ends its requests is the model's reading (log 63). -/
def Obligations.HostLinkResults : Prop :=
  (∀ (s : State) bay hpa n (tg : Target), HdmAt s bay hpa n tg → heldForTp s (tg.canon / 32) (homeT s tg.slice) = false →
    (badSector s (tg.canon / 32) = none → ∃ t : State, exec (.hostHdmAccess bay hpa (.read n)) s = .next t ∧ SameMemory s t ∧ t.accs = s.accs ∧
      t.out = s.out ++ [OutPkt.hdmAns hpa ((List.range n).map (fun i => s.readByte (tg.canon + i)))]) ∧
    ((badSector s (tg.canon / 32)).isSome → exec (.hostHdmAccess bay hpa (.read n)) s = .next { s with out := s.out ++ [OutPkt.hdmAns hpa []] })) ∧
  (∀ (s : State) bay hpa (b : List Byte) (tg : Target), HdmAt s bay hpa b.length tg → tg.tier = .hbm → lateForTp s (tg.canon / 32) (homeT s tg.slice) = false → badSector s (tg.canon / 32) = none →
    ∃ (t : State) (A : Access) (r : Record) (d : Nat), exec (.hostHdmAccess bay hpa (.write b)) s = .next t ∧ (∀ i, i < b.length → t.readByte (tg.canon + i) = b.getD i 0) ∧
      (∀ g, g < tg.canon ∨ tg.canon + b.length ≤ g → memGet t.mem g = memGet s.mem g) ∧ (mget t.leases (tg.canon / 64) {}).lvl = 0 ∧ t.out = s.out ∧
      t.accs = s.accs ++ [A] ∧ A.id = s.nextAcc ∧ A.ag = .host ∧ A.form = BitVec.ofNat 64 hpa ∧ A.ph = .recorded r [] d) ∧
  (∀ (s : State) (A : Access) (r : Record) old d, s.accs.find? (fun y => y.id == A.id) = some A → A.ag = .host → A.ph = .recorded r old d → max r.l0 r.l1 ≤ s.t →
    ∃ t : State, exec (.completionRecord A.id) s = .next t ∧ { t with accs := s.accs, out := s.out, hostHor := s.hostHor } = s ∧
      t.accs = s.accs.filter (fun y => decide (y.id ≠ A.id)) ∧ t.out = s.out ++ [OutPkt.hdmAns A.form.toNat []]) ∧
  (∀ (s : State) bay hpa op, hpa < (s.bay bay).hdmHost ∨ s.hUp = false → exec (.hostHdmAccess bay hpa op) s = .next s) ∧
  (∀ (s : State), (∀ a ∈ s.accs, atPort s true a = false) → ∃ t : State, exec (.cxlLinkFailure .m) s = .next t ∧ { t with mUp := s.mUp, soffit := s.soffit, bad := s.bad } = s ∧ t.mUp = false ∧
    ∀ d g, (mget? (mget t.soffit d []) g).isSome → tierOf s (64 * g) ≠ .pool) ∧
  (∀ (s : State), (∀ a ∈ s.accs, atPort s false a = false) → s.report = none → ∃ t : State, exec (.cxlLinkFailure .h) s = .next t ∧ { t with hUp := s.hUp, soffit := s.soffit, bad := s.bad } = s ∧ t.hUp = false ∧
    ∀ d g, (mget? (mget t.soffit d []) g).isSome → tierOf s (64 * g) ≠ .host) ∧
  (∀ (s : State) x cmd, (∀ a ∈ s.accs, atPort s false a = false) → s.report = some x → s.cmd = some cmd → ∃ t : State, exec (.cxlLinkFailure .h) s = .next t ∧ t.hUp = false ∧ t.report = none ∧
    t.cmd = none ∧ t.ans = (Answered s cmd 2 5).ans) ∧
  (∀ (s : State) a c k l, OneAtPort s true a c k l → ∃ (t : State) (r : FaultRec), exec (.cxlLinkFailure .m) s = .next t ∧ t.mUp = false ∧ Triggered s t (s.bayOf c) [r.bits] ∧ r.code = 0x32 ∧
    r.cont = true ∧ r.loc = BitVec.ofNat 128 a.form.toNat) ∧
  (∀ (s : State) a c k l, OneAtPort s true a c k l → s.accs.filter (fun y => y.id == a.id) = [a] → (match a.ph with | .cxl r _ _ => r.p | _ => a.t0) + s.mTo ≤ s.t →
    ∃ (t : State) (r : FaultRec), exec (.cxlRequestTimeout a.id) s = .next t ∧ t.mUp = false ∧ Triggered s t (s.bayOf c) [r.bits] ∧ r.code = 0x31 ∧ r.cont = true) ∧
  (∀ (s : State) a, s.accs.find? (fun y => y.id == a.id) = some a → let since := match a.ph with | .cxl r _ _ => r.p | _ => a.t0
    s.t < since + s.mTo → s.t < since + s.hTo → exec (.cxlRequestTimeout a.id) s = .next s) ∧
  (∀ (s : State), exec (.cxlLinkUp .h) s = .next { s with hUp := true } ∧ exec (.cxlLinkUp .m) s = .next { s with mUp := true } ∧ exec .pcieLinkDown s = .next s) ∧
  (∀ (s : State) ns, 50000 ≤ ns → ns ≤ 64000000 → act s (.portTimeout .h ns) = .stay { s with hTo := ns } ∧ act s (.portTimeout .m ns) = .stay { s with mTo := ns }) ∧
  (∀ (s : State) bay (data : W512), let rid := data.toNat / 2 ^ 32 % 256
    let hit := data.toNat / 2 ^ 16 % 2 ^ 16 = (s.bay bay).inc.toNat
    (¬ hit ∨ mget? (s.bay bay).pages rid = none → exec (.pageRequestAnswer bay data) s = .next (s.setBay bay { s.bay bay with e840 := (s.bay bay).e840 + 1 })) ∧
    (∀ r, hit → mget? (s.bay bay).pages rid = some r → rid ∉ (s.bay bay).heldAns → data.toNat % 256 = 0 → 4096 ≤ (s.bay bay).notices.length + (s.bay bay).reserved →
      exec (.pageRequestAnswer bay data) s = .next (s.setBay bay { s.bay bay with heldAns := (s.bay bay).heldAns ++ [rid] })) ∧
    (∀ r, hit → mget? (s.bay bay).pages rid = some r → rid ∈ (s.bay bay).heldAns → exec (.pageRequestAnswer bay data) s = .next (s.setBay bay { s.bay bay with e840 := (s.bay bay).e840 + 1 }) ∧ exec (.pageRequestTimeout bay rid) s = .next s) ∧
    (∀ r, hit → mget? (s.bay bay).pages rid = some r → rid ∉ (s.bay bay).heldAns → data.toNat % 256 = 0 → (s.bay bay).notices.length + (s.bay bay).reserved < 4096 →
      ∃ t : State, exec (.pageRequestAnswer bay data) s = .next t ∧ SameBytes s t ∧ t.cores = s.cores ∧ (∀ d, d ≠ bay → t.bay d = s.bay d) ∧
        t.bay bay = { s.bay bay with pages := mdel (s.bay bay).pages rid, notices := (s.bay bay).notices ++ [BitVec.ofNat 512 (5 + 2 ^ 8 * rid + 2 ^ 448 * r.vaddr.toNat)] }) ∧
    (∀ r, hit → mget? (s.bay bay).pages rid = some r → rid ∉ (s.bay bay).heldAns → data.toNat % 256 ≠ 0 → (s.bay bay).formed = true → (s.bay bay).cont = none →
      ∃ (t : State) (y : FaultRec), exec (.pageRequestAnswer bay data) s = .next t ∧ Triggered (s.setBay bay { s.bay bay with pages := mdel (s.bay bay).pages rid }) t bay [y.bits] ∧ y.code = 0x35 ∧ y.async = true ∧ y.cont = true ∧ y.agent = 4 ∧
        y.loc = BitVec.ofNat 128 r.vaddr.toNat ∧ y.aux.toNat = 256 * rid + data.toNat % 256)) ∧
  (∀ (s : State) bay rid r, rid < 256 → mget? (s.bay bay).pages rid = some r → rid ∉ (s.bay bay).heldAns → (s.t < r.treq + 100000000 → exec (.pageRequestTimeout bay rid) s = .next s) ∧
    (r.treq + 100000000 ≤ s.t → (s.bay bay).formed = true → (s.bay bay).cont = none → ∃ (t : State) (y : FaultRec), exec (.pageRequestTimeout bay rid) s = .next t ∧
      Triggered (s.setBay bay { s.bay bay with pages := mdel (s.bay bay).pages rid }) t bay [y.bits] ∧
      y.code = 0x35 ∧ y.async = true ∧ y.cont = true ∧ y.aux.toNat = 256 * rid + 255))

/-- R12, R421 to R424: temperature, power and clocks. The sensors are read again after 1,000 ns. A column throttles from 105 °C until it reads 100 °C or less, and its core islands then run at 1.5 GHz at most; 120 °C trips, which contains every formed bay and holds the cores off until
every sensor reads 90 °C or less. An interval of 100,000 ns above the power cap takes 100 MHz from each core island's clock, down to 1.5 GHz, one below 95 % gives it back. A new operating point runs at the lower clock until it settles, at the latest after
10,000 ns; with no voltage to settle it runs at once. That a trip is taken wherever Zhesor root runs, and that the package then goes on where it was, are the model's readings (log 64, log 118). -/
def Obligations.PowerAndTemperatureResults : Prop :=
  let top := fun (x : Sensors) => max (max x.c1.toInt x.c6.toInt) (max x.f1.toInt x.f6.toInt)
  -- the clock of an operating point
  let point := fun (x : Island) (t : Nat) => match x.target with
    | none => x.mhz
    | some m => if t < x.since + 10000 then min x.mhz m else m
  let col := fun (rs : List Sensors) (g : Nat) => top (rs.getD g ⟨0, 0, 0, 0⟩)
  (∀ (s : State) (rs : List Sensors) t0, s.sensedAt = some t0 → s.t < t0 + 1000 → exec (.columnTempRefresh rs) s = .next s) ∧
  (∀ (s : State) (rs : List Sensors), rs.length = 32 → (∀ t0, s.sensedAt = some t0 → t0 + 1000 ≤ s.t) → ∃ t : State, exec (.columnTempRefresh rs) s = .next t ∧ t.sensedAt = some s.t ∧ (∀ g, g < 32 → mget t.sensors g ⟨0, 0, 0, 0⟩ = rs.getD g ⟨0, 0, 0, 0⟩) ∧
    (∀ g, g < 32 → (g ∈ t.colhot ↔ 1680 ≤ col rs g ∨ (g ∈ s.colhot ∧ 1600 < col rs g))) ∧
    (¬ RootRuns s ∨ s.st = .trip ∨ (∀ g, g < 32 → col rs g < 1920) → { t with sensors := s.sensors, colhot := s.colhot, sensedAt := s.sensedAt } = s) ∧
    (RootRuns s → s.st ≠ .trip → (∃ g, g < 32 ∧ 1920 ≤ col rs g) → t.st = .trip ∧ t.tripFrom = s.st ∧ t.off = true ∧ ∀ b, b < 16 → (s.bay b).formed = true → (s.bay b).cont = none → HeldContained s t b)) ∧
  (∀ (s : State) i, i < 256 → i / 8 ∈ s.colhot → effMhz s i ≤ 1500) ∧
  (∀ (s : State), s.st = .trip → (∀ g, g < 32 → top (mget s.sensors g ⟨0, 0, 0, 0⟩) ≤ 1440) → ∃ t : State, exec .tripRecovery s = .next t ∧ t.st = s.tripFrom ∧ t.off = false ∧
    ∀ b, b < 16 → (s.bay b).formed = true → (s.bay b).cont ≠ none → (t.bay b).cont = none ∧ ReservedStart s t b (s.bay b).bootRoot (s.bay b).bootWalk (s.bay b).svPc) ∧
  (∀ (s : State), s.st ≠ .trip ∨ (∃ g, g < 32 ∧ 1440 < top (mget s.sensors g ⟨0, 0, 0, 0⟩)) → exec .tripRecovery s = .next s) ∧
  (∀ (s : State) mw t0, s.powerAt = some t0 → s.t < t0 + 100000 → exec (.powerInterval mw) s = .next s) ∧
  (∀ (s : State) mw, (∀ t0, s.powerAt = some t0 → t0 + 100000 ≤ s.t) → ∃ t : State, exec (.powerInterval mw) s = .next t ∧ { t with power := s.power, powerAt := s.powerAt, islands := s.islands } = s ∧
    t.power = mw ∧ t.powerAt = some s.t ∧ ∀ i, i < 256 →
      let x := mget s.islands i {}
      let y := mget t.islands i {}
      let base := point x s.t
      { y with cut := x.cut } = x ∧ (s.pcap * 950 ≤ mw → mw ≤ s.pcap * 1000 → y = x) ∧
      (s.off = false → i / 8 ∉ s.colhot → 1500 ≤ base → 100 * x.cut ≤ base - 1500 →
        (s.pcap * 1000 < mw → effMhz t i = max 1500 (effMhz s i - 100)) ∧ (mw < s.pcap * 950 → effMhz t i = min base (effMhz s i + 100)))) ∧
  (∀ (s : State) i mv mhz, let ok := i < 260 ∧ 0 < mhz ∧ (256 ≤ i ∨ (350 ≤ mv ∧ mv ≤ 374 ∧ mhz ≤ 1500) ∨ (375 ≤ mv ∧ mv ≤ 399 ∧ mhz ≤ 1800) ∨ (400 ≤ mv ∧ mv ≤ 650 ∧ mhz ≤ 2100))
    let x := mget s.islands i {}
    let settling := x.target.isSome ∧ s.t < x.since + 10000
    (¬ ok → exec (.operatingPointChange i mv mhz) s = .next s) ∧
    (ok → mv = x.mv → ¬ settling → exec (.operatingPointChange i mv mhz) s = .next { s with islands := mset s.islands i { x with mhz := mhz, target := none } }) ∧
    (ok → mv ≠ x.mv ∨ settling → exec (.operatingPointChange i mv mhz) s = .next { s with
      islands := mset s.islands i { x with mv := mv, mhz := point x s.t, target := some mhz, since := if mv = x.mv then x.since else s.t } })) ∧
  (∀ (s : State) i m, (mget s.islands i {}).target = some m → effMhz s i ≤ point (mget s.islands i {}) s.t ∧
    exec (.operatingPointSettle i) s = .next { s with islands := mset s.islands i { mget s.islands i {} with mhz := m, target := none } })

/-- R287, R343, R344, R426, R427: bring-up. PERST# released, Zhesor root runs, or the package has failed; it takes the domain configuration and joins the domain's time; the service firmware forms the bays of the stored partition from their
boot images. Formation is stated for a partition that names one bay, in a package whose state is that after reset. A restart of the firmware answers pending calls RESTART. PERST# asserted keeps flash and the sensors. What a formation and PERST# keep is the model's reading (log 65). -/
def Obligations.BringUpResults : Prop :=
  (∀ (s : State), s.st = .reset → exec .perstRelease s = .next { s with st := if s.flash.root.sigOk = true ∧ (Config.minVersion .root).toNat ≤ s.flash.root.version.toNat then .root else .failed }) ∧
  (∀ (s : State) t0, s.st = .root → ∃ t : State, exec (.rootStageComplete t0) s = .next t ∧ { t with st := s.st, pkgid := s.pkgid, members := s.members, fto := s.fto, pl := s.pl, t := s.t } = s ∧
    t.st = .service ∧ t.pkgid = s.flash.cfg.pkgid ∧ t.members = s.flash.cfg.members ∧
    (∀ x, s.flash.cfg.fto = some x → 100000 ≤ x → x ≤ 64000000 → t.fto = x) ∧ (s.flash.cfg.fto = none → t.fto = 2000000) ∧
    (∀ x, s.flash.cfg.pl = some x → 2000 ≤ x → x ≤ 1000000 → t.pl = x) ∧ (s.flash.cfg.pl = none → t.pl = 10000) ∧
    ((∀ p, p < 512 → (s.flash.cfg.members.getLsbD p = true ↔ p = s.flash.cfg.pkgid.toNat)) → t.t = 0)) ∧
  (∀ (s : State), s.st = .service → s.flash.service.sigOk = false → exec .serviceStageComplete s = .next { s with st := .failed }) ∧
  (∀ (s : State) b i, s.st = .service → s.flash.service.sigOk = true → (Config.minVersion .service).toNat ≤ s.flash.service.version.toNat → ServiceFree s → b < 16 →
    (∃ e ∈ s.flash.part, e.1 < 32 ∧ e.2 = b) → (∀ e ∈ s.flash.part, e.1 < 32 ∧ e.2 = b) → s.bays = [] → s.cores = [] → mget? s.flash.boot b = some i → Accepted s i →
    ∀ lo bytes, i.runs = [(lo, bytes)] →
    ∃ t : State, exec .serviceStageComplete s = .next t ∧ t.st = .ready ∧ t.cols = s.flash.part ∧ (t.bay b).formed = true ∧ (t.bay b).inc = 1 ∧ (t.bay b).root = i.root ∧ b ∉ t.booterr ∧
      (∀ j, j < bytes.length → t.readByte (lo + j) = bytes.getD j 0) ∧ (∀ g, g < lo ∨ lo + bytes.length ≤ g → memGet t.mem g = memGet s.mem g) ∧ mget? t.loaded b = some i ∧
      ReservedStart t t b i.root i.walkPc i.svPc) ∧
  (∀ (s : State) b, s.st = .service → s.flash.service.sigOk = true → (Config.minVersion .service).toNat ≤ s.flash.service.version.toNat → ServiceFree s → b < 16 →
    (∃ e ∈ s.flash.part, e.1 < 32 ∧ e.2 = b) → mget? s.flash.boot b = none ∨ (∃ i, mget? s.flash.boot b = some i ∧ i.sigOk = false) →
    ∃ t : State, exec .serviceStageComplete s = .next t ∧ t.st = .ready ∧ (t.bay b).formed = false ∧ b ∈ t.booterr) ∧
  (∀ (s : State), exec .serviceFirmwareRestart s = .next { s with svcWait := [], svc := s.svc ++ s.svcWait.map (fun w => { bay := w.1, op := "PAGE_RELEASE", status := 1, val := 0 }) }) ∧
  (∀ (s : State), ∃ t : State, exec .perstAssert s = .next t ∧ t.st = .reset ∧ t.flash = s.flash ∧ t.sensors = s.sensors ∧ t.bays = [] ∧ t.cores = [] ∧ t.cols = [] ∧ t.accs = [] ∧ t.leases = [] ∧ t.t = 0 ∧
    ∀ a, a < 0x100000000000 → memGet t.mem a = memGet State.reset.mem a)

/-- R82, R293, R427 to R431: the management commands. BAY_SET gives columns to bays and forms the bays that change, each from its boot image; a bay without an image that is accepted, or without a column, is not formed. ATTEST uses one leaf, writes
its report, and is answered once that is performed at the host. BOOT_SET reads the image over port H, as its bytes are laid out, and takes it where it is accepted. A field that is not as it must be fails with its reason and changes nothing
else. That a swapped-out block counts as held is log 66; that BAY_SET waits for READY and no command is taken before Zhesor root runs, log 118; the signature of an image and the bytes of a report are open (log 121, log 17). -/
def Obligations.ManagementCommandResults : Prop :=
  (∀ (s : State) (cmd : W512), Executable s cmd 1 [(320, 192)] → let col := fun (g : Nat) => cmd.toNat / 2 ^ (64 + 8 * g) % 256
    let changes := fun (b : Nat) => ∃ g, g < 32 ∧ ¬ (mget? s.cols g = some b ↔ col g = b)
    let good := (∀ g, g < 32 → col g < 16 ∨ col g = 0x1F) ∧ ∀ b, b < 16 → changes b → ∀ c ∈ s.coresOf b, (s.core c).blocks = []
    ((∃ g, g < 32 ∧ 16 ≤ col g ∧ col g ≠ 0x1F) → exec (.baySet cmd) s = .next (Answered s cmd 2 2)) ∧
    (∀ b c, b < 16 → changes b → c ∈ s.coresOf b → (s.core c).blocks ≠ [] → exec (.baySet cmd) s = .next (Answered s cmd 2 2)) ∧
    (good → s.st ≠ .ready → exec (.baySet cmd) s = .next { s with cmd := some cmd }) ∧
    (good → s.st = .ready → ServiceFree s →
      ∃ t : State, exec (.baySet cmd) s = .next t ∧ t.cmd = none ∧ t.ans.toNat % 2 ^ 16 = 0 ∧ t.ans.toNat / 2 ^ 16 = cmd.toNat / 2 ^ 16 % 2 ^ 16 ∧
        (∀ g, g < 32 → mget? t.cols g = if col g < 16 then some (col g) else none) ∧ (∀ b, b < 16 → ¬ changes b → (t.bay b).inc = (s.bay b).inc ∧ (t.bay b).formed = (s.bay b).formed) ∧
        (∀ b, b < 16 → changes b → (∀ g, g < 32 → col g ≠ b) → (t.bay b).formed = false) ∧
        (∀ b i, b < 16 → changes b → (∃ g, g < 32 ∧ col g = b) → mget? s.flash.boot b = some i → Accepted s i → (t.bay b).formed = true ∧ (t.bay b).inc = (s.bay b).inc + 1 ∧ (t.bay b).cont = none ∧
          b ∉ t.booterr ∧ mget? t.loaded b = some i ∧ (∀ m, ((t.bay b).mailbox m).entries = []) ∧ (∀ c ∈ t.coresOf b, (t.core c).blocks = [] ∧ (t.core c).tlb = [] ∧ (t.core c).copies = []) ∧
          ReservedStart t t b i.root i.walkPc i.svPc) ∧
        ∀ b, b < 16 → changes b → (∃ g, g < 32 ∧ col g = b) → mget? s.flash.boot b = none ∨ (∃ i, mget? s.flash.boot b = some i ∧ i.sigOk = false) → (t.bay b).formed = false ∧ b ∈ t.booterr)) ∧
  (∀ (s : State) (cmd : W512), Executable s cmd 2 [(384, 128)] → let host := cmd.toNat / 2 ^ 320 % 2 ^ 64
    (s.report = none → 2 ^ 20 ≤ s.flash.leaf → exec (.attest cmd) s = .next (Answered s cmd 2 4)) ∧
    (s.report = none → s.flash.leaf < 2 ^ 20 → host % 4096 ≠ 0 ∨ 2 ^ 44 ≤ host ∨ s.hUp = false → exec (.attest cmd) s = .next (Answered s cmd 2 5)) ∧
    (s.report = none → s.flash.leaf < 2 ^ 20 → host % 4096 = 0 → host < 2 ^ 44 → s.hUp = true → ServiceFree s → ∃ (t : State) (new : List Access) (n : Nat), exec (.attest cmd) s = .next t ∧ t.cmd = some cmd ∧ t.ans = s.ans ∧
      t.report = some (s.nextAcc, n) ∧ t.accs = s.accs ++ new ∧ (∀ a ∈ new, a.ag = .service 0 ∧ s.nextAcc ≤ a.id ∧ a.id < n ∧ ∃ x d, a.ph = .cxl x [] d) ∧
      t.flash = { s.flash with leaf := s.flash.leaf + 1 } ∧ OutPkt.report (0x100000000000 + host) s.flash.leaf ∈ t.out ∧ t.cores = s.cores ∧ t.bays = s.bays ∧
      ∀ g, g < 0x100000000000 + host ∨ 0x100000000000 + host + 4096 ≤ g → memGet t.mem g = memGet s.mem g) ∧
    (∀ i n, s.report = some (i, n) → (∃ a ∈ s.accs, i ≤ a.id ∧ a.id < n) → exec (.attest cmd) s = .next s) ∧
    (∀ i n, s.report = some (i, n) → (∀ a ∈ s.accs, a.id < i ∨ n ≤ a.id) → exec (.attest cmd) s = .next (Answered { s with report := none } cmd 0 0))) ∧
  (∀ (s : State) i, imageOk s i = true ↔ Accepted s i) ∧
  (∀ (s : State) (cmd : W512), Executable s cmd 3 [(72, 56), (256, 256)] → let b := cmd.toNat / 2 ^ 64 % 256
    let host := cmd.toNat / 2 ^ 128 % 2 ^ 64
    let len := cmd.toNat / 2 ^ 192 % 2 ^ 64
    let pa := 0x100000000000 + host
    (host % 64 ≠ 0 ∨ 2 ^ 44 ≤ host ∨ s.hUp = false → ∀ img, exec (.bootSet cmd img) s = .next (Answered s cmd 2 5)) ∧
    (host % 64 = 0 → host < 2 ^ 44 → s.hUp = true → 16 ≤ b ∨ 2 ^ 24 < len → ∀ img, exec (.bootSet cmd img) s = .next (Answered s cmd 2 3)) ∧
    (∀ (i : BootImage) (z y : Nat) (sig : List Byte), host % 64 = 0 → s.hUp = true → b < 16 → len ≤ 2 ^ 24 → host + len ≤ 2 ^ 44 → (∀ k, badSector s (pa / 32 + k) = none) →
      z < 2 ^ 96 → y < 2 ^ 160 → i.runs.length ≤ 256 → (∀ x ∈ i.runs, x.1 < 2 ^ 64 ∧ x.2.length < 2 ^ 64) → i.reservedZero = decide (z = 0 ∧ y = 0) → i.sigOk = Config.imageSigned (imageBody i z y) sig →
      (List.range len).map (fun j => s.readByte (pa + j)) = imageBody i z y ++ sig →
      -- the row's image is the one that the bytes are; with another the step is not taken (log 7)
      (∀ img, img ≠ i → exec (.bootSet cmd img) s = .next s) ∧
      exec (.bootSet cmd i) s = .next (if imageOk s i then Answered { s.bumpFree with flash := { s.flash with boot := mset s.flash.boot b i } } cmd 0 0 else Answered s.bumpFree cmd 2 3))) ∧
  (∀ (s : State) (cmd : W512), RootRuns s → s.cmd = none ∨ s.cmd = some cmd → cmd.toNat / 2 ^ 8 % 2 ^ 8 ≠ 0 ∨ cmd.toNat / 2 ^ 32 % 2 ^ 32 ≠ 0 →
    (cmd.toNat % 256 = 1 → exec (.baySet cmd) s = .next (Answered s cmd 2 1)) ∧ (cmd.toNat % 256 = 2 → exec (.attest cmd) s = .next (Answered s cmd 2 1)) ∧
    (cmd.toNat % 256 = 3 → ∀ img, exec (.bootSet cmd img) s = .next (Answered s cmd 2 1))) ∧
  (∀ (s : State) (cmd : W512), ¬ RootRuns s ∨ (s.cmd ≠ none ∧ s.cmd ≠ some cmd) → exec (.baySet cmd) s = .next s ∧ exec (.attest cmd) s = .next s ∧ ∀ img, exec (.bootSet cmd img) s = .next s)

/-- R82, R103, R252, R284, R289, R293, R319, R343, R344, R372, R375, R384, R385: the services of Zhesor root. A call of a formed bay that meets the conditions of its service takes its effect and answers OK, with what it returns; any other call answers FAILED
and changes nothing else; a PAGE_RELEASE with leases still running, or with what an ended agent has left on its way to the page, is pending. Where Zhesor root puts a bay's tables is open (log 17), as is which page request number it takes; that its tables begin at 64 KiB pages is the model's reading for the frame table (log 104), that they begin all zero (log 87), that the field checks of EXPORT_SET, WALKER_SET and LAYOUT_BASE, SOFFIT_SPLIT of the same W again and swapped-out
blocks are as stated (log 66), that a PAGE_REQUEST with port H down sends nothing (log 119), that it waits for the service core (log 62), and that only a page of the bay's HDM range is its own (log 120). -/
def Obligations.ServiceResults : Prop :=
  (∀ (s : State) bay w, (s.bay bay).formed = true →
    let staged := ∃ e ∈ s.stages, ∃ y ∈ e.2.writes, y.bay = bay
    let resident := ∃ c ∈ s.coresOf bay, ∃ e ∈ (s.core c).blocks, e.2.st ≠ .swapped
    (w = (s.bay bay).w → w ≤ 28 → ¬ staged → (s.bay bay).split = some w ∨ ¬ resident →
      exec (.soffitSplit bay w) s = .next (serviceOk (s.setBay bay { s.bay bay with split := some w }) bay "SOFFIT_SPLIT" 0)) ∧
    (w ≠ (s.bay bay).w → w ≤ 28 → ¬ staged → ¬ resident → ∃ t : State, exec (.soffitSplit bay w) s = .next t ∧ t.svc = (serviceOk s bay "SOFFIT_SPLIT" 0).svc ∧
      t.bay bay = { s.bay bay with w := w, eave := [], split := some w } ∧ t.mem = s.mem ∧ t.cores = s.cores ∧ t.accs = s.accs ∧
      (0 < w → ∀ g, g < 32 → mget? s.cols g = some bay → ∃ u ∈ t.undef, u.lo = 0x10000000000 + g * 0x2000000 ∧ u.hi = u.lo + w * 2 ^ 20 - 1)) ∧
    (28 < w ∨ staged ∨ ((s.bay bay).split ≠ some w ∧ resident) → serviceFails (.soffitSplit bay w) s bay "SOFFIT_SPLIT")) ∧
  (∀ (s : State) bay, (s.bay bay).formed = true → (s.bay bay).fcnt ≠ 0 → exec (.objTables bay) s = .next { s with
    svc := s.svc ++ [{ bay := bay, op := "OBJ_TABLES", status := 0, val := 0, tables := some ((s.bay bay).otBase, (s.bay bay).otb, (s.bay bay).ftBase, (s.bay bay).fcnt) }] }) ∧
  (∀ (s : State) bay, (s.bay bay).formed = true → (s.bay bay).fcnt = 0 → ∃ t : State, exec (.objTables bay) s = .next t ∧ t.cores = s.cores ∧ t.accs = s.accs ∧
    let y := t.bay bay
    let gives := t.svc = s.svc ++ [{ bay := bay, op := "OBJ_TABLES", status := 0, val := 0, tables := some (y.otBase, y.otb, y.ftBase, y.fcnt) }] ∧
      10 ≤ y.otb ∧ y.otb ≤ 24 ∧ 1 ≤ y.fcnt ∧ y.fcnt ≤ 2 ^ 22 ∧ y.otBase % 65536 = 0 ∧ y.ftBase % 65536 = 0 ∧
      y.otBase + 32 * 2 ^ y.otb ≤ 2 ^ 39 ∧ y.ftBase + 32 * y.fcnt ≤ 2 ^ 39 ∧ (y.otBase + 32 * 2 ^ y.otb ≤ y.ftBase ∨ y.ftBase + 32 * y.fcnt ≤ y.otBase) ∧
      { y with otBase := (s.bay bay).otBase, otb := (s.bay bay).otb, ftBase := (s.bay bay).ftBase, fcnt := (s.bay bay).fcnt } = s.bay bay ∧
      (∀ g, (y.otBase ≤ g ∧ g < y.otBase + 32 * 2 ^ y.otb) ∨ (y.ftBase ≤ g ∧ g < y.ftBase + 32 * y.fcnt) → t.readByte g = 0) ∧
      (∀ g, g < y.otBase ∨ y.otBase + 32 * 2 ^ y.otb ≤ g → g < y.ftBase ∨ y.ftBase + 32 * y.fcnt ≤ g → memGet t.mem g = memGet s.mem g)
    ((∀ e ∈ s.bays, e.2.otb = 0 ∧ e.2.fcnt = 0 ∧ e.2.hdmLen = 0) → gives) ∧
    (gives ∨ t = { s with svc := s.svc ++ [{ bay := bay, op := "OBJ_TABLES", status := 2, val := 0 }] })) ∧
  (∀ (s : State) bay (base : W64) slots, (s.bay bay).formed = true → let ok := base.toNat % 64 = 0 ∧ ∃ k, k ≤ 20 ∧ slots = 2 ^ k
    (ok → exec (.layoutBase bay base slots) s = .next (serviceOk (s.setBay bay { s.bay bay with layBase := base, laySlots := slots }) bay "LAYOUT_BASE" 0)) ∧
    (¬ ok → serviceFails (.layoutBase bay base slots) s bay "LAYOUT_BASE")) ∧
  (∀ (s : State) bay idx (entry : BitVec 256), (s.bay bay).formed = true → let v := entry.toNat / 2 ^ 192
    let o := entry.toNat / 2 ^ 128 % 2 ^ 64
    let n := entry.toNat / 2 ^ 64 % 2 ^ 64
    let ok := idx < 64 ∧ (entry.getLsbD 7 = true → v % 65536 = 0 ∧ v < 2 ^ 56 ∧ o % 65536 = 0 ∧ o < 2 ^ 43 ∧ 0 < n ∧ n % 65536 = 0 ∧ o + n ≤ 2 ^ 43)
    (ok → exec (.exportSet bay idx entry) s = .next (serviceOk (s.setBay bay { s.bay bay with exports := mset (s.bay bay).exports idx entry }) bay "EXPORT_SET" 0)) ∧
    (¬ ok → serviceFails (.exportSet bay idx entry) s bay "EXPORT_SET")) ∧
  (∀ (s : State) bay group (members : BitVec 512), (s.bay bay).formed = true →
    let ok := group < 4096 ∧ (∀ g, mget? s.mcg group = some g → g.bay = bay) ∧ ∀ p, p < 512 → members.getLsbD p = true → s.members.getLsbD p = true
    (ok → exec (.mcgSet bay group members) s = .next (serviceOk { s with mcg := mset s.mcg group { members := members, bay := bay } } bay "MCG_SET" 0)) ∧
    (¬ ok → serviceFails (.mcgSet bay group members) s bay "MCG_SET")) ∧
  (∀ (s : State) bay die e, (s.bay bay).formed = true → let n := ((List.range 16).filter (fun k => mget? s.cols (16 * die + k) == some bay)).length
    let others := (s.bays.map (fun (x : Nat × Bay) => if x.1 = bay then 0 else mget x.2.eave die 0)).sum
    let staged := ∃ x ∈ s.stages, ∃ w ∈ x.2.writes, w.bay = bay ∧ w.die = die
    let ok := die < 2 ∧ 0 < n ∧ e % 8 = 0 ∧ e ≤ (s.bay bay).w * n ∧ others + e ≤ 128 ∧ ¬ staged
    (ok → exec (.eaveSet bay die e) s = .next (serviceOk (s.setBay bay { s.bay bay with eave := mset (s.bay bay).eave die e }) bay "EAVE_SET" 0)) ∧
    (¬ ok → serviceFails (.eaveSet bay die e) s bay "EAVE_SET")) ∧
  (∀ (s : State) bay (pc root : W64), (s.bay bay).formed = true →
    (pc.toNat % 4 = 0 → root.toNat % 65536 = 0 → ∃ t : State, exec (.walkerSet bay pc root) s = .next t ∧ t.svc = (serviceOk s bay "WALKER_SET" 0).svc ∧ t.mem = s.mem ∧ t.bay bay = { s.bay bay with walkPc := pc, root := root } ∧
      ∀ c ∈ s.coresOf bay, (∃ x, t.course? c 511 = some x ∧ x.u.rs 0 = root ∧ ∀ l, l < 8 → (x.lane l).st = .ready ∧ (x.lane l).pc = pc) ∧ (∀ m ∈ (t.core c).mq, m.service = false) ∧
        ∀ k, k ≠ 511 → (s.course? c k = none → t.course? c k = none) ∧ ∀ x, s.course? c k = some x → ∃ y, t.course? c k = some y ∧ { y with active := x.active, since := x.since, cyc := x.cyc } = x) ∧
    (pc.toNat % 4 ≠ 0 ∨ root.toNat % 65536 ≠ 0 → serviceFails (.walkerSet bay pc root) s bay "WALKER_SET")) ∧
  (∀ (s : State) bay (name : W128), (s.bay bay).formed = true → let listed := ∃ e ∈ (s.bay bay).revoked, nameKey e.name = nameKey name
    (listed → exec (.objRevoke bay name 0) s = .next (serviceOk s bay "OBJ_REVOKE" 0)) ∧
    (¬ listed → 64 ≤ (s.bay bay).revoked.length → serviceFails (.objRevoke bay name 0) s bay "OBJ_REVOKE") ∧
    (¬ listed → (s.bay bay).revoked.length < 64 → (∀ a ∈ s.accs, a.ph ≠ .frame ∧ ∀ n, a.ph ≠ .name n) → (∀ f, probe s bay name = some f → frameState s bay f ≠ 1 ∧ frameBad s bay f = none) →
      ∃ (t : State) (e : Revoked), exec (.objRevoke bay name 0) s = .next t ∧ t.svc = (serviceOk s bay "OBJ_REVOKE" 0).svc ∧ (t.bay bay).revoked = (s.bay bay).revoked ++ [e] ∧ nameKey e.name = nameKey name ∧
        e.fv = (probe s bay name).isSome ∧ t.accs = s.accs ∧ (∀ f, probe s bay name = some f → e.frame = f ∧ e.gen = frameGen s bay f ∧ frameState t bay f = 4) ∧
        (probe s bay name = none → t.mem = s.mem)) ∧
    exec (.objRevoke bay name 1) s = .next (serviceOk (s.setBay bay { s.bay bay with revoked := (s.bay bay).revoked.filter (fun e => nameKey e.name != nameKey name) }) bay "OBJ_REVOKE" 0) ∧
    ∀ op, 1 < op → serviceFails (.objRevoke bay name op) s bay "OBJ_REVOKE") ∧
  (∀ (s : State) bay (vaddr paddr : W64) r, (s.bay bay).formed = true → (s.bay bay).pages.find? (fun e => e.2.vaddr == vaddr) = some r →
    exec (.pageRequest bay vaddr paddr) s = .next (serviceOk s bay "PAGE_REQUEST" r.1)) ∧
  (∀ (s : State) bay (vaddr paddr : W64), (s.bay bay).formed = true → (∀ e ∈ (s.bay bay).pages, e.2.vaddr ≠ vaddr) →
    let ok := vaddr.toNat % 65536 = 0 ∧ paddr.toNat % 65536 = 0 ∧ 4 ≤ (s.bay bay).ringB.toNat % 16 ∧ (s.bay bay).ringB.toNat % 16 ≤ 12 ∧ (s.bay bay).hdmBase ≤ paddr.toNat ∧
      paddr.toNat + 65536 ≤ (s.bay bay).hdmBase + (s.bay bay).hdmLen ∧ ∃ k, k < 64 ∧ mget? (s.bay bay).pages k = none
    (s.hUp = true → (mget s.services 0 {}).fence = true → exec (.pageRequest bay vaddr paddr) s = .next s) ∧
    (ok → s.hUp = false → ∃ (t : State) (rid : Nat), exec (.pageRequest bay vaddr paddr) s = .next t ∧ rid < 64 ∧ mget? (s.bay bay).pages rid = none ∧ t.svc = (serviceOk s bay "PAGE_REQUEST" rid).svc ∧
      t.bay bay = { s.bay bay with pages := mset (s.bay bay).pages rid { vaddr := vaddr, paddr := paddr, treq := s.t, inc := (s.bay bay).inc } } ∧ t.mem = s.mem ∧ t.out = s.out) ∧
    (ok → s.hUp = true → ServiceFree s → ∃ (t : State) (rid : Nat) (m : W512), exec (.pageRequest bay vaddr paddr) s = .next t ∧ rid < 64 ∧ mget? (s.bay bay).pages rid = none ∧ t.svc = (serviceOk s bay "PAGE_REQUEST" rid).svc ∧
      mget? (t.bay bay).pages rid = some { vaddr := vaddr, paddr := paddr, treq := s.t, inc := (s.bay bay).inc } ∧ (t.bay bay).ringC = (s.bay bay).ringC + 1 ∧
      m.toNat = 6 + 2 ^ 8 * (bay % 16) + 2 ^ 16 * (s.bay bay).inc.toNat + 2 ^ 32 * rid + 2 ^ 320 * (s.t % 2 ^ 64) + 2 ^ 384 * paddr.toNat + 2 ^ 448 * vaddr.toNat ∧
      t.readNat (0x100000000000 + ((s.bay bay).ringB.toNat / 4096 * 4096 + 64 * ((s.bay bay).ringC.toNat % 2 ^ ((s.bay bay).ringB.toNat % 16))) % 2 ^ 44) 64 = m.toNat) ∧
    (¬ ok → s.hUp = false ∨ ServiceFree s → serviceFails (.pageRequest bay vaddr paddr) s bay "PAGE_REQUEST")) ∧
  (∀ (s : State) bay (paddr : W64), (s.bay bay).formed = true → let p := paddr.toNat
    let leaseEnd := fun (i : Nat) => let l := mget s.leases (p / 64 + i) {}; max l.l0 (max l.l1 l.lr)
    let now := fun (i : Nat) => homeT s (homeOf s (64 * (p / 64 + i)))
    let waits := s.svcWait.filter (fun w => w != (bay, p))
    let own := (s.bay bay).hdmBase ≤ p ∧ p + 65536 ≤ (s.bay bay).hdmBase + (s.bay bay).hdmLen
    let left := fun (a : Access) => (∃ c b, a.ag = .orphan c b) ∧ ∃ d, a.ph = .flight d ∧ isPeer d = false ∧ canonPa s d / 65536 = p / 65536
    (p % 65536 ≠ 0 ∨ 2 ^ 39 ≤ p ∨ ¬ own → serviceFails (.pageRelease bay paddr) s bay "PAGE_RELEASE") ∧
    (p % 65536 = 0 → p < 2 ^ 39 → own → ∃ t : State, exec (.pageRelease bay paddr) s = .next t ∧ t.mem = s.mem ∧ t.accs = s.accs ∧
      (∀ c e, e ∈ (t.core c).copies → e ∈ (s.core c).copies ∧ (e.1 < p / 64 ∨ p / 64 + 1024 ≤ e.1)) ∧
      (∀ d g, (mget? (mget t.soffit d []) g).isSome → g < p / 64 ∨ p / 64 + 1024 ≤ g) ∧
      ((∀ i, i < 1024 → leaseEnd i ≤ now i) → (∀ a ∈ s.accs, ¬ left a) → t.svc = (serviceOk s bay "PAGE_RELEASE" 0).svc ∧ t.svcWait = waits) ∧
      ((∃ i, i < 1024 ∧ now i < leaseEnd i) ∨ (∃ a ∈ s.accs, left a) → t.svc = s.svc ∧ t.svcWait = waits ++ [(bay, p)]))) ∧
  (∀ (s : State) bay, (s.bay bay).formed = false → serviceFails (.objTables bay) s bay "OBJ_TABLES" ∧ (∀ w, serviceFails (.soffitSplit bay w) s bay "SOFFIT_SPLIT") ∧
    (∀ b n, serviceFails (.layoutBase bay b n) s bay "LAYOUT_BASE") ∧ (∀ i e, serviceFails (.exportSet bay i e) s bay "EXPORT_SET") ∧ (∀ g m, serviceFails (.mcgSet bay g m) s bay "MCG_SET") ∧
    (∀ d e, serviceFails (.eaveSet bay d e) s bay "EAVE_SET") ∧ (∀ p r, serviceFails (.walkerSet bay p r) s bay "WALKER_SET") ∧ ∀ n op, serviceFails (.objRevoke bay n op) s bay "OBJ_REVOKE")

/-- R139 to R155: decode and encode agree. The words of every well-formed instruction, laid out as bytes and followed by any bytes, decode to that
instruction, with every operand at every value, and to its length; numbered as the opcode table numbers them they decode to it too. -/
def Obligations.DecodeOfEncodeIsTheInstruction : Prop :=
  ∀ (i : Instr) (more : List Byte), i.wellFormed = true → encodeWords i ≠ [] →
    decodeBytes (wordBytes (encode i) ++ more) = some (i, 4 * (encode i).length) ∧
    decodeTableWord (32 * (encode i).length) (leNat (wordBytes (encode i))) = some i

/-- R139, R346: each word has one meaning. Words that decode, with no field set that must be zero, are the words the encoder gives the instruction,
and no such word is a prefix. -/
def Obligations.EncodeOfDecodeIsTheWords : Prop :=
  ∀ (w ad : Nat) (i : Instr), w < 2 ^ 32 → ad < 2 ^ 32 → decode w ad = .ok i →
    encodeWords i = (if twoWords w then [w, ad] else [w]) ∧ isPrefix w = false

/-- R153 to R155: words that the spec writes out decode to the instructions it writes them for; a word of an unassigned major, and one with a field
set that must be zero, decode to none. -/
def Obligations.ExampleWordsDecode : Prop :=
  decodeTableWord 32 0x2F8828C0 = some (.fadd 7 4 5 6) ∧
  decodeTableWord 64 0x5400004045901004 = some (.ld .b32 3 8 2 ⟨5, 1, 0, 0, 0, 0x40⟩) ∧
  decodeTableWord 64 0x200500005B88100A = some (.atomFaddF32 7 4 2 ⟨2, 0, 0, 0, 5, 0⟩) ∧
  decodeTableWord 64 0x0005001073881004 = some (.rst .b32 7 4 2 ⟨0, 0, 0, 0, 5, 0x10⟩) ∧
  decodeTableWord 32 0x6B80FFFE = some (.bra 7 0xFFFE) ∧ decodeTableWord 32 0xA3C7FFD3 = some (.uloop 7 7 0xFFD) ∧
  decodeTableWord 32 0xAFC01050 = some (.barinit 7 4 5) ∧ decodeTableWord 32 0xB5C10400 = some (.movsFromSys 7 1 1) ∧
  decodeTableWord 32 0xD1C11051 = some (.eretAns 7 4 5) ∧ decodeTableWord 32 0xABC12900 = some (.bjob 7 1 10 16) ∧
  decodeTableWord 32 0x0B824941 = some (.icmpNe 7 1 9 10) ∧ decodeTableWord 32 0x7C000000 = none ∧ decodeTableWord 32 0x74000000 = none ∧
  decodeTableWord 32 0x6F802000 = none

/-- The core and course with a quarter TLB that a fetch has refilled (R90). -/
def Refilled (s : State) (c k : Nat) : Option TlbE → State
  | some e => tlbRefill s c (k / 128) e
  | none => s

/-- R21 to R30, R139, R142, R145, R147, R148, R170, R309, R346, R402, R424: a step runs the instruction at the program counter, and leaves what it gives, without
the issue. A slice of a course executes, for the lanes at the PC it selects, the instruction of the words there; a batten job and a matrix sequencer
execute the one at theirs; an event of the schedule is executed as it stands. Prefixes come first, then the operation word, then the address word of
a two-word format. Words read are those of a copy of the core that may serve (R269), or the memory's, at the address the PC translates to, or at the PC itself in slot 511. A word that decodes, that its
issuer may execute, whose registers lie below VREGS, is an instruction. The choice of the next action is the model's own (log 5). Where words are read is the model's choice (log 8). -/
def Obligations.StepRunsTheDecodedInstruction : Prop :=
  -- what the chosen action comes to is executed
  (∀ (s s' : State) (i : Instr), act (takeAction s).1 (takeAction s).2 = .go s' i →
    (∀ t : State, exec i s' = .next t → step s = .next (endStep t)) ∧ (∀ r : Fault, exec i s' = .fault r → step s = .fault r) ∧
    (∀ r : Refusal, exec i s' = .refused r → step s = .refused r)) ∧
  (∀ (s s' : State), act (takeAction s).1 (takeAction s).2 = .stay s' → step s = .next (endStep s')) ∧
  (∀ (s : State) (dt : Nat) (a : Action) rest, s.agenda = (dt, a) :: rest → (takeAction s).2 = a ∧ (takeAction s).1.t = s.t + dt ∧ (takeAction s).1.agenda = rest) ∧
  (∀ (s : State) (i : Instr), isEvent i = true → act s (.event i) = .go s i) ∧
  -- a slice of a course
  (∀ (s : State) (c k sl : Nat) (x : Course) (pc cmin : W64) (fair : Bool) (ws : List W32) (rf : Option TlbE) (i : Instr),
    let s1 := { s with nextIss := s.nextIss + 1 }
    let s2 := Refilled s1 c k rf
    let p := splitWords ws {}
    let wide := isU i || isExchange i
    let mask := (List.range 8).filter (fun l => (wide || l / 4 == sl) && (x.lane l).isReady && (x.lane l).pc == pc)
    s.off = false → s.course? c k = some x → isActive s c k = true → x.yield = false → sl < 2 →
    selectPc x sl = some (pc, fair) → courseMin x = some cmin → (wide = true → pc = cmin ∨ fair = true) →
    (∀ l, fetchWords s1 (.thread c k l) x.prv pc 3 [] none = .words ws rf) → fateOf s2 (.course c k) p = .instr i → (∀ r ∈ x.issv, r.pc = pc → ∀ l ∈ r.mask, l ∉ mask) →
    scoreHeld s2 (.course c k) mask i (toPfx p.pre {}) = false → readErr s2 (.course c k) mask i (toPfx p.pre {}) = false → (∀ l ∈ mask, wordsOrdered s2 (.thread c k l) x.prv pc ws.length = true) →
    ∃ (s' : State) (iss : Issue) (y : Course), act s (.slice c k sl) = .go s' i ∧ CourseIssues s' iss c k y ∧ iss.mask = mask ∧ iss.pc = pc ∧
      iss.wpc = pc + BitVec.ofNat 64 (4 * p.pre.length) ∧ iss.next = pc + BitVec.ofNat 64 (4 * ws.length) ∧ iss.pfx = toPfx p.pre {} ∧
      some iss.word = p.op ∧ iss.id = s.nextIss ∧ sl ∈ iss.counts ∧ { y with wins := x.wins, sres := x.sres, lead := x.lead } = x ∧ SameMemory s s' ∧
      ((∀ a ∈ s.accs, ∀ l, a.ag = .thread c k l → a.kind ≠ .fetch ∧ (a.dest = .again → a.pc = pc)) → s'.accs = s.accs)) ∧
  -- a batten job
  (∀ (s : State) (c p : Nat) (j : Job) (ws : List W32) (rf : Option TlbE) (i : Instr),
    let s1 := { s with nextIss := s.nextIss + 1 }
    let q := splitWords ws {}
    s.off = false → s.job? c p = some j → (∀ a ∈ s.accs, a.ag = .job c p → a.kind ≠ .fetch ∧ a.dest ≠ .again ∧ a.stuck = false) →
    fetchWords s1 (.job c p) j.prv j.pc 3 [] none = .words ws rf → fateOf s1 (.job c p) q = .instr i →
    scoreHeld s1 (.job c p) [] i (toPfx q.pre {}) = false → readErr s1 (.job c p) [] i (toPfx q.pre {}) = false → wordsOrdered s1 (.job c p) j.prv j.pc ws.length = true →
    ∃ (s' : State) (iss : Issue), act s (.batten c p) = .go s' i ∧ JobIssues s' iss c p j ∧ iss.pc = j.pc ∧
      iss.next = j.pc + BitVec.ofNat 64 (4 * ws.length) ∧ iss.pfx = toPfx q.pre {} ∧ some iss.word = q.op ∧ SameMemory s s' ∧ s'.accs = s.accs) ∧
  -- a matrix sequencer
  (∀ (s : State) (c b : Nat) (x : Seq) (ws : List W32) (rf : Option TlbE) (i : Instr),
    let s1 := { s with nextIss := s.nextIss + 1 }
    let q := splitWords ws {}
    s.off = false → s.seq? c b = some x → x.run = .running → x.stopped = false → x.stop = none → (∀ o ∈ x.ops, o.kind ≠ .mend) →
    (∀ a ∈ s.accs, a.ag = .seq c b → a.kind ≠ .fetch ∧ a.dest ≠ .again ∧ a.stuck = false) →
    fetchWords s1 (.seq c b) (prvOf s (.seq c b)) x.pc 3 [] none = .words ws rf → fateOf s1 (.seq c b) q = .instr i →
    scoreHeld s1 (.seq c b) [] i (toPfx q.pre {}) = false → readErr s1 (.seq c b) [] i (toPfx q.pre {}) = false → wordsOrdered s1 (.seq c b) (prvOf s (.seq c b)) x.pc ws.length = true →
    ∃ (s' : State) (iss : Issue), act s (.matrix c b) = .go s' i ∧ SeqIssues s' iss c b x ∧ iss.pc = x.pc ∧
      iss.next = x.pc + BitVec.ofNat 64 (4 * ws.length) ∧ some iss.word = q.op ∧ SameMemory s s' ∧ s'.accs = s.accs) ∧
  -- the words of an issue
  (∀ (s : State) (ag : Agent) (prv : Bool) (pc : W64) (w : W32) (rf : Option TlbE), fetchWord s ag prv pc = .word w rf → isPrefix w.toNat = false →
    (twoWords w.toNat = false → fetchWords s ag prv pc 3 [] none = .words [w] rf ∧ splitWords [w] {} = { pre := [], op := some w, ad := 0 }) ∧
    (∀ (ad : W32) (rf' : Option TlbE), twoWords w.toNat = true → fetchWord s ag prv (pc + 4) = .word ad rf' →
      fetchWords s ag prv pc 3 [] none = .words [w, ad] (rf.or rf') ∧ splitWords [w, ad] {} = { pre := [], op := some w, ad := ad })) ∧
  -- a word at the PC: in slot 511 the address as it stands, elsewhere the page's leaf
  (∀ (s : State) (c l : Nat) (prv : Bool) (pc : W64) (x : Target), target? s pc.toNat = some x → x.tier ≠ .pool → x.tier ≠ .host →
    badSector s (canonPa s pc.toNat / 32) = none → s.stages = [] → servingCopy s c (granOf s pc.toNat) = none →
    fetchWord s (.thread c 511 l) prv pc = .word (BitVec.ofNat 32 (s.readNat (canonPa s pc.toNat) 4)) none) ∧
  (∀ (s : State) (ag : Agent) (prv : Bool) (pc : W64) (e : TlbE) (fill : Bool) (pa : Nat), untranslated ag = false → classAddr pc = .ordinary →
    tlbFind s ((agentCore? ag).getD 0) (quarter? ag) pc.toNat = some (e, fill) → leafCheck s e.z e.leaf pc.toNat .fetch prv = .ok pa →
    (badSector s (canonPa s pa / 32) = none → s.stages = [] → servingCopy s ((agentCore? ag).getD 0) (granOf s pa) = none →
      fetchWord s ag prv pc = .word (BitVec.ofNat 32 (s.readNat (canonPa s pa) 4)) (if fill then some e else none)) ∧
    -- a copy that may serve serves it, or the home all the same: which, is open (R270; log 8)
    (∀ cp, servingCopy s ((agentCore? ag).getD 0) (granOf s pa) = some cp → isPeer pa = false → badSector s (canonPa s pa / 32) = none → s.stages = [] →
      ∃ w : W32, fetchWord s ag prv pc = .word w (if fill then some e else none) ∧
        (w = BitVec.ofNat 32 (leNum ((cp.data.drop (pa % 64)).take 4)) ∨ w = BitVec.ofNat 32 (s.readNat (canonPa s pa) 4)))) ∧
  -- a word of another package is asked for, of a peer that is not valid it is not (R402)
  (∀ (s : State) (ag : Agent) (prv : Bool) (pc : W64), untranslated ag = false → classAddr pc = .peer →
    (peerValid s (peerOf pc.toNat) = false → ∃ r : FaultRec, fetchWord s ag prv pc = .bad r ∧ r.code = 0x30 ∧ r.loc = BitVec.ofNat 128 pc.toNat ∧ r.aux.toNat / 2 ^ 56 = 1) ∧
    (peerValid s (peerOf pc.toNat) = true → servingCopy s ((agentCore? ag).getD 0) (granOf s pc.toNat) = none → farWord s ag pc = none → fetchWord s ag prv pc = .far pc)) ∧
  -- no core issues while core islands are held off (R424)
  (∀ (s : State), s.off = true → (∀ c k sl, act s (.slice c k sl) = .stay s) ∧ (∀ c p, act s (.batten c p) = .stay s) ∧ ∀ c b, act s (.matrix c b) = .stay s) ∧
  -- what a decoded word is
  (∀ (s : State) (who : Issuer) (w ad : W32) (i : Instr), decode w.toNat ad.toNat = .ok i → i.wellFormed = true → rowAllows who (agentRow i) = true →
    (privileged i = true → prvOf s who = true) →
    (∀ u ∈ regUses i ++ movsUses i, u.r % u.align = 0 ∧ (u.file = .v → u.r + u.n - 1 ≤ vregsOf s who) ∧
      (∀ c p, who = .job c p → u.file = .s → u.r + u.n ≤ 32)) →
    fateOf s who { pre := [], op := some w, ad := ad } = .instr i)

/-- R4, R84: memory. It stands in one form (rising addresses, no byte that reads as an unlisted one), and every step keeps it so and leaves no issue
behind. The form is the model's own (log 1). -/
def Obligations.EveryStepKeepsMemoryCanonical : Prop :=
  ∀ s t : State, memWf s.mem = true → step s = .next t → memWf t.mem = true ∧ t.issue = none

/-- R337, R340, R345: no step stops. Whatever the state, the next step gives a next state: the faults of the hardware are records, and states it
goes on from. That the model has no stop but that of a word which no agent issues rests on its own choices (log 7, log 73). -/
def Obligations.NoStepStops : Prop :=
∀ s : State, Safe s

/-- R63, R295, R377, R402, R422, R425 to R427: what reset leaves. The package is in state RESET, with its timeouts and power cap at the values the
spec gives where none is set; no bay is formed, no block, course, batten job, tile or future entry is held, and nothing is in flight; the hot
mark of every bay is 95. That memory is in its one form, and reads 0, is the model's choice (log 1); so is every other value that the spec does not give (log 2). -/
def Obligations.ResetState : Prop :=
  State.reset.st = .reset ∧ State.reset.fto = 2000000 ∧ State.reset.pl = 10000 ∧ State.reset.pcap = 2600 ∧
  State.reset.hTo = 1000000 ∧ State.reset.mTo = 1000000 ∧
  (∀ b, (State.reset.bay b).formed = false ∧ (State.reset.bay b).hot = 95) ∧
  (∀ c k, State.reset.course? c k = none ∧ State.reset.block? c k = none ∧ State.reset.job? c k = none) ∧
  (∀ c, (State.reset.core c).futs = [] ∧ (State.reset.core c).tiles = [] ∧ (State.reset.core c).mq = [] ∧ (State.reset.core c).recs = []) ∧
  State.reset.accs = [] ∧ State.reset.out = [] ∧ State.reset.issue = none ∧ memWf State.reset.mem = true ∧ (∀ a, State.reset.readByte a = 0)
end

