-- ==== Sys2Proof/Laws/Maps.lean ====
section
/-! SUPPORT. Read after write for the sparse tables. -/

namespace Sys2Proof.Machine

@[simp] theorem mget?_nil {α : Type} (n : Nat) : mget? ([] : Map α) n = none := rfl

@[simp] theorem mget?_mset_self {α : Type} (m : Map α) (n : Nat) (x : α) : mget? (mset m n x) n = some x := by
  induction m with
  | nil => simp [mset, mget?]
  | cons e m ih =>
    obtain ⟨k, v⟩ := e
    by_cases h : k = n
    · simp [mset, h, mget?]
    · by_cases h2 : n < k
      · simp [mset, h, h2, mget?]
      · simp [mset, h, h2, mget?, ih]

theorem mget?_mset_ne {α : Type} (m : Map α) {n k : Nat} (x : α) (h : k ≠ n) : mget? (mset m n x) k = mget? m k := by
  induction m with
  | nil => simp [mset, mget?, Ne.symm h]
  | cons e m ih =>
    obtain ⟨j, v⟩ := e
    by_cases h1 : j = n
    · subst h1; simp [mset, mget?, Ne.symm h]
    · by_cases h2 : n < j
      · simp [mset, h1, h2, mget?, Ne.symm h]
      · rw [mset, if_neg h1, if_neg h2]; simp [mget?, ih]

@[simp] theorem mget_mset_self {α : Type} (m : Map α) (n : Nat) (x d : α) : mget (mset m n x) n d = x := by
  simp [mget]

theorem mget_mset_ne {α : Type} (m : Map α) {n k : Nat} (x d : α) (h : k ≠ n) : mget (mset m n x) k d = mget m k d := by
  simp [mget, mget?_mset_ne m x h]

theorem mget_mset {α : Type} (m : Map α) (n k : Nat) (x d : α) :
    mget (mset m n x) k d = if k = n then x else mget m k d := by
  by_cases h : k = n
  · simp [h]
  · simp [h, mget_mset_ne m x d h]

end Sys2Proof.Machine
end

