-- ==== Sys2Proof/Laws/State.lean ====
section
/-! SUPPORT. One lemma for each field and each update of a record: what an update leaves, and what it sets. -/

namespace Sys2Proof.Machine

/-! ## The package: a core, bay or slice replaced; memory written -/

@[simp] theorem State.setCore_t (s : State) (c : Nat) (x : Core) : (s.setCore c x).t = s.t := rfl
@[simp] theorem State.setCore_skew (s : State) (c : Nat) (x : Core) : (s.setCore c x).skew = s.skew := rfl
@[simp] theorem State.setCore_safe (s : State) (c : Nat) (x : Core) : (s.setCore c x).safe = s.safe := rfl
@[simp] theorem State.setCore_st (s : State) (c : Nat) (x : Core) : (s.setCore c x).st = s.st := rfl
@[simp] theorem State.setCore_tripFrom (s : State) (c : Nat) (x : Core) : (s.setCore c x).tripFrom = s.tripFrom := rfl
@[simp] theorem State.setCore_pkgid (s : State) (c : Nat) (x : Core) : (s.setCore c x).pkgid = s.pkgid := rfl
@[simp] theorem State.setCore_members (s : State) (c : Nat) (x : Core) : (s.setCore c x).members = s.members := rfl
@[simp] theorem State.setCore_fto (s : State) (c : Nat) (x : Core) : (s.setCore c x).fto = s.fto := rfl
@[simp] theorem State.setCore_pl (s : State) (c : Nat) (x : Core) : (s.setCore c x).pl = s.pl := rfl
@[simp] theorem State.setCore_pcap (s : State) (c : Nat) (x : Core) : (s.setCore c x).pcap = s.pcap := rfl
@[simp] theorem State.setCore_power (s : State) (c : Nat) (x : Core) : (s.setCore c x).power = s.power := rfl
@[simp] theorem State.setCore_powerAt (s : State) (c : Nat) (x : Core) : (s.setCore c x).powerAt = s.powerAt := rfl
@[simp] theorem State.setCore_colhot (s : State) (c : Nat) (x : Core) : (s.setCore c x).colhot = s.colhot := rfl
@[simp] theorem State.setCore_sensors (s : State) (c : Nat) (x : Core) : (s.setCore c x).sensors = s.sensors := rfl
@[simp] theorem State.setCore_sensedAt (s : State) (c : Nat) (x : Core) : (s.setCore c x).sensedAt = s.sensedAt := rfl
@[simp] theorem State.setCore_booterr (s : State) (c : Nat) (x : Core) : (s.setCore c x).booterr = s.booterr := rfl
@[simp] theorem State.setCore_cmd (s : State) (c : Nat) (x : Core) : (s.setCore c x).cmd = s.cmd := rfl
@[simp] theorem State.setCore_ans (s : State) (c : Nat) (x : Core) : (s.setCore c x).ans = s.ans := rfl
@[simp] theorem State.setCore_loaded (s : State) (c : Nat) (x : Core) : (s.setCore c x).loaded = s.loaded := rfl
@[simp] theorem State.setCore_report (s : State) (c : Nat) (x : Core) : (s.setCore c x).report = s.report := rfl
@[simp] theorem State.setCore_flash (s : State) (c : Nat) (x : Core) : (s.setCore c x).flash = s.flash := rfl
@[simp] theorem State.setCore_cols (s : State) (c : Nat) (x : Core) : (s.setCore c x).cols = s.cols := rfl
@[simp] theorem State.setCore_islands (s : State) (c : Nat) (x : Core) : (s.setCore c x).islands = s.islands := rfl
@[simp] theorem State.setCore_off (s : State) (c : Nat) (x : Core) : (s.setCore c x).off = s.off := rfl
@[simp] theorem State.setCore_banked (s : State) (c : Nat) (x : Core) : (s.setCore c x).banked = s.banked := rfl
@[simp] theorem State.setCore_hUp (s : State) (c : Nat) (x : Core) : (s.setCore c x).hUp = s.hUp := rfl
@[simp] theorem State.setCore_mUp (s : State) (c : Nat) (x : Core) : (s.setCore c x).mUp = s.mUp := rfl
@[simp] theorem State.setCore_hTo (s : State) (c : Nat) (x : Core) : (s.setCore c x).hTo = s.hTo := rfl
@[simp] theorem State.setCore_mTo (s : State) (c : Nat) (x : Core) : (s.setCore c x).mTo = s.mTo := rfl
@[simp] theorem State.setCore_planes (s : State) (c : Nat) (x : Core) : (s.setCore c x).planes = s.planes := rfl
@[simp] theorem State.setCore_heldPkts (s : State) (c : Nat) (x : Core) : (s.setCore c x).heldPkts = s.heldPkts := rfl
@[simp] theorem State.setCore_peerInc (s : State) (c : Nat) (x : Core) : (s.setCore c x).peerInc = s.peerInc := rfl
@[simp] theorem State.setCore_mcg (s : State) (c : Nat) (x : Core) : (s.setCore c x).mcg = s.mcg := rfl
@[simp] theorem State.setCore_ridges (s : State) (c : Nat) (x : Core) : (s.setCore c x).ridges = s.ridges := rfl
@[simp] theorem State.setCore_stages (s : State) (c : Nat) (x : Core) : (s.setCore c x).stages = s.stages := rfl
@[simp] theorem State.setCore_txns (s : State) (c : Nat) (x : Core) : (s.setCore c x).txns = s.txns := rfl
@[simp] theorem State.setCore_mcsts (s : State) (c : Nat) (x : Core) : (s.setCore c x).mcsts = s.mcsts := rfl
@[simp] theorem State.setCore_proxies (s : State) (c : Nat) (x : Core) : (s.setCore c x).proxies = s.proxies := rfl
@[simp] theorem State.setCore_peerMon (s : State) (c : Nat) (x : Core) : (s.setCore c x).peerMon = s.peerMon := rfl
@[simp] theorem State.setCore_out (s : State) (c : Nat) (x : Core) : (s.setCore c x).out = s.out := rfl
@[simp] theorem State.setCore_svc (s : State) (c : Nat) (x : Core) : (s.setCore c x).svc = s.svc := rfl
@[simp] theorem State.setCore_svcWait (s : State) (c : Nat) (x : Core) : (s.setCore c x).svcWait = s.svcWait := rfl
@[simp] theorem State.setCore_bays (s : State) (c : Nat) (x : Core) : (s.setCore c x).bays = s.bays := rfl
@[simp] theorem State.setCore_slices (s : State) (c : Nat) (x : Core) : (s.setCore c x).slices = s.slices := rfl
@[simp] theorem State.setCore_leases (s : State) (c : Nat) (x : Core) : (s.setCore c x).leases = s.leases := rfl
@[simp] theorem State.setCore_mem (s : State) (c : Nat) (x : Core) : (s.setCore c x).mem = s.mem := rfl
@[simp] theorem State.setCore_undef (s : State) (c : Nat) (x : Core) : (s.setCore c x).undef = s.undef := rfl
@[simp] theorem State.setCore_hist (s : State) (c : Nat) (x : Core) : (s.setCore c x).hist = s.hist := rfl
@[simp] theorem State.setCore_bad (s : State) (c : Nat) (x : Core) : (s.setCore c x).bad = s.bad := rfl
@[simp] theorem State.setCore_soffit (s : State) (c : Nat) (x : Core) : (s.setCore c x).soffit = s.soffit := rfl
@[simp] theorem State.setCore_services (s : State) (c : Nat) (x : Core) : (s.setCore c x).services = s.services := rfl
@[simp] theorem State.setCore_hostHor (s : State) (c : Nat) (x : Core) : (s.setCore c x).hostHor = s.hostHor := rfl
@[simp] theorem State.setCore_accs (s : State) (c : Nat) (x : Core) : (s.setCore c x).accs = s.accs := rfl
@[simp] theorem State.setCore_wrote (s : State) (c : Nat) (x : Core) : (s.setCore c x).wrote = s.wrote := rfl
@[simp] theorem State.setCore_seen (s : State) (c : Nat) (x : Core) : (s.setCore c x).seen = s.seen := rfl
@[simp] theorem State.setCore_nextAcc (s : State) (c : Nat) (x : Core) : (s.setCore c x).nextAcc = s.nextAcc := rfl
@[simp] theorem State.setCore_nextIss (s : State) (c : Nat) (x : Core) : (s.setCore c x).nextIss = s.nextIss := rfl
@[simp] theorem State.setCore_nextTag (s : State) (c : Nat) (x : Core) : (s.setCore c x).nextTag = s.nextTag := rfl
@[simp] theorem State.setCore_stepNo (s : State) (c : Nat) (x : Core) : (s.setCore c x).stepNo = s.stepNo := rfl
@[simp] theorem State.setCore_sched (s : State) (c : Nat) (x : Core) : (s.setCore c x).sched = s.sched := rfl
@[simp] theorem State.setCore_free (s : State) (c : Nat) (x : Core) : (s.setCore c x).free = s.free := rfl
@[simp] theorem State.setCore_agenda (s : State) (c : Nat) (x : Core) : (s.setCore c x).agenda = s.agenda := rfl
@[simp] theorem State.setCore_issue (s : State) (c : Nat) (x : Core) : (s.setCore c x).issue = s.issue := rfl
@[simp] theorem State.setCore_looks (s : State) (c : Nat) (x : Core) : (s.setCore c x).looks = s.looks := rfl
@[simp] theorem State.setCore_cores (s : State) (c : Nat) (x : Core) : (s.setCore c x).cores = mset s.cores c x := rfl

@[simp] theorem State.setBay_t (s : State) (b : Nat) (x : Bay) : (s.setBay b x).t = s.t := rfl
@[simp] theorem State.setBay_skew (s : State) (b : Nat) (x : Bay) : (s.setBay b x).skew = s.skew := rfl
@[simp] theorem State.setBay_safe (s : State) (b : Nat) (x : Bay) : (s.setBay b x).safe = s.safe := rfl
@[simp] theorem State.setBay_st (s : State) (b : Nat) (x : Bay) : (s.setBay b x).st = s.st := rfl
@[simp] theorem State.setBay_tripFrom (s : State) (b : Nat) (x : Bay) : (s.setBay b x).tripFrom = s.tripFrom := rfl
@[simp] theorem State.setBay_pkgid (s : State) (b : Nat) (x : Bay) : (s.setBay b x).pkgid = s.pkgid := rfl
@[simp] theorem State.setBay_members (s : State) (b : Nat) (x : Bay) : (s.setBay b x).members = s.members := rfl
@[simp] theorem State.setBay_fto (s : State) (b : Nat) (x : Bay) : (s.setBay b x).fto = s.fto := rfl
@[simp] theorem State.setBay_pl (s : State) (b : Nat) (x : Bay) : (s.setBay b x).pl = s.pl := rfl
@[simp] theorem State.setBay_pcap (s : State) (b : Nat) (x : Bay) : (s.setBay b x).pcap = s.pcap := rfl
@[simp] theorem State.setBay_power (s : State) (b : Nat) (x : Bay) : (s.setBay b x).power = s.power := rfl
@[simp] theorem State.setBay_powerAt (s : State) (b : Nat) (x : Bay) : (s.setBay b x).powerAt = s.powerAt := rfl
@[simp] theorem State.setBay_colhot (s : State) (b : Nat) (x : Bay) : (s.setBay b x).colhot = s.colhot := rfl
@[simp] theorem State.setBay_sensors (s : State) (b : Nat) (x : Bay) : (s.setBay b x).sensors = s.sensors := rfl
@[simp] theorem State.setBay_sensedAt (s : State) (b : Nat) (x : Bay) : (s.setBay b x).sensedAt = s.sensedAt := rfl
@[simp] theorem State.setBay_booterr (s : State) (b : Nat) (x : Bay) : (s.setBay b x).booterr = s.booterr := rfl
@[simp] theorem State.setBay_cmd (s : State) (b : Nat) (x : Bay) : (s.setBay b x).cmd = s.cmd := rfl
@[simp] theorem State.setBay_ans (s : State) (b : Nat) (x : Bay) : (s.setBay b x).ans = s.ans := rfl
@[simp] theorem State.setBay_loaded (s : State) (b : Nat) (x : Bay) : (s.setBay b x).loaded = s.loaded := rfl
@[simp] theorem State.setBay_report (s : State) (b : Nat) (x : Bay) : (s.setBay b x).report = s.report := rfl
@[simp] theorem State.setBay_flash (s : State) (b : Nat) (x : Bay) : (s.setBay b x).flash = s.flash := rfl
@[simp] theorem State.setBay_cols (s : State) (b : Nat) (x : Bay) : (s.setBay b x).cols = s.cols := rfl
@[simp] theorem State.setBay_islands (s : State) (b : Nat) (x : Bay) : (s.setBay b x).islands = s.islands := rfl
@[simp] theorem State.setBay_off (s : State) (b : Nat) (x : Bay) : (s.setBay b x).off = s.off := rfl
@[simp] theorem State.setBay_banked (s : State) (b : Nat) (x : Bay) : (s.setBay b x).banked = s.banked := rfl
@[simp] theorem State.setBay_hUp (s : State) (b : Nat) (x : Bay) : (s.setBay b x).hUp = s.hUp := rfl
@[simp] theorem State.setBay_mUp (s : State) (b : Nat) (x : Bay) : (s.setBay b x).mUp = s.mUp := rfl
@[simp] theorem State.setBay_hTo (s : State) (b : Nat) (x : Bay) : (s.setBay b x).hTo = s.hTo := rfl
@[simp] theorem State.setBay_mTo (s : State) (b : Nat) (x : Bay) : (s.setBay b x).mTo = s.mTo := rfl
@[simp] theorem State.setBay_planes (s : State) (b : Nat) (x : Bay) : (s.setBay b x).planes = s.planes := rfl
@[simp] theorem State.setBay_heldPkts (s : State) (b : Nat) (x : Bay) : (s.setBay b x).heldPkts = s.heldPkts := rfl
@[simp] theorem State.setBay_peerInc (s : State) (b : Nat) (x : Bay) : (s.setBay b x).peerInc = s.peerInc := rfl
@[simp] theorem State.setBay_mcg (s : State) (b : Nat) (x : Bay) : (s.setBay b x).mcg = s.mcg := rfl
@[simp] theorem State.setBay_ridges (s : State) (b : Nat) (x : Bay) : (s.setBay b x).ridges = s.ridges := rfl
@[simp] theorem State.setBay_stages (s : State) (b : Nat) (x : Bay) : (s.setBay b x).stages = s.stages := rfl
@[simp] theorem State.setBay_txns (s : State) (b : Nat) (x : Bay) : (s.setBay b x).txns = s.txns := rfl
@[simp] theorem State.setBay_mcsts (s : State) (b : Nat) (x : Bay) : (s.setBay b x).mcsts = s.mcsts := rfl
@[simp] theorem State.setBay_proxies (s : State) (b : Nat) (x : Bay) : (s.setBay b x).proxies = s.proxies := rfl
@[simp] theorem State.setBay_peerMon (s : State) (b : Nat) (x : Bay) : (s.setBay b x).peerMon = s.peerMon := rfl
@[simp] theorem State.setBay_out (s : State) (b : Nat) (x : Bay) : (s.setBay b x).out = s.out := rfl
@[simp] theorem State.setBay_svc (s : State) (b : Nat) (x : Bay) : (s.setBay b x).svc = s.svc := rfl
@[simp] theorem State.setBay_svcWait (s : State) (b : Nat) (x : Bay) : (s.setBay b x).svcWait = s.svcWait := rfl
@[simp] theorem State.setBay_cores (s : State) (b : Nat) (x : Bay) : (s.setBay b x).cores = s.cores := rfl
@[simp] theorem State.setBay_slices (s : State) (b : Nat) (x : Bay) : (s.setBay b x).slices = s.slices := rfl
@[simp] theorem State.setBay_leases (s : State) (b : Nat) (x : Bay) : (s.setBay b x).leases = s.leases := rfl
@[simp] theorem State.setBay_mem (s : State) (b : Nat) (x : Bay) : (s.setBay b x).mem = s.mem := rfl
@[simp] theorem State.setBay_undef (s : State) (b : Nat) (x : Bay) : (s.setBay b x).undef = s.undef := rfl
@[simp] theorem State.setBay_hist (s : State) (b : Nat) (x : Bay) : (s.setBay b x).hist = s.hist := rfl
@[simp] theorem State.setBay_bad (s : State) (b : Nat) (x : Bay) : (s.setBay b x).bad = s.bad := rfl
@[simp] theorem State.setBay_soffit (s : State) (b : Nat) (x : Bay) : (s.setBay b x).soffit = s.soffit := rfl
@[simp] theorem State.setBay_services (s : State) (b : Nat) (x : Bay) : (s.setBay b x).services = s.services := rfl
@[simp] theorem State.setBay_hostHor (s : State) (b : Nat) (x : Bay) : (s.setBay b x).hostHor = s.hostHor := rfl
@[simp] theorem State.setBay_accs (s : State) (b : Nat) (x : Bay) : (s.setBay b x).accs = s.accs := rfl
@[simp] theorem State.setBay_wrote (s : State) (b : Nat) (x : Bay) : (s.setBay b x).wrote = s.wrote := rfl
@[simp] theorem State.setBay_seen (s : State) (b : Nat) (x : Bay) : (s.setBay b x).seen = s.seen := rfl
@[simp] theorem State.setBay_nextAcc (s : State) (b : Nat) (x : Bay) : (s.setBay b x).nextAcc = s.nextAcc := rfl
@[simp] theorem State.setBay_nextIss (s : State) (b : Nat) (x : Bay) : (s.setBay b x).nextIss = s.nextIss := rfl
@[simp] theorem State.setBay_nextTag (s : State) (b : Nat) (x : Bay) : (s.setBay b x).nextTag = s.nextTag := rfl
@[simp] theorem State.setBay_stepNo (s : State) (b : Nat) (x : Bay) : (s.setBay b x).stepNo = s.stepNo := rfl
@[simp] theorem State.setBay_sched (s : State) (b : Nat) (x : Bay) : (s.setBay b x).sched = s.sched := rfl
@[simp] theorem State.setBay_free (s : State) (b : Nat) (x : Bay) : (s.setBay b x).free = s.free := rfl
@[simp] theorem State.setBay_agenda (s : State) (b : Nat) (x : Bay) : (s.setBay b x).agenda = s.agenda := rfl
@[simp] theorem State.setBay_issue (s : State) (b : Nat) (x : Bay) : (s.setBay b x).issue = s.issue := rfl
@[simp] theorem State.setBay_looks (s : State) (b : Nat) (x : Bay) : (s.setBay b x).looks = s.looks := rfl
@[simp] theorem State.setBay_bays (s : State) (b : Nat) (x : Bay) : (s.setBay b x).bays = mset s.bays b x := rfl

@[simp] theorem State.updSlice_t (s : State) (n : Nat) (f : Slice → Slice) : (s.updSlice n f).t = s.t := rfl
@[simp] theorem State.updSlice_skew (s : State) (n : Nat) (f : Slice → Slice) : (s.updSlice n f).skew = s.skew := rfl
@[simp] theorem State.updSlice_safe (s : State) (n : Nat) (f : Slice → Slice) : (s.updSlice n f).safe = s.safe := rfl
@[simp] theorem State.updSlice_st (s : State) (n : Nat) (f : Slice → Slice) : (s.updSlice n f).st = s.st := rfl
@[simp] theorem State.updSlice_tripFrom (s : State) (n : Nat) (f : Slice → Slice) : (s.updSlice n f).tripFrom = s.tripFrom := rfl
@[simp] theorem State.updSlice_pkgid (s : State) (n : Nat) (f : Slice → Slice) : (s.updSlice n f).pkgid = s.pkgid := rfl
@[simp] theorem State.updSlice_members (s : State) (n : Nat) (f : Slice → Slice) : (s.updSlice n f).members = s.members := rfl
@[simp] theorem State.updSlice_fto (s : State) (n : Nat) (f : Slice → Slice) : (s.updSlice n f).fto = s.fto := rfl
@[simp] theorem State.updSlice_pl (s : State) (n : Nat) (f : Slice → Slice) : (s.updSlice n f).pl = s.pl := rfl
@[simp] theorem State.updSlice_pcap (s : State) (n : Nat) (f : Slice → Slice) : (s.updSlice n f).pcap = s.pcap := rfl
@[simp] theorem State.updSlice_power (s : State) (n : Nat) (f : Slice → Slice) : (s.updSlice n f).power = s.power := rfl
@[simp] theorem State.updSlice_powerAt (s : State) (n : Nat) (f : Slice → Slice) : (s.updSlice n f).powerAt = s.powerAt := rfl
@[simp] theorem State.updSlice_colhot (s : State) (n : Nat) (f : Slice → Slice) : (s.updSlice n f).colhot = s.colhot := rfl
@[simp] theorem State.updSlice_sensors (s : State) (n : Nat) (f : Slice → Slice) : (s.updSlice n f).sensors = s.sensors := rfl
@[simp] theorem State.updSlice_sensedAt (s : State) (n : Nat) (f : Slice → Slice) : (s.updSlice n f).sensedAt = s.sensedAt := rfl
@[simp] theorem State.updSlice_booterr (s : State) (n : Nat) (f : Slice → Slice) : (s.updSlice n f).booterr = s.booterr := rfl
@[simp] theorem State.updSlice_cmd (s : State) (n : Nat) (f : Slice → Slice) : (s.updSlice n f).cmd = s.cmd := rfl
@[simp] theorem State.updSlice_ans (s : State) (n : Nat) (f : Slice → Slice) : (s.updSlice n f).ans = s.ans := rfl
@[simp] theorem State.updSlice_loaded (s : State) (n : Nat) (f : Slice → Slice) : (s.updSlice n f).loaded = s.loaded := rfl
@[simp] theorem State.updSlice_report (s : State) (n : Nat) (f : Slice → Slice) : (s.updSlice n f).report = s.report := rfl
@[simp] theorem State.updSlice_flash (s : State) (n : Nat) (f : Slice → Slice) : (s.updSlice n f).flash = s.flash := rfl
@[simp] theorem State.updSlice_cols (s : State) (n : Nat) (f : Slice → Slice) : (s.updSlice n f).cols = s.cols := rfl
@[simp] theorem State.updSlice_islands (s : State) (n : Nat) (f : Slice → Slice) : (s.updSlice n f).islands = s.islands := rfl
@[simp] theorem State.updSlice_off (s : State) (n : Nat) (f : Slice → Slice) : (s.updSlice n f).off = s.off := rfl
@[simp] theorem State.updSlice_banked (s : State) (n : Nat) (f : Slice → Slice) : (s.updSlice n f).banked = s.banked := rfl
@[simp] theorem State.updSlice_hUp (s : State) (n : Nat) (f : Slice → Slice) : (s.updSlice n f).hUp = s.hUp := rfl
@[simp] theorem State.updSlice_mUp (s : State) (n : Nat) (f : Slice → Slice) : (s.updSlice n f).mUp = s.mUp := rfl
@[simp] theorem State.updSlice_hTo (s : State) (n : Nat) (f : Slice → Slice) : (s.updSlice n f).hTo = s.hTo := rfl
@[simp] theorem State.updSlice_mTo (s : State) (n : Nat) (f : Slice → Slice) : (s.updSlice n f).mTo = s.mTo := rfl
@[simp] theorem State.updSlice_planes (s : State) (n : Nat) (f : Slice → Slice) : (s.updSlice n f).planes = s.planes := rfl
@[simp] theorem State.updSlice_heldPkts (s : State) (n : Nat) (f : Slice → Slice) : (s.updSlice n f).heldPkts = s.heldPkts := rfl
@[simp] theorem State.updSlice_peerInc (s : State) (n : Nat) (f : Slice → Slice) : (s.updSlice n f).peerInc = s.peerInc := rfl
@[simp] theorem State.updSlice_mcg (s : State) (n : Nat) (f : Slice → Slice) : (s.updSlice n f).mcg = s.mcg := rfl
@[simp] theorem State.updSlice_ridges (s : State) (n : Nat) (f : Slice → Slice) : (s.updSlice n f).ridges = s.ridges := rfl
@[simp] theorem State.updSlice_stages (s : State) (n : Nat) (f : Slice → Slice) : (s.updSlice n f).stages = s.stages := rfl
@[simp] theorem State.updSlice_txns (s : State) (n : Nat) (f : Slice → Slice) : (s.updSlice n f).txns = s.txns := rfl
@[simp] theorem State.updSlice_mcsts (s : State) (n : Nat) (f : Slice → Slice) : (s.updSlice n f).mcsts = s.mcsts := rfl
@[simp] theorem State.updSlice_proxies (s : State) (n : Nat) (f : Slice → Slice) : (s.updSlice n f).proxies = s.proxies := rfl
@[simp] theorem State.updSlice_peerMon (s : State) (n : Nat) (f : Slice → Slice) : (s.updSlice n f).peerMon = s.peerMon := rfl
@[simp] theorem State.updSlice_out (s : State) (n : Nat) (f : Slice → Slice) : (s.updSlice n f).out = s.out := rfl
@[simp] theorem State.updSlice_svc (s : State) (n : Nat) (f : Slice → Slice) : (s.updSlice n f).svc = s.svc := rfl
@[simp] theorem State.updSlice_svcWait (s : State) (n : Nat) (f : Slice → Slice) : (s.updSlice n f).svcWait = s.svcWait := rfl
@[simp] theorem State.updSlice_bays (s : State) (n : Nat) (f : Slice → Slice) : (s.updSlice n f).bays = s.bays := rfl
@[simp] theorem State.updSlice_cores (s : State) (n : Nat) (f : Slice → Slice) : (s.updSlice n f).cores = s.cores := rfl
@[simp] theorem State.updSlice_leases (s : State) (n : Nat) (f : Slice → Slice) : (s.updSlice n f).leases = s.leases := rfl
@[simp] theorem State.updSlice_mem (s : State) (n : Nat) (f : Slice → Slice) : (s.updSlice n f).mem = s.mem := rfl
@[simp] theorem State.updSlice_undef (s : State) (n : Nat) (f : Slice → Slice) : (s.updSlice n f).undef = s.undef := rfl
@[simp] theorem State.updSlice_hist (s : State) (n : Nat) (f : Slice → Slice) : (s.updSlice n f).hist = s.hist := rfl
@[simp] theorem State.updSlice_bad (s : State) (n : Nat) (f : Slice → Slice) : (s.updSlice n f).bad = s.bad := rfl
@[simp] theorem State.updSlice_soffit (s : State) (n : Nat) (f : Slice → Slice) : (s.updSlice n f).soffit = s.soffit := rfl
@[simp] theorem State.updSlice_services (s : State) (n : Nat) (f : Slice → Slice) : (s.updSlice n f).services = s.services := rfl
@[simp] theorem State.updSlice_hostHor (s : State) (n : Nat) (f : Slice → Slice) : (s.updSlice n f).hostHor = s.hostHor := rfl
@[simp] theorem State.updSlice_accs (s : State) (n : Nat) (f : Slice → Slice) : (s.updSlice n f).accs = s.accs := rfl
@[simp] theorem State.updSlice_wrote (s : State) (n : Nat) (f : Slice → Slice) : (s.updSlice n f).wrote = s.wrote := rfl
@[simp] theorem State.updSlice_seen (s : State) (n : Nat) (f : Slice → Slice) : (s.updSlice n f).seen = s.seen := rfl
@[simp] theorem State.updSlice_nextAcc (s : State) (n : Nat) (f : Slice → Slice) : (s.updSlice n f).nextAcc = s.nextAcc := rfl
@[simp] theorem State.updSlice_nextIss (s : State) (n : Nat) (f : Slice → Slice) : (s.updSlice n f).nextIss = s.nextIss := rfl
@[simp] theorem State.updSlice_nextTag (s : State) (n : Nat) (f : Slice → Slice) : (s.updSlice n f).nextTag = s.nextTag := rfl
@[simp] theorem State.updSlice_stepNo (s : State) (n : Nat) (f : Slice → Slice) : (s.updSlice n f).stepNo = s.stepNo := rfl
@[simp] theorem State.updSlice_sched (s : State) (n : Nat) (f : Slice → Slice) : (s.updSlice n f).sched = s.sched := rfl
@[simp] theorem State.updSlice_free (s : State) (n : Nat) (f : Slice → Slice) : (s.updSlice n f).free = s.free := rfl
@[simp] theorem State.updSlice_agenda (s : State) (n : Nat) (f : Slice → Slice) : (s.updSlice n f).agenda = s.agenda := rfl
@[simp] theorem State.updSlice_issue (s : State) (n : Nat) (f : Slice → Slice) : (s.updSlice n f).issue = s.issue := rfl
@[simp] theorem State.updSlice_looks (s : State) (n : Nat) (f : Slice → Slice) : (s.updSlice n f).looks = s.looks := rfl
@[simp] theorem State.updSlice_slices (s : State) (n : Nat) (f : Slice → Slice) : (s.updSlice n f).slices = mset s.slices n (f (s.slice n)) := rfl

@[simp] theorem State.bumpFree_t (s : State)  : (s.bumpFree ).t = s.t := rfl
@[simp] theorem State.bumpFree_skew (s : State)  : (s.bumpFree ).skew = s.skew := rfl
@[simp] theorem State.bumpFree_safe (s : State)  : (s.bumpFree ).safe = s.safe := rfl
@[simp] theorem State.bumpFree_st (s : State)  : (s.bumpFree ).st = s.st := rfl
@[simp] theorem State.bumpFree_tripFrom (s : State)  : (s.bumpFree ).tripFrom = s.tripFrom := rfl
@[simp] theorem State.bumpFree_pkgid (s : State)  : (s.bumpFree ).pkgid = s.pkgid := rfl
@[simp] theorem State.bumpFree_members (s : State)  : (s.bumpFree ).members = s.members := rfl
@[simp] theorem State.bumpFree_fto (s : State)  : (s.bumpFree ).fto = s.fto := rfl
@[simp] theorem State.bumpFree_pl (s : State)  : (s.bumpFree ).pl = s.pl := rfl
@[simp] theorem State.bumpFree_pcap (s : State)  : (s.bumpFree ).pcap = s.pcap := rfl
@[simp] theorem State.bumpFree_power (s : State)  : (s.bumpFree ).power = s.power := rfl
@[simp] theorem State.bumpFree_powerAt (s : State)  : (s.bumpFree ).powerAt = s.powerAt := rfl
@[simp] theorem State.bumpFree_colhot (s : State)  : (s.bumpFree ).colhot = s.colhot := rfl
@[simp] theorem State.bumpFree_sensors (s : State)  : (s.bumpFree ).sensors = s.sensors := rfl
@[simp] theorem State.bumpFree_sensedAt (s : State)  : (s.bumpFree ).sensedAt = s.sensedAt := rfl
@[simp] theorem State.bumpFree_booterr (s : State)  : (s.bumpFree ).booterr = s.booterr := rfl
@[simp] theorem State.bumpFree_cmd (s : State)  : (s.bumpFree ).cmd = s.cmd := rfl
@[simp] theorem State.bumpFree_ans (s : State)  : (s.bumpFree ).ans = s.ans := rfl
@[simp] theorem State.bumpFree_loaded (s : State)  : (s.bumpFree ).loaded = s.loaded := rfl
@[simp] theorem State.bumpFree_report (s : State)  : (s.bumpFree ).report = s.report := rfl
@[simp] theorem State.bumpFree_flash (s : State)  : (s.bumpFree ).flash = s.flash := rfl
@[simp] theorem State.bumpFree_cols (s : State)  : (s.bumpFree ).cols = s.cols := rfl
@[simp] theorem State.bumpFree_islands (s : State)  : (s.bumpFree ).islands = s.islands := rfl
@[simp] theorem State.bumpFree_off (s : State)  : (s.bumpFree ).off = s.off := rfl
@[simp] theorem State.bumpFree_banked (s : State)  : (s.bumpFree ).banked = s.banked := rfl
@[simp] theorem State.bumpFree_hUp (s : State)  : (s.bumpFree ).hUp = s.hUp := rfl
@[simp] theorem State.bumpFree_mUp (s : State)  : (s.bumpFree ).mUp = s.mUp := rfl
@[simp] theorem State.bumpFree_hTo (s : State)  : (s.bumpFree ).hTo = s.hTo := rfl
@[simp] theorem State.bumpFree_mTo (s : State)  : (s.bumpFree ).mTo = s.mTo := rfl
@[simp] theorem State.bumpFree_planes (s : State)  : (s.bumpFree ).planes = s.planes := rfl
@[simp] theorem State.bumpFree_heldPkts (s : State)  : (s.bumpFree ).heldPkts = s.heldPkts := rfl
@[simp] theorem State.bumpFree_peerInc (s : State)  : (s.bumpFree ).peerInc = s.peerInc := rfl
@[simp] theorem State.bumpFree_mcg (s : State)  : (s.bumpFree ).mcg = s.mcg := rfl
@[simp] theorem State.bumpFree_ridges (s : State)  : (s.bumpFree ).ridges = s.ridges := rfl
@[simp] theorem State.bumpFree_stages (s : State)  : (s.bumpFree ).stages = s.stages := rfl
@[simp] theorem State.bumpFree_txns (s : State)  : (s.bumpFree ).txns = s.txns := rfl
@[simp] theorem State.bumpFree_mcsts (s : State)  : (s.bumpFree ).mcsts = s.mcsts := rfl
@[simp] theorem State.bumpFree_proxies (s : State)  : (s.bumpFree ).proxies = s.proxies := rfl
@[simp] theorem State.bumpFree_peerMon (s : State)  : (s.bumpFree ).peerMon = s.peerMon := rfl
@[simp] theorem State.bumpFree_out (s : State)  : (s.bumpFree ).out = s.out := rfl
@[simp] theorem State.bumpFree_svc (s : State)  : (s.bumpFree ).svc = s.svc := rfl
@[simp] theorem State.bumpFree_svcWait (s : State)  : (s.bumpFree ).svcWait = s.svcWait := rfl
@[simp] theorem State.bumpFree_bays (s : State)  : (s.bumpFree ).bays = s.bays := rfl
@[simp] theorem State.bumpFree_cores (s : State)  : (s.bumpFree ).cores = s.cores := rfl
@[simp] theorem State.bumpFree_slices (s : State)  : (s.bumpFree ).slices = s.slices := rfl
@[simp] theorem State.bumpFree_leases (s : State)  : (s.bumpFree ).leases = s.leases := rfl
@[simp] theorem State.bumpFree_mem (s : State)  : (s.bumpFree ).mem = s.mem := rfl
@[simp] theorem State.bumpFree_undef (s : State)  : (s.bumpFree ).undef = s.undef := rfl
@[simp] theorem State.bumpFree_hist (s : State)  : (s.bumpFree ).hist = s.hist := rfl
@[simp] theorem State.bumpFree_bad (s : State)  : (s.bumpFree ).bad = s.bad := rfl
@[simp] theorem State.bumpFree_soffit (s : State)  : (s.bumpFree ).soffit = s.soffit := rfl
@[simp] theorem State.bumpFree_services (s : State)  : (s.bumpFree ).services = s.services := rfl
@[simp] theorem State.bumpFree_hostHor (s : State)  : (s.bumpFree ).hostHor = s.hostHor := rfl
@[simp] theorem State.bumpFree_accs (s : State)  : (s.bumpFree ).accs = s.accs := rfl
@[simp] theorem State.bumpFree_wrote (s : State)  : (s.bumpFree ).wrote = s.wrote := rfl
@[simp] theorem State.bumpFree_seen (s : State)  : (s.bumpFree ).seen = s.seen := rfl
@[simp] theorem State.bumpFree_nextAcc (s : State)  : (s.bumpFree ).nextAcc = s.nextAcc := rfl
@[simp] theorem State.bumpFree_nextIss (s : State)  : (s.bumpFree ).nextIss = s.nextIss := rfl
@[simp] theorem State.bumpFree_nextTag (s : State)  : (s.bumpFree ).nextTag = s.nextTag := rfl
@[simp] theorem State.bumpFree_stepNo (s : State)  : (s.bumpFree ).stepNo = s.stepNo := rfl
@[simp] theorem State.bumpFree_sched (s : State)  : (s.bumpFree ).sched = s.sched := rfl
@[simp] theorem State.bumpFree_agenda (s : State)  : (s.bumpFree ).agenda = s.agenda := rfl
@[simp] theorem State.bumpFree_issue (s : State)  : (s.bumpFree ).issue = s.issue := rfl
@[simp] theorem State.bumpFree_looks (s : State)  : (s.bumpFree ).looks = s.looks := rfl
@[simp] theorem State.bumpFree_free (s : State) : s.bumpFree.free = s.free + 1 := rfl

@[simp] theorem State.writeByte_t (s : State) (a : Nat) (b : Byte) : (s.writeByte a b).t = s.t := rfl
@[simp] theorem State.writeByte_skew (s : State) (a : Nat) (b : Byte) : (s.writeByte a b).skew = s.skew := rfl
@[simp] theorem State.writeByte_safe (s : State) (a : Nat) (b : Byte) : (s.writeByte a b).safe = s.safe := rfl
@[simp] theorem State.writeByte_st (s : State) (a : Nat) (b : Byte) : (s.writeByte a b).st = s.st := rfl
@[simp] theorem State.writeByte_tripFrom (s : State) (a : Nat) (b : Byte) : (s.writeByte a b).tripFrom = s.tripFrom := rfl
@[simp] theorem State.writeByte_pkgid (s : State) (a : Nat) (b : Byte) : (s.writeByte a b).pkgid = s.pkgid := rfl
@[simp] theorem State.writeByte_members (s : State) (a : Nat) (b : Byte) : (s.writeByte a b).members = s.members := rfl
@[simp] theorem State.writeByte_fto (s : State) (a : Nat) (b : Byte) : (s.writeByte a b).fto = s.fto := rfl
@[simp] theorem State.writeByte_pl (s : State) (a : Nat) (b : Byte) : (s.writeByte a b).pl = s.pl := rfl
@[simp] theorem State.writeByte_pcap (s : State) (a : Nat) (b : Byte) : (s.writeByte a b).pcap = s.pcap := rfl
@[simp] theorem State.writeByte_power (s : State) (a : Nat) (b : Byte) : (s.writeByte a b).power = s.power := rfl
@[simp] theorem State.writeByte_powerAt (s : State) (a : Nat) (b : Byte) : (s.writeByte a b).powerAt = s.powerAt := rfl
@[simp] theorem State.writeByte_colhot (s : State) (a : Nat) (b : Byte) : (s.writeByte a b).colhot = s.colhot := rfl
@[simp] theorem State.writeByte_sensors (s : State) (a : Nat) (b : Byte) : (s.writeByte a b).sensors = s.sensors := rfl
@[simp] theorem State.writeByte_sensedAt (s : State) (a : Nat) (b : Byte) : (s.writeByte a b).sensedAt = s.sensedAt := rfl
@[simp] theorem State.writeByte_booterr (s : State) (a : Nat) (b : Byte) : (s.writeByte a b).booterr = s.booterr := rfl
@[simp] theorem State.writeByte_cmd (s : State) (a : Nat) (b : Byte) : (s.writeByte a b).cmd = s.cmd := rfl
@[simp] theorem State.writeByte_ans (s : State) (a : Nat) (b : Byte) : (s.writeByte a b).ans = s.ans := rfl
@[simp] theorem State.writeByte_loaded (s : State) (a : Nat) (b : Byte) : (s.writeByte a b).loaded = s.loaded := rfl
@[simp] theorem State.writeByte_report (s : State) (a : Nat) (b : Byte) : (s.writeByte a b).report = s.report := rfl
@[simp] theorem State.writeByte_flash (s : State) (a : Nat) (b : Byte) : (s.writeByte a b).flash = s.flash := rfl
@[simp] theorem State.writeByte_cols (s : State) (a : Nat) (b : Byte) : (s.writeByte a b).cols = s.cols := rfl
@[simp] theorem State.writeByte_islands (s : State) (a : Nat) (b : Byte) : (s.writeByte a b).islands = s.islands := rfl
@[simp] theorem State.writeByte_off (s : State) (a : Nat) (b : Byte) : (s.writeByte a b).off = s.off := rfl
@[simp] theorem State.writeByte_banked (s : State) (a : Nat) (b : Byte) : (s.writeByte a b).banked = s.banked := rfl
@[simp] theorem State.writeByte_hUp (s : State) (a : Nat) (b : Byte) : (s.writeByte a b).hUp = s.hUp := rfl
@[simp] theorem State.writeByte_mUp (s : State) (a : Nat) (b : Byte) : (s.writeByte a b).mUp = s.mUp := rfl
@[simp] theorem State.writeByte_hTo (s : State) (a : Nat) (b : Byte) : (s.writeByte a b).hTo = s.hTo := rfl
@[simp] theorem State.writeByte_mTo (s : State) (a : Nat) (b : Byte) : (s.writeByte a b).mTo = s.mTo := rfl
@[simp] theorem State.writeByte_planes (s : State) (a : Nat) (b : Byte) : (s.writeByte a b).planes = s.planes := rfl
@[simp] theorem State.writeByte_heldPkts (s : State) (a : Nat) (b : Byte) : (s.writeByte a b).heldPkts = s.heldPkts := rfl
@[simp] theorem State.writeByte_peerInc (s : State) (a : Nat) (b : Byte) : (s.writeByte a b).peerInc = s.peerInc := rfl
@[simp] theorem State.writeByte_mcg (s : State) (a : Nat) (b : Byte) : (s.writeByte a b).mcg = s.mcg := rfl
@[simp] theorem State.writeByte_ridges (s : State) (a : Nat) (b : Byte) : (s.writeByte a b).ridges = s.ridges := rfl
@[simp] theorem State.writeByte_stages (s : State) (a : Nat) (b : Byte) : (s.writeByte a b).stages = s.stages := rfl
@[simp] theorem State.writeByte_txns (s : State) (a : Nat) (b : Byte) : (s.writeByte a b).txns = s.txns := rfl
@[simp] theorem State.writeByte_mcsts (s : State) (a : Nat) (b : Byte) : (s.writeByte a b).mcsts = s.mcsts := rfl
@[simp] theorem State.writeByte_proxies (s : State) (a : Nat) (b : Byte) : (s.writeByte a b).proxies = s.proxies := rfl
@[simp] theorem State.writeByte_peerMon (s : State) (a : Nat) (b : Byte) : (s.writeByte a b).peerMon = s.peerMon := rfl
@[simp] theorem State.writeByte_out (s : State) (a : Nat) (b : Byte) : (s.writeByte a b).out = s.out := rfl
@[simp] theorem State.writeByte_svc (s : State) (a : Nat) (b : Byte) : (s.writeByte a b).svc = s.svc := rfl
@[simp] theorem State.writeByte_svcWait (s : State) (a : Nat) (b : Byte) : (s.writeByte a b).svcWait = s.svcWait := rfl
@[simp] theorem State.writeByte_bays (s : State) (a : Nat) (b : Byte) : (s.writeByte a b).bays = s.bays := rfl
@[simp] theorem State.writeByte_cores (s : State) (a : Nat) (b : Byte) : (s.writeByte a b).cores = s.cores := rfl
@[simp] theorem State.writeByte_slices (s : State) (a : Nat) (b : Byte) : (s.writeByte a b).slices = s.slices := rfl
@[simp] theorem State.writeByte_leases (s : State) (a : Nat) (b : Byte) : (s.writeByte a b).leases = s.leases := rfl
@[simp] theorem State.writeByte_bad (s : State) (a : Nat) (b : Byte) : (s.writeByte a b).bad = s.bad := rfl
@[simp] theorem State.writeByte_soffit (s : State) (a : Nat) (b : Byte) : (s.writeByte a b).soffit = s.soffit := rfl
@[simp] theorem State.writeByte_services (s : State) (a : Nat) (b : Byte) : (s.writeByte a b).services = s.services := rfl
@[simp] theorem State.writeByte_hostHor (s : State) (a : Nat) (b : Byte) : (s.writeByte a b).hostHor = s.hostHor := rfl
@[simp] theorem State.writeByte_accs (s : State) (a : Nat) (b : Byte) : (s.writeByte a b).accs = s.accs := rfl
@[simp] theorem State.writeByte_seen (s : State) (a : Nat) (b : Byte) : (s.writeByte a b).seen = s.seen := rfl
@[simp] theorem State.writeByte_nextAcc (s : State) (a : Nat) (b : Byte) : (s.writeByte a b).nextAcc = s.nextAcc := rfl
@[simp] theorem State.writeByte_nextIss (s : State) (a : Nat) (b : Byte) : (s.writeByte a b).nextIss = s.nextIss := rfl
@[simp] theorem State.writeByte_nextTag (s : State) (a : Nat) (b : Byte) : (s.writeByte a b).nextTag = s.nextTag := rfl
@[simp] theorem State.writeByte_stepNo (s : State) (a : Nat) (b : Byte) : (s.writeByte a b).stepNo = s.stepNo := rfl
@[simp] theorem State.writeByte_sched (s : State) (a : Nat) (b : Byte) : (s.writeByte a b).sched = s.sched := rfl
@[simp] theorem State.writeByte_free (s : State) (a : Nat) (b : Byte) : (s.writeByte a b).free = s.free := rfl
@[simp] theorem State.writeByte_agenda (s : State) (a : Nat) (b : Byte) : (s.writeByte a b).agenda = s.agenda := rfl
@[simp] theorem State.writeByte_issue (s : State) (a : Nat) (b : Byte) : (s.writeByte a b).issue = s.issue := rfl
@[simp] theorem State.writeByte_looks (s : State) (a : Nat) (b : Byte) : (s.writeByte a b).looks = s.looks := rfl
@[simp] theorem State.writeByte_mem (s : State) (a : Nat) (b : Byte) : (s.writeByte a b).mem = memSet s.mem a b := rfl
@[simp] theorem State.writeByte_undef (s : State) (a : Nat) (b : Byte) : (s.writeByte a b).undef = undefDrop s.undef a := rfl
@[simp] theorem State.writeByte_hist (s : State) (a : Nat) (b : Byte) : (s.writeByte a b).hist = mset s.hist a (memGet s.mem a :: mget s.hist a []) := rfl
@[simp] theorem State.writeByte_wrote (s : State) (a : Nat) (b : Byte) : (s.writeByte a b).wrote = mset s.wrote (a / 32) (s.stepNo + 1) := rfl

@[simp] theorem State.updCore_t (s : State) (c : Nat) (f : Core → Core) : (s.updCore c f).t = s.t := rfl
@[simp] theorem State.updCore_skew (s : State) (c : Nat) (f : Core → Core) : (s.updCore c f).skew = s.skew := rfl
@[simp] theorem State.updCore_safe (s : State) (c : Nat) (f : Core → Core) : (s.updCore c f).safe = s.safe := rfl
@[simp] theorem State.updCore_st (s : State) (c : Nat) (f : Core → Core) : (s.updCore c f).st = s.st := rfl
@[simp] theorem State.updCore_tripFrom (s : State) (c : Nat) (f : Core → Core) : (s.updCore c f).tripFrom = s.tripFrom := rfl
@[simp] theorem State.updCore_pkgid (s : State) (c : Nat) (f : Core → Core) : (s.updCore c f).pkgid = s.pkgid := rfl
@[simp] theorem State.updCore_members (s : State) (c : Nat) (f : Core → Core) : (s.updCore c f).members = s.members := rfl
@[simp] theorem State.updCore_fto (s : State) (c : Nat) (f : Core → Core) : (s.updCore c f).fto = s.fto := rfl
@[simp] theorem State.updCore_pl (s : State) (c : Nat) (f : Core → Core) : (s.updCore c f).pl = s.pl := rfl
@[simp] theorem State.updCore_pcap (s : State) (c : Nat) (f : Core → Core) : (s.updCore c f).pcap = s.pcap := rfl
@[simp] theorem State.updCore_power (s : State) (c : Nat) (f : Core → Core) : (s.updCore c f).power = s.power := rfl
@[simp] theorem State.updCore_powerAt (s : State) (c : Nat) (f : Core → Core) : (s.updCore c f).powerAt = s.powerAt := rfl
@[simp] theorem State.updCore_colhot (s : State) (c : Nat) (f : Core → Core) : (s.updCore c f).colhot = s.colhot := rfl
@[simp] theorem State.updCore_sensors (s : State) (c : Nat) (f : Core → Core) : (s.updCore c f).sensors = s.sensors := rfl
@[simp] theorem State.updCore_sensedAt (s : State) (c : Nat) (f : Core → Core) : (s.updCore c f).sensedAt = s.sensedAt := rfl
@[simp] theorem State.updCore_booterr (s : State) (c : Nat) (f : Core → Core) : (s.updCore c f).booterr = s.booterr := rfl
@[simp] theorem State.updCore_cmd (s : State) (c : Nat) (f : Core → Core) : (s.updCore c f).cmd = s.cmd := rfl
@[simp] theorem State.updCore_ans (s : State) (c : Nat) (f : Core → Core) : (s.updCore c f).ans = s.ans := rfl
@[simp] theorem State.updCore_loaded (s : State) (c : Nat) (f : Core → Core) : (s.updCore c f).loaded = s.loaded := rfl
@[simp] theorem State.updCore_report (s : State) (c : Nat) (f : Core → Core) : (s.updCore c f).report = s.report := rfl
@[simp] theorem State.updCore_flash (s : State) (c : Nat) (f : Core → Core) : (s.updCore c f).flash = s.flash := rfl
@[simp] theorem State.updCore_cols (s : State) (c : Nat) (f : Core → Core) : (s.updCore c f).cols = s.cols := rfl
@[simp] theorem State.updCore_islands (s : State) (c : Nat) (f : Core → Core) : (s.updCore c f).islands = s.islands := rfl
@[simp] theorem State.updCore_off (s : State) (c : Nat) (f : Core → Core) : (s.updCore c f).off = s.off := rfl
@[simp] theorem State.updCore_banked (s : State) (c : Nat) (f : Core → Core) : (s.updCore c f).banked = s.banked := rfl
@[simp] theorem State.updCore_hUp (s : State) (c : Nat) (f : Core → Core) : (s.updCore c f).hUp = s.hUp := rfl
@[simp] theorem State.updCore_mUp (s : State) (c : Nat) (f : Core → Core) : (s.updCore c f).mUp = s.mUp := rfl
@[simp] theorem State.updCore_hTo (s : State) (c : Nat) (f : Core → Core) : (s.updCore c f).hTo = s.hTo := rfl
@[simp] theorem State.updCore_mTo (s : State) (c : Nat) (f : Core → Core) : (s.updCore c f).mTo = s.mTo := rfl
@[simp] theorem State.updCore_planes (s : State) (c : Nat) (f : Core → Core) : (s.updCore c f).planes = s.planes := rfl
@[simp] theorem State.updCore_heldPkts (s : State) (c : Nat) (f : Core → Core) : (s.updCore c f).heldPkts = s.heldPkts := rfl
@[simp] theorem State.updCore_peerInc (s : State) (c : Nat) (f : Core → Core) : (s.updCore c f).peerInc = s.peerInc := rfl
@[simp] theorem State.updCore_mcg (s : State) (c : Nat) (f : Core → Core) : (s.updCore c f).mcg = s.mcg := rfl
@[simp] theorem State.updCore_ridges (s : State) (c : Nat) (f : Core → Core) : (s.updCore c f).ridges = s.ridges := rfl
@[simp] theorem State.updCore_stages (s : State) (c : Nat) (f : Core → Core) : (s.updCore c f).stages = s.stages := rfl
@[simp] theorem State.updCore_txns (s : State) (c : Nat) (f : Core → Core) : (s.updCore c f).txns = s.txns := rfl
@[simp] theorem State.updCore_mcsts (s : State) (c : Nat) (f : Core → Core) : (s.updCore c f).mcsts = s.mcsts := rfl
@[simp] theorem State.updCore_proxies (s : State) (c : Nat) (f : Core → Core) : (s.updCore c f).proxies = s.proxies := rfl
@[simp] theorem State.updCore_peerMon (s : State) (c : Nat) (f : Core → Core) : (s.updCore c f).peerMon = s.peerMon := rfl
@[simp] theorem State.updCore_out (s : State) (c : Nat) (f : Core → Core) : (s.updCore c f).out = s.out := rfl
@[simp] theorem State.updCore_svc (s : State) (c : Nat) (f : Core → Core) : (s.updCore c f).svc = s.svc := rfl
@[simp] theorem State.updCore_svcWait (s : State) (c : Nat) (f : Core → Core) : (s.updCore c f).svcWait = s.svcWait := rfl
@[simp] theorem State.updCore_bays (s : State) (c : Nat) (f : Core → Core) : (s.updCore c f).bays = s.bays := rfl
@[simp] theorem State.updCore_slices (s : State) (c : Nat) (f : Core → Core) : (s.updCore c f).slices = s.slices := rfl
@[simp] theorem State.updCore_leases (s : State) (c : Nat) (f : Core → Core) : (s.updCore c f).leases = s.leases := rfl
@[simp] theorem State.updCore_mem (s : State) (c : Nat) (f : Core → Core) : (s.updCore c f).mem = s.mem := rfl
@[simp] theorem State.updCore_undef (s : State) (c : Nat) (f : Core → Core) : (s.updCore c f).undef = s.undef := rfl
@[simp] theorem State.updCore_hist (s : State) (c : Nat) (f : Core → Core) : (s.updCore c f).hist = s.hist := rfl
@[simp] theorem State.updCore_bad (s : State) (c : Nat) (f : Core → Core) : (s.updCore c f).bad = s.bad := rfl
@[simp] theorem State.updCore_soffit (s : State) (c : Nat) (f : Core → Core) : (s.updCore c f).soffit = s.soffit := rfl
@[simp] theorem State.updCore_services (s : State) (c : Nat) (f : Core → Core) : (s.updCore c f).services = s.services := rfl
@[simp] theorem State.updCore_hostHor (s : State) (c : Nat) (f : Core → Core) : (s.updCore c f).hostHor = s.hostHor := rfl
@[simp] theorem State.updCore_accs (s : State) (c : Nat) (f : Core → Core) : (s.updCore c f).accs = s.accs := rfl
@[simp] theorem State.updCore_wrote (s : State) (c : Nat) (f : Core → Core) : (s.updCore c f).wrote = s.wrote := rfl
@[simp] theorem State.updCore_seen (s : State) (c : Nat) (f : Core → Core) : (s.updCore c f).seen = s.seen := rfl
@[simp] theorem State.updCore_nextAcc (s : State) (c : Nat) (f : Core → Core) : (s.updCore c f).nextAcc = s.nextAcc := rfl
@[simp] theorem State.updCore_nextIss (s : State) (c : Nat) (f : Core → Core) : (s.updCore c f).nextIss = s.nextIss := rfl
@[simp] theorem State.updCore_nextTag (s : State) (c : Nat) (f : Core → Core) : (s.updCore c f).nextTag = s.nextTag := rfl
@[simp] theorem State.updCore_stepNo (s : State) (c : Nat) (f : Core → Core) : (s.updCore c f).stepNo = s.stepNo := rfl
@[simp] theorem State.updCore_sched (s : State) (c : Nat) (f : Core → Core) : (s.updCore c f).sched = s.sched := rfl
@[simp] theorem State.updCore_free (s : State) (c : Nat) (f : Core → Core) : (s.updCore c f).free = s.free := rfl
@[simp] theorem State.updCore_agenda (s : State) (c : Nat) (f : Core → Core) : (s.updCore c f).agenda = s.agenda := rfl
@[simp] theorem State.updCore_issue (s : State) (c : Nat) (f : Core → Core) : (s.updCore c f).issue = s.issue := rfl
@[simp] theorem State.updCore_looks (s : State) (c : Nat) (f : Core → Core) : (s.updCore c f).looks = s.looks := rfl
@[simp] theorem State.updCore_cores (s : State) (c : Nat) (f : Core → Core) : (s.updCore c f).cores = mset s.cores c (f (s.core c)) := rfl

@[simp] theorem State.updBay_t (s : State) (b : Nat) (f : Bay → Bay) : (s.updBay b f).t = s.t := rfl
@[simp] theorem State.updBay_skew (s : State) (b : Nat) (f : Bay → Bay) : (s.updBay b f).skew = s.skew := rfl
@[simp] theorem State.updBay_safe (s : State) (b : Nat) (f : Bay → Bay) : (s.updBay b f).safe = s.safe := rfl
@[simp] theorem State.updBay_st (s : State) (b : Nat) (f : Bay → Bay) : (s.updBay b f).st = s.st := rfl
@[simp] theorem State.updBay_tripFrom (s : State) (b : Nat) (f : Bay → Bay) : (s.updBay b f).tripFrom = s.tripFrom := rfl
@[simp] theorem State.updBay_pkgid (s : State) (b : Nat) (f : Bay → Bay) : (s.updBay b f).pkgid = s.pkgid := rfl
@[simp] theorem State.updBay_members (s : State) (b : Nat) (f : Bay → Bay) : (s.updBay b f).members = s.members := rfl
@[simp] theorem State.updBay_fto (s : State) (b : Nat) (f : Bay → Bay) : (s.updBay b f).fto = s.fto := rfl
@[simp] theorem State.updBay_pl (s : State) (b : Nat) (f : Bay → Bay) : (s.updBay b f).pl = s.pl := rfl
@[simp] theorem State.updBay_pcap (s : State) (b : Nat) (f : Bay → Bay) : (s.updBay b f).pcap = s.pcap := rfl
@[simp] theorem State.updBay_power (s : State) (b : Nat) (f : Bay → Bay) : (s.updBay b f).power = s.power := rfl
@[simp] theorem State.updBay_powerAt (s : State) (b : Nat) (f : Bay → Bay) : (s.updBay b f).powerAt = s.powerAt := rfl
@[simp] theorem State.updBay_colhot (s : State) (b : Nat) (f : Bay → Bay) : (s.updBay b f).colhot = s.colhot := rfl
@[simp] theorem State.updBay_sensors (s : State) (b : Nat) (f : Bay → Bay) : (s.updBay b f).sensors = s.sensors := rfl
@[simp] theorem State.updBay_sensedAt (s : State) (b : Nat) (f : Bay → Bay) : (s.updBay b f).sensedAt = s.sensedAt := rfl
@[simp] theorem State.updBay_booterr (s : State) (b : Nat) (f : Bay → Bay) : (s.updBay b f).booterr = s.booterr := rfl
@[simp] theorem State.updBay_cmd (s : State) (b : Nat) (f : Bay → Bay) : (s.updBay b f).cmd = s.cmd := rfl
@[simp] theorem State.updBay_ans (s : State) (b : Nat) (f : Bay → Bay) : (s.updBay b f).ans = s.ans := rfl
@[simp] theorem State.updBay_loaded (s : State) (b : Nat) (f : Bay → Bay) : (s.updBay b f).loaded = s.loaded := rfl
@[simp] theorem State.updBay_report (s : State) (b : Nat) (f : Bay → Bay) : (s.updBay b f).report = s.report := rfl
@[simp] theorem State.updBay_flash (s : State) (b : Nat) (f : Bay → Bay) : (s.updBay b f).flash = s.flash := rfl
@[simp] theorem State.updBay_cols (s : State) (b : Nat) (f : Bay → Bay) : (s.updBay b f).cols = s.cols := rfl
@[simp] theorem State.updBay_islands (s : State) (b : Nat) (f : Bay → Bay) : (s.updBay b f).islands = s.islands := rfl
@[simp] theorem State.updBay_off (s : State) (b : Nat) (f : Bay → Bay) : (s.updBay b f).off = s.off := rfl
@[simp] theorem State.updBay_banked (s : State) (b : Nat) (f : Bay → Bay) : (s.updBay b f).banked = s.banked := rfl
@[simp] theorem State.updBay_hUp (s : State) (b : Nat) (f : Bay → Bay) : (s.updBay b f).hUp = s.hUp := rfl
@[simp] theorem State.updBay_mUp (s : State) (b : Nat) (f : Bay → Bay) : (s.updBay b f).mUp = s.mUp := rfl
@[simp] theorem State.updBay_hTo (s : State) (b : Nat) (f : Bay → Bay) : (s.updBay b f).hTo = s.hTo := rfl
@[simp] theorem State.updBay_mTo (s : State) (b : Nat) (f : Bay → Bay) : (s.updBay b f).mTo = s.mTo := rfl
@[simp] theorem State.updBay_planes (s : State) (b : Nat) (f : Bay → Bay) : (s.updBay b f).planes = s.planes := rfl
@[simp] theorem State.updBay_heldPkts (s : State) (b : Nat) (f : Bay → Bay) : (s.updBay b f).heldPkts = s.heldPkts := rfl
@[simp] theorem State.updBay_peerInc (s : State) (b : Nat) (f : Bay → Bay) : (s.updBay b f).peerInc = s.peerInc := rfl
@[simp] theorem State.updBay_mcg (s : State) (b : Nat) (f : Bay → Bay) : (s.updBay b f).mcg = s.mcg := rfl
@[simp] theorem State.updBay_ridges (s : State) (b : Nat) (f : Bay → Bay) : (s.updBay b f).ridges = s.ridges := rfl
@[simp] theorem State.updBay_stages (s : State) (b : Nat) (f : Bay → Bay) : (s.updBay b f).stages = s.stages := rfl
@[simp] theorem State.updBay_txns (s : State) (b : Nat) (f : Bay → Bay) : (s.updBay b f).txns = s.txns := rfl
@[simp] theorem State.updBay_mcsts (s : State) (b : Nat) (f : Bay → Bay) : (s.updBay b f).mcsts = s.mcsts := rfl
@[simp] theorem State.updBay_proxies (s : State) (b : Nat) (f : Bay → Bay) : (s.updBay b f).proxies = s.proxies := rfl
@[simp] theorem State.updBay_peerMon (s : State) (b : Nat) (f : Bay → Bay) : (s.updBay b f).peerMon = s.peerMon := rfl
@[simp] theorem State.updBay_out (s : State) (b : Nat) (f : Bay → Bay) : (s.updBay b f).out = s.out := rfl
@[simp] theorem State.updBay_svc (s : State) (b : Nat) (f : Bay → Bay) : (s.updBay b f).svc = s.svc := rfl
@[simp] theorem State.updBay_svcWait (s : State) (b : Nat) (f : Bay → Bay) : (s.updBay b f).svcWait = s.svcWait := rfl
@[simp] theorem State.updBay_cores (s : State) (b : Nat) (f : Bay → Bay) : (s.updBay b f).cores = s.cores := rfl
@[simp] theorem State.updBay_slices (s : State) (b : Nat) (f : Bay → Bay) : (s.updBay b f).slices = s.slices := rfl
@[simp] theorem State.updBay_leases (s : State) (b : Nat) (f : Bay → Bay) : (s.updBay b f).leases = s.leases := rfl
@[simp] theorem State.updBay_mem (s : State) (b : Nat) (f : Bay → Bay) : (s.updBay b f).mem = s.mem := rfl
@[simp] theorem State.updBay_undef (s : State) (b : Nat) (f : Bay → Bay) : (s.updBay b f).undef = s.undef := rfl
@[simp] theorem State.updBay_hist (s : State) (b : Nat) (f : Bay → Bay) : (s.updBay b f).hist = s.hist := rfl
@[simp] theorem State.updBay_bad (s : State) (b : Nat) (f : Bay → Bay) : (s.updBay b f).bad = s.bad := rfl
@[simp] theorem State.updBay_soffit (s : State) (b : Nat) (f : Bay → Bay) : (s.updBay b f).soffit = s.soffit := rfl
@[simp] theorem State.updBay_services (s : State) (b : Nat) (f : Bay → Bay) : (s.updBay b f).services = s.services := rfl
@[simp] theorem State.updBay_hostHor (s : State) (b : Nat) (f : Bay → Bay) : (s.updBay b f).hostHor = s.hostHor := rfl
@[simp] theorem State.updBay_accs (s : State) (b : Nat) (f : Bay → Bay) : (s.updBay b f).accs = s.accs := rfl
@[simp] theorem State.updBay_wrote (s : State) (b : Nat) (f : Bay → Bay) : (s.updBay b f).wrote = s.wrote := rfl
@[simp] theorem State.updBay_seen (s : State) (b : Nat) (f : Bay → Bay) : (s.updBay b f).seen = s.seen := rfl
@[simp] theorem State.updBay_nextAcc (s : State) (b : Nat) (f : Bay → Bay) : (s.updBay b f).nextAcc = s.nextAcc := rfl
@[simp] theorem State.updBay_nextIss (s : State) (b : Nat) (f : Bay → Bay) : (s.updBay b f).nextIss = s.nextIss := rfl
@[simp] theorem State.updBay_nextTag (s : State) (b : Nat) (f : Bay → Bay) : (s.updBay b f).nextTag = s.nextTag := rfl
@[simp] theorem State.updBay_stepNo (s : State) (b : Nat) (f : Bay → Bay) : (s.updBay b f).stepNo = s.stepNo := rfl
@[simp] theorem State.updBay_sched (s : State) (b : Nat) (f : Bay → Bay) : (s.updBay b f).sched = s.sched := rfl
@[simp] theorem State.updBay_free (s : State) (b : Nat) (f : Bay → Bay) : (s.updBay b f).free = s.free := rfl
@[simp] theorem State.updBay_agenda (s : State) (b : Nat) (f : Bay → Bay) : (s.updBay b f).agenda = s.agenda := rfl
@[simp] theorem State.updBay_issue (s : State) (b : Nat) (f : Bay → Bay) : (s.updBay b f).issue = s.issue := rfl
@[simp] theorem State.updBay_looks (s : State) (b : Nat) (f : Bay → Bay) : (s.updBay b f).looks = s.looks := rfl
@[simp] theorem State.updBay_bays (s : State) (b : Nat) (f : Bay → Bay) : (s.updBay b f).bays = mset s.bays b (f (s.bay b)) := rfl

@[simp] theorem State.setCourse_t (s : State) (c k : Nat) (x : Course) : (s.setCourse c k x).t = s.t := rfl
@[simp] theorem State.setCourse_skew (s : State) (c k : Nat) (x : Course) : (s.setCourse c k x).skew = s.skew := rfl
@[simp] theorem State.setCourse_safe (s : State) (c k : Nat) (x : Course) : (s.setCourse c k x).safe = s.safe := rfl
@[simp] theorem State.setCourse_st (s : State) (c k : Nat) (x : Course) : (s.setCourse c k x).st = s.st := rfl
@[simp] theorem State.setCourse_tripFrom (s : State) (c k : Nat) (x : Course) : (s.setCourse c k x).tripFrom = s.tripFrom := rfl
@[simp] theorem State.setCourse_pkgid (s : State) (c k : Nat) (x : Course) : (s.setCourse c k x).pkgid = s.pkgid := rfl
@[simp] theorem State.setCourse_members (s : State) (c k : Nat) (x : Course) : (s.setCourse c k x).members = s.members := rfl
@[simp] theorem State.setCourse_fto (s : State) (c k : Nat) (x : Course) : (s.setCourse c k x).fto = s.fto := rfl
@[simp] theorem State.setCourse_pl (s : State) (c k : Nat) (x : Course) : (s.setCourse c k x).pl = s.pl := rfl
@[simp] theorem State.setCourse_pcap (s : State) (c k : Nat) (x : Course) : (s.setCourse c k x).pcap = s.pcap := rfl
@[simp] theorem State.setCourse_power (s : State) (c k : Nat) (x : Course) : (s.setCourse c k x).power = s.power := rfl
@[simp] theorem State.setCourse_powerAt (s : State) (c k : Nat) (x : Course) : (s.setCourse c k x).powerAt = s.powerAt := rfl
@[simp] theorem State.setCourse_colhot (s : State) (c k : Nat) (x : Course) : (s.setCourse c k x).colhot = s.colhot := rfl
@[simp] theorem State.setCourse_sensors (s : State) (c k : Nat) (x : Course) : (s.setCourse c k x).sensors = s.sensors := rfl
@[simp] theorem State.setCourse_sensedAt (s : State) (c k : Nat) (x : Course) : (s.setCourse c k x).sensedAt = s.sensedAt := rfl
@[simp] theorem State.setCourse_booterr (s : State) (c k : Nat) (x : Course) : (s.setCourse c k x).booterr = s.booterr := rfl
@[simp] theorem State.setCourse_cmd (s : State) (c k : Nat) (x : Course) : (s.setCourse c k x).cmd = s.cmd := rfl
@[simp] theorem State.setCourse_ans (s : State) (c k : Nat) (x : Course) : (s.setCourse c k x).ans = s.ans := rfl
@[simp] theorem State.setCourse_loaded (s : State) (c k : Nat) (x : Course) : (s.setCourse c k x).loaded = s.loaded := rfl
@[simp] theorem State.setCourse_report (s : State) (c k : Nat) (x : Course) : (s.setCourse c k x).report = s.report := rfl
@[simp] theorem State.setCourse_flash (s : State) (c k : Nat) (x : Course) : (s.setCourse c k x).flash = s.flash := rfl
@[simp] theorem State.setCourse_cols (s : State) (c k : Nat) (x : Course) : (s.setCourse c k x).cols = s.cols := rfl
@[simp] theorem State.setCourse_islands (s : State) (c k : Nat) (x : Course) : (s.setCourse c k x).islands = s.islands := rfl
@[simp] theorem State.setCourse_off (s : State) (c k : Nat) (x : Course) : (s.setCourse c k x).off = s.off := rfl
@[simp] theorem State.setCourse_banked (s : State) (c k : Nat) (x : Course) : (s.setCourse c k x).banked = s.banked := rfl
@[simp] theorem State.setCourse_hUp (s : State) (c k : Nat) (x : Course) : (s.setCourse c k x).hUp = s.hUp := rfl
@[simp] theorem State.setCourse_mUp (s : State) (c k : Nat) (x : Course) : (s.setCourse c k x).mUp = s.mUp := rfl
@[simp] theorem State.setCourse_hTo (s : State) (c k : Nat) (x : Course) : (s.setCourse c k x).hTo = s.hTo := rfl
@[simp] theorem State.setCourse_mTo (s : State) (c k : Nat) (x : Course) : (s.setCourse c k x).mTo = s.mTo := rfl
@[simp] theorem State.setCourse_planes (s : State) (c k : Nat) (x : Course) : (s.setCourse c k x).planes = s.planes := rfl
@[simp] theorem State.setCourse_heldPkts (s : State) (c k : Nat) (x : Course) : (s.setCourse c k x).heldPkts = s.heldPkts := rfl
@[simp] theorem State.setCourse_peerInc (s : State) (c k : Nat) (x : Course) : (s.setCourse c k x).peerInc = s.peerInc := rfl
@[simp] theorem State.setCourse_mcg (s : State) (c k : Nat) (x : Course) : (s.setCourse c k x).mcg = s.mcg := rfl
@[simp] theorem State.setCourse_ridges (s : State) (c k : Nat) (x : Course) : (s.setCourse c k x).ridges = s.ridges := rfl
@[simp] theorem State.setCourse_stages (s : State) (c k : Nat) (x : Course) : (s.setCourse c k x).stages = s.stages := rfl
@[simp] theorem State.setCourse_txns (s : State) (c k : Nat) (x : Course) : (s.setCourse c k x).txns = s.txns := rfl
@[simp] theorem State.setCourse_mcsts (s : State) (c k : Nat) (x : Course) : (s.setCourse c k x).mcsts = s.mcsts := rfl
@[simp] theorem State.setCourse_proxies (s : State) (c k : Nat) (x : Course) : (s.setCourse c k x).proxies = s.proxies := rfl
@[simp] theorem State.setCourse_peerMon (s : State) (c k : Nat) (x : Course) : (s.setCourse c k x).peerMon = s.peerMon := rfl
@[simp] theorem State.setCourse_out (s : State) (c k : Nat) (x : Course) : (s.setCourse c k x).out = s.out := rfl
@[simp] theorem State.setCourse_svc (s : State) (c k : Nat) (x : Course) : (s.setCourse c k x).svc = s.svc := rfl
@[simp] theorem State.setCourse_svcWait (s : State) (c k : Nat) (x : Course) : (s.setCourse c k x).svcWait = s.svcWait := rfl
@[simp] theorem State.setCourse_bays (s : State) (c k : Nat) (x : Course) : (s.setCourse c k x).bays = s.bays := rfl
@[simp] theorem State.setCourse_slices (s : State) (c k : Nat) (x : Course) : (s.setCourse c k x).slices = s.slices := rfl
@[simp] theorem State.setCourse_leases (s : State) (c k : Nat) (x : Course) : (s.setCourse c k x).leases = s.leases := rfl
@[simp] theorem State.setCourse_mem (s : State) (c k : Nat) (x : Course) : (s.setCourse c k x).mem = s.mem := rfl
@[simp] theorem State.setCourse_undef (s : State) (c k : Nat) (x : Course) : (s.setCourse c k x).undef = s.undef := rfl
@[simp] theorem State.setCourse_hist (s : State) (c k : Nat) (x : Course) : (s.setCourse c k x).hist = s.hist := rfl
@[simp] theorem State.setCourse_bad (s : State) (c k : Nat) (x : Course) : (s.setCourse c k x).bad = s.bad := rfl
@[simp] theorem State.setCourse_soffit (s : State) (c k : Nat) (x : Course) : (s.setCourse c k x).soffit = s.soffit := rfl
@[simp] theorem State.setCourse_services (s : State) (c k : Nat) (x : Course) : (s.setCourse c k x).services = s.services := rfl
@[simp] theorem State.setCourse_hostHor (s : State) (c k : Nat) (x : Course) : (s.setCourse c k x).hostHor = s.hostHor := rfl
@[simp] theorem State.setCourse_accs (s : State) (c k : Nat) (x : Course) : (s.setCourse c k x).accs = s.accs := rfl
@[simp] theorem State.setCourse_wrote (s : State) (c k : Nat) (x : Course) : (s.setCourse c k x).wrote = s.wrote := rfl
@[simp] theorem State.setCourse_seen (s : State) (c k : Nat) (x : Course) : (s.setCourse c k x).seen = s.seen := rfl
@[simp] theorem State.setCourse_nextAcc (s : State) (c k : Nat) (x : Course) : (s.setCourse c k x).nextAcc = s.nextAcc := rfl
@[simp] theorem State.setCourse_nextIss (s : State) (c k : Nat) (x : Course) : (s.setCourse c k x).nextIss = s.nextIss := rfl
@[simp] theorem State.setCourse_nextTag (s : State) (c k : Nat) (x : Course) : (s.setCourse c k x).nextTag = s.nextTag := rfl
@[simp] theorem State.setCourse_stepNo (s : State) (c k : Nat) (x : Course) : (s.setCourse c k x).stepNo = s.stepNo := rfl
@[simp] theorem State.setCourse_sched (s : State) (c k : Nat) (x : Course) : (s.setCourse c k x).sched = s.sched := rfl
@[simp] theorem State.setCourse_free (s : State) (c k : Nat) (x : Course) : (s.setCourse c k x).free = s.free := rfl
@[simp] theorem State.setCourse_agenda (s : State) (c k : Nat) (x : Course) : (s.setCourse c k x).agenda = s.agenda := rfl
@[simp] theorem State.setCourse_issue (s : State) (c k : Nat) (x : Course) : (s.setCourse c k x).issue = s.issue := rfl
@[simp] theorem State.setCourse_looks (s : State) (c k : Nat) (x : Course) : (s.setCourse c k x).looks = s.looks := rfl
@[simp] theorem State.setBlock_t (s : State) (c b : Nat) (x : Block) : (s.setBlock c b x).t = s.t := rfl
@[simp] theorem State.setBlock_skew (s : State) (c b : Nat) (x : Block) : (s.setBlock c b x).skew = s.skew := rfl
@[simp] theorem State.setBlock_safe (s : State) (c b : Nat) (x : Block) : (s.setBlock c b x).safe = s.safe := rfl
@[simp] theorem State.setBlock_st (s : State) (c b : Nat) (x : Block) : (s.setBlock c b x).st = s.st := rfl
@[simp] theorem State.setBlock_tripFrom (s : State) (c b : Nat) (x : Block) : (s.setBlock c b x).tripFrom = s.tripFrom := rfl
@[simp] theorem State.setBlock_pkgid (s : State) (c b : Nat) (x : Block) : (s.setBlock c b x).pkgid = s.pkgid := rfl
@[simp] theorem State.setBlock_members (s : State) (c b : Nat) (x : Block) : (s.setBlock c b x).members = s.members := rfl
@[simp] theorem State.setBlock_fto (s : State) (c b : Nat) (x : Block) : (s.setBlock c b x).fto = s.fto := rfl
@[simp] theorem State.setBlock_pl (s : State) (c b : Nat) (x : Block) : (s.setBlock c b x).pl = s.pl := rfl
@[simp] theorem State.setBlock_pcap (s : State) (c b : Nat) (x : Block) : (s.setBlock c b x).pcap = s.pcap := rfl
@[simp] theorem State.setBlock_power (s : State) (c b : Nat) (x : Block) : (s.setBlock c b x).power = s.power := rfl
@[simp] theorem State.setBlock_powerAt (s : State) (c b : Nat) (x : Block) : (s.setBlock c b x).powerAt = s.powerAt := rfl
@[simp] theorem State.setBlock_colhot (s : State) (c b : Nat) (x : Block) : (s.setBlock c b x).colhot = s.colhot := rfl
@[simp] theorem State.setBlock_sensors (s : State) (c b : Nat) (x : Block) : (s.setBlock c b x).sensors = s.sensors := rfl
@[simp] theorem State.setBlock_sensedAt (s : State) (c b : Nat) (x : Block) : (s.setBlock c b x).sensedAt = s.sensedAt := rfl
@[simp] theorem State.setBlock_booterr (s : State) (c b : Nat) (x : Block) : (s.setBlock c b x).booterr = s.booterr := rfl
@[simp] theorem State.setBlock_cmd (s : State) (c b : Nat) (x : Block) : (s.setBlock c b x).cmd = s.cmd := rfl
@[simp] theorem State.setBlock_ans (s : State) (c b : Nat) (x : Block) : (s.setBlock c b x).ans = s.ans := rfl
@[simp] theorem State.setBlock_loaded (s : State) (c b : Nat) (x : Block) : (s.setBlock c b x).loaded = s.loaded := rfl
@[simp] theorem State.setBlock_report (s : State) (c b : Nat) (x : Block) : (s.setBlock c b x).report = s.report := rfl
@[simp] theorem State.setBlock_flash (s : State) (c b : Nat) (x : Block) : (s.setBlock c b x).flash = s.flash := rfl
@[simp] theorem State.setBlock_cols (s : State) (c b : Nat) (x : Block) : (s.setBlock c b x).cols = s.cols := rfl
@[simp] theorem State.setBlock_islands (s : State) (c b : Nat) (x : Block) : (s.setBlock c b x).islands = s.islands := rfl
@[simp] theorem State.setBlock_off (s : State) (c b : Nat) (x : Block) : (s.setBlock c b x).off = s.off := rfl
@[simp] theorem State.setBlock_banked (s : State) (c b : Nat) (x : Block) : (s.setBlock c b x).banked = s.banked := rfl
@[simp] theorem State.setBlock_hUp (s : State) (c b : Nat) (x : Block) : (s.setBlock c b x).hUp = s.hUp := rfl
@[simp] theorem State.setBlock_mUp (s : State) (c b : Nat) (x : Block) : (s.setBlock c b x).mUp = s.mUp := rfl
@[simp] theorem State.setBlock_hTo (s : State) (c b : Nat) (x : Block) : (s.setBlock c b x).hTo = s.hTo := rfl
@[simp] theorem State.setBlock_mTo (s : State) (c b : Nat) (x : Block) : (s.setBlock c b x).mTo = s.mTo := rfl
@[simp] theorem State.setBlock_planes (s : State) (c b : Nat) (x : Block) : (s.setBlock c b x).planes = s.planes := rfl
@[simp] theorem State.setBlock_heldPkts (s : State) (c b : Nat) (x : Block) : (s.setBlock c b x).heldPkts = s.heldPkts := rfl
@[simp] theorem State.setBlock_peerInc (s : State) (c b : Nat) (x : Block) : (s.setBlock c b x).peerInc = s.peerInc := rfl
@[simp] theorem State.setBlock_mcg (s : State) (c b : Nat) (x : Block) : (s.setBlock c b x).mcg = s.mcg := rfl
@[simp] theorem State.setBlock_ridges (s : State) (c b : Nat) (x : Block) : (s.setBlock c b x).ridges = s.ridges := rfl
@[simp] theorem State.setBlock_stages (s : State) (c b : Nat) (x : Block) : (s.setBlock c b x).stages = s.stages := rfl
@[simp] theorem State.setBlock_txns (s : State) (c b : Nat) (x : Block) : (s.setBlock c b x).txns = s.txns := rfl
@[simp] theorem State.setBlock_mcsts (s : State) (c b : Nat) (x : Block) : (s.setBlock c b x).mcsts = s.mcsts := rfl
@[simp] theorem State.setBlock_proxies (s : State) (c b : Nat) (x : Block) : (s.setBlock c b x).proxies = s.proxies := rfl
@[simp] theorem State.setBlock_peerMon (s : State) (c b : Nat) (x : Block) : (s.setBlock c b x).peerMon = s.peerMon := rfl
@[simp] theorem State.setBlock_out (s : State) (c b : Nat) (x : Block) : (s.setBlock c b x).out = s.out := rfl
@[simp] theorem State.setBlock_svc (s : State) (c b : Nat) (x : Block) : (s.setBlock c b x).svc = s.svc := rfl
@[simp] theorem State.setBlock_svcWait (s : State) (c b : Nat) (x : Block) : (s.setBlock c b x).svcWait = s.svcWait := rfl
@[simp] theorem State.setBlock_bays (s : State) (c b : Nat) (x : Block) : (s.setBlock c b x).bays = s.bays := rfl
@[simp] theorem State.setBlock_slices (s : State) (c b : Nat) (x : Block) : (s.setBlock c b x).slices = s.slices := rfl
@[simp] theorem State.setBlock_leases (s : State) (c b : Nat) (x : Block) : (s.setBlock c b x).leases = s.leases := rfl
@[simp] theorem State.setBlock_mem (s : State) (c b : Nat) (x : Block) : (s.setBlock c b x).mem = s.mem := rfl
@[simp] theorem State.setBlock_undef (s : State) (c b : Nat) (x : Block) : (s.setBlock c b x).undef = s.undef := rfl
@[simp] theorem State.setBlock_hist (s : State) (c b : Nat) (x : Block) : (s.setBlock c b x).hist = s.hist := rfl
@[simp] theorem State.setBlock_bad (s : State) (c b : Nat) (x : Block) : (s.setBlock c b x).bad = s.bad := rfl
@[simp] theorem State.setBlock_soffit (s : State) (c b : Nat) (x : Block) : (s.setBlock c b x).soffit = s.soffit := rfl
@[simp] theorem State.setBlock_services (s : State) (c b : Nat) (x : Block) : (s.setBlock c b x).services = s.services := rfl
@[simp] theorem State.setBlock_hostHor (s : State) (c b : Nat) (x : Block) : (s.setBlock c b x).hostHor = s.hostHor := rfl
@[simp] theorem State.setBlock_accs (s : State) (c b : Nat) (x : Block) : (s.setBlock c b x).accs = s.accs := rfl
@[simp] theorem State.setBlock_wrote (s : State) (c b : Nat) (x : Block) : (s.setBlock c b x).wrote = s.wrote := rfl
@[simp] theorem State.setBlock_seen (s : State) (c b : Nat) (x : Block) : (s.setBlock c b x).seen = s.seen := rfl
@[simp] theorem State.setBlock_nextAcc (s : State) (c b : Nat) (x : Block) : (s.setBlock c b x).nextAcc = s.nextAcc := rfl
@[simp] theorem State.setBlock_nextIss (s : State) (c b : Nat) (x : Block) : (s.setBlock c b x).nextIss = s.nextIss := rfl
@[simp] theorem State.setBlock_nextTag (s : State) (c b : Nat) (x : Block) : (s.setBlock c b x).nextTag = s.nextTag := rfl
@[simp] theorem State.setBlock_stepNo (s : State) (c b : Nat) (x : Block) : (s.setBlock c b x).stepNo = s.stepNo := rfl
@[simp] theorem State.setBlock_sched (s : State) (c b : Nat) (x : Block) : (s.setBlock c b x).sched = s.sched := rfl
@[simp] theorem State.setBlock_free (s : State) (c b : Nat) (x : Block) : (s.setBlock c b x).free = s.free := rfl
@[simp] theorem State.setBlock_agenda (s : State) (c b : Nat) (x : Block) : (s.setBlock c b x).agenda = s.agenda := rfl
@[simp] theorem State.setBlock_issue (s : State) (c b : Nat) (x : Block) : (s.setBlock c b x).issue = s.issue := rfl
@[simp] theorem State.setBlock_looks (s : State) (c b : Nat) (x : Block) : (s.setBlock c b x).looks = s.looks := rfl

/-! ## The same for updates of a course or block that may be absent -/

@[simp] theorem State.updCourse_t (s : State) (c k : Nat) (f : Course → Course) : (s.updCourse c k f).t = s.t := by unfold State.updCourse; split <;> rfl
@[simp] theorem State.updCourse_skew (s : State) (c k : Nat) (f : Course → Course) : (s.updCourse c k f).skew = s.skew := by unfold State.updCourse; split <;> rfl
@[simp] theorem State.updCourse_safe (s : State) (c k : Nat) (f : Course → Course) : (s.updCourse c k f).safe = s.safe := by unfold State.updCourse; split <;> rfl
@[simp] theorem State.updCourse_st (s : State) (c k : Nat) (f : Course → Course) : (s.updCourse c k f).st = s.st := by unfold State.updCourse; split <;> rfl
@[simp] theorem State.updCourse_tripFrom (s : State) (c k : Nat) (f : Course → Course) : (s.updCourse c k f).tripFrom = s.tripFrom := by unfold State.updCourse; split <;> rfl
@[simp] theorem State.updCourse_pkgid (s : State) (c k : Nat) (f : Course → Course) : (s.updCourse c k f).pkgid = s.pkgid := by unfold State.updCourse; split <;> rfl
@[simp] theorem State.updCourse_members (s : State) (c k : Nat) (f : Course → Course) : (s.updCourse c k f).members = s.members := by unfold State.updCourse; split <;> rfl
@[simp] theorem State.updCourse_fto (s : State) (c k : Nat) (f : Course → Course) : (s.updCourse c k f).fto = s.fto := by unfold State.updCourse; split <;> rfl
@[simp] theorem State.updCourse_pl (s : State) (c k : Nat) (f : Course → Course) : (s.updCourse c k f).pl = s.pl := by unfold State.updCourse; split <;> rfl
@[simp] theorem State.updCourse_pcap (s : State) (c k : Nat) (f : Course → Course) : (s.updCourse c k f).pcap = s.pcap := by unfold State.updCourse; split <;> rfl
@[simp] theorem State.updCourse_power (s : State) (c k : Nat) (f : Course → Course) : (s.updCourse c k f).power = s.power := by unfold State.updCourse; split <;> rfl
@[simp] theorem State.updCourse_powerAt (s : State) (c k : Nat) (f : Course → Course) : (s.updCourse c k f).powerAt = s.powerAt := by unfold State.updCourse; split <;> rfl
@[simp] theorem State.updCourse_colhot (s : State) (c k : Nat) (f : Course → Course) : (s.updCourse c k f).colhot = s.colhot := by unfold State.updCourse; split <;> rfl
@[simp] theorem State.updCourse_sensors (s : State) (c k : Nat) (f : Course → Course) : (s.updCourse c k f).sensors = s.sensors := by unfold State.updCourse; split <;> rfl
@[simp] theorem State.updCourse_sensedAt (s : State) (c k : Nat) (f : Course → Course) : (s.updCourse c k f).sensedAt = s.sensedAt := by unfold State.updCourse; split <;> rfl
@[simp] theorem State.updCourse_booterr (s : State) (c k : Nat) (f : Course → Course) : (s.updCourse c k f).booterr = s.booterr := by unfold State.updCourse; split <;> rfl
@[simp] theorem State.updCourse_cmd (s : State) (c k : Nat) (f : Course → Course) : (s.updCourse c k f).cmd = s.cmd := by unfold State.updCourse; split <;> rfl
@[simp] theorem State.updCourse_ans (s : State) (c k : Nat) (f : Course → Course) : (s.updCourse c k f).ans = s.ans := by unfold State.updCourse; split <;> rfl
@[simp] theorem State.updCourse_loaded (s : State) (c k : Nat) (f : Course → Course) : (s.updCourse c k f).loaded = s.loaded := by unfold State.updCourse; split <;> rfl
@[simp] theorem State.updCourse_report (s : State) (c k : Nat) (f : Course → Course) : (s.updCourse c k f).report = s.report := by unfold State.updCourse; split <;> rfl
@[simp] theorem State.updCourse_flash (s : State) (c k : Nat) (f : Course → Course) : (s.updCourse c k f).flash = s.flash := by unfold State.updCourse; split <;> rfl
@[simp] theorem State.updCourse_cols (s : State) (c k : Nat) (f : Course → Course) : (s.updCourse c k f).cols = s.cols := by unfold State.updCourse; split <;> rfl
@[simp] theorem State.updCourse_islands (s : State) (c k : Nat) (f : Course → Course) : (s.updCourse c k f).islands = s.islands := by unfold State.updCourse; split <;> rfl
@[simp] theorem State.updCourse_off (s : State) (c k : Nat) (f : Course → Course) : (s.updCourse c k f).off = s.off := by unfold State.updCourse; split <;> rfl
@[simp] theorem State.updCourse_banked (s : State) (c k : Nat) (f : Course → Course) : (s.updCourse c k f).banked = s.banked := by unfold State.updCourse; split <;> rfl
@[simp] theorem State.updCourse_hUp (s : State) (c k : Nat) (f : Course → Course) : (s.updCourse c k f).hUp = s.hUp := by unfold State.updCourse; split <;> rfl
@[simp] theorem State.updCourse_mUp (s : State) (c k : Nat) (f : Course → Course) : (s.updCourse c k f).mUp = s.mUp := by unfold State.updCourse; split <;> rfl
@[simp] theorem State.updCourse_hTo (s : State) (c k : Nat) (f : Course → Course) : (s.updCourse c k f).hTo = s.hTo := by unfold State.updCourse; split <;> rfl
@[simp] theorem State.updCourse_mTo (s : State) (c k : Nat) (f : Course → Course) : (s.updCourse c k f).mTo = s.mTo := by unfold State.updCourse; split <;> rfl
@[simp] theorem State.updCourse_planes (s : State) (c k : Nat) (f : Course → Course) : (s.updCourse c k f).planes = s.planes := by unfold State.updCourse; split <;> rfl
@[simp] theorem State.updCourse_heldPkts (s : State) (c k : Nat) (f : Course → Course) : (s.updCourse c k f).heldPkts = s.heldPkts := by unfold State.updCourse; split <;> rfl
@[simp] theorem State.updCourse_peerInc (s : State) (c k : Nat) (f : Course → Course) : (s.updCourse c k f).peerInc = s.peerInc := by unfold State.updCourse; split <;> rfl
@[simp] theorem State.updCourse_mcg (s : State) (c k : Nat) (f : Course → Course) : (s.updCourse c k f).mcg = s.mcg := by unfold State.updCourse; split <;> rfl
@[simp] theorem State.updCourse_ridges (s : State) (c k : Nat) (f : Course → Course) : (s.updCourse c k f).ridges = s.ridges := by unfold State.updCourse; split <;> rfl
@[simp] theorem State.updCourse_stages (s : State) (c k : Nat) (f : Course → Course) : (s.updCourse c k f).stages = s.stages := by unfold State.updCourse; split <;> rfl
@[simp] theorem State.updCourse_txns (s : State) (c k : Nat) (f : Course → Course) : (s.updCourse c k f).txns = s.txns := by unfold State.updCourse; split <;> rfl
@[simp] theorem State.updCourse_mcsts (s : State) (c k : Nat) (f : Course → Course) : (s.updCourse c k f).mcsts = s.mcsts := by unfold State.updCourse; split <;> rfl
@[simp] theorem State.updCourse_proxies (s : State) (c k : Nat) (f : Course → Course) : (s.updCourse c k f).proxies = s.proxies := by unfold State.updCourse; split <;> rfl
@[simp] theorem State.updCourse_peerMon (s : State) (c k : Nat) (f : Course → Course) : (s.updCourse c k f).peerMon = s.peerMon := by unfold State.updCourse; split <;> rfl
@[simp] theorem State.updCourse_out (s : State) (c k : Nat) (f : Course → Course) : (s.updCourse c k f).out = s.out := by unfold State.updCourse; split <;> rfl
@[simp] theorem State.updCourse_svc (s : State) (c k : Nat) (f : Course → Course) : (s.updCourse c k f).svc = s.svc := by unfold State.updCourse; split <;> rfl
@[simp] theorem State.updCourse_svcWait (s : State) (c k : Nat) (f : Course → Course) : (s.updCourse c k f).svcWait = s.svcWait := by unfold State.updCourse; split <;> rfl
@[simp] theorem State.updCourse_bays (s : State) (c k : Nat) (f : Course → Course) : (s.updCourse c k f).bays = s.bays := by unfold State.updCourse; split <;> rfl
@[simp] theorem State.updCourse_slices (s : State) (c k : Nat) (f : Course → Course) : (s.updCourse c k f).slices = s.slices := by unfold State.updCourse; split <;> rfl
@[simp] theorem State.updCourse_leases (s : State) (c k : Nat) (f : Course → Course) : (s.updCourse c k f).leases = s.leases := by unfold State.updCourse; split <;> rfl
@[simp] theorem State.updCourse_mem (s : State) (c k : Nat) (f : Course → Course) : (s.updCourse c k f).mem = s.mem := by unfold State.updCourse; split <;> rfl
@[simp] theorem State.updCourse_undef (s : State) (c k : Nat) (f : Course → Course) : (s.updCourse c k f).undef = s.undef := by unfold State.updCourse; split <;> rfl
@[simp] theorem State.updCourse_hist (s : State) (c k : Nat) (f : Course → Course) : (s.updCourse c k f).hist = s.hist := by unfold State.updCourse; split <;> rfl
@[simp] theorem State.updCourse_bad (s : State) (c k : Nat) (f : Course → Course) : (s.updCourse c k f).bad = s.bad := by unfold State.updCourse; split <;> rfl
@[simp] theorem State.updCourse_soffit (s : State) (c k : Nat) (f : Course → Course) : (s.updCourse c k f).soffit = s.soffit := by unfold State.updCourse; split <;> rfl
@[simp] theorem State.updCourse_services (s : State) (c k : Nat) (f : Course → Course) : (s.updCourse c k f).services = s.services := by unfold State.updCourse; split <;> rfl
@[simp] theorem State.updCourse_hostHor (s : State) (c k : Nat) (f : Course → Course) : (s.updCourse c k f).hostHor = s.hostHor := by unfold State.updCourse; split <;> rfl
@[simp] theorem State.updCourse_accs (s : State) (c k : Nat) (f : Course → Course) : (s.updCourse c k f).accs = s.accs := by unfold State.updCourse; split <;> rfl
@[simp] theorem State.updCourse_wrote (s : State) (c k : Nat) (f : Course → Course) : (s.updCourse c k f).wrote = s.wrote := by unfold State.updCourse; split <;> rfl
@[simp] theorem State.updCourse_seen (s : State) (c k : Nat) (f : Course → Course) : (s.updCourse c k f).seen = s.seen := by unfold State.updCourse; split <;> rfl
@[simp] theorem State.updCourse_nextAcc (s : State) (c k : Nat) (f : Course → Course) : (s.updCourse c k f).nextAcc = s.nextAcc := by unfold State.updCourse; split <;> rfl
@[simp] theorem State.updCourse_nextIss (s : State) (c k : Nat) (f : Course → Course) : (s.updCourse c k f).nextIss = s.nextIss := by unfold State.updCourse; split <;> rfl
@[simp] theorem State.updCourse_nextTag (s : State) (c k : Nat) (f : Course → Course) : (s.updCourse c k f).nextTag = s.nextTag := by unfold State.updCourse; split <;> rfl
@[simp] theorem State.updCourse_stepNo (s : State) (c k : Nat) (f : Course → Course) : (s.updCourse c k f).stepNo = s.stepNo := by unfold State.updCourse; split <;> rfl
@[simp] theorem State.updCourse_sched (s : State) (c k : Nat) (f : Course → Course) : (s.updCourse c k f).sched = s.sched := by unfold State.updCourse; split <;> rfl
@[simp] theorem State.updCourse_free (s : State) (c k : Nat) (f : Course → Course) : (s.updCourse c k f).free = s.free := by unfold State.updCourse; split <;> rfl
@[simp] theorem State.updCourse_agenda (s : State) (c k : Nat) (f : Course → Course) : (s.updCourse c k f).agenda = s.agenda := by unfold State.updCourse; split <;> rfl
@[simp] theorem State.updCourse_issue (s : State) (c k : Nat) (f : Course → Course) : (s.updCourse c k f).issue = s.issue := by unfold State.updCourse; split <;> rfl
@[simp] theorem State.updCourse_looks (s : State) (c k : Nat) (f : Course → Course) : (s.updCourse c k f).looks = s.looks := by unfold State.updCourse; split <;> rfl

@[simp] theorem State.updBlock_t (s : State) (c b : Nat) (f : Block → Block) : (s.updBlock c b f).t = s.t := by unfold State.updBlock; split <;> rfl
@[simp] theorem State.updBlock_skew (s : State) (c b : Nat) (f : Block → Block) : (s.updBlock c b f).skew = s.skew := by unfold State.updBlock; split <;> rfl
@[simp] theorem State.updBlock_safe (s : State) (c b : Nat) (f : Block → Block) : (s.updBlock c b f).safe = s.safe := by unfold State.updBlock; split <;> rfl
@[simp] theorem State.updBlock_st (s : State) (c b : Nat) (f : Block → Block) : (s.updBlock c b f).st = s.st := by unfold State.updBlock; split <;> rfl
@[simp] theorem State.updBlock_tripFrom (s : State) (c b : Nat) (f : Block → Block) : (s.updBlock c b f).tripFrom = s.tripFrom := by unfold State.updBlock; split <;> rfl
@[simp] theorem State.updBlock_pkgid (s : State) (c b : Nat) (f : Block → Block) : (s.updBlock c b f).pkgid = s.pkgid := by unfold State.updBlock; split <;> rfl
@[simp] theorem State.updBlock_members (s : State) (c b : Nat) (f : Block → Block) : (s.updBlock c b f).members = s.members := by unfold State.updBlock; split <;> rfl
@[simp] theorem State.updBlock_fto (s : State) (c b : Nat) (f : Block → Block) : (s.updBlock c b f).fto = s.fto := by unfold State.updBlock; split <;> rfl
@[simp] theorem State.updBlock_pl (s : State) (c b : Nat) (f : Block → Block) : (s.updBlock c b f).pl = s.pl := by unfold State.updBlock; split <;> rfl
@[simp] theorem State.updBlock_pcap (s : State) (c b : Nat) (f : Block → Block) : (s.updBlock c b f).pcap = s.pcap := by unfold State.updBlock; split <;> rfl
@[simp] theorem State.updBlock_power (s : State) (c b : Nat) (f : Block → Block) : (s.updBlock c b f).power = s.power := by unfold State.updBlock; split <;> rfl
@[simp] theorem State.updBlock_powerAt (s : State) (c b : Nat) (f : Block → Block) : (s.updBlock c b f).powerAt = s.powerAt := by unfold State.updBlock; split <;> rfl
@[simp] theorem State.updBlock_colhot (s : State) (c b : Nat) (f : Block → Block) : (s.updBlock c b f).colhot = s.colhot := by unfold State.updBlock; split <;> rfl
@[simp] theorem State.updBlock_sensors (s : State) (c b : Nat) (f : Block → Block) : (s.updBlock c b f).sensors = s.sensors := by unfold State.updBlock; split <;> rfl
@[simp] theorem State.updBlock_sensedAt (s : State) (c b : Nat) (f : Block → Block) : (s.updBlock c b f).sensedAt = s.sensedAt := by unfold State.updBlock; split <;> rfl
@[simp] theorem State.updBlock_booterr (s : State) (c b : Nat) (f : Block → Block) : (s.updBlock c b f).booterr = s.booterr := by unfold State.updBlock; split <;> rfl
@[simp] theorem State.updBlock_cmd (s : State) (c b : Nat) (f : Block → Block) : (s.updBlock c b f).cmd = s.cmd := by unfold State.updBlock; split <;> rfl
@[simp] theorem State.updBlock_ans (s : State) (c b : Nat) (f : Block → Block) : (s.updBlock c b f).ans = s.ans := by unfold State.updBlock; split <;> rfl
@[simp] theorem State.updBlock_loaded (s : State) (c b : Nat) (f : Block → Block) : (s.updBlock c b f).loaded = s.loaded := by unfold State.updBlock; split <;> rfl
@[simp] theorem State.updBlock_report (s : State) (c b : Nat) (f : Block → Block) : (s.updBlock c b f).report = s.report := by unfold State.updBlock; split <;> rfl
@[simp] theorem State.updBlock_flash (s : State) (c b : Nat) (f : Block → Block) : (s.updBlock c b f).flash = s.flash := by unfold State.updBlock; split <;> rfl
@[simp] theorem State.updBlock_cols (s : State) (c b : Nat) (f : Block → Block) : (s.updBlock c b f).cols = s.cols := by unfold State.updBlock; split <;> rfl
@[simp] theorem State.updBlock_islands (s : State) (c b : Nat) (f : Block → Block) : (s.updBlock c b f).islands = s.islands := by unfold State.updBlock; split <;> rfl
@[simp] theorem State.updBlock_off (s : State) (c b : Nat) (f : Block → Block) : (s.updBlock c b f).off = s.off := by unfold State.updBlock; split <;> rfl
@[simp] theorem State.updBlock_banked (s : State) (c b : Nat) (f : Block → Block) : (s.updBlock c b f).banked = s.banked := by unfold State.updBlock; split <;> rfl
@[simp] theorem State.updBlock_hUp (s : State) (c b : Nat) (f : Block → Block) : (s.updBlock c b f).hUp = s.hUp := by unfold State.updBlock; split <;> rfl
@[simp] theorem State.updBlock_mUp (s : State) (c b : Nat) (f : Block → Block) : (s.updBlock c b f).mUp = s.mUp := by unfold State.updBlock; split <;> rfl
@[simp] theorem State.updBlock_hTo (s : State) (c b : Nat) (f : Block → Block) : (s.updBlock c b f).hTo = s.hTo := by unfold State.updBlock; split <;> rfl
@[simp] theorem State.updBlock_mTo (s : State) (c b : Nat) (f : Block → Block) : (s.updBlock c b f).mTo = s.mTo := by unfold State.updBlock; split <;> rfl
@[simp] theorem State.updBlock_planes (s : State) (c b : Nat) (f : Block → Block) : (s.updBlock c b f).planes = s.planes := by unfold State.updBlock; split <;> rfl
@[simp] theorem State.updBlock_heldPkts (s : State) (c b : Nat) (f : Block → Block) : (s.updBlock c b f).heldPkts = s.heldPkts := by unfold State.updBlock; split <;> rfl
@[simp] theorem State.updBlock_peerInc (s : State) (c b : Nat) (f : Block → Block) : (s.updBlock c b f).peerInc = s.peerInc := by unfold State.updBlock; split <;> rfl
@[simp] theorem State.updBlock_mcg (s : State) (c b : Nat) (f : Block → Block) : (s.updBlock c b f).mcg = s.mcg := by unfold State.updBlock; split <;> rfl
@[simp] theorem State.updBlock_ridges (s : State) (c b : Nat) (f : Block → Block) : (s.updBlock c b f).ridges = s.ridges := by unfold State.updBlock; split <;> rfl
@[simp] theorem State.updBlock_stages (s : State) (c b : Nat) (f : Block → Block) : (s.updBlock c b f).stages = s.stages := by unfold State.updBlock; split <;> rfl
@[simp] theorem State.updBlock_txns (s : State) (c b : Nat) (f : Block → Block) : (s.updBlock c b f).txns = s.txns := by unfold State.updBlock; split <;> rfl
@[simp] theorem State.updBlock_mcsts (s : State) (c b : Nat) (f : Block → Block) : (s.updBlock c b f).mcsts = s.mcsts := by unfold State.updBlock; split <;> rfl
@[simp] theorem State.updBlock_proxies (s : State) (c b : Nat) (f : Block → Block) : (s.updBlock c b f).proxies = s.proxies := by unfold State.updBlock; split <;> rfl
@[simp] theorem State.updBlock_peerMon (s : State) (c b : Nat) (f : Block → Block) : (s.updBlock c b f).peerMon = s.peerMon := by unfold State.updBlock; split <;> rfl
@[simp] theorem State.updBlock_out (s : State) (c b : Nat) (f : Block → Block) : (s.updBlock c b f).out = s.out := by unfold State.updBlock; split <;> rfl
@[simp] theorem State.updBlock_svc (s : State) (c b : Nat) (f : Block → Block) : (s.updBlock c b f).svc = s.svc := by unfold State.updBlock; split <;> rfl
@[simp] theorem State.updBlock_svcWait (s : State) (c b : Nat) (f : Block → Block) : (s.updBlock c b f).svcWait = s.svcWait := by unfold State.updBlock; split <;> rfl
@[simp] theorem State.updBlock_bays (s : State) (c b : Nat) (f : Block → Block) : (s.updBlock c b f).bays = s.bays := by unfold State.updBlock; split <;> rfl
@[simp] theorem State.updBlock_slices (s : State) (c b : Nat) (f : Block → Block) : (s.updBlock c b f).slices = s.slices := by unfold State.updBlock; split <;> rfl
@[simp] theorem State.updBlock_leases (s : State) (c b : Nat) (f : Block → Block) : (s.updBlock c b f).leases = s.leases := by unfold State.updBlock; split <;> rfl
@[simp] theorem State.updBlock_mem (s : State) (c b : Nat) (f : Block → Block) : (s.updBlock c b f).mem = s.mem := by unfold State.updBlock; split <;> rfl
@[simp] theorem State.updBlock_undef (s : State) (c b : Nat) (f : Block → Block) : (s.updBlock c b f).undef = s.undef := by unfold State.updBlock; split <;> rfl
@[simp] theorem State.updBlock_hist (s : State) (c b : Nat) (f : Block → Block) : (s.updBlock c b f).hist = s.hist := by unfold State.updBlock; split <;> rfl
@[simp] theorem State.updBlock_bad (s : State) (c b : Nat) (f : Block → Block) : (s.updBlock c b f).bad = s.bad := by unfold State.updBlock; split <;> rfl
@[simp] theorem State.updBlock_soffit (s : State) (c b : Nat) (f : Block → Block) : (s.updBlock c b f).soffit = s.soffit := by unfold State.updBlock; split <;> rfl
@[simp] theorem State.updBlock_services (s : State) (c b : Nat) (f : Block → Block) : (s.updBlock c b f).services = s.services := by unfold State.updBlock; split <;> rfl
@[simp] theorem State.updBlock_hostHor (s : State) (c b : Nat) (f : Block → Block) : (s.updBlock c b f).hostHor = s.hostHor := by unfold State.updBlock; split <;> rfl
@[simp] theorem State.updBlock_accs (s : State) (c b : Nat) (f : Block → Block) : (s.updBlock c b f).accs = s.accs := by unfold State.updBlock; split <;> rfl
@[simp] theorem State.updBlock_wrote (s : State) (c b : Nat) (f : Block → Block) : (s.updBlock c b f).wrote = s.wrote := by unfold State.updBlock; split <;> rfl
@[simp] theorem State.updBlock_seen (s : State) (c b : Nat) (f : Block → Block) : (s.updBlock c b f).seen = s.seen := by unfold State.updBlock; split <;> rfl
@[simp] theorem State.updBlock_nextAcc (s : State) (c b : Nat) (f : Block → Block) : (s.updBlock c b f).nextAcc = s.nextAcc := by unfold State.updBlock; split <;> rfl
@[simp] theorem State.updBlock_nextIss (s : State) (c b : Nat) (f : Block → Block) : (s.updBlock c b f).nextIss = s.nextIss := by unfold State.updBlock; split <;> rfl
@[simp] theorem State.updBlock_nextTag (s : State) (c b : Nat) (f : Block → Block) : (s.updBlock c b f).nextTag = s.nextTag := by unfold State.updBlock; split <;> rfl
@[simp] theorem State.updBlock_stepNo (s : State) (c b : Nat) (f : Block → Block) : (s.updBlock c b f).stepNo = s.stepNo := by unfold State.updBlock; split <;> rfl
@[simp] theorem State.updBlock_sched (s : State) (c b : Nat) (f : Block → Block) : (s.updBlock c b f).sched = s.sched := by unfold State.updBlock; split <;> rfl
@[simp] theorem State.updBlock_free (s : State) (c b : Nat) (f : Block → Block) : (s.updBlock c b f).free = s.free := by unfold State.updBlock; split <;> rfl
@[simp] theorem State.updBlock_agenda (s : State) (c b : Nat) (f : Block → Block) : (s.updBlock c b f).agenda = s.agenda := by unfold State.updBlock; split <;> rfl
@[simp] theorem State.updBlock_issue (s : State) (c b : Nat) (f : Block → Block) : (s.updBlock c b f).issue = s.issue := by unfold State.updBlock; split <;> rfl
@[simp] theorem State.updBlock_looks (s : State) (c b : Nat) (f : Block → Block) : (s.updBlock c b f).looks = s.looks := by unfold State.updBlock; split <;> rfl

/-! ## A lane: a register or predicate written -/

@[simp] theorem Lane.wv_pc (ln : Lane) (r : Nat) (x : W32) : (ln.wv r x).pc = ln.pc := rfl
@[simp] theorem Lane.wv_p (ln : Lane) (r : Nat) (x : W32) : (ln.wv r x).p = ln.p := rfl
@[simp] theorem Lane.wv_fair (ln : Lane) (r : Nat) (x : W32) : (ln.wv r x).fair = ln.fair := rfl
@[simp] theorem Lane.wv_st (ln : Lane) (r : Nat) (x : W32) : (ln.wv r x).st = ln.st := rfl
@[simp] theorem Lane.wv_wid (ln : Lane) (r : Nat) (x : W32) : (ln.wv r x).wid = ln.wid := rfl
@[simp] theorem Lane.wv_spc (ln : Lane) (r : Nat) (x : W32) : (ln.wv r x).spc = ln.spc := rfl
@[simp] theorem Lane.wv_skind (ln : Lane) (r : Nat) (x : W32) : (ln.wv r x).skind = ln.skind := rfl
@[simp] theorem Lane.wv_hor (ln : Lane) (r : Nat) (x : W32) : (ln.wv r x).hor = ln.hor := rfl
@[simp] theorem Lane.wv_acq (ln : Lane) (r : Nat) (x : W32) : (ln.wv r x).acq = ln.acq := rfl
@[simp] theorem Lane.wv_fence (ln : Lane) (r : Nat) (x : W32) : (ln.wv r x).fence = ln.fence := rfl
@[simp] theorem Lane.wv_wt (ln : Lane) (r : Nat) (x : W32) : (ln.wv r x).wt = ln.wt := rfl
@[simp] theorem Lane.wv2_pc (ln : Lane) (r : Nat) (x : W64) : (ln.wv2 r x).pc = ln.pc := rfl
@[simp] theorem Lane.wv2_p (ln : Lane) (r : Nat) (x : W64) : (ln.wv2 r x).p = ln.p := rfl
@[simp] theorem Lane.wv2_fair (ln : Lane) (r : Nat) (x : W64) : (ln.wv2 r x).fair = ln.fair := rfl
@[simp] theorem Lane.wv2_st (ln : Lane) (r : Nat) (x : W64) : (ln.wv2 r x).st = ln.st := rfl
@[simp] theorem Lane.wv2_wid (ln : Lane) (r : Nat) (x : W64) : (ln.wv2 r x).wid = ln.wid := rfl
@[simp] theorem Lane.wv2_spc (ln : Lane) (r : Nat) (x : W64) : (ln.wv2 r x).spc = ln.spc := rfl
@[simp] theorem Lane.wv2_skind (ln : Lane) (r : Nat) (x : W64) : (ln.wv2 r x).skind = ln.skind := rfl
@[simp] theorem Lane.wv2_hor (ln : Lane) (r : Nat) (x : W64) : (ln.wv2 r x).hor = ln.hor := rfl
@[simp] theorem Lane.wv2_acq (ln : Lane) (r : Nat) (x : W64) : (ln.wv2 r x).acq = ln.acq := rfl
@[simp] theorem Lane.wv2_fence (ln : Lane) (r : Nat) (x : W64) : (ln.wv2 r x).fence = ln.fence := rfl
@[simp] theorem Lane.wv2_wt (ln : Lane) (r : Nat) (x : W64) : (ln.wv2 r x).wt = ln.wt := rfl
@[simp] theorem Lane.wv4_pc (ln : Lane) (r : Nat) (x : W128) : (ln.wv4 r x).pc = ln.pc := rfl
@[simp] theorem Lane.wv4_p (ln : Lane) (r : Nat) (x : W128) : (ln.wv4 r x).p = ln.p := rfl
@[simp] theorem Lane.wv4_fair (ln : Lane) (r : Nat) (x : W128) : (ln.wv4 r x).fair = ln.fair := rfl
@[simp] theorem Lane.wv4_st (ln : Lane) (r : Nat) (x : W128) : (ln.wv4 r x).st = ln.st := rfl
@[simp] theorem Lane.wv4_wid (ln : Lane) (r : Nat) (x : W128) : (ln.wv4 r x).wid = ln.wid := rfl
@[simp] theorem Lane.wv4_spc (ln : Lane) (r : Nat) (x : W128) : (ln.wv4 r x).spc = ln.spc := rfl
@[simp] theorem Lane.wv4_skind (ln : Lane) (r : Nat) (x : W128) : (ln.wv4 r x).skind = ln.skind := rfl
@[simp] theorem Lane.wv4_hor (ln : Lane) (r : Nat) (x : W128) : (ln.wv4 r x).hor = ln.hor := rfl
@[simp] theorem Lane.wv4_acq (ln : Lane) (r : Nat) (x : W128) : (ln.wv4 r x).acq = ln.acq := rfl
@[simp] theorem Lane.wv4_fence (ln : Lane) (r : Nat) (x : W128) : (ln.wv4 r x).fence = ln.fence := rfl
@[simp] theorem Lane.wv4_wt (ln : Lane) (r : Nat) (x : W128) : (ln.wv4 r x).wt = ln.wt := rfl
@[simp] theorem Lane.wv_v (ln : Lane) (r : Nat) (x : W32) : (ln.wv r x).v = mset ln.v r x := rfl

@[simp] theorem Lane.wp_pc (ln : Lane) (k : PReg) (b : Bool) : (ln.wp k b).pc = ln.pc := by unfold Lane.wp; split <;> rfl
@[simp] theorem Lane.wp_v (ln : Lane) (k : PReg) (b : Bool) : (ln.wp k b).v = ln.v := by unfold Lane.wp; split <;> rfl
@[simp] theorem Lane.wp_fair (ln : Lane) (k : PReg) (b : Bool) : (ln.wp k b).fair = ln.fair := by unfold Lane.wp; split <;> rfl
@[simp] theorem Lane.wp_st (ln : Lane) (k : PReg) (b : Bool) : (ln.wp k b).st = ln.st := by unfold Lane.wp; split <;> rfl
@[simp] theorem Lane.wp_wid (ln : Lane) (k : PReg) (b : Bool) : (ln.wp k b).wid = ln.wid := by unfold Lane.wp; split <;> rfl
@[simp] theorem Lane.wp_spc (ln : Lane) (k : PReg) (b : Bool) : (ln.wp k b).spc = ln.spc := by unfold Lane.wp; split <;> rfl
@[simp] theorem Lane.wp_skind (ln : Lane) (k : PReg) (b : Bool) : (ln.wp k b).skind = ln.skind := by unfold Lane.wp; split <;> rfl
@[simp] theorem Lane.wp_hor (ln : Lane) (k : PReg) (b : Bool) : (ln.wp k b).hor = ln.hor := by unfold Lane.wp; split <;> rfl
@[simp] theorem Lane.wp_acq (ln : Lane) (k : PReg) (b : Bool) : (ln.wp k b).acq = ln.acq := by unfold Lane.wp; split <;> rfl
@[simp] theorem Lane.wp_fence (ln : Lane) (k : PReg) (b : Bool) : (ln.wp k b).fence = ln.fence := by unfold Lane.wp; split <;> rfl
@[simp] theorem Lane.wp_wt (ln : Lane) (k : PReg) (b : Bool) : (ln.wp k b).wt = ln.wt := by unfold Lane.wp; split <;> rfl

/-! ## A course: lanes, uniform registers or handles written -/

@[simp] theorem Course.mapLanes_blk (c : Course) (f : Nat → Lane → Lane) : (c.mapLanes f).blk = c.blk := rfl
@[simp] theorem Course.mapLanes_idx (c : Course) (f : Nat → Lane → Lane) : (c.mapLanes f).idx = c.idx := rfl
@[simp] theorem Course.mapLanes_u (c : Course) (f : Nat → Lane → Lane) : (c.mapLanes f).u = c.u := rfl
@[simp] theorem Course.mapLanes_h (c : Course) (f : Nat → Lane → Lane) : (c.mapLanes f).h = c.h := rfl
@[simp] theorem Course.mapLanes_prv (c : Course) (f : Nat → Lane → Lane) : (c.mapLanes f).prv = c.prv := rfl
@[simp] theorem Course.mapLanes_ts (c : Course) (f : Nat → Lane → Lane) : (c.mapLanes f).ts = c.ts := rfl
@[simp] theorem Course.mapLanes_cause (c : Course) (f : Nat → Lane → Lane) : (c.mapLanes f).cause = c.cause := rfl
@[simp] theorem Course.mapLanes_addr (c : Course) (f : Nat → Lane → Lane) : (c.mapLanes f).addr = c.addr := rfl
@[simp] theorem Course.mapLanes_trap (c : Course) (f : Nat → Lane → Lane) : (c.mapLanes f).trap = c.trap := rfl
@[simp] theorem Course.mapLanes_wins (c : Course) (f : Nat → Lane → Lane) : (c.mapLanes f).wins = c.wins := rfl
@[simp] theorem Course.mapLanes_active (c : Course) (f : Nat → Lane → Lane) : (c.mapLanes f).active = c.active := rfl
@[simp] theorem Course.mapLanes_since (c : Course) (f : Nat → Lane → Lane) : (c.mapLanes f).since = c.since := rfl
@[simp] theorem Course.mapLanes_cyc (c : Course) (f : Nat → Lane → Lane) : (c.mapLanes f).cyc = c.cyc := rfl
@[simp] theorem Course.mapLanes_lastL (c : Course) (f : Nat → Lane → Lane) : (c.mapLanes f).lastL = c.lastL := rfl
@[simp] theorem Course.mapLanes_lastU (c : Course) (f : Nat → Lane → Lane) : (c.mapLanes f).lastU = c.lastU := rfl
@[simp] theorem Course.mapLanes_yield (c : Course) (f : Nat → Lane → Lane) : (c.mapLanes f).yield = c.yield := rfl
@[simp] theorem Course.mapLanes_issv (c : Course) (f : Nat → Lane → Lane) : (c.mapLanes f).issv = c.issv := rfl
@[simp] theorem Course.mapLanes_accOps (c : Course) (f : Nat → Lane → Lane) : (c.mapLanes f).accOps = c.accOps := rfl
@[simp] theorem Course.mapLanes_mcst (c : Course) (f : Nat → Lane → Lane) : (c.mapLanes f).mcst = c.mcst := rfl
@[simp] theorem Course.mapLanes_sres (c : Course) (f : Nat → Lane → Lane) : (c.mapLanes f).sres = c.sres := rfl
@[simp] theorem Course.mapLanes_lead (c : Course) (f : Nat → Lane → Lane) : (c.mapLanes f).lead = c.lead := rfl
@[simp] theorem Course.mapLanes_lanes (c : Course) (f : Nat → Lane → Lane) : (c.mapLanes f).lanes = (List.range 8).map (fun l => f l (c.lane l)) := rfl

@[simp] theorem Course.updLane_blk (c : Course) (l : Nat) (f : Lane → Lane) : (c.updLane l f).blk = c.blk := rfl
@[simp] theorem Course.updLane_idx (c : Course) (l : Nat) (f : Lane → Lane) : (c.updLane l f).idx = c.idx := rfl
@[simp] theorem Course.updLane_u (c : Course) (l : Nat) (f : Lane → Lane) : (c.updLane l f).u = c.u := rfl
@[simp] theorem Course.updLane_h (c : Course) (l : Nat) (f : Lane → Lane) : (c.updLane l f).h = c.h := rfl
@[simp] theorem Course.updLane_prv (c : Course) (l : Nat) (f : Lane → Lane) : (c.updLane l f).prv = c.prv := rfl
@[simp] theorem Course.updLane_ts (c : Course) (l : Nat) (f : Lane → Lane) : (c.updLane l f).ts = c.ts := rfl
@[simp] theorem Course.updLane_cause (c : Course) (l : Nat) (f : Lane → Lane) : (c.updLane l f).cause = c.cause := rfl
@[simp] theorem Course.updLane_addr (c : Course) (l : Nat) (f : Lane → Lane) : (c.updLane l f).addr = c.addr := rfl
@[simp] theorem Course.updLane_trap (c : Course) (l : Nat) (f : Lane → Lane) : (c.updLane l f).trap = c.trap := rfl
@[simp] theorem Course.updLane_wins (c : Course) (l : Nat) (f : Lane → Lane) : (c.updLane l f).wins = c.wins := rfl
@[simp] theorem Course.updLane_active (c : Course) (l : Nat) (f : Lane → Lane) : (c.updLane l f).active = c.active := rfl
@[simp] theorem Course.updLane_since (c : Course) (l : Nat) (f : Lane → Lane) : (c.updLane l f).since = c.since := rfl
@[simp] theorem Course.updLane_cyc (c : Course) (l : Nat) (f : Lane → Lane) : (c.updLane l f).cyc = c.cyc := rfl
@[simp] theorem Course.updLane_lastL (c : Course) (l : Nat) (f : Lane → Lane) : (c.updLane l f).lastL = c.lastL := rfl
@[simp] theorem Course.updLane_lastU (c : Course) (l : Nat) (f : Lane → Lane) : (c.updLane l f).lastU = c.lastU := rfl
@[simp] theorem Course.updLane_yield (c : Course) (l : Nat) (f : Lane → Lane) : (c.updLane l f).yield = c.yield := rfl
@[simp] theorem Course.updLane_issv (c : Course) (l : Nat) (f : Lane → Lane) : (c.updLane l f).issv = c.issv := rfl
@[simp] theorem Course.updLane_accOps (c : Course) (l : Nat) (f : Lane → Lane) : (c.updLane l f).accOps = c.accOps := rfl
@[simp] theorem Course.updLane_mcst (c : Course) (l : Nat) (f : Lane → Lane) : (c.updLane l f).mcst = c.mcst := rfl
@[simp] theorem Course.updLane_sres (c : Course) (l : Nat) (f : Lane → Lane) : (c.updLane l f).sres = c.sres := rfl
@[simp] theorem Course.updLane_lead (c : Course) (l : Nat) (f : Lane → Lane) : (c.updLane l f).lead = c.lead := rfl
@[simp] theorem Course.wh_blk (c : Course) (k : Nat) (x : W64) : (c.wh k x).blk = c.blk := rfl
@[simp] theorem Course.wh_idx (c : Course) (k : Nat) (x : W64) : (c.wh k x).idx = c.idx := rfl
@[simp] theorem Course.wh_lanes (c : Course) (k : Nat) (x : W64) : (c.wh k x).lanes = c.lanes := rfl
@[simp] theorem Course.wh_u (c : Course) (k : Nat) (x : W64) : (c.wh k x).u = c.u := rfl
@[simp] theorem Course.wh_prv (c : Course) (k : Nat) (x : W64) : (c.wh k x).prv = c.prv := rfl
@[simp] theorem Course.wh_ts (c : Course) (k : Nat) (x : W64) : (c.wh k x).ts = c.ts := rfl
@[simp] theorem Course.wh_cause (c : Course) (k : Nat) (x : W64) : (c.wh k x).cause = c.cause := rfl
@[simp] theorem Course.wh_addr (c : Course) (k : Nat) (x : W64) : (c.wh k x).addr = c.addr := rfl
@[simp] theorem Course.wh_trap (c : Course) (k : Nat) (x : W64) : (c.wh k x).trap = c.trap := rfl
@[simp] theorem Course.wh_wins (c : Course) (k : Nat) (x : W64) : (c.wh k x).wins = c.wins := rfl
@[simp] theorem Course.wh_active (c : Course) (k : Nat) (x : W64) : (c.wh k x).active = c.active := rfl
@[simp] theorem Course.wh_since (c : Course) (k : Nat) (x : W64) : (c.wh k x).since = c.since := rfl
@[simp] theorem Course.wh_cyc (c : Course) (k : Nat) (x : W64) : (c.wh k x).cyc = c.cyc := rfl
@[simp] theorem Course.wh_lastL (c : Course) (k : Nat) (x : W64) : (c.wh k x).lastL = c.lastL := rfl
@[simp] theorem Course.wh_lastU (c : Course) (k : Nat) (x : W64) : (c.wh k x).lastU = c.lastU := rfl
@[simp] theorem Course.wh_yield (c : Course) (k : Nat) (x : W64) : (c.wh k x).yield = c.yield := rfl
@[simp] theorem Course.wh_issv (c : Course) (k : Nat) (x : W64) : (c.wh k x).issv = c.issv := rfl
@[simp] theorem Course.wh_accOps (c : Course) (k : Nat) (x : W64) : (c.wh k x).accOps = c.accOps := rfl
@[simp] theorem Course.wh_mcst (c : Course) (k : Nat) (x : W64) : (c.wh k x).mcst = c.mcst := rfl
@[simp] theorem Course.wh_sres (c : Course) (k : Nat) (x : W64) : (c.wh k x).sres = c.sres := rfl
@[simp] theorem Course.wh_lead (c : Course) (k : Nat) (x : W64) : (c.wh k x).lead = c.lead := rfl
@[simp] theorem Course.wh_h (c : Course) (k : Nat) (x : W64) : (c.wh k x).h = mset c.h k x := rfl

@[simp] theorem Uni.ws_q (u : Uni) (r : Nat) (x : W64) : (u.ws r x).q = u.q := rfl
@[simp] theorem Uni.ws_s (u : Uni) (r : Nat) (x : W64) : (u.ws r x).s = mset u.s r x := rfl
@[simp] theorem Uni.wq_s (u : Uni) (k : BitVec 3) (b : Bool) : (u.wq k b).s = u.s := by unfold Uni.wq; split <;> rfl

end Sys2Proof.Machine
end

