-- ==== Sys2Proof/Laws/Registers.lean ====
section
/-! SUPPORT. Read after write: registers of a lane and of a course, lanes of a course, courses and blocks of a core, cores and bays of
the package. -/

namespace Sys2Proof.Machine

/-! ## v, p, s, q and h registers -/

theorem Lane.rv_wv (ln : Lane) (r q : Nat) (x : W32) : (ln.wv r x).rv q = if q = r then x else ln.rv q := by
  simp [Lane.rv, Lane.wv, mget_mset]

@[simp] theorem Lane.rv_wv_self (ln : Lane) (r : Nat) (x : W32) : (ln.wv r x).rv r = x := by simp [Lane.rv_wv]

theorem Lane.rv_wv_ne (ln : Lane) {r q : Nat} (x : W32) (h : q ≠ r) : (ln.wv r x).rv q = ln.rv q := by
  simp [Lane.rv_wv, h]

@[simp] theorem Lane.rv_wp (ln : Lane) (k : PReg) (b : Bool) (r : Nat) : (ln.wp k b).rv r = ln.rv r := by
  simp [Lane.rv]

@[simp] theorem Lane.rp_wv (ln : Lane) (k : PReg) (r : Nat) (x : W32) : (ln.wv r x).rp k = ln.rp k := rfl
@[simp] theorem Lane.rp_wv2 (ln : Lane) (k : PReg) (r : Nat) (x : W64) : (ln.wv2 r x).rp k = ln.rp k := rfl
@[simp] theorem Lane.rp_wv4 (ln : Lane) (k : PReg) (r : Nat) (x : W128) : (ln.wv4 r x).rp k = ln.rp k := rfl

/-- A pair written and read back. -/
@[simp] theorem Lane.rv2_wv2 (ln : Lane) (r : Nat) (x : W64) : (ln.wv2 r x).rv2 r = x := by
  simp only [Lane.rv2, Lane.wv2, Lane.rv_wv, if_true]
  rw [if_neg (by omega)]
  ext i hi
  simp only [BitVec.getElem_append, BitVec.getElem_setWidth]
  split
  · simp [BitVec.getLsbD_eq_getElem hi]
  · have : 32 + (i - 32) = i := by omega
    simp [this, BitVec.getLsbD_eq_getElem hi]

theorem Lane.rv_wv2_ne (ln : Lane) {r q : Nat} (x : W64) (h : q ≠ r) (h1 : q ≠ r + 1) : (ln.wv2 r x).rv q = ln.rv q := by
  simp [Lane.wv2, Lane.rv_wv, h, h1]

theorem Lane.rv_wv4_ne (ln : Lane) {r q : Nat} (x : W128) (h : q < r ∨ r + 4 ≤ q) : (ln.wv4 r x).rv q = ln.rv q := by
  simp only [Lane.wv4]
  rw [Lane.rv_wv2_ne _ _ (by omega) (by omega), Lane.rv_wv2_ne _ _ (by omega) (by omega)]

theorem getLsbD_setBit7 (p : BitVec 7) (k j : Nat) (b : Bool) (hj : j < 7) :
    (setBit7 p k b).getLsbD j = if j = k then b else p.getLsbD j := by
  unfold setBit7
  cases b
  · by_cases hk : j = k
    · subst hk; simp [hj]
    · simp only [Bool.false_eq_true, if_false, BitVec.getLsbD_and, BitVec.getLsbD_not, BitVec.getLsbD_shiftLeft, if_neg hk]
      by_cases h : j < k
      · simp [hj, h]
      · have : j - k ≠ 0 := by omega
        simp [hj, this]
  · by_cases hk : j = k
    · subst hk; simp [hj]
    · simp only [if_true, BitVec.getLsbD_or, BitVec.getLsbD_shiftLeft, if_neg hk]
      by_cases h : j < k
      · simp [hj, h]
      · have : j - k ≠ 0 := by omega
        simp [hj, this]

/-- p7 keeps reading 1; every other predicate reads what was written (R145). -/
theorem Lane.rp_wp (ln : Lane) (k j : PReg) (b : Bool) :
    (ln.wp k b).rp j = if j = 7 then true else if j = k then b else ln.rp j := by
  simp only [Lane.rp, Lane.wp]
  by_cases hj : j = 7
  · simp [hj]
  · rw [if_neg hj, if_neg hj]
    have h7 : j.toNat < 7 := by
      have h : j.toNat ≠ 7 := fun h => hj (by apply BitVec.eq_of_toNat_eq; simpa using h)
      have := j.isLt; omega
    by_cases hk : k = 7
    · subst hk; rw [if_pos rfl, if_neg hj, if_neg hj]
    · rw [if_neg hk]
      simp only
      rw [getLsbD_setBit7 _ _ _ _ h7]
      by_cases hjk : j = k
      · subst hjk; rw [if_pos rfl, if_pos rfl]
      · rw [if_neg hjk, if_neg hj, if_neg (fun h => hjk (BitVec.eq_of_toNat_eq h))]

theorem Uni.rs_ws (u : Uni) (r q : Nat) (x : W64) : (u.ws r x).rs q = if q = r then x else u.rs q := by
  simp [Uni.rs, Uni.ws, mget_mset]
@[simp] theorem Uni.rs_ws_self (u : Uni) (r : Nat) (x : W64) : (u.ws r x).rs r = x := by simp [Uni.rs_ws]
theorem Uni.rs_ws_ne (u : Uni) {r q : Nat} (x : W64) (h : q ≠ r) : (u.ws r x).rs q = u.rs q := by simp [Uni.rs_ws, h]
@[simp] theorem Uni.rs_wq (u : Uni) (k : BitVec 3) (b : Bool) (r : Nat) : (u.wq k b).rs r = u.rs r := by simp [Uni.rs]
@[simp] theorem Uni.rq_ws (u : Uni) (k : BitVec 3) (r : Nat) (x : W64) : (u.ws r x).rq k = u.rq k := rfl
theorem Uni.rq_wq (u : Uni) (k j : BitVec 3) (b : Bool) :
    (u.wq k b).rq j = if j = 7 then true else if j = k then b else u.rq j := by
  simp only [Uni.rq, Uni.wq]
  by_cases hj : j = 7
  · simp [hj]
  · rw [if_neg hj, if_neg hj]
    have h7 : j.toNat < 7 := by
      have h : j.toNat ≠ 7 := fun h => hj (by apply BitVec.eq_of_toNat_eq; simpa using h)
      have := j.isLt; omega
    by_cases hk : k = 7
    · subst hk; rw [if_pos rfl, if_neg hj, if_neg hj]
    · rw [if_neg hk]
      simp only
      rw [getLsbD_setBit7 _ _ _ _ h7]
      by_cases hjk : j = k
      · subst hjk; rw [if_pos rfl, if_pos rfl]
      · rw [if_neg hjk, if_neg hj, if_neg (fun h => hjk (BitVec.eq_of_toNat_eq h))]

theorem Course.rh_wh (c : Course) (k j : Nat) (x : W64) : (c.wh k x).rh j = if j = k then x else c.rh j := by
  simp [Course.rh, Course.wh, mget_mset]
@[simp] theorem Course.rh_mapLanes (c : Course) (f : Nat → Lane → Lane) (j : Nat) : (c.mapLanes f).rh j = c.rh j := rfl

/-! ## Lanes of a course -/

/-- A lane of a course whose lanes were all rewritten. -/
@[simp] theorem Course.lane_mapLanes (c : Course) (f : Nat → Lane → Lane) {l : Nat} (h : l < 8) : (c.mapLanes f).lane l = f l (c.lane l) := by
  simp [Course.lane, Course.mapLanes, List.getD, h]
theorem Course.lane_updLane (c : Course) (l : Nat) (f : Lane → Lane) {j : Nat} (h : j < 8) :
    (c.updLane l f).lane j = if j = l then f (c.lane j) else c.lane j := by
  simp [Course.updLane, h]

/-! ## Cores, courses, blocks, bays -/

@[simp] theorem State.core_setCore (s : State) (c d : Nat) (x : Core) : (s.setCore c x).core d = if d = c then x else s.core d := by
  simp [State.core, State.setCore, mget_mset]
@[simp] theorem State.bay_setBay (s : State) (b d : Nat) (x : Bay) : (s.setBay b x).bay d = if d = b then x else s.bay d := by
  simp [State.bay, State.setBay, mget_mset]
@[simp] theorem State.core_updCore (s : State) (c d : Nat) (f : Core → Core) : (s.updCore c f).core d = if d = c then f (s.core d) else s.core d := by
  simp only [State.updCore, State.core_setCore]; split <;> simp_all
@[simp] theorem State.bay_updBay (s : State) (b d : Nat) (f : Bay → Bay) : (s.updBay b f).bay d = if d = b then f (s.bay d) else s.bay d := by
  simp only [State.updBay, State.bay_setBay]; split <;> simp_all
@[simp] theorem State.bay_setCore (s : State) (c b : Nat) (x : Core) : (s.setCore c x).bay b = s.bay b := rfl
@[simp] theorem State.core_setBay (s : State) (b c : Nat) (x : Bay) : (s.setBay b x).core c = s.core c := rfl
@[simp] theorem State.core_updBay (s : State) (b c : Nat) (f : Bay → Bay) : (s.updBay b f).core c = s.core c := rfl

/-- A course put into a slot; every other course stays. -/
theorem State.course?_setCourse (s : State) (c k c' k' : Nat) (x : Course) :
    (s.setCourse c k x).course? c' k' = if c' = c ∧ k' = k then some x else s.course? c' k' := by
  unfold State.course? State.setCourse
  by_cases hc : c' = c
  · subst hc
    by_cases hk : k' = k
    · subst hk; simp
    · simp [hk, mget?_mset_ne]
  · simp [hc]
theorem State.course?_updCourse (s : State) (c k c' k' : Nat) (f : Course → Course) :
    (s.updCourse c k f).course? c' k' = if c' = c ∧ k' = k then (s.course? c k).map f else s.course? c' k' := by
  unfold State.updCourse
  split
  · rename_i x h; rw [State.course?_setCourse]; split <;> simp_all
  · rename_i h; split <;> simp_all
@[simp] theorem State.course?_updCourse_self (s : State) (c k : Nat) (f : Course → Course) :
    (s.updCourse c k f).course? c k = (s.course? c k).map f := by simp [State.course?_updCourse]
theorem State.core_setCourse_ne (s : State) (c k : Nat) (x : Course) {c' : Nat} (h : c' ≠ c) : (s.setCourse c k x).core c' = s.core c' := by
  simp [State.setCourse, h]
theorem State.core_updCourse_ne (s : State) (c k : Nat) (f : Course → Course) {c' : Nat} (h : c' ≠ c) : (s.updCourse c k f).core c' = s.core c' := by
  unfold State.updCourse; split
  · exact State.core_setCourse_ne s c k _ h
  · rfl
/-- Apart from its courses, a core keeps everything. -/
theorem State.core_updCourse_rest (s : State) (c k : Nat) (f : Course → Course) :
    { (s.updCourse c k f).core c with courses := (s.core c).courses } = s.core c := by
  unfold State.updCourse; split
  · simp [State.setCourse]
  · rfl
/-- A course rewritten changes nothing of the package but its cores. -/
theorem State.updCourse_rest (s : State) (c k : Nat) (f : Course → Course) : { s.updCourse c k f with cores := s.cores } = s := by
  unfold State.updCourse; split <;> rfl
theorem State.lane_updCourse (s : State) (c k : Nat) (f : Course → Course) {x : Course} (h : s.course? c k = some x) (l : Nat) :
    (s.updCourse c k f).lane c k l = (f x).lane l := by
  simp [State.lane, h]
theorem State.block?_setBlock (s : State) (c b c' b' : Nat) (x : Block) :
    (s.setBlock c b x).block? c' b' = if c' = c ∧ b' = b then some x else s.block? c' b' := by
  unfold State.block? State.setBlock
  by_cases hc : c' = c
  · subst hc
    by_cases hk : b' = b
    · subst hk; simp
    · simp [hk, mget?_mset_ne]
  · simp [hc]
@[simp] theorem State.block?_updBlock_self (s : State) (c b : Nat) (f : Block → Block) :
    (s.updBlock c b f).block? c b = (s.block? c b).map f := by
  unfold State.updBlock; split
  · rename_i x h; rw [State.block?_setBlock]; simp [h]
  · rename_i h; simp [h]

/-! ## Bytes read -/

/-- What a read of a byte answers depends on memory, the open ranges, earlier values and the counter of free values alone. -/
theorem State.readByte_congr {s t : State} (hm : t.mem = s.mem) (hu : t.undef = s.undef) (hh : t.hist = s.hist) (hf : t.free = s.free) (a : Nat) :
    t.readByte a = s.readByte a := by
  simp [State.readByte, hm, hu, hh, hf]
@[simp] theorem State.readByte_updCourse (s : State) (c k : Nat) (f : Course → Course) (a : Nat) :
    (s.updCourse c k f).readByte a = s.readByte a := State.readByte_congr (by simp) (by simp) (by simp) (by simp) a
@[simp] theorem State.readByte_setCore (s : State) (c : Nat) (x : Core) (a : Nat) : (s.setCore c x).readByte a = s.readByte a := rfl
@[simp] theorem State.readByte_updBay (s : State) (b : Nat) (f : Bay → Bay) (a : Nat) : (s.updBay b f).readByte a = s.readByte a := rfl

end Sys2Proof.Machine
end

