-- ==== Sys2Proof/Laws/Memory.lean ====
section
/-! SUPPORT. Memory keeps its canonical form, and a byte written is the byte read. -/

namespace Sys2Proof.Machine

theorem memWf_iff (m : List Host.Cell) : memWf m = true ↔ m.Pairwise (fun x y => x.1 < y.1) ∧ ∀ e ∈ m, e.2 ≠ 0 := by
  induction m with
  | nil => simp [memWf]
  | cons e m ih =>
    obtain ⟨a, b⟩ := e
    cases m with
    | nil => simp [memWf]
    | cons e' m =>
      obtain ⟨a', b'⟩ := e'
      simp only [memWf, Bool.and_eq_true, decide_eq_true_eq, ih, bne_iff_ne, ne_eq]
      constructor
      · rintro ⟨⟨hb, ha⟩, hp, hz⟩
        refine ⟨List.pairwise_cons.2 ⟨fun x hx => ?_, hp⟩, fun x hx => ?_⟩
        · rcases List.mem_cons.1 hx with rfl | hx
          · exact ha
          · exact Nat.lt_trans ha ((List.pairwise_cons.1 hp).1 x hx)
        · rcases List.mem_cons.1 hx with rfl | hx
          · exact hb
          · exact hz x hx
      · rintro ⟨hp, hz⟩
        have hp' := List.pairwise_cons.1 hp
        exact ⟨⟨hz (a, b) (by simp), hp'.1 (a', b') (by simp)⟩, hp'.2, fun x hx => hz x (by simp_all)⟩

theorem mem_mset {α : Type} {m : Map α} {n : Nat} {x : α} {e : Nat × α} (h : e ∈ mset m n x) : e = (n, x) ∨ e ∈ m := by
  induction m with
  | nil => simpa [mset] using h
  | cons c m ih =>
    obtain ⟨k, v⟩ := c
    simp only [mset] at h
    split at h
    · rcases List.mem_cons.1 h with h | h <;> simp [h]
    · split at h
      · rcases List.mem_cons.1 h with h | h
        · exact .inl h
        · exact .inr h
      · rcases List.mem_cons.1 h with h | h
        · exact .inr (by simp [h])
        · rcases ih h with h | h <;> simp [h]

theorem pairwise_mset {α : Type} {m : Map α} (n : Nat) (x : α) (h : m.Pairwise (fun a b => a.1 < b.1)) :
    (mset m n x).Pairwise (fun a b => a.1 < b.1) := by
  induction m with
  | nil => simp [mset]
  | cons c m ih =>
    obtain ⟨k, v⟩ := c
    obtain ⟨h1, h2⟩ := List.pairwise_cons.1 h
    simp only [mset]
    split
    · rename_i hk; subst hk; exact List.pairwise_cons.2 ⟨h1, h2⟩
    · split
      · rename_i hlt
        refine List.pairwise_cons.2 ⟨fun e he => ?_, h⟩
        rcases List.mem_cons.1 he with rfl | he
        · exact hlt
        · exact Nat.lt_trans hlt (h1 e he)
      · rename_i hne hnl
        refine List.pairwise_cons.2 ⟨fun e he => ?_, ih h2⟩
        rcases mem_mset he with rfl | he
        · simp only; omega
        · exact h1 e he

theorem memWf_filter {m : List Host.Cell} (p : Host.Cell → Bool) (h : memWf m = true) : memWf (m.filter p) = true := by
  rw [memWf_iff] at *
  exact ⟨h.1.filter p, fun e he => h.2 e (List.mem_of_mem_filter he)⟩

/-- Writing one byte keeps the canonical form. -/
theorem memWf_memSet {m : List Host.Cell} (a : Nat) (b : Byte) (h : memWf m = true) : memWf (memSet m a b) = true := by
  unfold memSet
  split
  · exact memWf_filter _ h
  · rename_i hb
    rw [memWf_iff] at *
    refine ⟨pairwise_mset a b h.1, fun e he => ?_⟩
    rcases mem_mset he with rfl | he
    · exact hb
    · exact h.2 e he

theorem State.writeByte_memWf {s : State} (a : Nat) (b : Byte) (h : memWf s.mem = true) : memWf (s.writeByte a b).mem = true := by
  simpa using memWf_memSet a b h

theorem State.writeBytes_memWf {s : State} (a : Nat) (bs : List Byte) (h : memWf s.mem = true) : memWf (s.writeBytes a bs).mem = true := by
  induction bs generalizing s a with
  | nil => exact h
  | cons b bs ih => exact ih (a + 1) (State.writeByte_memWf a b h)

theorem State.reset_memWf : memWf State.reset.mem = true := rfl

/-! ## Bytes -/

theorem mget?_mdel {α : Type} (m : Map α) (n k : Nat) : mget? (mdel m n) k = if k = n then none else mget? m k := by
  induction m with
  | nil => simp [mdel, mget?]
  | cons c m ih =>
    obtain ⟨j, v⟩ := c
    simp only [mdel, List.filter_cons] at *
    by_cases hj : j = n
    · subst hj
      by_cases hk : k = j
      · subst hk; simp [ih]
      · simp [ih, hk, mget?, Ne.symm hk]
    · by_cases hk : j = k
      · subst hk; simp [hj, mget?]
      · simp [hj, mget?, hk, ih]

/-- A byte written is read back, every other byte is as it was. -/
theorem memGet_memSet (m : List Host.Cell) (a k : Nat) (b : Byte) : memGet (memSet m a b) k = if k = a then b else memGet m k := by
  unfold memGet memSet
  by_cases hb : b = 0
  · rw [if_pos hb]
    simp only [mget, mget?_mdel]
    split
    · simp [hb]
    · rfl
  · rw [if_neg hb, mget_mset]

@[simp] theorem memGet_memSet_self (m : List Host.Cell) (a : Nat) (b : Byte) : memGet (memSet m a b) a = b := by simp [memGet_memSet]

/-- Writing bytes: those in the range are the bytes written, every other byte is as it was. -/
theorem memGet_writeBytes (s : State) (a k : Nat) (bs : List Byte) :
    memGet (s.writeBytes a bs).mem k = if a ≤ k ∧ k < a + bs.length then bs.getD (k - a) 0 else memGet s.mem k := by
  induction bs generalizing s a with
  | nil => rw [if_neg (by simp)]; rfl
  | cons b bs ih =>
    simp only [State.writeBytes, ih, State.writeByte_mem, memGet_memSet, List.length_cons]
    by_cases h : k = a
    · subst h
      rw [if_neg (by omega), if_pos rfl, if_pos (by omega)]
      simp
    · by_cases h2 : a + 1 ≤ k ∧ k < a + 1 + bs.length
      · rw [if_pos h2, if_pos (by omega)]
        have : k - a = (k - (a + 1)) + 1 := by omega
        simp [this]
      · rw [if_neg h2, if_neg h, if_neg (by omega)]

theorem undefDrop_not_mem (us : List Undef) (a : Nat) : (undefDrop us a).find? (fun u => decide (u.lo ≤ a ∧ a ≤ u.hi)) = none := by
  rw [List.find?_eq_none]
  intro u hu
  simp only [undefDrop, List.mem_flatMap] at hu
  obtain ⟨v, -, hv⟩ := hu
  simp only [decide_eq_true_eq]
  split at hv
  · rcases List.mem_append.1 hv with hv | hv
    · split at hv
      · rename_i h; simp only [List.mem_singleton] at hv; subst hv; simp only; omega
      · simp at hv
    · split at hv
      · rename_i h; simp only [List.mem_singleton] at hv; subst hv; simp only; omega
      · simp at hv
  · rename_i h
    simp only [List.mem_singleton] at hv; subst hv
    simp only [Bool.and_eq_true, decide_eq_true_eq] at h
    exact h

/-- A byte written is the byte read, open or not before (R84). -/
@[simp] theorem State.readByte_writeByte (s : State) (a : Nat) (b : Byte) : (s.writeByte a b).readByte a = b := by
  unfold State.readByte
  rw [State.writeByte_undef, undefDrop_not_mem]
  simp

end Sys2Proof.Machine
end

