-- ==== Sys2Proof/Laws/Issue.lean ====
section
/-! SUPPORT. What the shared operations of an issue do: the ends of issues, and each shape of word. A proof about an instruction cites the lemma
of its shape and unfolds nothing below it. -/

namespace Sys2Proof.Machine

/-! ## One course, job or block rewritten -/

theorem onlyCourse_updCourse (s : State) (c k : Nat) (f : Course → Course) : OnlyCourse s (s.updCourse c k f) c k where
  package := State.updCourse_rest s c k f
  cores := fun _ h => State.core_updCourse_ne s c k f h
  core := State.core_updCourse_rest s c k f
  courses := fun j h => by rw [State.course?_updCourse, if_neg (by simp [h])]
  bytes := fun a => State.readByte_updCourse s c k f a

theorem OnlyCourse.trans {s t u : State} {c k : Nat} (h : OnlyCourse s t c k) (h' : OnlyCourse t u c k) : OnlyCourse s u c k where
  package := by
    have h1 := h.package; have h2 := h'.package
    calc { u with cores := s.cores } = { { u with cores := t.cores } with cores := s.cores } := rfl
      _ = { t with cores := s.cores } := by rw [h2]
      _ = s := h1
  cores := fun d hd => (h'.cores d hd).trans (h.cores d hd)
  core := by
    have h1 := h.core; have h2 := h'.core
    calc { u.core c with courses := (s.core c).courses } = { { u.core c with courses := (t.core c).courses } with courses := (s.core c).courses } := rfl
      _ = { t.core c with courses := (s.core c).courses } := by rw [h2]
      _ = s.core c := h1
  courses := fun j hj => (h'.courses j hj).trans (h.courses j hj)
  bytes := fun a => (h'.bytes a).trans (h.bytes a)

theorem onlyJob_updJob (s : State) (c p : Nat) (f : Job → Job) : OnlyJob s (s.updJob c p f) c p where
  package := rfl
  cores := fun d h => by simp [State.updJob, State.updProc, h]
  core := by simp [State.updJob, State.updProc]
  procs := fun r h => by simp [State.updJob, State.updProc, State.proc, mget_mset, h]
  proc := by simp [State.updJob, State.updProc, State.proc]
  bytes := fun _ => rfl

@[simp] theorem job?_updJob (s : State) (c p : Nat) (f : Job → Job) : (s.updJob c p f).job? c p = (s.job? c p).map f := by
  simp [State.updJob, State.updProc, State.job?, State.proc]

theorem OnlyJob.trans {s t u : State} {c p : Nat} (h : OnlyJob s t c p) (h' : OnlyJob t u c p) : OnlyJob s u c p where
  package := by
    have h1 := h.package; have h2 := h'.package
    calc { u with cores := s.cores } = { { u with cores := t.cores } with cores := s.cores } := rfl
      _ = { t with cores := s.cores } := by rw [h2]
      _ = s := h1
  cores := fun d hd => (h'.cores d hd).trans (h.cores d hd)
  core := by
    have h1 := h.core; have h2 := h'.core
    calc { u.core c with procs := (s.core c).procs } = { { u.core c with procs := (t.core c).procs } with procs := (s.core c).procs } := rfl
      _ = { t.core c with procs := (s.core c).procs } := by rw [h2]
      _ = s.core c := h1
  procs := fun r hr => (h'.procs r hr).trans (h.procs r hr)
  proc := by
    have h1 := h.proc; have h2 := h'.proc
    calc { u.proc c p with job := (s.proc c p).job } = { { u.proc c p with job := (t.proc c p).job } with job := (s.proc c p).job } := rfl
      _ = { t.proc c p with job := (s.proc c p).job } := by rw [h2]
      _ = s.proc c p := h1
  bytes := fun a => (h'.bytes a).trans (h.bytes a)

theorem onlyBlock_updBlock (s : State) (c b : Nat) (f : Block → Block) : OnlyBlock s (s.updBlock c b f) c b where
  package := by unfold State.updBlock; split <;> rfl
  cores := fun d h => by
    unfold State.updBlock; split
    · simp [State.setBlock, h]
    · rfl
  core := by
    unfold State.updBlock; split
    · simp [State.setBlock]
    · rfl
  blocks := fun j h => by
    unfold State.updBlock; split
    · rw [State.block?_setBlock, if_neg (by simp [h])]
    · rfl
  bytes := fun a => by
    unfold State.updBlock; split
    · rfl
    · rfl

theorem seq?_updSeq (s : State) (c b : Nat) (f : Seq → Seq) : (s.updSeq c b f).seq? c b = (s.seq? c b).map f := by
  simp only [State.updSeq, State.seq?, State.block?_updBlock_self]
  cases s.block? c b <;> simp

/-! ## The end of an issue -/

/-- What `endCourse` makes of a course. -/
theorem courseAfter_endCourse (s : State) (iss : Issue) (uset : Bool) (f : Nat → Lane → Lane) (x : Course) :
    CourseAfter s iss uset x.u x (endCourse s.t iss uset f x) f where
  lane := fun l hl => by
    unfold endCourse laneAfter
    simp only [Course.lane, Course.mapLanes]
    rw [List.getD_eq_getElem?_getD, List.getElem?_map, List.getElem?_range hl]
    simp
  wins := by simp [endCourse, Course.mapLanes, tickWins]
  times := by cases uset <;> rfl
  rest := rfl

/-- An issue of a course whose uniform state was rewritten first. -/
theorem courseAfter_endCourse_uni (s : State) (iss : Issue) (uset : Bool) (f : Nat → Lane → Lane) (x : Course) (u : Uni) :
    CourseAfter s iss uset u x (endCourse s.t iss uset f { x with u := u }) f where
  lane := (courseAfter_endCourse s iss uset f { x with u := u }).lane
  wins := (courseAfter_endCourse s iss uset f { x with u := u }).wins
  times := by cases uset <;> rfl
  rest := rfl

theorem CourseAfter.congr {s : State} {iss : Issue} {uset : Bool} {u : Uni} {x y : Course} {f g : Nat → Lane → Lane}
    (h : CourseAfter s iss uset u x y f) (e : ∀ l, l < 8 → l ∈ iss.mask → f l (x.lane l) = g l (x.lane l)) : CourseAfter s iss uset u x y g where
  lane := fun l hl => by
    rw [h.lane l hl]; unfold laneAfter
    split
    · rename_i hm; rw [e l hl hm]
    · rfl
  wins := h.wins
  times := h.times
  rest := h.rest

/-- The end of a course's issue: its course and nothing else. -/
theorem endIssue_course {s : State} {iss : Issue} {c k : Nat} {x : Course} (hw : iss.who = .course c k) (hx : s.course? c k = some x)
    (uset : Bool) (f : Nat → Lane → Lane) (pc : W64) :
    OnlyCourse s (endIssue s iss uset f pc) c k ∧ (endIssue s iss uset f pc).course? c k = some (endCourse s.t iss uset f x) := by
  unfold endIssue
  rw [hw]
  exact ⟨onlyCourse_updCourse s c k _, by simp [hx]⟩

/-- The end of a batten job's issue: its PC and nothing else. -/
theorem endIssue_job {s : State} {iss : Issue} {c p : Nat} {j : Job} (hw : iss.who = .job c p) (hj : s.job? c p = some j)
    (uset : Bool) (f : Nat → Lane → Lane) (pc : W64) :
    OnlyJob s (endIssue s iss uset f pc) c p ∧ (endIssue s iss uset f pc).job? c p = some { j with pc := pc } := by
  unfold endIssue
  rw [hw]
  exact ⟨onlyJob_updJob s c p _, by simp [hj]⟩

theorem lane_of_course {s : State} {c k : Nat} {x : Course} (h : s.course? c k = some x) (l : Nat) : s.lane c k l = x.lane l := by
  simp [State.lane, h]

/-! ## The shapes of words -/

/-- A word issued by a resident course is executed. -/
theorem word_course {s : State} {iss : Issue} {c k : Nat} {x : Course} (h : CourseIssues s iss c k x) (m : Issue → State) :
    word s m = .next (m iss) := by
  simp [word, h.1, resident, h.2.1, h.2.2]
theorem word_job {s : State} {iss : Issue} {c p : Nat} {j : Job} (h : JobIssues s iss c p j) (m : Issue → State) :
    word s m = .next (m iss) := by
  simp [word, h.1, resident, h.2.1, h.2.2]
theorem word_seq {s : State} {iss : Issue} {c b : Nat} {q : Seq} (h : SeqIssues s iss c b q) (m : Issue → State) :
    word s m = .next (m iss) := by
  simp [word, h.1, resident, h.2.1, h.2.2]

theorem activeLanes_course {s : State} {iss : Issue} {c k : Nat} {x : Course} (h : CourseIssues s iss c k x) (g : Guard) :
    activeLanes s iss g = iss.mask.filter (fun l => (x.lane l).rp g) := by
  simp only [activeLanes, h.2.1, lane_of_course h.2.2]

/-- An L-set word of a course: with no active lane it only advances, else it does `m`. -/
theorem lword_course {s : State} {iss : Issue} {c k : Nat} {x : Course} (h : CourseIssues s iss c k x) (g : Guard) (m : Issue → Nat → Nat → State) :
    lword s g m = .next (if (activeLanes s iss g).isEmpty then skip s iss false else m iss c k) := by
  simp only [lword, word_course h, h.2.1]

/-- Without an active lane an issue that rewrites active lanes alone is one that only advances. -/
theorem noActive {s : State} {iss : Issue} {c k : Nat} {x : Course} (h : CourseIssues s iss c k x) {g : Guard}
    (he : (activeLanes s iss g).isEmpty = true) {l : Nat} (hl : l ∈ iss.mask) : (x.lane l).rp g = false := by
  rw [activeLanes_course h, List.isEmpty_iff, List.filter_eq_nil_iff] at he
  simpa using he l hl

theorem lword_gives {i : Instr} {g : Guard} {m : State → Issue → Nat → Nat → State} (f : State → Issue → Nat → Nat → Course → Nat → Lane → Lane)
    (he : ∀ s, exec i s = lword s g (m s))
    (hm : ∀ s iss c k x, CourseIssues s iss c k x → m s iss c k = endIssue s iss false (f s iss c k x) iss.next)
    (hf : ∀ s iss c k x l, CourseIssues s iss c k x → l < 8 → (x.lane l).rp g = false → (activeLanes s iss g).isEmpty = true →
      f s iss c k x l (x.lane l) = { x.lane l with pc := iss.next }) :
    ∀ s iss c k x, CourseIssues s iss c k x → ∃ t y, exec i s = .next t ∧ OnlyCourse s t c k ∧ t.course? c k = some y ∧
      CourseAfter s iss false x.u x y (f s iss c k x) := by
  intro s iss c k x h
  rw [he, lword_course h]
  by_cases ha : (activeLanes s iss g).isEmpty = true
  · rw [if_pos ha]
    have e := endIssue_course h.2.1 h.2.2 false (fun _ ln => { ln with pc := iss.next }) iss.next
    refine ⟨_, _, rfl, e.1, e.2, (courseAfter_endCourse s iss false _ x).congr ?_⟩
    intro l hl hlm
    exact (hf s iss c k x l h hl (noActive h ha hlm) ha).symm
  · rw [if_neg ha, hm s iss c k x h]
    have e := endIssue_course h.2.1 h.2.2 false (f s iss c k x) iss.next
    exact ⟨_, _, rfl, e.1, e.2, courseAfter_endCourse s iss false _ x⟩

/-- A word that acts in each active lane by itself. -/
theorem lanep_gives {i : Instr} {g : Guard} {f : Pfx → Lane → Lane} (he : ∀ s, exec i s = lanep s g f) : LaneGives i g f :=
  lword_gives (fun _ iss _ _ _ _ ln => { (if ln.rp g then f iss.pfx ln else ln) with pc := iss.next }) he
    (fun _ _ _ _ _ _ => rfl) (fun _ _ _ _ _ _ _ _ hg _ => by simp [hg])
theorem lane1_gives {i : Instr} {g : Guard} {f : Lane → Lane} (he : ∀ s, exec i s = lane1 s g f) : LaneGives i g (fun _ => f) :=
  lanep_gives (f := fun _ => f) he
theorem jump_gives {i : Instr} {g : Guard} {f : Issue → Lane → Lane} (he : ∀ s, exec i s = jumpWord s g f) : JumpGives i g f :=
  lword_gives (fun _ iss _ _ _ _ ln => if ln.rp g then f iss ln else { ln with pc := iss.next }) he
    (fun _ _ _ _ _ _ => rfl) (fun _ _ _ _ _ _ _ _ hg _ => by simp [hg])
theorem exch_gives {i : Instr} {g : Guard} {f : List Nat → (Nat → Lane) → Nat → Lane → Lane} (he : ∀ s, exec i s = exch s g f) : ExchGives i g f := by
  refine lword_gives (fun _ iss _ _ x l ln => { (if l ∈ iss.mask ∧ (x.lane l).rp g then f (iss.mask.filter (fun j => (x.lane j).rp g)) x.lane l ln else ln) with pc := iss.next })
    he (fun s iss c k x h => ?_) (fun s iss c k x l h hl hg ha => by simp [hg])
  simp only [activeLanes_course h]
  congr 1
  funext l ln
  have hold : s.lane c k = x.lane := funext (lane_of_course h.2.2)
  simp [hold]

theorem LaneGives.congr {i : Instr} {g : Guard} {f f' : Pfx → Lane → Lane} (h : LaneGives i g f) (e : ∀ p ln, f p ln = f' p ln) : LaneGives i g f' := by
  have : f = f' := funext fun p => funext (e p)
  exact this ▸ h
theorem ExchGives.congr {i : Instr} {g : Guard} {f f' : List Nat → (Nat → Lane) → Nat → Lane → Lane} (h : ExchGives i g f)
    (e : ∀ a o l ln, f a o l ln = f' a o l ln) : ExchGives i g f' := by
  have : f = f' := funext fun p => funext fun o => funext fun l => funext (e p o l)
  exact this ▸ h
theorem JumpGives.congr {i : Instr} {g : Guard} {f f' : Issue → Lane → Lane} (h : JumpGives i g f) (e : ∀ p ln, f p ln = f' p ln) : JumpGives i g f' := by
  have : f = f' := funext fun p => funext (e p)
  exact this ▸ h

/-! ## Uniform words -/

theorem uniOf_course {s : State} {iss : Issue} {c k : Nat} {x : Course} (h : CourseIssues s iss c k x) : uniOf s iss.who = x.u := by
  simp [uniOf, h.2.1, h.2.2]
theorem uniOf_job {s : State} {iss : Issue} {c p : Nat} {j : Job} (h : JobIssues s iss c p j) : uniOf s iss.who = j.u := by
  simp [uniOf, h.2.1, h.2.2]

theorem uword_course {s : State} {iss : Issue} {c k : Nat} {x : Course} (h : CourseIssues s iss c k x) (q : Guard) (m : Issue → State) :
    uword s q m = .next (if x.u.rq q then m iss else skip s iss true) := by
  have hu := uniOf_course h
  simp only [uword, word_course h]
  rw [h.2.1] at *
  simp only [hu]
theorem uword_job {s : State} {iss : Issue} {c p : Nat} {j : Job} (h : JobIssues s iss c p j) (q : Guard) (m : Issue → State) :
    uword s q m = .next (if j.u.rq q then m iss else skip s iss true) := by
  have hu := uniOf_job h
  simp only [uword, word_job h]
  rw [h.2.1] at *
  simp only [hu]
theorem cword_course {s : State} {iss : Issue} {c k : Nat} {x : Course} (h : CourseIssues s iss c k x) (q : Guard) (m : Issue → Nat → Nat → State) :
    cword s q m = .next (if x.u.rq q then m iss c k else skip s iss true) := by
  have hu := uniOf_course h
  simp only [cword, word_course h]
  rw [h.2.1] at *
  simp only [hu]
theorem prvOf_course {s : State} {iss : Issue} {c k : Nat} {x : Course} (h : CourseIssues s iss c k x) : prvOf s iss.who = x.prv := by
  simp [prvOf, h.2.1, h.2.2]
/-- A privileged word: `m` in privileged mode, PRIV in the other (R305, R346). -/
theorem pword_course {s : State} {iss : Issue} {c k : Nat} {x : Course} (h : CourseIssues s iss c k x) (q : Guard) (m : Issue → Nat → Nat → State) :
    pword s q m = .next (if x.u.rq q then (if x.prv then m iss c k else noPriv s iss) else skip s iss true) := by
  rw [pword, cword_course h, prvOf_course h]
theorem bword_job {s : State} {iss : Issue} {c p : Nat} {j : Job} (h : JobIssues s iss c p j) (q : Guard) (m : Issue → Nat → Nat → State) :
    bword s q m = .next (if j.u.rq q then m iss c p else skip s iss true) := by
  have hu := uniOf_job h
  simp only [bword, word_job h]
  rw [h.2.1] at *
  simp only [hu]
theorem mword_seq {s : State} {iss : Issue} {c b : Nat} {q : Seq} (h : SeqIssues s iss c b q) (m : Issue → Nat → Nat → State) :
    mword s m = .next (m iss c b) := by
  simp only [mword, word_seq h, h.2.1]

/-- An issue of a course that rewrites its uniform state. -/
theorem uniOp_course {s : State} {iss : Issue} {c k : Nat} {x : Course} (h : CourseIssues s iss c k x) (f : Uni → Uni) :
    OnlyCourse s (uniOp s iss f) c k ∧ ∃ y, (uniOp s iss f).course? c k = some y ∧
      CourseAfter s iss true (f x.u) x y (fun _ ln => { ln with pc := iss.next }) := by
  unfold uniOp skip
  rw [h.2.1]
  simp only
  have hx : (s.updCourse c k (fun co => { co with u := f co.u })).course? c k = some { x with u := f x.u } := by simp [h.2.2]
  have e := endIssue_course (iss := iss) h.2.1 hx true (fun _ ln => { ln with pc := iss.next }) iss.next
  refine ⟨(onlyCourse_updCourse s c k _).trans e.1, _, e.2, ?_⟩
  have ht : (s.updCourse c k (fun co => { co with u := f co.u })).t = s.t := by simp
  rw [ht]
  exact courseAfter_endCourse_uni s iss true _ x (f x.u)
theorem uniOp_job {s : State} {iss : Issue} {c p : Nat} {j : Job} (h : JobIssues s iss c p j) (f : Uni → Uni) :
    OnlyJob s (uniOp s iss f) c p ∧ (uniOp s iss f).job? c p = some { j with u := f j.u, pc := iss.next } := by
  unfold uniOp skip
  rw [h.2.1]
  simp only
  have hx : (s.updJob c p (fun j => { j with u := f j.u })).job? c p = some { j with u := f j.u } := by simp [h.2.2]
  have e := endIssue_job (iss := iss) h.2.1 hx true (fun _ ln => { ln with pc := iss.next }) iss.next
  exact ⟨(onlyJob_updJob s c p _).trans e.1, e.2⟩

theorem skip_course {s : State} {iss : Issue} {c k : Nat} {x : Course} (h : CourseIssues s iss c k x) (uset : Bool) :
    OnlyCourse s (skip s iss uset) c k ∧ (skip s iss uset).course? c k = some (endCourse s.t iss uset (fun _ ln => { ln with pc := iss.next }) x) :=
  endIssue_course h.2.1 h.2.2 uset _ _
theorem skip_job {s : State} {iss : Issue} {c p : Nat} {j : Job} (h : JobIssues s iss c p j) (uset : Bool) :
    OnlyJob s (skip s iss uset) c p ∧ (skip s iss uset).job? c p = some { j with pc := iss.next } :=
  endIssue_job h.2.1 h.2.2 uset _ _

theorem uword_gives {i : Instr} {q : Guard} {f : Pfx → Uni → Uni} (he : ∀ s, exec i s = uword s q (fun iss => uniOp s iss (f iss.pfx))) :
    UniGives i q f := by
  constructor
  · intro s iss c k x h
    rw [he, uword_course h]
    by_cases hq : x.u.rq q = true
    · rw [if_pos hq, if_pos hq]
      obtain ⟨h1, y, h2, h3⟩ := uniOp_course h (f iss.pfx)
      exact ⟨_, y, rfl, h1, h2, h3⟩
    · rw [if_neg hq, if_neg hq]
      have e := skip_course h true
      exact ⟨_, _, rfl, e.1, e.2, courseAfter_endCourse s iss true _ x⟩
  · intro s iss c p j h
    rw [he, uword_job h]
    by_cases hq : j.u.rq q = true
    · rw [if_pos hq, if_pos hq]
      have e := uniOp_job h (f iss.pfx)
      exact ⟨_, rfl, e.1, e.2⟩
    · rw [if_neg hq, if_neg hq]
      have e := skip_job h true
      exact ⟨_, rfl, e.1, e.2⟩
theorem uni1_gives {i : Instr} {q : Guard} {f : Uni → Uni} (he : ∀ s, exec i s = uni1 s q f) : UniGives i q (fun _ => f) :=
  uword_gives (f := fun _ => f) he

theorem UniGives.congr {i : Instr} {q : Guard} {f f' : Pfx → Uni → Uni} (h : UniGives i q f) (e : ∀ p u, f p u = f' p u) : UniGives i q f' := by
  have : f = f' := funext fun p => funext (e p)
  exact this ▸ h

end Sys2Proof.Machine
end

