-- ==== Sys2Proof/Laws/Access.lean ====
section
/-! SUPPORT. What issuing accesses does: everything that placing one access leaves alone, the access it adds, and the accesses of a whole word. -/

namespace Sys2Proof.Machine

/-- What a step on the way of an access leaves alone: memory, the accesses in flight, identifiers, time, and every course and job. -/
structure Kept (s t : State) : Prop where
  mem : t.mem = s.mem
  undef : t.undef = s.undef
  hist : t.hist = s.hist
  accs : t.accs = s.accs
  nextAcc : t.nextAcc = s.nextAcc
  time : t.t = s.t
  course : ∀ c k, t.course? c k = s.course? c k
  job : ∀ c p, t.job? c p = s.job? c p

theorem Kept.refl (s : State) : Kept s s := ⟨rfl, rfl, rfl, rfl, rfl, rfl, fun _ _ => rfl, fun _ _ => rfl⟩
theorem Kept.trans {s t u : State} (h : Kept s t) (h' : Kept t u) : Kept s u :=
  ⟨h'.mem.trans h.mem, h'.undef.trans h.undef, h'.hist.trans h.hist, h'.accs.trans h.accs, h'.nextAcc.trans h.nextAcc, h'.time.trans h.time,
   fun c k => (h'.course c k).trans (h.course c k), fun c p => (h'.job c p).trans (h.job c p)⟩
theorem SameMemory.ofEq {s t : State} (h1 : t.mem = s.mem) (h2 : t.undef = s.undef) (h3 : t.hist = s.hist) : SameMemory s t where
  mem := h1
  undef := h2
  hist := h3
  bytes := fun a h => by unfold State.readByte; rw [h2, h, h1]
theorem Kept.memory {s t : State} (h : Kept s t) : SameMemory s t := SameMemory.ofEq h.mem h.undef h.hist

/-- A core rewritten in parts that are neither courses nor processors. -/
theorem kept_updCore (s : State) (c : Nat) (f : Core → Core) (hc : ∀ x, (f x).courses = x.courses) (hp : ∀ x, (f x).procs = x.procs) :
    Kept s (s.updCore c f) where
  mem := rfl
  undef := rfl
  hist := rfl
  accs := rfl
  nextAcc := rfl
  time := rfl
  course := fun d k => by simp only [State.course?, State.core_updCore]; split <;> simp [*]
  job := fun d p => by simp only [State.job?, State.proc, State.core_updCore]; split <;> simp [*]
theorem kept_setCore (s : State) (c : Nat) (x : Core) (hc : x.courses = (s.core c).courses) (hp : x.procs = (s.core c).procs) :
    Kept s (s.setCore c x) where
  mem := rfl
  undef := rfl
  hist := rfl
  accs := rfl
  nextAcc := rfl
  time := rfl
  course := fun d k => by simp only [State.course?, State.core_setCore]; split <;> simp [*]
  job := fun d p => by simp only [State.job?, State.proc, State.core_setCore]; split <;> simp [*]
theorem kept_updBay (s : State) (b : Nat) (f : Bay → Bay) : Kept s (s.updBay b f) :=
  ⟨rfl, rfl, rfl, rfl, rfl, rfl, fun _ _ => rfl, fun _ _ => rfl⟩
theorem kept_bumpFree (s : State) : Kept s s.bumpFree := ⟨rfl, rfl, rfl, rfl, rfl, rfl, fun _ _ => rfl, fun _ _ => rfl⟩
theorem kept_tlbRefill (s : State) (c q : Nat) (e : TlbE) : Kept s (tlbRefill s c q e) :=
  (kept_updCore s c (fun co => { co with qtlb := mset co.qtlb q (tlbPut 64 (Config.freeChoice s.free) e (mget co.qtlb q [])) })
    (fun _ => rfl) (fun _ => rfl)).trans (kept_bumpFree _)
/-- A line that takes a priority, and a copy dropped, are in the L1 only (R74, R92). -/
@[simp] theorem Core.touch_courses (co : Core) (g ev n : Nat) : (co.touch g ev n).courses = co.courses := by unfold Core.touch; split <;> rfl
@[simp] theorem Core.touch_procs (co : Core) (g ev n : Nat) : (co.touch g ev n).procs = co.procs := by unfold Core.touch; split <;> rfl
@[simp] theorem Core.keepCopies_courses (co : Core) (f : Nat → Copy → Bool) : (co.keepCopies f).courses = co.courses := rfl
@[simp] theorem Core.keepCopies_procs (co : Core) (f : Nat → Copy → Bool) : (co.keepCopies f).procs = co.procs := rfl
@[simp] theorem Core.dropCopy_courses (co : Core) (g : Nat) : (co.dropCopy g).courses = co.courses := rfl
@[simp] theorem Core.dropCopy_procs (co : Core) (g : Nat) : (co.dropCopy g).procs = co.procs := rfl
theorem kept_dropCopies (s : State) (c dst ev : Nat) : Kept s (dropCopies s c dst ev) := by
  have h := kept_updCore s c (fun co => (co.touch (granOf s dst) ev (s.stepNo + 1)).dropCopy (granOf s dst)) (fun _ => by simp) (fun _ => by simp)
  unfold dropCopies
  split
  · exact h.trans ⟨rfl, rfl, rfl, rfl, rfl, rfl, fun _ _ => rfl, fun _ _ => rfl⟩
  · exact h
theorem kept_dropMaybe (s : State) (c : Nat) (a : Access) : Kept s (dropMaybe s c a) := by
  unfold dropMaybe
  split
  · exact kept_dropCopies _ _ _ _
  · exact kept_updCore _ _ _ (fun _ => rfl) (fun _ => rfl)
theorem kept_postMsg (s : State) (c : Nat) (m : W512) : Kept s (postMsg s c m) := by
  unfold postMsg; split
  · exact kept_updBay _ _ _
  · exact kept_updCore s c _ (fun _ => rfl) (fun _ => rfl)
theorem kept_sendReq (s : State) (c : Nat) (name : W128) (frame : Nat) (fv wr : Bool) : Kept s (sendReq s c name frame fv wr) := by
  unfold sendReq; split
  · exact Kept.refl s
  · exact (kept_updCore s c (fun co => { co with reqs := co.reqs ++ [_] }) (fun _ => rfl) (fun _ => rfl)).trans (kept_postMsg _ _ _)
theorem kept_missFate {s t : State} {c va : Nat} {a : Access} (h : missFate s c a va = .merged t) : Kept s t := by
  unfold missFate at h
  simp only at h
  split at h
  · split at h
    · exact MissFate.noConfusion h
    · injection h with h; subst h; exact kept_setCore s c _ rfl rfl
  · split at h
    · injection h with h; subst h; exact kept_setCore s c _ rfl rfl
    · exact MissFate.noConfusion h

/-- An access as placed: the access asked for, with the address after the frame table, STP's data, its leaf's NOSC and how far it has come filled
in. -/
structure PlacedAs (a A : Access) : Prop where
  rest : { A with ea := a.ea, data := a.data, ph := a.ph, t0 := a.t0, frame := a.frame, nosc := a.nosc, looked := a.looked } = a
  data : a.kind ≠ .stp → A.data = a.data

/-- A placed access field by field. -/
theorem PlacedAs.fields {a A : Access} (h : PlacedAs a A) : A.id = a.id ∧ A.iss = a.iss ∧ A.ag = a.ag ∧ A.kind = a.kind ∧ A.size = a.size ∧
    A.form = a.form ∧ A.sig = a.sig ∧ A.ev = a.ev ∧ A.prv = a.prv ∧ A.next = a.next ∧ A.dest = a.dest ∧ A.op = a.op ∧ A.cmp = a.cmp ∧
    A.ridge = a.ridge ∧ A.scope = a.scope ∧ A.last = a.last := by
  have e : ∀ {α : Type} (f : Access → α),
      f { A with ea := a.ea, data := a.data, ph := a.ph, t0 := a.t0, frame := a.frame, nosc := a.nosc, looked := a.looked } = f a :=
    fun f => congrArg f h.rest
  exact ⟨e Access.id, e Access.iss, e Access.ag, e Access.kind, e Access.size, e Access.form, e Access.sig, e Access.ev, e Access.prv, e Access.next,
    e Access.dest, e Access.op, e Access.cmp, e Access.ridge, e Access.scope, e Access.last⟩

theorem stpData_ne {s : State} {c : Nat} {a : Access} (h : a.kind ≠ .stp) : stpData s c a = .ok a.data := by
  unfold stpData; rw [if_neg (fun hh => h hh.1)]

/-- Everything a miss can do: one access joins those that wait; what `Kept` lists stays. -/
theorem placeMiss_spec {s t : State} {c : Nat} {a : Access} {w : Bool} (h : placeMiss s c a = some (t, w)) :
    ∃ ph u, t = { u with accs := u.accs ++ [{ a with ph := ph }] } ∧ Kept s u := by
  unfold placeMiss at h
  split at h
  · cases h
  · split at h
    · cases h
    · simp only [Option.some.injEq, Prod.mk.injEq] at h
      exact ⟨_, _, h.1.symm, Kept.refl _⟩
    · rename_i hf
      simp only [Option.some.injEq, Prod.mk.injEq] at h
      exact ⟨_, _, h.1.symm, kept_missFate hf⟩
/-- Everything placing an access can do: one access joins those in flight; what `Kept` lists stays. -/
theorem placeAcc_spec {s t : State} {c : Nat} {a : Access} {pr : Probe} {w : Bool} (h : placeAcc s c a pr = some (t, w)) :
    ∃ A u, t = { u with accs := u.accs ++ [A] } ∧ Kept s u ∧ PlacedAs a A := by
  have hd : a.kind ≠ .stp → storeData s c a = a.data := fun hk => by rw [storeData, stpData_ne hk]
  have hm : ∀ (s : State) (A : Access), Kept s (if a.kind.isWrite = true then dropMaybe s c A else s) := fun s A => by
    split
    · exact kept_dropMaybe s c A
    · exact Kept.refl s
  unfold placeAcc at h
  simp only at h
  split at h
  · cases h
  · simp only [Option.some.injEq, Prod.mk.injEq] at h
    obtain ⟨h, -⟩ := h
    refine ⟨_, _, h.symm, ?_, ⟨rfl, hd⟩⟩
    have h1 : ∀ s' : State, Kept s s' → Kept s (if (a.kind.isWrite && a.ridge.isNone) = true then dropCopies s' c ‹Nat› a.ev else s') := by
      intro s' hs
      split
      · exact hs.trans (kept_dropCopies _ _ _ _)
      · exact hs
    apply h1
    split
    · exact kept_tlbRefill _ _ _ _
    · exact Kept.refl _
  · simp only [Option.some.injEq, Prod.mk.injEq] at h
    obtain ⟨h, -⟩ := h
    refine ⟨_, _, h.symm, ?_, ⟨rfl, fun _ => rfl⟩⟩
    refine Kept.trans ?_ (hm _ _)
    split
    · exact kept_sendReq _ _ _ _ _ _
    · exact Kept.refl _
  · obtain ⟨ph, u, rfl, hu⟩ := placeMiss_spec h
    exact ⟨_, u, rfl, (hm _ _).trans hu, ⟨rfl, hd⟩⟩

/-- A state with the accesses of some lanes added: numbers from `s.nextAcc` on. -/
structure Added (s : State) (as : List (Nat × Access)) (r : Issued) (new : List Access) : Prop where
  accs : r.s.accs = s.accs ++ new
  nextAcc : r.s.nextAcc = s.nextAcc + as.length
  length : new.length = as.length
  each : ∀ (j : Nat) (x : Nat × Access) (A : Access), as[j]? = some x → new[j]? = some A → PlacedAs { x.2 with id := s.nextAcc + j } A
  parked : ∀ e ∈ r.parked, ∃ (j : Nat) (x : Nat × Access), as[j]? = some x ∧ e = (x.1, s.nextAcc + j)
  mem : SameMemory s r.s
  time : r.s.t = s.t
  course : ∀ c k, r.s.course? c k = s.course? c k
  job : ∀ c p, r.s.job? c p = s.job? c p

/-- Once held, an issue places nothing more; a lane that faults stays so. -/
theorem issueOne_mono {c l : Nat} {r : Issued} {a : Access} (h : (issueOne c r l a).held = false) (hb : (issueOne c r l a).bad = []) :
    r.held = false ∧ r.bad = [] := by
  unfold issueOne at h hb
  split at h
  · rename_i hh; rw [hh] at h; cases h
  · rename_i hh
    refine ⟨by simpa using hh, ?_⟩
    rw [if_neg hh] at hb
    simp only at hb
    split at hb
    · exact absurd (List.append_eq_nil_iff.1 hb).2 (by simp)
    · split at hb <;> exact hb

/-- One more lane's access. -/
theorem issueOne_added {s : State} {c l : Nat} {r : Issued} {as : List (Nat × Access)} {new : List Access} {a : Access}
    (hr : Added s as r new) (h : (issueOne c r l a).held = false) (hb : (issueOne c r l a).bad = []) :
    ∃ A, Added s (as ++ [(l, a)]) (issueOne c r l a) (new ++ [A]) := by
  obtain ⟨h0, hb0⟩ := issueOne_mono h hb
  unfold issueOne at h hb ⊢
  rw [if_neg (by simp [h0])] at h hb ⊢
  simp only at h hb ⊢
  split at hb
  · exact absurd (List.append_eq_nil_iff.1 hb).2 (by simp)
  · rename_i hpr
    split at h
    · rename_i f hf; exact absurd hf (hpr f)
    · split at h
      · cases h
      · rename_i t w hp
        obtain ⟨A, u, rfl, hk, hA⟩ := placeAcc_spec hp
        refine ⟨A, ?_⟩
        simp only
        refine ⟨?_, ?_, ?_, ?_, ?_, ?_, ?_, ?_, ?_⟩
        · simp [hk.accs, hr.accs]
        · simp [hk.nextAcc, hr.nextAcc]; omega
        · simp [hr.length]
        · intro j x B hx hB
          by_cases hj : j < as.length
          · rw [List.getElem?_append_left hj] at hx
            rw [List.getElem?_append_left (by rw [hr.length]; exact hj)] at hB
            exact hr.each j x B hx hB
          · rw [List.getElem?_append_right (by omega)] at hx
            rw [List.getElem?_append_right (by rw [hr.length]; omega)] at hB
            have hj0 : j - as.length = 0 := by
              by_contra hne
              rw [List.getElem?_eq_none (by simp; omega)] at hx
              cases hx
            rw [hj0] at hx
            rw [hr.length, hj0] at hB
            simp only [List.getElem?_cons_zero, Option.some.injEq] at hx hB
            subst hx; subst hB
            have : s.nextAcc + j = r.s.nextAcc := by rw [hr.nextAcc]; omega
            rw [this]; exact hA
        · intro e he
          have old : e ∈ r.parked → ∃ j x, (as ++ [(l, a)])[j]? = some x ∧ e = (x.1, s.nextAcc + j) := by
            intro he
            obtain ⟨j, x, hx, hex⟩ := hr.parked e he
            have hj : j < as.length := by
              by_contra hne
              rw [List.getElem?_eq_none (by omega)] at hx; cases hx
            exact ⟨j, x, by rw [List.getElem?_append_left hj]; exact hx, hex⟩
          split at he
          · rcases List.mem_append.1 he with he | he
            · exact old he
            · simp only [List.mem_singleton] at he
              subst he
              refine ⟨as.length, (l, a), by simp, ?_⟩
              rw [hr.nextAcc]
          · exact old he
        · exact SameMemory.ofEq (hk.mem.trans hr.mem.mem) (hk.undef.trans hr.mem.undef) (hk.hist.trans hr.mem.hist)
        · exact hk.time.trans hr.time
        · exact fun c k => (hk.course c k).trans (hr.course c k)
        · exact fun c p => (hk.job c p).trans (hr.job c p)

/-- The accesses of a word, one for each active lane, in order. -/
theorem memRun_added {s : State} {c k : Nat} {mk : Nat → Lane → Access} : ∀ (act : List Nat) {r0 : Issued} {as : List (Nat × Access)} {new : List Access},
    Added s as r0 new → (act.foldl (fun r l => issueOne c r l (mk l (s.lane c k l))) r0).held = false →
    (act.foldl (fun r l => issueOne c r l (mk l (s.lane c k l))) r0).bad = [] →
    ∃ new', Added s (as ++ act.map (fun l => (l, mk l (s.lane c k l)))) (act.foldl (fun r l => issueOne c r l (mk l (s.lane c k l))) r0) (new ++ new') := by
  intro act
  induction act with
  | nil => intro r0 as new h _ _; exact ⟨[], by simpa using h⟩
  | cons l act ih =>
    intro r0 as new h h1 h2
    simp only [List.foldl_cons] at h1 h2 ⊢
    have hm : ∀ (ls : List Nat) (r : Issued), (ls.foldl (fun r l => issueOne c r l (mk l (s.lane c k l))) r).held = false →
        (ls.foldl (fun r l => issueOne c r l (mk l (s.lane c k l))) r).bad = [] → r.held = false ∧ r.bad = [] := by
      intro ls
      induction ls with
      | nil => intro r a b; exact ⟨a, b⟩
      | cons x ls ihl => intro r a b; exact issueOne_mono (ihl _ a b).1 (ihl _ a b).2
    obtain ⟨ha, hb⟩ := hm act _ h1 h2
    obtain ⟨A, hA⟩ := issueOne_added h ha hb
    obtain ⟨new', hn⟩ := ih hA h1 h2
    exact ⟨A :: new', by simpa using hn⟩

theorem added_nil (s : State) : Added s [] { s := s } [] :=
  ⟨by simp, by simp, rfl, by simp, by simp, SameMemory.ofEq rfl rfl rfl, rfl, fun _ _ => rfl, fun _ _ => rfl⟩

/-- All of a word's accesses placed. -/
theorem memRun_spec {s : State} {c k : Nat} {mk : Nat → Lane → Access} {act : List Nat} (h : (memRun s c k act mk).held = false)
    (hb : (memRun s c k act mk).bad = []) : ∃ new, Added s (act.map (fun l => (l, mk l (s.lane c k l)))) (memRun s c k act mk) new := by
  obtain ⟨new, hn⟩ := memRun_added act (added_nil s) h hb
  exact ⟨new, by simpa [memRun] using hn⟩

/-- The end of a word none of whose lanes faults or is held: active lanes advance or park, the others of the mask advance. -/
theorem finishIssued_ok {s : State} {iss : Issue} {act : List Nat} {kind : AccKind} {r : Issued} (h : r.held = false) (hb : r.bad = []) :
    finishIssued s iss act kind r = endIssue r.s iss false (fun l ln =>
      if act.contains l then parkLane iss.next kind ((r.parked.find? (·.1 == l)).map (·.2)) ln else { ln with pc := iss.next }) iss.next := by
  unfold finishIssued
  rw [if_neg (by simp [h]), hb]
  simp [faultByCode]

/-- A memory word of the lanes completes: `hm` says that each access, as placed, is the one the word asks for. -/
theorem memWord_gives {i : Instr} {g : Guard} {mk : MkAcc} {kind : AccKind} {n : Nat} {a : Reg} {ad : AddrWord} {more : Lane → Access → Prop}
    (he : ∀ s, exec i s = memWord s g kind mk) (hk : kind ≠ .wait)
    (hm : ∀ s iss c k x l id A, CourseIssues s iss c k x → PlacedAs { mk s iss c k l (x.lane l) with id := id } A →
      AccessIs A id iss (.thread c k l) kind n ((x.lane l).rv2 a.toNat) ad x.prv ∧ more (x.lane l) A) : MemGives i g mk kind n a ad more := by
  intro s iss c k x h act r hnd hheld hbad
  have hal : activeLanes s iss g = act := activeLanes_course h g
  obtain ⟨new, hadd⟩ := memRun_spec hheld hbad
  have hrun : exec i s = .next (finishIssued s iss act kind r) := by
    rw [he, memWord, lword_course h, hal]
    by_cases hact : act = []
    · have hr : r = { s := s } := by simp only [r, hact, memRun, List.foldl_nil]
      rw [if_pos (by simp [hact]), finishIssued_ok hheld hbad, hr, hact]
      simp [skip]
    · rw [if_neg (by simp [hact]), memIssue, hal]
  have hx : r.s.course? c k = some x := (hadd.course c k).trans h.2.2
  have e := endIssue_course (s := r.s) (iss := iss) h.2.1 hx false (fun l ln =>
    if act.contains l then parkLane iss.next kind ((r.parked.find? (·.1 == l)).map (·.2)) ln else { ln with pc := iss.next }) iss.next
  have ca := courseAfter_endCourse r.s iss false (fun l ln =>
    if act.contains l then parkLane iss.next kind ((r.parked.find? (·.1 == l)).map (·.2)) ln else { ln with pc := iss.next }) x
  have hsub : ∀ l, l ∈ act → l ∈ iss.mask := fun l hl => (List.mem_filter.1 hl).1
  rw [finishIssued_ok hheld hbad] at hrun
  refine ⟨_, _, new, hrun, ?_, ?_, ?_, ?_, e.2, ?_, ?_, ?_, ?_⟩
  · have := congrArg State.accs e.1.package
    simp only at this
    rw [this, hadd.accs]
  · simpa using hadd.length
  · intro j l A hj hA
    have hmap : (act.map (fun l => (l, mk s iss c k l (s.lane c k l))))[j]? = some (l, mk s iss c k l (s.lane c k l)) := by simp [hj]
    have hp := hadd.each j _ A hmap hA
    simp only [lane_of_course h.2.2] at hp
    exact hm s iss c k x l _ A h hp
  · have hp := e.1.package
    have h1 := congrArg State.mem hp
    have h2 := congrArg State.undef hp
    have h3 := congrArg State.hist hp
    exact SameMemory.ofEq (h1.trans hadd.mem.mem) (h2.trans hadd.mem.undef) (h3.trans hadd.mem.hist)
  · rfl
  · rfl
  · intro l hl
    rw [ca.lane l hl]
    unfold laneAfter
    split
    · simp only
      split
      · unfold parkLane; split
        · exact ⟨rfl, rfl⟩
        · rw [if_neg hk]; exact ⟨rfl, rfl⟩
      · exact ⟨rfl, rfl⟩
    · split <;> exact ⟨rfl, rfl⟩
  · intro l hl hlm
    rw [ca.lane l hl]
    unfold laneAfter
    rw [if_pos hlm]
    simp only
    by_cases hla : l ∈ act
    · rw [if_pos (by simpa using hla)]
      unfold parkLane
      cases hf : r.parked.find? (·.1 == l) with
      | none => rw [Option.map_none]; simp only; rw [if_neg hk]; exact .inl ⟨rfl, rfl⟩
      | some pr =>
        right
        refine ⟨hla, rfl, ?_⟩
        have hmem := List.mem_of_find?_eq_some hf
        have heq := List.find?_some hf
        obtain ⟨j, y, hy, hyp⟩ := hadd.parked pr hmem
        have hjl : j < act.length := by
          by_contra hne
          rw [List.getElem?_eq_none (by simp; omega)] at hy; cases hy
        have hjn : j < new.length := by rw [hadd.length]; simpa using hjl
        refine ⟨new[j], List.getElem_mem hjn, ?_, ?_⟩
        · have hp := hadd.each j y new[j] hy (List.getElem?_eq_getElem hjn)
          have hid := congrArg Access.id hp.rest
          simp only at hid
          rw [hid]; simp [hyp]
        · have hp := hadd.each j y new[j] hy (List.getElem?_eq_getElem hjn)
          have hly : y.1 = l := by rw [hyp] at heq; simpa using heq
          have hmap : (act.map (fun l => (l, mk s iss c k l (s.lane c k l))))[j]? = some y := hy
          rw [List.getElem?_map] at hmap
          cases hg : act[j]? with
          | none => rw [hg] at hmap; cases hmap
          | some l' =>
            rw [hg] at hmap
            simp only [Option.map_some, Option.some.injEq] at hmap
            have hl' : l' = l := by rw [← hly, ← hmap]
            subst hl'
            rw [← hmap] at hp
            simp only [lane_of_course h.2.2] at hp
            exact (hm s iss c k x l' _ _ h hp).1.agent
    · rw [if_neg (by simpa using hla)]
      exact .inl ⟨rfl, rfl⟩

end Sys2Proof.Machine
end

