-- ==== Sys2Proof/Laws/PerInstr.lean ====
section
/-! SUPPORT. The lemmas stated per instruction. `WordsFit`: every word of an instruction's encoding is a 32-bit number, so laying it out as bytes loses
none of its bits (R139). -/

namespace Sys2Proof.Laws

/-- Every word of the instruction is below 2^32. -/
def WordsFit.Statement (i : Instr) : Prop := ∀ w ∈ encodeWords i, w < 2 ^ 32

theorem oneWord {x : Nat} (h : x < 2 ^ 32) : ∀ w ∈ [x], w < 2 ^ 32 := fun _ hw => by cases hw with | head => exact h | tail _ h => cases h
theorem twoWord {x : Nat} {ad : AddrWord} (h : x < 2 ^ 32) : ∀ w ∈ [x, encAddr ad], w < 2 ^ 32 := by
  have h' : encAddr ad < 2 ^ 32 := by simp only [encAddr, enc, plc]; omega
  exact fun _ hw => by cases hw with | head => exact h | tail _ hw => exact oneWord h' _ hw
theorem noWord : ∀ w ∈ ([] : List Nat), w < 2 ^ 32 := fun _ hw => by cases hw
theorem encLd_lt (sz : LdSize) : encLd sz < 16 := by cases sz <;> decide
theorem encSt_lt (sz : StSize) : encSt sz < 16 := by cases sz <;> decide
theorem encWide_lt (w : Bool) : encWide w < 17 := by cases w <;> decide
theorem encLR_lt {m : Nat} {g : Guard} {d a b : Reg} {fn : Nat} (hm : m < 32) (hf : fn < 32) : encLR m g d a b fn < 2 ^ 32 := by
  simp only [encLR, enc, plc]; omega
theorem encUR_lt {m : Nat} {q : Guard} {d a b : Reg} {fn : Nat} (hm : m < 64) (hf : fn < 16) : encUR m q d a b fn < 2 ^ 32 := by
  simp only [encUR, enc, plc]; omega

end Sys2Proof.Laws

open Sys2Proof Sys2Proof.Laws

theorem Sys2Proof.Laws.WordsFit.add (g : Guard) (d : BitVec 6) (a : BitVec 6) (b : BitVec 6) : Sys2Proof.Laws.WordsFit.Statement (.add g d a b) := oneWord (by simp only [enc, plc]; omega)
theorem Sys2Proof.Laws.WordsFit.sub (g : Guard) (d : BitVec 6) (a : BitVec 6) (b : BitVec 6) : Sys2Proof.Laws.WordsFit.Statement (.sub g d a b) := oneWord (by simp only [enc, plc]; omega)
theorem Sys2Proof.Laws.WordsFit.and (g : Guard) (d : BitVec 6) (a : BitVec 6) (b : BitVec 6) : Sys2Proof.Laws.WordsFit.Statement (.and g d a b) := oneWord (by simp only [enc, plc]; omega)
theorem Sys2Proof.Laws.WordsFit.or (g : Guard) (d : BitVec 6) (a : BitVec 6) (b : BitVec 6) : Sys2Proof.Laws.WordsFit.Statement (.or g d a b) := oneWord (by simp only [enc, plc]; omega)
theorem Sys2Proof.Laws.WordsFit.xor (g : Guard) (d : BitVec 6) (a : BitVec 6) (b : BitVec 6) : Sys2Proof.Laws.WordsFit.Statement (.xor g d a b) := oneWord (by simp only [enc, plc]; omega)
theorem Sys2Proof.Laws.WordsFit.andn (g : Guard) (d : BitVec 6) (a : BitVec 6) (b : BitVec 6) : Sys2Proof.Laws.WordsFit.Statement (.andn g d a b) := oneWord (by simp only [enc, plc]; omega)
theorem Sys2Proof.Laws.WordsFit.shl (g : Guard) (d : BitVec 6) (a : BitVec 6) (b : BitVec 6) : Sys2Proof.Laws.WordsFit.Statement (.shl g d a b) := oneWord (by simp only [enc, plc]; omega)
theorem Sys2Proof.Laws.WordsFit.shr (g : Guard) (d : BitVec 6) (a : BitVec 6) (b : BitVec 6) : Sys2Proof.Laws.WordsFit.Statement (.shr g d a b) := oneWord (by simp only [enc, plc]; omega)
theorem Sys2Proof.Laws.WordsFit.sar (g : Guard) (d : BitVec 6) (a : BitVec 6) (b : BitVec 6) : Sys2Proof.Laws.WordsFit.Statement (.sar g d a b) := oneWord (by simp only [enc, plc]; omega)
theorem Sys2Proof.Laws.WordsFit.min (g : Guard) (d : BitVec 6) (a : BitVec 6) (b : BitVec 6) : Sys2Proof.Laws.WordsFit.Statement (.min g d a b) := oneWord (by simp only [enc, plc]; omega)
theorem Sys2Proof.Laws.WordsFit.max (g : Guard) (d : BitVec 6) (a : BitVec 6) (b : BitVec 6) : Sys2Proof.Laws.WordsFit.Statement (.max g d a b) := oneWord (by simp only [enc, plc]; omega)
theorem Sys2Proof.Laws.WordsFit.minui (g : Guard) (d : BitVec 6) (a : BitVec 6) (b : BitVec 6) : Sys2Proof.Laws.WordsFit.Statement (.minui g d a b) := oneWord (by simp only [enc, plc]; omega)
theorem Sys2Proof.Laws.WordsFit.maxui (g : Guard) (d : BitVec 6) (a : BitVec 6) (b : BitVec 6) : Sys2Proof.Laws.WordsFit.Statement (.maxui g d a b) := oneWord (by simp only [enc, plc]; omega)
theorem Sys2Proof.Laws.WordsFit.abs (g : Guard) (d : BitVec 6) (a : BitVec 6) : Sys2Proof.Laws.WordsFit.Statement (.abs g d a) := oneWord (by simp only [enc, plc]; omega)
theorem Sys2Proof.Laws.WordsFit.neg (g : Guard) (d : BitVec 6) (a : BitVec 6) : Sys2Proof.Laws.WordsFit.Statement (.neg g d a) := oneWord (by simp only [enc, plc]; omega)
theorem Sys2Proof.Laws.WordsFit.mul (g : Guard) (d : BitVec 6) (a : BitVec 6) (b : BitVec 6) : Sys2Proof.Laws.WordsFit.Statement (.mul g d a b) := oneWord (by simp only [enc, plc]; omega)
theorem Sys2Proof.Laws.WordsFit.mulhi (g : Guard) (d : BitVec 6) (a : BitVec 6) (b : BitVec 6) : Sys2Proof.Laws.WordsFit.Statement (.mulhi g d a b) := oneWord (by simp only [enc, plc]; omega)
theorem Sys2Proof.Laws.WordsFit.mulhiu (g : Guard) (d : BitVec 6) (a : BitVec 6) (b : BitVec 6) : Sys2Proof.Laws.WordsFit.Statement (.mulhiu g d a b) := oneWord (by simp only [enc, plc]; omega)
theorem Sys2Proof.Laws.WordsFit.mad (g : Guard) (d : BitVec 6) (a : BitVec 6) (b : BitVec 6) : Sys2Proof.Laws.WordsFit.Statement (.mad g d a b) := oneWord (by simp only [enc, plc]; omega)
theorem Sys2Proof.Laws.WordsFit.popc (g : Guard) (d : BitVec 6) (a : BitVec 6) : Sys2Proof.Laws.WordsFit.Statement (.popc g d a) := oneWord (by simp only [enc, plc]; omega)
theorem Sys2Proof.Laws.WordsFit.clz (g : Guard) (d : BitVec 6) (a : BitVec 6) : Sys2Proof.Laws.WordsFit.Statement (.clz g d a) := oneWord (by simp only [enc, plc]; omega)
theorem Sys2Proof.Laws.WordsFit.brev (g : Guard) (d : BitVec 6) (a : BitVec 6) : Sys2Proof.Laws.WordsFit.Statement (.brev g d a) := oneWord (by simp only [enc, plc]; omega)
theorem Sys2Proof.Laws.WordsFit.bfx (g : Guard) (d : BitVec 6) (a : BitVec 6) (b : BitVec 6) : Sys2Proof.Laws.WordsFit.Statement (.bfx g d a b) := oneWord (by simp only [enc, plc]; omega)
theorem Sys2Proof.Laws.WordsFit.bfi (g : Guard) (d : BitVec 6) (a : BitVec 6) (b : BitVec 6) : Sys2Proof.Laws.WordsFit.Statement (.bfi g d a b) := oneWord (by simp only [enc, plc]; omega)
theorem Sys2Proof.Laws.WordsFit.icmpEq (g : Guard) (d : BitVec 3) (a : BitVec 6) (b : BitVec 6) : Sys2Proof.Laws.WordsFit.Statement (.icmpEq g d a b) := oneWord (by simp only [enc, plc]; omega)
theorem Sys2Proof.Laws.WordsFit.icmpNe (g : Guard) (d : BitVec 3) (a : BitVec 6) (b : BitVec 6) : Sys2Proof.Laws.WordsFit.Statement (.icmpNe g d a b) := oneWord (by simp only [enc, plc]; omega)
theorem Sys2Proof.Laws.WordsFit.icmpLt (g : Guard) (d : BitVec 3) (a : BitVec 6) (b : BitVec 6) : Sys2Proof.Laws.WordsFit.Statement (.icmpLt g d a b) := oneWord (by simp only [enc, plc]; omega)
theorem Sys2Proof.Laws.WordsFit.icmpLe (g : Guard) (d : BitVec 3) (a : BitVec 6) (b : BitVec 6) : Sys2Proof.Laws.WordsFit.Statement (.icmpLe g d a b) := oneWord (by simp only [enc, plc]; omega)
theorem Sys2Proof.Laws.WordsFit.icmpGt (g : Guard) (d : BitVec 3) (a : BitVec 6) (b : BitVec 6) : Sys2Proof.Laws.WordsFit.Statement (.icmpGt g d a b) := oneWord (by simp only [enc, plc]; omega)
theorem Sys2Proof.Laws.WordsFit.icmpGe (g : Guard) (d : BitVec 3) (a : BitVec 6) (b : BitVec 6) : Sys2Proof.Laws.WordsFit.Statement (.icmpGe g d a b) := oneWord (by simp only [enc, plc]; omega)
theorem Sys2Proof.Laws.WordsFit.icmpLtui (g : Guard) (d : BitVec 3) (a : BitVec 6) (b : BitVec 6) : Sys2Proof.Laws.WordsFit.Statement (.icmpLtui g d a b) := oneWord (by simp only [enc, plc]; omega)
theorem Sys2Proof.Laws.WordsFit.icmpLeui (g : Guard) (d : BitVec 3) (a : BitVec 6) (b : BitVec 6) : Sys2Proof.Laws.WordsFit.Statement (.icmpLeui g d a b) := oneWord (by simp only [enc, plc]; omega)
theorem Sys2Proof.Laws.WordsFit.icmpGtui (g : Guard) (d : BitVec 3) (a : BitVec 6) (b : BitVec 6) : Sys2Proof.Laws.WordsFit.Statement (.icmpGtui g d a b) := oneWord (by simp only [enc, plc]; omega)
theorem Sys2Proof.Laws.WordsFit.icmpGeui (g : Guard) (d : BitVec 3) (a : BitVec 6) (b : BitVec 6) : Sys2Proof.Laws.WordsFit.Statement (.icmpGeui g d a b) := oneWord (by simp only [enc, plc]; omega)
theorem Sys2Proof.Laws.WordsFit.pand (g : Guard) (d : BitVec 3) (a : BitVec 3) (b : BitVec 3) : Sys2Proof.Laws.WordsFit.Statement (.pand g d a b) := oneWord (by simp only [enc, plc]; omega)
theorem Sys2Proof.Laws.WordsFit.por (g : Guard) (d : BitVec 3) (a : BitVec 3) (b : BitVec 3) : Sys2Proof.Laws.WordsFit.Statement (.por g d a b) := oneWord (by simp only [enc, plc]; omega)
theorem Sys2Proof.Laws.WordsFit.pxor (g : Guard) (d : BitVec 3) (a : BitVec 3) (b : BitVec 3) : Sys2Proof.Laws.WordsFit.Statement (.pxor g d a b) := oneWord (by simp only [enc, plc]; omega)
theorem Sys2Proof.Laws.WordsFit.pandn (g : Guard) (d : BitVec 3) (a : BitVec 3) (b : BitVec 3) : Sys2Proof.Laws.WordsFit.Statement (.pandn g d a b) := oneWord (by simp only [enc, plc]; omega)
theorem Sys2Proof.Laws.WordsFit.pnot (g : Guard) (d : BitVec 3) (a : BitVec 3) : Sys2Proof.Laws.WordsFit.Statement (.pnot g d a) := oneWord (by simp only [enc, plc]; omega)
theorem Sys2Proof.Laws.WordsFit.p2v (g : Guard) (d : BitVec 6) (a : BitVec 3) : Sys2Proof.Laws.WordsFit.Statement (.p2v g d a) := oneWord (by simp only [enc, plc]; omega)
theorem Sys2Proof.Laws.WordsFit.v2p (g : Guard) (d : BitVec 3) (a : BitVec 6) : Sys2Proof.Laws.WordsFit.Statement (.v2p g d a) := oneWord (by simp only [enc, plc]; omega)
theorem Sys2Proof.Laws.WordsFit.addi (g : Guard) (d : BitVec 6) (a : BitVec 6) (i : BitVec 11) : Sys2Proof.Laws.WordsFit.Statement (.addi g d a i) := oneWord (by simp only [enc, plc]; omega)
theorem Sys2Proof.Laws.WordsFit.andi (g : Guard) (d : BitVec 6) (a : BitVec 6) (i : BitVec 11) : Sys2Proof.Laws.WordsFit.Statement (.andi g d a i) := oneWord (by simp only [enc, plc]; omega)
theorem Sys2Proof.Laws.WordsFit.ori (g : Guard) (d : BitVec 6) (a : BitVec 6) (i : BitVec 11) : Sys2Proof.Laws.WordsFit.Statement (.ori g d a i) := oneWord (by simp only [enc, plc]; omega)
theorem Sys2Proof.Laws.WordsFit.xori (g : Guard) (d : BitVec 6) (a : BitVec 6) (i : BitVec 11) : Sys2Proof.Laws.WordsFit.Statement (.xori g d a i) := oneWord (by simp only [enc, plc]; omega)
theorem Sys2Proof.Laws.WordsFit.shli (g : Guard) (d : BitVec 6) (a : BitVec 6) (n : BitVec 5) : Sys2Proof.Laws.WordsFit.Statement (.shli g d a n) := oneWord (by simp only [enc, plc]; omega)
theorem Sys2Proof.Laws.WordsFit.shri (g : Guard) (d : BitVec 6) (a : BitVec 6) (n : BitVec 5) : Sys2Proof.Laws.WordsFit.Statement (.shri g d a n) := oneWord (by simp only [enc, plc]; omega)
theorem Sys2Proof.Laws.WordsFit.sari (g : Guard) (d : BitVec 6) (a : BitVec 6) (n : BitVec 5) : Sys2Proof.Laws.WordsFit.Statement (.sari g d a n) := oneWord (by simp only [enc, plc]; omega)
theorem Sys2Proof.Laws.WordsFit.roli (g : Guard) (d : BitVec 6) (a : BitVec 6) (n : BitVec 5) : Sys2Proof.Laws.WordsFit.Statement (.roli g d a n) := oneWord (by simp only [enc, plc]; omega)
theorem Sys2Proof.Laws.WordsFit.mov16 (g : Guard) (d : BitVec 6) (i : BitVec 16) : Sys2Proof.Laws.WordsFit.Statement (.mov16 g d i) := oneWord (by simp only [enc, plc]; omega)
theorem Sys2Proof.Laws.WordsFit.mov16Hi (g : Guard) (d : BitVec 6) (i : BitVec 16) : Sys2Proof.Laws.WordsFit.Statement (.mov16Hi g d i) := oneWord (by simp only [enc, plc]; omega)
theorem Sys2Proof.Laws.WordsFit.add64 (g : Guard) (d : BitVec 6) (a : BitVec 6) (b : BitVec 6) : Sys2Proof.Laws.WordsFit.Statement (.add64 g d a b) := oneWord (by simp only [enc, plc]; omega)
theorem Sys2Proof.Laws.WordsFit.sub64 (g : Guard) (d : BitVec 6) (a : BitVec 6) (b : BitVec 6) : Sys2Proof.Laws.WordsFit.Statement (.sub64 g d a b) := oneWord (by simp only [enc, plc]; omega)
theorem Sys2Proof.Laws.WordsFit.padd (g : Guard) (d : BitVec 6) (a : BitVec 6) (b : BitVec 6) : Sys2Proof.Laws.WordsFit.Statement (.padd g d a b) := oneWord (by simp only [enc, plc]; omega)
theorem Sys2Proof.Laws.WordsFit.shl64 (g : Guard) (d : BitVec 6) (a : BitVec 6) (b : BitVec 6) : Sys2Proof.Laws.WordsFit.Statement (.shl64 g d a b) := oneWord (by simp only [enc, plc]; omega)
theorem Sys2Proof.Laws.WordsFit.shr64 (g : Guard) (d : BitVec 6) (a : BitVec 6) (b : BitVec 6) : Sys2Proof.Laws.WordsFit.Statement (.shr64 g d a b) := oneWord (by simp only [enc, plc]; omega)
theorem Sys2Proof.Laws.WordsFit.sar64 (g : Guard) (d : BitVec 6) (a : BitVec 6) (b : BitVec 6) : Sys2Proof.Laws.WordsFit.Statement (.sar64 g d a b) := oneWord (by simp only [enc, plc]; omega)
theorem Sys2Proof.Laws.WordsFit.mulw (g : Guard) (d : BitVec 6) (a : BitVec 6) (b : BitVec 6) : Sys2Proof.Laws.WordsFit.Statement (.mulw g d a b) := oneWord (by simp only [enc, plc]; omega)
theorem Sys2Proof.Laws.WordsFit.mulwui (g : Guard) (d : BitVec 6) (a : BitVec 6) (b : BitVec 6) : Sys2Proof.Laws.WordsFit.Statement (.mulwui g d a b) := oneWord (by simp only [enc, plc]; omega)
theorem Sys2Proof.Laws.WordsFit.mov64 (g : Guard) (d : BitVec 6) (a : BitVec 6) : Sys2Proof.Laws.WordsFit.Statement (.mov64 g d a) := oneWord (by simp only [enc, plc]; omega)
theorem Sys2Proof.Laws.WordsFit.mov (g : Guard) (d : BitVec 6) (a : BitVec 6) : Sys2Proof.Laws.WordsFit.Statement (.mov g d a) := oneWord (by simp only [enc, plc]; omega)
theorem Sys2Proof.Laws.WordsFit.sel (g : Guard) (d : BitVec 6) (a : BitVec 6) (b : BitVec 6) (k : BitVec 3) : Sys2Proof.Laws.WordsFit.Statement (.sel g d a b k) := oneWord (by simp only [enc, plc]; omega)
theorem Sys2Proof.Laws.WordsFit.pick (g : Guard) (d : BitVec 6) (a : BitVec 6) (b : BitVec 6) : Sys2Proof.Laws.WordsFit.Statement (.pick g d a b) := oneWord (by simp only [enc, plc]; omega)
theorem Sys2Proof.Laws.WordsFit.rotu (g : Guard) (d : BitVec 6) (a : BitVec 6) (b : BitVec 6) : Sys2Proof.Laws.WordsFit.Statement (.rotu g d a b) := oneWord (by simp only [enc, plc]; omega)
theorem Sys2Proof.Laws.WordsFit.rotd (g : Guard) (d : BitVec 6) (a : BitVec 6) (b : BitVec 6) : Sys2Proof.Laws.WordsFit.Statement (.rotd g d a b) := oneWord (by simp only [enc, plc]; omega)
theorem Sys2Proof.Laws.WordsFit.bfly (g : Guard) (d : BitVec 6) (a : BitVec 6) (b : BitVec 6) : Sys2Proof.Laws.WordsFit.Statement (.bfly g d a b) := oneWord (by simp only [enc, plc]; omega)
theorem Sys2Proof.Laws.WordsFit.lany (g : Guard) (d : BitVec 3) (a : BitVec 3) : Sys2Proof.Laws.WordsFit.Statement (.lany g d a) := oneWord (by simp only [enc, plc]; omega)
theorem Sys2Proof.Laws.WordsFit.lall (g : Guard) (d : BitVec 3) (a : BitVec 3) : Sys2Proof.Laws.WordsFit.Statement (.lall g d a) := oneWord (by simp only [enc, plc]; omega)
theorem Sys2Proof.Laws.WordsFit.lmask (g : Guard) (d : BitVec 6) (a : BitVec 3) : Sys2Proof.Laws.WordsFit.Statement (.lmask g d a) := oneWord (by simp only [enc, plc]; omega)
theorem Sys2Proof.Laws.WordsFit.combAdd (g : Guard) (d : BitVec 6) (a : BitVec 6) : Sys2Proof.Laws.WordsFit.Statement (.combAdd g d a) := oneWord (by simp only [enc, plc]; omega)
theorem Sys2Proof.Laws.WordsFit.combMin (g : Guard) (d : BitVec 6) (a : BitVec 6) : Sys2Proof.Laws.WordsFit.Statement (.combMin g d a) := oneWord (by simp only [enc, plc]; omega)
theorem Sys2Proof.Laws.WordsFit.combMax (g : Guard) (d : BitVec 6) (a : BitVec 6) : Sys2Proof.Laws.WordsFit.Statement (.combMax g d a) := oneWord (by simp only [enc, plc]; omega)
theorem Sys2Proof.Laws.WordsFit.combMinui (g : Guard) (d : BitVec 6) (a : BitVec 6) : Sys2Proof.Laws.WordsFit.Statement (.combMinui g d a) := oneWord (by simp only [enc, plc]; omega)
theorem Sys2Proof.Laws.WordsFit.combMaxui (g : Guard) (d : BitVec 6) (a : BitVec 6) : Sys2Proof.Laws.WordsFit.Statement (.combMaxui g d a) := oneWord (by simp only [enc, plc]; omega)
theorem Sys2Proof.Laws.WordsFit.combAnd (g : Guard) (d : BitVec 6) (a : BitVec 6) : Sys2Proof.Laws.WordsFit.Statement (.combAnd g d a) := oneWord (by simp only [enc, plc]; omega)
theorem Sys2Proof.Laws.WordsFit.combOr (g : Guard) (d : BitVec 6) (a : BitVec 6) : Sys2Proof.Laws.WordsFit.Statement (.combOr g d a) := oneWord (by simp only [enc, plc]; omega)
theorem Sys2Proof.Laws.WordsFit.combXor (g : Guard) (d : BitVec 6) (a : BitVec 6) : Sys2Proof.Laws.WordsFit.Statement (.combXor g d a) := oneWord (by simp only [enc, plc]; omega)
theorem Sys2Proof.Laws.WordsFit.fadd (g : Guard) (d : BitVec 6) (a : BitVec 6) (b : BitVec 6) : Sys2Proof.Laws.WordsFit.Statement (.fadd g d a b) := oneWord (by simp only [enc, plc]; omega)
theorem Sys2Proof.Laws.WordsFit.fsub (g : Guard) (d : BitVec 6) (a : BitVec 6) (b : BitVec 6) : Sys2Proof.Laws.WordsFit.Statement (.fsub g d a b) := oneWord (by simp only [enc, plc]; omega)
theorem Sys2Proof.Laws.WordsFit.fmul (g : Guard) (d : BitVec 6) (a : BitVec 6) (b : BitVec 6) : Sys2Proof.Laws.WordsFit.Statement (.fmul g d a b) := oneWord (by simp only [enc, plc]; omega)
theorem Sys2Proof.Laws.WordsFit.ffma (g : Guard) (d : BitVec 6) (a : BitVec 6) (b : BitVec 6) : Sys2Proof.Laws.WordsFit.Statement (.ffma g d a b) := oneWord (by simp only [enc, plc]; omega)
theorem Sys2Proof.Laws.WordsFit.fmin (g : Guard) (d : BitVec 6) (a : BitVec 6) (b : BitVec 6) : Sys2Proof.Laws.WordsFit.Statement (.fmin g d a b) := oneWord (by simp only [enc, plc]; omega)
theorem Sys2Proof.Laws.WordsFit.fmax (g : Guard) (d : BitVec 6) (a : BitVec 6) (b : BitVec 6) : Sys2Proof.Laws.WordsFit.Statement (.fmax g d a b) := oneWord (by simp only [enc, plc]; omega)
theorem Sys2Proof.Laws.WordsFit.fabs (g : Guard) (d : BitVec 6) (a : BitVec 6) : Sys2Proof.Laws.WordsFit.Statement (.fabs g d a) := oneWord (by simp only [enc, plc]; omega)
theorem Sys2Proof.Laws.WordsFit.fneg (g : Guard) (d : BitVec 6) (a : BitVec 6) : Sys2Proof.Laws.WordsFit.Statement (.fneg g d a) := oneWord (by simp only [enc, plc]; omega)
theorem Sys2Proof.Laws.WordsFit.fcpys (g : Guard) (d : BitVec 6) (a : BitVec 6) (b : BitVec 6) : Sys2Proof.Laws.WordsFit.Statement (.fcpys g d a b) := oneWord (by simp only [enc, plc]; omega)
theorem Sys2Proof.Laws.WordsFit.fcmpEq (g : Guard) (d : BitVec 3) (a : BitVec 6) (b : BitVec 6) : Sys2Proof.Laws.WordsFit.Statement (.fcmpEq g d a b) := oneWord (by simp only [enc, plc]; omega)
theorem Sys2Proof.Laws.WordsFit.fcmpNe (g : Guard) (d : BitVec 3) (a : BitVec 6) (b : BitVec 6) : Sys2Proof.Laws.WordsFit.Statement (.fcmpNe g d a b) := oneWord (by simp only [enc, plc]; omega)
theorem Sys2Proof.Laws.WordsFit.fcmpLt (g : Guard) (d : BitVec 3) (a : BitVec 6) (b : BitVec 6) : Sys2Proof.Laws.WordsFit.Statement (.fcmpLt g d a b) := oneWord (by simp only [enc, plc]; omega)
theorem Sys2Proof.Laws.WordsFit.fcmpLe (g : Guard) (d : BitVec 3) (a : BitVec 6) (b : BitVec 6) : Sys2Proof.Laws.WordsFit.Statement (.fcmpLe g d a b) := oneWord (by simp only [enc, plc]; omega)
theorem Sys2Proof.Laws.WordsFit.fcmpGt (g : Guard) (d : BitVec 3) (a : BitVec 6) (b : BitVec 6) : Sys2Proof.Laws.WordsFit.Statement (.fcmpGt g d a b) := oneWord (by simp only [enc, plc]; omega)
theorem Sys2Proof.Laws.WordsFit.fcmpGe (g : Guard) (d : BitVec 3) (a : BitVec 6) (b : BitVec 6) : Sys2Proof.Laws.WordsFit.Statement (.fcmpGe g d a b) := oneWord (by simp only [enc, plc]; omega)
theorem Sys2Proof.Laws.WordsFit.fcmpUnord (g : Guard) (d : BitVec 3) (a : BitVec 6) (b : BitVec 6) : Sys2Proof.Laws.WordsFit.Statement (.fcmpUnord g d a b) := oneWord (by simp only [enc, plc]; omega)
theorem Sys2Proof.Laws.WordsFit.fcmpOrd (g : Guard) (d : BitVec 3) (a : BitVec 6) (b : BitVec 6) : Sys2Proof.Laws.WordsFit.Statement (.fcmpOrd g d a b) := oneWord (by simp only [enc, plc]; omega)
theorem Sys2Proof.Laws.WordsFit.addF16x2 (g : Guard) (d : BitVec 6) (a : BitVec 6) (b : BitVec 6) : Sys2Proof.Laws.WordsFit.Statement (.addF16x2 g d a b) := oneWord (by simp only [enc, plc]; omega)
theorem Sys2Proof.Laws.WordsFit.subF16x2 (g : Guard) (d : BitVec 6) (a : BitVec 6) (b : BitVec 6) : Sys2Proof.Laws.WordsFit.Statement (.subF16x2 g d a b) := oneWord (by simp only [enc, plc]; omega)
theorem Sys2Proof.Laws.WordsFit.mulF16x2 (g : Guard) (d : BitVec 6) (a : BitVec 6) (b : BitVec 6) : Sys2Proof.Laws.WordsFit.Statement (.mulF16x2 g d a b) := oneWord (by simp only [enc, plc]; omega)
theorem Sys2Proof.Laws.WordsFit.fmaF16x2 (g : Guard) (d : BitVec 6) (a : BitVec 6) (b : BitVec 6) : Sys2Proof.Laws.WordsFit.Statement (.fmaF16x2 g d a b) := oneWord (by simp only [enc, plc]; omega)
theorem Sys2Proof.Laws.WordsFit.minF16x2 (g : Guard) (d : BitVec 6) (a : BitVec 6) (b : BitVec 6) : Sys2Proof.Laws.WordsFit.Statement (.minF16x2 g d a b) := oneWord (by simp only [enc, plc]; omega)
theorem Sys2Proof.Laws.WordsFit.maxF16x2 (g : Guard) (d : BitVec 6) (a : BitVec 6) (b : BitVec 6) : Sys2Proof.Laws.WordsFit.Statement (.maxF16x2 g d a b) := oneWord (by simp only [enc, plc]; omega)
theorem Sys2Proof.Laws.WordsFit.addBf16x2 (g : Guard) (d : BitVec 6) (a : BitVec 6) (b : BitVec 6) : Sys2Proof.Laws.WordsFit.Statement (.addBf16x2 g d a b) := oneWord (by simp only [enc, plc]; omega)
theorem Sys2Proof.Laws.WordsFit.subBf16x2 (g : Guard) (d : BitVec 6) (a : BitVec 6) (b : BitVec 6) : Sys2Proof.Laws.WordsFit.Statement (.subBf16x2 g d a b) := oneWord (by simp only [enc, plc]; omega)
theorem Sys2Proof.Laws.WordsFit.mulBf16x2 (g : Guard) (d : BitVec 6) (a : BitVec 6) (b : BitVec 6) : Sys2Proof.Laws.WordsFit.Statement (.mulBf16x2 g d a b) := oneWord (by simp only [enc, plc]; omega)
theorem Sys2Proof.Laws.WordsFit.fmaBf16x2 (g : Guard) (d : BitVec 6) (a : BitVec 6) (b : BitVec 6) : Sys2Proof.Laws.WordsFit.Statement (.fmaBf16x2 g d a b) := oneWord (by simp only [enc, plc]; omega)
theorem Sys2Proof.Laws.WordsFit.minBf16x2 (g : Guard) (d : BitVec 6) (a : BitVec 6) (b : BitVec 6) : Sys2Proof.Laws.WordsFit.Statement (.minBf16x2 g d a b) := oneWord (by simp only [enc, plc]; omega)
theorem Sys2Proof.Laws.WordsFit.maxBf16x2 (g : Guard) (d : BitVec 6) (a : BitVec 6) (b : BitVec 6) : Sys2Proof.Laws.WordsFit.Statement (.maxBf16x2 g d a b) := oneWord (by simp only [enc, plc]; omega)
theorem Sys2Proof.Laws.WordsFit.rcp (g : Guard) (d : BitVec 6) (a : BitVec 6) (k : BitVec 4) : Sys2Proof.Laws.WordsFit.Statement (.rcp g d a k) := oneWord (by simp only [enc, plc]; omega)
theorem Sys2Proof.Laws.WordsFit.rsq (g : Guard) (d : BitVec 6) (a : BitVec 6) (k : BitVec 4) : Sys2Proof.Laws.WordsFit.Statement (.rsq g d a k) := oneWord (by simp only [enc, plc]; omega)
theorem Sys2Proof.Laws.WordsFit.sqrt (g : Guard) (d : BitVec 6) (a : BitVec 6) (k : BitVec 4) : Sys2Proof.Laws.WordsFit.Statement (.sqrt g d a k) := oneWord (by simp only [enc, plc]; omega)
theorem Sys2Proof.Laws.WordsFit.exp2 (g : Guard) (d : BitVec 6) (a : BitVec 6) (k : BitVec 4) : Sys2Proof.Laws.WordsFit.Statement (.exp2 g d a k) := oneWord (by simp only [enc, plc]; omega)
theorem Sys2Proof.Laws.WordsFit.log2 (g : Guard) (d : BitVec 6) (a : BitVec 6) (k : BitVec 4) : Sys2Proof.Laws.WordsFit.Statement (.log2 g d a k) := oneWord (by simp only [enc, plc]; omega)
theorem Sys2Proof.Laws.WordsFit.sin (g : Guard) (d : BitVec 6) (a : BitVec 6) (k : BitVec 4) : Sys2Proof.Laws.WordsFit.Statement (.sin g d a k) := oneWord (by simp only [enc, plc]; omega)
theorem Sys2Proof.Laws.WordsFit.cos (g : Guard) (d : BitVec 6) (a : BitVec 6) (k : BitVec 4) : Sys2Proof.Laws.WordsFit.Statement (.cos g d a k) := oneWord (by simp only [enc, plc]; omega)
theorem Sys2Proof.Laws.WordsFit.tanh (g : Guard) (d : BitVec 6) (a : BitVec 6) (k : BitVec 4) : Sys2Proof.Laws.WordsFit.Statement (.tanh g d a k) := oneWord (by simp only [enc, plc]; omega)
theorem Sys2Proof.Laws.WordsFit.cvtF32F16 (g : Guard) (d : BitVec 6) (a : BitVec 6) (h : BitVec 1) : Sys2Proof.Laws.WordsFit.Statement (.cvtF32F16 g d a h) := oneWord (by simp only [enc, plc]; omega)
theorem Sys2Proof.Laws.WordsFit.cvtF32Bf16 (g : Guard) (d : BitVec 6) (a : BitVec 6) (h : BitVec 1) : Sys2Proof.Laws.WordsFit.Statement (.cvtF32Bf16 g d a h) := oneWord (by simp only [enc, plc]; omega)
theorem Sys2Proof.Laws.WordsFit.cvtF16F32 (g : Guard) (d : BitVec 6) (a : BitVec 6) (b : BitVec 6) : Sys2Proof.Laws.WordsFit.Statement (.cvtF16F32 g d a b) := oneWord (by simp only [enc, plc]; omega)
theorem Sys2Proof.Laws.WordsFit.cvtBf16F32 (g : Guard) (d : BitVec 6) (a : BitVec 6) (b : BitVec 6) : Sys2Proof.Laws.WordsFit.Statement (.cvtBf16F32 g d a b) := oneWord (by simp only [enc, plc]; omega)
theorem Sys2Proof.Laws.WordsFit.cvtS32F32 (g : Guard) (d : BitVec 6) (a : BitVec 6) : Sys2Proof.Laws.WordsFit.Statement (.cvtS32F32 g d a) := oneWord (by simp only [enc, plc]; omega)
theorem Sys2Proof.Laws.WordsFit.cvtUi32F32 (g : Guard) (d : BitVec 6) (a : BitVec 6) : Sys2Proof.Laws.WordsFit.Statement (.cvtUi32F32 g d a) := oneWord (by simp only [enc, plc]; omega)
theorem Sys2Proof.Laws.WordsFit.cvtF32S32 (g : Guard) (d : BitVec 6) (a : BitVec 6) : Sys2Proof.Laws.WordsFit.Statement (.cvtF32S32 g d a) := oneWord (by simp only [enc, plc]; omega)
theorem Sys2Proof.Laws.WordsFit.cvtF32Ui32 (g : Guard) (d : BitVec 6) (a : BitVec 6) : Sys2Proof.Laws.WordsFit.Statement (.cvtF32Ui32 g d a) := oneWord (by simp only [enc, plc]; omega)
theorem Sys2Proof.Laws.WordsFit.cvtFxF32 (g : Guard) (d : BitVec 6) (a : BitVec 6) : Sys2Proof.Laws.WordsFit.Statement (.cvtFxF32 g d a) := oneWord (by simp only [enc, plc]; omega)
theorem Sys2Proof.Laws.WordsFit.cvtF32Fx (g : Guard) (d : BitVec 6) (a : BitVec 6) : Sys2Proof.Laws.WordsFit.Statement (.cvtF32Fx g d a) := oneWord (by simp only [enc, plc]; omega)
theorem Sys2Proof.Laws.WordsFit.cvtF16F32Sr (g : Guard) (d : BitVec 6) (a : BitVec 6) (b : BitVec 6) : Sys2Proof.Laws.WordsFit.Statement (.cvtF16F32Sr g d a b) := oneWord (by simp only [enc, plc]; omega)
theorem Sys2Proof.Laws.WordsFit.cvtBf16F32Sr (g : Guard) (d : BitVec 6) (a : BitVec 6) (b : BitVec 6) : Sys2Proof.Laws.WordsFit.Statement (.cvtBf16F32Sr g d a b) := oneWord (by simp only [enc, plc]; omega)
theorem Sys2Proof.Laws.WordsFit.cvtF32S64 (g : Guard) (d : BitVec 6) (a : BitVec 6) : Sys2Proof.Laws.WordsFit.Statement (.cvtF32S64 g d a) := oneWord (by simp only [enc, plc]; omega)
theorem Sys2Proof.Laws.WordsFit.cvtF32Ui64 (g : Guard) (d : BitVec 6) (a : BitVec 6) : Sys2Proof.Laws.WordsFit.Statement (.cvtF32Ui64 g d a) := oneWord (by simp only [enc, plc]; omega)
theorem Sys2Proof.Laws.WordsFit.pkE4m3 (g : Guard) (d : BitVec 6) (a : BitVec 6) (b : BitVec 6) : Sys2Proof.Laws.WordsFit.Statement (.pkE4m3 g d a b) := oneWord (by simp only [enc, plc]; omega)
theorem Sys2Proof.Laws.WordsFit.pkE5m2 (g : Guard) (d : BitVec 6) (a : BitVec 6) (b : BitVec 6) : Sys2Proof.Laws.WordsFit.Statement (.pkE5m2 g d a b) := oneWord (by simp only [enc, plc]; omega)
theorem Sys2Proof.Laws.WordsFit.pkHs4 (g : Guard) (d : BitVec 6) (a : BitVec 6) (b : BitVec 6) : Sys2Proof.Laws.WordsFit.Statement (.pkHs4 g d a b) := oneWord (by simp only [enc, plc]; omega)
theorem Sys2Proof.Laws.WordsFit.upkE4m3 (g : Guard) (d : BitVec 6) (a : BitVec 6) (b : BitVec 6) : Sys2Proof.Laws.WordsFit.Statement (.upkE4m3 g d a b) := oneWord (by simp only [enc, plc]; omega)
theorem Sys2Proof.Laws.WordsFit.upkE5m2 (g : Guard) (d : BitVec 6) (a : BitVec 6) (b : BitVec 6) : Sys2Proof.Laws.WordsFit.Statement (.upkE5m2 g d a b) := oneWord (by simp only [enc, plc]; omega)
theorem Sys2Proof.Laws.WordsFit.upkHs4 (g : Guard) (d : BitVec 6) (a : BitVec 6) (b : BitVec 6) : Sys2Proof.Laws.WordsFit.Statement (.upkHs4 g d a b) := oneWord (by simp only [enc, plc]; omega)
theorem Sys2Proof.Laws.WordsFit.pkE4m3Sr (g : Guard) (d : BitVec 6) (a : BitVec 6) (b : BitVec 6) : Sys2Proof.Laws.WordsFit.Statement (.pkE4m3Sr g d a b) := oneWord (by simp only [enc, plc]; omega)
theorem Sys2Proof.Laws.WordsFit.pkE5m2Sr (g : Guard) (d : BitVec 6) (a : BitVec 6) (b : BitVec 6) : Sys2Proof.Laws.WordsFit.Statement (.pkE5m2Sr g d a b) := oneWord (by simp only [enc, plc]; omega)
theorem Sys2Proof.Laws.WordsFit.scxE4m3 (g : Guard) (d : BitVec 6) (a : BitVec 6) : Sys2Proof.Laws.WordsFit.Statement (.scxE4m3 g d a) := oneWord (by simp only [enc, plc]; omega)
theorem Sys2Proof.Laws.WordsFit.scxE5m2 (g : Guard) (d : BitVec 6) (a : BitVec 6) : Sys2Proof.Laws.WordsFit.Statement (.scxE5m2 g d a) := oneWord (by simp only [enc, plc]; omega)
theorem Sys2Proof.Laws.WordsFit.scxHs4 (g : Guard) (d : BitVec 6) (a : BitVec 6) : Sys2Proof.Laws.WordsFit.Statement (.scxHs4 g d a) := oneWord (by simp only [enc, plc]; omega)
theorem Sys2Proof.Laws.WordsFit.ld (sz : LdSize) (g : Guard) (d : Reg) (a : Reg) (ad : AddrWord) : Sys2Proof.Laws.WordsFit.Statement (.ld sz g d a ad) := twoWord (encLR_lt (by decide) (Nat.lt_of_lt_of_le (encLd_lt _) (by decide)))
theorem Sys2Proof.Laws.WordsFit.st (sz : StSize) (g : Guard) (d : Reg) (a : Reg) (ad : AddrWord) : Sys2Proof.Laws.WordsFit.Statement (.st sz g d a ad) := twoWord (encLR_lt (by decide) (Nat.lt_of_lt_of_le (encSt_lt _) (by decide)))
theorem Sys2Proof.Laws.WordsFit.ldt (sz : LdSize) (g : Guard) (d : Reg) (a : Reg) (b : Reg) (ad : AddrWord) : Sys2Proof.Laws.WordsFit.Statement (.ldt sz g d a b ad) := twoWord (encLR_lt (by decide) (Nat.lt_of_lt_of_le (encLd_lt _) (by decide)))
theorem Sys2Proof.Laws.WordsFit.stt (sz : StSize) (g : Guard) (d : Reg) (a : Reg) (b : Reg) (ad : AddrWord) : Sys2Proof.Laws.WordsFit.Statement (.stt sz g d a b ad) := twoWord (encLR_lt (by decide) (Nat.lt_of_lt_of_le (encSt_lt _) (by decide)))
theorem Sys2Proof.Laws.WordsFit.ldp (g : Guard) (d : Reg) (a : Reg) (ad : AddrWord) : Sys2Proof.Laws.WordsFit.Statement (.ldp g d a ad) := twoWord (encLR_lt (by decide) (by decide))
theorem Sys2Proof.Laws.WordsFit.stp (g : Guard) (d : Reg) (a : Reg) (ad : AddrWord) : Sys2Proof.Laws.WordsFit.Statement (.stp g d a ad) := twoWord (encLR_lt (by decide) (by decide))
theorem Sys2Proof.Laws.WordsFit.pfar (g : Guard) (d : Reg) (b : Reg) (ad : AddrWord) : Sys2Proof.Laws.WordsFit.Statement (.pfar g d b ad) := twoWord (encLR_lt (by decide) (by decide))
theorem Sys2Proof.Laws.WordsFit.atomAdd (w : Bool) (g : Guard) (d : Reg) (a : Reg) (ad : AddrWord) : Sys2Proof.Laws.WordsFit.Statement (.atomAdd w g d a ad) := twoWord (encLR_lt (by decide) (by have := encWide_lt w; omega))
theorem Sys2Proof.Laws.WordsFit.atomMin (w : Bool) (g : Guard) (d : Reg) (a : Reg) (ad : AddrWord) : Sys2Proof.Laws.WordsFit.Statement (.atomMin w g d a ad) := twoWord (encLR_lt (by decide) (by have := encWide_lt w; omega))
theorem Sys2Proof.Laws.WordsFit.atomMax (w : Bool) (g : Guard) (d : Reg) (a : Reg) (ad : AddrWord) : Sys2Proof.Laws.WordsFit.Statement (.atomMax w g d a ad) := twoWord (encLR_lt (by decide) (by have := encWide_lt w; omega))
theorem Sys2Proof.Laws.WordsFit.atomMinui (w : Bool) (g : Guard) (d : Reg) (a : Reg) (ad : AddrWord) : Sys2Proof.Laws.WordsFit.Statement (.atomMinui w g d a ad) := twoWord (encLR_lt (by decide) (by have := encWide_lt w; omega))
theorem Sys2Proof.Laws.WordsFit.atomMaxui (w : Bool) (g : Guard) (d : Reg) (a : Reg) (ad : AddrWord) : Sys2Proof.Laws.WordsFit.Statement (.atomMaxui w g d a ad) := twoWord (encLR_lt (by decide) (by have := encWide_lt w; omega))
theorem Sys2Proof.Laws.WordsFit.atomAnd (w : Bool) (g : Guard) (d : Reg) (a : Reg) (ad : AddrWord) : Sys2Proof.Laws.WordsFit.Statement (.atomAnd w g d a ad) := twoWord (encLR_lt (by decide) (by have := encWide_lt w; omega))
theorem Sys2Proof.Laws.WordsFit.atomOr (w : Bool) (g : Guard) (d : Reg) (a : Reg) (ad : AddrWord) : Sys2Proof.Laws.WordsFit.Statement (.atomOr w g d a ad) := twoWord (encLR_lt (by decide) (by have := encWide_lt w; omega))
theorem Sys2Proof.Laws.WordsFit.atomXor (w : Bool) (g : Guard) (d : Reg) (a : Reg) (ad : AddrWord) : Sys2Proof.Laws.WordsFit.Statement (.atomXor w g d a ad) := twoWord (encLR_lt (by decide) (by have := encWide_lt w; omega))
theorem Sys2Proof.Laws.WordsFit.atomXchg (w : Bool) (g : Guard) (d : Reg) (a : Reg) (ad : AddrWord) : Sys2Proof.Laws.WordsFit.Statement (.atomXchg w g d a ad) := twoWord (encLR_lt (by decide) (by have := encWide_lt w; omega))
theorem Sys2Proof.Laws.WordsFit.atomCas (w : Bool) (g : Guard) (d : Reg) (a : Reg) (b : Reg) (ad : AddrWord) : Sys2Proof.Laws.WordsFit.Statement (.atomCas w g d a b ad) := twoWord (encLR_lt (by decide) (by have := encWide_lt w; omega))
theorem Sys2Proof.Laws.WordsFit.atomFaddF32 (g : Guard) (d : Reg) (a : Reg) (ad : AddrWord) : Sys2Proof.Laws.WordsFit.Statement (.atomFaddF32 g d a ad) := twoWord (encLR_lt (by decide) (by decide))
theorem Sys2Proof.Laws.WordsFit.atomAddBf16x2 (g : Guard) (d : Reg) (a : Reg) (ad : AddrWord) : Sys2Proof.Laws.WordsFit.Statement (.atomAddBf16x2 g d a ad) := twoWord (encLR_lt (by decide) (by decide))
theorem Sys2Proof.Laws.WordsFit.atomAddF16x2 (g : Guard) (d : Reg) (a : Reg) (ad : AddrWord) : Sys2Proof.Laws.WordsFit.Statement (.atomAddF16x2 g d a ad) := twoWord (encLR_lt (by decide) (by decide))
theorem Sys2Proof.Laws.WordsFit.atomFxadd (g : Guard) (d : Reg) (a : Reg) (ad : AddrWord) : Sys2Proof.Laws.WordsFit.Statement (.atomFxadd g d a ad) := twoWord (encLR_lt (by decide) (by decide))
theorem Sys2Proof.Laws.WordsFit.redAdd (w : Bool) (g : Guard) (d : Reg) (a : Reg) (ad : AddrWord) : Sys2Proof.Laws.WordsFit.Statement (.redAdd w g d a ad) := twoWord (encLR_lt (by decide) (by have := encWide_lt w; omega))
theorem Sys2Proof.Laws.WordsFit.redMin (w : Bool) (g : Guard) (d : Reg) (a : Reg) (ad : AddrWord) : Sys2Proof.Laws.WordsFit.Statement (.redMin w g d a ad) := twoWord (encLR_lt (by decide) (by have := encWide_lt w; omega))
theorem Sys2Proof.Laws.WordsFit.redMax (w : Bool) (g : Guard) (d : Reg) (a : Reg) (ad : AddrWord) : Sys2Proof.Laws.WordsFit.Statement (.redMax w g d a ad) := twoWord (encLR_lt (by decide) (by have := encWide_lt w; omega))
theorem Sys2Proof.Laws.WordsFit.redMinui (w : Bool) (g : Guard) (d : Reg) (a : Reg) (ad : AddrWord) : Sys2Proof.Laws.WordsFit.Statement (.redMinui w g d a ad) := twoWord (encLR_lt (by decide) (by have := encWide_lt w; omega))
theorem Sys2Proof.Laws.WordsFit.redMaxui (w : Bool) (g : Guard) (d : Reg) (a : Reg) (ad : AddrWord) : Sys2Proof.Laws.WordsFit.Statement (.redMaxui w g d a ad) := twoWord (encLR_lt (by decide) (by have := encWide_lt w; omega))
theorem Sys2Proof.Laws.WordsFit.redAnd (w : Bool) (g : Guard) (d : Reg) (a : Reg) (ad : AddrWord) : Sys2Proof.Laws.WordsFit.Statement (.redAnd w g d a ad) := twoWord (encLR_lt (by decide) (by have := encWide_lt w; omega))
theorem Sys2Proof.Laws.WordsFit.redOr (w : Bool) (g : Guard) (d : Reg) (a : Reg) (ad : AddrWord) : Sys2Proof.Laws.WordsFit.Statement (.redOr w g d a ad) := twoWord (encLR_lt (by decide) (by have := encWide_lt w; omega))
theorem Sys2Proof.Laws.WordsFit.redXor (w : Bool) (g : Guard) (d : Reg) (a : Reg) (ad : AddrWord) : Sys2Proof.Laws.WordsFit.Statement (.redXor w g d a ad) := twoWord (encLR_lt (by decide) (by have := encWide_lt w; omega))
theorem Sys2Proof.Laws.WordsFit.redFaddF32 (g : Guard) (d : Reg) (a : Reg) (ad : AddrWord) : Sys2Proof.Laws.WordsFit.Statement (.redFaddF32 g d a ad) := twoWord (encLR_lt (by decide) (by decide))
theorem Sys2Proof.Laws.WordsFit.redAddBf16x2 (g : Guard) (d : Reg) (a : Reg) (ad : AddrWord) : Sys2Proof.Laws.WordsFit.Statement (.redAddBf16x2 g d a ad) := twoWord (encLR_lt (by decide) (by decide))
theorem Sys2Proof.Laws.WordsFit.redAddF16x2 (g : Guard) (d : Reg) (a : Reg) (ad : AddrWord) : Sys2Proof.Laws.WordsFit.Statement (.redAddF16x2 g d a ad) := twoWord (encLR_lt (by decide) (by decide))
theorem Sys2Proof.Laws.WordsFit.redFxadd (g : Guard) (d : Reg) (a : Reg) (ad : AddrWord) : Sys2Proof.Laws.WordsFit.Statement (.redFxadd g d a ad) := twoWord (encLR_lt (by decide) (by decide))
theorem Sys2Proof.Laws.WordsFit.wait (w : Bool) (g : Guard) (d : Reg) (a : Reg) (b : Reg) (ad : AddrWord) : Sys2Proof.Laws.WordsFit.Statement (.wait w g d a b ad) := twoWord (encLR_lt (by decide) (by cases w <;> decide))
theorem Sys2Proof.Laws.WordsFit.waitReread (core : Nat) (slot : Nat) (lane : Nat) : Sys2Proof.Laws.WordsFit.Statement (.waitReread core slot lane) := noWord
theorem Sys2Proof.Laws.WordsFit.fenceAcq (g : Guard) (s : BitVec 3) : Sys2Proof.Laws.WordsFit.Statement (.fenceAcq g s) := oneWord (by simp only [enc, plc]; omega)
theorem Sys2Proof.Laws.WordsFit.fenceRel (g : Guard) (s : BitVec 3) : Sys2Proof.Laws.WordsFit.Statement (.fenceRel g s) := oneWord (by simp only [enc, plc]; omega)
theorem Sys2Proof.Laws.WordsFit.fenceAcqrel (g : Guard) (s : BitVec 3) : Sys2Proof.Laws.WordsFit.Statement (.fenceAcqrel g s) := oneWord (by simp only [enc, plc]; omega)
theorem Sys2Proof.Laws.WordsFit.bra (g : Guard) (o : BitVec 16) : Sys2Proof.Laws.WordsFit.Statement (.bra g o) := oneWord (by simp only [enc, plc]; omega)
theorem Sys2Proof.Laws.WordsFit.nop (g : Guard) : Sys2Proof.Laws.WordsFit.Statement (.nop g) := oneWord (by simp only [enc, plc]; omega)
theorem Sys2Proof.Laws.WordsFit.brx (g : Guard) (a : BitVec 6) : Sys2Proof.Laws.WordsFit.Statement (.brx g a) := oneWord (by simp only [enc, plc]; omega)
theorem Sys2Proof.Laws.WordsFit.call (g : Guard) (d : BitVec 6) (o : BitVec 12) : Sys2Proof.Laws.WordsFit.Statement (.call g d o) := oneWord (by simp only [enc, plc]; omega)
theorem Sys2Proof.Laws.WordsFit.callx (g : Guard) (d : BitVec 6) (a : BitVec 6) : Sys2Proof.Laws.WordsFit.Statement (.callx g d a) := oneWord (by simp only [enc, plc]; omega)
theorem Sys2Proof.Laws.WordsFit.ret (g : Guard) (a : BitVec 6) : Sys2Proof.Laws.WordsFit.Statement (.ret g a) := oneWord (by simp only [enc, plc]; omega)
theorem Sys2Proof.Laws.WordsFit.exit (g : Guard) : Sys2Proof.Laws.WordsFit.Statement (.exit g) := oneWord (by simp only [enc, plc]; omega)
theorem Sys2Proof.Laws.WordsFit.barA (g : Guard) (s : BitVec 1) (p : BitVec 1) (r : BitVec 3) (n : BitVec 12) : Sys2Proof.Laws.WordsFit.Statement (.barA g s p r n) := oneWord (by simp only [enc, plc]; omega)
theorem Sys2Proof.Laws.WordsFit.barW (g : Guard) (s : BitVec 1) (p : BitVec 1) (r : BitVec 3) (n : BitVec 12) : Sys2Proof.Laws.WordsFit.Statement (.barW g s p r n) := oneWord (by simp only [enc, plc]; omega)
theorem Sys2Proof.Laws.WordsFit.barAw (g : Guard) (s : BitVec 1) (p : BitVec 1) (r : BitVec 3) (n : BitVec 12) : Sys2Proof.Laws.WordsFit.Statement (.barAw g s p r n) := oneWord (by simp only [enc, plc]; omega)
theorem Sys2Proof.Laws.WordsFit.issv (g : Guard) (a : BitVec 6) : Sys2Proof.Laws.WordsFit.Statement (.issv g a) := oneWord (by simp only [enc, plc]; omega)
theorem Sys2Proof.Laws.WordsFit.rst (sz : StSize) (g : Guard) (d : Reg) (a : Reg) (ad : AddrWord) : Sys2Proof.Laws.WordsFit.Statement (.rst sz g d a ad) := twoWord (encLR_lt (by decide) (Nat.lt_of_lt_of_le (encSt_lt _) (by decide)))
theorem Sys2Proof.Laws.WordsFit.uadd (q : Guard) (d : BitVec 6) (a : BitVec 6) (b : BitVec 6) : Sys2Proof.Laws.WordsFit.Statement (.uadd q d a b) := oneWord (by simp only [enc, plc]; omega)
theorem Sys2Proof.Laws.WordsFit.usub (q : Guard) (d : BitVec 6) (a : BitVec 6) (b : BitVec 6) : Sys2Proof.Laws.WordsFit.Statement (.usub q d a b) := oneWord (by simp only [enc, plc]; omega)
theorem Sys2Proof.Laws.WordsFit.uand (q : Guard) (d : BitVec 6) (a : BitVec 6) (b : BitVec 6) : Sys2Proof.Laws.WordsFit.Statement (.uand q d a b) := oneWord (by simp only [enc, plc]; omega)
theorem Sys2Proof.Laws.WordsFit.uor (q : Guard) (d : BitVec 6) (a : BitVec 6) (b : BitVec 6) : Sys2Proof.Laws.WordsFit.Statement (.uor q d a b) := oneWord (by simp only [enc, plc]; omega)
theorem Sys2Proof.Laws.WordsFit.uxor (q : Guard) (d : BitVec 6) (a : BitVec 6) (b : BitVec 6) : Sys2Proof.Laws.WordsFit.Statement (.uxor q d a b) := oneWord (by simp only [enc, plc]; omega)
theorem Sys2Proof.Laws.WordsFit.ushl (q : Guard) (d : BitVec 6) (a : BitVec 6) (b : BitVec 6) : Sys2Proof.Laws.WordsFit.Statement (.ushl q d a b) := oneWord (by simp only [enc, plc]; omega)
theorem Sys2Proof.Laws.WordsFit.ushr (q : Guard) (d : BitVec 6) (a : BitVec 6) (b : BitVec 6) : Sys2Proof.Laws.WordsFit.Statement (.ushr q d a b) := oneWord (by simp only [enc, plc]; omega)
theorem Sys2Proof.Laws.WordsFit.usar (q : Guard) (d : BitVec 6) (a : BitVec 6) (b : BitVec 6) : Sys2Proof.Laws.WordsFit.Statement (.usar q d a b) := oneWord (by simp only [enc, plc]; omega)
theorem Sys2Proof.Laws.WordsFit.umin (q : Guard) (d : BitVec 6) (a : BitVec 6) (b : BitVec 6) : Sys2Proof.Laws.WordsFit.Statement (.umin q d a b) := oneWord (by simp only [enc, plc]; omega)
theorem Sys2Proof.Laws.WordsFit.umax (q : Guard) (d : BitVec 6) (a : BitVec 6) (b : BitVec 6) : Sys2Proof.Laws.WordsFit.Statement (.umax q d a b) := oneWord (by simp only [enc, plc]; omega)
theorem Sys2Proof.Laws.WordsFit.uminui (q : Guard) (d : BitVec 6) (a : BitVec 6) (b : BitVec 6) : Sys2Proof.Laws.WordsFit.Statement (.uminui q d a b) := oneWord (by simp only [enc, plc]; omega)
theorem Sys2Proof.Laws.WordsFit.umaxui (q : Guard) (d : BitVec 6) (a : BitVec 6) (b : BitVec 6) : Sys2Proof.Laws.WordsFit.Statement (.umaxui q d a b) := oneWord (by simp only [enc, plc]; omega)
theorem Sys2Proof.Laws.WordsFit.umul (q : Guard) (d : BitVec 6) (a : BitVec 6) (b : BitVec 6) : Sys2Proof.Laws.WordsFit.Statement (.umul q d a b) := oneWord (by simp only [enc, plc]; omega)
theorem Sys2Proof.Laws.WordsFit.umulhi (q : Guard) (d : BitVec 6) (a : BitVec 6) (b : BitVec 6) : Sys2Proof.Laws.WordsFit.Statement (.umulhi q d a b) := oneWord (by simp only [enc, plc]; omega)
theorem Sys2Proof.Laws.WordsFit.umulhiu (q : Guard) (d : BitVec 6) (a : BitVec 6) (b : BitVec 6) : Sys2Proof.Laws.WordsFit.Statement (.umulhiu q d a b) := oneWord (by simp only [enc, plc]; omega)
theorem Sys2Proof.Laws.WordsFit.ucmpEq (q : Guard) (d : BitVec 3) (a : BitVec 6) (b : BitVec 6) : Sys2Proof.Laws.WordsFit.Statement (.ucmpEq q d a b) := oneWord (by simp only [enc, plc]; omega)
theorem Sys2Proof.Laws.WordsFit.ucmpNe (q : Guard) (d : BitVec 3) (a : BitVec 6) (b : BitVec 6) : Sys2Proof.Laws.WordsFit.Statement (.ucmpNe q d a b) := oneWord (by simp only [enc, plc]; omega)
theorem Sys2Proof.Laws.WordsFit.ucmpLt (q : Guard) (d : BitVec 3) (a : BitVec 6) (b : BitVec 6) : Sys2Proof.Laws.WordsFit.Statement (.ucmpLt q d a b) := oneWord (by simp only [enc, plc]; omega)
theorem Sys2Proof.Laws.WordsFit.ucmpLe (q : Guard) (d : BitVec 3) (a : BitVec 6) (b : BitVec 6) : Sys2Proof.Laws.WordsFit.Statement (.ucmpLe q d a b) := oneWord (by simp only [enc, plc]; omega)
theorem Sys2Proof.Laws.WordsFit.ucmpGt (q : Guard) (d : BitVec 3) (a : BitVec 6) (b : BitVec 6) : Sys2Proof.Laws.WordsFit.Statement (.ucmpGt q d a b) := oneWord (by simp only [enc, plc]; omega)
theorem Sys2Proof.Laws.WordsFit.ucmpGe (q : Guard) (d : BitVec 3) (a : BitVec 6) (b : BitVec 6) : Sys2Proof.Laws.WordsFit.Statement (.ucmpGe q d a b) := oneWord (by simp only [enc, plc]; omega)
theorem Sys2Proof.Laws.WordsFit.ucmpLtui (q : Guard) (d : BitVec 3) (a : BitVec 6) (b : BitVec 6) : Sys2Proof.Laws.WordsFit.Statement (.ucmpLtui q d a b) := oneWord (by simp only [enc, plc]; omega)
theorem Sys2Proof.Laws.WordsFit.ucmpLeui (q : Guard) (d : BitVec 3) (a : BitVec 6) (b : BitVec 6) : Sys2Proof.Laws.WordsFit.Statement (.ucmpLeui q d a b) := oneWord (by simp only [enc, plc]; omega)
theorem Sys2Proof.Laws.WordsFit.ucmpGtui (q : Guard) (d : BitVec 3) (a : BitVec 6) (b : BitVec 6) : Sys2Proof.Laws.WordsFit.Statement (.ucmpGtui q d a b) := oneWord (by simp only [enc, plc]; omega)
theorem Sys2Proof.Laws.WordsFit.ucmpGeui (q : Guard) (d : BitVec 3) (a : BitVec 6) (b : BitVec 6) : Sys2Proof.Laws.WordsFit.Statement (.ucmpGeui q d a b) := oneWord (by simp only [enc, plc]; omega)
theorem Sys2Proof.Laws.WordsFit.qand (q : Guard) (d : BitVec 3) (a : BitVec 3) (b : BitVec 3) : Sys2Proof.Laws.WordsFit.Statement (.qand q d a b) := oneWord (by simp only [enc, plc]; omega)
theorem Sys2Proof.Laws.WordsFit.qor (q : Guard) (d : BitVec 3) (a : BitVec 3) (b : BitVec 3) : Sys2Proof.Laws.WordsFit.Statement (.qor q d a b) := oneWord (by simp only [enc, plc]; omega)
theorem Sys2Proof.Laws.WordsFit.qxor (q : Guard) (d : BitVec 3) (a : BitVec 3) (b : BitVec 3) : Sys2Proof.Laws.WordsFit.Statement (.qxor q d a b) := oneWord (by simp only [enc, plc]; omega)
theorem Sys2Proof.Laws.WordsFit.qandn (q : Guard) (d : BitVec 3) (a : BitVec 3) (b : BitVec 3) : Sys2Proof.Laws.WordsFit.Statement (.qandn q d a b) := oneWord (by simp only [enc, plc]; omega)
theorem Sys2Proof.Laws.WordsFit.qnot (q : Guard) (d : BitVec 3) (a : BitVec 3) : Sys2Proof.Laws.WordsFit.Statement (.qnot q d a) := oneWord (by simp only [enc, plc]; omega)
theorem Sys2Proof.Laws.WordsFit.uaddi (q : Guard) (d : BitVec 6) (a : BitVec 6) (i : BitVec 10) : Sys2Proof.Laws.WordsFit.Statement (.uaddi q d a i) := oneWord (by simp only [enc, plc]; omega)
theorem Sys2Proof.Laws.WordsFit.uandi (q : Guard) (d : BitVec 6) (a : BitVec 6) (i : BitVec 10) : Sys2Proof.Laws.WordsFit.Statement (.uandi q d a i) := oneWord (by simp only [enc, plc]; omega)
theorem Sys2Proof.Laws.WordsFit.uori (q : Guard) (d : BitVec 6) (a : BitVec 6) (i : BitVec 10) : Sys2Proof.Laws.WordsFit.Statement (.uori q d a i) := oneWord (by simp only [enc, plc]; omega)
theorem Sys2Proof.Laws.WordsFit.uxori (q : Guard) (d : BitVec 6) (a : BitVec 6) (i : BitVec 10) : Sys2Proof.Laws.WordsFit.Statement (.uxori q d a i) := oneWord (by simp only [enc, plc]; omega)
theorem Sys2Proof.Laws.WordsFit.ushli (q : Guard) (d : BitVec 6) (a : BitVec 6) (n : BitVec 6) : Sys2Proof.Laws.WordsFit.Statement (.ushli q d a n) := oneWord (by simp only [enc, plc]; omega)
theorem Sys2Proof.Laws.WordsFit.ushri (q : Guard) (d : BitVec 6) (a : BitVec 6) (n : BitVec 6) : Sys2Proof.Laws.WordsFit.Statement (.ushri q d a n) := oneWord (by simp only [enc, plc]; omega)
theorem Sys2Proof.Laws.WordsFit.usari (q : Guard) (d : BitVec 6) (a : BitVec 6) (n : BitVec 6) : Sys2Proof.Laws.WordsFit.Statement (.usari q d a n) := oneWord (by simp only [enc, plc]; omega)
theorem Sys2Proof.Laws.WordsFit.uroli (q : Guard) (d : BitVec 6) (a : BitVec 6) (n : BitVec 6) : Sys2Proof.Laws.WordsFit.Statement (.uroli q d a n) := oneWord (by simp only [enc, plc]; omega)
theorem Sys2Proof.Laws.WordsFit.umov16 (q : Guard) (d : BitVec 6) (i : BitVec 16) : Sys2Proof.Laws.WordsFit.Statement (.umov16 q d i) := oneWord (by simp only [enc, plc]; omega)
theorem Sys2Proof.Laws.WordsFit.umovk (q : Guard) (d : BitVec 6) (i : BitVec 16) : Sys2Proof.Laws.WordsFit.Statement (.umovk q d i) := oneWord (by simp only [enc, plc]; omega)
theorem Sys2Proof.Laws.WordsFit.umov (q : Guard) (d : BitVec 6) (a : BitVec 6) : Sys2Proof.Laws.WordsFit.Statement (.umov q d a) := oneWord (by simp only [enc, plc]; omega)
theorem Sys2Proof.Laws.WordsFit.readlane (q : Guard) (d : BitVec 6) (a : BitVec 6) (b : BitVec 6) : Sys2Proof.Laws.WordsFit.Statement (.readlane q d a b) := oneWord (by simp only [enc, plc]; omega)
theorem Sys2Proof.Laws.WordsFit.bcast (q : Guard) (d : BitVec 6) (a : BitVec 6) : Sys2Proof.Laws.WordsFit.Statement (.bcast q d a) := oneWord (by simp only [enc, plc]; omega)
theorem Sys2Proof.Laws.WordsFit.uld (sz : LdSize) (q : Guard) (d : Reg) (a : Reg) (ad : AddrWord) : Sys2Proof.Laws.WordsFit.Statement (.uld sz q d a ad) := twoWord (encUR_lt (by decide) (encLd_lt _))
theorem Sys2Proof.Laws.WordsFit.ust (sz : StSize) (q : Guard) (d : Reg) (a : Reg) (ad : AddrWord) : Sys2Proof.Laws.WordsFit.Statement (.ust sz q d a ad) := twoWord (encUR_lt (by decide) (encSt_lt _))
theorem Sys2Proof.Laws.WordsFit.uatomAdd (q : Guard) (d : Reg) (a : Reg) (ad : AddrWord) : Sys2Proof.Laws.WordsFit.Statement (.uatomAdd q d a ad) := twoWord (encUR_lt (by decide) (by decide))
theorem Sys2Proof.Laws.WordsFit.uatomMin (q : Guard) (d : Reg) (a : Reg) (ad : AddrWord) : Sys2Proof.Laws.WordsFit.Statement (.uatomMin q d a ad) := twoWord (encUR_lt (by decide) (by decide))
theorem Sys2Proof.Laws.WordsFit.uatomMax (q : Guard) (d : Reg) (a : Reg) (ad : AddrWord) : Sys2Proof.Laws.WordsFit.Statement (.uatomMax q d a ad) := twoWord (encUR_lt (by decide) (by decide))
theorem Sys2Proof.Laws.WordsFit.uatomMinui (q : Guard) (d : Reg) (a : Reg) (ad : AddrWord) : Sys2Proof.Laws.WordsFit.Statement (.uatomMinui q d a ad) := twoWord (encUR_lt (by decide) (by decide))
theorem Sys2Proof.Laws.WordsFit.uatomMaxui (q : Guard) (d : Reg) (a : Reg) (ad : AddrWord) : Sys2Proof.Laws.WordsFit.Statement (.uatomMaxui q d a ad) := twoWord (encUR_lt (by decide) (by decide))
theorem Sys2Proof.Laws.WordsFit.uatomAnd (q : Guard) (d : Reg) (a : Reg) (ad : AddrWord) : Sys2Proof.Laws.WordsFit.Statement (.uatomAnd q d a ad) := twoWord (encUR_lt (by decide) (by decide))
theorem Sys2Proof.Laws.WordsFit.uatomOr (q : Guard) (d : Reg) (a : Reg) (ad : AddrWord) : Sys2Proof.Laws.WordsFit.Statement (.uatomOr q d a ad) := twoWord (encUR_lt (by decide) (by decide))
theorem Sys2Proof.Laws.WordsFit.uatomXor (q : Guard) (d : Reg) (a : Reg) (ad : AddrWord) : Sys2Proof.Laws.WordsFit.Statement (.uatomXor q d a ad) := twoWord (encUR_lt (by decide) (by decide))
theorem Sys2Proof.Laws.WordsFit.uatomXchg (q : Guard) (d : Reg) (a : Reg) (ad : AddrWord) : Sys2Proof.Laws.WordsFit.Statement (.uatomXchg q d a ad) := twoWord (encUR_lt (by decide) (by decide))
theorem Sys2Proof.Laws.WordsFit.uatomCas (q : Guard) (d : Reg) (a : Reg) (b : Reg) (ad : AddrWord) : Sys2Proof.Laws.WordsFit.Statement (.uatomCas q d a b ad) := twoWord (encUR_lt (by decide) (by decide))
theorem Sys2Proof.Laws.WordsFit.uatomFaddF32 (q : Guard) (d : Reg) (a : Reg) (ad : AddrWord) : Sys2Proof.Laws.WordsFit.Statement (.uatomFaddF32 q d a ad) := twoWord (encUR_lt (by decide) (by decide))
theorem Sys2Proof.Laws.WordsFit.uatomFxadd (q : Guard) (d : Reg) (a : Reg) (ad : AddrWord) : Sys2Proof.Laws.WordsFit.Statement (.uatomFxadd q d a ad) := twoWord (encUR_lt (by decide) (by decide))
theorem Sys2Proof.Laws.WordsFit.ubra (q : Guard) (o : BitVec 22) : Sys2Proof.Laws.WordsFit.Statement (.ubra q o) := oneWord (by simp only [enc, plc]; omega)
theorem Sys2Proof.Laws.WordsFit.ucall (q : Guard) (d : BitVec 6) (o : BitVec 12) : Sys2Proof.Laws.WordsFit.Statement (.ucall q d o) := oneWord (by simp only [enc, plc]; omega)
theorem Sys2Proof.Laws.WordsFit.ucallx (q : Guard) (d : BitVec 6) (a : BitVec 6) : Sys2Proof.Laws.WordsFit.Statement (.ucallx q d a) := oneWord (by simp only [enc, plc]; omega)
theorem Sys2Proof.Laws.WordsFit.uret (q : Guard) (a : BitVec 6) : Sys2Proof.Laws.WordsFit.Statement (.uret q a) := oneWord (by simp only [enc, plc]; omega)
theorem Sys2Proof.Laws.WordsFit.uloop (q : Guard) (d : BitVec 6) (o : BitVec 12) : Sys2Proof.Laws.WordsFit.Statement (.uloop q d o) := oneWord (by simp only [enc, plc]; omega)
theorem Sys2Proof.Laws.WordsFit.spawn (q : Guard) (d : BitVec 6) (a : BitVec 6) : Sys2Proof.Laws.WordsFit.Statement (.spawn q d a) := oneWord (by simp only [enc, plc]; omega)
theorem Sys2Proof.Laws.WordsFit.sfence (q : Guard) (d : BitVec 6) (a : BitVec 6) (b : BitVec 6) : Sys2Proof.Laws.WordsFit.Statement (.sfence q d a b) := oneWord (by simp only [enc, plc]; omega)
theorem Sys2Proof.Laws.WordsFit.bjob (q : Guard) (d : BitVec 4) (a : BitVec 6) (b : BitVec 6) : Sys2Proof.Laws.WordsFit.Statement (.bjob q d a b) := oneWord (by simp only [enc, plc]; omega)
theorem Sys2Proof.Laws.WordsFit.fwait (q : Guard) (d : BitVec 6) (a : BitVec 4) : Sys2Proof.Laws.WordsFit.Statement (.fwait q d a) := oneWord (by simp only [enc, plc]; omega)
theorem Sys2Proof.Laws.WordsFit.ftest (q : Guard) (d : BitVec 3) (a : BitVec 4) : Sys2Proof.Laws.WordsFit.Statement (.ftest q d a) := oneWord (by simp only [enc, plc]; omega)
theorem Sys2Proof.Laws.WordsFit.fcancel (q : Guard) (a : BitVec 4) : Sys2Proof.Laws.WordsFit.Statement (.fcancel q a) := oneWord (by simp only [enc, plc]; omega)
theorem Sys2Proof.Laws.WordsFit.fmovHs (q : Guard) (d : BitVec 6) (a : BitVec 4) : Sys2Proof.Laws.WordsFit.Statement (.fmovHs q d a) := oneWord (by simp only [enc, plc]; omega)
theorem Sys2Proof.Laws.WordsFit.fmovSh (q : Guard) (d : BitVec 4) (a : BitVec 6) : Sys2Proof.Laws.WordsFit.Statement (.fmovSh q d a) := oneWord (by simp only [enc, plc]; omega)
theorem Sys2Proof.Laws.WordsFit.talloc (q : Guard) (d : BitVec 6) (a : BitVec 6) : Sys2Proof.Laws.WordsFit.Statement (.talloc q d a) := oneWord (by simp only [enc, plc]; omega)
theorem Sys2Proof.Laws.WordsFit.tfree (q : Guard) (a : BitVec 6) : Sys2Proof.Laws.WordsFit.Statement (.tfree q a) := oneWord (by simp only [enc, plc]; omega)
theorem Sys2Proof.Laws.WordsFit.tstat (q : Guard) (d : BitVec 6) (a : BitVec 6) : Sys2Proof.Laws.WordsFit.Statement (.tstat q d a) := oneWord (by simp only [enc, plc]; omega)
theorem Sys2Proof.Laws.WordsFit.barinit (q : Guard) (a : BitVec 6) (b : BitVec 6) : Sys2Proof.Laws.WordsFit.Statement (.barinit q a b) := oneWord (by simp only [enc, plc]; omega)
theorem Sys2Proof.Laws.WordsFit.barsave (q : Guard) (a : BitVec 6) : Sys2Proof.Laws.WordsFit.Statement (.barsave q a) := oneWord (by simp only [enc, plc]; omega)
theorem Sys2Proof.Laws.WordsFit.barload (q : Guard) (a : BitVec 6) : Sys2Proof.Laws.WordsFit.Statement (.barload q a) := oneWord (by simp only [enc, plc]; omega)
theorem Sys2Proof.Laws.WordsFit.mcst (q : Guard) (d : BitVec 4) (a : BitVec 6) (b : BitVec 6) : Sys2Proof.Laws.WordsFit.Statement (.mcst q d a b) := oneWord (by simp only [enc, plc]; omega)
theorem Sys2Proof.Laws.WordsFit.ridge (q : Guard) (d : BitVec 4) (a : BitVec 6) : Sys2Proof.Laws.WordsFit.Statement (.ridge q d a) := oneWord (by simp only [enc, plc]; omega)
theorem Sys2Proof.Laws.WordsFit.rstat (q : Guard) (d : BitVec 6) (a : BitVec 6) : Sys2Proof.Laws.WordsFit.Statement (.rstat q d a) := oneWord (by simp only [enc, plc]; omega)
theorem Sys2Proof.Laws.WordsFit.mbxrd (q : Guard) (d : BitVec 6) (a : BitVec 6) : Sys2Proof.Laws.WordsFit.Statement (.mbxrd q d a) := oneWord (by simp only [enc, plc]; omega)
theorem Sys2Proof.Laws.WordsFit.mbxwr (q : Guard) (a : BitVec 6) (b : BitVec 6) : Sys2Proof.Laws.WordsFit.Statement (.mbxwr q a b) := oneWord (by simp only [enc, plc]; omega)
theorem Sys2Proof.Laws.WordsFit.movsFromSys (q : Guard) (d : BitVec 6) (a : BitVec 6) : Sys2Proof.Laws.WordsFit.Statement (.movsFromSys q d a) := oneWord (by simp only [enc, plc]; omega)
theorem Sys2Proof.Laws.WordsFit.movsToSys (q : Guard) (d : BitVec 6) (a : BitVec 6) : Sys2Proof.Laws.WordsFit.Statement (.movsToSys q d a) := oneWord (by simp only [enc, plc]; omega)
theorem Sys2Proof.Laws.WordsFit.therm (q : Guard) (d : BitVec 6) (a : BitVec 6) : Sys2Proof.Laws.WordsFit.Statement (.therm q d a) := oneWord (by simp only [enc, plc]; omega)
theorem Sys2Proof.Laws.WordsFit.clock (q : Guard) (d : BitVec 6) : Sys2Proof.Laws.WordsFit.Statement (.clock q d) := oneWord (by simp only [enc, plc]; omega)
theorem Sys2Proof.Laws.WordsFit.accrd (q : Guard) (d : BitVec 6) (a : BitVec 6) : Sys2Proof.Laws.WordsFit.Statement (.accrd q d a) := oneWord (by simp only [enc, plc]; omega)
theorem Sys2Proof.Laws.WordsFit.accwr (q : Guard) (d : BitVec 6) (a : BitVec 6) : Sys2Proof.Laws.WordsFit.Statement (.accwr q d a) := oneWord (by simp only [enc, plc]; omega)
theorem Sys2Proof.Laws.WordsFit.accz (q : Guard) (a : BitVec 6) : Sys2Proof.Laws.WordsFit.Statement (.accz q a) := oneWord (by simp only [enc, plc]; omega)
theorem Sys2Proof.Laws.WordsFit.trap (q : Guard) (d : BitVec 6) (a : BitVec 6) (b : BitVec 6) : Sys2Proof.Laws.WordsFit.Statement (.trap q d a b) := oneWord (by simp only [enc, plc]; omega)
theorem Sys2Proof.Laws.WordsFit.eret (q : Guard) : Sys2Proof.Laws.WordsFit.Statement (.eret q) := oneWord (by simp only [enc, plc]; omega)
theorem Sys2Proof.Laws.WordsFit.eretAns (q : Guard) (a : BitVec 6) (b : BitVec 6) : Sys2Proof.Laws.WordsFit.Statement (.eretAns q a b) := oneWord (by simp only [enc, plc]; omega)
theorem Sys2Proof.Laws.WordsFit.tlbw (q : Guard) (a : BitVec 6) (b : BitVec 6) : Sys2Proof.Laws.WordsFit.Statement (.tlbw q a b) := oneWord (by simp only [enc, plc]; omega)
theorem Sys2Proof.Laws.WordsFit.tlbi (q : Guard) (a : BitVec 6) (b : BitVec 6) : Sys2Proof.Laws.WordsFit.Statement (.tlbi q a b) := oneWord (by simp only [enc, plc]; omega)
theorem Sys2Proof.Laws.WordsFit.mqpop (q : Guard) (d : BitVec 6) : Sys2Proof.Laws.WordsFit.Statement (.mqpop q d) := oneWord (by simp only [enc, plc]; omega)
theorem Sys2Proof.Laws.WordsFit.objmap (q : Guard) (d : BitVec 6) (a : BitVec 6) (b : BitVec 6) : Sys2Proof.Laws.WordsFit.Statement (.objmap q d a b) := oneWord (by simp only [enc, plc]; omega)
theorem Sys2Proof.Laws.WordsFit.objunmap (q : Guard) (d : BitVec 6) (a : BitVec 6) (b : BitVec 6) : Sys2Proof.Laws.WordsFit.Statement (.objunmap q d a b) := oneWord (by simp only [enc, plc]; omega)
theorem Sys2Proof.Laws.WordsFit.objstat (q : Guard) (d : BitVec 6) (a : BitVec 6) : Sys2Proof.Laws.WordsFit.Statement (.objstat q d a) := oneWord (by simp only [enc, plc]; omega)
theorem Sys2Proof.Laws.WordsFit.harvest (q : Guard) (d : BitVec 6) (a : BitVec 6) (b : BitVec 6) : Sys2Proof.Laws.WordsFit.Statement (.harvest q d a b) := oneWord (by simp only [enc, plc]; omega)
theorem Sys2Proof.Laws.WordsFit.preempt (q : Guard) (a : BitVec 6) (b : BitVec 6) : Sys2Proof.Laws.WordsFit.Statement (.preempt q a b) := oneWord (by simp only [enc, plc]; omega)
theorem Sys2Proof.Laws.WordsFit.resume (q : Guard) (a : BitVec 6) (b : BitVec 6) : Sys2Proof.Laws.WordsFit.Statement (.resume q a b) := oneWord (by simp only [enc, plc]; omega)
theorem Sys2Proof.Laws.WordsFit.halt (q : Guard) : Sys2Proof.Laws.WordsFit.Statement (.halt q) := oneWord (by simp only [enc, plc]; omega)
theorem Sys2Proof.Laws.WordsFit.mma (d : BitVec 6) (a : BitVec 6) (b : BitVec 6) : Sys2Proof.Laws.WordsFit.Statement (.mma d a b) := oneWord (by simp only [enc, plc]; omega)
theorem Sys2Proof.Laws.WordsFit.mzero (d : BitVec 6) : Sys2Proof.Laws.WordsFit.Statement (.mzero d) := oneWord (by simp only [enc, plc]; omega)
theorem Sys2Proof.Laws.WordsFit.mscl (d : BitVec 6) (a : BitVec 6) (y : BitVec 3) (x : BitVec 3) : Sys2Proof.Laws.WordsFit.Statement (.mscl d a y x) := oneWord (by simp only [enc, plc]; omega)
theorem Sys2Proof.Laws.WordsFit.mloop (n : BitVec 2) (a : BitVec 6) (b : BitVec 6) : Sys2Proof.Laws.WordsFit.Statement (.mloop n a b) := oneWord (by simp only [enc, plc]; omega)
theorem Sys2Proof.Laws.WordsFit.mjmp (o : BitVec 22) : Sys2Proof.Laws.WordsFit.Statement (.mjmp o) := oneWord (by simp only [enc, plc]; omega)
theorem Sys2Proof.Laws.WordsFit.mbarW (k : BitVec 3) (n : BitVec 10) : Sys2Proof.Laws.WordsFit.Statement (.mbarW k n) := oneWord (by simp only [enc, plc]; omega)
theorem Sys2Proof.Laws.WordsFit.mbarA (n : BitVec 10) : Sys2Proof.Laws.WordsFit.Statement (.mbarA n) := oneWord (by simp only [enc, plc]; omega)
theorem Sys2Proof.Laws.WordsFit.mbarADrain (n : BitVec 10) : Sys2Proof.Laws.WordsFit.Statement (.mbarADrain n) := oneWord (by simp only [enc, plc]; omega)
theorem Sys2Proof.Laws.WordsFit.mend : Sys2Proof.Laws.WordsFit.Statement (.mend) := oneWord (by simp only [enc]; omega)
theorem Sys2Proof.Laws.WordsFit.bcopy (q : Guard) (d : BitVec 6) (a : BitVec 6) (b : BitVec 6) : Sys2Proof.Laws.WordsFit.Statement (.bcopy q d a b) := oneWord (by simp only [enc, plc]; omega)
theorem Sys2Proof.Laws.WordsFit.bfetch (q : Guard) (d : BitVec 6) (a : BitVec 6) : Sys2Proof.Laws.WordsFit.Statement (.bfetch q d a) := oneWord (by simp only [enc, plc]; omega)
theorem Sys2Proof.Laws.WordsFit.btld (q : Guard) (d : BitVec 6) (a : BitVec 6) (b : BitVec 6) : Sys2Proof.Laws.WordsFit.Statement (.btld q d a b) := oneWord (by simp only [enc, plc]; omega)
theorem Sys2Proof.Laws.WordsFit.btst (q : Guard) (d : BitVec 6) (a : BitVec 6) (b : BitVec 6) : Sys2Proof.Laws.WordsFit.Statement (.btst q d a b) := oneWord (by simp only [enc, plc]; omega)
theorem Sys2Proof.Laws.WordsFit.bgath (q : Guard) (d : BitVec 6) (a : BitVec 6) (b : BitVec 6) : Sys2Proof.Laws.WordsFit.Statement (.bgath q d a b) := oneWord (by simp only [enc, plc]; omega)
theorem Sys2Proof.Laws.WordsFit.bscat (q : Guard) (d : BitVec 6) (a : BitVec 6) (b : BitVec 6) : Sys2Proof.Laws.WordsFit.Statement (.bscat q d a b) := oneWord (by simp only [enc, plc]; omega)
theorem Sys2Proof.Laws.WordsFit.bstep (q : Guard) (d : BitVec 6) (b : BitVec 6) : Sys2Proof.Laws.WordsFit.Statement (.bstep q d b) := oneWord (by simp only [enc, plc]; omega)
theorem Sys2Proof.Laws.WordsFit.block (q : Guard) (d : BitVec 6) (a : BitVec 6) (b : BitVec 6) : Sys2Proof.Laws.WordsFit.Statement (.block q d a b) := oneWord (by simp only [enc, plc]; omega)
theorem Sys2Proof.Laws.WordsFit.bunlk (q : Guard) (a : BitVec 6) : Sys2Proof.Laws.WordsFit.Statement (.bunlk q a) := oneWord (by simp only [enc, plc]; omega)
theorem Sys2Proof.Laws.WordsFit.btset (q : Guard) (d : BitVec 6) (a : BitVec 6) : Sys2Proof.Laws.WordsFit.Statement (.btset q d a) := oneWord (by simp only [enc, plc]; omega)
theorem Sys2Proof.Laws.WordsFit.baccd (q : Guard) (d : BitVec 6) (a : BitVec 6) (b : BitVec 6) : Sys2Proof.Laws.WordsFit.Statement (.baccd q d a b) := oneWord (by simp only [enc, plc]; omega)
theorem Sys2Proof.Laws.WordsFit.brem (q : Guard) (d : BitVec 6) (a : BitVec 6) (b : BitVec 6) : Sys2Proof.Laws.WordsFit.Statement (.brem q d a b) := oneWord (by simp only [enc, plc]; omega)
theorem Sys2Proof.Laws.WordsFit.bdone (q : Guard) (a : BitVec 6) (b : BitVec 6) : Sys2Proof.Laws.WordsFit.Statement (.bdone q a b) := oneWord (by simp only [enc, plc]; omega)
theorem Sys2Proof.Laws.WordsFit.surplusPhaseComplete (core : Nat) (blk : Nat) (bar : Nat) : Sys2Proof.Laws.WordsFit.Statement (.surplusPhaseComplete core blk bar) := noWord
theorem Sys2Proof.Laws.WordsFit.courseDemotion (core : Nat) (slot : Nat) : Sys2Proof.Laws.WordsFit.Statement (.courseDemotion core slot) := noWord
theorem Sys2Proof.Laws.WordsFit.coursePromotion (core : Nat) (slot : Nat) : Sys2Proof.Laws.WordsFit.Statement (.coursePromotion core slot) := noWord
theorem Sys2Proof.Laws.WordsFit.activeSetTimesliceExpiry (core : Nat) (slot : Nat) : Sys2Proof.Laws.WordsFit.Statement (.activeSetTimesliceExpiry core slot) := noWord
theorem Sys2Proof.Laws.WordsFit.jobParse (bay : Nat) (lvl : Nat) : Sys2Proof.Laws.WordsFit.Statement (.jobParse bay lvl) := noWord
theorem Sys2Proof.Laws.WordsFit.placementStep (bay : Nat) : Sys2Proof.Laws.WordsFit.Statement (.placementStep bay) := noWord
theorem Sys2Proof.Laws.WordsFit.placementStarvationTimeout (bay : Nat) (lvl : Nat) : Sys2Proof.Laws.WordsFit.Statement (.placementStarvationTimeout bay lvl) := noWord
theorem Sys2Proof.Laws.WordsFit.blockStart (core : Nat) (blk : Nat) : Sys2Proof.Laws.WordsFit.Statement (.blockStart core blk) := noWord
theorem Sys2Proof.Laws.WordsFit.fenceRecordRead (bay : Nat) (lvl : Nat) : Sys2Proof.Laws.WordsFit.Statement (.fenceRecordRead bay lvl) := noWord
theorem Sys2Proof.Laws.WordsFit.fenceCounterPoll (bay : Nat) (lvl : Nat) (cond : Nat) : Sys2Proof.Laws.WordsFit.Statement (.fenceCounterPoll bay lvl cond) := noWord
theorem Sys2Proof.Laws.WordsFit.blockRetirement (core : Nat) (blk : Nat) : Sys2Proof.Laws.WordsFit.Statement (.blockRetirement core blk) := noWord
theorem Sys2Proof.Laws.WordsFit.doneAddRecord (bay : Nat) (acc : Nat) : Sys2Proof.Laws.WordsFit.Statement (.doneAddRecord bay acc) := noWord
theorem Sys2Proof.Laws.WordsFit.noticeQueueDrain (bay : Nat) : Sys2Proof.Laws.WordsFit.Statement (.noticeQueueDrain bay) := noWord
theorem Sys2Proof.Laws.WordsFit.coreMessageAppend (core : Nat) : Sys2Proof.Laws.WordsFit.Statement (.coreMessageAppend core) := noWord
theorem Sys2Proof.Laws.WordsFit.hostMailboxWrite (bay : Nat) (w : HostWrite) : Sys2Proof.Laws.WordsFit.Statement (.hostMailboxWrite bay w) := noWord
theorem Sys2Proof.Laws.WordsFit.registerWriteOther (w : HostWrite) : Sys2Proof.Laws.WordsFit.Statement (.registerWriteOther w) := noWord
theorem Sys2Proof.Laws.WordsFit.hbmEarlyRefresh (stack : Nat) (bank : Nat) : Sys2Proof.Laws.WordsFit.Statement (.hbmEarlyRefresh stack bank) := noWord
theorem Sys2Proof.Laws.WordsFit.copyHit (acc : Nat) : Sys2Proof.Laws.WordsFit.Statement (.copyHit acc) := noWord
theorem Sys2Proof.Laws.WordsFit.homeRead (acc : Nat) : Sys2Proof.Laws.WordsFit.Statement (.homeRead acc) := noWord
theorem Sys2Proof.Laws.WordsFit.loadReply (acc : Nat) : Sys2Proof.Laws.WordsFit.Statement (.loadReply acc) := noWord
theorem Sys2Proof.Laws.WordsFit.homeWrite (acc : Nat) : Sys2Proof.Laws.WordsFit.Statement (.homeWrite acc) := noWord
theorem Sys2Proof.Laws.WordsFit.completionRecord (acc : Nat) : Sys2Proof.Laws.WordsFit.Statement (.completionRecord acc) := noWord
theorem Sys2Proof.Laws.WordsFit.fencePass (core : Nat) (slot : Nat) (lane : Nat) : Sys2Proof.Laws.WordsFit.Statement (.fencePass core slot lane) := noWord
theorem Sys2Proof.Laws.WordsFit.copyExpiry (core : Nat) (gran : Nat) : Sys2Proof.Laws.WordsFit.Statement (.copyExpiry core gran) := noWord
theorem Sys2Proof.Laws.WordsFit.l1CopySweep (core : Nat) : Sys2Proof.Laws.WordsFit.Statement (.l1CopySweep core) := noWord
theorem Sys2Proof.Laws.WordsFit.publication (pkg : Nat) (group : Nat) (sector : Nat) : Sys2Proof.Laws.WordsFit.Statement (.publication pkg group sector) := noWord
theorem Sys2Proof.Laws.WordsFit.cxlWriteCompletion (acc : Nat) : Sys2Proof.Laws.WordsFit.Statement (.cxlWriteCompletion acc) := noWord
theorem Sys2Proof.Laws.WordsFit.cxlSnoop (pa : Nat) (data : List Byte) : Sys2Proof.Laws.WordsFit.Statement (.cxlSnoop pa data) := noWord
theorem Sys2Proof.Laws.WordsFit.clockSkewCheck : Sys2Proof.Laws.WordsFit.Statement (.clockSkewCheck) := noWord
theorem Sys2Proof.Laws.WordsFit.columnTempRefresh (readings : List Sensors) : Sys2Proof.Laws.WordsFit.Statement (.columnTempRefresh readings) := noWord
theorem Sys2Proof.Laws.WordsFit.tripRecovery : Sys2Proof.Laws.WordsFit.Statement (.tripRecovery) := noWord
theorem Sys2Proof.Laws.WordsFit.powerInterval (mw : Nat) : Sys2Proof.Laws.WordsFit.Statement (.powerInterval mw) := noWord
theorem Sys2Proof.Laws.WordsFit.operatingPointChange (island : Nat) (mv : Nat) (mhz : Nat) : Sys2Proof.Laws.WordsFit.Statement (.operatingPointChange island mv mhz) := noWord
theorem Sys2Proof.Laws.WordsFit.operatingPointSettle (island : Nat) : Sys2Proof.Laws.WordsFit.Statement (.operatingPointSettle island) := noWord
theorem Sys2Proof.Laws.WordsFit.tlbiComplete (core : Nat) (slot : Nat) : Sys2Proof.Laws.WordsFit.Statement (.tlbiComplete core slot) := noWord
theorem Sys2Proof.Laws.WordsFit.sideLogTimeout (acc : Nat) : Sys2Proof.Laws.WordsFit.Statement (.sideLogTimeout acc) := noWord
theorem Sys2Proof.Laws.WordsFit.objectRequestResend (core : Nat) (name : Nat) : Sys2Proof.Laws.WordsFit.Statement (.objectRequestResend core name) := noWord
theorem Sys2Proof.Laws.WordsFit.objectParkRetry (acc : Nat) : Sys2Proof.Laws.WordsFit.Statement (.objectParkRetry acc) := noWord
theorem Sys2Proof.Laws.WordsFit.objunmapDrainReturn (core : Nat) (slot : Nat) : Sys2Proof.Laws.WordsFit.Statement (.objunmapDrainReturn core slot) := noWord
theorem Sys2Proof.Laws.WordsFit.objunmapVacateStep (core : Nat) (slot : Nat) : Sys2Proof.Laws.WordsFit.Statement (.objunmapVacateStep core slot) := noWord
theorem Sys2Proof.Laws.WordsFit.battenJobStart (core : Nat) (proc : Nat) : Sys2Proof.Laws.WordsFit.Statement (.battenJobStart core proc) := noWord
theorem Sys2Proof.Laws.WordsFit.transferPerformed (core : Nat) (proc : Nat) (xfer : Nat) : Sys2Proof.Laws.WordsFit.Statement (.transferPerformed core proc xfer) := noWord
theorem Sys2Proof.Laws.WordsFit.tileFillComplete (core : Nat) (proc : Nat) (xfer : Nat) : Sys2Proof.Laws.WordsFit.Statement (.tileFillComplete core proc xfer) := noWord
theorem Sys2Proof.Laws.WordsFit.tileDrainComplete (core : Nat) (proc : Nat) (xfer : Nat) : Sys2Proof.Laws.WordsFit.Statement (.tileDrainComplete core proc xfer) := noWord
theorem Sys2Proof.Laws.WordsFit.tileIntegrityReplay (core : Nat) (proc : Nat) (xfer : Nat) (acc : Nat) : Sys2Proof.Laws.WordsFit.Statement (.tileIntegrityReplay core proc xfer acc) := noWord
theorem Sys2Proof.Laws.WordsFit.mmaUpdate (core : Nat) (blk : Nat) (op : Nat) (row : Nat) (col : Nat) : Sys2Proof.Laws.WordsFit.Statement (.mmaUpdate core blk op row col) := noWord
theorem Sys2Proof.Laws.WordsFit.mbarWRelease (core : Nat) (blk : Nat) : Sys2Proof.Laws.WordsFit.Statement (.mbarWRelease core blk) := noWord
theorem Sys2Proof.Laws.WordsFit.mbarAArrival (core : Nat) (blk : Nat) : Sys2Proof.Laws.WordsFit.Statement (.mbarAArrival core blk) := noWord
theorem Sys2Proof.Laws.WordsFit.mendStep (core : Nat) (blk : Nat) : Sys2Proof.Laws.WordsFit.Statement (.mendStep core blk) := noWord
theorem Sys2Proof.Laws.WordsFit.barsaveHeldAdds (core : Nat) (blk : Nat) : Sys2Proof.Laws.WordsFit.Statement (.barsaveHeldAdds core blk) := noWord
theorem Sys2Proof.Laws.WordsFit.sequencerStop (core : Nat) (blk : Nat) : Sys2Proof.Laws.WordsFit.Statement (.sequencerStop core blk) := noWord
theorem Sys2Proof.Laws.WordsFit.yieldTrapEntry (core : Nat) (slot : Nat) : Sys2Proof.Laws.WordsFit.Statement (.yieldTrapEntry core slot) := noWord
theorem Sys2Proof.Laws.WordsFit.swapOut (core : Nat) (blk : Nat) : Sys2Proof.Laws.WordsFit.Statement (.swapOut core blk) := noWord
theorem Sys2Proof.Laws.WordsFit.faultRecordDelivery (core : Nat) : Sys2Proof.Laws.WordsFit.Statement (.faultRecordDelivery core) := noWord
theorem Sys2Proof.Laws.WordsFit.supervisorStallTimeout (bay : Nat) : Sys2Proof.Laws.WordsFit.Statement (.supervisorStallTimeout bay) := noWord
theorem Sys2Proof.Laws.WordsFit.fabricIngressRequest (pkt : FabReq) : Sys2Proof.Laws.WordsFit.Statement (.fabricIngressRequest pkt) := noWord
theorem Sys2Proof.Laws.WordsFit.remoteReply (rep : FabReply) : Sys2Proof.Laws.WordsFit.Statement (.remoteReply rep) := noWord
theorem Sys2Proof.Laws.WordsFit.remoteTimeout (tag : Nat) : Sys2Proof.Laws.WordsFit.Statement (.remoteTimeout tag) := noWord
theorem Sys2Proof.Laws.WordsFit.packetReplay (tag : Nat) : Sys2Proof.Laws.WordsFit.Statement (.packetReplay tag) := noWord
theorem Sys2Proof.Laws.WordsFit.incarnationAnnouncement (pkg : Nat) (bay : Nat) (inc : BitVec 16) : Sys2Proof.Laws.WordsFit.Statement (.incarnationAnnouncement pkg bay inc) := noWord
theorem Sys2Proof.Laws.WordsFit.planeDead (k : Nat) : Sys2Proof.Laws.WordsFit.Statement (.planeDead k) := noWord
theorem Sys2Proof.Laws.WordsFit.planeReroute (k : Nat) : Sys2Proof.Laws.WordsFit.Statement (.planeReroute k) := noWord
theorem Sys2Proof.Laws.WordsFit.mcstResolve (tag : Nat) : Sys2Proof.Laws.WordsFit.Statement (.mcstResolve tag) := noWord
theorem Sys2Proof.Laws.WordsFit.mcstMemberTimeout (tag : Nat) (peer : Nat) : Sys2Proof.Laws.WordsFit.Statement (.mcstMemberTimeout tag peer) := noWord
theorem Sys2Proof.Laws.WordsFit.ridgeVoteStart (group : Nat) : Sys2Proof.Laws.WordsFit.Statement (.ridgeVoteStart group) := noWord
theorem Sys2Proof.Laws.WordsFit.ridgeCount (pkg : Sender) (group : Nat) (n : Nat) : Sys2Proof.Laws.WordsFit.Statement (.ridgeCount pkg group n) := noWord
theorem Sys2Proof.Laws.WordsFit.ridgeStageTimeout (pkg : Nat) (group : Nat) : Sys2Proof.Laws.WordsFit.Statement (.ridgeStageTimeout pkg group) := noWord
theorem Sys2Proof.Laws.WordsFit.ridgeAnswer (group : Nat) (peer : Sender) (ans : RidgeAns) : Sys2Proof.Laws.WordsFit.Statement (.ridgeAnswer group peer ans) := noWord
theorem Sys2Proof.Laws.WordsFit.ridgeAnswerTimeout (group : Nat) (peer : Nat) : Sys2Proof.Laws.WordsFit.Statement (.ridgeAnswerTimeout group peer) := noWord
theorem Sys2Proof.Laws.WordsFit.ridgePublishMsg (pkg : Sender) (group : Nat) (tp : Nat) : Sys2Proof.Laws.WordsFit.Statement (.ridgePublishMsg pkg group tp) := noWord
theorem Sys2Proof.Laws.WordsFit.ridgeAbortMsg (pkg : Sender) (group : Nat) : Sys2Proof.Laws.WordsFit.Statement (.ridgeAbortMsg pkg group) := noWord
theorem Sys2Proof.Laws.WordsFit.ridgeAbortResend (group : Nat) : Sys2Proof.Laws.WordsFit.Statement (.ridgeAbortResend group) := noWord
theorem Sys2Proof.Laws.WordsFit.ridgeAck (group : Nat) (peer : Sender) : Sys2Proof.Laws.WordsFit.Statement (.ridgeAck group peer) := noWord
theorem Sys2Proof.Laws.WordsFit.ridgePublishTimeout (group : Nat) : Sys2Proof.Laws.WordsFit.Statement (.ridgePublishTimeout group) := noWord
theorem Sys2Proof.Laws.WordsFit.hostHdmAccess (bay : Nat) (pa : Nat) (op : HdmOp) : Sys2Proof.Laws.WordsFit.Statement (.hostHdmAccess bay pa op) := noWord
theorem Sys2Proof.Laws.WordsFit.cxlLinkFailure (port : Port) : Sys2Proof.Laws.WordsFit.Statement (.cxlLinkFailure port) := noWord
theorem Sys2Proof.Laws.WordsFit.cxlRequestTimeout (acc : Nat) : Sys2Proof.Laws.WordsFit.Statement (.cxlRequestTimeout acc) := noWord
theorem Sys2Proof.Laws.WordsFit.cxlLinkUp (port : Port) : Sys2Proof.Laws.WordsFit.Statement (.cxlLinkUp port) := noWord
theorem Sys2Proof.Laws.WordsFit.pcieLinkDown : Sys2Proof.Laws.WordsFit.Statement (.pcieLinkDown) := noWord
theorem Sys2Proof.Laws.WordsFit.pageRequestAnswer (bay : Nat) (data : W512) : Sys2Proof.Laws.WordsFit.Statement (.pageRequestAnswer bay data) := noWord
theorem Sys2Proof.Laws.WordsFit.pageRequestTimeout (bay : Nat) (rid : Nat) : Sys2Proof.Laws.WordsFit.Statement (.pageRequestTimeout bay rid) := noWord
theorem Sys2Proof.Laws.WordsFit.soffitSplit (bay : Nat) (w : Nat) : Sys2Proof.Laws.WordsFit.Statement (.soffitSplit bay w) := noWord
theorem Sys2Proof.Laws.WordsFit.objTables (bay : Nat) : Sys2Proof.Laws.WordsFit.Statement (.objTables bay) := noWord
theorem Sys2Proof.Laws.WordsFit.layoutBase (bay : Nat) (base : W64) (slots : Nat) : Sys2Proof.Laws.WordsFit.Statement (.layoutBase bay base slots) := noWord
theorem Sys2Proof.Laws.WordsFit.exportSet (bay : Nat) (idx : Nat) (entry : BitVec 256) : Sys2Proof.Laws.WordsFit.Statement (.exportSet bay idx entry) := noWord
theorem Sys2Proof.Laws.WordsFit.mcgSet (bay : Nat) (group : Nat) (members : BitVec 512) : Sys2Proof.Laws.WordsFit.Statement (.mcgSet bay group members) := noWord
theorem Sys2Proof.Laws.WordsFit.eaveSet (bay : Nat) (die : Nat) (e : Nat) : Sys2Proof.Laws.WordsFit.Statement (.eaveSet bay die e) := noWord
theorem Sys2Proof.Laws.WordsFit.walkerSet (bay : Nat) (pc : W64) (root : W64) : Sys2Proof.Laws.WordsFit.Statement (.walkerSet bay pc root) := noWord
theorem Sys2Proof.Laws.WordsFit.objRevoke (bay : Nat) (name : W128) (op : Nat) : Sys2Proof.Laws.WordsFit.Statement (.objRevoke bay name op) := noWord
theorem Sys2Proof.Laws.WordsFit.pageRequest (bay : Nat) (vaddr : W64) (paddr : W64) : Sys2Proof.Laws.WordsFit.Statement (.pageRequest bay vaddr paddr) := noWord
theorem Sys2Proof.Laws.WordsFit.pageRelease (bay : Nat) (paddr : W64) : Sys2Proof.Laws.WordsFit.Statement (.pageRelease bay paddr) := noWord
theorem Sys2Proof.Laws.WordsFit.baySet (cmd : W512) : Sys2Proof.Laws.WordsFit.Statement (.baySet cmd) := noWord
theorem Sys2Proof.Laws.WordsFit.attest (cmd : W512) : Sys2Proof.Laws.WordsFit.Statement (.attest cmd) := noWord
theorem Sys2Proof.Laws.WordsFit.bootSet (cmd : W512) (img : BootImage) : Sys2Proof.Laws.WordsFit.Statement (.bootSet cmd img) := noWord
theorem Sys2Proof.Laws.WordsFit.perstRelease : Sys2Proof.Laws.WordsFit.Statement (.perstRelease) := noWord
theorem Sys2Proof.Laws.WordsFit.rootStageComplete (t0 : Nat) : Sys2Proof.Laws.WordsFit.Statement (.rootStageComplete t0) := noWord
theorem Sys2Proof.Laws.WordsFit.serviceStageComplete : Sys2Proof.Laws.WordsFit.Statement (.serviceStageComplete) := noWord
theorem Sys2Proof.Laws.WordsFit.serviceFirmwareRestart : Sys2Proof.Laws.WordsFit.Statement (.serviceFirmwareRestart) := noWord
theorem Sys2Proof.Laws.WordsFit.illegalWord (code : Nat) (reason : Nat) (pos : Nat) (word : W32) : Sys2Proof.Laws.WordsFit.Statement (.illegalWord code reason pos word) := noWord
theorem Sys2Proof.Laws.WordsFit.perstAssert : Sys2Proof.Laws.WordsFit.Statement (.perstAssert) := noWord
theorem Sys2Proof.Laws.WordsFit.mcstAck (tag : Nat) (res : List (Nat × McstRes)) : Sys2Proof.Laws.WordsFit.Statement (.mcstAck tag res) := noWord
end

