-- ==== Sys2Proof/Tests/Slice0.lean ====
section
/-! SUPPORT. The model's own tests: words written out from the encodings of spec/07 and the entries' layouts, refused terms, the spec's worked values,
and for every statement a state and operands that meet its hypotheses. -/

set_option Elab.async false

namespace Sys2Proof.Tests

open Sys2Proof.Machine

/-! ## Decoding: words from the match values and field places of the opcode table, and from R142 and R154, R155 for two-word formats -/

/-- Each word, of that many bits, decodes to the instruction beside it. -/
abbrev DecodesTo (l : List (Nat × Nat × Instr)) : Prop := ∀ e ∈ l, decodeTableWord e.1 e.2.1 = some e.2.2

/-- L-set major 0x00. -/
theorem test_decode_l00 : DecodesTo [
    (32, 0x02CAB160, .add 5 37 22 11),
    (32, 0x02CAB161, .sub 5 37 22 11),
    (32, 0x02CAB162, .and 5 37 22 11),
    (32, 0x02CAB163, .or 5 37 22 11),
    (32, 0x02CAB164, .xor 5 37 22 11),
    (32, 0x02CAB165, .andn 5 37 22 11),
    (32, 0x02CAB166, .shl 5 37 22 11),
    (32, 0x02CAB167, .shr 5 37 22 11),
    (32, 0x02CAB168, .sar 5 37 22 11),
    (32, 0x02CAB169, .min 5 37 22 11),
    (32, 0x02CAB16A, .max 5 37 22 11),
    (32, 0x02CAB16B, .minui 5 37 22 11),
    (32, 0x02CAB16C, .maxui 5 37 22 11),
    (32, 0x02CAB00D, .abs 5 37 22),
    (32, 0x02CAB00E, .neg 5 37 22)] := by decide +kernel

/-- L-set major 0x01. -/
theorem test_decode_l01 : DecodesTo [
    (32, 0x06CAB160, .mul 5 37 22 11),
    (32, 0x06CAB161, .mulhi 5 37 22 11),
    (32, 0x06CAB162, .mulhiu 5 37 22 11),
    (32, 0x06CAB163, .mad 5 37 22 11),
    (32, 0x06CAB004, .popc 5 37 22),
    (32, 0x06CAB005, .clz 5 37 22),
    (32, 0x06CAB006, .brev 5 37 22),
    (32, 0x06CAB167, .bfx 5 37 22 11),
    (32, 0x06CAB168, .bfi 5 37 22 11)] := by decide +kernel

/-- L-set major 0x02. -/
theorem test_decode_l02 : DecodesTo [
    (32, 0x0A86B160, .icmpEq 5 3 22 11),
    (32, 0x0A86B161, .icmpNe 5 3 22 11),
    (32, 0x0A86B162, .icmpLt 5 3 22 11),
    (32, 0x0A86B163, .icmpLe 5 3 22 11),
    (32, 0x0A86B164, .icmpGt 5 3 22 11),
    (32, 0x0A86B165, .icmpGe 5 3 22 11),
    (32, 0x0A86B166, .icmpLtui 5 3 22 11),
    (32, 0x0A86B167, .icmpLeui 5 3 22 11),
    (32, 0x0A86B168, .icmpGtui 5 3 22 11),
    (32, 0x0A86B169, .icmpGeui 5 3 22 11),
    (32, 0x0A8630B0, .pand 5 3 6 5),
    (32, 0x0A8630B1, .por 5 3 6 5),
    (32, 0x0A8630B2, .pxor 5 3 6 5),
    (32, 0x0A8630B3, .pandn 5 3 6 5),
    (32, 0x0A863014, .pnot 5 3 6),
    (32, 0x0ACA3015, .p2v 5 37 6),
    (32, 0x0A86B016, .v2p 5 3 22)] := by decide +kernel

/-- L-set major 0x03. -/
theorem test_decode_l03 : DecodesTo [
    (32, 0x0ECAB25A, .addi 5 37 22 602)] := by decide +kernel

/-- L-set major 0x04. -/
theorem test_decode_l04 : DecodesTo [
    (32, 0x12CAB25A, .andi 5 37 22 602)] := by decide +kernel

/-- L-set major 0x05. -/
theorem test_decode_l05 : DecodesTo [
    (32, 0x16CAB25A, .ori 5 37 22 602)] := by decide +kernel

/-- L-set major 0x06. -/
theorem test_decode_l06 : DecodesTo [
    (32, 0x1ACAB25A, .xori 5 37 22 602)] := by decide +kernel

/-- L-set major 0x07. -/
theorem test_decode_l07 : DecodesTo [
    (32, 0x1ECAB01A, .shli 5 37 22 26),
    (32, 0x1ECAB21A, .shri 5 37 22 26),
    (32, 0x1ECAB41A, .sari 5 37 22 26),
    (32, 0x1ECAB61A, .roli 5 37 22 26)] := by decide +kernel

/-- L-set major 0x08. -/
theorem test_decode_l08 : DecodesTo [
    (32, 0x22CA5A5A, .mov16 5 37 23130),
    (32, 0x22CB5A5A, .mov16Hi 5 37 23130)] := by decide +kernel

/-- L-set major 0x09. -/
theorem test_decode_l09 : DecodesTo [
    (32, 0x26CCB140, .add64 5 38 22 10),
    (32, 0x26CCB141, .sub64 5 38 22 10),
    (32, 0x26CCB142, .padd 5 38 22 10),
    (32, 0x26CCB143, .shl64 5 38 22 10),
    (32, 0x26CCB144, .shr64 5 38 22 10),
    (32, 0x26CCB145, .sar64 5 38 22 10),
    (32, 0x26CCB146, .mulw 5 38 22 10),
    (32, 0x26CCB147, .mulwui 5 38 22 10),
    (32, 0x26CCB008, .mov64 5 38 22)] := by decide +kernel

/-- L-set major 0x0A. -/
theorem test_decode_l0a : DecodesTo [
    (32, 0x2ACAB000, .mov 5 37 22),
    (32, 0x2ACAB16A, .sel 5 37 22 11 2),
    (32, 0x2ACAB161, .pick 5 37 22 11),
    (32, 0x2ACAB162, .rotu 5 37 22 11),
    (32, 0x2ACAB163, .rotd 5 37 22 11),
    (32, 0x2ACAB164, .bfly 5 37 22 11),
    (32, 0x2A863005, .lany 5 3 6),
    (32, 0x2A863006, .lall 5 3 6),
    (32, 0x2ACA3007, .lmask 5 37 6),
    (32, 0x2ACAB010, .combAdd 5 37 22),
    (32, 0x2ACAB011, .combMin 5 37 22),
    (32, 0x2ACAB012, .combMax 5 37 22),
    (32, 0x2ACAB013, .combMinui 5 37 22),
    (32, 0x2ACAB014, .combMaxui 5 37 22),
    (32, 0x2ACAB015, .combAnd 5 37 22),
    (32, 0x2ACAB016, .combOr 5 37 22),
    (32, 0x2ACAB017, .combXor 5 37 22)] := by decide +kernel

/-- L-set major 0x0B. -/
theorem test_decode_l0b : DecodesTo [
    (32, 0x2ECAB160, .fadd 5 37 22 11),
    (32, 0x2ECAB161, .fsub 5 37 22 11),
    (32, 0x2ECAB162, .fmul 5 37 22 11),
    (32, 0x2ECAB163, .ffma 5 37 22 11),
    (32, 0x2ECAB164, .fmin 5 37 22 11),
    (32, 0x2ECAB165, .fmax 5 37 22 11),
    (32, 0x2ECAB006, .fabs 5 37 22),
    (32, 0x2ECAB007, .fneg 5 37 22),
    (32, 0x2ECAB168, .fcpys 5 37 22 11)] := by decide +kernel

/-- L-set major 0x0C. -/
theorem test_decode_l0c : DecodesTo [
    (32, 0x3286B160, .fcmpEq 5 3 22 11),
    (32, 0x3286B161, .fcmpNe 5 3 22 11),
    (32, 0x3286B162, .fcmpLt 5 3 22 11),
    (32, 0x3286B163, .fcmpLe 5 3 22 11),
    (32, 0x3286B164, .fcmpGt 5 3 22 11),
    (32, 0x3286B165, .fcmpGe 5 3 22 11),
    (32, 0x3286B166, .fcmpUnord 5 3 22 11),
    (32, 0x3286B167, .fcmpOrd 5 3 22 11)] := by decide +kernel

/-- L-set major 0x0D. -/
theorem test_decode_l0d : DecodesTo [
    (32, 0x36CAB160, .addF16x2 5 37 22 11),
    (32, 0x36CAB161, .subF16x2 5 37 22 11),
    (32, 0x36CAB162, .mulF16x2 5 37 22 11),
    (32, 0x36CAB163, .fmaF16x2 5 37 22 11),
    (32, 0x36CAB164, .minF16x2 5 37 22 11),
    (32, 0x36CAB165, .maxF16x2 5 37 22 11),
    (32, 0x36CAB170, .addBf16x2 5 37 22 11),
    (32, 0x36CAB171, .subBf16x2 5 37 22 11),
    (32, 0x36CAB172, .mulBf16x2 5 37 22 11),
    (32, 0x36CAB173, .fmaBf16x2 5 37 22 11),
    (32, 0x36CAB174, .minBf16x2 5 37 22 11),
    (32, 0x36CAB175, .maxBf16x2 5 37 22 11)] := by decide +kernel

/-- L-set major 0x0E. -/
theorem test_decode_l0e : DecodesTo [
    (32, 0x3ACAB500, .rcp 5 37 22 10),
    (32, 0x3ACAB501, .rsq 5 37 22 10),
    (32, 0x3ACAB502, .sqrt 5 37 22 10),
    (32, 0x3ACAB503, .exp2 5 37 22 10),
    (32, 0x3ACAB504, .log2 5 37 22 10),
    (32, 0x3ACAB505, .sin 5 37 22 10),
    (32, 0x3ACAB506, .cos 5 37 22 10),
    (32, 0x3ACAB507, .tanh 5 37 22 10)] := by decide +kernel

/-- L-set major 0x0F. -/
theorem test_decode_l0f : DecodesTo [
    (32, 0x3ECAB000, .cvtF32F16 5 37 22 0),
    (32, 0x3ECAB001, .cvtF32Bf16 5 37 22 0),
    (32, 0x3ECAB162, .cvtF16F32 5 37 22 11),
    (32, 0x3ECAB163, .cvtBf16F32 5 37 22 11),
    (32, 0x3ECAB004, .cvtS32F32 5 37 22),
    (32, 0x3ECAB005, .cvtUi32F32 5 37 22),
    (32, 0x3ECAB006, .cvtF32S32 5 37 22),
    (32, 0x3ECAB007, .cvtF32Ui32 5 37 22),
    (32, 0x3EC8A008, .cvtFxF32 5 36 20),
    (32, 0x3EC8A009, .cvtF32Fx 5 36 20),
    (32, 0x3ECAB16A, .cvtF16F32Sr 5 37 22 11),
    (32, 0x3ECAB16B, .cvtBf16F32Sr 5 37 22 11),
    (32, 0x3ECAB00C, .cvtF32S64 5 37 22),
    (32, 0x3ECAB00D, .cvtF32Ui64 5 37 22)] := by decide +kernel

/-- L-set major 0x10. -/
theorem test_decode_l10 : DecodesTo [
    (32, 0x42C8A180, .pkE4m3 5 36 20 12),
    (32, 0x42C8A181, .pkE5m2 5 36 20 12),
    (32, 0x42C8A182, .pkHs4 5 36 20 12),
    (32, 0x42C8A183, .upkE4m3 5 36 20 12),
    (32, 0x42C8A184, .upkE5m2 5 36 20 12),
    (32, 0x42C8A185, .upkHs4 5 36 20 12),
    (32, 0x42C8A186, .pkE4m3Sr 5 36 20 12),
    (32, 0x42C8A187, .pkE5m2Sr 5 36 20 12),
    (32, 0x42CCB008, .scxE4m3 5 38 22),
    (32, 0x42CCB009, .scxE5m2 5 38 22),
    (32, 0x42CCB00A, .scxHs4 5 38 22)] := by decide +kernel

/-- L-set major 0x11. -/
theorem test_decode_l11 : DecodesTo [
    (64, 0x9605812346CAB003, .ld .s16 5 37 22 ⟨9, 1, 1, 0, 5, 33059⟩)] := by decide +kernel

/-- L-set major 0x12. -/
theorem test_decode_l12 : DecodesTo [
    (64, 0x970581234ACAB002, .st .b16 5 37 22 ⟨9, 1, 1, 1, 5, 33059⟩)] := by decide +kernel

/-- L-set major 0x13. -/
theorem test_decode_l13 : DecodesTo [
    (64, 0x900081234ECAB163, .ldt .s16 5 37 22 11 ⟨9, 0, 0, 0, 0, 33059⟩)] := by decide +kernel

/-- L-set major 0x14. -/
theorem test_decode_l14 : DecodesTo [
    (64, 0x9000812352CAB162, .stt .b16 5 37 22 11 ⟨9, 0, 0, 0, 0, 33059⟩)] := by decide +kernel

/-- L-set major 0x15. -/
theorem test_decode_l15 : DecodesTo [
    (64, 0x9605812356CCB000, .ldp 5 38 22 ⟨9, 1, 1, 0, 5, 33059⟩),
    (64, 0x9705812356CCB001, .stp 5 38 22 ⟨9, 1, 1, 1, 5, 33059⟩),
    (64, 0x9000000056C80182, .pfar 5 36 12 ⟨9, 0, 0, 0, 0, 0⟩)] := by decide +kernel

/-- L-set major 0x16. -/
theorem test_decode_l16 : DecodesTo [
    (64, 0x970581235ACCB010, .atomAdd true 5 38 22 ⟨9, 1, 1, 1, 5, 33059⟩),
    (64, 0x970581235ACCB011, .atomMin true 5 38 22 ⟨9, 1, 1, 1, 5, 33059⟩),
    (64, 0x970581235ACCB012, .atomMax true 5 38 22 ⟨9, 1, 1, 1, 5, 33059⟩),
    (64, 0x970581235ACCB013, .atomMinui true 5 38 22 ⟨9, 1, 1, 1, 5, 33059⟩),
    (64, 0x970581235ACCB014, .atomMaxui true 5 38 22 ⟨9, 1, 1, 1, 5, 33059⟩),
    (64, 0x970581235ACCB015, .atomAnd true 5 38 22 ⟨9, 1, 1, 1, 5, 33059⟩),
    (64, 0x970581235ACCB016, .atomOr true 5 38 22 ⟨9, 1, 1, 1, 5, 33059⟩),
    (64, 0x970581235ACCB017, .atomXor true 5 38 22 ⟨9, 1, 1, 1, 5, 33059⟩),
    (64, 0x970581235ACCB018, .atomXchg true 5 38 22 ⟨9, 1, 1, 1, 5, 33059⟩),
    (64, 0x970581235ACCB159, .atomCas true 5 38 22 10 ⟨9, 1, 1, 1, 5, 33059⟩),
    (64, 0x970581235ACAB00A, .atomFaddF32 5 37 22 ⟨9, 1, 1, 1, 5, 33059⟩),
    (64, 0x970581235ACAB00B, .atomAddBf16x2 5 37 22 ⟨9, 1, 1, 1, 5, 33059⟩),
    (64, 0x970581235ACAB00C, .atomAddF16x2 5 37 22 ⟨9, 1, 1, 1, 5, 33059⟩),
    (64, 0x970581235AC8A00D, .atomFxadd 5 36 20 ⟨9, 1, 1, 1, 5, 33059⟩)] := by decide +kernel

/-- L-set major 0x17. -/
theorem test_decode_l17 : DecodesTo [
    (64, 0x970581235ECCB010, .redAdd true 5 38 22 ⟨9, 1, 1, 1, 5, 33059⟩),
    (64, 0x970581235ECCB011, .redMin true 5 38 22 ⟨9, 1, 1, 1, 5, 33059⟩),
    (64, 0x970581235ECCB012, .redMax true 5 38 22 ⟨9, 1, 1, 1, 5, 33059⟩),
    (64, 0x970581235ECCB013, .redMinui true 5 38 22 ⟨9, 1, 1, 1, 5, 33059⟩),
    (64, 0x970581235ECCB014, .redMaxui true 5 38 22 ⟨9, 1, 1, 1, 5, 33059⟩),
    (64, 0x970581235ECCB015, .redAnd true 5 38 22 ⟨9, 1, 1, 1, 5, 33059⟩),
    (64, 0x970581235ECCB016, .redOr true 5 38 22 ⟨9, 1, 1, 1, 5, 33059⟩),
    (64, 0x970581235ECCB017, .redXor true 5 38 22 ⟨9, 1, 1, 1, 5, 33059⟩),
    (64, 0x970581235ECAB00A, .redFaddF32 5 37 22 ⟨9, 1, 1, 1, 5, 33059⟩),
    (64, 0x970581235ECAB00B, .redAddBf16x2 5 37 22 ⟨9, 1, 1, 1, 5, 33059⟩),
    (64, 0x970581235ECAB00C, .redAddF16x2 5 37 22 ⟨9, 1, 1, 1, 5, 33059⟩),
    (64, 0x970581235EC8A00D, .redFxadd 5 36 20 ⟨9, 1, 1, 1, 5, 33059⟩)] := by decide +kernel

/-- L-set major 0x18. -/
theorem test_decode_l18 : DecodesTo [
    (64, 0x9005812362CCB141, .wait true 5 38 22 10 ⟨9, 0, 0, 0, 5, 33059⟩)] := by decide +kernel

/-- L-set major 0x19. -/
theorem test_decode_l19 : DecodesTo [
    (32, 0x66840000, .fenceAcq 5 2),
    (32, 0x66840001, .fenceRel 5 2),
    (32, 0x66840002, .fenceAcqrel 5 2)] := by decide +kernel

/-- L-set major 0x1A. -/
theorem test_decode_l1a : DecodesTo [
    (32, 0x6A805A5A, .bra 5 23130)] := by decide +kernel

/-- L-set major 0x1B. -/
theorem test_decode_l1b : DecodesTo [
    (32, 0x6E800000, .nop 5),
    (32, 0x6E80B001, .brx 5 22),
    (32, 0x6ECC0022, .call 5 38 1),
    (32, 0x6ECCB003, .callx 5 38 22),
    (32, 0x6E80B004, .ret 5 22),
    (32, 0x6E800005, .exit 5),
    (32, 0x6E9A34A6, .barA 5 0 1 5 421),
    (32, 0x6E8034A7, .barW 5 0 0 0 421),
    (32, 0x6E8034A8, .barAw 5 0 0 0 421),
    (32, 0x6E80B009, .issv 5 22)] := by decide +kernel

/-- L-set major 0x1C. -/
theorem test_decode_l1c : DecodesTo [
    (64, 0x9705812372CAB002, .rst .b16 5 37 22 ⟨9, 1, 1, 1, 5, 33059⟩)] := by decide +kernel

/-- U-set major 0x00. -/
theorem test_decode_u00 : DecodesTo [
    (32, 0x816558B0, .uadd 5 37 22 11),
    (32, 0x816558B1, .usub 5 37 22 11),
    (32, 0x816558B2, .uand 5 37 22 11),
    (32, 0x816558B3, .uor 5 37 22 11),
    (32, 0x816558B4, .uxor 5 37 22 11),
    (32, 0x816558B5, .ushl 5 37 22 11),
    (32, 0x816558B6, .ushr 5 37 22 11),
    (32, 0x816558B7, .usar 5 37 22 11),
    (32, 0x816558B8, .umin 5 37 22 11),
    (32, 0x816558B9, .umax 5 37 22 11),
    (32, 0x816558BA, .uminui 5 37 22 11),
    (32, 0x816558BB, .umaxui 5 37 22 11),
    (32, 0x816558BC, .umul 5 37 22 11),
    (32, 0x816558BD, .umulhi 5 37 22 11),
    (32, 0x816558BE, .umulhiu 5 37 22 11)] := by decide +kernel

/-- U-set major 0x01. -/
theorem test_decode_u01 : DecodesTo [
    (32, 0x834358B0, .ucmpEq 5 3 22 11),
    (32, 0x834358B1, .ucmpNe 5 3 22 11),
    (32, 0x834358B2, .ucmpLt 5 3 22 11),
    (32, 0x834358B3, .ucmpLe 5 3 22 11),
    (32, 0x834358B4, .ucmpGt 5 3 22 11),
    (32, 0x834358B5, .ucmpGe 5 3 22 11),
    (32, 0x834358B6, .ucmpLtui 5 3 22 11),
    (32, 0x834358B7, .ucmpLeui 5 3 22 11),
    (32, 0x834358B8, .ucmpGtui 5 3 22 11),
    (32, 0x834358B9, .ucmpGeui 5 3 22 11),
    (32, 0x8343185A, .qand 5 3 6 5),
    (32, 0x8343185B, .qor 5 3 6 5),
    (32, 0x8343185C, .qxor 5 3 6 5),
    (32, 0x8343185D, .qandn 5 3 6 5),
    (32, 0x8343180E, .qnot 5 3 6)] := by decide +kernel

/-- U-set major 0x02. -/
theorem test_decode_u02 : DecodesTo [
    (32, 0x85655A5A, .uaddi 5 37 22 602)] := by decide +kernel

/-- U-set major 0x03. -/
theorem test_decode_u03 : DecodesTo [
    (32, 0x87655A5A, .uandi 5 37 22 602)] := by decide +kernel

/-- U-set major 0x04. -/
theorem test_decode_u04 : DecodesTo [
    (32, 0x89655A5A, .uori 5 37 22 602)] := by decide +kernel

/-- U-set major 0x05. -/
theorem test_decode_u05 : DecodesTo [
    (32, 0x8B655A5A, .uxori 5 37 22 602)] := by decide +kernel

/-- U-set major 0x06. -/
theorem test_decode_u06 : DecodesTo [
    (32, 0x8D65581A, .ushli 5 37 22 26),
    (32, 0x8D65591A, .ushri 5 37 22 26),
    (32, 0x8D655A1A, .usari 5 37 22 26),
    (32, 0x8D655B1A, .uroli 5 37 22 26)] := by decide +kernel

/-- U-set major 0x07. -/
theorem test_decode_u07 : DecodesTo [
    (32, 0x8F655A5A, .umov16 5 37 23130)] := by decide +kernel

/-- U-set major 0x08. -/
theorem test_decode_u08 : DecodesTo [
    (32, 0x91655A5A, .umovk 5 37 23130)] := by decide +kernel

/-- U-set major 0x09. -/
theorem test_decode_u09 : DecodesTo [
    (32, 0x93655800, .umov 5 37 22),
    (32, 0x936558B1, .readlane 5 37 22 11),
    (32, 0x93655802, .bcast 5 37 22)] := by decide +kernel

/-- U-set major 0x0A. -/
theorem test_decode_u0a : DecodesTo [
    (64, 0x9605812395655803, .uld .s16 5 37 22 ⟨9, 1, 1, 0, 5, 33059⟩)] := by decide +kernel

/-- U-set major 0x0B. -/
theorem test_decode_u0b : DecodesTo [
    (64, 0x9705812397655802, .ust .b16 5 37 22 ⟨9, 1, 1, 1, 5, 33059⟩)] := by decide +kernel

/-- U-set major 0x0C. -/
theorem test_decode_u0c : DecodesTo [
    (64, 0x9705812399655800, .uatomAdd 5 37 22 ⟨9, 1, 1, 1, 5, 33059⟩),
    (64, 0x9705812399655801, .uatomMin 5 37 22 ⟨9, 1, 1, 1, 5, 33059⟩),
    (64, 0x9705812399655802, .uatomMax 5 37 22 ⟨9, 1, 1, 1, 5, 33059⟩),
    (64, 0x9705812399655803, .uatomMinui 5 37 22 ⟨9, 1, 1, 1, 5, 33059⟩),
    (64, 0x9705812399655804, .uatomMaxui 5 37 22 ⟨9, 1, 1, 1, 5, 33059⟩),
    (64, 0x9705812399655805, .uatomAnd 5 37 22 ⟨9, 1, 1, 1, 5, 33059⟩),
    (64, 0x9705812399655806, .uatomOr 5 37 22 ⟨9, 1, 1, 1, 5, 33059⟩),
    (64, 0x9705812399655807, .uatomXor 5 37 22 ⟨9, 1, 1, 1, 5, 33059⟩),
    (64, 0x9705812399655808, .uatomXchg 5 37 22 ⟨9, 1, 1, 1, 5, 33059⟩),
    (64, 0x97058123996558B9, .uatomCas 5 37 22 11 ⟨9, 1, 1, 1, 5, 33059⟩),
    (64, 0x970581239965580A, .uatomFaddF32 5 37 22 ⟨9, 1, 1, 1, 5, 33059⟩),
    (64, 0x970581239966580C, .uatomFxadd 5 38 22 ⟨9, 1, 1, 1, 5, 33059⟩)] := by decide +kernel

/-- U-set major 0x10. -/
theorem test_decode_u10 : DecodesTo [
    (32, 0xA15A5A5A, .ubra 5 1727066)] := by decide +kernel

/-- U-set major 0x11. -/
theorem test_decode_u11 : DecodesTo [
    (32, 0xA365A5A0, .ucall 5 37 2650),
    (32, 0xA3655801, .ucallx 5 37 22),
    (32, 0xA3405802, .uret 5 22),
    (32, 0xA365A5A3, .uloop 5 37 2650)] := by decide +kernel

/-- U-set major 0x14. -/
theorem test_decode_u14 : DecodesTo [
    (32, 0xA9655800, .spawn 5 37 22),
    (32, 0xA96558B1, .sfence 5 37 22 11)] := by decide +kernel

/-- U-set major 0x15. -/
theorem test_decode_u15 : DecodesTo [
    (32, 0xAB4358B0, .bjob 5 3 22 11),
    (32, 0xAB651801, .fwait 5 37 6),
    (32, 0xAB431802, .ftest 5 3 6),
    (32, 0xAB401803, .fcancel 5 6),
    (32, 0xAB651804, .fmovHs 5 37 6),
    (32, 0xAB435805, .fmovSh 5 3 22)] := by decide +kernel

/-- U-set major 0x16. -/
theorem test_decode_u16 : DecodesTo [
    (32, 0xAD655800, .talloc 5 37 22),
    (32, 0xAD405801, .tfree 5 22),
    (32, 0xAD655802, .tstat 5 37 22)] := by decide +kernel

/-- U-set major 0x17. -/
theorem test_decode_u17 : DecodesTo [
    (32, 0xAF4058B0, .barinit 5 22 11),
    (32, 0xAF405801, .barsave 5 22),
    (32, 0xAF405802, .barload 5 22)] := by decide +kernel

/-- U-set major 0x18. -/
theorem test_decode_u18 : DecodesTo [
    (32, 0xB14358B0, .mcst 5 3 22 11),
    (32, 0xB1435801, .ridge 5 3 22),
    (32, 0xB1655802, .rstat 5 37 22)] := by decide +kernel

/-- U-set major 0x19. -/
theorem test_decode_u19 : DecodesTo [
    (32, 0xB3704000, .mbxrd 5 48 16),
    (32, 0xB3404201, .mbxwr 5 16 32)] := by decide +kernel

/-- U-set major 0x1A. -/
theorem test_decode_u1a : DecodesTo [
    (32, 0xB5655800, .movsFromSys 5 37 22),
    (32, 0xB5655801, .movsToSys 5 37 22),
    (32, 0xB5655802, .therm 5 37 22),
    (32, 0xB5650003, .clock 5 37)] := by decide +kernel

/-- U-set major 0x1B. -/
theorem test_decode_u1b : DecodesTo [
    (32, 0xB7655800, .accrd 5 37 22),
    (32, 0xB7655801, .accwr 5 37 22),
    (32, 0xB7405802, .accz 5 22)] := by decide +kernel

/-- U-set major 0x28. -/
theorem test_decode_u28 : DecodesTo [
    (32, 0xD16558B0, .trap 5 37 22 11),
    (32, 0xD1400001, .eret 5),
    (32, 0xD14158B1, .eretAns 5 22 11)] := by decide +kernel

/-- U-set major 0x29. -/
theorem test_decode_u29 : DecodesTo [
    (32, 0xD34058B0, .tlbw 5 22 11),
    (32, 0xD34058B1, .tlbi 5 22 11)] := by decide +kernel

/-- U-set major 0x2A. -/
theorem test_decode_u2a : DecodesTo [
    (32, 0xD5660000, .mqpop 5 38)] := by decide +kernel

/-- U-set major 0x2B. -/
theorem test_decode_u2b : DecodesTo [
    (32, 0xD76558B0, .objmap 5 37 22 11),
    (32, 0xD76558B1, .objunmap 5 37 22 11),
    (32, 0xD7645002, .objstat 5 36 20)] := by decide +kernel

/-- U-set major 0x2C. -/
theorem test_decode_u2c : DecodesTo [
    (32, 0xD96558B0, .harvest 5 37 22 11)] := by decide +kernel

/-- U-set major 0x2D. -/
theorem test_decode_u2d : DecodesTo [
    (32, 0xDB4058B0, .preempt 5 22 11),
    (32, 0xDB4058B1, .resume 5 22 11)] := by decide +kernel

/-- U-set major 0x2E. -/
theorem test_decode_u2e : DecodesTo [
    (32, 0xDD400000, .halt 5)] := by decide +kernel

/-- U-set major 0x30. -/
theorem test_decode_u30 : DecodesTo [
    (32, 0xE1E558B0, .mma 37 22 11)] := by decide +kernel

/-- U-set major 0x31. -/
theorem test_decode_u31 : DecodesTo [
    (32, 0xE3E50000, .mzero 37)] := by decide +kernel

/-- U-set major 0x32. -/
theorem test_decode_u32 : DecodesTo [
    (32, 0xE5E55920, .mscl 37 22 2 2)] := by decide +kernel

/-- U-set major 0x33. -/
theorem test_decode_u33 : DecodesTo [
    (32, 0xE7C258B0, .mloop 2 22 11)] := by decide +kernel

/-- U-set major 0x34. -/
theorem test_decode_u34 : DecodesTo [
    (32, 0xE9DA5A5A, .mjmp 1727066)] := by decide +kernel

/-- U-set major 0x35. -/
theorem test_decode_u35 : DecodesTo [
    (32, 0xEBC225A0, .mbarW 2 602)] := by decide +kernel

/-- U-set major 0x36. -/
theorem test_decode_u36 : DecodesTo [
    (32, 0xEDC025A0, .mbarA 602),
    (32, 0xEDC125A0, .mbarADrain 602)] := by decide +kernel

/-- U-set major 0x37. -/
theorem test_decode_u37 : DecodesTo [
    (32, 0xEFC00000, .mend)] := by decide +kernel

/-- U-set major 0x38. -/
theorem test_decode_u38 : DecodesTo [
    (32, 0xF16658A0, .bcopy 5 38 22 10),
    (32, 0xF1655801, .bfetch 5 37 22)] := by decide +kernel

/-- U-set major 0x39. -/
theorem test_decode_u39 : DecodesTo [
    (32, 0xF36558B0, .btld 5 37 22 11),
    (32, 0xF36658A1, .btst 5 38 22 10)] := by decide +kernel

/-- U-set major 0x3A. -/
theorem test_decode_u3a : DecodesTo [
    (32, 0xF56558B0, .bgath 5 37 22 11),
    (32, 0xF56658A1, .bscat 5 38 22 10)] := by decide +kernel

/-- U-set major 0x3B. -/
theorem test_decode_u3b : DecodesTo [
    (32, 0xF76600A0, .bstep 5 38 10)] := by decide +kernel

/-- U-set major 0x3C. -/
theorem test_decode_u3c : DecodesTo [
    (32, 0xF96558B0, .block 5 37 22 11),
    (32, 0xF9405801, .bunlk 5 22)] := by decide +kernel

/-- U-set major 0x3D. -/
theorem test_decode_u3d : DecodesTo [
    (32, 0xFB655800, .btset 5 37 22),
    (32, 0xFB6658A1, .baccd 5 38 22 10)] := by decide +kernel

/-- U-set major 0x3E. -/
theorem test_decode_u3e : DecodesTo [
    (32, 0xFD6658A0, .brem 5 38 22 10),
    (32, 0xFD4058B1, .bdone 5 22 11)] := by decide +kernel

/-- Words of the spec's programs and examples (spec/07, 10 to 13, 15, 19, 20, 25, 28). -/
theorem test_decode_spec_words : DecodesTo [
    (32, 0x0F8C3001, .addi 7 6 6 1), (32, 0x23920403, .mov16 7 9 0x0403), (32, 0x07943127, .bfx 7 10 6 9), (32, 0x43985808, .scxE4m3 7 12 11),
    (32, 0x439C01A0, .pkE4m3 7 14 0 13), (32, 0x678A0001, .fenceRel 7 5), (32, 0xD3C01051, .tlbi 7 4 5), (32, 0xB7E01000, .accrd 7 32 4),
    (32, 0xA9C95000, .spawn 7 9 20), (32, 0xE5E01800, .mscl 32 6 0 0), (32, 0xEDC10020, .mbarADrain 2), (32, 0xE3C00000, .mzero 0),
    (32, 0xB1C11060, .mcst 7 1 4 6), (32, 0xB1C22001, .ridge 7 2 8), (64, 0x57881000, .ldp 7 4 2 ⟨0, 0, 0, 0, 0, 0⟩), (32, 0xD1C72060, .trap 7 7 8 6),
    (64, 0x1057881001, .stp 7 4 2 ⟨0, 0, 0, 0, 0, 0x10⟩), (32, 0x68800005, .bra 1 5), (32, 0xD7D05150, .objmap 7 16 20 21), (32, 0xF1C00401, .bfetch 7 0 1),
    (32, 0xFDC01461, .bdone 7 5 6), (32, 0xF3C20040, .btld 7 2 0 4), (32, 0xABC90401, .fwait 7 9 1), (64, 0x97CA2405, .ust .b64 7 10 9 ⟨0, 0, 0, 0, 0, 0⟩),
    (32, 0x6F800005, .exit 7), (32, 0x6F806009, .issv 7 12), (32, 0xB3C81000, .mbxrd 7 8 4)] := by decide +kernel

/-- R10, R15: the stack of a physical address in 4 KiB units, and the die its controller is on. -/
theorem test_stack_of_address : stackOf 0x0FFF = 0 ∧ stackOf 0x1000 = 1 ∧ stackOf 0x7FFF = 7 ∧ stackOf 0x8000 = 0 ∧ stackDie 3 = 0 ∧ stackDie 4 = 1 := by decide

/-! ## Words that are refused, one for each check (R346) -/

/-- A field that must be zero: SIG of a load (R142). -/
theorem test_ill_formed_zero_field : (Instr.ld .b32 7 4 2 ⟨0, 0, 1, 1, 0, 0⟩).wellFormed = false ∧ (Instr.ld .b32 7 4 2 ⟨0, 0, 1, 0, 0, 0⟩).wellFormed = true := by
  decide +kernel
/-- A pair at an odd register (R150). -/
theorem test_ill_formed_register : (Instr.add64 7 5 2 4).wellFormed = false ∧ (Instr.add64 7 4 2 6).wellFormed = true := by decide +kernel
/-- A reserved scope code (R190). -/
theorem test_ill_formed_scope : (Instr.ld .b32 7 4 2 ⟨0, 0, 0, 0, 8, 0⟩).wellFormed = false ∧ (Instr.ld .b32 7 4 2 ⟨0, 0, 0, 0, 7, 0⟩).wellFormed = true := by
  decide +kernel
/-- Reserved FN and major codes, and a set bit in a declared zero field, decode to nothing (R153, R155, R346). -/
theorem test_refused_words : decodeTableWord 32 0x0000000F = none ∧ decodeTableWord 32 0x74000000 = none ∧ decodeTableWord 32 0xA4000000 = none ∧
    decodeTableWord 32 0x03CAB1ED = none := by decide +kernel

/-! ## Witnesses: for every statement, states and operands that meet the hypotheses of its clauses together -/

noncomputable section

/-- A lane that is ready at 0x40. -/
def rdy : Lane := { st := .ready, pc := 0x40 }
/-- A course whose lane 0 is as given, the others having exited. -/
def crs (ln : Lane) (u : List (Nat × W64) := []) : Course := { active := true, lanes := ln :: List.replicate 7 {}, u := { s := u } }
/-- The issue of lane 0 of course slot 0 of core 0. -/
def iss0 : Issue := { who := .course 0 0, mask := [0], pc := 0x40, wpc := 0x40, next := 0x44, id := 5, counts := [0] }
/-- A formed bay 0 in column 0, whose core 0 is as given. -/
def pkg (co : Core) (i : Issue := iss0) (b : Bay := { formed := true, inc := 7 }) : State :=
  { st := .ready, t := 200000000, cols := [(0, 0)], members := 3, bays := [(0, b)], cores := [(0, co)], issue := some i }
/-- A core with a course in slot 0 of block 0, and one page mapped for everything at 0x10000. -/
def core1 (x : Course) (bl : Block := { slots := [0], threads := 1, vregs := 63 }) : Core :=
  { courses := [(0, x)], blocks := [(0, bl)], tlb := [{ va := 0x10000, z := 0, leaf := 0x1001F }] }
def one (x : Course) (bl : Block := { slots := [0], threads := 1, vregs := 63 }) : State := pkg (core1 x bl)
/-- An unsignalled address word. -/
def ad0 : AddrWord := ⟨0, 0, 0, 0, 0, 0⟩
/-- A job of block 0 that runs on processor 0 of core 0. -/
def job1 (u : List (Nat × W64) := []) : Job := { fut := 3, blk := 0, slot := 0, prv := true, pc := 0x80, u := { s := u } }
def jiss : Issue := { who := .job 0 0, pc := 0x80, wpc := 0x80, next := 0x84, id := 5 }
def coreJ (j : Job) : Core :=
  { blocks := [(0, { slots := [], nbar := 4, accu := 1, vregs := 63 })], procs := [(0, { job := some j })], tlb := [{ va := 0x10000, z := 0, leaf := 0x1001F }],
    futs := [(3, { st := .running, val := 0, gen := 2, blk := 0, kind := .job, cause := 0 })],
    tiles := [(6, { blk := 0, tile := 1, bset := 0, len := 1, st := .empty, gen := 9, data := [] }), (7, { blk := 0, tile := 2, bset := 0, len := 1, st := .ready, gen := 9, data := [] })] }
def oneJ (j : Job) : State := pkg (coreJ j) jiss { formed := true, inc := 7, layBase := 0x10000, laySlots := 16, ftBase := 0x20000, fcnt := 4 }

end

/-- IntegerArithmeticResults, CompareAndImmediateResults, PairMoveAndExchangeResults, UniformIntegerResults, FloatingWordResults, UniformControlFlowResults and every clause whose only
hypothesis is that a course or a job issues. -/
theorem wit_issuers : CourseIssues (one (crs rdy)) iss0 0 0 (crs rdy) ∧ (∀ l ∈ iss0.mask, l < 8) ∧ JobIssues (oneJ (job1)) jiss 0 0 (job1) :=
  ⟨⟨rfl, rfl, rfl⟩, by decide, ⟨rfl, rfl, rfl⟩⟩
theorem issues {x : Course} {bl : Block} : CourseIssues (one x bl) iss0 0 0 x := ⟨rfl, rfl, rfl⟩
theorem jobIssues {j : Job} : JobIssues (oneJ j) jiss 0 0 j := ⟨rfl, rfl, rfl⟩

/-- RoundingAndArithmetic: a code at the top of each format and one below its smallest; finite operands whose sum, difference and product are and are not 0;
NaNs in each place; opposite and equal infinities; an infinity and 0. -/
theorem wit_RoundingAndArithmetic :
    (∀ F ∈ [fp32, bf16, fp16, e4m3, e5m2], roundCode F 0 false 1 0 false ≤ F.maxCode ∧ roundCode F 1 false 1 (-200) false ≤ F.maxCode) ∧
    (∀ F ∈ [fp32, bf16, fp16], unpackF F (F.sign true) = .fin true 0 (unpackF F (F.sign true) |> fun | .fin _ _ e => e | _ => 0)) ∧
    (ratOf (unpackF fp32 0x3F800000) = 1 ∧ ratOf (unpackF fp32 0xBF800000) = -1 ∧ ratOf (unpackF fp32 0) = 0) ∧
    unpackF fp32 0x7F800001 = .nan false 1 ∧ unpackF fp32 0x7F800000 = .inf false ∧ unpackF fp32 0xFF800000 = .inf (!false) := by
  refine ⟨by decide +kernel, by decide +kernel, ⟨?_, ?_, ?_⟩, by decide +kernel⟩
  · have h : unpackF fp32 0x3F800000 = .fin false 0x800000 (-23) := by decide +kernel
    rw [h]; norm_num [ratOf]
  · have h : unpackF fp32 0xBF800000 = .fin true 0x800000 (-23) := by decide +kernel
    rw [h]; norm_num [ratOf]
  · have h : unpackF fp32 0 = .fin false 0 (-149) := by decide +kernel
    rw [h]; norm_num [ratOf]

/-- SpecialValueAndConversionResults: NaN operands in each place; a lesser and a greater one, and zeros of each sign; a conversion's range. -/
theorem wit_SpecialValueAndConversionResults :
    unpackF fp32 0x7F800001 = .nan false 1 ∧ isNan (unpackF fp32 0x7FC00000) = true ∧ isNan (unpackF fp32 0x80000000) = false ∧
    lessV (unpackF fp32 0xFF800000) (unpackF fp32 0x7F800000) ∧ ¬ lessV (unpackF fp32 0x80000000) (unpackF fp32 0) ∧ ¬ lessV (unpackF fp32 0) (unpackF fp32 0x80000000) ∧
    (-2 ^ 31 : Int) ≤ 2 ^ 31 - 1 := by
  have h0 : unpackF fp32 0 = .fin false 0 (-149) := by decide +kernel
  have h1 : unpackF fp32 0x80000000 = .fin true 0 (-149) := by decide +kernel
  have h2 : unpackF fp32 0xFF800000 = .inf true := by decide +kernel
  have h3 : unpackF fp32 0x7F800000 = .inf false := by decide +kernel
  rw [h0, h1, h2, h3]
  refine ⟨by decide +kernel, by decide +kernel, by decide, ⟨rfl, rfl⟩, ?_, ?_, by decide⟩ <;> norm_num [lessV, ratOf]

/-- PackAndScaleResults: a NaN, an infinity and a finite value in vA. -/
theorem wit_PackAndScaleResults : isNan (f32 ((rdy.wv 11 0x7FC00000).rv 11)) = true ∧ f32 ((rdy.wv 11 0x7F800000).rv 11) = .inf false ∧
    f32 ((rdy.wv 11 0x447A0000).rv 11) = .fin false 0xFA0000 (-14) ∧ f32 (rdy.rv 11) = .fin false 0 (-149) := by decide +kernel

/-- The lane whose pair v2:v3 holds an ordinary address of the mapped page, its last 16 bytes; or one of a peer's window. -/
noncomputable def lnA : Lane := { rdy with v := [(2, 0x1FFF0), (4, 0x10)] }
noncomputable def lnP : Lane := { rdy with v := [(2, 0x1000), (3, 0x01008000)] }
/-- A lane's accesses that need no hold and fail no check. -/
def okRun (mk : MkAcc) (ln : Lane) : Prop :=
  let r := memRun (one (crs ln)) 0 0 [0] (mk (one (crs ln)) iss0 0 0)
  (iss0.mask.filter (fun l => ((crs ln).lane l).rp 7)) = [0] ∧ iss0.mask.Nodup ∧ r.held = false ∧ r.bad = []

/-- LaneMemoryWordsMakeTheirAccesses: every kind at the last bytes of a page, and a staged store to a peer; the pointer words' pairs stand at TileAndPointerWordResults. -/
theorem wit_LaneMemoryWordsMakeTheirAccesses :
    okRun (aLd .b128 4 2 ad0) lnA ∧ okRun (aSt .b128 4 2 ad0) lnA ∧ okRun (aRst .b32 4 2 ad0) lnP ∧ okRun (aLdp 4 2 ad0) lnA ∧ okRun (aStp 4 2 ad0) lnA ∧
    okRun (aAtom .add 8 4 2 ad0) lnA ∧ okRun (aCas 4 4 2 6 ad0) lnA ∧ okRun (aRed .min 8 4 2 ad0) lnA ∧ okRun (aLd .z8 4 2 ad0) lnP := by
  unfold okRun; decide +kernel

/-- UniformMemoryWordsMakeTheirAccess: a load, a store and an atomic, of a course and of a job. -/
theorem wit_UniformMemoryWordsMakeTheirAccess :
    let s := one (crs rdy [(2, 0x1FFF0)])
    let sj := oneJ (job1 [(2, 0x1FFF0)])
    (∀ a ∈ [aUld .b128 4 2 ad0 s iss0, aUst .b64 4 2 ad0 s iss0, aUatom .fxadd 16 4 2 ad0 s iss0, aUcas 4 2 6 ad0 s iss0],
      (issueOne 0 (Issued.mk s [] [] false) iss0.low a).held = false ∧ (issueOne 0 (Issued.mk s [] [] false) iss0.low a).bad = []) ∧
    (∀ a ∈ [aUld .b128 4 2 ad0 sj jiss, aUst .b64 4 2 ad0 sj jiss, aUatom .add 8 4 2 ad0 sj jiss, aUcas 4 2 6 ad0 sj jiss],
      (issueOne 0 (Issued.mk sj [] [] false) jiss.low a).held = false ∧ (issueOne 0 (Issued.mk sj [] [] false) jiss.low a).bad = [] ∧ jobWaits sj jiss.who a = false) ∧
    (crs rdy [(2, 0x1FFF0)]).u.rq 7 = true := by decide +kernel

noncomputable def tile2 : Tile := { blk := 0, tile := 2, bset := 0, len := 1, st := .ready, gen := 9, data := [] }
/-- TileAndPointerWordResults: the last 4 bytes of a ready tile; a pointer that is no near pointer, and a near pointer of frame 3. -/
theorem wit_TileAndPointerWordResults :
    tileChk { core1 (crs rdy) with tiles := [(7, tile2)] } 0 0x00980002 252 4 = .ok 7 tile2 ∧
    tileErr (pkg { core1 (crs rdy) with tiles := [(7, tile2)] }) 0 7 252 4 = false ∧
    (let s := (pkg (core1 (crs rdy)) iss0 { formed := true, ftBase := 0x20000, fcnt := 4 }).writeBytes 0x20060 (natBytes 8 0x0000100004000000 ++ natBytes 24 0)
     SlotValue s 0 0xF800000300000000 0 ∧ npBad s 0 0xF800000300000000 = none ∧ EntryFixed s 0 0xF800000300000000 ∧ SlotValue s 0 0x1234 0x1234 ∧ npBad s 0 0x1234 = none) := by
  simp only [SlotValue, EntryFixed]
  decide +kernel

noncomputable def wrec : WaitRec := waitRec true 4 2 6 ad0 iss0 lnA
/-- FenceAndWaitResults: a WAIT of an active lane, and a woken lane's next read. -/
theorem wit_FenceAndWaitResults :
    (let s := one (crs lnA)
     let s1 := s.updCourse 0 0 (·.mapLanes (fun l ln => if [0].contains l then { ln with wt := some (waitRec true 4 2 6 ad0 iss0 ln) } else ln))
     let r := memRun s1 0 0 [0] (fun l ln => aWait s 0 0 l (prvOf s iss0.who) iss0.pc (waitRec true 4 2 6 ad0 iss0 ln) iss0.id)
     iss0.mask.filter (fun l => ((crs lnA).lane l).rp 7) = [0] ∧ iss0.mask.Nodup ∧ r.held = false ∧ r.bad = []) ∧
    (let x := crs { lnA with wt := some wrec, st := .woken }
     let s := one x
     let r := memRun { s with nextIss := s.nextIss + 1 } 0 0 [0] (fun _ _ => aWait s 0 0 0 x.prv (x.lane 0).pc wrec s.nextIss)
     (one x).course? 0 0 = some x ∧ (x.lane 0).wt = some wrec ∧ (x.lane 0).st = .woken ∧ r.held = false ∧ r.bad = []) := by decide +kernel

/-- LaneControlResults: a lane besides the issue stays ready; every other lane has exited, outside a trap. -/
theorem wit_LaneControlResults :
    (∃ l, l < 8 ∧ l ∉ [0] ∧ (({ active := true, lanes := [rdy, rdy] ++ List.replicate 6 {} } : Course).lane l).st = .ready) ∧
    ((∀ l, l < 8 → l ∉ [0] → ((crs rdy).lane l).st = .exited) ∧ (crs rdy).ts = false) := by decide +kernel

/-- A block of two barriers: number 0 expects 2, number 1 expects 1. -/
noncomputable def blkB (cnt : W32) : Block := { slots := [0], threads := 1, nbar := 2, vregs := 63, bars := [(0, ⟨cnt, 2, 5⟩), (1, ⟨0, 1, 0xFFFF⟩)] }
/-- BarrierResults: a lane that stays ready; a course all of whose live lanes gather, at the block's last barrier, with an access outstanding and with none; an arrival one short of EXPECT, one that meets it, and a surplus. -/
theorem wit_BarrierResults :
    (∃ l, l < 8 ∧ (({ active := true, lanes := [rdy, rdy] ++ List.replicate 6 {} } : Course).lane l).st = .ready ∧ (l ∉ iss0.mask ∨
      (({ active := true, lanes := [rdy, rdy] ++ List.replicate 6 {} } : Course).lane l).rp 7 = false)) ∧
    ((one (crs rdy) (blkB 0)).block? 0 (crs rdy).blk = some (blkB 0) ∧ (1#12).toNat < (blkB 0).nbar ∧ (blkB 0).arrivals = [] ∧ iss0.mask ≠ [] ∧
      (∀ l ∈ iss0.mask, l < 8 ∧ ((crs rdy).lane l).rp 7 = true ∧ ((crs rdy).lane l).pc = iss0.pc) ∧ (∀ l, l < 8 → l ∉ iss0.mask → ((crs rdy).lane l).st = .exited)) ∧
    (let a : Access := { id := 1, iss := 1, ag := .thread 0 0 0, kind := .store, form := 0x10000, ea := 0x10000, size := 4, ph := .flight 0x10000 }
     let s := { one (crs rdy) (blkB 0) with accs := [a], nextAcc := 2 }
     (∃ a ∈ s.accs, a.id < s.nextAcc ∧ ∃ l ∈ iss0.mask, a.ag = .thread 0 0 l) ∧ ¬ (∃ a ∈ ({ s with accs := [] } : State).accs, a.id < s.nextAcc) ∧ (crs rdy).accOps = [] ∧
       ∀ l ∈ iss0.mask, ((crs rdy).lane l).hor.at 3 ≤ s.coreT 0) ∧
    (blkB 0).dir = none ∧ (blkB 0).st ≠ .swapped ∧ (((blkB 0).bar 0).count + 1).toNat < ((blkB 0).bar 0).expect.toNat ∧
    ((blkB 1).deferred = false ∧ ((blkB 1).bar 0).expect ≠ 0 ∧ ((blkB 1).bar 0).expect.toNat ≤ (((blkB 1).bar 0).count + 1).toNat) ∧
    ((blkB 2).bar 0).expect.toNat ≤ ((blkB 2).bar 0).count.toNat := by decide +kernel

noncomputable def lnIssv : Lane := { rdy with v := [(12, 0x02CAB160)] }
/-- IssvExecutesEachLanesWord: the lane's v12 holds an ADD. -/
theorem wit_IssvExecutesEachLanesWord :
    let x := crs lnIssv
    (x.issv.find? (fun r => r.pc == iss0.pc) = none) ∧ iss0.mask.Nodup ∧ (∀ l ∈ iss0.mask, l < 8 ∧ (x.lane l).st = .ready ∧ (x.lane l).pc = iss0.pc) ∧
    (let w := (x.lane 0).rv 12
     w.toNat / 2 ^ 26 < 0x18 ∧ w.toNat / 2 ^ 26 ≠ 0x0A ∧ decL w.toNat 0 = .ok (.add 5 37 22 11) ∧ opReasons (one x) iss0.who w (.add 5 37 22 11) false = []) ∧
    useErr (one x) iss0.who [0, 1, 2, 3, 4, 5, 6, 7] (allUses (.add 5 37 22 11) {}) = false ∧
    ∃ F, laneWord (.add 5 37 22 11) { round := iss0.pfx.round } = some (5, F) :=
  ⟨by decide +kernel, by decide, by decide +kernel, by decide +kernel, by decide +kernel, _, rfl⟩

noncomputable def trapC (u : List (Nat × W64)) : Course := { crs rdy u with ts := true, prv := true }
/-- BarrierSetupResults: BARINIT of the last barrier with the greatest EXPECT; BARSAVE in a trap; BARLOAD from an image in memory. -/
theorem wit_BarrierSetupResults :
    (let x := crs rdy [(4, 1), (5, 0xFFFF)]
     (x.u.rs 4).toNat % 2 ^ 10 < (blkB 0).nbar ∧ (x.u.rs 5).toNat % 2 ^ 16 ≠ 0 ∧ x.u.rq 7 = true) ∧
    (let x := trapC [(4, 0x10000)]
     let s := one x (blkB 0)
     let r := barStores iss0 0 0 (blkB 0) 0x10000 (List.range 2) (Issued.mk s [] [] false)
     x.ts = true ∧ (blkB 0).dir = none ∧ ((s.core 0).blocks.filter (fun e => e.2.dir.isSome)).length < 64 ∧ r.held = false ∧ r.bad = []) ∧
    (let bl := { blkB 0 with dir := some 0x10000 }
     let s := one (trapC [(4, 0x10000)]) bl
     bl.dir = some ((trapC [(4, 0x10000)]).u.rs 4) ∧ imageBusy s bl = false ∧ imageAddsOut s 0 bl 0x10000 = false ∧
       (match barLoads iss0 0x10000 (List.range 2) s bl.bars with | .ok _ => true | .error _ => false) = true) := by decide +kernel

/-- The state a read leaves. -/
noncomputable def after (r : OpRead) : State := match r with
  | .ok s _ => s
  | _ => {}
/-- The read gives these bytes. -/
def readsAs (r : OpRead) (b : List Byte) : Bool := match r with
  | .ok _ v => v == b
  | _ => false
/-- SpawnAndFenceResults: a header at an aligned address, its level read as 0; a fence at level 3. -/
theorem wit_SpawnAndFenceResults :
    (let x := crs rdy [(20, 0x10000)]
     (x.u.rs 20).toNat % 64 = 0 ∧ relPassed (one x) (uniAgent iss0) 7 = true ∧ readsAs (opReadSec (one x) iss0 (x.u.rs 20 + 51) 1 true) [0] = true ∧
       (mget ((one x).bay ((one x).bayOf 0)).levels 0 []).length < 1024) ∧
    (let x := crs rdy [(20, 0x10000), (21, 3)]
     (x.u.rs 21).toNat < 4 ∧ relPassed (one x) (uniAgent iss0) 7 = true ∧ (mget ((one x).bay ((one x).bayOf 0)).levels (x.u.rs 21).toNat []).length < 1024) := by decide +kernel

/-- SystemRegisterResults: reading in a trap with the greatest CAUSE and outside one; COLTEMP at 255; SYS.TPC in a trap with KIND 2, outside one at a multiple of 4. -/
theorem wit_SystemRegisterResults :
    (({ trapC [] with cause := 3 } : Course).ts = true ∧ ({ trapC [] with cause := 3 } : Course).cause < 4) ∧ (crs rdy).ts = false ∧
    ((trapC [(4, 255)]).prv = true ∧ ((trapC [(4, 255)]).u.rs 4).toNat < 256) ∧
    (∀ l ∈ iss0.mask, ((({ trapC [] with lanes := [{ rdy with v := [(2, 0x1002)] }] } : Course).lane l).rv2 2).toNat % 4 ≠ 3) ∧
    (∀ l ∈ iss0.mask, (((crs { rdy with v := [(2, 0x1004)] }).lane l).rv2 2).toNat % 4 = 0) := by decide +kernel

/-- MailboxAndSensorResults: an entry in mailbox 15, the last; room in mailbox 13, the last a program may write; a sensor of column 0, the bay's. -/
theorem wit_MailboxAndSensorResults :
    (let s := pkg (core1 (trapC [(4, 15)])) iss0 { formed := true, mail := [(15, { entries := [1] })] }
     ((trapC [(4, 15)]).u.rs 4).toNat < 16 ∧ ((s.bay (s.bayOf 0)).mailbox 15).entries = 1 :: [] ∧ iss0.mask ≠ [] ∧ (8#6).toNat % 8 = 0) ∧
    (let x := crs rdy [(4, 13)]
     relPassed (one x) (uniAgent iss0) 7 = true ∧ (x.u.rs 4).toNat < 14 ∧ (((one x).bay ((one x).bayOf 0)).mailbox 13).entries.length < 256) ∧
    (let x := crs rdy
     (x.u.rs 4).toNat < 32 ∧ mget? (one x).cols (x.u.rs 4).toNat = (one x).bayOf? 0) := by decide +kernel

/-- A bay whose page tables map every address below 2^42 to itself, its root at 0x40000. -/
noncomputable def bayP : Bay := { formed := true, inc := 7, root := 0x40000 }
noncomputable def paged (s : State) : State := (s.writeBytes 0x40000 (natBytes 8 0x50001)).writeBytes 0x50000 (natBytes 8 0x1F)
noncomputable def futR (st : FutSt) (k : FutKind) : Fut := { st := st, val := 0x99, gen := 2, blk := 0, kind := k, cause := 0 }
noncomputable def withFut (f : Fut) : Core := { core1 { crs rdy with h := [(1, 0x02008003)] } with futs := [(3, f)] }
/-- The result is without an error, and is this. -/
def okIs {ε α : Type} [BEq α] (r : Except ε α) (a : α) : Bool := match r with
  | .ok x => x == a
  | .error _ => false
/-- FutureWordResults: a current handle; a job whose queue has one place left and whose first register is the greatest; a future in each state and of each kind. -/
theorem wit_FutureWordResults :
    (∀ st ∈ [FutSt.queued, .running, .resolved, .cancelled, .faulted], ∀ k ∈ [FutKind.job, .mcst, .ridge],
      okIs (futCheck (withFut (futR st k)) 0 (({ crs rdy with h := [(1, 0x02008003)] } : Course).rh 1)) (3, futR st k) = true) ∧
    (let j : JobReq := { fut := 0, blk := 0, slot := 0, prv := false, pc := 0, args := [], acq := 0 }
     let s := pkg { core1 (crs rdy [(10, 0x10000)]) with procs := [(0, { queue := List.replicate 7 j }), (1, { queue := List.replicate 7 j })] }
     (56#6).toNat ≤ 56 ∧ ((crs rdy [(10, 0x10000)]).u.rs 10).toNat % 4 = 0 ∧ (∀ bl, s.block? 0 0 = some bl → bl.deferred = false) ∧ relPassed s (uniAgent iss0) 7 = true ∧
       (s.core 0).futFree = 0 :: (List.range 256).tail ∧ (s.proc 0 0).queue.length < 8) := by
  refine ⟨by decide +kernel, by decide, by decide +kernel, ?_, by decide +kernel, by decide +kernel, by decide +kernel⟩
  intro bl h
  cases h
  rfl

/-- FutureWordResults: FCANCEL of the future of the job that runs on processor 1, with a tile it fills, and of which no lane waits. -/
theorem wit_FutureWordResults_running :
    let f := futR .running .job
    let x : Course := { crs rdy with h := [(1, 0x02008003)] }
    let j : Job := { job1 with xfers := [{ id := 4, place := 0, kind := .btld, pc := 0x80, elems := [], ent := some 6, swz := 0, arr := none, rd := none, wr := none, trans := true, replays := 0, sig := false, ridge := none, frame := none }] }
    let s := pkg { withFut f with procs := [(1, { job := some j })], tiles := [(6, { blk := 0, tile := 1, bset := 0, len := 1, st := .filling, gen := 9, data := [] })] }
    okIs (futCheck (s.core 0) 0 (x.rh 1)) (3, f) = true ∧ s.job? 0 1 = some j ∧ j.fut = 3 ∧ s.job? 0 0 = none ∧ ∀ ln ∈ x.lanes, ln.waitsOn 3 f.gen = false := by decide +kernel

/-- TileAndAccumulatorResults: the last row of a one-block accumulator and the last columns, and an element to be read and one to be written; tiles of 1 and of 3,072 lines where they fit, and no entry of the block left; a tile that is empty; an id of no tile. -/
theorem wit_TileAndAccumulatorResults :
    (let bl : Block := { slots := [0], threads := 1, vregs := 63, accu := 1 }
     let w := 0x3003F
     (one (crs rdy [(4, 0x3003F)]) bl).block? 0 0 = some bl ∧ w / 2 ^ 18 = 0 ∧ w / 2 ^ 10 % 64 = 0 ∧ ∀ l ∈ iss0.mask, l < 8 ∧ w % 1024 + 8 * (crs rdy).idx + l < 64 * bl.accu) ∧
    (let o : AccOp := { iss := 4, pc := 0x40, lanes := [0], left := [.rd 0 4 4095, .wr 4095 7] }
     let x : Course := { crs rdy with accOps := [o, o] }
     (one x).course? 0 0 = some x ∧ x.accOps = o :: [o] ∧ o.left = .rd 0 4 4095 :: [.wr 4095 7] ∧ rowErr (one x) 0 x.blk 4095 1 = false) ∧
    (let co : Core := { core1 (crs rdy) with lines := [(5, { set := 200, ev := 0, used := 1 }), (6, { set := 0, ev := 0, used := 1 })] }
     fitBset co 1 = some 0 ∧ 1 / 256 = 0 ∧ 1 % 256 ≤ (200 + 256 - 0 % 256) % 256 ∧ ∀ w ∈ co.lines, ∀ w' ∈ co.lines, w'.1 = w.1 → w' = w) ∧
    (∀ n ∈ [1, 3072], let bl : Block := { slots := [0], threads := 1, vregs := 63, tent := 1, tlines := 3072 }
     let s := one (crs rdy) bl
     (List.range bl.tent).find? (fun i => (tileOf (s.core 0) 0 i).isNone) = some 0 ∧ linesOf (s.core 0) 0 + n ≤ bl.tlines ∧ (s.core 0).tileFree = 0 :: (List.range 256).tail ∧
       fitBset (s.core 0) n = some 0) ∧
    ((List.range 0).find? (fun i => (tileOf ((one (crs rdy)).core 0) 0 i).isNone) = none) ∧
    (let co : Core := { core1 (crs rdy [(4, 0x00980001)]) with tiles := [(6, { tile2 with tile := 1, st := .empty })] }
     (tileNamed co 0 (((crs rdy [(4, 0x00980001)]).u.rs 4).setWidth 32) 0).toOption = some (6, { tile2 with tile := 1, st := .empty }) ∧
     mget? co.tiles 6 = some { tile2 with tile := 1, st := .empty } ∧ ∃ r, tileNamed co 0 0x00980005 0 = .error r) :=
  ⟨by decide +kernel, by decide +kernel, by decide +kernel, by decide +kernel, by decide +kernel, by decide +kernel, by decide +kernel, _, rfl⟩

/-- TrapAndReturnResults: a TRAP with the greatest class, the mailbox with and without room; an answer to another course; a return of lanes of KIND 0 and 2, and of KIND 1 at a BAR.W. -/
theorem wit_TrapAndReturnResults :
    (let x := crs rdy [(6, 0xFFFF)]
     let s := pkg (core1 x) iss0 { formed := true, inc := 7, mail := [(14, { entries := List.replicate 255 0 })] }
     let s' := pkg (core1 x) iss0 { formed := true, inc := 7, mail := [(14, { entries := List.replicate 256 0 })] }
     (x.u.rs 6).toNat < 2 ^ 16 ∧ x.trap = none ∧ relPassed s (uniAgent iss0) 7 = true ∧ (s.core 0).msgs = [] ∧ ((s.bay 0).mailbox 14).entries.length < 256 ∧
       256 ≤ ((s'.bay 0).mailbox 14).entries.length) ∧
    (let x := trapC [(4, 0x700000100)]
     let y : Course := { crs rdy with trap := some ⟨7, 0x88⟩, lanes := [{ rdy with st := .trap }] }
     let s := pkg { core1 x with courses := [(0, x), (1, y)] }
     s.course? 0 1 = some y ∧ y.trap = some ⟨7, 0x88⟩ ∧ s.bayOf? 0 = s.bayOf? 0 ∧ x.prv = true ∧
       (x.u.rs 4).toNat = 0 + 1 * 2 ^ 8 + (s.bay (s.bayOf 0)).inc.toNat * 2 ^ 32) ∧
    (∀ kind ∈ [0, 1, 2], let x : Course := { trapC [] with lanes := [{ rdy with skind := kind, spc := 0x100 }] }
     let s := paged ((pkg (core1 x) iss0 bayP).writeBytes 0x100 (natBytes 4 0x6F800027))
     x.ts = true ∧ iss0.mask ≠ [] ∧ (∀ l, l < 8 → (l ∈ iss0.mask ↔ (x.lane l).st ≠ .exited)) ∧ (∀ l ∈ iss0.mask, l < 8 ∧ (x.lane l).pc = iss0.pc) ∧
       barrierAt s (s.bayOf 0) x.u (x.lane 0).spc 3 0 = some (1, 0x104)) := by decide +kernel
/-- TrapAndReturnResults: a TRAP behind another; a lane that waits at ERET for another, and a course whose lanes all wait there; the last ERET of a block with its traps due, without a
sequencer and with one, and one that is not the last. -/
theorem wit_TrapAndReturn_eret :
    ({ crs rdy with trap := some ⟨7, 0x88⟩ } : Course).trap = some ⟨7, 0x88⟩ ∧
    (let x : Course := { trapC [] with lanes := [rdy, rdy] }
     1 ∉ iss0.mask ∧ (x.lane 1).st ≠ .exited ∧ (x.lane 1).st ≠ .eret) ∧
    (let x : Course := { trapC [] with lanes := [{ rdy with st := .eret }, { rdy with st := .eret }, {}] }
     (∃ ln ∈ x.lanes, ln.st ≠ .exited) ∧ (∀ ln ∈ x.lanes, ln.st = .exited ∨ (ln.st = .eret ∧ ln.pc = 0x40)) ∧ (one x).block? 0 x.blk = some { slots := [0], threads := 1, vregs := 63 } ∧ 1 < x.lanes.length) ∧
    (∀ q ∈ [none, some ({} : Seq)], let x := trapC []
     let bl : Block := { slots := [0, 1], threads := 9, vregs := 63, st := .restoring, deferred := true, save := 0x10000, seq := q }
     let s := pkg { core1 x bl with courses := [(0, x), (1, crs rdy)] }
     s.block? 0 x.blk = some bl ∧ bl.deferred = true ∧ x.yield = false ∧ (∀ j ∈ bl.slots, j ≠ 0 → ((s.course? 0 j).getD {}).ts = false ∧ ((s.course? 0 j).getD {}).yield = false) ∧
       readsAs (bayRead (endIssue s iss0 true (fun _ ln => { ln with st := .eret }) iss0.pc) (.core 0) true [x.blk, 512] (bl.save + 64) 3 64 (bl.save + 64) []) (List.replicate 64 0) = true) ∧
    (let bl : Block := { slots := [0, 1], threads := 9, vregs := 63, st := .restoring, deferred := true }
     let s := pkg { core1 (trapC []) bl with courses := [(0, trapC []), (1, trapC [])] }
     ∃ j ∈ bl.slots, j ≠ 0 ∧ ((s.course? 0 j).getD {}).ts = true ∧ ∃ ln ∈ ((s.course? 0 j).getD {}).lanes, ln.st ≠ .exited) := by decide +kernel

noncomputable def acc0 (ag : Agent) (k : AccKind) (ph : Phase) : Access :=
  { id := 9, iss := 5, ag := ag, kind := k, form := 0x10000, ea := 0x10000, size := 4, ph := ph }
noncomputable def miss0 (sv : Bool) : Miss := { va := 0x30000, inc := 7, qtr := 3, prv := false, x := false, w := true, r := false, service := sv }
noncomputable def pend0 (k : PendKind) : Pend := { kind := k, accs := [9], frame := 3, d := 6, next := 0x48 }
/-- A leaf's checks are passed, to this address. -/
def okIs' (r : Chk) (pa : Nat) : Bool := match r with
  | .ok x => x == pa
  | .bad .. => false
/-- TranslationWordResults: a waiting entry behind one in service, and none; a load that waits for the page, and a retried store in flight; leaves that map and do not map, for a page and a block; TLBI of a core and of the bay; a TLBI all of whose accesses are done. -/
theorem wit_TranslationWordResults :
    (let s := pkg { core1 (trapC []) with mq := [miss0 true, miss0 false] }
     (s.core 0).mq = [miss0 true] ++ miss0 false :: [] ∧ (∀ e ∈ [miss0 true], e.service = true) ∧ (miss0 false).service = false) ∧
    (∀ e ∈ ((one (trapC [])).core 0).mq, e.service = true) ∧
    (let A : Access := { acc0 (.thread 0 1 0) .load .missed with form := 0x3FFFC, ea := 0x3FFFC, looked := true, lanes := [0], next := 0x88 }
     let y := crs { rdy with st := .parked 9 }
     let s := { pkg { core1 (trapC [(4, 0x30000), (5, 0x3001F)]) with courses := [(0, trapC [(4, 0x30000), (5, 0x3001F)]), (1, y)], mq := [miss0 true] } with accs := [A] }
     (∀ B ∈ s.accs, B = A) ∧ (s.core 0).heldPages = [] ∧ A.dest ≠ .again ∧ A.issv = false ∧ miss0 true ∈ (s.core 0).mq ∧ (miss0 true).va.toNat / 2 ^ zBits 0 = 0x30000 / 2 ^ zBits 0 ∧
       (miss0 true).va.toNat / 65536 = A.ea.toNat / 65536 ∧ (0x3001F#64).toNat / 65536 % 2 ^ 32 * 65536 % 2 ^ zBits 0 = 0 ∧ okIs' (leafCheck s 0 0x3001F A.ea.toNat .load A.prv) 0x3FFFC = true ∧
       (s.lane 0 1 0).st = .parked A.id) ∧
    (∀ a ∈ [0x30000, 3], let A : Access := { acc0 (.thread 0 1 0) .store (.flight 0x3FFFC) with form := 0x3FFFC, ea := 0x3FFFC, retried := true }
     let s := { one (trapC []) with accs := [A] }
     (∀ B ∈ s.accs, ∀ C ∈ s.accs, B.id = C.id → B = C) ∧ isPeer 0x3FFFC = false ∧ untranslated A.ag = false ∧ tlbCore? s A.ag = some 0 ∧ (a % 4 = 3 ∨ A.ea.toNat / 2 ^ zBits (a % 4) = (a - a % 4) / 2 ^ zBits (a % 4))) ∧
    (∀ a ∈ [0x30000, 0x20000001, 0x00FFFC0000000002], let z := a % 4
     let va := a - z
     (trapC [(4, BitVec.ofNat 64 a)]).prv = true ∧ (one (trapC [])).accs = [] ∧ ((one (trapC [])).core 0).heldPages = [] ∧ va < 2 ^ 56 ∧ va % 2 ^ zBits z = 0) ∧
    (let A : Access := { acc0 (.thread 0 1 0) .store (.flight 0x3FFFC) with form := 0x2003FFFC, ea := 0x2003FFFC, retried := true }
     let e : TlbE := { va := 0x20000000, z := 1, leaf := 0x1F }
     let s := { pkg { core1 (trapC []) with tlb := [e] } with accs := [A] }
     e ∈ (s.core 0).tlb ∧ e.overlaps 0x20000000 0 = true ∧ e.covers A.ea.toNat = true ∧ A.ea.toNat / 2 ^ zBits 0 ≠ 0x20000000 / 2 ^ zBits 0 ∧ tlbCore? s A.ag = some 0) ∧
    ((0x1001F#64).getLsbD 0 = true ∧ (0x1001F#64).getLsbD 1 = true ∧ (0x1001F#64).toNat / 65536 % 2 ^ 32 * 65536 % 2 ^ zBits 0 = 0 ∧ ¬ (0#64).getLsbD 0 = true) ∧
    (∀ b ∈ [0, 1], ((trapC [(5, BitVec.ofNat 64 b)]).u.rs 5).toNat < 2) ∧
    (let x : Course := { trapC [] with lanes := [{ rdy with st := .pend (pend0 .tlbi) }] }
     (one x).course? 0 0 = some x ∧ (pend0 .tlbi).kind = .tlbi ∧ (x.lane 0).st = .pend (pend0 .tlbi) ∧ accsDone (one x) [9] = true ∧
       (let A := acc0 (.thread 0 1 0) .store (.flight 0x10000); A.id ∈ (pend0 .tlbi).accs ∧ A.ph.unperformed = true)) := by decide +kernel
theorem wit_onlyWait (k : PendKind) : OnlyWait { trapC [] with lanes := [{ rdy with st := .pend (pend0 k) }] } (pend0 k) := by
  refine ⟨⟨0, by decide, rfl⟩, fun l q h _ => ?_⟩
  match l with
  | 0 => exact (LaneSt.pend.inj h).symm
  | n + 1 => cases h

/-- A bay with an object table of 2^10 buckets at 0x80000 and a frame table of 4 frames at 0x20000. -/
noncomputable def bayO (rev : List Revoked := []) : Bay := { formed := true, inc := 7, otBase := 0x80000, otb := 10, ftBase := 0x20000, fcnt := 4, revoked := rev }
/-- A name, the descriptor of a request that maps it, and the entry of frame 3 in a state. -/
noncomputable def name0 : W128 := BitVec.ofNat 128 (5 * 2 ^ 112 + 9 * 2 ^ 48)
noncomputable def descr0 (mode : Nat) : List Byte := natBytes 32 (name0.toNat * 2 ^ 128 + 0x900000 * 2 ^ 64 + 0x1000 * 2 ^ 32 + mode * 2 ^ 23)
noncomputable def frame3 (st gen : Nat) : List Byte := natBytes 32 (name0.toNat * 2 ^ 128 + 0x900000 * 2 ^ 64 + 0x1000 * 2 ^ 32 + gen * 2 ^ 28 + st * 2 ^ 25)
noncomputable def bucketN : Nat := (9 ^^^ (5 * 2 ^ 17)) % 2 ^ 10
/-- The bucket of the name, which names frame 3, or is in another state. -/
noncomputable def sObj (x : Course) (rev : List Revoked) (fst : Nat) (bst : Nat) : State :=
  (((pkg (core1 x) iss0 (bayO rev)).writeBytes 0x10000 (descr0 1)).writeBytes 0x20060 (frame3 fst 4)).writeBytes (0x80000 + 32 * bucketN)
    (natBytes 32 ((if bst = 1 then name0.toNat else 0) * 2 ^ 128 + 3 * 2 ^ 34 + bst))
noncomputable def xObj (f form : Nat) : Course := trapC [(20, 0x10000), (21, BitVec.ofNat 64 f), (22, BitVec.ofNat 64 form)]
/-- ObjectWordResults, OBJMAP: the descriptor read; a revoked name; a name that is mapped to a resident and to a vacated frame; a name that is not, with the frame out of range, in use, absent and vacated. -/
theorem wit_ObjectWordResults_map :
    (∀ st ∈ [0, 1, 2, 3, 4], readsAs (opReadSec (sObj (xObj 3 0) [] st 1) iss0 0x10000 32) (descr0 1) = true) ∧
    (leNum (descr0 1) / 2 ^ 128 = name0.toNat ∧ leNum (descr0 1) / 2 ^ 23 % 4 ≠ 2 ∧ ((xObj 3 0).u.rs 20).toNat % 32 = 0) ∧
    (∃ e ∈ ((sObj (xObj 3 0) [⟨name0, 3, 0, false⟩] 2 1).bay 0).revoked, nameKey e.name = nameKey name0) ∧ ¬ (∃ e ∈ ((sObj (xObj 3 0) [] 2 1).bay 0).revoked, nameKey e.name = nameKey name0) ∧
    (probe (sObj (xObj 3 0) [] 2 1) 0 name0 = some 3 ∧ frameState (sObj (xObj 3 0) [] 2 1) 0 3 ≠ 4 ∧ frameState (sObj (xObj 3 0) [] 4 1) 0 3 = 4) ∧
    (probe (sObj (xObj 3 0) [] 0 0) 0 name0 = none ∧ ((sObj (xObj 4 0) [] 0 0).bay 0).fcnt ≤ 4 ∧ (frameState (sObj (xObj 3 0) [] 1 0) 0 3 ≠ 0 ∧ frameState (sObj (xObj 3 0) [] 1 0) 0 3 ≠ 4) ∧
      frameState (sObj (xObj 3 0) [] 0 0) 0 3 = 0 ∧ (freeBucket (sObj (xObj 3 0) [] 0 0) 0 name0).isSome = true) := by decide +kernel
/-- ObjectWordResults: a request in MODE 2, for an absent frame and for a vacated one; the bucket of the name, which the probe hits first. -/
theorem wit_ObjectWordResults_mode :
    (∀ m ∈ [1, 2], ∀ e ∈ [(0, 0), (4, 1)], let s := after (opReadSec ((sObj (xObj 3 0) [] e.1 e.2).writeBytes 0x10000 (descr0 m)) iss0 0x10000 32)
     readsAs (opReadSec ((sObj (xObj 3 0) [] e.1 e.2).writeBytes 0x10000 (descr0 m)) iss0 0x10000 32) (descr0 m) = true ∧ leNum (descr0 m) / 2 ^ 23 % 4 = m ∧ objmapBad s 0 3 (leNum (descr0 m)) = none ∧
       (s.bay 0).otb ≠ 0 ∧ frameState s 0 3 = e.1 ∧ (∀ A ∈ s.accs, A.ph ≠ .frame) ∧ bucketVal s 0 (bucketOf s 0 name0 0) % 4 = e.2 ∧ bucketOf s 0 name0 0 = bucketN) ∧
    TablesApart (sObj (xObj 3 0) [] 0 0) 0 ∧ HitAt (sObj (xObj 3 0) [] 4 1) 0 name0 0 bucketN 3 := by
  refine ⟨by decide +kernel, .inr (by decide +kernel), by decide, by decide +kernel, ⟨by decide +kernel, by decide +kernel⟩, by decide +kernel, nofun⟩
/-- Where every bucket of the probe holds another name, none is free. -/
theorem wit_ObjectWordResults_full :
    let s := (pkg (core1 (xObj 3 0)) iss0 { bayO with otb := 0 }).writeBytes 0x20060 (frame3 0 4)
    probe s 0 name0 = none ∧ frameState s 0 3 = 0 ∧ freeBucket s 0 name0 = none := by decide +kernel
/-- ObjectWordResults, OBJUNMAP and OBJSTAT: a frame out of range, one in another state, and one in the state of each form; the end of each wait. -/
theorem wit_ObjectWordResults_unmap :
    (∀ f ∈ [(0, 2), (1, 3), (2, 4)], let s := sObj (xObj 3 f.1) [] f.2 1
     ((xObj 3 f.1).u.rs 21).toNat < 2 ^ 22 ∧ ((xObj 3 f.1).u.rs 22).toNat = f.1 ∧ f.1 < 3 ∧ 3 < (s.bay 0).fcnt ∧ frameState s 0 3 = f.2 ∧ frameState s 0 3 = f.1 + 2) ∧
    ((sObj (xObj 4 0) [] 2 1).bay 0).fcnt ≤ 4 ∧ frameState (sObj (xObj 3 0) [] 1 1) 0 3 ≠ 0 + 2 ∧
    ((bayO).ftBase + 32 * (bayO).fcnt ≤ (bayO).otBase) ∧
    (∀ k ∈ [PendKind.unmapDrain, .unmapVacate], let x : Course := { trapC [] with lanes := [{ rdy with st := .pend (pend0 k) }] }
     (sObj x [] 3 1).course? 0 0 = some x ∧ (pend0 k).kind = k ∧ accsDone (sObj x [] 3 1) [9] = true ∧ (pend0 k).frame < ((sObj x [] 3 1).bay ((sObj x [] 3 1).bayOf 0)).fcnt ∧
       frameState (sObj x [] 3 1) 0 3 = 3) ∧
    ((60#6).toNat % 4 = 0 ∧ ((xObj 3 0).u.rs 21).toNat < (bayO).fcnt ∧ (bayO).fcnt ≤ ((xObj 4 0).u.rs 21).toNat) := by decide +kernel

/-- HarvestResults: a leaf that maps, with its page in a slice's record, with a slice saturated, and with neither; a leaf that maps nothing. -/
theorem wit_HarvestResults :
    let s := fun (e : Nat) (sl : List (Nat × Slice)) => { (pkg (core1 (trapC [(4, 0x10008), (5, 15)]))).writeBytes 0x10008 (natBytes 8 e) with slices := sl }
    ((trapC [(4, 0x10008), (5, 15)]).u.rs 4).toNat % 8 = 0 ∧ ((trapC [(4, 0x10008), (5, 15)]).u.rs 5).toNat < 16 ∧
    (let e : W64 := BitVec.ofNat 64 ((s 0x70003 []).readNat (canonPa (s 0x70003 []) 0x10008) 8)
     e.getLsbD 0 = true ∧ e.getLsbD 1 = true ∧ e.toNat / 65536 % 2 ^ 32 = 7) ∧
    (BitVec.ofNat 64 ((s 0 []).readNat (canonPa (s 0 []) 0x10008) 8)).getLsbD 0 = false ∧
    (∃ y ∈ (s 0x70003 [(0, { dirty := [7] })]).slices, 7 ∈ y.2.dirty) ∧ (∃ y ∈ (s 0x70003 [(0, { sat := true })]).slices, y.2.sat = true) := by decide +kernel

/-- A second course, in slot 1, of a second block, number 1. -/
noncomputable def two (x y : Course) (bl2 : Block) (b : Bay := bayP) : State :=
  pkg { core1 x with courses := [(0, x), (1, y)], blocks := [(0, { slots := [0], threads := 1, vregs := 63 }), (1, bl2)] } iss0 b
noncomputable def crs2 (st : LaneSt) : Course := { crs { rdy with st := st } with blk := 1 }
/-- PreemptionResults: a running block with a waiting course; a course whose yield trap is due, in each kind of wait; HALT in a save trap; a block whose courses have halted; a swapped-out block where it fits. -/
theorem wit_PreemptionResults :
    (let x := trapC [(4, 0x100), (5, 0x10000)]
     let bl : Block := { slots := [1], threads := 1, vregs := 63 }
     let s := two x (crs2 .monitor) bl
     (x.u.rs 4).toNat < 2 ^ 17 ∧ (x.u.rs 5).toNat % 64 = 0 ∧ (x.u.rs 4).toNat % 256 = 0 ∧ (x.u.rs 4).toNat / 256 = 1 ∧ s.block? 0 1 = some bl ∧ bl.bay = s.bayOf 0 ∧ bl.st = .running ∧ bl.dir = none ∧
       0 ∉ bl.slots ∧ ∃ l, l < 8 ∧ ((crs2 .monitor).lane l).st ≠ .exited) ∧
    (∀ st ∈ [LaneSt.ready, .phase 1 0x44, .woken, .future 0 4 0x44 5, .arriving 1 0x44, .barrier ⟨.w, false, false, 0, 1, 0, 0x44⟩], let y : Course := { crs2 st with yield := true }
     let bl : Block := { slots := [1], threads := 1, vregs := 63, st := .saving, save := 0x10000, image := some [3] }
     let s := paged ((two (trapC []) y bl).writeBytes 0x10000 (natBytes 8 0x300))
     s.course? 0 1 = some y ∧ s.block? 0 y.blk = some bl ∧ y.yield = true ∧ y.trap = none ∧ y.issv = [] ∧ y.accOps = [] ∧ bl.image = some [3] ∧ accsDone s [3] = true ∧ s.accs = [] ∧
       readsAs (bayRead s (.core 0) true [1, 1] bl.save 2 8 bl.save []) (natBytes 8 0x300) = true) ∧
    ({ trapC [] with cause := 1 } : Course).cause = 1 ∧
    (let bl : Block := { slots := [1], threads := 1, vregs := 63, st := .saving }
     let s := two (crs rdy) (crs2 .halted) bl
     s.block? 0 1 = some bl ∧ bl.st = .saving ∧ bl.slots ≠ [] ∧ s.course? 0 1 = some (crs2 .halted) ∧ (∀ ln ∈ (crs2 .halted).lanes, ln.st = .exited ∨ ln.st = .halted) ∧
       (∃ ln ∈ (crs2 .halted).lanes, ln.st = .halted) ∧ blkJobs s 0 1 = false ∧ tilesQuiet s 0 1 = true ∧ (∀ k ∈ bl.slots, courseReleased s 0 k = true) ∧ bl.arrivals = [] ∧
       (s.bay bl.bay).notices.length + (s.bay bl.bay).reserved < 4096) ∧
    (let x := trapC [(4, 0x100), (5, 0x10000)]
     let bl : Block := { slots := [], threads := 9, vregs := 63, st := .swapped }
     let s := two x (crs2 .ready) bl
     s.block? 0 1 = some bl ∧ bl.st = .swapped ∧ readsAs (opReadSec s iss0 0x10008 8) (natBytes 8 0) = true ∧ ((pickSlots ((after (opReadSec s iss0 0x10008 8)).core 0) ((bl.threads + 7) / 8)).isSome = true) ∧ fits ((after (opReadSec s iss0 0x10008 8)).core 0) bl = true ∧
       x.active = true ∧ (∀ ks, pickSlots ((after (opReadSec s iss0 0x10008 8)).core 0) ((bl.threads + 7) / 8) = some ks → ks.Nodup ∧ 0 ∉ ks)) := by
  refine ⟨by decide +kernel, by decide +kernel, rfl, by decide +kernel, by decide +kernel, by decide +kernel, by decide +kernel, by decide +kernel, by decide +kernel, by decide +kernel, fun ks h => ?_⟩
  have e : pickSlots ((after (opReadSec (two (trapC [(4, 0x100), (5, 0x10000)]) (crs2 .ready) { slots := [], threads := 9, vregs := 63, st := .swapped }) iss0 0x10008 8)).core 0) 2 = some [2, 128] := by decide +kernel
  rw [show ((9 + 7) / 8 : Nat) = 2 from rfl, e] at h
  cases h
  decide

/-- PrivilegedWordsFault: a course without privilege, with one record's room left. -/
theorem wit_PrivilegedWordsFault : let s := pkg { core1 (crs rdy) with recs := List.replicate 15 {} }
    CourseIssues s iss0 0 0 (crs rdy) ∧ (crs rdy).u.rq 7 = true ∧ (crs rdy).prv = false ∧ (s.core 0).recs.length < 16 := ⟨⟨rfl, rfl, rfl⟩, by decide, rfl, by decide⟩

/-- A block with a sequencer, which issues. -/
noncomputable def blkS (q : Seq) (r : List (Nat × W32) := []) : Block := { slots := [0], threads := 8, vregs := 63, nbar := 2, accu := 2, seq := some q, bars := [(1, ⟨0, 2, 0⟩)], rows := r }
noncomputable def siss : Issue := { who := .seq 0 0, pc := 0x80, wpc := 0x80, next := 0x84, id := 5 }
noncomputable def oneS (q : Seq) : State := pkg (core1 (crs rdy [(6, 2)]) (blkS q)) siss
/-- MatrixWordResults: fragments at the block's last registers and its last accumulator; course 0 with a live lane and without; the last barrier; a wait that goes on and one that waits. -/
theorem wit_MatrixWordResults :
    SeqIssues (oneS {}) siss 0 0 {} ∧ (oneS {}).block? 0 0 = some (blkS {}) ∧
    ((48#6).toNat + fragN ({} : Seq).ta - 1 ≤ (blkS {}).vregs ∧ (56#6).toNat + fragN 2 - 1 ≤ (blkS {}).vregs ∧ fragErr (oneS {}) 0 (blkS {}) 48 (fragN ({} : Seq).ta) = false ∧ fragErr (oneS {}) 0 (blkS {}) 56 (fragN 2) = false ∧
      fragErr (oneS {}) 0 (blkS {}) 63 1 = false ∧ (1#6).toNat < (blkS {}).accu) ∧
    course0Is (oneS {}) 0 (blkS {}) 6 2 ∧ course0Is (oneS {}) 0 { blkS {} with slots := [9] } 6 0 ∧ (1#10).toNat < (blkS {}).nbar ∧
    (let ahead := fun (p w : BitVec 16) => (p.toNat + 2 ^ 16 - w.toNat) % 2 ^ 16
     1 ≤ ahead 1 0 ∧ ahead 0x7FFF 0 ≤ 32767 ∧ ahead 0 0xFFFF = 1 ∧ ¬ 1 ≤ ahead 3 3) := by
  refine ⟨⟨rfl, rfl, rfl⟩, rfl, by decide +kernel, ?_, rfl, by decide, by decide⟩
  unfold course0Is
  rw [show (oneS {}).course? 0 ((blkS {}).slots.headD 512) = some (crs rdy [(6, 2)]) from rfl]
  simp only []
  rw [if_pos (by decide +kernel)]
  rfl

/-- MatrixUpdateRoundsOnce: fragments of ones and finite scales, whose sum is not 0; a NaN in the accumulator, in a scale and in an element. -/
theorem wit_MatrixUpdateRoundsOnce :
    (∀ k, k < 64 → elemVal 0 (List.replicate 16 0x38383838) k = .fin false 8 (-3)) ∧ f32 0x3F800000 = .fin false 0x800000 (-23) ∧
    isNan (f32 0x7FC00001) = true ∧ isNan (f32 0) = false ∧ fragK 0 = 64 ∧ isNan (elemVal 0 (List.replicate 16 0x7F383838) 63) = true := by decide +kernel

noncomputable def opZ (i : Nat) : SeqOp := { id := i, kind := .mzero }
noncomputable def opA (i : Nat) (dr : Bool) : SeqOp := { id := i, kind := .arrive 1 dr }
noncomputable def opE (i : Nat) : SeqOp := { id := i, kind := .mend }
/-- MatrixStepResults: an update owed with nothing earlier owed, at the last element, and one behind another; a wait that is met; an arrival first in line, and one with DRAIN behind an update; MEND alone and behind an update. -/
theorem wit_MatrixStepResults :
    (let q : Seq := { ops := [opZ 4, opZ 5] }
     (oneS q).block? 0 0 = some (blkS q) ∧ (blkS q).seq = some q ∧ q.ops.find? (fun y => y.id == 4 && y.owes 63 63) = some (opZ 4) ∧ (∀ y ∈ q.ops, y.id < 4 → y.owes 63 63 = false) ∧ (opZ 4).kind = .mzero ∧ rowErr (oneS q) 0 0 (64 * 63 + 63) 1 = false ∧
       (∃ y ∈ q.ops, y.id < 5 ∧ y.owes 0 0 = true)) ∧
    (let q : Seq := { run := .waiting, waitAt := some (1, 0, 0x84), w := [(0, 0xFFFF)] }
     q.waitAt = some (1, 0, 0x84) ∧ q.stop = none ∧ q.stopped = false ∧ ((((blkS q).bar 1).phase.toNat + 2 ^ 16 - (mget q.w 0 0).toNat) % 2 ^ 16) = 1) ∧
    (let q : Seq := { ops := [opA 4 false, opZ 5] }
     (opA 4 false).kind = .arrive 1 false ∧ q.ops.head? = some (opA 4 false) ∧ (∀ y ∈ q.ops.tail, (opA 4 false).id < y.id) ∧ (blkS q).dir = none ∧ (blkS q).st ≠ .swapped ∧ (((blkS q).bar 1).count + 1).toNat < ((blkS q).bar 1).expect.toNat) ∧
    (let q : Seq := { ops := [opZ 4, opA 5 true] }
     opA 5 true ∈ q.ops ∧ (∃ y ∈ q.ops, y.id < (opA 5 true).id ∧ y.kind = .mzero)) ∧
    (let q : Seq := { ops := [opE 6] }
     (opE 6).kind = .mend ∧ q.ops = [opE 6]) ∧
    (let q : Seq := { ops := [opZ 4, opE 6] }
     opE 6 ∈ q.ops ∧ (∀ y ∈ q.ops, y.kind = .mend → y = opE 6) ∧ (∃ y ∈ q.ops, y.id < (opE 6).id ∧ y.kind = .mzero)) := by decide +kernel

/-- A layout record of slot 3: 8 by 2 elements of 4 bytes, generation 5. -/
noncomputable def rec0 : Nat := 0x10800 * 2 ^ 448 + 4 * 2 ^ 320 + 32 * 2 ^ 352 + 8 * 2 ^ 192 + 2 * 2 ^ 224 + 1 * 2 ^ 256 + 1 * 2 ^ 288 + 5 * 2 ^ 180 + 1 * 2 ^ 176 + 2 * 2 ^ 172
noncomputable def lay0 : Layout := layoutOf 0x100C0 rec0
/-- s2: tile 1 (empty) with an arrival at barrier 3, the block's last; s3: tile 2 (ready); s4: the record with the last cursor in s5; s6: a count of 16. -/
noncomputable def jx : Job :=
  job1 [(2, 0x8003000000980001), (3, 0x00980002), (4, 0x3005), (5, 0x10007), (6, 16), (8, 0x3005), (10, 0x10000), (12, 0x18000), (13, 0x200), (14, 1), (16, 3)]
noncomputable def sL : State := ((oneJ jx).writeBytes 0x100C0 (natBytes 64 rec0)).writeBytes 0x20060 (frame3 1 4)
noncomputable def sL1 : State := after (opReadSecs sL jiss 0x100C0 2 [])
noncomputable def sL2 : State := after (opReadSecs sL1 jiss 0x100C0 2 [])
theorem readIs {s : State} {v : List Byte} (h : readsAs (opReadSecs s jiss 0x100C0 2 []) v = true) :
    opReadSecs s jiss 0x100C0 2 [] = .ok (after (opReadSecs s jiss 0x100C0 2 [])) v := by
  cases e : opReadSecs s jiss 0x100C0 2 [] <;> rw [e] at h <;> simp_all [readsAs, after]
theorem layoutReads {s s' : State} {h va : W64} {v : List Byte} {l : Layout} (hs : h.toNat / 4096 % 2 ^ 20 < (s.bay (s.bayOf 0)).laySlots)
    (e : (s.bay (s.bayOf 0)).layBase + BitVec.ofNat 64 (64 * (h.toNat / 4096 % 2 ^ 20)) = va) (r : opReadSecs s jiss va 2 [] = .ok s' v)
    (hl : l = layoutOf va (leNum v)) (hg : l.gen = h.toNat % 4096) (hi : l.inRange = true) : LayoutRead s jiss 0 h s' l := by
  subst e; exact ⟨hs, v, r, hl, hg, hi⟩
theorem layoutRead : LayoutRead sL jiss 0 0x3005 sL1 lay0 ∧ LayoutRead sL1 jiss 0 0x3005 sL2 lay0 :=
  ⟨layoutReads (v := natBytes 64 rec0) (by decide +kernel) (by decide +kernel) (readIs (by decide +kernel)) (by decide +kernel) (by decide +kernel) (by decide +kernel),
    layoutReads (v := natBytes 64 rec0) (by decide +kernel) (by decide +kernel) (readIs (by decide +kernel)) (by decide +kernel) (by decide +kernel) (by decide +kernel)⟩
noncomputable def tileE : Tile := { blk := 0, tile := 1, bset := 0, len := 1, st := .empty, gen := 9, data := [] }
theorem jobIsL : JobIssues sL jiss 0 0 jx := ⟨rfl, rfl, rfl⟩
/-- TransferWordsStart: the job, the record and the last cursor; a tile operand and an arrival that no check refuses; with ARR and without; a tile in each state; nothing in flight. -/
theorem wit_TransferWordsStart :
    (jx.u.rq 7 = true ∧ lay0.pos? (jx.u.rs 5) = some 15 ∧ 16 ≤ 2 ^ 24 ∧ lay0.esz = 2 ∧ lay0.pos? 0 = some 0) ∧
    ((jx.u.rs 2).toNat / 2 ^ 58 % 32 = 0 ∧ (jx.u.rs 2).getLsbD 63 = true ∧ (jx.u.rs 2).toNat / 2 ^ 48 % 1024 = 3) ∧ opndOk sL 0 jx (jx.u.rs 3) 16 ∧ opndOk sL 0 jx (jx.u.rs 2) 16 ∧
    (okIs (tileNamed (sL1.core 0) 0 ((jx.u.rs 2).setWidth 32) 3) (6, tileE) = true ∧ mget? (sL1.core 0).tiles 6 = some tileE ∧ 32 * 0 + 16 * 4 ≤ 256 * tileE.len) ∧
    (okIs (tileNamed (sL1.core 0) 0 ((jx.u.rs 3).setWidth 32) 3) (7, tile2) = true ∧ mget? (sL1.core 0).tiles 7 = some tile2 ∧ ∀ i, i < 16 → tileErr sL1 0 7 (tileByte (jx.u.rs 3) lay0 i) 4 = false) ∧
    (∀ rd ∈ [none, spanOf sL1 0 (lay0.addrs 15 16) 4 false], ∀ wr ∈ [none, spanOf sL1 0 (lay0.addrs 15 16) 4 true], xferHeld jx rd wr = false) ∧
    ((jx.u.rs 13).toNat < 2 ^ 10 ∧ (jx.u.rs 13).toNat / 256 % 2 = 0 ∧ 0x3FF < 2 ^ 10 ∧ 0x3FF / 256 % 2 = 1 ∧ classAddr 0x0100800000001000 = .peer) ∧
    (jx.prv = true ∧ (jx.u.rs 16).toNat % 2 ^ 22 < (sL.bay 0).fcnt ∧ frameState sL 0 3 = 1 ∧ frameBad sL 0 3 = none ∧
      xferHeld jx (some { lo := 0x10000, hi := 0x10000 + frameLen sL 0 3 - 1, wr := false }) (some { lo := (frameBase sL 0 3).toNat, hi := (frameBase sL 0 3).toNat + frameLen sL 0 3 - 1, wr := true }) = false) ∧
    ((jx.u.rs 14).toNat % 1024 + 1 ≤ 64 * 1) := by
  refine ⟨by decide +kernel, by decide +kernel, ⟨by decide +kernel, by decide, fun h => absurd h (by decide +kernel)⟩, ⟨by decide +kernel, by decide, fun _ => ⟨_, rfl, by decide +kernel⟩⟩, ?_⟩
  decide +kernel

/-- What a map literal holds is in it. -/
theorem mget?_mem {α : Type} : ∀ (m : Map α) (k : Nat) (v : α), mget? m k = some v → (k, v) ∈ m
  | [], _, _, h => by simp at h
  | (j, x) :: m, k, v, h => by
    by_cases e : j = k
    · simp [mget?, e] at h
      simp [e, h]
    · simp [mget?, e] at h
      exact List.mem_cons_of_mem _ (mget?_mem m k v h)
noncomputable def jt (u : List (Nat × W64)) (n : Nat := 0) : Job := { job1 u with locks := (List.range n).map (fun i => (i, { lo := 0, hi := 0, wr := false })) }
/-- BattenControlWordResults: cursors of the first and the last element of a region of 8 by 2; a step of a cursor; a pattern for an empty tile, with and without an arrival; the last free of eight locks with the least and the
greatest length; a job with nothing in flight that ends, with and without an arrival. -/
theorem wit_BattenControlWordResults :
    (lay0.inRange = true ∧ lay0.ext.length = 4 ∧ lay0.stride.length = 4 ∧ ∀ cur ∈ [0, 0x10007], ∀ k, k < 4 → (BitVec.ofNat 64 cur).toNat / 2 ^ (16 * k) % 65536 < lay0.ext.getD k 0) ∧
    (jx.u.rq 7 = true ∧ lay0.pos? (jx.u.rs (8 + 1)) = some 0) ∧
    (let j := job1 [(3, 0x00980001)]
     j.u.rq 7 = true ∧ (j.u.rs 3).toNat / 2 ^ 58 % 32 = 0 ∧ (j.u.rs 3).getLsbD 63 = false ∧ okIs (tileNamed ((oneJ j).core 0) 0 ((j.u.rs 3).setWidth 32) 3) (6, tileE) = true ∧ xferHeld j none none = false ∧
       mget? ((oneJ j).core 0).tiles 6 = some tileE ∧ tileE.st = .empty) ∧
    (let j := job1 [(3, 0x8003000000980001)]
     (j.u.rs 3).toNat / 2 ^ 58 % 32 = 0 ∧ (j.u.rs 3).getLsbD 63 = true ∧ (j.u.rs 3).toNat / 2 ^ 48 % 1024 = 3 ∧
       (((oneJ j).block? 0 0).map (fun bl => decide (3 < bl.nbar ∧ bl.dir = none ∧ bl.st ≠ .swapped))) = some true) ∧
    (∀ n ∈ [1, 2 ^ 48 - 1], let j := jt [(6, BitVec.ofNat 64 (2 ^ 63 + n))] 7
     mget? j.locks 7 = none ∧ (∀ m, m < 7 → (mget? j.locks m).isSome) ∧ (j.u.rs 6).toNat % 2 ^ 48 ≠ 0) ∧
    (let j := job1 [(6, 1)]
     (j.u.rs 6).getLsbD 63 = false ∧ (∀ x ∈ j.xfers, x.perf = true ∧ x.trans = false) ∧ j.frames = [] ∧ relPassed (oneJ j) (.job 0 0) 7 = true ∧ (mget? ((oneJ j).core 0).futs j.fut).isSome) ∧
    ((job1 [(6, 0x8000000000000003)]).u.rs 6).getLsbD 63 = true ∧ ((job1 [(6, 0x8000000000000003)]).u.rs 6).toNat % 1024 = 3 := by
  decide +kernel

noncomputable def xfer0 (k : XKind) (els : List XElem) : Xfer :=
  { id := 4, place := 0, kind := k, pc := 0x80, elems := els, ent := some 6, swz := 0, arr := none, rd := none, wr := none, trans := true, replays := 3, sig := false, ridge := none, frame := none }
noncomputable def jobX (x : Xfer) : Job := { job1 with xfers := [x] }
noncomputable def elD (ph : XPhase) : XElem := { src := .mem 0x10000, dst := .tile 0, size := 4, ph := ph }
/-- BattenStepResults: a queued job of 56 registers and a free processor; transfers with every element done and a tile to change, a drain with none left, a fill with a bad sector and three tries made; a BACCD with its second element to be read. -/
theorem wit_BattenStepResults :
    (let r : JobReq := { fut := 3, blk := 0, slot := 0, prv := false, pc := 0x80, args := List.replicate 56 1, acq := 0 }
     let s := pkg { coreJ (job1 []) with procs := [(0, { queue := [r] })] } jiss
     (s.proc 0 0).job = none ∧ (s.proc 0 0).queue = [r] ∧ (mget? (s.core 0).futs r.fut).isSome) ∧
    (∀ k ∈ [XKind.btld, .bgath, .bcopy, .bfetch, .brem, .btst, .bscat], let x := xfer0 k [elD .done]
     ((oneJ (jobX x)).job? 0 0) = some (jobX x) ∧ (jobX x).xfers.filter (fun y => y.id == 4) = [x] ∧ (∀ el ∈ x.elems, el.ph = .done) ∧ x.kind ≠ .baccd ∧ x.ent = some 6 ∧ x.trans = true ∧
       x.arr = none ∧ (mget? ((oneJ (jobX x)).core 0).tiles 6).isSome) ∧
    (xfer0 .btst []).elems = [] ∧
    (let x := xfer0 .btld [elD .read]
     let a := { acc0 (.job 0 0) .bread (.flight 0x10000) with dest := .xfer 4 0 }
     let s := { oneJ (jobX x) with accs := [a], bad := [.memory (canonPa (oneJ (jobX x)) 0x10000 / 32) 1] }
     s.job? 0 0 = some (jobX x) ∧ s.accs.find? (fun y => y.id == 9) = some a ∧ a.ag = .job 0 0 ∧ fillRead s a = true ∧ isPeer 0x10000 = false ∧ (badSector s (canonPa s 0x10000 / 32)).isSome ∧
       x.replays < 4) ∧
    (let el := fun (k : XLoc) => ({ src := k, dst := .mem 0x10000, size := 4 } : XElem)
     let x := { xfer0 .baccd [el (.bytes [1, 2, 3, 4]), el (.tile 63), el (.tile 64)] with ent := none }
     let s := oneJ (jobX x)
     s.job? 0 0 = some (jobX x) ∧ (jobX x).xfers.filter (fun y => y.id == 4) = [x] ∧ x.elems[1]? = some (el (.tile 63)) ∧ x.elems[0]? = some (el (.bytes [1, 2, 3, 4])) ∧ (s.block? 0 0).isSome ∧
       rowErr s 0 0 63 1 = false) := by decide +kernel

noncomputable def actC (act : Bool) (st : LaneSt) (since : Nat) : Course := { crs { rdy with st := st } with active := act, since := since }
noncomputable def coreCs (cs : Map Course) (b : Bay := { formed := true, inc := 7 }) : State := pkg { core1 (crs rdy) with courses := cs } iss0 b
noncomputable def hdr0 : Nat := 0x1000 + 0x2000 * 2 ^ 64 + 0x77 * 2 ^ 128 + 0x19000 * 2 ^ 256 + 3 * 2 ^ 320 + 3 * 2 ^ 326 + 1 * 2 ^ 332 + 2 * 2 ^ 356 + 3 * 2 ^ 359 + 63 * 2 ^ 362 + 4 * 2 ^ 368 + 512 * 2 ^ 377 + 2 * 2 ^ 389 + 1 * 2 ^ 415 + 0xABCD * 2 ^ 448
noncomputable def reg0 : Nat := 0x90000 + 256 * 2 ^ 64 + 2 * 2 ^ 96 + 3 * 2 ^ 112
noncomputable def sp0 : SpawnE := { jseq := 6, fence := false, addr := 0x18000, prv := false, core := 0, slot := 0 }
noncomputable def lev (e : SpawnE) : Bay := { bayP with levels := [(3, [e])] }
noncomputable def sPar : State := ((coreCs [] (lev sp0)).writeBytes 0x18000 (natBytes 64 hdr0)).writeBytes 0x19000 (natBytes 16 reg0)
/-- A header and its list of regions read as these. -/
def parseReads (s : State) (e : SpawnE) (h : List Byte) (list : W64) (n : Nat) (rs : List Region) : Bool :=
  match bayRead s (.bayq 0) e.prv [3, e.jseq] e.addr 2 64 e.addr [] with
  | .ok s1 v => v == h && (match regionsRead 0 e.prv [3, e.jseq] list n s1 [] with
    | .ok (_, r) => r == rs
    | .error _ => false)
  | _ => false
noncomputable def fen0 : SpawnE := { sp0 with fence := true }
noncomputable def fen1 (cmp : Nat) : SpawnE := { fen0 with parsed := true, conds := List.replicate 12 (cmp, 0x18000, 0), latched := (List.range 12).tail }
noncomputable def ji0 : JobInfo :=
  { jseq := 6, tag := 0xABCD, note := true, done := 0, prv := false, lvl := 3, nblk := 4, left := 1, blkThreads := 64, clSize := 2, widBits := 6, hv := false, hcol := 0,
    proto := { st := .placed, threads := 64, vregs := 63, nbar := 2, jseq := 6 }, core := 0, slot := 0 }
noncomputable def sPl : State := pkg {} iss0 { lev { sp0 with parsed := true } with jobs := [ji0] }
theorem courseIs (s : State) (cs : Map Course) (j : Nat) (y : Course) (e : (s.core 0).courses = cs) (h : s.course? 0 j = some y) : (j, y) ∈ cs := by
  rw [← e]
  exact mget?_mem _ _ _ h
/-- Nine courses in one quarter, and what its scheduler found of some. -/
noncomputable def nine (f : Nat → Course) (lk : List Look) : State := { coreCs ((List.range 9).map (fun j => (j, f j))) with looks := lk, islands := [(0, { cyc := 512000 })] }
theorem nineIs {f : Nat → Course} {lk : List Look} {j : Nat} {y : Course} (h : (nine f lk).course? 0 j = some y) : j < 9 ∧ y = f j := by
  obtain ⟨a, ha, e⟩ := List.mem_map.mp (courseIs (nine f lk) ((List.range 9).map (fun j => (j, f j))) j y rfl h)
  obtain ⟨rfl, rfl⟩ := Prod.mk.inj e
  exact ⟨List.mem_range.mp ha, rfl⟩

/-- Course 8 pending since 3, courses 6 and 7 pending since 7, the others active since 7. -/
noncomputable def fP (j : Nat) : Course := if j = 8 then actC false .ready 3 else if j ≥ 6 then actC false .ready 7 else actC true .ready 7
/-- SchedulingSteps, the active set of a quarter of nine: a course with no ready lane, and one whose slices are all stalled; one that is neither; the earliest demoted of those that are eligible; a course whose time is up, with one that is eligible; a placed block without regions. -/
theorem wit_SchedulingSteps_courses :
    (let s := nine (fun _ => actC true (.parked 3) 0) []
     s.course? 0 0 = some (actC true (.parked 3) 0) ∧ 8 < (quarterOf s 0 (0 / 128)).length ∧ ∀ ln ∈ (actC true (.parked 3) 0).lanes, ln.st ≠ .ready) ∧
    (let s := nine fP [⟨0, 0, false, true⟩]
     s.course? 0 0 = some (fP 0) ∧ (fP 0).active = true ∧ ∃ lk ∈ s.looks, lk.core = 0 ∧ lk.slot = 0 ∧ lk.stuck = true) ∧
    (let s := nine fP [⟨0, 0, false, false⟩]
     (∃ ln ∈ (fP 0).lanes, ln.st = .ready) ∧ ∀ lk ∈ s.looks, lk.core = 0 → lk.slot = 0 → lk.stuck = false) ∧
    (let s := nine fP [⟨0, 8, true, false⟩, ⟨0, 6, true, false⟩]
     s.course? 0 8 = some (fP 8) ∧ (fP 8).active = false ∧ (∃ lk ∈ s.looks, lk.core = 0 ∧ lk.slot = 8 ∧ lk.free = true) ∧
       ((quarterOf s 0 (8 / 128)).filter (fun k => ((s.course? 0 k).getD {}).active)).length < 8 ∧
       (∀ j y, s.course? 0 j = some y → j / 128 = 8 / 128 → j ≠ 8 → y.active = true ∨ (∀ lk ∈ s.looks, lk.core = 0 → lk.slot = j → lk.free = false) ∨ (j < 510 ∧ 510 ≤ 8) ∨
         ((j < 510 ↔ 8 < 510) ∧ ((fP 8).since < y.since ∨ (fP 8).since = y.since ∧ 8 < j)))) ∧
    (let s := nine fP [⟨0, 8, true, false⟩]
     s.course? 0 0 = some (fP 0) ∧ (fP 0).active = true ∧ (fP 0).cyc + 512000 ≤ (mget s.islands 0 {}).cyc ∧ s.course? 0 8 = some (fP 8) ∧ (∃ lk ∈ s.looks, lk.core = 0 ∧ lk.slot = 8 ∧ lk.free = true) ∧
       (∀ i y, s.course? 0 i = some y → i / 128 = 0 / 128 → y.active = true → i < 510 → (fP 0).since < y.since ∨ (fP 0).since = y.since ∧ 0 ≤ i)) ∧
    (let bl : Block := { slots := [0, 129], threads := 9, st := .placed, nbar := 2 }
     let s := pkg { blocks := [(0, bl)] }
     s.block? 0 0 = some bl ∧ bl.regions = [] ∧ bl.slots.Nodup ∧ ∀ k ∈ bl.slots, s.course? 0 k = none) := by
  refine ⟨by decide +kernel, by decide +kernel, by decide +kernel, ⟨by decide +kernel, by decide +kernel, by decide +kernel, by decide +kernel, ?_⟩,
    ⟨by decide +kernel, by decide +kernel, by decide +kernel, by decide +kernel, by decide +kernel, ?_⟩, by decide +kernel⟩
  · intro j y h hq hj
    obtain ⟨h9, rfl⟩ := nineIs h
    clear h hq
    revert hj
    revert j
    decide +kernel
  · intro i y h hq ha h5
    obtain ⟨h9, rfl⟩ := nineIs h
    clear h hq h5
    revert ha
    revert i
    decide +kernel

/-- SchedulingSteps: a header of 128 threads in clusters of two blocks with one region, which nothing refuses; a fence without conditions; a fence with one counter left; a unit that fits; a head that
has waited 1,000,000 ns and fits nowhere; a block to be staged; a placed block, its region ready. -/
theorem wit_SchedulingSteps :
    (mget (sPar.bay 0).levels 3 [] = [sp0] ∧ parseReads sPar sp0 (natBytes 64 hdr0) 0x19000 1 [regionOf 0x19000 reg0] = true ∧ headerBad hdr0 = none ∧
      regionBad hdr0 [] [regionOf 0x19000 reg0] = none) ∧
    (let s := coreCs [] (lev fen0)
     mget (s.bay 0).levels 3 [] = [fen0] ∧ fen0.latched = [] ∧ readsAs (bayRead s (.bayq 0) false [3, 6] 0x18000 6 192 0x18000 []) (List.replicate 192 0) = true) ∧
    (∀ cmp ∈ [1, 2], let s := coreCs [] (lev (fen1 cmp))
     mget (s.bay 0).levels 3 [] = [fen1 cmp] ∧ (fen1 cmp).conds.length = 12 ∧ 0 ∉ (fen1 cmp).latched ∧ (fen1 cmp).conds[0]? = some (cmp, 0x18000, 0) ∧
       readsAs (bayRead s (.bayq 0) false [3, 6, 0] 0x18000 2 8 0x18000 []) (List.replicate 8 0) = true) ∧
    (mget (sPl.bay 0).levels 3 [] = [{ sp0 with parsed := true }] ∧ (sPl.bay 0).jobs.find? (fun x => x.jseq == 6) = some ji0 ∧ (tryPlace sPl 0 ji0 0).isSome ∧ (tryPlace sPl 0 ji0 2).isSome) ∧
    (let j : JobInfo := { ji0 with proto := { ji0.proto with tlines := 3073 } }
     let e : SpawnE := { sp0 with parsed := true, since := some 199000000 }
     let s := pkg {} iss0 { lev e with jobs := [j] }
     mget (s.bay 0).levels 3 [] = [e] ∧ (s.bay 0).jobs.find? (fun x => x.jseq == e.jseq) = some j ∧ (tryPlace s 0 j e.nextBlk).isNone ∧ 199000000 + 1000000 ≤ s.t) ∧
    (let bl : Block := { slots := [0], threads := 1, vregs := 63, tent := 4, tlines := 512, st := .placed, regions := [regionOf 0x19000 reg0] }
     (stageTiles 0 bl.regions ((one (crs rdy) bl).core 0)).isSome ∧ bl.staging = false) ∧
    (let bl : Block := { slots := [0, 129], threads := 9, st := .placed, nbar := 2, regions := [regionOf 0x19000 reg0] }
     let tl : Tile := { blk := 0, tile := (regionOf 0x19000 reg0).tile, bset := 0, len := 2, st := .ready, gen := 0, data := [] }
     let s := pkg { blocks := [(0, bl)], tiles := [(6, tl)] }
     s.block? 0 0 = some bl ∧ bl.slots.Nodup ∧ ∀ r ∈ bl.regions, mget? (s.core 0).tiles 6 = some tl ∧ tl.blk = 0 ∧ tl.tile = r.tile ∧ tl.st = .ready) := by decide +kernel

theorem readsAs_eq {r : OpRead} {v : List Byte} (h : readsAs r v = true) : r = .ok (after r) v := by
  cases r <;> simp_all [readsAs, after]
/-- A fence record whose first counter is to be at least 0 and whose last is not to be 0. -/
noncomputable def rec12 : Nat := 0x19003 + 0x1900A * 2 ^ (128 * 11)
noncomputable def sFen : State := (coreCs [] (lev fen0)).writeBytes 0x18000 (natBytes 192 rec12)
noncomputable def fRd (s : State) (i : Nat) (a : W64) : OpRead := bayRead s (.bayq 0) false [3, 6, i] a 2 8 a []
noncomputable def sFen1 : State := after (bayRead sFen (.bayq 0) false [3, 6] 0x18000 6 192 0x18000 [])
noncomputable def sFen2 : State := after (fRd sFen1 0 0x19000)
noncomputable def fCmp (i : Nat) : Nat := rec12 / 2 ^ (128 * i) % 8
noncomputable def fAddr (i : Nat) : W64 := BitVec.ofNat 64 (rec12 / 2 ^ (128 * i) % 2 ^ 64 / 8 * 8)
noncomputable def fS (i : Nat) : State := if i = 0 then sFen1 else if i < 12 then sFen2 else after (fRd sFen2 11 0x19008)
/-- SchedulingSteps: a fence record of two counters, read one after the other, of which one is met. -/
theorem wit_SchedulingSteps_fence :
    bayRead sFen (.bayq 0) false [3, 6] 0x18000 6 192 0x18000 [] = .ok sFen1 (natBytes 192 rec12) ∧ leNum (natBytes 192 rec12) = rec12 ∧ (∀ i, i < 12 → fCmp i ≠ 7) ∧
    fS 0 = sFen1 ∧ (∀ i, i < 12 → fCmp i = 0 → fS (i + 1) = fS i) ∧ ∀ i, i < 12 → fCmp i ≠ 0 → fRd (fS i) i (fAddr i) = .ok (fS (i + 1)) (List.replicate 8 0) := by
  have used : ∀ i, i < 12 → (fCmp i ≠ 0 ↔ i = 0 ∨ i = 11) := by decide +kernel
  refine ⟨readsAs_eq (by decide +kernel), by decide +kernel, by decide +kernel, rfl, fun i h hc => ?_, fun i h hc => ?_⟩
  · have h0 : i ≠ 0 := fun e => (used i h).mpr (.inl e) hc
    have h1 : i + 1 < 12 := by have : i ≠ 11 := fun e => (used i h).mpr (.inr e) hc
                               omega
    simp [fS, h0, h1, h]
  · rcases (used i h).mp hc with rfl | rfl
    · rw [show fAddr 0 = 0x19000 by decide +kernel]
      exact readsAs_eq (r := fRd sFen1 0 0x19000) (by decide +kernel)
    · rw [show fAddr 11 = 0x19008 by decide +kernel]
      exact readsAs_eq (r := fRd sFen2 11 0x19008) (by decide +kernel)
/-- SchedulingSteps: a unit at a level below a head that does not fit. -/
theorem wit_SchedulingSteps_lower :
    let hi : SpawnE := { sp0 with jseq := 7, parsed := true, since := some 199900000 }
    let lo : SpawnE := { sp0 with parsed := true }
    let j7 : JobInfo := { ji0 with jseq := 7, proto := { ji0.proto with tlines := 3073 } }
    let s := pkg {} iss0 { bayP with levels := [(1, [lo]), (3, [hi])], jobs := [j7, ji0] }
    mget (s.bay 0).levels 1 [] = [lo] ∧ (s.bay 0).jobs.find? (fun x => x.jseq == lo.jseq) = some ji0 ∧ (tryPlace s 0 ji0 0).isSome ∧ mget (s.bay 0).levels 3 [] = [hi] ∧ mget (s.bay 0).levels 2 [] = [] ∧
      hi.starved = false ∧ s.t < 199900000 + 1000000 ∧ (s.bay 0).jobs.find? (fun x => x.jseq == hi.jseq) = some j7 ∧ (tryPlace s 0 j7 0).isNone := by decide +kernel

noncomputable def blkR : Block := { slots := [0], threads := 1, vregs := 63, jseq := 6 }
noncomputable def sRet (done : W64) (n : Nat) : State :=
  paged (pkg (core1 (crs { rdy with st := .exited }) blkR) iss0 { bayP with jobs := [{ ji0 with done := done }], notices := List.replicate n 0 })
/-- The add that a job's end makes passes its checks. -/
noncomputable def doneGoes (s : State) (j : JobInfo) : Bool :=
  match probeOf (({ releaseBlock s 0 0 blkR with nextAcc := s.nextAcc + 1 } : State).updBay 0 (fun y => { y with
      jobs := y.jobs.map (fun x => if x.jseq = j.jseq then { j with left := 0, tfin := s.t, add := some s.nextAcc } else x), reserved := if j.note then y.reserved + 1 else y.reserved })) (s.svCore 0)
    { id := s.nextAcc, iss := 0, ag := .bayq 0, kind := .atomic, op := .add, form := j.done, ea := j.done, size := 8, data := natBytes 8 1, sig := true, scope := 7, prv := j.prv, t0 := s.t } with
  | .go _ _ _ => true
  | _ => false
noncomputable def boxB (n : Nat) (ns : List W512 := []) : State := pkg { core1 (crs rdy) with msgs := [5] } iss0 { formed := true, inc := 7, notices := ns, mail := [(14, { entries := List.replicate n 0 }), (13, { entries := List.replicate n 0 })] }
/-- RetirementAndMessages: the last block of a job, its course exited, with room for one notice, without and with DONE; a record of the add; mailboxes with one place and none left; host writes to the last
mailbox window, of a wrong size, to PCAP and to CMD. -/
theorem wit_RetirementAndMessages :
    (∀ d ∈ [0, 0x18000], let s := sRet (BitVec.ofNat 64 d) 4095
     s.block? 0 0 = some blkR ∧ mayRetire s 0 0 blkR = true ∧ (s.bay 0).jobs.filter (fun x => x.jseq == 6) = [{ ji0 with done := BitVec.ofNat 64 d }] ∧ (s.bay 0).notices.length + (s.bay 0).reserved < 4096) ∧
    doneGoes (sRet 0x18000 0) { ji0 with done := 0x18000 } = true ∧
    (let a := acc0 (.bayq 0) .atomic (.recorded ⟨1, 2, 3, 4, 0⟩ [] 0x30000)
     let s := { pkg (core1 (crs rdy)) iss0 { bayP with jobs := [{ ji0 with add := some 9 }] } with accs := [a] }
     s.accs.find? (fun x => x.id == 9) = some a ∧ (s.bay 0).jobs.find? (fun x => x.add == some 9) = some { ji0 with add := some 9 }) ∧
    (((boxB 255 [3]).bay 0).notices = [3] ∧ (((boxB 255).bay 0).mailbox 14).entries.length < 256 ∧ ((boxB 255).core 0).msgs = [5] ∧ ((boxB 255 [3]).bay 0).heldAns = []) ∧
    (let r : PageReq := { vaddr := 0x10000, paddr := 0x10000, treq := 0, inc := 7 }
     let s := pkg {} iss0 { formed := true, inc := 7, notices := [3], reserved := 4095, heldAns := [63], pages := [(63, r)] }
     (s.bay 0).notices = [3] ∧ ((s.bay 0).mailbox 14).entries.length < 256 ∧ (s.bay 0).heldAns = [63] ∧ mget? (s.bay 0).pages 63 = some r ∧
       ([] : List W512).length + (s.bay 0).reserved < 4096) ∧
    (let w : HostWrite := { fn := 1, off := 0xD000, size := 64, data := 9 }
     ((boxB 255).bay 0).formed = true ∧ w.off / 0x1000 < 14 ∧ w.off % 0x1000 = 0 ∧ (((boxB 255).bay 0).mailbox (w.off / 0x1000)).entries.length < 256 ∧
       256 ≤ (((boxB 256).bay 0).mailbox (w.off / 0x1000)).entries.length) ∧
    (let b := { formed := true, inc := 7, cont := some { stop := [], eave := false, old := 6 } }
     ∃ k, ((pkg {} iss0 b).bay 0).cont = some k ∧ k.eave = false) ∧
    ((boxB 0).cmd = none ∧ rootRuns (boxB 0) = true ∧ ∀ n ∈ [1, 2, 3], (BitVec.ofNat 512 n).toNat % 256 ∈ [1, 2, 3]) := by decide +kernel

noncomputable def flying (a : Access) (ls : Map Lease := []) : State := { one { crs { rdy with st := .parked 9 } with lanes := [{ rdy with st := .parked 9 }] } with accs := [a], leases := ls }
noncomputable def rec1 : Record := { p := 1, l0 := 2, l1 := 3, lr := 4, xc := 5 }
/-- LoadAtItsHome: loads of scope 5 and of scope 6 at HBM4, with a lease at the greatest level. -/
theorem wit_LoadAtItsHome :
    (∀ sc ∈ [0, 5, 6, 7], ∀ lv ∈ [0, 14], let a := { acc0 (.thread 0 0 0) .load (.flight 0x10000) with scope := sc }
     let s := flying a [(0x400, { lvl := lv })]
     AtHome s 9 a 0x10000 ⟨.hbm, 0x10000, 1⟩ ∧ (s.accs.map (·.id)).Nodup ∧ a.dest ≠ .again ∧ a.last = false ∧ heldForTp s (0x10000 / 32) (homeT s 1) = false ∧ (∀ k, k < 2 → stagedReady s (0x10000 / 64 * 2 + k) = false) ∧
       stagedReady s (0x10000 / 32) = false) := by
  intro sc hs lv hl a s
  have := (by decide +kernel : ∀ sc ∈ [0, 5, 6, 7], ∀ lv ∈ [0, 14], let a := { acc0 (.thread 0 0 0) .load (.flight 0x10000) with scope := sc }
     let s := flying a [(0x400, { lvl := lv })]
     s.accs.filter (fun x => x.id == 9) = [a] ∧ target? s 0x10000 = some ⟨.hbm, 0x10000, 1⟩ ∧ orderOk s a 0x10000 false = true ∧ badSector s (0x10000 / 32) = none ∧ heldForTp s (0x10000 / 32) (homeT s 1) = false ∧
       (∀ k, k < 2 → stagedReady s (0x10000 / 64 * 2 + k) = false) ∧ stagedReady s (0x10000 / 32) = false) sc hs lv hl
  exact ⟨⟨this.1, rfl, this.2.1, by decide, this.2.2.1, this.2.2.2.1⟩, by simp [s, flying], by simp [a, acc0], rfl, this.2.2.2.2⟩

/-- LoadedValuesReachTheirLanes: replies of 1 and of 16 bytes at the end of a granule, with and without a lease and with a write of the core outstanding; a copy whose lease has one unit and 2^23 − 1 units left;
a load of scope 6. -/
theorem wit_LoadedValuesReachTheirLanes :
    (∀ dz ∈ [(.z8, 0x1003F), (.b128, 0x10030)], ∀ x ∈ [none, some 200001024], let a := { acc0 (.thread 0 0 0) .load (.replied (List.replicate 64 7) x dz.2) with dest := .vreg 4 dz.1, size := loadBytes dz.1 }
     let s := flying a
     let w := acc0 (.thread 0 1 0) .store (.flight 0x10000)
     s.accs.filter (fun y => y.id == 9) = [a] ∧ (List.replicate 64 (7 : Byte)).length = 64 ∧ dz.2 % 64 + a.size ≤ 64 ∧ pendingMark s 0 (granOf s dz.2) = false ∧ 0 ∉ s.safe ∧
       pendingMark { s with accs := [a, { w with id := 10 }] } 0 (granOf s dz.2) = true) ∧
    (∀ left ∈ [1, 2 ^ 23 - 1], ∀ v ∈ [0, 3], let a := { acc0 (.thread 0 0 0) .load (.flight 0x10000) with dest := .vreg 4 .b32, scope := 5, ev := v }
     let cp : Copy := { data := List.replicate 64 7, exp := BitVec.ofNat 24 (200000000 / 8 + left) }
     let s := { flying a with cores := [(0, { core1 { crs rdy with lanes := [{ rdy with st := .ready }] } with copies := [(0x400, cp)], lines := [(0x100, { set := 0, ev := 2, used := 1 })], swept := 200000000 })] }
     s.accs.filter (fun y => y.id == 9) = [a] ∧ a.scope < 6 ∧ orderOk s a 0x10000 false = true ∧ mget? (s.core 0).copies (granOf s 0x10000) = some cp ∧ sweepDue s 0 = false ∧ (mget? (s.core 0).lines (granOf s 0x10000 / 4)).isSome ∧ seenAt s a.ag (secOf s 0x10000) ≤ stampAt cp.stamp 0x10000 ∧
       (let l := (cp.exp.toNat + 2 ^ 24 - s.coreT 0 / 8 % 2 ^ 24) % 2 ^ 24; 1 ≤ l ∧ l ≤ 2 ^ 23 - 1) ∧ 0 ∉ s.safe ∧ cp.data.length = 64 ∧ 0x10000 % 64 + a.size ≤ 64) ∧
    (let x : Course := { crs rdy with lanes := [{ rdy with st := .ready }] }
     (x.lane 0).st ≠ .exited) ∧
    (∀ m, (({ crs rdy with lanes := [{ rdy with st := .ready }] } : Course).lane m).st ≠ .parked 9) ∧
    (let a := { acc0 (.thread 0 0 0) .load (.flight 0x10000) with scope := 6 }
     (flying a).accs.filter (fun y => y.id == 9) = [a] ∧ 6 ≤ a.scope) ∧
    (let a := acc0 (.thread 0 0 0) .load (.flight 0x10000)
     let cp : Copy := { data := List.replicate 64 7, exp := 0, stamp := (4, 9) }
     let s := { flying a with cores := [(0, { core1 { crs rdy with lanes := [rdy] } with copies := [(0x400, cp)] })], seen := [(.thread 0 0 0, 0x800, 5)] }
     agentCore? a.ag = some 0 ∧ mget? (s.core 0).copies (granOf s 0x10000) = some cp ∧ stampAt cp.stamp 0x10000 < seenAt s a.ag (secOf s 0x10000)) := by
  refine ⟨by decide +kernel, by decide +kernel, by decide +kernel, ?_, by decide +kernel, by decide +kernel⟩
  intro m
  match m with
  | 0 => decide +kernel
  | _ + 1 => simp [Course.lane]

/-- WriteAtItsHome: a store of 16 bytes, an atomic of each width, with operands on both sides of the sign; a compare that agrees and one that does not. -/
theorem wit_WriteAtItsHome :
    (∀ k ∈ [AccKind.store, .bwrite, .stp], let a := { acc0 (.thread 0 0 0) k (.flight 0x10000) with data := List.replicate 16 5, size := 16 }
     let s := flying a [(0x400, { lvl := 14, l0 := 3, l1 := 4, lr := 5 })]
     s.accs.filter (fun x => x.id == 9) = [a] ∧ target? s 0x10000 = some ⟨.hbm, 0x10000, 1⟩ ∧ orderOk s a 0x10000 false = true ∧ badSector s (0x10000 / 32) = none ∧ a.ridge = none ∧ a.sig = false ∧
       groupOf s a 0x10000 = [a] ∧ orderOk { s with accs := s.accs.filter (fun y => decide (y.id ≠ 9)) } a 0x10000 false = true ∧ lateForTp s (0x10000 / 32) (homeT s 1) = false ∧ 257 ∉ s.safe) ∧
    (∀ k ∈ [AccKind.atomic, .red], ∀ n ∈ [4, 8, 16], let a := { acc0 (.thread 0 0 0) k (.flight 0x10000) with data := List.replicate n 0x80, size := n, op := .cas, cmp := 1 }
     let s := flying a
     s.accs.filter (fun x => x.id == 9) = [a] ∧ target? s 0x10000 = some ⟨.hbm, 0x10000, 1⟩ ∧ orderOk s a 0x10000 false = true ∧ badSector s (0x10000 / 32) = none ∧
       groupOf s a 0x10000 = [a] ∧ orderOk { s with accs := s.accs.filter (fun y => decide (y.id ≠ 9)) } a 0x10000 false = true ∧ lateForTp s (0x10000 / 32) (homeT s 1) = false ∧ a.size ∈ [4, 8, 16] ∧
       a.data.length = a.size ∧ s.readNat 0x10000 n = 0) ∧
    (∀ op ∈ [AtomOp.addBf16x2, .addF16x2], let a := { acc0 (.thread 0 0 0) .atomic (.flight 0x10000) with data := natBytes 4 0x3F803F80, size := 4, op := op, sig := true }
     let s := flying a
     s.accs.filter (fun x => x.id == 9) = [a] ∧ groupOf s a 0x10000 = [a] ∧ a.size = 4) ∧
    (let a := { acc0 (.thread 0 0 0) .store (.flight 0x100000000000) with data := List.replicate 16 5, size := 16 }
     let s := flying a
     target? s 0x100000000000 = some ⟨.host, 0x100000000000, lineHome 0x100000000000⟩ ∧ orderOk s a 0x100000000000 false = true ∧ badSector s (0x100000000000 / 32) = none ∧ groupOf s a 0x100000000000 = [a] ∧
       lateForTp s (0x100000000000 / 32) (homeT s (lineHome 0x100000000000)) = false) := by decide +kernel
/-- WriteAtItsHome: a signaled write's sector with a monitor entry of this package's lanes and of a peer's, where no fence is parsed; and with the one counter a fence still waits for. -/
theorem wit_WriteAtItsHome_lookup :
    (let s := { one (crs { rdy with st := .monitor }) with slices := [(1, { mon := [{ sector := 0x800, lanes := [(0, 0, 0)], peers := [{ pkg := 1, tag := 4, bay := 0, plane := 0 }] }] })] }
     (∀ lvl, lvl < 4 → levelOf s 0 lvl = []) ∧ (∃ e ∈ (s.slice 1).mon, e.sector = 0x800 ∧ (0, 0, 0) ∈ e.lanes ∧ e.peers ≠ []) ∧ (s.lane 0 0 0).st = .monitor) ∧
    (let y := lev { fen1 1 with conds := List.replicate 12 (1, 0x10000, 0) }
     let s := coreCs [] y
     let w := s.updSlice 1 (fun x => { x with mon := x.mon.filter (fun m => m.sector != 0x800) })
     s.bays = [(0, y)] ∧ (s.slice 1).mon = [] ∧ s.coresOf 0 ≠ [] ∧ levelOf s 0 3 = [{ fen1 1 with conds := List.replicate 12 (1, 0x10000, 0) }] ∧ (∀ m, m < 4 → m ≠ 3 → levelOf s 0 m = []) ∧
       (List.range 12).filter (condIn w 0 0x800 { fen1 1 with conds := List.replicate 12 (1, 0x10000, 0) }) = [0]) := by decide +kernel

noncomputable def stg (w : Staged) (left : List Nat) : Stage := { writes := [w], staged := 1, ready := true, tp := some 200000000, left := left }
noncomputable def stw : Staged := { bay := 0, die := 0, sector := 0x800, bytes := (List.range 32).map (fun i => (i, 3)), sig := false }
noncomputable def lnF (k : Nat) (h : Nat) : Lane := { rdy with fence := some (k, true), hor := ⟨h, h, h, h⟩ }
/-- RecordsFencesAndPublication: a record of a store; a fence at its horizon, and one ns before; a write-through, its sector in the cache part; a service core without a fence, and with one that waits and that may pass; a host's write whose leases have run out and have not. -/
theorem wit_RecordsFencesAndPublication :
    (let a := acc0 (.thread 0 0 0) .store (.recorded rec1 [] 0x10000)
     (flying a).accs.filter (fun y => y.id == 9) = [a] ∧ a.dest = .none ∧ isPeer 0x10000 = false ∧ ((flying a).course? 0 0).isSome) ∧
    (∀ x ∈ [200000000, 200000001], let a := acc0 .host .store (.recorded ⟨1, 2, x, 4, 0⟩ [] 0x10000)
     (flying a).accs.filter (fun y => y.id == 9) = [a] ∧ (max 2 x ≤ (flying a).t ↔ x = 200000000)) ∧
    (∀ h ∈ [200000000, 200000001], ∀ k ∈ [4, 5, 6, 7], let s := one (crs (lnF k h))
     ((crs (lnF k h)).lane 0).fence = some (k, true) ∧ s.accs = [] ∧ (s.block? 0 0).map (·.arrivals) = some [] ∧
       (((crs (lnF k h)).lane 0).hor.at k ≤ s.coreT 0 ↔ h = 200000000) ∧ (s.coreT 0 < ((crs (lnF k h)).lane 0).hor.at k ↔ h = 200000001)) ∧
    (let a := acc0 (.thread 0 0 0) .store (.cxl rec1 [] 0x100000000000)
     let s := { flying a with soffit := [(0, [(0x100000000000 / 64, { ev := 0, used := 1, dirty := true })])] }
     s.accs.find? (fun y => y.id == 9) = some a ∧ (sofFind s (granOf s 0x100000000000)).isSome ∧ ∀ x ∈ s.accs, x.id = 9) ∧
    (∀ n ∈ [0, 3], let s := one (crs rdy)
     (mget s.services n {}).fence = false ∧ ((target? s 0x1001F).map (fun tg => decide (inTables s tg.canon = false ∧ tg.tier = .hbm)) = some true) ∧ 0x1001F % 32 + 1 ≤ 32 ∧ 0x10000 % 32 + 32 ≤ 32) ∧
    (∀ k ∈ [AccKind.load, .store], let s := { flying { acc0 (.service 3) k (.flight 0x10000) with prv := true } with services := [(3, { fence := true })] }
     (mget s.services 3 {}).fence = true ∧ 3 < 4 ∧ relPassed s (.service 3) 7 = false ∧ relPassed { s with accs := [] } (.service 3) 7 = true) := by decide +kernel
/-- RecordsFencesAndPublication: a group with one sector and with two left at its TP, and before it; a snoop past the leases and before. -/
theorem wit_PublicationAndSnoop :
    (∀ left ∈ [[0x800], [0x800, 0x801]], let s := { one (crs rdy) with stages := [(256 * 1 + 255, stg stw left)] }
     target? s (32 * 0x800) = some ⟨.hbm, 0x10000, 1⟩ ∧ mget? s.stages (256 * 1 + 255) = some (stg stw left) ∧ 0x800 ∈ left ∧ (stg stw left).writes.filter (fun x => x.sector == 0x800) = [stw] ∧ 200000000 ≤ homeT s (homeOf s (32 * 0x800)) ∧
       publishFirst s (256 * 1 + 255) 0x800 200000000 = false ∧ stw.sig = false ∧ stw.bytes.length ≤ 32 ∧ (stw.bytes.map (·.1)).Nodup ∧ (∀ e ∈ stw.bytes, e.1 < 32)) ∧
    (let s := { one (crs rdy) with stages := [(511, stg stw [0x800])], t := 199999999 }
     homeT s (homeOf s (32 * 0x800)) < 200000000) ∧
    (∀ l ∈ [200000000, 200000001], let s := { one (crs rdy) with leases := [(0x100000000000 / 64, { l0 := l })] }
     target? s 0x100000000010 = some ⟨.host, 0x100000000010, lineHome 0x100000000010⟩ ∧ 0x100000000010 % 32 + 16 ≤ 32 ∧ s.accs = [] ∧ lateForTp s (0x100000000010 / 32) (homeT s (lineHome 0x100000000010)) = false ∧
       (max (mget s.leases (0x100000000010 / 64) {}).l0 (mget s.leases (0x100000000010 / 64) {}).l1 ≤ homeT s (lineHome 0x100000000010) ↔ l = 200000000)) := by decide +kernel

noncomputable def rec16 (n : Nat) : Core := { core1 (crs rdy) with recs := List.replicate n {} }
noncomputable def issW (w : W32) : Issue := { iss0 with word := w }
noncomputable def xHeld (pc : W64) : Course := { crs { rdy with st := .held (pc + 4), pc := pc } with blk := 1 }
noncomputable def sAns (b : Nat) : State :=
  pkg { core1 { trapC [(20, 0x8000000700000100), (21, BitVec.ofNat 64 b)] with blk := 0 } with
    courses := [(0, trapC [(20, 0x8000000700000100), (21, BitVec.ofNat 64 b)]), (1, xHeld 0x88)],
    blocks := [(0, { slots := [0], threads := 1 }), (1, { slots := [1], threads := 1, jseq := 6 })] }
/-- PreciseFaultsAndTheirAnswers: the greatest fields of a record; a word with a lane mask that its guard keeps, and a uniform one, with one record free; delivery at 251 and at 252 unread records; each answer to a
course with a held lane. -/
theorem wit_PreciseFaultsAndTheirAnswers :
    (let r : FaultRec := { code := 0xFF, lost := 255, agent := 7, blk := 511 }
     r.code < 256 ∧ r.lost < 256 ∧ r.agent < 8 ∧ r.blk < 512) ∧
    (let s := { pkg (rec16 15) (issW 0x03800000) with nextAcc := 2 }
     (issW 0x03800000).word.getLsbD 31 = false ∧ (issW 0x03800000).pos ≠ 3 ∧ ((s.core 0).recs.length < 16) ∧ (∀ l ∈ iss0.mask, l < 8) ∧ isPrefix 0x03800000 = false ∧
       iss0.mask.filter (fun l => ((crs rdy).lane l).rp (BitVec.ofNat 3 ((issW 0x03800000).word.toNat / 2 ^ 23))) ≠ []) ∧
    ({ issW 0x98000002 with pos := 3 }.pos = 3 ∧ (0x81C00000#32).getLsbD 31 = true ∧ (crs rdy).u.rq (BitVec.ofNat 3 ((0x81C00000#32).toNat / 2 ^ 22)) = true) ∧
    (∀ n ∈ [251, 252], let s := pkg (rec16 16) iss0 { formed := true, inc := 7, mail := [(15, { entries := List.replicate n 0 })] }
     (s.core 0).recs = {} :: List.replicate 15 {} ∧ (s.core 0).heldPages = [] ∧ s.accs = [] ∧ (((s.bay (s.bayOf 0)).mailbox 15).entries.length < 252 ↔ n = 251) ∧
       (252 ≤ ((s.bay (s.bayOf 0)).mailbox 15).entries.length ↔ n = 252)) ∧
    (∀ l, l < 8 → ((crs rdy).lane l).st = .ready ∨ ((crs rdy).lane l).st = .exited) ∧
    (∀ a ∈ [0, 1, 2], let s := sAns (0x88 + a)
     (trapC []).prv = true ∧ (xHeld 0x88).yield = false ∧ relPassed s (uniAgent iss0) 7 = true ∧ s.course? 0 1 = some (xHeld 0x88) ∧ (0x8000000700000100#64).toNat = ticketNat (s.bay (s.bayOf 0)).inc 0 1 ∧
       (0x88#64) = clear2 (BitVec.ofNat 64 (0x88 + a)) ∧ ((xHeld 0x88).lane 0).st = .held 0x8C ∧ ((xHeld 0x88).lane 0).pc = 0x88 ∧ (BitVec.ofNat 64 (0x88 + a)).toNat % 4 = a ∧
       s.block? 0 1 = some { slots := [1], threads := 1, jseq := 6 } ∧ (∀ p, p < 4 → s.job? 0 p = none)) := by decide +kernel
theorem laneOr (x : Lane) (l : Nat) : (crs x).lane l = x ∨ (crs x).lane l = {} := by
  match l with
  | 0 => exact .inl rfl
  | n + 1 =>
    right
    simp only [Course.lane, crs, List.getD_eq_getElem?_getD, List.getElem?_cons_succ, List.getElem?_replicate]
    split <;> rfl
/-- and its two conditions on every course: none of core 0 waits at a barrier, and none for a future. -/
theorem wit_PreciseFaults_courses :
    (∀ j y, (pkg (rec16 16)).course? 0 j = some y → ∀ l, l < 8 → ∀ q, (y.lane l).st ≠ .barrier q) ∧
    (∀ j y, (pkg (rec16 16)).course? 0 j = some y → ∀ l, l < 8 → ∀ h d n i, (y.lane l).st ≠ .future h d n i) ∧
    (∀ a j y l h d n i, (sAns a).course? 0 j = some y → (y.lane l).st ≠ .future h d n i) := by
  refine ⟨fun j y h l hl q e => ?_, fun j y h l hl g d n i e => ?_, ?_⟩
  · have : (j, y) ∈ [(0, crs rdy)] := courseIs _ _ j y rfl h
    simp only [List.mem_cons, List.not_mem_nil, or_false, Prod.mk.injEq] at this
    obtain ⟨rfl, rfl⟩ := this
    obtain h | h := laneOr rdy l <;> exact absurd ((congrArg Lane.st h).symm.trans e) (by simp [rdy])
  · have : (j, y) ∈ [(0, crs rdy)] := courseIs _ _ j y rfl h
    simp only [List.mem_cons, List.not_mem_nil, or_false, Prod.mk.injEq] at this
    obtain ⟨rfl, rfl⟩ := this
    obtain h | h := laneOr rdy l <;> exact absurd ((congrArg Lane.st h).symm.trans e) (by simp [rdy])
  · intro a j y l g d n i h e
    have : (j, y) ∈ [(0, trapC [(20, 0x8000000700000100), (21, BitVec.ofNat 64 a)]), (1, xHeld 0x88)] := courseIs _ _ j y rfl h
    simp only [List.mem_cons, List.not_mem_nil, or_false, Prod.mk.injEq] at this
    obtain ⟨rfl, rfl⟩ | ⟨rfl, rfl⟩ := this
    · obtain h | h := laneOr rdy l <;> exact absurd ((congrArg Lane.st h).symm.trans e) (by simp [rdy])
    · obtain h | h := laneOr { rdy with st := .held 0x8C, pc := 0x88 } l <;> exact absurd ((congrArg Lane.st h).symm.trans e) (by simp)

noncomputable def bayM (since : Nat) (n : Nat) : Bay := { formed := true, inc := 7, mail := [(15, { entries := List.replicate n 0, since := since })] }
noncomputable def k0 : Contain := { stop := List.range 8, old := 6 }
/-- ContainmentResults: mailbox 15 unread since 10,000,000 ns ago, and since one ns later; empty; a side-log entry of each age. -/
theorem wit_ContainmentResults :
    (∀ t ∈ [190000000, 190000001], let s := pkg (core1 (crs rdy)) iss0 (bayM t 1)
     (s.bay 0).formed = true ∧ (s.bay 0).cont = none ∧ (∀ n ∈ [true, false], ((pkg {} iss0 { bayM t 1 with cont := some { k0 with noted := n } }).bay 0).cont = some { k0 with noted := n }) ∧ ((s.bay 0).mailbox 15).entries ≠ [] ∧ (((s.bay 0).mailbox 15).since + 10000000 ≤ s.t ↔ t = 190000000) ∧
       (s.t < ((s.bay 0).mailbox 15).since + 10000000 ↔ t = 190000001)) ∧
    (((pkg (core1 (crs rdy)) iss0 (bayM 0 0)).bay 0).mailbox 15).entries = [] ∧
    (∀ t ∈ [190000000, 190000001], let a := { acc0 (.thread 0 0 0) .load .sideLog with t0 := t }
     (flying a).accs.filter (fun y => y.id == 9) = [a] ∧ ((flying a).bay ((flying a).bayOf 0)).formed = true ∧ ((flying a).bay ((flying a).bayOf 0)).cont = none ∧ (a.t0 + 10000000 ≤ (flying a).coreT 0 ↔ t = 190000000) ∧
       ((flying a).coreT 0 < a.t0 + 10000000 ↔ t = 190000001)) := by decide +kernel
/-- ContainmentResults: a containment before each of its steps, with a second trigger and without, in a trip and outside. -/
theorem wit_ContainmentResults_steps :
    let s := fun (k : Contain) => pkg (core1 (crs rdy)) iss0 { bayM 0 1 with cont := some k }
    (((s k0).bay 0).cont = some k0 ∧ 3 ∈ k0.stop ∧ 255 ∉ k0.stop ∧ k0.stop ≠ []) ∧
    (∀ e n a, let k := { k0 with stop := [], eave := e, noted := n, again := a }; ((s k).bay 0).cont = some k) ∧
    (s k0).st ≠ .trip ∧ ({ s k0 with st := .trip } : State).st = .trip ∧ (s k0).undef = [] ∧ (s k0).coresOf 0 ≠ [] :=
  ⟨⟨rfl, by decide, by decide, by decide⟩, fun _ _ _ => rfl, nofun, rfl, rfl, by decide +kernel⟩

noncomputable def req0 (t : Nat) : ObjReq := { name := name0, treq := t, frame := 3, fv := true, wr := true }
def goes (p : Probe) : Bool := match p with
  | .go _ _ none => true
  | _ => false
noncomputable def blkV (q : Seq) : Block := { slots := [0], threads := 8, st := .saving, seq := some q, save := 0x10000 }
/-- WaitingWorkGoesOn: requests and parked accesses of 100,000 and 10,000 ns and one less; the mailbox with room and without; a saved block with lanes at BARSAVE; a stopped sequencer whose image can be stored, and one with
an operation left. -/
theorem wit_WaitingWorkGoesOn :
    (∀ t ∈ [199900000, 199900001], ∀ n ∈ [255, 256], let s := pkg { core1 (crs rdy) with reqs := [req0 t] } iss0 { formed := true, inc := 7, mail := [(14, { entries := List.replicate n 0 })] }
     (s.core 0).reqs[0]? = some (req0 t) ∧ (s.core 0).msgs = [] ∧ ((req0 t).treq + 100000 ≤ s.coreT 0 ↔ t = 199900000) ∧ (s.coreT 0 < (req0 t).treq + 100000 ↔ t = 199900001) ∧
       (((s.bay (s.bayOf 0)).mailbox 14).entries.length < 256 ↔ n = 255)) ∧
    (∀ t ∈ [199990000, 199990001], let a := { acc0 (.thread 0 0 0) .load .frame with t0 := t, lanes := [0] }
     let s := { flying a with cores := [(0, { core1 (crs rdy) with qtlb := [(0, [{ va := 0x10000, z := 0, leaf := 0x1001F }])] })] }
     s.accs.filter (fun y => y.id == 9) = [a] ∧ goes (probeOf s 0 a) = true ∧ a.dest ≠ .again ∧ a.issv = false ∧ (a.t0 + 10000 ≤ s.coreT 0 ↔ t = 199990000) ∧
       (s.coreT 0 < a.t0 + 10000 ↔ t = 199990001)) ∧
    (let bl := { blkB 0 with dir := some 0x10000 }
     let s := one { trapC [] with lanes := [{ rdy with st := .pend (pend0 .barsave) }] } bl
     s.block? 0 0 = some bl ∧ bl.heldAdds = [] ∧ imageBusy s bl = false ∧ imageAddsOut s 0 bl 0x10000 = false ∧ bl.slots.Nodup) ∧
    (let s := one (crs rdy) (blkV {})
     let st := fun (i : Nat) => ({ id := s.nextAcc + i, iss := 0, ag := .core 0, kind := .store, form := 0x10000 + BitVec.ofNat 64 (64 + 32 * i), ea := 0x10000 + BitVec.ofNat 64 (64 + 32 * i), size := 32, data := natBytes 32 0, scope := 3, prv := true } : Access)
     s.block? 0 0 = some (blkV {}) ∧ (blkV {}).image = none ∧ goes (probeOf s 0 (st 0)) = true ∧ goes (probeOf s 0 (st 1)) = true) ∧
    ((one (crs rdy) (blkV { ops := [opE 0] })).block? 0 0 = some (blkV { ops := [opE 0] }) ∧ [opE 0] ≠ []) := by
  refine ⟨?_, ?_, ?_, ?_, ?_⟩ <;> decide +kernel

/-- An export of offsets 0x1000 to 0x1FFF at address 0x20000, with these permission bits. -/
noncomputable def exp0 (bits : Nat) (va : Nat := 0x20000) : BitVec 256 := BitVec.ofNat 256 (va * 2 ^ 192 + 0x1000 * 2 ^ 128 + 0x1000 * 2 ^ 64 + 0x80 + bits)
noncomputable def bayX (bits : Nat) (leaf : Nat := 0x1F) (va : Nat := 0x20000) (eave : Nat := 1) : State :=
  { (((pkg (core1 (crs rdy)) iss0 { bayP with exports := [(0, 0), (63, exp0 bits va)], eave := [(0, eave)] }).writeBytes 0x40000 (natBytes 8 0x50001)).writeBytes 0x50000 (natBytes 8 leaf)) with
    peerInc := [(16, 9)] }
noncomputable def req (off : Nat) (op : FabOp) : FabReq := { src := 1, srcBay := 0, srcInc := 9, plane := 3, bay := 0, off := off, tgtInc := 7, tag := 77, op := op }
theorem exportIs (bits leaf va eave off : Nat) (hc : exportCovers (exp0 bits va) off) : exportAt (bayX bits leaf va eave) 0 off (exp0 bits va) := by
  refine ⟨63, by decide, rfl, hc, fun j hj hcov => ?_⟩
  have e : mget ((bayX bits leaf va eave).bay 0).exports j 0 = 0 := by
    show mget [(0, (0 : BitVec 256)), (63, exp0 bits va)] j 0 = 0
    have : j ≠ 63 := by omega
    by_cases hz : j = 0
    · simp [hz, mget, mget?]
    · simp [mget, mget?, Ne.symm this, Ne.symm hz]
  rw [e] at hcov
  exact absurd hcov.1 (by decide)
theorem covers (bits off : Nat) (va : Nat) (h : (exp0 bits va).getLsbD 7 = true ∧ (exp0 bits va).toNat / 2 ^ 128 % 2 ^ 64 ≤ off ∧
    off < (exp0 bits va).toNat / 2 ^ 128 % 2 ^ 64 + (exp0 bits va).toNat / 2 ^ 64 % 2 ^ 64) : exportCovers (exp0 bits va) off := h
noncomputable def tg0 (pa : Nat) : Target := ⟨.hbm, pa, lineHome pa⟩
theorem passesIs (p : FabReq) (needs : List Nat) (k : AccKind) (pa : Nat) (h : p.bay = 0 ∧ p.srcInc = incOf (bayX 0x7C) p.src p.srcBay ∧ fabFormed p.off p.op = true ∧ p.tgtInc = 7 ∧
    (exportCovers (exp0 0x7C) p.off ∧ ∀ n ∈ needs, (exp0 0x7C).getLsbD n = true) ∧ 0x20000 + (p.off - 0x1000) < 2 ^ 56 ∧ (exp0 0x7C).toNat / 2 ^ 192 + (p.off - (exp0 0x7C).toNat / 2 ^ 128 % 2 ^ 64) = 0x20000 + (p.off - 0x1000) ∧
    (p.failed = false ∧ walkBad (bayX 0x7C) 0 (0x20000 + (p.off - 0x1000)) = none) ∧ leafCheck (bayX 0x7C) (walk (bayX 0x7C) 0 (0x20000 + (p.off - 0x1000))).1 (walk (bayX 0x7C) 0 (0x20000 + (p.off - 0x1000))).2 (0x20000 + (p.off - 0x1000)) k false = .ok pa ∧
    target? (bayX 0x7C) pa = some (tg0 pa)) : Passes (bayX 0x7C) p needs k pa (tg0 pa) := by
  obtain ⟨hb, h1, h2, h3, h4, h5, h6, hf, h7, h8⟩ := h
  refine ⟨⟨h1, h2, by rw [hb]; rfl, by rw [hb, h3]; rfl, by rw [hb]; rfl, .inr (.inl rfl), hf.1⟩, exp0 0x7C, by rw [hb]; exact exportIs _ _ _ _ _ h4.1, h4.2, ?_⟩
  simp only [h6, hb]
  exact ⟨h5, hf.2, h7, h8, rfl, rfl, rfl, rfl, rfl⟩
/-- FabricIngressResults: a load of the last bytes of the exported range, a WAIT's read, a store, an atomic and a staged write that pass; an address below it; exports without each permission; leaves that do not map or not permit. -/
theorem wit_FabricIngressResults :
    (let p := req 0x1FE0 (.load 32 6)
     p.srcInc = incOf (bayX 0x7C) 1 0 ∧ { p with srcInc := 8 }.srcInc ≠ incOf (bayX 0x7C) 1 0 ∧ fabFormed p.off p.op = true ∧ OnFabric (bayX 0x7C)) ∧
    Passes (bayX 0x7C) (req 0x1FE0 (.load 32 6)) [2] .load 0x20FE0 (tg0 0x20FE0) ∧
    Passes (bayX 0x7C) (req 0x1000 (.load 1 5)) [2] .load 0x20000 (tg0 0x20000) ∧
    Passes (bayX 0x7C) (req 0x1000 (.store ((List.range 32).map (fun i => (i, 1))) false)) [3] .store 0x20000 (tg0 0x20000) ∧
    Passes (bayX 0x7C) (req 0x1000 (.atomic [(28, .add, 4, 2 ^ 32 - 1, 0)] false true)) [2, 3] .atomic 0x20000 (tg0 0x20000) ∧
    (Passes (bayX 0x7C) (req 0x1000 (.wait 4 5)) [2] .load 0x20000 (tg0 0x20000) ∧ ((bayX 0x7C).slice (tg0 0x20000).slice).mon.length < 2048) ∧
    Passes (bayX 0x7C) (req 0x1000 (.stage [(0, 1)] 255 false)) [3, 6] .store 0x20000 (tg0 0x20000) ∧
    (∀ off ∈ [0xFFF, 0x2000], ¬ exportCovers (exp0 0x7C) off) ∧
    (exportAt (bayX 0x7C) 0 0x1000 (exp0 0x7C)) := by
  have c : ∀ off ∈ [0x1000, 0x1FE0], exportCovers (exp0 0x7C) off := by
    have := (by decide +kernel : ∀ off ∈ [0x1000, 0x1FE0], (exp0 0x7C).getLsbD 7 = true ∧ (exp0 0x7C).toNat / 2 ^ 128 % 2 ^ 64 ≤ off ∧
      off < (exp0 0x7C).toNat / 2 ^ 128 % 2 ^ 64 + (exp0 0x7C).toNat / 2 ^ 64 % 2 ^ 64)
    exact this
  refine ⟨by unfold OnFabric; decide +kernel, passesIs _ _ _ _ ⟨rfl, ?_, ?_, rfl, ⟨c _ (by decide), ?_⟩, ?_⟩, passesIs _ _ _ _ ⟨rfl, ?_, ?_, rfl, ⟨c _ (by decide), ?_⟩, ?_⟩,
    passesIs _ _ _ _ ⟨rfl, ?_, ?_, rfl, ⟨c _ (by decide), ?_⟩, ?_⟩, passesIs _ _ _ _ ⟨rfl, ?_, ?_, rfl, ⟨c _ (by decide), ?_⟩, ?_⟩,
    ⟨passesIs _ _ _ _ ⟨rfl, ?_, ?_, rfl, ⟨c _ (by decide), ?_⟩, ?_⟩, by decide +kernel⟩, passesIs _ _ _ _ ⟨rfl, ?_, ?_, rfl, ⟨c _ (by decide), ?_⟩, ?_⟩, ?_, exportIs _ _ _ _ _ (c _ (by decide))⟩
  all_goals first | decide +kernel | skip
  intro off h hc
  have := (by decide +kernel : ∀ off ∈ [0xFFF, 0x2000], ¬ ((exp0 0x7C).toNat / 2 ^ 128 % 2 ^ 64 ≤ off ∧ off < (exp0 0x7C).toNat / 2 ^ 128 % 2 ^ 64 + (exp0 0x7C).toNat / 2 ^ 64 % 2 ^ 64))
  exact this off h hc.2
/-- and what each check of the ingress turns away: a contained bay, another incarnation, one not formed; a table whose entry covers nothing; a missing permission; leaves that fail; a full eave and one with room. -/
theorem wit_FabricIngress_refused :
    ((pkg {} iss0 { cont := some { stop := [] } }).bay 0).cont = some { stop := [] } ∧ (OnFabric (pkg {}) ∧ { req 0x1000 (.load 1 5) with failed := true }.failed = true ∧ ¬ OnFabric { pkg {} with st := .root }) ∧
    (walkBad { bayX 0x7C with bad := [.memory (0x40000 / 32) 1] } 0 0x20000).isSome = true ∧ (6#16 ≠ ((bayX 0x7C).bay 0).inc) ∧ ((pkg {} iss0 { inc := 7 }).bay 0).formed = false ∧
    ((exp0 0x78).getLsbD 2 = false ∧ (exp0 0x74).getLsbD 3 = false ∧ (exp0 0x3C).getLsbD 6 = false ∧ (exp0 0x5C).getLsbD 5 = false) ∧
    (∀ lc ∈ [(0, 0x10), (0x1B, 0x11), (0x10000000001F, 0x32)], let s := { bayX 0x7C lc.1 with hUp := false, mUp := false }
     (match leafCheck s (walk s 0 0x20000).1 (walk s 0 0x20000).2 0x20000 .load false with
      | .bad c r _ => c == lc.2 && (c != 0x11 || r != 4 && r != 5)
      | .ok _ => false) = true) ∧
    (∀ e ∈ [0, 1], let s := bayX 0x7C 0x1F 0x20000 e
     let die := if (colsOnDie s 0 (dieOf (lineHome 0x20000))).isEmpty then 1 - dieOf (lineHome 0x20000) else dieOf (lineHome 0x20000)
     (mget (s.bay 0).eave die 0 * 2 ^ 20 < 64 * (0 + 1) ↔ e = 0) ∧ s.stages = [] ∧ (mget s.stages (256 + 255) {}).want = none) := by
  unfold OnFabric
  decide +kernel

noncomputable def txn0 (t0 rp : Nat) : Txn := { accs := [9], peer := 1, bay := 2, plane := 0, off := 0x10000, t0 := t0, bayOf := 0, replays := rp }
noncomputable def accP (k : AccKind) : Access := { acc0 (.thread 0 0 0) k (.remote 77) with ea := 0x0101000000010000, lanes := [0] }
noncomputable def sReq (k : AccKind) (t0 rp : Nat) : State := { flying (accP k) with txns := [(77, txn0 t0 rp)], peerInc := [(18, 9)], planes := [(1, { dead := true })] }
noncomputable def rep (ans : FabAns) : FabReply := { tag := 77, src := 1, srcBay := 2, srcInc := 9, plane := 0, ans := ans }
/-- RemoteAccessResults: a reply without a request and of another incarnation; data, records and NACKs for each kind; a request of FTO and of one ns less; four failed tries and fewer; a dead plane with the next
live one seven further, busy and not; an announcement beside a staged group. -/
theorem wit_RemoteAccessResults :
    (∀ k ∈ [AccKind.load, .ldp, .wait, .atomic, .store, .stp, .red], ∀ t ∈ [198000000, 198000001], ∀ rp ∈ [0, 3, 4], let s := sReq k t rp
     (InRequest s 77 (txn0 t rp) (accP k)) ∧ mget? s.txns 78 = none ∧ (rep (.nack 2 0)).srcInc = incOf s 1 2 ∧ ({ rep (.nack 2 0) with srcInc := 8 }).srcInc ≠ incOf s 1 2 ∧ (s.core 0).recs.length < 16 ∧
       (s.course? 0 0).isSome ∧ (∀ l ∈ (accP k).lanes, l < 8) ∧ (s.bay (s.bayOf 0)).formed = true ∧ (s.bay (s.bayOf 0)).cont = none ∧ s.st ≠ .trip ∧ ((txn0 t rp).t0 + s.fto ≤ s.t ↔ t = 198000000) ∧
       (s.t < (txn0 t rp).t0 + s.fto ↔ t = 198000001)) ∧
    (proxyPending (dropTxn (sReq .load 0 0) 77) ((accP .load).ea.toNat / 64) = false ∧ (∀ o b, (accP .store).ag ≠ .orphan o b)) ∧
    (∀ rp ∈ [3, 4], ∀ a ∈ (sReq .load 0 rp).accs, fillRead (sReq .load 0 rp) a = false) ∧
    (let s := { one (crs { rdy with st := .monitor }) with peerMon := [(77, (0, 0, 0))], peerInc := [(18, 9)] }
     mget? s.txns 77 = none ∧ mget? s.peerMon 77 = some (0, 0, 0) ∧ (rep .wake).srcInc = incOf s 1 2 ∧ allDead s = false ∧ s.st = .ready ∧ (s.course? 0 0).isSome ∧ ((crs { rdy with st := .monitor }).lane 0).st = .monitor) ∧
    ((sReq .wait 0 0).accs.filter (fun z => z.id == 9)).length = 1 ∧
    (let s := { one (crs rdy) with planes := (List.range 8).map (fun k => (k, { dead := k != 2 })) }
     (mget s.planes 3 {}).dead = true ∧ (mget s.planes 3 {}).via = none ∧ (mget s.planes ((3 + 1 + 6) % 8) {}).dead = false ∧ (∀ m, m < 6 → (mget s.planes ((3 + 1 + m) % 8) {}).dead = true) ∧
       allDead s = false ∧ allDead { s with planes := (List.range 8).map (fun k => (k, { dead := true })) } = true ∧ planeBusy s 3 = false ∧ planeBusy { s with txns := [(77, { txn0 0 0 with off := 0x300 })] } 3 = true) := by
  refine ⟨?_, ⟨by decide +kernel, fun o b h => by cases h⟩, by decide +kernel, by decide +kernel, by decide +kernel, by decide +kernel⟩
  intro k hk t ht rp hr
  have := (by decide +kernel : ∀ k ∈ [AccKind.load, .ldp, .wait, .atomic, .store, .stp, .red], ∀ t ∈ [198000000, 198000001], ∀ rp ∈ [0, 3, 4], let s := sReq k t rp
    (mget? s.txns 77 = some (txn0 t rp) ∧ s.accs.filter (fun y => y.ph == .remote 77) = [accP k] ∧ (txn0 t rp).ridge = none) ∧ mget? s.txns 78 = none ∧ (rep (.nack 2 0)).srcInc = incOf s 1 2 ∧
      ({ rep (.nack 2 0) with srcInc := 8 }).srcInc ≠ incOf s 1 2 ∧ (s.core 0).recs.length < 16 ∧
      (s.course? 0 0).isSome ∧ (∀ l ∈ (accP k).lanes, l < 8) ∧ (s.bay (s.bayOf 0)).formed = true ∧ (s.bay (s.bayOf 0)).cont = none ∧ s.st ≠ .trip ∧ ((txn0 t rp).t0 + s.fto ≤ s.t ↔ t = 198000000) ∧
      (s.t < (txn0 t rp).t0 + s.fto ↔ t = 198000001)) k hk t ht rp hr
  exact this

noncomputable def xMc : Course := crs rdy [(20, 0x8000), (21, 0x10100), (22, 0x1FFF), (23, 0x10000)]
noncomputable def sMc : State := { one xMc with mcg := [(4095, { members := 7, bay := 0 })] }
noncomputable def mc0 (fl : List Nat) (st : W64) (acked : Bool) : Mcst :=
  { core := 0, slot := 0, lane := 0, lanes := [0], fut := 3, gen := 2, dest := 0x8000, status := st, group := 4095, sig := true, ridge := none, members := [0, 1, 511], pc := 0x40, iss := 5, t0 := 198000000,
    acked := acked, failed := fl, stat := [9], prv := true }
noncomputable def sMc2 (m : Mcst) : State :=
  { one (crs rdy) with cores := [(0, { core1 (crs rdy) with futs := [(3, { st := .running, val := 0, gen := 2, blk := 0, kind := .mcst, cause := 0 })], qtlb := [(0, [{ va := 0x10000, z := 0, leaf := 0x1001F }])] })],
                       mcsts := [(77, m)], accs := [{ acc0 (.thread 0 0 0) .store (.remote 77) with id := 10 }] }
noncomputable def stM (s : State) (m : Mcst) (i : Nat) : Access :=
  { id := s.nextAcc + i, iss := m.iss, ag := .thread m.core m.slot m.lane, kind := .store, form := m.status + BitVec.ofNat 64 (32 * i), ea := m.status + BitVec.ofNat 64 (32 * i), size := 32, data := natBytes 32 0,
    prv := m.prv, pc := m.pc, next := m.pc, lanes := m.lanes }
/-- The MCST whose line of eight sectors has come. -/
noncomputable def run0 : McstRun := { iss := 4, mask := [0], pc := 0x40, dest := 0x8000, ctl := 0x1FFF, status := 0x10000, ids := List.range 8, got := (List.range 8).map (fun i => (i, List.replicate 32 7)) }
/-- MulticastResults: a word of group 4095 without a ridge group and in one that is open, its line to be read and come; an acknowledgement whose members all answered or failed before, without and with a status record, in a ridge group; one that lacks a member; a stored
status; a member without an answer at FTO and before. -/
theorem wit_MulticastResults :
    (xMc.u.rq 7 = true ∧ (xMc.u.rs 20).toNat < 2 ^ 47 ∧ (xMc.u.rs 20).toNat % 256 = 0 ∧ (xMc.u.rs 22).toNat < 2 ^ 24 ∧ (xMc.u.rs 22).toNat / 2 ^ 14 % 4 = 0 ∧ (xMc.u.rs 21).toNat % 256 = 0 ∧
      classAddr (xMc.u.rs 21) ≠ .peer ∧ (xMc.u.rs 23).toNat % 64 = 0 ∧ mget? sMc.mcg ((xMc.u.rs 22).toNat % 4096) = some { members := 7, bay := 0 } ∧ relPassed sMc (uniAgent iss0) 6 = true ∧
      (xMc.u.rs 22).toNat / 2 ^ 13 % 2 = 0 ∧ mcstRun? sMc iss0 0 0 = none ∧ (mcstLoads sMc iss0 0 (xMc.u.rs 21)).held = false ∧ (mcstLoads sMc iss0 0 (xMc.u.rs 21)).bad = []) ∧
    (∀ st ∈ [RidgeSt.idle, .opened], ∀ b ∈ [0, 2 ^ 13 + 2 ^ 23], let m := { run0 with ctl := 0x1FFF - 2 ^ 12 + b }
     let s := { one { xMc with mcst := [m] } with mcg := [(4095, { members := 7, bay := 0 })], ridges := [(128, { st := st })] }
     mcstRun? s iss0 0 0 = some m ∧ mget? s.mcg (m.ctl % 4096) = some { members := 7, bay := 0 } ∧ (m.ctl / 2 ^ 13 % 2 = 1 → ridgeMayLeave s (m.ctl / 2 ^ 16 % 256) = true) ∧
       (s.core 0).futFree = 0 :: (List.range 256).tail ∧ m.dest < 2 ^ 47) ∧
    (∀ st ∈ [0, 0x10000], let m := mc0 [511] (BitVec.ofNat 64 st) false
     let s := sMc2 m
     let res := [(0, McstRes.done 7 rec1), (1, McstRes.nack 0 4)]
     mget? s.mcsts 77 = some m ∧ allDead s = false ∧ (∀ e ∈ res, memberInc e.2 = incOf s e.1 (peerBay m.dest)) ∧ (∀ n ∈ m.members, n ∈ m.failed ∨ n ∈ res.map (·.1)) ∧ (∀ e ∈ res, e.1 ∈ m.members ∧ e.1 ∉ m.failed) ∧ (res.map (·.1)).Nodup ∧
       (mget? (s.core 0).futs 3).map (·.gen) = some m.gen ∧ (∀ A ∈ s.accs, A.ph = .remote 77 → A.dest = .none ∧ ∀ B ∈ s.accs, B.id = A.id → B.ph = .remote 77) ∧
       (st ≠ 0 → goes (probeOf s 0 (stM s m 0)) = true ∧ goes (probeOf s 0 (stM s m 1)) = true)) ∧
    (1 ∈ (mc0 [511] 0 false).members ∧ 1 ∉ (mc0 [511] 0 false).failed ∧ 1 ∉ [(0, McstRes.done 7 rec1)].map (·.1) ∧ memberInc (.nack 8 4) ≠ incOf (sMc2 (mc0 [511] 0 false)) 1 (peerBay (mc0 [511] 0 false).dest) ∧
      allDead { sMc2 (mc0 [511] 0 false) with planes := (List.range 8).map (fun k => (k, { dead := true })) } = true) ∧
    ((mc0 [] 0x10000 true).acked = true ∧ accsDone (sMc2 (mc0 [] 0x10000 true)) [9] = true ∧
      accsDone { one (crs rdy) with accs := [acc0 (.thread 0 0 0) .store (.flight 0x10000)] } [9] = false) ∧
    (∀ t ∈ [200000000, 199999999], let s := { sMc2 (mc0 [] 0 false) with t := t }
     511 ∈ (mc0 [] 0 false).members ∧ 511 ∉ (mc0 [] 0 false).failed ∧ ((mc0 [] 0 false).t0 + s.fto ≤ s.t ↔ t = 200000000) ∧ (s.t < (mc0 [] 0 false).t0 + s.fto ↔ t = 199999999) ∧ (s.bay (s.bayOf 0)).formed = true ∧ (s.bay (s.bayOf 0)).cont = none ∧
       s.st ≠ .trip ∧ (mget s.planes ((mc0 [] 0 false).dest / 256 % 8) {}).dead = false ∧ mget? (mget s.ridges 255 {}).marks 511 = none) := by
  refine ⟨by decide +kernel, by decide +kernel, ?_, by decide +kernel, by decide +kernel, by decide +kernel⟩
  decide +kernel

noncomputable def op0 : RidgeOp := { core := 0, slot := 0, blk := 0, fut := 3, gen := 2, pc := 0x40, bay := 0, iss := 5 }
noncomputable def rdg (st : RidgeSt) (cur : Option RidgeOp) (marks : Map Nat := []) (acked : List Nat := []) : Ridge :=
  { st := st, counts := [(1, 4), (2, 7)], marks := marks, cur := cur, answers := [(1, .ready 50)], acked := acked, sentAt := 198000000, bays := [0] }
noncomputable def sRdg (r : Ridge) (n : Nat := 15) : State :=
  { pkg { rec16 n with courses := [(0, crs rdy [(20, 255)])], futs := [(3, { st := .running, val := 0, gen := 2, blk := 0, kind := .ridge, cause := 0 })] } with ridges := [(255, r)] }
/-- A message of bay 2 of package 1 to bay 0. -/
noncomputable def w12 (i : BitVec 16) : Sender := ⟨1, 2, i, 0⟩
/-- RidgeInitiatorResults: RIDGE of group 255 in each of the group's states, marked and unmarked, with a write not left and none; the last answers: all ready, with TP either bound, and one refused; acknowledgements; times; an aborted group whose RIDGE a containment took, and a sender of this and of another incarnation. -/
theorem wit_RidgeInitiatorResults :
    (∀ r ∈ [rdg .idle none, rdg .opened none, rdg .opened none [(2, 8), (7, 4)], rdg .voting (some op0), rdg .publishing (some op0)], let s := sRdg r
     CourseIssues s iss0 0 0 (crs rdy [(20, 255)]) ∧ (crs rdy [(20, 255)]).u.rq 7 = true ∧ ((crs rdy [(20, 255)]).u.rs 20).toNat < 256 ∧ (s.core 0).futFree = 0 :: (List.range 256).tail ∧ ridgeUnsent s 255 5 = false ∧
       ridgeUnsent { s with accs := [{ acc0 (.thread 0 0 0) .store .missed with ridge := some 255, iss := 4 }] } 255 5 = true) ∧
    ((rdg .opened none [(2, 8), (7, 4)]).marks = [(2, 8), (7, 4)] ∧ mget? [(2, 8), (7, 4)] 2 = some 8 ∧ (∀ y ∈ [(2, 8), (7, 4)], 2 < y.1 ∨ y = (2, 8))) ∧
    ((rdg .opened (some op0)).cur = some op0 ∧ (rdg .opened (some op0)).marks = []) ∧
    (let r := rdg .voting (some op0)
     (mget? r.counts 2).isSome ∧ mget? r.answers 2 = none ∧ (∀ n ∈ mkeys r.counts, (mget? (mset r.answers 2 (.ready 60)) n).isSome) ∧
       (let s := sRdg r; ∀ late ∈ [0, 300000000], let got := mset r.answers 2 (.ready late)
        let tp := max (s.t + s.pl) (late + 24)
        s.t + s.pl ≤ tp ∧ 50 + 24 ≤ tp ∧ late + 24 ≤ tp ∧ (tp = s.t + s.pl ∨ tp = late + 24) ∧ got = [(1, .ready 50), (2, .ready late)]) ∧
       (2, RidgeAns.refuse 9) ∈ mset r.answers 2 (.refuse 9) ∧ r.sentAt + (sRdg r).fto ≤ (sRdg r).t ∧ ({ sRdg r with t := 199999999 }).t < r.sentAt + (sRdg r).fto) ∧
    (let r := { rdg .publishing (some op0) [] [2] with aborted := some (9, 2) }
     r.aborted.isSome ∧ (mget? r.counts 1).isSome ∧ 1 ∉ r.acked ∧ (mget? ((sRdg r).core 0).futs 3).map (·.gen) = some op0.gen ∧ (∀ n ∈ mkeys r.counts, n = 1 ∨ n ∈ r.acked) ∧ ((sRdg r).core 0).recs.length < 16) ∧
    (let r := { rdg .publishing (some op0) with tp := some 198000000 }
     (mget? r.counts 1).isSome ∧ 1 ∉ r.acked ∧ (∃ n ∈ mkeys r.counts, n ≠ 1 ∧ n ∉ r.acked) ∧ 198000000 + (sRdg r).fto ≤ (sRdg r).t ∧ ({ sRdg r with t := 199999999 }).t < 198000000 + (sRdg r).fto ∧
       ((sRdg r).bay 0).formed = true ∧ ((sRdg r).bay 0).cont = none) ∧
    (let r := { rdg .publishing none [] [2] with aborted := some (0x3F, 0), doomed := [op0] }
     let s := { sRdg r with peerInc := [(18, 9)] }
     OnFabric s ∧ (w12 9).inc = incOf s 1 2 ∧ (w12 8).inc ≠ incOf s 1 2 ∧ (mget? r.counts 1).isSome ∧ (∀ m ∈ mkeys r.counts, m = 1 ∨ m ∈ r.acked) ∧ r.cur = none ∧
       (mget? (s.core 0).futs 3).map (·.gen) = some op0.gen ∧ (s.core 0).recs.length < 16) ∧
    (let r := rdg .idle none [(2, 8), (7, 4)]
     r.cur = none ∧ r.waiting = [] ∧ r.st = .idle ∧ r.doomed = [] ∧ mget? r.marks 2 = some 8) ∧
    (let r := rdg .voting (some op0) [(1, 8)]
     (1, 8) ∈ r.marks ∧ (mset r.answers 2 (.refuse 9)) = [(1, .ready 50), (2, .refuse 9)] ∧ ∀ y ∈ r.marks, 1 < y.1 ∨ y = (1, 8)) ∧
    (let r := { rdg .publishing (some op0) [] [1, 2] with aborted := some (9, 2) }
     (∀ n ∈ mkeys r.counts, n ∈ r.acked) ∧ (mget? r.counts (w12 0).pkg).isSome ∧ (w12 0).pkg ∈ r.acked ∧ 16 ≤ ((sRdg r 16).core 0).recs.length) := by
  refine ⟨?_, by decide +kernel, by decide +kernel, by decide +kernel, by decide +kernel, by decide +kernel,
    ⟨.inr (.inl rfl), by decide +kernel⟩, by decide +kernel, by decide +kernel, by decide +kernel⟩
  intro r hr
  have := (by decide +kernel : ∀ r ∈ [rdg .idle none, rdg .opened none, rdg .opened none [(2, 8), (7, 4)], rdg .voting (some op0), rdg .publishing (some op0)], let s := sRdg r
    ((crs rdy [(20, 255)]).u.rq 7 = true ∧ ((crs rdy [(20, 255)]).u.rs 20).toNat < 256 ∧ (s.core 0).futFree = 0 :: (List.range 256).tail ∧ ridgeUnsent s 255 5 = false ∧
       ridgeUnsent { s with accs := [{ acc0 (.thread 0 0 0) .store .missed with ridge := some 255, iss := 4 }] } 255 5 = true)) r hr
  exact ⟨⟨rfl, rfl, rfl⟩, this⟩
/-- and no lane of the core waits for the entry. -/
theorem wit_Ridge_courses (r : Ridge) : ∀ j y, (sRdg r).course? 0 j = some y → ∀ ln ∈ y.lanes, ln.waitsOn 0 0 = false := by
  intro j y h ln hl
  have : (j, y) ∈ [(0, crs rdy [(20, 255)])] := courseIs _ _ j y rfl h
  simp only [List.mem_cons, List.not_mem_nil, or_false, Prod.mk.injEq] at this
  obtain ⟨rfl, rfl⟩ := this
  have : ∀ ln ∈ (crs rdy [(20, 255)]).lanes, ln.waitsOn 0 0 = false := by decide +kernel
  exact this ln hl

/-- RidgeDestinationResults: a count above the writes staged and equal to it, with leases; a count that waits 100,000 ns and one less; PUBLISH with and without writes; ABORT before and after it. -/
theorem wit_RidgeDestinationResults :
    (let st : Stage := { writes := [stw], staged := 1 }
     let s := { one (crs rdy) with stages := [(511, st)], leases := [(0x400, { l0 := 5, l1 := 9, lr := 7 })] }
     mget s.stages (256 * 1 + 255) {} = st ∧ st.ready = false ∧ st.tp = none ∧ st.staged < 2 ∧ 1 ≤ st.staged ∧
       (∀ w ∈ st.writes, let l := mget s.leases (32 * w.sector / 64) {}; max l.l0 (max l.l1 l.lr) ≤ 9) ∧ (∃ w ∈ st.writes, let l := mget s.leases (32 * w.sector / 64) {}; 9 = max l.l0 (max l.l1 l.lr)) ∧
       (∀ y ∈ st.writes, (256 + homeOf s (32 * y.sector)) ∉ s.safe) ∧ (∃ y ∈ st.writes, (256 + homeOf { s with safe := [257] } (32 * y.sector)) ∈ [257]) ∧ (w12 0).inc = incOf s 1 2 ∧ (w12 1).inc ≠ incOf s 1 2) ∧
    (∀ t ∈ [199900000, 199900001], let st : Stage := { writes := [stw], want := some (2, t) }
     (st.want = some (2, t)) ∧ (t + 100000 ≤ (one (crs rdy)).t ↔ t = 199900000) ∧ ((one (crs rdy)).t < t + 100000 ↔ t = 199900001)) ∧ (one (crs rdy)).st = .ready ∧
    (mget? { one (crs rdy) with stages := [(511, {})] }.stages (256 * 1 + 255) = some {} ∧ ({} : Stage).writes = [] ∧ ({} : Stage).tp = none ∧ [stw] ≠ [] ∧ (stg stw []).tp = some 200000000) := by decide +kernel

noncomputable def accH (pa : Nat) (t0 : Nat) : Access := { acc0 (.thread 0 0 0) .load (.flight pa) with t0 := t0 }
noncomputable def bayH : Bay := { formed := true, inc := 7, hdmHost := 0x500020, hdmBase := 0x10000, hdmLen := 0x10000, ringB := 0x200004, pages := [(255, { vaddr := 0x30000, paddr := 0x10000, treq := 100000000, inc := 7 })] }
/-- HostLinkResults: the first and the last sector of the HDM range; below it and with the port down; ports with nothing outstanding and with one access, of the timeout's age and of less; answers to a page request: ok, failing,
unmatched, with the notice queue full and held; the record of a host's write; a request of 100,000,000 ns and one less. -/
theorem wit_HostLinkResults :
    (let s := pkg (core1 (crs rdy)) iss0 bayH
     (∀ pa ∈ [0x10000, 0x1FFE0], HdmAt s 0 (pa + 0x4F0020) 32 (tg0 pa) ∧
       heldForTp s (pa / 32) (homeT s (lineHome pa)) = false ∧ lateForTp s (pa / 32) (homeT s (lineHome pa)) = false ∧ badSector s (pa / 32) = none ∧ (badSector { s with bad := [.memory (pa / 32) 1] } (pa / 32)).isSome) ∧ 0x50001F < (s.bay 0).hdmHost ∧ s.accs = [] ∧
     (let ok := BitVec.ofNat 512 (7 * 2 ^ 16 + 255 * 2 ^ 32)
      ok.toNat / 2 ^ 16 % 2 ^ 16 = (s.bay 0).inc.toNat ∧ (mget? (s.bay 0).pages (ok.toNat / 2 ^ 32 % 256)).isSome ∧ ok.toNat % 256 = 0 ∧ (s.bay 0).notices.length + (s.bay 0).reserved < 4096 ∧
      (BitVec.ofNat 512 (ok.toNat + 1)).toNat % 256 ≠ 0 ∧ mget? (s.bay 0).pages 254 = none) ∧
     255 ∉ (s.bay 0).heldAns ∧ s.report = none ∧ 4096 ≤ 0 + ({ bayH with reserved := 4096 } : Bay).reserved ∧ 255 ∈ ({ bayH with heldAns := [255] } : Bay).heldAns ∧ (s.bay 0).cont = none ∧
     100000000 + 100000000 ≤ s.t ∧ ({ s with t := 199999999 }).t < 100000000 + 100000000) ∧
    (let A := { acc0 .host .store (.recorded rec1 [] 0x10000) with form := 0x500020 }
     (flying A).accs.find? (fun y => y.id == A.id) = some A ∧ A.ag = .host) ∧
    (∀ t0 ∈ [199000000, 199000001], let s := flying (accH 0x200000000000 t0)
     s.accs.filter (fun y => atPort s true y) = [accH 0x200000000000 t0] ∧ s.accs.filter (fun y => y.id == 9) = [accH 0x200000000000 t0] ∧ (s.bay (s.bayOf 0)).formed = true ∧ (s.bay (s.bayOf 0)).cont = none ∧
       (t0 + s.mTo ≤ s.t ↔ t0 = 199000000) ∧ (s.t < t0 + s.mTo ↔ t0 = 199000001)) := by
  simp only [HdmAt]
  decide +kernel

noncomputable def temps (x : BitVec 16) : List Sensors := List.replicate 31 ⟨0, 0, 0, 0⟩ ++ [⟨0, x, 0, 0⟩]
noncomputable def tempM (x : BitVec 16) : Map Sensors := [(31, ⟨0, 0, 0, x⟩)]
/-- PowerAndTemperatureResults: sensors read 1,000 ns ago and one ns later; readings at 120 °C and a sixteenth below; a throttled column; a tripped package at 90 °C and a sixteenth above; the operating points at the edges of each range; a clock to come. -/
theorem wit_PowerAndTemperatureResults :
    ((temps 1920).length = 32 ∧ (∃ g, g < 32 ∧ 1920 ≤ ((temps 1920).getD g ⟨0, 0, 0, 0⟩).c6.toInt) ∧ (∀ g, g < 32 → ((temps 1919).getD g ⟨0, 0, 0, 0⟩).c6.toInt < 1920) ∧ (∀ st ∈ [PkgSt.root, .service, .ready], ({ one (crs rdy) with st := st } : State).st ≠ .trip ∧ rootRuns { one (crs rdy) with st := st } = true)) ∧
    (∀ t0 ∈ [199999000, 199999001], let s := { one (crs rdy) with sensedAt := some t0 }
     (t0 + 1000 ≤ s.t ↔ t0 = 199999000) ∧ (s.t < t0 + 1000 ↔ t0 = 199999001)) ∧
    (255 / 8 ∈ { one (crs rdy) with colhot := [31] }.colhot) ∧
    ((∀ g, g < 32 → (mget (tempM 1440) g ⟨0, 0, 0, 0⟩).f6.toInt ≤ 1440) ∧ (∃ g, g < 32 ∧ 1440 < (mget (tempM 1441) g ⟨0, 0, 0, 0⟩).f6.toInt)) ∧
    (∀ p ∈ [(350, 1500), (374, 1), (375, 1800), (399, 1800), (400, 2100), (650, 2100)], 0 < p.2 ∧ ((350 ≤ p.1 ∧ p.1 ≤ 374 ∧ p.2 ≤ 1500) ∨ (375 ≤ p.1 ∧ p.1 ≤ 399 ∧ p.2 ≤ 1800) ∨
      (400 ≤ p.1 ∧ p.1 ≤ 650 ∧ p.2 ≤ 2100))) ∧
    ((mget { one (crs rdy) with islands := [(259, { target := some 900 })] }.islands 259 {}).target = some 900) ∧
    (∀ t0 ∈ [199900000, 199900001], let s := { one (crs rdy) with powerAt := some t0, islands := [(255, { mhz := 1800, cut := 3, target := some 2100, since := 199990000 })] }
     (t0 + 100000 ≤ s.t ↔ t0 = 199900000) ∧ s.off = false ∧ 255 / 8 ∉ s.colhot ∧ 199990000 + 10000 ≤ s.t ∧ 1500 ≤ 2100 ∧ 100 * 3 ≤ 2100 - 1500 ∧ ∃ mw ∈ [s.pcap * 950 - 1, s.pcap * 1000 + 1], mw ≠ 0) ∧
    (let s := pkg {} iss0 { formed := true, inc := 7, cont := some { stop := [], eave := true, noted := true } }
     (s.bay 0).formed = true ∧ (s.bay 0).cont ≠ none) := by decide +kernel

noncomputable def img0 : BootImage :=
  { root := 0x40000, walkPc := 0x1000, svPc := 0x2000, version := Config.minVersion .bay, reservedZero := true, sigOk := true, runs := [(2 ^ 39 - 64, List.replicate 64 0x55)] }
noncomputable def sBoot : State := { State.reset with st := .service, flash := { part := [(31, 15)], boot := [(15, img0)], cfg := ⟨1, 3, some 64000000, some 2000⟩ } }
/-- BringUpResults: the package after reset and at each stage; a domain configuration at the bounds of FTO and PL, and one of this package alone; bay 15 in column 31, its image's one run at the end of HBM4; an unsigned image. -/
theorem wit_BringUpResults :
    (State.reset.st = .reset ∧ { State.reset with st := .root }.st = .root ∧ 100000 ≤ 64000000 ∧ 2000 ≤ 1000000) ∧ { sBoot.flash with service := { sigOk := false } }.service.sigOk = false ∧
    (∀ p, p < 512 → ((1 : BitVec 512).getLsbD p = true ↔ p = 0)) ∧
    (sBoot.st = .service ∧ sBoot.flash.service.sigOk = true ∧ (∃ e ∈ sBoot.flash.part, e.1 < 32 ∧ e.2 = 15) ∧ (∀ e ∈ sBoot.flash.part, e.1 < 32 ∧ e.2 = 15) ∧ sBoot.bays = [] ∧ sBoot.cores = [] ∧
      img0.sigOk = true ∧ img0.reservedZero = true ∧ img0.root.toNat % 65536 = 0 ∧ img0.root.toNat < 2 ^ 39 ∧ img0.walkPc.toNat % 4 = 0 ∧ img0.walkPc.toNat < 2 ^ 39 ∧ img0.svPc.toNat % 4 = 0) ∧
    ((2 ^ 39 - 64) % 64 = 0 ∧ (List.replicate 64 (0x55 : Byte)).length % 64 = 0 ∧ 0 < (List.replicate 64 (0x55 : Byte)).length ∧ 2 ^ 39 - 64 + (List.replicate 64 (0x55 : Byte)).length ≤ 2 ^ 39) := by decide +kernel
theorem wit_image : mget? sBoot.flash.boot 15 = some img0 ∧ (∀ k, (Config.minVersion k).toNat ≤ sBoot.flash.service.version.toNat) ∧ ServiceFree sBoot ∧ imageOk sBoot img0 = true := by
  refine ⟨rfl, fun k => Nat.le_of_lt_succ (Config.minVersion k).isLt, by unfold ServiceFree; decide +kernel, ?_⟩
  simp only [imageOk, img0, Nat.le_refl, true_and]
  decide +kernel

noncomputable def cmdOf (op : Nat) (rest : Nat) : W512 := BitVec.ofNat 512 (op + rest)
noncomputable def cols0 (b : Nat) : Nat := ((List.range 32).map (fun g => 2 ^ (64 + 8 * g) * (if g = 0 then b else 0x1F))).sum
/-- A boot image as it lies in host memory, with a signature of four bytes; whether that is good is the fused key's to say. -/
noncomputable def lies (b : List Byte) : State := (one (crs rdy)).writeBytes 0x100000000040 b
/-- ManagementCommandResults: the three commands with their zero fields; a partition that changes nothing, one that gives column 0 to bay 15, one with a bay of 16; a bay that holds a block; leaves and host addresses at their bounds;
an image that is accepted; a field that is not zero. -/
theorem wit_ManagementCommandResults :
    (∀ b ∈ [0, 15, 16], Executable (one (crs rdy)) (cmdOf 1 (cols0 b)) 1 [(320, 192)] ∧ (cmdOf 1 (cols0 b)).toNat / 2 ^ 64 % 256 = b) ∧
    (((one (crs rdy)).core 0).blocks ≠ [] ∧ (pkg {}).coresOf 0 = List.range 8 ∧ ∀ c ∈ List.range 8, ((pkg {}).core c).blocks = []) ∧
    (∀ h ∈ [2 ^ 44 - 4096, 2 ^ 44, 8], Executable (one (crs rdy)) (cmdOf 2 (h * 2 ^ 320)) 2 [(384, 128)] ∧ (cmdOf 2 (h * 2 ^ 320)).toNat / 2 ^ 320 % 2 ^ 64 = h) ∧
    (∀ h ∈ [2 ^ 44 - 64, 2 ^ 44, 8], ∀ b ∈ [15, 16], let w := cmdOf 3 (b * 2 ^ 64 + h * 2 ^ 128 + 2 ^ 24 * 2 ^ 192)
     Executable (one (crs rdy)) w 3 [(72, 56), (256, 256)] ∧ w.toNat / 2 ^ 64 % 256 = b ∧ w.toNat / 2 ^ 128 % 2 ^ 64 = h ∧ w.toNat / 2 ^ 192 % 2 ^ 64 ≤ 2 ^ 24) ∧
    ((one (crs rdy)).cmd = none ∧ (cmdOf 1 256).toNat / 2 ^ 8 % 2 ^ 8 ≠ 0 ∧ (cmdOf 1 (2 ^ 63)).toNat / 2 ^ 32 % 2 ^ 32 ≠ 0) := by
  simp only [Executable, RootRuns]
  decide +kernel
noncomputable def imgB : BootImage := { img0 with version := 5 }
noncomputable def imgS : BootImage := { imgB with sigOk := Config.imageSigned (imageBody imgB 0 0) [1, 2, 3, 4] }
/-- ManagementCommandResults: an image as BOOT_SET finds it; a report on its way, and one that has arrived; columns 0 to bay 15, of which the boot image is accepted. -/
theorem wit_ManagementCommand_images :
    (imgS.runs.length ≤ 256 ∧ (∀ x ∈ imgS.runs, x.1 < 2 ^ 64 ∧ x.2.length < 2 ^ 64) ∧ imgS.reservedZero = decide (0 = 0 ∧ 0 = 0) ∧ imgS.sigOk = Config.imageSigned (imageBody imgS 0 0) [1, 2, 3, 4] ∧
      (∀ k, badSector (lies (imageBody imgS 0 0 ++ [1, 2, 3, 4])) (0x100000000040 / 32 + k) = none) ∧
      (List.range 148).map (fun j => (lies (imageBody imgS 0 0 ++ [1, 2, 3, 4])).readByte (0x100000000040 + j)) = imageBody imgS 0 0 ++ [1, 2, 3, 4]) ∧
    (let s := { flying { acc0 (.service 0) .store (.cxl rec1 [] 0x100000000000) with id := 9 } with report := some (8, 72) }
     s.report = some (8, 72) ∧ (∃ a ∈ s.accs, 8 ≤ a.id ∧ a.id < 72) ∧ ∀ a ∈ ({ s with accs := [] } : State).accs, a.id < 8 ∨ 72 ≤ a.id) ∧
    (let s := { one (crs rdy) with flash := sBoot.flash, cores := [] }
     s.st = .ready ∧ ServiceFree s ∧ (∀ c ∈ s.coresOf 15, (s.core c).blocks = []) ∧ (∀ c ∈ s.coresOf 0, (s.core c).blocks = []) ∧ mget? s.flash.boot 15 = some img0) :=
  ⟨⟨by decide, by decide, by decide, rfl, fun _ => rfl, by decide +kernel⟩, by decide +kernel, rfl, by unfold ServiceFree; decide +kernel, by decide +kernel, by decide +kernel, rfl⟩

noncomputable def svS (b : Bay) (co : Core := {}) : State := pkg co iss0 b
noncomputable def pages64 : Map PageReq := (List.range 64).map (fun k => (k, { vaddr := 0x50000, paddr := 0x10000, treq := 0, inc := 7 }))
/-- ServiceResults: W equal to the present one that an earlier call set, at 28 and above, with a resident block and without, and with a staged write; tables set and not set; layout slots 2^20 and a base not a multiple of 64; an export of the last entry and one past it; groups 4095
and 4096; an eave at each bound; walker entries; revocations of a name that is listed, resident, and with a full list; page requests with a free id and without; page releases at leases that have passed and have not. -/
theorem wit_ServiceResults :
    ((∀ w ∈ [0, 28], let s := svS { formed := true, w := w, split := some w } (core1 (crs rdy)); w = (s.bay 0).w ∧ w ≤ 28 ∧ (s.bay 0).split = some w ∧ s.stages = []) ∧
      (let s := svS { formed := true } (core1 (crs rdy)); 28 ≠ (s.bay 0).w ∧ (s.bay 0).split ≠ some 28 ∧ ∃ c ∈ s.coresOf 0, ∃ e ∈ (s.core c).blocks, e.2.st ≠ .swapped) ∧
      (let s := svS { formed := true }; (∀ c ∈ s.coresOf 0, ∀ e ∈ (s.core c).blocks, e.2.st = .swapped) ∧ s.stages = [] ∧ mget? s.cols 0 = some 0) ∧
      (∃ e ∈ [(511, stg stw [])], ∃ y ∈ e.2.writes, y.bay = 0 ∧ y.die = 0)) ∧
    ((svS (bayO)).bay 0).fcnt ≠ 0 ∧ ((svS { formed := true }).bay 0).fcnt = 0 ∧ (∀ e ∈ (svS { formed := true }).bays, e.2.otb = 0 ∧ e.2.fcnt = 0 ∧ e.2.hdmLen = 0) ∧
    ((0x1000040 : Nat) % 64 = 0 ∧ (2 ^ 20 = 2 ^ 20 ∧ 20 ≤ 20)) ∧
    exportOk (BitVec.ofNat 256 (0x20000 * 2 ^ 192 + 0x10000 * 2 ^ 128 + 0x10000 * 2 ^ 64 + 0xEC)) = true ∧
    (let s := { svS { formed := true } with mcg := [(7, { members := 1, bay := 2 })] }
     mget? s.mcg 4095 = none ∧ (∀ p, p < 512 → (3 : BitVec 512).getLsbD p = true → s.members.getLsbD p = true) ∧ ((4 : BitVec 512).getLsbD 2 = true ∧ s.members.getLsbD 2 = false) ∧
       (∃ g, mget? s.mcg 7 = some g ∧ g.bay ≠ 0)) ∧
    (let s := svS { formed := true, w := 8 }
     let n := ((List.range 16).filter (fun k => mget? s.cols (16 * 0 + k) == some 0)).length
     0 < n ∧ 8 % 8 = 0 ∧ 8 ≤ (s.bay 0).w * n ∧ (s.bays.map (fun x => if x.1 = 0 then 0 else mget x.2.eave 0 0)).sum + 8 ≤ 128 ∧ (s.bay 0).w * n < 16 ∧
       ((List.range 16).filter (fun k => mget? s.cols (16 * 1 + k) == some 0)).length = 0) ∧
    (let s := sObj (crs rdy) [] 2 1
     (s.bay 0).revoked.length < 64 ∧ s.accs = [] ∧ probe s 0 name0 = some 3 ∧ frameState s 0 3 ≠ 1 ∧ probe (sObj (crs rdy) [] 2 0) 0 name0 = none) ∧
    (let e : Revoked := { name := name0, frame := 3, gen := 4, fv := true }
     (∃ x ∈ ((svS (bayO [e])).bay 0).revoked, nameKey x.name = nameKey name0) ∧
       (let s := svS (bayO (List.replicate 64 { e with name := 0 })); 64 ≤ (s.bay 0).revoked.length ∧ ∀ x ∈ (s.bay 0).revoked, nameKey x.name ≠ nameKey name0)) ∧
    (let s := svS { bayH with pages := [] }
     (0x20000#64).toNat % 65536 = 0 ∧ (0x10000#64).toNat % 65536 = 0 ∧ 4 ≤ (s.bay 0).ringB.toNat % 16 ∧ (s.bay 0).ringB.toNat % 16 ≤ 12 ∧ (s.bay 0).hdmBase ≤ (0x10000#64).toNat ∧
       (0x10000#64).toNat + 65536 ≤ (s.bay 0).hdmBase + (s.bay 0).hdmLen ∧ mget? (s.bay 0).pages 63 = none) ∧
    (let s := svS { bayH with pages := pages64 }
     (∀ e ∈ (s.bay 0).pages, e.2.vaddr ≠ 0x20000) ∧ (∀ k, k < 64 → (mget? (s.bay 0).pages k).isSome)) ∧
    (∀ i, i < 1024 → let l := mget (svS bayH).leases (0x10000 / 64 + i) {}; max l.l0 (max l.l1 l.lr) ≤ homeT (svS bayH) (homeOf (svS bayH) (64 * (0x10000 / 64 + i)))) ∧
    (let s := svS bayH
     ServiceFree s ∧ (0x10000 % 65536 = 0 ∧ 0x10000 < 2 ^ 39 ∧ (s.bay 0).hdmBase ≤ 0x10000 ∧ 0x10000 + 65536 ≤ (s.bay 0).hdmBase + (s.bay 0).hdmLen) ∧ s.hUp = true ∧ (s.bay 0).hdmBase + (s.bay 0).hdmLen < 0x20000 + 65536 ∧
       (let a := acc0 (.orphan (some 0) 0) .store (.flight 0x1FFE0); isPeer 0x1FFE0 = false ∧ canonPa s 0x1FFE0 / 65536 = 0x10000 / 65536 ∧ a.ag = .orphan (some 0) 0) ∧
       (mget { s with services := [(0, { fence := true })] }.services 0 {}).fence = true) ∧
    (let s := { svS bayH with leases := [(0x10000 / 64 + 1023, { l0 := 200000001 })] }
     homeT s (homeOf s (64 * (0x10000 / 64 + 1023))) < (mget s.leases (0x10000 / 64 + 1023) {}).l0) ∧
    ((svS { inc := 7 }).bay 0).formed = false := by
  unfold ServiceFree
  refine ⟨by decide +kernel, by decide +kernel, by decide +kernel, by decide +kernel, by decide +kernel, by decide +kernel, ⟨by decide +kernel, by decide +kernel, by decide +kernel, ⟨_, rfl, by decide⟩⟩, ?_, ?_, ?_, ?_, ?_, ?_, ?_, ?_, ?_⟩
  all_goals decide +kernel
/-- and a group that no bay has put stands in no other bay's. -/
theorem wit_Service_group : ∀ g, mget? ({ svS { formed := true } with mcg := [(7, { members := 1, bay := 2 })] } : State).mcg 4095 = some g → g.bay = 0 := by
  intro g h
  cases h

/-- DecodeOfEncodeIsTheInstruction: a two-word instruction and one of one word. -/
theorem wit_DecodeOfEncodeIsTheInstruction : ∀ i ∈ [Instr.ld .b32 3 8 2 ⟨5, 1, 0, 0, 0, 0x40⟩, .fadd 7 62 62 62], i.wellFormed = true ∧ encodeWords i ≠ [] := by decide +kernel
/-- EncodeOfDecodeIsTheWords: the words of FADD, and of LD with its address word. -/
theorem wit_EncodeOfDecodeIsTheWords : (match decode 0x2F8828C0 0, decode 0x45901004 0x54000040 with
    | .ok i, .ok j => i == .fadd 7 4 5 6 && j == .ld .b32 3 8 2 ⟨5, 1, 0, 0, 0, 0x40⟩
    | _, _ => false) = true := by decide +kernel

/-- The package after reset with a word placed for its next step. -/
noncomputable def sFw (w : Nat) : State := State.reset.withFetchWord 32 w
def isWords (r : WordsRes) (ws : List W32) : Bool := match r with
  | .words x _ => x == ws
  | .stop _ => false
def isInstr (f : Fate) (i : Instr) : Bool := match f with
  | .instr j => j == i
  | .bad .. => false
/-- StepRunsTheDecodedInstruction: FADD in slot 511 after reset; BUNLK in a job, MEND in a sequencer; each is the word of the next step. -/
theorem wit_StepRunsTheDecodedInstruction :
    (let s := sFw 0x2F8828C0
     let s1 := { s with nextIss := s.nextIss + 1 }
     s.off = false ∧ s.accs = [] ∧ (s.course? 0 511).isSome ∧ isActive s 0 511 = true ∧ ((s.course? 0 511).getD {}).yield = false ∧ selectPc ((s.course? 0 511).getD {}) 0 = some (0x10000, false) ∧
       courseMin ((s.course? 0 511).getD {}) = some 0x10000 ∧ isWords (fetchWords s1 (.thread 0 511 0) ((s.course? 0 511).getD {}).prv 0x10000 3 [] none) [0x2F8828C0] = true ∧
       isInstr (fateOf s1 (.course 0 511) (splitWords [0x2F8828C0] {})) (.fadd 7 4 5 6) = true ∧
       scoreHeld s1 (.course 0 511) [0, 1, 2, 3] (.fadd 7 4 5 6) (toPfx [] {}) = false ∧ readErr s1 (.course 0 511) [0, 1, 2, 3] (.fadd 7 4 5 6) (toPfx [] {}) = false ∧ ((s.course? 0 511).getD {}).issv = [] ∧
       (List.range 4).all (fun l => wordsOrdered s1 (.thread 0 511 l) true 0x10000 1) = true) := by decide +kernel
theorem wit_StepRuns_lane (s : State) (c k l : Nat) (prv : Bool) (pc : W64) (h : s.accs = []) : fetchWord s (.thread c k l) prv pc = fetchWord s (.thread c k 0) prv pc := by
  have far : ∀ ag, farWord s ag pc = none := fun ag => by simp [farWord, h]
  simp only [fetchWord, far]
  rfl
theorem wit_StepRuns_job :
    (let s := sFw 0xF9405801
     let s1 := { s with nextIss := s.nextIss + 1 }
     let j : Job := { fut := 0, blk := 0, slot := 0, prv := false, pc := 0x10000, u := {} }
     s.off = false ∧ s.job? 0 0 = some j ∧ s.accs = [] ∧ isWords (fetchWords s1 (.job 0 0) j.prv j.pc 3 [] none) [0xF9405801] = true ∧
       isInstr (fateOf s1 (.job 0 0) (splitWords [0xF9405801] {})) (.bunlk 5 22) = true ∧ scoreHeld s1 (.job 0 0) [] (.bunlk 5 22) (toPfx [] {}) = false ∧ readErr s1 (.job 0 0) [] (.bunlk 5 22) (toPfx [] {}) = false ∧ wordsOrdered s1 (.job 0 0) j.prv j.pc 1 = true) ∧
    (let s := sFw 0xEFC00000
     let s1 := { s with nextIss := s.nextIss + 1 }
     let q : Seq := { pc := 0x10000 }
     s.off = false ∧ s.seq? 0 0 = some q ∧ s.accs = [] ∧ isWords (fetchWords s1 (.seq 0 0) (prvOf s (.seq 0 0)) q.pc 3 [] none) [0xEFC00000] = true ∧
       isInstr (fateOf s1 (.seq 0 0) (splitWords [0xEFC00000] {})) .mend = true ∧ scoreHeld s1 (.seq 0 0) [] .mend (toPfx [] {}) = false ∧ readErr s1 (.seq 0 0) [] .mend (toPfx [] {}) = false ∧ wordsOrdered s1 (.seq 0 0) (prvOf s (.seq 0 0)) q.pc 1 = true) := by decide +kernel
/-- A word at its home, and from a copy of its core while the copy serves; a store of the lane to the granule holds the issue (R269, R271). -/
theorem wit_StepRuns_copy :
    (let s := sFw 0x2F8828C0
     servingCopy s 0 (granOf s 0x10000) = none ∧ s.stages = []) ∧
    (let cp : Copy := { data := [4, 3, 2, 1] ++ List.replicate 60 0, exp := 5 }
     let s := (sFw 0x2F8828C0).updCore 0 (fun co => { co with copies := [(0x400, cp)], tlb := [{ va := 0x10000, z := 0, leaf := 0x1001F }] })
     let e : TlbE := { va := 0x10000, z := 0, leaf := 0x1001F }
     untranslated (.thread 0 0 0) = false ∧ classAddr 0x10000 = .ordinary ∧ tlbFind s 0 (quarter? (.thread 0 0 0)) 0x10000 = some (e, true) ∧ leafCheck s e.z e.leaf 0x10000 .fetch true = .ok 0x10000 ∧
       servingCopy s 0 (granOf s 0x10000) = some cp ∧ isPeer 0x10000 = false ∧ badSector s (canonPa s 0x10000 / 32) = none ∧ s.stages = []) ∧
    (let a : Access := { id := 1, iss := 1, ag := .thread 0 511 0, kind := .store, form := 0x10020, ea := 0x10020, size := 4, data := [1, 2, 3, 4], ph := .flight 0x10020 }
     let s := { sFw 0x2F8828C0 with accs := [a] }
     fetchOrdered s (.thread 0 511 0) true 0x10000 = false ∧ fetchOrdered s (.thread 0 511 1) true 0x10000 = true) := by decide +kernel
/-- A PC in the window of a peer that is a member of the domain, and of one that is not. -/
theorem wit_StepRuns_peer : untranslated (.thread 0 0 0) = false ∧ classAddr 0x0100800000001000 = .peer ∧ peerValid (one (crs rdy)) (peerOf 0x0100800000001000) = true ∧
    peerValid (one (crs rdy)) (peerOf 0x0101000000001000) = false ∧ servingCopy (one (crs rdy)) 0 (granOf (one (crs rdy)) 0x0100800000001000) = none ∧ farWord (one (crs rdy)) (.thread 0 0 0) 0x0100800000001000 = none ∧
    ({ one (crs rdy) with off := true } : State).off = true := by decide +kernel
/-- words that are no prefix, of one and of two words (R142, R147). -/
theorem wit_StepRuns_words : isPrefix 0x2F8828C0 = false ∧ twoWords 0x2F8828C0 = false ∧ twoWords 0x45901004 = true ∧ isPrefix 0x45901004 = false := by decide +kernel
/-- EveryStepKeepsMemoryCanonical: memory after reset, and with bytes in it, in the form, and a step from there. -/
theorem wit_EveryStepKeepsMemoryCanonical : memWf State.reset.mem = true ∧ memWf (sFw 0x2F8828C0).mem = true ∧ (sFw 0x2F8828C0).mem ≠ [] ∧ (match step (sFw 0x2F8828C0) with
    | .next _ => true
    | _ => false) = true := by decide +kernel
/-- A step that gives a next state: FADD in slot 511, with its lanes at the next word. -/
theorem test_stepFadd : (match step (sFw 0x2F8828C0) with
    | .next t => (((t.course? 0 511).getD {}).lane 0).pc == 0x10004 && (((t.course? 0 511).getD {}).lane 4).pc == 0x10000
    | _ => false) = true := by decide +kernel

/-! ## The spec's worked values -/

/-- Registers of lane 0 after one word, under prefixes. -/
noncomputable def regAfter (i : Instr) (v : List (Nat × W32)) (d : Nat) (p : Pfx := {}) : Nat :=
  match exec i (pkg (core1 (crs { rdy with v := v })) { iss0 with pfx := p }) with
  | .next t => ((t.lane 0 0 0).rv d).toNat
  | _ => 0
/-- "One rounding against two" of spec/09 (R129, R180). -/
theorem test_ffmaRoundsOnce : regAfter (.ffma 7 4 5 6) [(5, 0x3F800800), (6, 0x3F800800), (9, 0xBF800000)] 4 { opnd := some 9 } = 0x3A000400 := by decide +kernel
theorem test_fmulFaddRoundTwice : regAfter (.fadd 7 4 4 9) [(4, BitVec.ofNat 32 (regAfter (.fmul 7 4 5 6) [(5, 0x3F800800), (6, 0x3F800800)] 4)), (9, 0xBF800000)] 4 = 0x3A000000 := by decide +kernel
/-- "add.bf16x2" of spec/09: RNE and RZ. -/
theorem test_bf16x2Overflow : regAfter (.addBf16x2 7 2 2 3) [(2, 0x7F7F3F80), (3, 0x7F7F3F80)] 2 = 0x7F804000 ∧
    regAfter (.addBf16x2 7 2 2 3) [(2, 0x7F7F3F80), (3, 0x7F7F3F80)] 2 { round := some 1 } = 0x7F7F4000 := by decide +kernel
/-- The quantisation of spec/09 (R187, R188): SCX, PK and UPK. -/
theorem test_scx : regAfter (.scxE4m3 7 12 11) [(11, 0x447A0000)] 12 = 0x40800000 ∧ regAfter (.scxE4m3 7 12 11) [(11, 0x447A0000)] 13 = 0x3E800000 := by decide +kernel
theorem test_pk : regAfter (.pkE4m3 7 14 0 13) [(0, 0x447A0000), (1, 0xC0400000), (2, 0x3C23D70A), (3, 0x44610000), (13, 0x3E800000)] 14 = 0x7601B478 := by decide +kernel
theorem test_upk : [4, 5, 6, 7].map (regAfter (.upkE4m3 7 4 14 12) [(14, 0x7601B478), (12, 0x40800000)]) = [0x44800000, 0xC0400000, 0x3C000000, 0x44600000] := by decide +kernel
/-- "One chunk, one rounding" of spec/06 (R135). -/
theorem test_chunk : (chunkNew 0 0 (List.replicate 16 0x08080808) (List.replicate 16 0x01010101) 0x3D000000 0x3D000000 0x3F800000).toNat = 0x3F800010 := by decide +kernel
/-- A line's home (R85), a copy's expiry and the times it serves (R269), a tile byte under swizzle mode 1 (R255). -/
theorem test_home : lineHome 0x12345600 = 112 := by decide +kernel
theorem test_copyServes : copyExp 1064 = 130 ∧ mayServe 130 1039 = true ∧ mayServe 130 1040 = false := by decide +kernel
theorem test_swizzle : swzByte 1 (3 * 256 + 0x25) = 3 * 256 + 0x45 := by decide +kernel
/-- Window addresses: the interleaved byte of bay 2 in columns 4, 5 and 6 stands in column 4 (spec/04, R84). -/
theorem test_window : target? { bays := [(2, { formed := true, w := 8 })], cols := [(4, 2), (5, 2), (6, 2)] } (0x18100000000 + 0x12345) = some ⟨.win, 0x10008006345, 35⟩ := by decide +kernel
/-- Tickets and records' AUX of the worked examples of spec/21, spec/26 and spec/27 (R335, R392, R396, R405). -/
theorem test_ticket : (ticket true 7 35 42).toNat = 0x800000070000232A := by decide +kernel
theorem test_aux : (aux3 0 0 4 2 0 7 1 1).toNat = 0x0000420007001001 ∧ (aux3 1 0x21 0 0 0 7 2 2).toNat = 0x0121000007002002 ∧ (aux4 3 37 2 2 0 0 1 4).toNat = 0x0312920000001300 ∧ (aux4 3 37 2 2 0 0 2 4).toNat = 0x0312920000002300 := by decide +kernel
/-- Its store and its atomic, turned away by peer 37: the record of the atomic in the buffer, its lane held; the bay of the store contained. -/
noncomputable def sNack (k : AccKind) : State :=
  { flying { accP k with ea := 0x0112921234567A40 } with txns := [(77, { txn0 0 0 with peer := 37, plane := 2 })], peerInc := [(16 * 37 + 2, 9)] }
theorem test_nackAtomic : (match exec (.remoteReply { tag := 77, src := 37, srcBay := 2, srcInc := 9, plane := 2, ans := .nack 3 0 }) (sNack .atomic) with
    | .next t => (t.core 0).recs.map (fun r => (r.code, r.aux.toNat, r.held)) == [(0x30, 0x0312920000002300, true)] && (t.lane 0 0 0).st == .held 0
    | _ => false) = true := by decide +kernel
theorem test_nackStore : (match exec (.remoteReply { tag := 77, src := 37, srcBay := 2, srcInc := 9, plane := 2, ans := .nack 3 0 }) (sNack .store) with
    | .next t => ((t.bay 0).mailbox 15).entries.length == 1 && (t.bay 0).inc == 8 && (t.bay 0).cont.isSome
    | _ => false) = true := by decide +kernel

end Sys2Proof.Tests
end

/-!
Every step keeps memory in its one form (R4, R84; log 1), and leaves no issue behind (O58).

Three operations of the model change `State.mem`: `State.writeByte`, which keeps the form (`State.writeByte_memWf`), and the filters of
`zeroRange` and `execPerstAssert` (`memWf_filter`). Of every other function of the state there is one rule, in the order of the definitions:
`f_mem`, that it leaves memory alone, or `f_memWf`, that it keeps the form. A function that takes its continuation has the
continuation's rule as a hypothesis. A rule that holds by computation is proved by `(rfl)`, in parentheses, so that `simp` keeps it
as a rewriting rule and can discharge the hypothesis of `foldl_mem` with it.
-/

section
namespace Sys2Proof.Machine

/-! ## General rules -/

@[simp] theorem State.mem_ite (p : Prop) [Decidable p] (s t : State) : (if p then s else t).mem = if p then s.mem else t.mem :=
  apply_ite State.mem p s t

@[simp] theorem foldl_mem {α : Type} {f : State → α → State} (h : ∀ s x, (f s x).mem = s.mem) (s : State) (l : List α) :
    (l.foldl f s).mem = s.mem := by
  induction l generalizing s with
  | nil => rfl
  | cons x l ih => rw [List.foldl_cons, ih, h]

@[simp] theorem foldl_updCore_mem (f : State → Nat → Core → Core) (s : State) (l : List Nat) :
    (l.foldl (fun s c => s.updCore c (f s c)) s).mem = s.mem :=
  foldl_mem (f := fun s c => s.updCore c (f s c)) (fun _ _ => rfl) s l

/-- A fold over records that carry a state, as `Issued` does. -/
theorem foldl_rec_mem {α β : Type} (g : β → State) {f : β → α → β} (h : ∀ r x, (g (f r x)).mem = (g r).mem) (r : β) (l : List α) :
    (g (l.foldl f r)).mem = (g r).mem := by
  induction l generalizing r with
  | nil => rfl
  | cons x l ih => rw [List.foldl_cons, ih, h]

/-- A step that may have nothing to do, and then leaves its state. -/
theorem getD_mem {o : Option State} {m : List Host.Cell} {s : State} (ho : ∀ t, o = some t → t.mem = m) (hs : s.mem = m) : (o.getD s).mem = m := by
  cases o with
  | none => exact hs
  | some t => exact ho t rfl

/-- What holds of every state that a read of an operand hands on. -/
def OpRead.All (P : State → Prop) : OpRead → Prop
  | .ok s _ => P s
  | .stay s => P s
  | .bad _ => True
  | .ecc _ => True

@[simp] theorem OpRead.all_ok (P : State → Prop) (s : State) (b : List Byte) : (OpRead.ok s b).All P ↔ P s := Iff.rfl
@[simp] theorem OpRead.all_stay (P : State → Prop) (s : State) : (OpRead.stay s).All P ↔ P s := Iff.rfl
@[simp] theorem OpRead.all_bad (P : State → Prop) (r : FaultRec) : (OpRead.bad r).All P ↔ True := Iff.rfl
@[simp] theorem OpRead.all_ecc (P : State → Prop) (src : Nat) : (OpRead.ecc src).All P ↔ True := Iff.rfl

theorem OpRead.All.imp {P Q : State → Prop} {r : OpRead} (h : r.All P) (hpq : ∀ s, P s → Q s) : r.All Q := by
  cases r with
  | ok s b => exact hpq s h
  | stay s => exact hpq s h
  | bad r => trivial
  | ecc src => trivial

/-- A read that leaves memory alone keeps its form. -/
theorem OpRead.All.memWf {s : State} {r : OpRead} (hr : r.All (fun t => t.mem = s.mem)) (h : memWf s.mem = true) :
    r.All (fun t => memWf t.mem = true) :=
  hr.imp fun t e => by rw [e]; exact h

/-- The state that a chain of reads hands on, or stops in, has its memory in the form. -/
def ReadWf {α : Type} : Except (OpRead × W64) (State × α) → Prop
  | .ok x => memWf x.1.mem = true
  | .error x => x.1.All (fun t => memWf t.mem = true)

@[simp] theorem memWf_ite (p : Prop) [Decidable p] (m m' : List Host.Cell) : memWf (if p then m else m') = if p then memWf m else memWf m' :=
  apply_ite memWf p m m'

theorem ite_memWf {p : Prop} [Decidable p] {s t : State} (hs : memWf s.mem = true) (ht : memWf t.mem = true) :
    memWf (if p then s else t).mem = true := by
  split
  · exact hs
  · exact ht

theorem foldl_memWf {α : Type} {f : State → α → State} (hf : ∀ s x, memWf s.mem = true → memWf (f s x).mem = true) {s : State}
    (h : memWf s.mem = true) (l : List α) : memWf (l.foldl f s).mem = true := by
  induction l generalizing s with
  | nil => exact h
  | cons x l ih => exact ih (hf s x h)

@[simp] theorem writeBytes_memWf {s : State} (h : memWf s.mem = true) (a : Nat) (bs : List Byte) : memWf (s.writeBytes a bs).mem = true :=
  State.writeBytes_memWf a bs h

/-- The next state of an outcome, where there is one, has its memory in the form. -/
def NextWf : Host.Outcome State Fault Refusal → Prop
  | .next t => memWf t.mem = true
  | .fault _ => True
  | .refused _ => True

/-- The state that a taken action leaves, or hands to the instruction it fetched, has its memory in the form. -/
def FetchedWf : Fetched → Prop
  | .stay t => memWf t.mem = true
  | .go t _ => memWf t.mem = true

@[simp] theorem fetchedWf_stay (t : State) : FetchedWf (.stay t) ↔ memWf t.mem = true := Iff.rfl
@[simp] theorem fetchedWf_go (t : State) (i : Instr) : FetchedWf (.go t i) ↔ memWf t.mem = true := Iff.rfl
@[simp] theorem nextWf_next (t : State) : NextWf (.next t) ↔ memWf t.mem = true := Iff.rfl
@[simp] theorem readWf_ok {α : Type} (x : State × α) : ReadWf (.ok x) ↔ memWf x.1.mem = true := Iff.rfl
@[simp] theorem readWf_error {α : Type} (x : OpRead × W64) : ReadWf (α := α) (.error x) ↔ x.1.All (fun t => memWf t.mem = true) := Iff.rfl

theorem fetchedWf_ite {p : Prop} [Decidable p] {x y : Fetched} (hx : FetchedWf x) (hy : FetchedWf y) : FetchedWf (if p then x else y) := by
  split
  · exact hx
  · exact hy

/-! ## Ops -/

@[simp] theorem State.updProc_mem (s : State) (c p : Nat) (f : Proc → Proc) : (s.updProc c p f).mem = s.mem := (rfl)
@[simp] theorem State.updJob_mem (s : State) (c p : Nat) (f : Job → Job) : (s.updJob c p f).mem = s.mem := (rfl)
@[simp] theorem State.updSeq_mem (s : State) (c b : Nat) (f : Seq → Seq) : (s.updSeq c b f).mem = s.mem := by simp [State.updSeq]
@[simp] theorem settleCore_mem (s : State) (c : Nat) : (settleCore s c).mem = s.mem := (rfl)
@[simp] theorem State.updLane_mem (s : State) (c k l : Nat) (f : Lane → Lane) : (s.updLane c k l f).mem = s.mem := by simp [State.updLane]
@[simp] theorem endIssue_mem (s : State) (iss : Issue) (u : Bool) (f : Nat → Lane → Lane) (pc : W64) : (endIssue s iss u f pc).mem = s.mem := by
  unfold endIssue; split <;> simp
@[simp] theorem skip_mem (s : State) (iss : Issue) (u : Bool) : (skip s iss u).mem = s.mem := by simp [skip]
@[simp] theorem laneOp_mem (s : State) (iss : Issue) (g : Guard) (f : Lane → Lane) : (laneOp s iss g f).mem = s.mem := by simp [laneOp]
@[simp] theorem uniOp_mem (s : State) (iss : Issue) (f : Uni → Uni) : (uniOp s iss f).mem = s.mem := by unfold uniOp; split <;> simp

/-! ## Faults -/

@[simp] theorem State.appendMail_mem (s : State) (b m : Nat) (e : W512) : (s.appendMail b m e).mem = s.mem := (rfl)
@[simp] theorem setFrameState_memWf {s : State} (h : memWf s.mem = true) (b f st : Nat) : memWf (setFrameState s b f st).mem = true := by
  simp [setFrameState, h]
@[simp] theorem State.mapSlices_mem (s : State) (f : Slice → Slice) : (s.mapSlices f).mem = s.mem := (rfl)
@[simp] theorem dropMonitors_mem (gone : Nat × Nat × Nat → Bool) (s : State) : (dropMonitors gone s).mem = s.mem := (rfl)

@[simp] theorem stopJob_memWf {s : State} (h : memWf s.mem = true) (c p : Nat) : memWf (stopJob s c p).mem = true := by
  unfold stopJob
  split
  · exact h
  · refine foldl_memWf (fun s f h => ?_) (by simpa using h) _
    split <;> simp [h]

@[simp] theorem startReserved_mem (s : State) (b : Nat) : (startReserved s b).mem = s.mem := by simp [startReserved]

@[simp] theorem vacateFilling_memWf {s : State} (h : memWf s.mem = true) (b : Nat) : memWf (vacateFilling s b).mem = true := by
  unfold vacateFilling
  split
  · exact h
  · refine foldl_memWf (fun s f h => ?_) h _
    split <;> simp [h]

@[simp] theorem stopCore_mem (s : State) (b c : Nat) : (stopCore s b c).mem = s.mem := (rfl)
@[simp] theorem stopFabric_mem (s : State) (b : Nat) : (stopFabric s b).mem = s.mem := (rfl)
@[simp] theorem nextInc_mem (s : State) (b : Nat) : (nextInc s b).mem = s.mem := (rfl)
@[simp] theorem containMail_mem (s : State) (b : Nat) (r : FaultRec) : (containMail s b r).mem = s.mem := by simp [containMail]
@[simp] theorem triggerMail_mem (s : State) (b : Nat) (x0 : Option FaultRec) : (triggerMail s b x0).mem = s.mem := by
  unfold triggerMail; split <;> simp

@[simp] theorem contain_mem (s : State) (b : Nat) (trigger : Option FaultRec) : (contain s b trigger).mem = s.mem := by
  unfold contain
  split
  · rfl
  · dsimp only
    split
    · simp
    · split <;> simp

@[simp] theorem containCore_memWf {s : State} (h : memWf s.mem = true) (b c : Nat) (k : Contain) : memWf (containCore s b c k).mem = true := by
  simp [containCore, h]
@[simp] theorem containEave_mem (s : State) (b : Nat) (k : Contain) : (containEave s b k).mem = s.mem := (rfl)
@[simp] theorem containNote_mem (s : State) (b : Nat) (k : Contain) : (containNote s b k).mem = s.mem := by unfold containNote; split <;> simp
@[simp] theorem containRestart_mem (s : State) (b : Nat) : (containRestart s b).mem = s.mem := by simp [containRestart]
@[simp] theorem containStep_memWf {s : State} (h : memWf s.mem = true) (b c : Nat) : memWf (containStep s b c).mem = true := by
  unfold containStep; split <;> simp [h]

@[simp] theorem containNow_memWf {s : State} (h : memWf s.mem = true) (b : Nat) : memWf (containNow s b).mem = true := by
  have hrest : ∀ s : State, memWf s.mem = true → memWf (match (s.bay b).cont with
      | some k => if k.noted then s else containStep s b 256
      | none => s).mem = true := by
    intro s h
    split
    · split <;> simp [h]
    · exact h
  exact hrest _ (hrest _ (foldl_memWf (fun s c h => containStep_memWf h b c) (by simpa using h) _))

@[simp] theorem takeFault_mem (s : State) (c k : Nat) (pc next : W64) (lanes : List Nat) (r : FaultRec) :
    (takeFault s c k pc next lanes r).mem = s.mem := by
  simp [takeFault]

@[simp] theorem eccAt_mem (s : State) (ag : Agent) (pc : W64) (lanes : List Nat) (loc : W64) (src : Nat) (async : Bool) :
    (eccAt s ag pc lanes loc src async).mem = s.mem := by
  simp [eccAt]

@[simp] theorem cancelWaiters_mem (s : State) (c e : Nat) (gen : BitVec 8) (reason cause : Nat) (notBlk : Option Nat) :
    (cancelWaiters s c e gen reason cause notBlk).mem = s.mem := by
  simp [cancelWaiters]

@[simp] theorem killBlock_memWf {s : State} (h : memWf s.mem = true) (c b : Nat) : memWf (killBlock s c b).mem = true := by
  unfold killBlock; split <;> simp [h]

@[simp] theorem failParked_mem (s : State) (b : Nat) (f : Option Nat) (name : W128) (reason cause : Nat) :
    (failParked s b f name reason cause).mem = s.mem := by
  refine foldl_mem (fun s i => ?_) s _
  split
  · rfl
  · split
    · split <;> simp
    · rfl

@[simp] theorem endReqs_mem (s : State) (b : Nat) (name : W128) : (endReqs s b name).mem = s.mem :=
  foldl_mem (fun s c => State.updCore_mem s c _) s _

@[simp] theorem jobFault_memWf {s : State} (h : memWf s.mem = true) (c p : Nat) (pc : W64) (r : FaultRec) :
    memWf (jobFault s c p pc r).mem = true := by
  unfold jobFault; split <;> simp [h]

@[simp] theorem seqFault_memWf {s : State} (h : memWf s.mem = true) (c b : Nat) (pc : W64) (r : FaultRec) :
    memWf (seqFault s c b pc r).mem = true := by
  unfold seqFault; split <;> simp [h]

@[simp] theorem faultLanes_memWf {s : State} (h : memWf s.mem = true) (iss : Issue) (lanes : List Nat) (r : FaultRec) :
    memWf (faultLanes s iss lanes r).mem = true := by
  unfold faultLanes; split <;> simp [h]

@[simp] theorem issueFault_memWf {s : State} (h : memWf s.mem = true) (iss : Issue) (lanes : List Nat) (r : FaultRec) :
    memWf (issueFault s iss lanes r).mem = true := by
  unfold issueFault; split <;> simp [h]

@[simp] theorem asyncFault_mem (s : State) (b : Nat) (r : FaultRec) : (asyncFault s b r).mem = s.mem := by simp [asyncFault]

/-! ## Addr -/

@[simp] theorem tlbRefill_mem (s : State) (c q : Nat) (e : TlbE) : (tlbRefill s c q e).mem = s.mem := (rfl)
@[simp] theorem postMsg_mem (s : State) (c : Nat) (m : W512) : (postMsg s c m).mem = s.mem := by simp [postMsg]
@[simp] theorem sendReq_mem (s : State) (c : Nat) (name : W128) (frame : Nat) (fv wr : Bool) : (sendReq s c name frame fv wr).mem = s.mem := by
  simp [sendReq]

/-! ## Cache -/

@[simp] theorem sofDrop_mem (s : State) (d g : Nat) : (sofDrop s d g).mem = s.mem := by unfold sofDrop; split <;> rfl
@[simp] theorem partDropLine_mem (s : State) (d l : Nat) : (partDropLine s d l).mem = s.mem := by simp [partDropLine]

@[simp] theorem partRoom_mem (s : State) (d : Nat) : (partRoom s d).mem = s.mem := by
  unfold partRoom
  split
  · rfl
  · split <;> simp

@[simp] theorem touchPart_mem (s : State) (d l ev : Nat) : (touchPart s d l ev).mem = s.mem := (rfl)
@[simp] theorem touchProxy_mem (s : State) (g ev : Nat) : (touchProxy s g ev).mem = s.mem := (rfl)
@[simp] theorem putProxy_mem (s : State) (g ev : Nat) (px : Proxy) : (putProxy s g ev px).mem = s.mem := by simp [putProxy]

@[simp] theorem poolRoom_mem (s : State) (g : Nat) : (poolRoom s g).mem = s.mem := by
  unfold poolRoom
  split
  · rfl
  · split <;> simp

@[simp] theorem sofTouch_mem (s : State) (t : Target) (ev : Nat) (nosc dirty : Bool) : (sofTouch s t ev nosc dirty).mem = s.mem := by
  unfold sofTouch
  split
  · rfl
  · dsimp only
    split <;> simp

@[simp] theorem sofClean_mem (s : State) (g : Nat) : (sofClean s g).mem = s.mem := by unfold sofClean; split <;> rfl
@[simp] theorem sofDropAll_mem (s : State) (p : Nat → Bool) : (sofDropAll s p).mem = s.mem := by simp [sofDropAll]

/-! ## Queue -/

@[simp] theorem putRec_mem (s : State) (c : Nat) (r : FaultRec) : (putRec s c r).mem = s.mem := by unfold putRec; split <;> simp
@[simp] theorem setLevel_mem (s : State) (b lvl : Nat) (l : List SpawnE) : (setLevel s b lvl l).mem = s.mem := (rfl)

@[simp] theorem failEntry_mem (s : State) (b lvl : Nat) (e : SpawnE) (rest : List SpawnE) (code reason : Nat) (loc : W64) :
    (failEntry s b lvl e rest code reason loc).mem = s.mem := by
  simp [failEntry]

@[simp] theorem pushNotice_mem (s : State) (b : Nat) (m : W512) : (pushNotice s b m).mem = s.mem := (rfl)
@[simp] theorem finishJob_mem (s : State) (b : Nat) (j : JobInfo) (reserved : Bool) : (finishJob s b j reserved).mem = s.mem := by simp [finishJob]

theorem queueFault_mem {s t : State} {b : Nat} {a : Access} {r : FaultRec} (h : queueFault s b a r = some t) : t.mem = s.mem := by
  unfold queueFault at h
  split at h
  · cases h; simp
  · split at h
    · split at h
      · cases h; rfl
      · split at h
        · cases h; rfl
        · split at h
          · cases h; simp
          · cases h
    · split at h
      · cases h; rfl
      · split at h
        · cases h; simp
        · cases h

theorem stagingFailed_mem {s t : State} {c blk : Nat} {bl : Block} {r : FaultRec} {loc : W64} (h : stagingFailed s c blk bl r loc = some t) :
    t.mem = s.mem := by
  unfold stagingFailed at h
  split at h
  · cases h; simp
  · split at h
    · cases h; simp
    · cases h

theorem stageFault_mem {s t : State} {c blk : Nat} {a : Access} {r : FaultRec} (h : stageFault s c blk a r = some t) : t.mem = s.mem := by
  unfold stageFault at h
  split at h
  · cases h; rfl
  · exact stagingFailed_mem h

/-! ## Access -/

/-- The words by who executes them: a word keeps the form where its continuation does. -/
theorem word_memWf {s : State} {k : Issue → State} (hk : ∀ iss, memWf (k iss).mem = true) : NextWf (word s k) := by
  unfold word
  split
  · trivial
  · split
    · exact hk _
    · trivial

@[simp] theorem wrongAgent_memWf {s : State} (h : memWf s.mem = true) (iss : Issue) : memWf (wrongAgent s iss).mem = true := by simp [wrongAgent, h]
@[simp] theorem noPriv_memWf {s : State} (h : memWf s.mem = true) (iss : Issue) : memWf (noPriv s iss).mem = true := by simp [noPriv, h]
@[simp] theorem valueFault_memWf {s : State} (h : memWf s.mem = true) (iss : Issue) : memWf (valueFault s iss).mem = true := by simp [valueFault, h]

theorem lword_memWf {s : State} (h : memWf s.mem = true) {k : Issue → Nat → Nat → State} (hk : ∀ iss c sl, memWf (k iss c sl).mem = true)
    (g : Guard) :
    NextWf (lword s g k) := by
  refine word_memWf fun iss => ?_
  split
  · split
    · simp [h]
    · exact hk ..
  · simp [h]
  · simp [h]

theorem lane1_memWf {s : State} (h : memWf s.mem = true) (g : Guard) (f : Lane → Lane) : NextWf (lane1 s g f) :=
  lword_memWf h (fun _ _ _ => by simpa using h) g
theorem lanep_memWf {s : State} (h : memWf s.mem = true) (g : Guard) (f : Pfx → Lane → Lane) : NextWf (lanep s g f) :=
  lword_memWf h (fun _ _ _ => by simpa using h) g
theorem exch_memWf {s : State} (h : memWf s.mem = true) (g : Guard) (f : List Nat → (Nat → Lane) → Nat → Lane → Lane) : NextWf (exch s g f) :=
  lword_memWf h (fun _ _ _ => by simpa using h) g

theorem uword_memWf {s : State} (h : memWf s.mem = true) {k : Issue → State} (hk : ∀ iss, memWf (k iss).mem = true) (q : Guard) :
    NextWf (uword s q k) := by
  refine word_memWf fun iss => ?_
  split
  · simp [h]
  · split
    · exact hk _
    · simp [h]

theorem uni1_memWf {s : State} (h : memWf s.mem = true) (q : Guard) (f : Uni → Uni) : NextWf (uni1 s q f) :=
  uword_memWf h (fun _ => by simpa using h) q

theorem cword_memWf {s : State} (h : memWf s.mem = true) {k : Issue → Nat → Nat → State} (hk : ∀ iss c sl, memWf (k iss c sl).mem = true)
    (q : Guard) :
    NextWf (cword s q k) := by
  refine word_memWf fun iss => ?_
  split
  · split
    · exact hk ..
    · simp [h]
  · simp [h]
  · simp [h]

theorem pword_memWf {s : State} (h : memWf s.mem = true) {k : Issue → Nat → Nat → State} (hk : ∀ iss c sl, memWf (k iss c sl).mem = true)
    (q : Guard) :
    NextWf (pword s q k) := by
  refine cword_memWf h (fun iss c sl => ?_) q
  split
  · exact hk ..
  · simp [h]

theorem bword_memWf {s : State} (h : memWf s.mem = true) {k : Issue → Nat → Nat → State} (hk : ∀ iss c p, memWf (k iss c p).mem = true) (q : Guard) :
    NextWf (bword s q k) := by
  refine word_memWf fun iss => ?_
  split
  · split
    · exact hk ..
    · simp [h]
  · split <;> simp [h]
  · simp [h]

theorem mword_memWf {s : State} (h : memWf s.mem = true) {k : Issue → Nat → Nat → State} (hk : ∀ iss c b, memWf (k iss c b).mem = true) :
    NextWf (mword s k) := by
  refine word_memWf fun iss => ?_
  split
  · exact hk ..
  · simp [h]
  · simp [h]

@[simp] theorem dropCopies_mem (s : State) (c : Nat) (dst ev : Nat) : (dropCopies s c dst ev).mem = s.mem := by simp [dropCopies]

theorem placeAcc_mem {s t : State} {c : Nat} {a : Access} {pr : Probe} {w : Bool} (h : placeAcc s c a pr = some (t, w)) : t.mem = s.mem := by
  obtain ⟨A, u, rfl, hu, -⟩ := placeAcc_spec h
  exact hu.mem

theorem getD_memWf {o : Option State} {m : List Host.Cell} {s : State} (ho : ∀ t, o = some t → t.mem = m) (hm : memWf m = true) (hs : s.mem = m) :
    memWf (o.getD s).mem = true := by
  rw [getD_mem ho hs]
  exact hm

theorem placeAcc_map_mem {s : State} {m : List Host.Cell} (e : s.mem = m) {c : Nat} {a : Access} {pr : Probe} :
    ∀ t, (placeAcc s c a pr).map (·.1) = some t → t.mem = m := by
  intro t h
  obtain ⟨x, hx, rfl⟩ := Option.map_eq_some_iff.1 h
  exact (placeAcc_mem (w := x.2) hx).trans e

@[simp] theorem issueOne_mem (c : Nat) (r : Issued) (lane : Nat) (a : Access) : (issueOne c r lane a).s.mem = r.s.mem := by
  unfold issueOne
  split
  · rfl
  · dsimp only
    split
    · rfl
    · split
      · rfl
      · simpa using placeAcc_mem ‹placeAcc _ _ _ _ = _›

@[simp] theorem faultByCode_memWf {s : State} (h : memWf s.mem = true) (iss : Issue) (n : Nat) (bad : List (Nat × FaultRec)) :
    memWf (faultByCode s iss n bad).mem = true := by
  induction n generalizing s bad with
  | zero => rw [faultByCode]; exact h
  | succ n ih =>
    cases bad with
    | nil =>
      rw [faultByCode]
      · exact h
      · simp
    | cons x bad =>
      rw [faultByCode]
      split
      · simp [h]
      · exact ih (faultLanes_memWf h ..) _

@[simp] theorem memRun_mem (s : State) (c sl : Nat) (act : List Nat) (mk : Nat → Lane → Access) : (memRun s c sl act mk).s.mem = s.mem :=
  foldl_rec_mem Issued.s (fun r l => issueOne_mem c r l _) { s := s } act

@[simp] theorem finishIssued_memWf {s : State} {r : Issued} (h : memWf s.mem = true) (hr : memWf r.s.mem = true) (iss : Issue) (act : List Nat)
    (kind : AccKind) : memWf (finishIssued s iss act kind r).mem = true := by
  unfold finishIssued
  split
  · exact h
  · simp [hr]

@[simp] theorem memIssue_memWf {s : State} (h : memWf s.mem = true) (iss : Issue) (c sl : Nat) (g : Guard) (kind : AccKind)
    (mk : Nat → Lane → Access) : memWf (memIssue s iss c sl g kind mk).mem = true := by
  simp [memIssue, h]

@[simp] theorem uniIssue_memWf {s : State} (h : memWf s.mem = true) (iss : Issue) (a : Access) : memWf (uniIssue s iss a).mem = true := by
  unfold uniIssue
  dsimp only
  split
  · exact h
  · split
    · simp [h]
    · split <;> simp [h]

@[simp] theorem unpark_mem (s : State) (a : Access) : (unpark s a).mem = s.mem := by unfold unpark; split <;> simp
@[simp] theorem parkOn_mem (s : State) (a : Access) : (parkOn s a).mem = s.mem := by unfold parkOn; split <;> simp
@[simp] theorem imageFault_mem (s : State) (c : Nat) (va : W64) (r : FaultRec) : (imageFault s c va r).mem = s.mem := by simp [imageFault]

@[simp] theorem faultAccs_memWf {s : State} (h : memWf s.mem = true) (n : Nat) (rs : List (Access × FaultRec)) :
    memWf (faultAccs s n rs).mem = true := by
  induction n generalizing s rs with
  | zero => rw [faultAccs]; exact h
  | succ n ih =>
    cases rs with
    | nil =>
      rw [faultAccs]
      · exact h
      · simp
    | cons x rest =>
      obtain ⟨a, r⟩ := x
      rw [faultAccs]
      dsimp only
      split
      · exact ih h _
      · split
        · split <;> exact ih (by simpa using h) _
        · split <;> exact ih (by simp [h]) _
        · split <;> exact ih (by simp [h]) _
        · refine ih ?_ _
          exact getD_memWf (m := s.mem) (fun t ht => queueFault_mem ht) h rfl
        · refine ih ?_ _
          exact getD_memWf (m := s.mem) (fun t ht => stageFault_mem ht) h rfl
        · exact ih (by simpa using h) _
        · exact ih (by simpa using h) _

@[simp] theorem retryOne_mem (s : State) (a0 : Access) : (retryOne s a0).1.mem = s.mem := by
  unfold retryOne
  dsimp only
  split
  · rfl
  · split
    · rfl
    · split
      · split
        · simp
        · split
          · rename_i hp
            simpa using placeAcc_mem hp
          · rfl
      · split
        · rfl
        · rename_i hp
          simpa using placeAcc_mem hp
        · rename_i hp
          simpa using placeAcc_mem hp

@[simp] theorem retryAccs_memWf {s : State} (h : memWf s.mem = true) (as : List Access) : memWf (retryAccs s as).mem = true := by
  have hr := foldl_rec_mem (fun r : State × List (Access × FaultRec) => r.1)
    (f := fun r a => ((retryOne r.1 a).1, r.2 ++ (retryOne r.1 a).2.toList)) (fun r a => retryOne_mem r.1 a) (s, []) (sortAccs as)
  exact faultAccs_memWf (by rw [hr]; exact h) _ _

@[simp] theorem refillQueue_memWf {s : State} (h : memWf s.mem = true) (c : Nat) : memWf (refillQueue s c).mem = true := by simp [refillQueue, h]

/-! ## Transfer -/

@[simp] theorem updXfer_mem (s : State) (c p id : Nat) (f : Xfer → Xfer) : (updXfer s c p id f).mem = s.mem := (rfl)
@[simp] theorem setElem_mem (s : State) (c p id e : Nat) (f : XElem → XElem) : (setElem s c p id e f).mem = s.mem := (rfl)
@[simp] theorem addConflicts_mem (s : State) (c p n : Nat) : (addConflicts s c p n).mem = s.mem := by simp [addConflicts]
@[simp] theorem reachBanks_mem (s : State) (c p id : Nat) (ks : List Nat) : (reachBanks s c p id ks).mem = s.mem := by simp [reachBanks]

@[simp] theorem launch_memWf {s : State} (h : memWf s.mem = true) (c : Nat) (a : Access) : memWf (launch s c a).mem = true := by
  unfold launch
  dsimp only
  split
  · refine faultAccs_memWf ?_ ..
    exact h
  · exact getD_memWf (m := s.mem) (placeAcc_map_mem rfl) h rfl

@[simp] theorem stepElem_memWf {s : State} (h : memWf s.mem = true) (c p id e : Nat) : memWf (stepElem s c p id e).mem = true := by
  unfold stepElem
  split
  · split
    · exact h
    · split
      · split <;> simp [h]
      · split
        · simp [h]
        · dsimp only
          split <;> simp [h]
        · exact h
      · exact h
  · exact h

@[simp] theorem pump_memWf {s : State} (h : memWf s.mem = true) (c p id : Nat) : memWf (pump s c p id).mem = true :=
  have hf := fun (s : State) (e : Nat) (h : memWf s.mem = true) => stepElem_memWf h c p id e
  foldl_memWf hf (foldl_memWf hf h _) _

@[simp] theorem elemGot_memWf {s : State} (h : memWf s.mem = true) (c p id e : Nat) (b : List Byte) : memWf (elemGot s c p id e b).mem = true := by
  simp [elemGot, h]

/-! ## Lease -/

@[simp] theorem noteSeen_mem (s : State) (ag : Agent) (x n : Nat) : (noteSeen s ag x n).mem = s.mem := (rfl)
@[simp] theorem wakeLanes_mem (s : State) (ls : List (Nat × Nat × Nat)) : (wakeLanes s ls).mem = s.mem := by simp [wakeLanes]
@[simp] theorem wakeEntry_mem (s : State) (e : MonE) : (wakeEntry s e).mem = s.mem := by simp [wakeEntry]

@[simp] theorem enterMon_mem (s : State) (sl sector : Nat) (ls : List (Nat × Nat × Nat)) (ps : List PeerReq) :
    (enterMon s sl sector ls ps).mem = s.mem := by
  simp [enterMon]

@[simp] theorem enterMonitor_mem (s : State) (sl sector : Nat) (l : Nat × Nat × Nat) : (enterMonitor s sl sector l).mem = s.mem := by
  simp [enterMonitor]
@[simp] theorem leavePeer_mem (s : State) (l : Nat × Nat × Nat) : (leavePeer s l).mem = s.mem := (rfl)
@[simp] theorem recordDirty_mem (s : State) (sl canon : Nat) : (recordDirty s sl canon).mem = s.mem := (rfl)
@[simp] theorem markLast_mem (s : State) (c : Nat) (dst : Nat) : (markLast s c dst).mem = s.mem := by simp [markLast]
@[simp] theorem updUni_mem (s : State) (a : Agent) (f : Uni → Uni) : (updUni s a f).mem = s.mem := by unfold updUni; split <;> simp
@[simp] theorem updAgLane_mem (s : State) (a : Agent) (f : Lane → Lane) : (updAgLane s a f).mem = s.mem := by unfold updAgLane; split <;> simp
@[simp] theorem dropAcc_mem (s : State) (id : Nat) : (dropAcc s id).mem = s.mem := (rfl)
@[simp] theorem setPhase_mem (s : State) (id : Nat) (ph : Phase) : (setPhase s id ph).mem = s.mem := (rfl)

@[simp] theorem applyLdp_memWf {s : State} (h : memWf s.mem = true) (a : Access) (st : LdpStep) : memWf (applyLdp s a st).mem = true := by
  unfold applyLdp
  split
  · split <;> simp [h]
  · simp [h]

@[simp] theorem finishWait_mem (s : State) (a : Access) (x : Nat) : (finishWait s a x).mem = s.mem := by unfold finishWait; split <;> simp
@[simp] theorem elemDone_mem (s : State) (c p id e : Nat) : (elemDone s c p id e).mem = s.mem := (rfl)
@[simp] theorem mcstGot_mem (s : State) (c k iss i : Nat) (b : List Byte) : (mcstGot s c k iss i b).mem = s.mem := by simp [mcstGot]
@[simp] theorem stageGot_mem (s : State) (c blk i k : Nat) (b : List Byte) : (stageGot s c blk i k b).mem = s.mem := (rfl)

@[simp] theorem deliver_memWf {s : State} (h : memWf s.mem = true) (a : Access) (b : List Byte) : memWf (deliver s a b).mem = true := by
  unfold deliver
  dsimp only
  split
  case h_7 | h_8 | h_9 => split <;> simp [h]
  all_goals simp [h]

@[simp] theorem retryName_memWf {s : State} (h : memWf s.mem = true) (a : Access) : memWf (retryName s a).mem = true := by
  unfold retryName; split <;> simp [h]
@[simp] theorem frameResident_memWf {s : State} (h : memWf s.mem = true) (b f : Nat) : memWf (frameResident s b f).mem = true :=
  retryAccs_memWf (foldl_memWf (fun s a h => retryName_memWf h a) (by simpa using h) _) _

@[simp] theorem installCopy_mem (s : State) (a : Access) (granule : List Byte) (exp : Option Nat) (dst : Nat) :
    (installCopy s a granule exp dst).mem = s.mem := by
  unfold installCopy; split <;> simp

@[simp] theorem copyHit_memWf {s : State} (h : memWf s.mem = true) (id : Nat) : memWf (copyHit s id).mem = true := by
  unfold copyHit
  split
  · exact h
  · split
    · split
      · exact h
      · split
        · exact h
        · split
          · have hd : ∀ (s : State) (as : List Access) (f : Access → List Byte), memWf s.mem = true →
                memWf (as.foldl (fun s x => deliver s x (f x)) s).mem = true :=
              fun s as f h => foldl_memWf (fun s x h => deliver_memWf h ..) h as
            dsimp only
            split
            · rw [markLast_mem]
              exact hd _ _ _ (by simpa using h)
            · exact hd _ _ _ (by simpa using h)
          · exact h
    · exact h

@[simp] theorem sendReqPkt_mem (s : State) (accs : List Access) (dst : Nat) (op : FabOp) (ridge : Option Nat) :
    (sendReqPkt s accs dst op ridge).mem = s.mem := by
  unfold sendReqPkt
  dsimp only
  split <;> rfl

@[simp] theorem eccFault_mem (s : State) (a : Access) (src : Nat) (async : Bool) : (eccFault s a src async).mem = s.mem := by simp [eccFault]
@[simp] theorem grantLease_mem (s : State) (a : Access) (t : Target) : (grantLease s a t).1.mem = s.mem := by unfold grantLease; split <;> rfl

@[simp] theorem freshen_mem (s : State) (ag : Agent) (g : Nat) (b : List Byte) (n : Nat × Nat) : (freshen s ag g b n).mem = s.mem := by
  unfold freshen
  dsimp only
  split
  · split <;> rfl
  · split
    · split <;> rfl
    · split <;> rfl

@[simp] theorem readDone_mem (s : State) (a : Access) (b : List Byte) (exp : Option Nat) (dst : Nat) (n : Nat × Nat) :
    (readDone s a b exp dst n).mem = s.mem := by
  simp [readDone]

@[simp] theorem waitAtHome_mem (s : State) (a : Access) (t : Target) : (waitAtHome s a t).mem = s.mem := by unfold waitAtHome; split <;> simp

@[simp] theorem sendLoads_mem (s : State) (a : Access) (as : List Access) (dst : Nat) : (sendLoads s a as dst).mem = s.mem := by
  unfold sendLoads
  dsimp only
  split
  · split <;> simp
  · simp

@[simp] theorem sendLoad_mem (s : State) (a : Access) (dst : Nat) : (sendLoad s a dst).mem = s.mem := by simp [sendLoad]

@[simp] theorem readsDone_mem (s : State) (as : List Access) (b : List Byte) (exp : Option Nat) (n : Nat × Nat) :
    (readsDone s as b exp n).mem = s.mem := by
  simp [readsDone]

@[simp] theorem homeRead_mem (s : State) (id : Nat) : (homeRead s id).mem = s.mem := by
  unfold homeRead
  split
  · rfl
  · split
    · split
      · rfl
      · split
        · dsimp only
          split <;> simp
        · split
          · rfl
          · split
            · rfl
            · split
              · split
                · rfl
                · split
                  · exact getD_mem (fun t h => stageFault_mem h) rfl
                  · simp
              · split <;> simp
    · rfl

@[simp] theorem loadReply_memWf {s : State} (h : memWf s.mem = true) (id : Nat) : memWf (loadReply s id).mem = true := by
  unfold loadReply
  split
  · exact h
  · split
    · split
      · simp [h]
      · split
        · exact h
        · dsimp only
          split
          · rw [unpark_mem]
            split <;> simp [h]
          · refine deliver_memWf ?_ ..
            split <;> simp [h]
    · exact h

/-! ## Direct -/

theorem readAt_mem (s : State) (c : Nat) (a : Access) (dst : Nat) (home : Bool) : (readAt s c a dst home).All (·.mem = s.mem) := by
  unfold readAt
  split
  · rfl
  · split
    · split <;> simp
    · split
      · rfl
      · dsimp only
        split
        · simp
        · split
          · rfl
          · split <;> simp

theorem readKept_mem (s : State) (c : Nat) (x : Access) (home : Bool) : (readKept s c x home).All (·.mem = s.mem) := by
  unfold readKept
  split
  · simp
  · have hr := readAt_mem (dropAcc s x.id) c x ‹_› home
    split
    · rfl
    · exact hr
  · rfl

theorem readNew_mem (s : State) (c : Nat) (a : Access) (home : Bool) : (readNew s c a home).All (·.mem = s.mem) := by
  unfold readNew
  split
  · trivial
  · refine (readAt_mem _ c a _ home).imp fun t ht => ht.trans ?_
    split <;> simp
  · split
    · rfl
    · simpa using placeAcc_mem ‹placeAcc _ _ _ _ = _›

@[simp] theorem keepRead_mem (s : State) (a : Access) (b : List Byte) : (keepRead s a b).mem = s.mem := (rfl)
@[simp] theorem dropKept_mem (s : State) (iss : Issue) : (dropKept s iss).mem = s.mem := (rfl)

@[simp] theorem parkOperand_mem (s : State) (iss : Issue) (va : W64) : (parkOperand s iss va).mem = s.mem := by
  unfold parkOperand
  split
  · split <;> simp
  · rfl

theorem opReadSec_mem (s : State) (iss : Issue) (va : W64) (n : Nat) (home : Bool) : (opReadSec s iss va n home).All (·.mem = s.mem) := by
  unfold opReadSec
  dsimp only
  split
  · rename_i e
    refine (parkOperand_mem ..).trans ?_
    split at e
    · have hr := readKept_mem s (issCore iss.who) ‹Access› home
      rw [e] at hr
      exact hr
    · have hr := readNew_mem s (issCore iss.who) (operandAcc s iss va n) home
      rw [e] at hr
      exact hr
  · split
    · exact readKept_mem ..
    · exact readNew_mem ..

theorem opReadSecs_mem (s : State) (iss : Issue) (va : W64) (n : Nat) (b : List Byte) : (opReadSecs s iss va n b).All (·.mem = s.mem) := by
  induction n generalizing s b with
  | zero => rfl
  | succ n ih =>
    have h1 := opReadSec_mem s iss (va + BitVec.ofNat 64 b.length) 32 false
    rw [opReadSecs]
    split
    · rename_i s' x e
      rw [e] at h1
      have h2 := (ih s' (b ++ x)).imp fun t ht => ht.trans h1
      split
      · rename_i e'
        rw [e'] at h2
        exact h2
      · exact h2
    · exact h1

theorem withRead_memWf {s : State} (h : memWf s.mem = true) {r : OpRead} (hr : r.All (fun t => memWf t.mem = true))
    {k : State → List Byte → State} (hk : ∀ t b, memWf t.mem = true → memWf (k t b).mem = true) (iss : Issue) (va : W64) :
    memWf (withRead s iss va r k).mem = true := by
  unfold withRead
  split
  · exact hk _ _ hr
  · exact hr
  · simp [h]
  · simp [h]

theorem bayReadSec_memWf {s : State} (h : memWf s.mem = true) (ag : Agent) (prv : Bool) (tag : List Nat) (loc va : W64) (n : Nat) :
    (bayReadSec s ag prv tag loc va n).All (fun t => memWf t.mem = true) := by
  unfold bayReadSec
  split
  · exact h
  · split
    · split
      · exact retryAccs_memWf h _
      · exact (readKept_mem ..).memWf h
    · exact (readNew_mem ..).memWf h

theorem bayRead_memWf {s : State} (h : memWf s.mem = true) (ag : Agent) (prv : Bool) (tag : List Nat) (loc : W64) (k n : Nat) (va : W64)
    (bs : List Byte) : (bayRead s ag prv tag loc k n va bs).All (fun t => memWf t.mem = true) := by
  induction k generalizing s n va bs with
  | zero => rw [bayRead]; exact h
  | succ k ih =>
    rw [bayRead]
    split
    · exact h
    · have h1 := bayReadSec_memWf h ag prv tag loc va (Nat.min n (32 - va.toNat % 32))
      dsimp only
      split
      · rename_i e
        rw [e] at h1
        have h2 := ih h1 (n - Nat.min n (32 - va.toNat % 32)) (va + BitVec.ofNat 64 (Nat.min n (32 - va.toNat % 32))) (bs ++ ‹List Byte›)
        split
        · rename_i e'
          rw [e'] at h2
          simpa using h2
        · exact h2
      · exact h1

@[simp] theorem keepBytes_mem (s : State) (ag : Agent) (prv : Bool) (tag : List Nat) (va : W64) (b : List Byte) :
    (keepBytes s ag prv tag va b).mem = s.mem :=
  (rfl)

/-! ## Homes -/

@[simp] theorem eccBay_mem (s : State) (b src : Nat) (loc : W64) : (eccBay s b src loc).mem = s.mem := by simp [eccBay]

theorem readFailed_memWf {s : State} {r : OpRead} (h : memWf s.mem = true) (hr : r.All (fun t => memWf t.mem = true)) (b lvl : Nat) (e : SpawnE)
    (rest : List SpawnE) (loc : W64) : memWf (readFailed s b lvl e rest r loc).mem = true := by
  unfold readFailed
  split
  · split <;> simpa using h
  · simpa using h
  · exact hr
  · exact hr

theorem readCond_memWf {s : State} (h : memWf s.mem = true) (b lvl : Nat) (e : SpawnE) (i : Nat) : ReadWf (readCond s b lvl e i) := by
  unfold readCond
  dsimp only
  split
  · exact h
  · split
    · exact h
    · have hr := bayRead_memWf h (.bayq b) e.prv (readTag lvl e [i]) (e.conds.getD i (0, 0, 0)).2.1 2 8 (e.conds.getD i (0, 0, 0)).2.1 []
      split
      · rename_i e'
        rw [e'] at hr
        exact hr
      · rename_i e'
        rw [e'] at hr
        exact hr
      · exact hr

theorem readConds_memWf {s : State} (h : memWf s.mem = true) (b lvl : Nat) (is : List Nat) (e : SpawnE) : ReadWf (readConds b lvl is s e) := by
  induction is generalizing s e with
  | nil => exact h
  | cons i is ih =>
    rw [readConds]
    have hr := readCond_memWf h b lvl e i
    split
    · rename_i e'
      rw [e'] at hr
      exact ih hr _
    · rename_i e'
      rw [e'] at hr
      exact hr

theorem putFence_memWf {s : State} {r : Except (OpRead × W64) (State × SpawnE)} (h : memWf s.mem = true) (hr : ReadWf r) (b lvl : Nat) (e : SpawnE)
    (rest : List SpawnE) : memWf (putFence s b lvl e rest r).mem = true := by
  unfold putFence
  split
  · rw [setLevel_mem, State.bumpFree_mem]; exact hr
  · exact readFailed_memWf h hr b lvl e rest _

@[simp] theorem rereadCond_memWf {s : State} (h : memWf s.mem = true) (b lvl i : Nat) : memWf (rereadCond s b lvl i).mem = true := by
  unfold rereadCond
  split
  · exact h
  · split
    · exact putFence_memWf h (readCond_memWf h ..) ..
    · exact h

@[simp] theorem rereadFences_memWf {s : State} (h : memWf s.mem = true) (sector : Nat) : memWf (rereadFences s sector).mem = true := by
  refine foldl_memWf (fun s b h => foldl_memWf (fun s lvl h => ?_) h _) h _
  split
  · exact h
  · split
    · refine foldl_memWf (fun s i h => ?_) h _
      split <;> simp [h]
    · exact h

@[simp] theorem lookupSector_memWf {s : State} (h : memWf s.mem = true) (sl sector : Nat) : memWf (lookupSector s sl sector).mem = true := by
  simp [lookupSector, h]

@[simp] theorem writeOne_memWf {s : State} (h : memWf s.mem = true) (a : Access) (canon : Nat) : memWf (writeOne s a canon).1.mem = true := by
  unfold writeOne
  split
  · dsimp only
    split <;> simp [h]
  · simp [h]

/-- Each branch writes bytes in one fold and touches the cache part in a second, which leaves memory alone. -/
@[simp] theorem performWrites_memWf {s : State} (h : memWf s.mem = true) (as : List Access) (t : Target) : memWf
    (performWrites s as t).mem = true := by
  have hgo : ∀ (go : State → Access → State) (u : State), (∀ s a, memWf s.mem = true → memWf (go s a).mem = true) → u.mem = (as.foldl go s).mem →
      memWf (as.foldl (fun s a => sofTouch s t a.ev a.nosc true) u).mem = true := by
    intro go u hg hu
    rw [foldl_mem fun s (a : Access) => sofTouch_mem s t a.ev a.nosc true, hu]
    exact foldl_memWf hg h as
  unfold performWrites
  dsimp only
  split
  · refine lookupSector_memWf ?_ ..
    split
    · exact hgo _ _ (fun s a h => by split <;> simp [h]) (recordDirty_mem ..)
    · exact hgo _ _ (fun s a h => by split <;> simp [h]) (recordDirty_mem ..)
  · split
    · exact hgo _ _ (fun s a h => by split <;> simp [h]) (recordDirty_mem ..)
    · exact hgo _ _ (fun s a h => by split <;> simp [h]) (recordDirty_mem ..)

@[simp] theorem countRidge_mem (s : State) (g dest bay n : Nat) : (countRidge s g dest bay n).mem = s.mem := (rfl)

@[simp] theorem homeWrite_memWf {s : State} (h : memWf s.mem = true) (id : Nat) : memWf (homeWrite s id).mem = true := by
  unfold homeWrite
  split
  · exact h
  · split
    · dsimp only
      split
      · exact h
      · split
        · split <;> simp [h]
        · split
          · simp [h]
          · split
            · exact h
            · split
              · exact h
              · split
                · split <;> simp [h]
                · simp [h]
    · exact h

@[simp] theorem addRecord_mem (s : State) (a : Agent) (r : Record) (remote : Bool) : (addRecord s a r remote).mem = s.mem := by
  unfold addRecord; split <;> simp
@[simp] theorem addArrivalHor_mem (s : State) (a : Access) (r : Record) (remote : Bool) : (addArrivalHor s a r remote).mem = s.mem := by
  unfold addArrivalHor; split <;> simp

@[simp] theorem finishWrite_memWf {s : State} (h : memWf s.mem = true) (a : Access) (r : Record) (old : List Byte) (remote : Bool) :
    memWf (finishWrite s a r old remote).mem = true := by
  unfold finishWrite; split <;> simp [h]

@[simp] theorem ingressRecord_mem (s : State) (a : Access) (p : PeerReq) (r : Record) (old : List Byte) :
    (ingressRecord s a p r old).mem = s.mem := by
  simp [ingressRecord]

@[simp] theorem hostRecord_mem (s : State) (a : Access) (r : Record) : (hostRecord s a r).mem = s.mem := by simp [hostRecord]

@[simp] theorem completionRecord_memWf {s : State} (h : memWf s.mem = true) (id : Nat) : memWf (completionRecord s id).mem = true := by
  unfold completionRecord
  split
  · exact h
  · split
    · split <;> simp [h]
    · exact h

@[simp] theorem cxlWriteCompletion_mem (s : State) (id : Nat) : (cxlWriteCompletion s id).mem = s.mem := by
  unfold cxlWriteCompletion
  split
  · rfl
  · split <;> simp

@[simp] theorem fencePass_mem (s : State) (c k l : Nat) : (fencePass s c k l).mem = s.mem := by
  unfold fencePass
  dsimp only
  split <;> simp

@[simp] theorem acquireLane_mem (s : State) (c k l : Nat) : (acquireLane s c k l).mem = s.mem := by simp [acquireLane]

/-! ## Barrier -/

@[simp] theorem completePhase_mem (s : State) (c b n : Nat) : (completePhase s c b n).mem = s.mem := by unfold completePhase; split <;> simp
@[simp] theorem arriveLive_mem (s : State) (c b n : Nat) : (arriveLive s c b n).mem = s.mem := by simp [arriveLive]

theorem imageAdd_mem {s t : State} {c n : Nat} {img : W64} (h : imageAdd s c n img = some t) : t.mem = s.mem := by
  unfold imageAdd at h
  dsimp only at h
  split at h
  · cases h; simp
  · obtain ⟨x, hx, rfl⟩ := Option.map_eq_some_iff.1 h
    have ht := placeAcc_mem (w := x.2) hx
    exact ht

@[simp] theorem arrive_mem (s : State) (c b n : Nat) : (arrive s c b n).mem = s.mem := by
  unfold arrive
  split
  · rfl
  · split
    · split <;> simp
    · dsimp only
      split
      · simp
      · exact getD_mem (fun t h => imageAdd_mem h) (by simp)

@[simp] theorem drainAdds_mem (s : State) (c b n : Nat) : (drainAdds s c b n).mem = s.mem := by
  induction n generalizing s with
  | zero => rfl
  | succ n ih =>
    rw [drainAdds]
    split
    · rfl
    · split
      · split
        · rfl
        · split
          · rfl
          · rw [ih, State.updBlock_mem]; exact imageAdd_mem ‹_›
      · rfl

@[simp] theorem applyArrival_mem (s : State) (c b k : Nat) : (applyArrival s c b k).mem = s.mem := by
  unfold applyArrival
  split
  · rfl
  · split
    · rfl
    · split
      · rfl
      · dsimp only
        split
        · simp
        · split <;> simp

@[simp] theorem gather_mem (s : State) (c k : Nat) (co : Course) (lanes : List Nat) (pc : W64) (r : BarRef) :
    (gather s c k co lanes pc r).mem = s.mem := by
  simp [gather]

@[simp] theorem splitCourse_mem (s : State) (c k : Nat) (co : Course) (live : List Nat) : (splitCourse s c k co live).mem = s.mem := by
  refine foldl_mem (fun s pc => ?_) s _
  dsimp only
  split <;> simp

@[simp] theorem gatherCheck_mem (s : State) (c k : Nat) : (gatherCheck s c k).mem = s.mem := by
  unfold gatherCheck
  split
  · rfl
  · dsimp only
    split
    · rfl
    · split <;> simp

/-! ## Mem -/

theorem tileRun_mem (s : State) (chks : List (Nat × TileChk)) {f : State → Nat → Nat → Tile → State} (hf : ∀ s l e t, (f s l e t).mem = s.mem) :
    (tileRun s chks f).s.mem = s.mem := by
  refine foldl_rec_mem Issued.s (fun r x => ?_) { s := s } chks
  split
  · exact hf ..
  · rfl
  · rfl

@[simp] theorem ldtRun_mem (sz : LdSize) (d a b : Reg) (ad : AddrWord) (s : State) (iss : Issue) (c sl : Nat) (act : List Nat) :
    (ldtRun sz d a b ad s iss c sl act).s.mem = s.mem := by
  unfold ldtRun
  split
  · rfl
  · exact tileRun_mem s _ fun s l e t => State.updLane_mem s c sl l _

@[simp] theorem sttRun_mem (sz : StSize) (d a b : Reg) (ad : AddrWord) (s : State) (iss : Issue) (c sl : Nat) (act : List Nat) :
    (sttRun sz d a b ad s iss c sl act).s.mem = s.mem := by
  unfold sttRun
  split
  · rfl
  · exact tileRun_mem s _ fun s l e t => State.updCore_mem s c _

@[simp] theorem pfarRun_mem (d b : Reg) (s : State) (c sl : Nat) (act : List Nat) : (pfarRun d b s c sl act).s.mem = s.mem := by
  refine foldl_rec_mem Issued.s (fun r l => ?_) { s := s } act
  dsimp only
  split <;> simp

theorem memWord_memWf {s : State} (h : memWf s.mem = true) (g : Guard) (kind : AccKind) (mk : MkAcc) : NextWf (memWord s g kind mk) :=
  lword_memWf h (fun _ _ _ => memIssue_memWf h ..) g

theorem runWord_memWf {s : State} (h : memWf s.mem = true) {run : Issue → Nat → Nat → List Nat → Issued}
    (hr : ∀ iss c sl act, (run iss c sl act).s.mem = s.mem) (g : Guard) : NextWf (runWord s g run) :=
  lword_memWf h (fun _ _ _ => finishIssued_memWf h (by rw [hr]; exact h) ..) g

theorem uniWord_memWf {s : State} (h : memWf s.mem = true) (q : Guard) (mk : Issue → Access) : NextWf (uniWord s q mk) :=
  uword_memWf h (fun _ => uniIssue_memWf h ..) q

theorem execLdt_memWf {s : State} (h : memWf s.mem = true) (sz : LdSize) (g : Guard) (d a b : Reg) (ad : AddrWord) :
    NextWf (execLdt sz g d a b ad s) :=
  runWord_memWf h (fun _ _ _ _ => ldtRun_mem ..) g

theorem execStt_memWf {s : State} (h : memWf s.mem = true) (sz : StSize) (g : Guard) (d a b : Reg) (ad : AddrWord) :
    NextWf (execStt sz g d a b ad s) :=
  runWord_memWf h (fun _ _ _ _ => sttRun_mem ..) g

theorem execPfar_memWf {s : State} (h : memWf s.mem = true) (g : Guard) (d b : Reg) (_ad : AddrWord) : NextWf (execPfar g d b _ad s) :=
  runWord_memWf h (fun _ _ _ _ => pfarRun_mem ..) g
theorem execWait_memWf {s : State} (h : memWf s.mem = true) (w : Bool) (g : Guard) (d a b : Reg) (ad : AddrWord) : NextWf (execWait w g d a b ad s) :=
  lword_memWf h (fun _ _ _ => by simp [h]) ..

theorem execWaitReread_memWf {s : State} (h : memWf s.mem = true) (core slot lane : Nat) : NextWf (execWaitReread core slot lane s) := by
  simp only [execWaitReread, nextWf_next]
  split
  · exact h
  · split
    · split
      · exact h
      · split <;> simp [h]
    · exact h

theorem memWordRun_mem {i : Instr} {s : State} {iss : Issue} {c sl : Nat} {x : Guard × (List Nat → Issued)} (h : memWordRun i s iss c sl = some x)
    (act : List Nat) : (x.2 act).s.mem = s.mem := by
  unfold memWordRun at h
  split at h <;> cases h <;> simp

/-! ## Batten -/

@[simp] theorem resolveFut_mem (s : State) (c e : Nat) (v : W64) : (resolveFut s c e v).mem = s.mem := by unfold resolveFut; split <;> rfl

theorem execBjob_memWf {s : State} (h : memWf s.mem = true) (q : Guard) (d : HReg) (a b : Reg) : NextWf (execBjob q d a b s) := by
  refine cword_memWf h (fun iss c k => ?_) q
  dsimp only
  split
  · simp [h]
  · split
    · exact h
    · split <;> simp [h]

theorem execFwait_memWf {s : State} (h : memWf s.mem = true) (q : Guard) (d : Reg) (a : HReg) : NextWf (execFwait q d a s) := by
  refine cword_memWf h (fun iss c k => ?_) q
  dsimp only
  split
  · simp [h]
  · split <;> simp [h]

theorem execFtest_memWf {s : State} (h : memWf s.mem = true) (q : Guard) (d : PReg) (a : HReg) : NextWf (execFtest q d a s) := by
  refine cword_memWf h (fun _ _ _ => ?_) ..
  split <;> simp [h]

@[simp] theorem cancelFut_mem (s : State) (c e : Nat) (f : Fut) : (cancelFut s c e f).mem = s.mem := by simp [cancelFut]

theorem execFcancel_memWf {s : State} (h : memWf s.mem = true) (q : Guard) (a : HReg) : NextWf (execFcancel q a s) := by
  refine cword_memWf h (fun _ _ _ => ?_) ..
  split <;> simp [h]

theorem execFmovHs_memWf {s : State} (h : memWf s.mem = true) (q : Guard) (d : Reg) (a : HReg) : NextWf (execFmovHs q d a s) :=
  cword_memWf h (fun _ _ _ => by simp [h]) ..
theorem execFmovSh_memWf {s : State} (h : memWf s.mem = true) (q : Guard) (d : HReg) (a : Reg) : NextWf (execFmovSh q d a s) :=
  cword_memWf h (fun _ _ _ => by simp [h]) ..

theorem execTalloc_memWf {s : State} (h : memWf s.mem = true) (q : Guard) (d a : Reg) : NextWf (execTalloc q d a s) := by
  refine cword_memWf h (fun iss c k => ?_) q
  dsimp only
  split
  · simp [h]
  · split
    · simp [h]
    · split
      · simp [h]
      · split <;> simp [h]

theorem execTfree_memWf {s : State} (h : memWf s.mem = true) (q : Guard) (a : Reg) : NextWf (execTfree q a s) := by
  refine cword_memWf h (fun _ _ _ => ?_) ..
  dsimp only
  split <;> simp [h]

theorem execTstat_memWf {s : State} (h : memWf s.mem = true) (q : Guard) (d a : Reg) : NextWf (execTstat q d a s) :=
  cword_memWf h (fun _ _ _ => by simp [h]) ..

theorem batWord_memWf {s : State} (h : memWf s.mem = true) {k : Issue → Nat → Nat → Job → State} (hk : ∀ iss c p j, memWf (k iss c p j).mem = true)
    (q : Guard) : NextWf (batWord s q k) := by
  refine bword_memWf h (fun iss c p => ?_) q
  split
  · exact h
  · exact hk ..

@[simp] theorem batFault_memWf {s : State} (h : memWf s.mem = true) (iss : Issue) (r : FaultRec) : memWf (batFault s iss r).mem = true := by
  simp [batFault, h]

theorem withLayout_memWf {s : State} (h : memWf s.mem = true) {k : State → Layout → State} (hk : ∀ t l, memWf t.mem = true → memWf (k t l).mem = true)
    (iss : Issue) (c : Nat) (j : Job) (hd : W64) : memWf (withLayout s iss c j hd k).mem = true := by
  unfold withLayout
  dsimp only
  split
  · simp [h]
  · refine withRead_memWf h ((opReadSecs_mem ..).memWf h) (fun t b ht => ?_) ..
    split
    · simp [ht]
    · split
      · exact hk _ _ ht
      · simp [ht]

theorem withPos_memWf {s : State} (h : memWf s.mem = true) {k : Nat → State} (hk : ∀ x, memWf (k x).mem = true) (iss : Issue) (j : Job) (l : Layout)
    (cur : W64) : memWf (withPos s iss j l cur k).mem = true := by
  unfold withPos
  split
  · simp [h]
  · exact hk _

@[simp] theorem startXfer_memWf {s : State} (h : memWf s.mem = true) (iss : Issue) (c p : Nat) (x : Xfer) :
    memWf (startXfer s iss c p x).mem = true := by
  simp [startXfer, h]

theorem withTile_memWf {s : State} (h : memWf s.mem = true) {k : Nat → Tile → State} (hk : ∀ e t, memWf (k e t).mem = true) (iss : Issue) (c : Nat)
    (j : Job) (v : W64) (n size : Nat) : memWf (withTile s iss c j v n size k).mem = true := by
  unfold withTile
  dsimp only
  split
  · simp [h]
  · split
    · simp [h]
    · exact hk _ _

@[simp] theorem setTileSt_mem (s : State) (c e : Nat) (st : TileSt) : (setTileSt s c e st).mem = s.mem := (rfl)

@[simp] theorem startFill_memWf {s : State} (h : memWf s.mem = true) (iss : Issue) (c p : Nat) (j : Job) (v : W64) (l : Layout) (k : XKind)
    (es : List XElem) (rd : Option Lock) : memWf (startFill s iss c p j v l k es rd).mem = true := by
  refine withTile_memWf h (fun e t => ?_) ..
  split
  · simp [h]
  · split <;> simp [h]
  · exact h

@[simp] theorem startDrain_memWf {s : State} (h : memWf s.mem = true) (iss : Issue) (c p : Nat) (j : Job) (v : W64) (l : Layout) (k : XKind)
    (es : List XElem) (rd wr : Option Lock) : memWf (startDrain s iss c p j v l k es rd wr).mem = true := by
  refine withTile_memWf h (fun e t => ?_) ..
  dsimp only
  split
  · exact h
  · simp [h]
  · simp [h]
  · split
    · exact h
    · split <;> simp [h]

@[simp] theorem tileWhole_mem (s : State) (c e : Nat) (unit : Nat → Bool) : (tileWhole s c e unit).mem = s.mem := (rfl)

theorem execBtld_memWf {s : State} (h : memWf s.mem = true) (q : Guard) (d a b : Reg) : NextWf (execBtld q d a b s) := by
  refine batWord_memWf h (fun iss c p j => ?_) q
  dsimp only
  split
  · simp [h]
  · exact withLayout_memWf h (fun t l ht => withPos_memWf ht (fun x => startFill_memWf ht ..) ..) ..

theorem execBtst_memWf {s : State} (h : memWf s.mem = true) (q : Guard) (d a b : Reg) : NextWf (execBtst q d a b s) := by
  refine batWord_memWf h (fun iss c p j => ?_) q
  dsimp only
  split
  · simp [h]
  · exact withLayout_memWf h (fun t l ht => withPos_memWf ht (fun x => startDrain_memWf ht ..) ..) ..

theorem execBgath_memWf {s : State} (h : memWf s.mem = true) (q : Guard) (d a b : Reg) : NextWf (execBgath q d a b s) := by
  refine batWord_memWf h (fun iss c p j => ?_) q
  dsimp only
  split
  · simp [h]
  · exact withLayout_memWf h (fun t l ht => startFill_memWf ht ..) ..

theorem execBscat_memWf {s : State} (h : memWf s.mem = true) (q : Guard) (d a b : Reg) : NextWf (execBscat q d a b s) := by
  refine batWord_memWf h (fun iss c p j => ?_) q
  dsimp only
  split
  · simp [h]
  · exact withLayout_memWf h (fun t l ht => startDrain_memWf ht ..) ..

theorem execBcopy_memWf {s : State} (h : memWf s.mem = true) (q : Guard) (d a b : Reg) : NextWf (execBcopy q d a b s) := by
  refine batWord_memWf h (fun iss c p j => ?_) q
  dsimp only
  split
  · simp [h]
  · refine withLayout_memWf h (fun t ld ht => withLayout_memWf ht (fun u la hu => ?_) ..) ..
    split
    · simp [hu]
    · refine withPos_memWf hu (fun xd => withPos_memWf hu (fun xa => ?_) ..) ..
      simp [hu]

theorem execBrem_memWf {s : State} (h : memWf s.mem = true) (q : Guard) (d a b : Reg) : NextWf (execBrem q d a b s) := by
  refine batWord_memWf h (fun iss c p j => ?_) q
  dsimp only
  split
  · simp [h]
  · split
    · simp [h]
    · refine withLayout_memWf h (fun t l ht => withPos_memWf ht (fun x => ?_) ..) ..
      simp [ht]

theorem execBfetch_memWf {s : State} (h : memWf s.mem = true) (q : Guard) (d a : Reg) : NextWf (execBfetch q d a s) := by
  refine batWord_memWf h (fun iss c p j => ?_) q
  dsimp only
  split
  · simp [h]
  · split <;> simp [h]

theorem execBaccd_memWf {s : State} (h : memWf s.mem = true) (q : Guard) (d a b : Reg) : NextWf (execBaccd q d a b s) := by
  refine batWord_memWf h (fun iss c p j => ?_) q
  dsimp only
  split
  · simp [h]
  · split
    · simp [h]
    · refine withLayout_memWf h (fun t l ht => ?_) ..
      split
      · simp [ht]
      · refine withPos_memWf ht (fun x => ?_) ..
        simp [ht]

theorem execBtset_memWf {s : State} (h : memWf s.mem = true) (q : Guard) (d a : Reg) : NextWf (execBtset q d a s) := by
  refine batWord_memWf h (fun iss c p j => ?_) q
  dsimp only
  split
  · simp [h]
  · refine withTile_memWf h (fun e t => ?_) ..
    split
    · simp [h]
    · split
      · exact h
      · split <;> simp [h]
    · exact h

theorem execBstep_memWf {s : State} (h : memWf s.mem = true) (q : Guard) (d b : Reg) : NextWf (execBstep q d b s) := by
  refine batWord_memWf h (fun iss c p j => ?_) q
  refine withLayout_memWf h (fun t l ht => withPos_memWf ht (fun x => ?_) ..) ..
  simp [ht]

theorem execBlock_memWf {s : State} (h : memWf s.mem = true) (q : Guard) (d a b : Reg) : NextWf (execBlock q d a b s) := by
  refine batWord_memWf h (fun _ _ _ _ => ?_) ..
  split <;> simp [h]

theorem execBunlk_memWf {s : State} (h : memWf s.mem = true) (q : Guard) (a : Reg) : NextWf (execBunlk q a s) :=
  batWord_memWf h (fun _ _ _ _ => by simp [h]) ..
@[simp] theorem frameDone_memWf {s : State} (h : memWf s.mem = true) (b : Nat) (f : Nat) : memWf (frameDone b s f).mem = true := by
  unfold frameDone; split <;> simp [h]

theorem execBdone_memWf {s : State} (h : memWf s.mem = true) (q : Guard) (a b : Reg) : NextWf (execBdone q a b s) := by
  refine batWord_memWf h (fun iss c p j => ?_) q
  have hf : ∀ (b : Nat) (t : State), t.mem = s.mem → memWf (j.frames.foldl (frameDone b) t).mem = true :=
    fun b t e => foldl_memWf (fun u f hu => frameDone_memWf hu b f) (by rw [e]; exact h) j.frames
  dsimp only
  split
  · simp [h]
  · split
    · exact h
    · split
      · rw [arrive_mem]
        exact hf _ _ (by simp)
      · exact hf _ _ (by simp)

theorem execBattenJobStart_memWf {s : State} (h : memWf s.mem = true) (core proc : Nat) : NextWf (execBattenJobStart core proc s) := by
  simp only [execBattenJobStart, nextWf_next]
  split
  · simp [h]
  · exact h

@[simp] theorem dropXfer_mem (s : State) (c p id : Nat) : (dropXfer s c p id).mem = s.mem := (rfl)
@[simp] theorem readRow_memWf {s : State} (h : memWf s.mem = true) (c p : Nat) (x : Xfer) (e k : Nat) : memWf (readRow s c p x e k).mem = true := by
  simp [readRow, h]

theorem execTransferPerformed_memWf {s : State} (h : memWf s.mem = true) (core proc xfer : Nat) :
    NextWf (execTransferPerformed core proc xfer s) := by
  simp only [execTransferPerformed, nextWf_next]
  split
  · exact h
  · split <;> simp [h]

@[simp] theorem tileStep_mem (s : State) (c p : Nat) (x : Xfer) (e : Nat) (st : TileSt) : (tileStep s c p x e st).mem = s.mem := by
  unfold tileStep; split <;> simp

theorem execTileFillComplete_memWf {s : State} (h : memWf s.mem = true) (core proc xfer : Nat) : NextWf (execTileFillComplete core proc xfer s) := by
  simp only [execTileFillComplete, nextWf_next]
  split
  · exact h
  · split
    · exact h
    · simp [h]

theorem execTileDrainComplete_memWf {s : State} (h : memWf s.mem = true) (core proc xfer : Nat) :
    NextWf (execTileDrainComplete core proc xfer s) := by
  simp only [execTileDrainComplete, nextWf_next]
  split
  · exact h
  · split
    · simp [h]
    · exact h

theorem execTileIntegrityReplay_memWf {s : State} (h : memWf s.mem = true) (core proc xfer acc : Nat) :
    NextWf (execTileIntegrityReplay core proc xfer acc s) := by
  simp only [execTileIntegrityReplay, nextWf_next]
  split
  · split
    · exact h
    · split
      · split <;> simp [h]
      · split <;> simp [h]
  · exact h

/-! ## Fetch -/

@[simp] theorem seeFetch_mem (s : State) (ag : Agent) (prv : Bool) (pc : W64) : (seeFetch s ag prv pc).mem = s.mem := by
  unfold seeFetch; split <;> rfl

@[simp] theorem loadFetch_mem (s : State) (ag : Agent) (prv : Bool) (pc : W64) : (loadFetch s ag prv pc).mem = s.mem := by
  unfold loadFetch
  split
  · rfl
  · dsimp only
    split <;> simp

@[simp] theorem noteFetch_mem (s : State) (ags : List Agent) (prv : Bool) (pc : W64) (n : Nat) : (noteFetch s ags prv pc n).mem = s.mem := by
  refine foldl_mem (fun s j => ?_) s _
  dsimp only
  split <;> simp

@[simp] theorem parkFetch_mem (s : State) (ag : Agent) (mask : List Nat) (pc va : W64) (prv : Bool) (iss : Nat) (pr : Probe) :
    (parkFetch s ag mask pc va prv iss pr).mem = s.mem := by
  unfold parkFetch
  dsimp only
  split
  · rfl
  · have hp := placeAcc_mem ‹_›
    split
    · simpa using hp
    · exact hp

@[simp] theorem dropStale_mem (s : State) (ags : List Agent) (pc : W64) : (dropStale s ags pc).mem = s.mem := (rfl)

theorem fetchSlice_memWf {s : State} (h : memWf s.mem = true) (c k sl : Nat) : FetchedWf (fetchSlice s c k sl) := by
  have ht : memWf ({ s with nextIss := s.nextIss + 1 } : State).mem = true := h
  unfold fetchSlice
  split
  · exact h
  · split
    · exact h
    · split
      · dsimp only
        generalize ({ s with nextIss := s.nextIss + 1 } : State) = t at ht
        split
        · simpa using ht
        · simpa using ht
        · exact issueFault_memWf ht ..
        · simpa using ht
        · exact ht
        · exact ht
        · have hr : ∀ r : Option TlbE, memWf (match r with
              | some e => tlbRefill t c (k / 128) e
              | none => t).mem = true := by
            intro r
            split <;> simp [ht]
          refine fetchedWf_ite (hr _) (fetchedWf_ite (hr _) ?_)
          split
          · simp only [fetchedWf_go, dropStale_mem, noteFetch_mem]
            exact hr _
          · refine fetchedWf_ite (hr _) (fetchedWf_ite (issueFault_memWf (hr _) ..) ?_)
            simp only [fetchedWf_go, dropStale_mem, noteFetch_mem, State.updCourse_mem]
            exact hr _
      · exact h

/-- The fetch of a batten job or a sequencer; `bad` takes its fault. -/
theorem fetchAgent_memWf {s : State} (h : memWf s.mem = true) {bad : State → FaultRec → State}
    (hb : ∀ t r, memWf t.mem = true → memWf (bad t r).mem = true)
    (who : Issuer) (ag : Agent) (pc : W64) : FetchedWf (fetchAgent s who ag pc bad) := by
  unfold fetchAgent
  dsimp only
  split
  · exact h
  · split
    · simpa using h
    · simpa using h
    · exact hb _ _ (by exact h)
    · simpa using h
    · exact h
    · exact h
    · split
      · exact h
      · split
        · simpa using h
        · split
          · exact h
          · split
            · simp [h]
            · simpa using h

theorem fetchJob_memWf {s : State} (h : memWf s.mem = true) (c p : Nat) : FetchedWf (fetchJob s c p) := by
  unfold fetchJob
  split
  · exact h
  · exact fetchAgent_memWf h (fun t r ht => jobFault_memWf ht ..) ..

theorem fetchSeq_memWf {s : State} (h : memWf s.mem = true) (c b : Nat) : FetchedWf (fetchSeq s c b) := by
  unfold fetchSeq
  split
  · exact h
  · split
    · exact h
    · exact fetchAgent_memWf h (fun t r ht => seqFault_memWf ht ..) ..

/-! ## Trap -/

@[simp] theorem dropLoads_mem (s : State) (c k : Nat) (ls : List Nat) : (dropLoads s c k ls).mem = s.mem := (rfl)
@[simp] theorem leaveTrap_mem (s : State) (c k : Nat) (co : Course) : (leaveTrap s c k co).mem = s.mem := (rfl)

theorem resumeStep_memWf {s : State} (h : memWf s.mem = true) {fin : State → State} (hfin : ∀ t, (fin t).mem = t.mem) (c b : Nat) :
    memWf (resumeStep s fin c b).mem = true := by
  unfold resumeStep
  dsimp only
  split
  · simpa [hfin] using h
  · split
    · simpa [hfin] using h
    · split
      · simpa [hfin] using h
      · have hr := fun va : W64 => bayRead_memWf h (.core c) true [b, 512] va 3 64 va []
        split
        · rename_i e
          have h1 := hr (‹Block›.save + 64)
          rw [e] at h1
          simpa [hfin] using h1
        · rename_i e
          have h1 := hr (‹Block›.save + 64)
          rw [e] at h1
          exact h1
        · simpa using h
        · simpa using h

@[simp] theorem eretCheck_memWf {s : State} (h : memWf s.mem = true) (c k : Nat) : memWf (eretCheck s c k).mem = true := by
  unfold eretCheck
  split
  · exact h
  · dsimp only
    split
    · split
      · exact resumeStep_memWf h (fun _ => rfl) ..
      · exact h
    · split
      · exact resumeStep_memWf h (fun t => leaveTrap_mem t ..) ..
      · exact h

/-! ## Control -/

theorem jumpWord_memWf {s : State} (h : memWf s.mem = true) (g : Guard) (f : Issue → Lane → Lane) : NextWf (jumpWord s g f) :=
  lword_memWf h (fun _ _ _ => by simpa using h) g
theorem execExit_memWf {s : State} (h : memWf s.mem = true) (g : Guard) : NextWf (execExit g s) := lword_memWf h (fun _ _ _ => by simp [h]) ..

theorem barWord1_memWf {s : State} (h : memWf s.mem = true) (k : BarKind) (g : Guard) (sr p : BitVec 1) (r : BitVec 3) (n : BitVec 12) :
    NextWf (barWord1 k g sr p r n s) :=
  lword_memWf h (fun _ _ _ => by simpa using h) g

theorem execSurplusPhaseComplete_memWf {s : State} (h : memWf s.mem = true) (core blk bar : Nat) :
    NextWf (execSurplusPhaseComplete core blk bar s) := by
  simp [execSurplusPhaseComplete, h]

theorem issvWord_mem {s : State} {iss : Issue} {c k : Nat} {w : W32} {g : Guard} {run : List Nat → Issued} (h : issvWord s iss c k w = .mem g run)
    (act : List Nat) : (run act).s.mem = s.mem := by
  unfold issvWord at h
  split at h
  · cases h
  · dsimp only at h
    split at h
    · cases h
    all_goals
      split at h
      · cases h
      · split at h
        · cases h
        · cases h
          exact memWordRun_mem ‹_› act
        · cases h

@[simp] theorem issvRun_mem (iss : Issue) (c k : Nat) (s : State) (bad : List (Nat × FaultRec)) (ws : List (W32 × List Nat)) :
    (issvRun iss c k s bad ws).1.mem = s.mem := by
  induction ws generalizing s bad with
  | nil => rw [issvRun]
  | cons x ws ih =>
    obtain ⟨w, ls⟩ := x
    rw [issvRun]
    split
    · exact ih s _
    · rw [ih, State.updCourse_mem]
    · dsimp only
      split
      · rfl
      · rw [ih, State.updCourse_mem]
        exact issvWord_mem ‹_› _

@[simp] theorem issvGo_memWf {s : State} (h : memWf s.mem = true) (c k : Nat) (run : IssvRun) : memWf (issvGo s c k run).mem = true := by
  simp [issvGo, h]
theorem execIssv_memWf {s : State} (h : memWf s.mem = true) (g : Guard) (a : Reg) : NextWf (execIssv g a s) :=
  lword_memWf h (fun _ _ _ => by simp [h]) ..
@[simp] theorem issvResume_memWf {s : State} (h : memWf s.mem = true) (c k : Nat) (pc : W64) : memWf (issvResume s c k pc).mem = true := by
  unfold issvResume; split <;> simp [h]
@[simp] theorem ujump_mem (s : State) (iss : Issue) (pc : W64) : (ujump s iss pc).mem = s.mem := by simp [ujump]
@[simp] theorem updIss_mem (s : State) (w : Issuer) (f : Uni → Uni) : (updIss s w f).mem = s.mem := by unfold updIss; split <;> simp
theorem execUbra_memWf {s : State} (h : memWf s.mem = true) (q : Guard) (o : BitVec 22) : NextWf (execUbra q o s) :=
  uword_memWf h (fun _ => by simp [h]) ..
theorem execUcall_memWf {s : State} (h : memWf s.mem = true) (q : Guard) (d : Reg) (o : BitVec 12) : NextWf (execUcall q d o s) :=
  cword_memWf h (fun _ _ _ => by simp [h]) ..
theorem execUcallx_memWf {s : State} (h : memWf s.mem = true) (q : Guard) (d a : Reg) : NextWf (execUcallx q d a s) :=
  cword_memWf h (fun _ _ _ => by simp [h]) ..
theorem execUret_memWf {s : State} (h : memWf s.mem = true) (q : Guard) (a : Reg) : NextWf (execUret q a s) := uword_memWf h (fun _ => by simp [h]) ..
theorem execUloop_memWf {s : State} (h : memWf s.mem = true) (q : Guard) (d : Reg) (o : BitVec 12) : NextWf (execUloop q d o s) :=
  uword_memWf h (fun _ => by simp [h]) ..
theorem execBarinit_memWf {s : State} (h : memWf s.mem = true) (q : Guard) (a b : Reg) : NextWf (execBarinit q a b s) :=
  cword_memWf h (fun _ _ _ => by simp [h]) ..

@[simp] theorem barStores_mem (iss : Issue) (c k : Nat) (bl : Block) (img : W64) (ns : List Nat) (r : Issued) :
    (barStores iss c k bl img ns r).s.mem = r.s.mem := by
  induction ns generalizing r with
  | nil => rfl
  | cons n ns ih =>
    rw [barStores]
    split <;> simp [ih]

theorem execBarsave_memWf {s : State} (h : memWf s.mem = true) (q : Guard) (a : Reg) : NextWf (execBarsave q a s) := by
  refine cword_memWf h (fun iss c k => ?_) q
  dsimp only
  split
  · simp [h]
  · split
    · simp [h]
    · split
      · exact h
      · split
        · exact h
        · split <;> simp [h]

theorem execBarsaveHeldAdds_memWf {s : State} (h : memWf s.mem = true) (core blk : Nat) : NextWf (execBarsaveHeldAdds core blk s) := by
  simp only [execBarsaveHeldAdds, nextWf_next]
  split
  · simp [h]
  · split <;> simp [h]

/-- Both ends of the reads of a barrier image: the state after the last, and the one in which a read stops. -/
theorem barLoads_memWf {s : State} (h : memWf s.mem = true) (iss : Issue) (img : W64) (ns : List Nat) (m : Map Barrier) :
    (∀ x, barLoads iss img ns s m = .ok x → memWf x.1.mem = true) ∧ ∀ r, barLoads iss img ns s m = .error r → r.All
    (fun t => memWf t.mem = true) := by
  induction ns generalizing s m with
  | nil => exact ⟨fun x e => by cases e; exact h, fun r e => by cases e⟩
  | cons n ns ih =>
    rw [barLoads]
    have hr := (opReadSec_mem s iss (img + BitVec.ofNat 64 (8 * n)) 8 false).memWf h
    split
    · rename_i e'
      rw [e'] at hr
      exact ih hr _
    · exact ⟨fun x e => (nomatch e), fun r e => by cases e; exact hr⟩

theorem execBarload_memWf {s : State} (h : memWf s.mem = true) (q : Guard) (a : Reg) : NextWf (execBarload q a s) := by
  refine cword_memWf h (fun iss c k => ?_) q
  dsimp only
  split
  · simp [h]
  · split
    · simp [h]
    · split
      · exact h
      · split
        next e => exact withRead_memWf h ((barLoads_memWf h ..).2 _ e) (fun t b ht => ht) ..
        next e => simp [(barLoads_memWf h ..).1 _ e]

@[simp] theorem spawnAppend_mem (s : State) (iss : Issue) (c k lvl : Nat) (fence : Bool) (addr : W64) (d : Reg) :
    (spawnAppend s iss c k lvl fence addr d).mem = s.mem := by
  simp [spawnAppend]

theorem execSpawn_memWf {s : State} (h : memWf s.mem = true) (q : Guard) (d a : Reg) : NextWf (execSpawn q d a s) := by
  refine cword_memWf h (fun iss c k => ?_) q
  dsimp only
  split
  · simp [h]
  · split
    · exact h
    · refine withRead_memWf h ((opReadSec_mem ..).memWf h) (fun t b ht => ?_) ..
      simp [h, ht]

theorem execSfence_memWf {s : State} (h : memWf s.mem = true) (q : Guard) (d a b : Reg) : NextWf (execSfence q d a b s) :=
  cword_memWf h (fun _ _ _ => by simp [h]) ..

/-! ## Events -/

theorem execCopyHit_memWf {s : State} (h : memWf s.mem = true) (acc : Nat) : NextWf (execCopyHit acc s) := by simp [execCopyHit, h]
theorem execHomeRead_memWf {s : State} (h : memWf s.mem = true) (acc : Nat) : NextWf (execHomeRead acc s) := by simp [execHomeRead, h]
theorem execLoadReply_memWf {s : State} (h : memWf s.mem = true) (acc : Nat) : NextWf (execLoadReply acc s) := by simp [execLoadReply, h]
theorem execHomeWrite_memWf {s : State} (h : memWf s.mem = true) (acc : Nat) : NextWf (execHomeWrite acc s) := by simp [execHomeWrite, h]
theorem execCompletionRecord_memWf {s : State} (h : memWf s.mem = true) (acc : Nat) : NextWf (execCompletionRecord acc s) := by
  simp [execCompletionRecord, h]
theorem execFencePass_memWf {s : State} (h : memWf s.mem = true) (core slot lane : Nat) : NextWf (execFencePass core slot lane s) := by
  simp [execFencePass, h]
theorem execCopyExpiry_memWf {s : State} (h : memWf s.mem = true) (core gran : Nat) : NextWf (execCopyExpiry core gran s) := h
theorem execL1CopySweep_memWf {s : State} (h : memWf s.mem = true) (core : Nat) : NextWf (execL1CopySweep core s) := h
theorem execCxlWriteCompletion_memWf {s : State} (h : memWf s.mem = true) (acc : Nat) : NextWf (execCxlWriteCompletion acc s) := by
  simp [execCxlWriteCompletion, h]

@[simp] theorem writeSector_memWf {s : State} (h : memWf s.mem = true) (sector : Nat) (b : List (Nat × Byte)) :
    memWf (writeSector s sector b).mem = true :=
  foldl_memWf (fun _ e h => State.writeByte_memWf _ e.2 h) h b

@[simp] theorem toLink_mem (s : State) (canon : Nat) : (toLink s canon).mem = s.mem := by unfold toLink; split <;> rfl

@[simp] theorem writeHome_mem (s : State) (sector : Nat) (nosc : Bool) : (writeHome s sector nosc).mem = s.mem := by
  unfold writeHome
  dsimp only
  split <;> simp

@[simp] theorem afterWriteBy_memWf {s : State} (h : memWf s.mem = true) (sector : Nat) (sig nosc link : Bool) :
    memWf (afterWriteBy s sector sig nosc link).mem = true := by
  simp [afterWriteBy, h]

@[simp] theorem afterWrite_memWf {s : State} (h : memWf s.mem = true) (sector : Nat) (sig nosc : Bool) :
    memWf (afterWrite s sector sig nosc).mem = true := by
  simp [afterWrite, h]

@[simp] theorem sectorWriteBy_memWf {s : State} (h : memWf s.mem = true) (a : Access) (sector : Nat) (bs : List (Nat × Byte)) (link : Bool) :
    memWf (sectorWriteBy s a sector bs link).mem = true := by
  unfold sectorWriteBy; split <;> simp [h]

@[simp] theorem sectorWrite_memWf {s : State} (h : memWf s.mem = true) (a : Access) (sector : Nat) (bs : List (Nat × Byte)) :
    memWf (sectorWrite s a sector bs).mem = true := by
  simp [sectorWrite, h]

@[simp] theorem svcStore_memWf {s : State} (h : memWf s.mem = true) (pa : Nat) (b : List Byte) : memWf (svcStore s pa b).mem = true := by
  refine foldl_memWf (fun s k h => ?_) h _
  dsimp only
  split <;> simp [h]

@[simp] theorem stageDone_mem (s : State) (k : Nat) (st : Stage) : (stageDone s k st).mem = s.mem := by simp [stageDone]

theorem execPublication_memWf {s : State} (h : memWf s.mem = true) (pkg group sector : Nat) : NextWf (execPublication pkg group sector s) := by
  simp only [execPublication, nextWf_next]
  split
  · exact h
  · split
    · exact h
    · simp [h]

theorem execCxlSnoop_memWf {s : State} (h : memWf s.mem = true) (pa : Nat) (data : List Byte) : NextWf (execCxlSnoop pa data s) := by
  simp only [execCxlSnoop, nextWf_next]
  split
  · exact h
  · simp [h]

theorem execClockSkewCheck_memWf {s : State} (h : memWf s.mem = true) : NextWf (execClockSkewCheck s) := by
  simp only [execClockSkewCheck, nextWf_next]
  refine foldl_memWf (fun t u ht => ?_) ?_ _
  · split <;> exact ht
  · exact h

theorem execCoursePromotion_memWf {s : State} (h : memWf s.mem = true) (core slot : Nat) : NextWf (execCoursePromotion core slot s) := by
  simp only [execCoursePromotion, nextWf_next]
  split
  · exact h
  · simp [h]

@[simp] theorem demote_mem (s : State) (c k : Nat) (co : Course) : (demote s c k co).mem = s.mem := (rfl)

theorem execCourseDemotion_memWf {s : State} (h : memWf s.mem = true) (core slot : Nat) : NextWf (execCourseDemotion core slot s) := by
  simp only [execCourseDemotion, nextWf_next]
  split
  · exact h
  · simp [h]

theorem execActiveSetTimesliceExpiry_memWf {s : State} (h : memWf s.mem = true) (core slot : Nat) :
    NextWf (execActiveSetTimesliceExpiry core slot s) := by
  simp only [execActiveSetTimesliceExpiry, nextWf_next]
  split
  · exact h
  · simp [h]

@[simp] theorem pageFilled_mem (s : State) (b rid : Nat) (r : PageReq) : (pageFilled s b rid r).mem = s.mem := (rfl)

@[simp] theorem takeHeldAns_mem (s : State) (b n : Nat) : (takeHeldAns s b n).mem = s.mem := by
  induction n generalizing s with
  | zero => rw [takeHeldAns]
  | succ n ih =>
    rw [takeHeldAns]
    split
    · rfl
    · split
      · rfl
      · dsimp only
        rw [ih]
        split <;> simp

theorem execNoticeQueueDrain_memWf {s : State} (h : memWf s.mem = true) (bay : Nat) : NextWf (execNoticeQueueDrain bay s) := by
  simp only [execNoticeQueueDrain, nextWf_next]
  split
  · exact h
  · simp [h]

theorem execCoreMessageAppend_memWf {s : State} (h : memWf s.mem = true) (core : Nat) : NextWf (execCoreMessageAppend core s) := by
  simp only [execCoreMessageAppend, nextWf_next]
  split
  · exact h
  · simp [h]

/-! ## Spawn -/

theorem regionsRead_memWf {s : State} (h : memWf s.mem = true) (b : Nat) (prv : Bool) (tag : List Nat) (list : W64) (k : Nat) (rs : List Region) :
    ReadWf (regionsRead b prv tag list k s rs) := by
  induction k generalizing s rs with
  | zero => exact h
  | succ k ih =>
    rw [regionsRead]
    have hr := bayRead_memWf h (.bayq b) prv tag (list + BitVec.ofNat 64 (16 * rs.length)) 2 16 (list + BitVec.ofNat 64 (16 * rs.length)) []
    split
    · rename_i x e
      rw [e] at hr
      have h2 := ih hr (rs ++ [regionOf (list + BitVec.ofNat 64 (16 * rs.length)) (leNum x)])
      split
      · rename_i e'
        rw [e'] at h2
        simpa using h2
      · exact h2
    · exact hr

theorem execJobParse_memWf {s : State} (h : memWf s.mem = true) (bay lvl : Nat) : NextWf (execJobParse bay lvl s) := by
  simp only [execJobParse, nextWf_next]
  split
  · exact h
  next e rest _ =>
    split
    · exact h
    · have hr := bayRead_memWf h (.bayq bay) e.prv (readTag lvl e []) e.addr 2 64 e.addr []
      split
      next s' x e' =>
        rw [e'] at hr
        have hg := regionsRead_memWf hr bay e.prv (readTag lvl e []) (BitVec.ofNat 64 (fieldOf (leNum x) 256 64)) (fieldOf (leNum x) 415 4) []
        split
        next e2 =>
          rw [e2] at hg
          simpa using hg
        next e2 =>
          rw [e2] at hg
          exact readFailed_memWf hr hg ..
        next e2 =>
          rw [e2] at hg
          split
          · simpa using hr
          · split
            · simpa using hr
            · simpa using hg
      · exact readFailed_memWf h hr ..

theorem execFenceRecordRead_memWf {s : State} (h : memWf s.mem = true) (bay lvl : Nat) : NextWf (execFenceRecordRead bay lvl s) := by
  simp only [execFenceRecordRead, nextWf_next]
  split
  · exact h
  next e rest _ =>
    split
    · exact h
    · have hr := bayRead_memWf h (.bayq bay) e.prv (readTag lvl e []) e.addr 6 192 e.addr []
      split
      · rename_i e'
        rw [e'] at hr
        split
        · simpa using hr
        · exact putFence_memWf hr (readConds_memWf hr ..) ..
      · exact readFailed_memWf h hr ..

theorem execFenceCounterPoll_memWf {s : State} (h : memWf s.mem = true) (bay lvl cond : Nat) : NextWf (execFenceCounterPoll bay lvl cond s) := by
  simp [execFenceCounterPoll, h]

-- `placeOn` is a variable here, or the unifier would run its search through the 510 slots.
theorem placeBlockIn_mem {s t : State} {bl : Block} {cs : List Nat} (h : placeBlockIn s bl cs = some t) : t.mem = s.mem := by
  delta placeBlockIn placeBlockIn._f at h
  generalize placeOn = place at h
  induction cs with
  | nil => cases h
  | cons c cs ih =>
    dsimp only at h
    split at h
    · cases h; rfl
    · exact ih h

theorem placeUnit_mem {s t : State} {cores : List Nat} {bls : List Block} (h : placeUnit s cores bls = some t) : t.mem = s.mem := by
  induction bls generalizing s with
  | nil => cases h; rfl
  | cons bl bls ih =>
    rw [placeUnit] at h
    split at h
    · exact (ih h).trans (placeBlockIn_mem ‹_›)
    · cases h

theorem tryPlace_mem {s t : State} {b : Nat} {j : JobInfo} {next : Nat} (h : tryPlace s b j next = some t) : t.mem = s.mem := by
  obtain ⟨g, -, hg⟩ := Option.bind_eq_some_iff.1 h
  exact placeUnit_mem hg

@[simp] theorem placeLevels_mem (s : State) (b : Nat) (lvls : List Nat) : (placeLevels s b lvls).mem = s.mem := by
  induction lvls generalizing s with
  | nil => rfl
  | cons lvl lvls ih =>
    rw [placeLevels]
    split
    · exact ih s
    · split
      · exact ih s
      · split
        · exact ih s
        · split
          · rw [setLevel_mem]; exact tryPlace_mem ‹_›
          · dsimp only
            split <;> simp [ih]

theorem execPlacementStep_memWf {s : State} (h : memWf s.mem = true) (bay : Nat) : NextWf (execPlacementStep bay s) := by simp [execPlacementStep, h]

theorem execPlacementStarvationTimeout_memWf {s : State} (h : memWf s.mem = true) (bay lvl : Nat) :
    NextWf (execPlacementStarvationTimeout bay lvl s) := by
  simp only [execPlacementStarvationTimeout, nextWf_next]
  split
  · exact h
  · simp [h]

@[simp] theorem stageStep_memWf {s : State} (h : memWf s.mem = true) (c blk : Nat) : memWf (stageStep s c blk).mem = true := by
  unfold stageStep
  split
  · exact h
  · split
    · exact h
    · split
      · simp [h]
      · split
        · exact h
        · refine foldl_memWf (fun s a h => ?_) (by simpa using h) _
          split <;> simp [h]

theorem execBlockStart_memWf {s : State} (h : memWf s.mem = true) (core blk : Nat) : NextWf (execBlockStart core blk s) := by
  simp only [execBlockStart, nextWf_next]
  split
  · exact h
  · simp [h]

@[simp] theorem releaseBlock_mem (s : State) (c blk : Nat) (bl : Block) : (releaseBlock s c blk bl).mem = s.mem := (rfl)

@[simp] theorem doneAdd_mem (s : State) (b : Nat) (j : JobInfo) : (doneAdd s b j).mem = s.mem := by
  unfold doneAdd
  dsimp only
  split
  · exact getD_mem (fun t h => by simpa using queueFault_mem h) rfl
  · refine getD_mem (fun t h => ?_) rfl
    obtain ⟨x, hx, rfl⟩ := Option.map_eq_some_iff.1 h
    simpa using placeAcc_mem (w := x.2) hx

theorem execBlockRetirement_memWf {s : State} (h : memWf s.mem = true) (core blk : Nat) : NextWf (execBlockRetirement core blk s) := by
  simp only [execBlockRetirement, nextWf_next]
  split
  · exact h
  · split
    · exact h
    · split <;> simp [h]

theorem execDoneAddRecord_memWf {s : State} (h : memWf s.mem = true) (bay acc : Nat) : NextWf (execDoneAddRecord bay acc s) := by
  simp only [execDoneAddRecord, nextWf_next]
  split
  · split
    · exact h
    · split
      · simp [h]
      · simp [h]
      · exact h
  · exact h

theorem execHbmEarlyRefresh_memWf {s : State} (h : memWf s.mem = true) (stack bank : Nat) : NextWf (execHbmEarlyRefresh stack bank s) := by
  simp [execHbmEarlyRefresh, h]

/-! ## System -/

theorem execMbxrd_memWf {s : State} (h : memWf s.mem = true) (q : Guard) (d a : Reg) : NextWf (execMbxrd q d a s) := by
  refine pword_memWf h (fun iss c k => ?_) q
  dsimp only
  split
  · simp [h]
  · split <;> simp [h]

theorem execMbxwr_memWf {s : State} (h : memWf s.mem = true) (q : Guard) (a b : Reg) : NextWf (execMbxwr q a b s) :=
  cword_memWf h (fun _ _ _ => by simp [h]) ..

theorem execMovsFromSys_memWf {s : State} (h : memWf s.mem = true) (q : Guard) (d a : Reg) : NextWf (execMovsFromSys q d a s) := by
  refine cword_memWf h (fun iss c k => ?_) q
  dsimp only
  split
  · simp [h]
  · simp [h]
  · simp [h]
  · split <;> simp [h]

theorem execMovsToSys_memWf {s : State} (h : memWf s.mem = true) (q : Guard) (d a : Reg) : NextWf (execMovsToSys q d a s) := by
  refine cword_memWf h (fun _ _ _ => ?_) ..
  split <;> simp [h]

theorem execTherm_memWf {s : State} (h : memWf s.mem = true) (q : Guard) (d a : Reg) : NextWf (execTherm q d a s) :=
  cword_memWf h (fun _ _ _ => by simp [h]) ..
theorem execClock_memWf {s : State} (h : memWf s.mem = true) (q : Guard) (d : Reg) : NextWf (execClock q d s) :=
  cword_memWf h (fun _ _ _ => by simp [h]) ..
theorem execTrap_memWf {s : State} (h : memWf s.mem = true) (q : Guard) (d a b : Reg) : NextWf (execTrap q d a b s) :=
  cword_memWf h (fun _ _ _ => by simp [h]) ..
theorem execEret_memWf {s : State} (h : memWf s.mem = true) (q : Guard) : NextWf (execEret q s) := pword_memWf h (fun _ _ _ => by simp [h]) ..

@[simp] theorem trapAnswer_mem (s : State) (c k : Nat) (v : W64) : (trapAnswer s c k v).mem = s.mem := by
  unfold trapAnswer
  split
  · rfl
  · split <;> simp

@[simp] theorem faultAnswer_memWf {s : State} (h : memWf s.mem = true) (c k : Nat) (v : W64) : memWf (faultAnswer s c k v).mem = true := by
  unfold faultAnswer
  split
  · exact h
  · dsimp only
    split
    · exact h
    · split <;> simp [h]

theorem execEretAns_memWf {s : State} (h : memWf s.mem = true) (q : Guard) (a b : Reg) : NextWf (execEretAns q a b s) :=
  pword_memWf h (fun _ _ _ => by simp [h]) ..

theorem execMqpop_memWf {s : State} (h : memWf s.mem = true) (q : Guard) (d : Reg) : NextWf (execMqpop q d s) := by
  refine pword_memWf h (fun _ _ _ => ?_) ..
  split <;> simp [h]

@[simp] theorem noteWaiting_mem (s : State) (c det : Nat) (as : List Access) : (noteWaiting s c det as).mem = s.mem := by simp [noteWaiting]
@[simp] theorem replayWrite_memWf {s : State} (h : memWf s.mem = true) (id : Nat) : memWf (replayWrite s id).mem = true := by simp [replayWrite, h]

/-- Only the fold of `replayWrite` writes; the one before it and what follows leave memory alone. -/
@[simp] theorem replayLog_memWf {s : State} (h : memWf s.mem = true) (c va z : Nat) (leaf : W64) : memWf (replayLog s c va z leaf).mem = true := by
  have hgo : ∀ (go : State → Access → State) (as : List Access), (∀ t a, (go t a).mem = t.mem) →
      memWf (as.foldl (fun s a => replayWrite s a.id) (as.foldl go s)).mem = true :=
    fun go as hg => foldl_memWf (fun t a ht => replayWrite_memWf ht a.id) (by rw [foldl_mem hg]; exact h) as
  unfold replayLog
  dsimp only
  split
  · rw [noteWaiting_mem]
    exact hgo _ _ fun t a => by split <;> simp
  · split
    · rw [asyncFault_mem, noteWaiting_mem]
      exact hgo _ _ fun t a => by split <;> simp
    · rw [noteWaiting_mem]
      exact hgo _ _ fun t a => by split <;> simp

@[simp] theorem retryMissed_memWf {s : State} (h : memWf s.mem = true) (c va z : Nat) : memWf (retryMissed s c va z).mem = true := by
  simp [retryMissed, h]

@[simp] theorem tlbwStep_memWf {s : State} (h : memWf s.mem = true) (c va z : Nat) (leaf : W64) : memWf (tlbwStep s c va z leaf).mem = true := by
  unfold tlbwStep
  dsimp only
  split
  · exact refillQueue_memWf (retryMissed_memWf (replayLog_memWf (by simpa using h) ..) ..) _
  · refine refillQueue_memWf ?_ _
    rw [State.updCore_mem]
    exact retryMissed_memWf (replayLog_memWf (by simpa using h) ..) ..

theorem execTlbw_memWf {s : State} (h : memWf s.mem = true) (q : Guard) (a b : Reg) : NextWf (execTlbw q a b s) :=
  pword_memWf h (fun _ _ _ => by simp [h]) ..
@[simp] theorem requeue_mem (c : Nat) (s : State) (page : Nat) : (requeue c s page).mem = s.mem := by simp [requeue]

@[simp] theorem missAgain_mem (c : Nat) (s : State) (a : Access) : (missAgain c s a).mem = s.mem := by
  unfold missAgain
  dsimp only
  split
  · rw [State.updLane_mem]
    split
    · rename_i hp
      simpa using placeAcc_mem hp
    · rfl
  · split
    · rename_i hp
      simpa using placeAcc_mem hp
    · rfl

@[simp] theorem tlbiCore_mem (va z : Nat) (all : Bool) (s : State) (c : Nat) : (tlbiCore va z all s c).mem = s.mem := by simp [tlbiCore]

@[simp] theorem pendIssue_mem (s : State) (iss : Issue) (k : PendKind) (accs : List Nat) (f : Nat) (d : Reg) :
    (pendIssue s iss k accs f d).mem = s.mem := by
  simp [pendIssue]

theorem execTlbi_memWf {s : State} (h : memWf s.mem = true) (q : Guard) (a b : Reg) : NextWf (execTlbi q a b s) :=
  pword_memWf h (fun _ _ _ => by simp [h]) ..
@[simp] theorem pendEnd_mem (s : State) (c k : Nat) (p : Pend) (v : Option W64) : (pendEnd s c k p v).mem = s.mem := by simp [pendEnd]

theorem execTlbiComplete_memWf {s : State} (h : memWf s.mem = true) (core slot : Nat) : NextWf (execTlbiComplete core slot s) := by
  simp only [execTlbiComplete, nextWf_next]
  split
  · simp [h]
  · exact h

theorem execSideLogTimeout_memWf {s : State} (h : memWf s.mem = true) (acc : Nat) : NextWf (execSideLogTimeout acc s) := by
  simp only [execSideLogTimeout, nextWf_next]
  split
  · exact h
  · simp [h]

@[simp] theorem writeBucket_memWf {s : State} (h : memWf s.mem = true) (b i : Nat) (name : W128) (f st : Nat) :
    memWf (writeBucket s b i name f st).mem = true := by
  simp [writeBucket, h]

@[simp] theorem writeFrame_memWf {s : State} (h : memWf s.mem = true) (b f : Nat) (name : W128) (base : W64) (len : Nat) (gen : BitVec 4)
    (st mode : Nat) : memWf (writeFrame s b f name base len gen st mode).mem = true := by
  simp [writeFrame, h]

@[simp] theorem tombstone_memWf {s : State} (h : memWf s.mem = true) (b : Nat) (name : W128) : memWf (tombstone s b name).mem = true := by
  unfold tombstone; split <;> simp [h]

@[simp] theorem mapFrame_memWf {s : State} (h : memWf s.mem = true) (b t : Nat) (v : Nat) (gen : BitVec 4) :
    memWf (mapFrame s b t v gen).mem = true := by
  simp [mapFrame, h]

@[simp] theorem objmapStep_memWf {s : State} (h : memWf s.mem = true) (b t v : Nat) : memWf (objmapStep s b t v).1.mem = true := by
  unfold objmapStep
  dsimp only
  split
  · exact h
  · split
    · split
      · exact h
      · simp [h]
    · split
      · exact h
      · split
        · exact h
        · split
          · exact h
          · refine mapFrame_memWf ?_ ..
            split
            · refine writeBucket_memWf ?_ ..
              split <;> simp [h]
            · split <;> simp [h]

@[simp] theorem tableErr_mem (s : State) (iss : Issue) (src : Nat) : (tableErr s iss src).mem = s.mem := by simp [tableErr]

theorem execObjmap_memWf {s : State} (h : memWf s.mem = true) (q : Guard) (d a b : Reg) : NextWf (execObjmap q d a b s) := by
  refine pword_memWf h (fun iss c k => ?_) q
  dsimp only
  split
  · simp [h]
  · refine withRead_memWf h ((opReadSec_mem ..).memWf h) (fun t b ht => ?_) ..
    split <;> simp [ht]

@[simp] theorem dropFrame_memWf {s : State} (h : memWf s.mem = true) (b f : Nat) : memWf (dropFrame s b f).mem = true := by simp [dropFrame, h]

theorem execObjunmap_memWf {s : State} (h : memWf s.mem = true) (q : Guard) (d a b : Reg) : NextWf (execObjunmap q d a b s) := by
  refine pword_memWf h (fun iss c k => ?_) q
  dsimp only
  split
  · simp [h]
  · split
    · simp [h]
    · split <;> simp [h]

theorem execObjunmapDrainReturn_memWf {s : State} (h : memWf s.mem = true) (core slot : Nat) : NextWf (execObjunmapDrainReturn core slot s) := by
  simp only [execObjunmapDrainReturn, nextWf_next]
  split
  · simp [h]
  · exact h

theorem execObjunmapVacateStep_memWf {s : State} (h : memWf s.mem = true) (core slot : Nat) : NextWf (execObjunmapVacateStep core slot s) := by
  simp only [execObjunmapVacateStep, nextWf_next]
  split
  · split <;> simp [h]
  · exact h

theorem execObjstat_memWf {s : State} (h : memWf s.mem = true) (q : Guard) (d a : Reg) : NextWf (execObjstat q d a s) := by
  refine pword_memWf h (fun iss c k => ?_) q
  dsimp only
  split
  · simp [h]
  · split <;> simp [h]

theorem execObjectRequestResend_memWf {s : State} (h : memWf s.mem = true) (core name : Nat) : NextWf (execObjectRequestResend core name s) := by
  simp only [execObjectRequestResend, nextWf_next]
  split
  · exact h
  · simp [h]

theorem execObjectParkRetry_memWf {s : State} (h : memWf s.mem = true) (acc : Nat) : NextWf (execObjectParkRetry acc s) := by
  simp only [execObjectParkRetry, nextWf_next]
  split
  · exact h
  · split
    · exact h
    · split
      · simp [h]
      · simp [h]
      · exact h

@[simp] theorem harvestStep_memWf {s : State} (h : memWf s.mem = true) (pa z : Nat) (clr satclr : Bool) :
    memWf (harvestStep s pa z clr satclr).1.mem = true := by
  unfold harvestStep
  dsimp only
  split
  · simpa using h
  · split <;> split <;> split <;> simp [h]

theorem execHarvest_memWf {s : State} (h : memWf s.mem = true) (q : Guard) (d a b : Reg) : NextWf (execHarvest q d a b s) := by
  refine pword_memWf h (fun iss c k => ?_) q
  dsimp only
  split
  · simp [h]
  · split <;> simp [h]

@[simp] theorem preemptStep_mem (s : State) (c b : Nat) (bl : Block) (save : W64) : (preemptStep s c b bl save).mem = s.mem := by simp [preemptStep]

theorem execPreempt_memWf {s : State} (h : memWf s.mem = true) (q : Guard) (a b : Reg) : NextWf (execPreempt q a b s) := by
  refine pword_memWf h (fun iss c k => ?_) q
  dsimp only
  split
  · simp [h]
  · split
    · simp [h]
    · split <;> simp [h]

/-- The two stores of the sequencer image, each placed or failed, leave memory alone. -/
theorem execSequencerStop_memWf {s : State} (h : memWf s.mem = true) (core blk : Nat) : NextWf (execSequencerStop core blk s) := by
  unfold execSequencerStop
  rw [nextWf_next]
  split
  · exact h
  · refine ite_memWf h ?_
    extract_lets x va store go stopSeq bl' s0
    have hgo : ∀ (u v : State) (a : Access), go u a = some v → v.mem = u.mem := by
      intro u v a e
      dsimp only [go] at e
      split at e
      · cases e
        simp
      · exact placeAcc_map_mem rfl _ e
    refine getD_memWf (m := s.mem) (fun t ht => ?_) h rfl
    obtain ⟨u, hu, ht⟩ := Option.bind_eq_some_iff.1 ht
    exact (hgo u t _ ht).trans (hgo s0 u _ hu)

@[simp] theorem yieldEntry_mem (s : State) (c k : Nat) (co : Course) (save entry : W64) : (yieldEntry s c k co save entry).mem = s.mem := (rfl)

theorem execYieldTrapEntry_memWf {s : State} (h : memWf s.mem = true) (core slot : Nat) : NextWf (execYieldTrapEntry core slot s) := by
  simp only [execYieldTrapEntry, nextWf_next]
  split
  · exact h
  next co _ =>
    split
    · exact h
    next bl _ =>
      refine ite_memWf h ?_
      have hr := bayRead_memWf h (.core core) true [co.blk, slot] bl.save 2 8 bl.save []
      split
      · rename_i e'
        rw [e'] at hr
        simpa using hr
      · rename_i e'
        rw [e'] at hr
        exact hr
      · simpa using h
      · simpa using h

theorem execHalt_memWf {s : State} (h : memWf s.mem = true) (q : Guard) : NextWf (execHalt q s) := pword_memWf h (fun _ _ _ => by simp [h]) ..

theorem execSwapOut_memWf {s : State} (h : memWf s.mem = true) (core blk : Nat) : NextWf (execSwapOut core blk s) := by
  simp only [execSwapOut, nextWf_next]
  split
  · exact h
  · simp [h]

@[simp] theorem resumeBlock_mem (s : State) (c b : Nat) (bl : Block) (ks : List Nat) (save entry : W64) :
    (resumeBlock s c b bl ks save entry).mem = s.mem :=
  (rfl)

theorem execResume_memWf {s : State} (h : memWf s.mem = true) (q : Guard) (a b : Reg) : NextWf (execResume q a b s) := by
  refine pword_memWf h (fun iss c k => ?_) q
  dsimp only
  split
  · simp [h]
  · split
    · simp [h]
    · split
      · simp [h]
      · refine withRead_memWf h ((opReadSec_mem ..).memWf h) (fun t b ht => ?_) ..
        split
        · split <;> simp [h, ht]
        · exact h

@[simp] theorem lookAgain_mem (s : State) (c : Nat) : (lookAgain s c).mem = s.mem := by
  refine foldl_mem (fun s h => ?_) s _
  split
  · split
    · split <;> simp
    · simp
  · simp

theorem execFaultRecordDelivery_memWf {s : State} (h : memWf s.mem = true) (core : Nat) : NextWf (execFaultRecordDelivery core s) := by
  simp only [execFaultRecordDelivery, nextWf_next]
  split
  · exact h
  · simp [h]

theorem execSupervisorStallTimeout_memWf {s : State} (h : memWf s.mem = true) (bay : Nat) : NextWf (execSupervisorStallTimeout bay s) := by
  simp [execSupervisorStallTimeout, h]

theorem execIllegalWord_memWf {s : State} (h : memWf s.mem = true) (code reason pos : Nat) (wd : W32) :
    NextWf (execIllegalWord code reason pos wd s) := by
  refine word_memWf (fun _ => ?_)
  split <;> simp [h]

/-! ## Fabric -/

@[simp] theorem sendReply_mem (s : State) (p : FabReq) (ans : FabAns) : (sendReply s p ans).mem = s.mem := (rfl)
@[simp] theorem nackPeer_mem (s : State) (p : PeerReq) (code : Nat) : (nackPeer s p code).mem = s.mem := (rfl)
@[simp] theorem sendNack_mem (s : State) (p : FabReq) (code : Nat) : (sendNack s p code).mem = s.mem := (rfl)

@[simp] theorem ingressDone_mem (s : State) (p : FabReq) (t : Target) (pa : Nat) (r : Record) (old : List Byte) :
    (ingressDone s p t pa r old).mem = s.mem := by
  simp [ingressDone]

@[simp] theorem clearBad_mem (s : State) (sector : Nat) : (clearBad s sector).mem = s.mem := (rfl)

@[simp] theorem ingressStore_memWf {s : State} (h : memWf s.mem = true) (p : FabReq) (t : Target) (pa : Nat) (b : List (Nat × Byte)) (sig : Bool) :
    memWf (ingressStore s p t pa b sig).mem = true := by
  simp [ingressStore, h]

@[simp] theorem atomLanes_memWf {s : State} (h : memWf s.mem = true) (sec : Nat) (ls : List (Nat × AtomOp × Nat × Nat × Nat)) (old : List Byte) :
    memWf (atomLanes s sec ls old).1.mem = true := by
  induction ls generalizing s old with
  | nil => exact h
  | cons x ls ih =>
    obtain ⟨off, op, n, v, cmp⟩ := x
    exact ih (writeOne_memWf h ..) _

@[simp] theorem ingressLoad_mem (s : State) (p : FabReq) (t : Target) (scope : Nat) : (ingressLoad s p t scope).mem = s.mem := by
  unfold ingressLoad; split <;> simp
@[simp] theorem ingressWait_mem (s : State) (p : FabReq) (t : Target) (n cmp : Nat) : (ingressWait s p t n cmp).mem = s.mem := by simp [ingressWait]

@[simp] theorem stageAnswer_mem (s : State) (k : Nat) : (stageAnswer s k).mem = s.mem := by
  unfold stageAnswer
  dsimp only
  split <;> simp

@[simp] theorem stageWrites_mem (s : State) (p : FabReq) (g : Nat) (ws : List Staged) : (stageWrites s p g ws).mem = s.mem := by simp [stageWrites]
@[simp] theorem ingressStage_mem (s : State) (p : FabReq) (t : Target) (g : Nat) (ws : List Staged) : (ingressStage s p t g ws).mem = s.mem := by
  simp [ingressStage]
@[simp] theorem ingressLine_mem (s : State) (p : FabReq) (pa : Nat) (d : List Byte) (sig : Bool) : (ingressLine s p pa d sig).mem = s.mem := (rfl)

@[simp] theorem ingressPerform_memWf {s : State} (h : memWf s.mem = true) (p : FabReq) (pa : Nat) (t : Target) :
    memWf (ingressPerform s p pa t).mem = true := by
  unfold ingressPerform
  dsimp only
  split
  · split <;> simp [h]
  · split <;> simp [h]
  · simp [h]
  · simp [h]
  · split <;> simp [h]
  · simp [h]
  · split
    · exact h
    · split <;> simp [h]

theorem execFabricIngressRequest_memWf {s : State} (h : memWf s.mem = true) (pkt : FabReq) : NextWf (execFabricIngressRequest pkt s) := by
  simp only [execFabricIngressRequest, nextWf_next]
  split
  · exact h
  · split
    · simp [h]
    · split
      · simp [h]
      · split
        · simp [h]
        · split
          · exact h
          · simp [h]

@[simp] theorem dropTxn_mem (s : State) (tag : Nat) : (dropTxn s tag).mem = s.mem := (rfl)
@[simp] theorem goneTag_mem (s : State) (tag : Nat) : (goneTag s tag).mem = s.mem := (rfl)
@[simp] theorem markRidge_mem (s : State) (g peer code : Nat) : (markRidge s g peer code).mem = s.mem := (rfl)

@[simp] theorem failTxn_memWf {s : State} (h : memWf s.mem = true) (tag : Nat) (x : Txn) (code reason : Nat) (rinc : BitVec 16) (nack : Bool) :
    memWf (failTxn s tag x code reason rinc nack).mem = true := by
  have hd : memWf (dropTxn s tag).mem = true := by simpa using h
  unfold failTxn
  dsimp only
  generalize dropTxn s tag = t at hd
  split
  · exact foldl_memWf (fun s a h => finishWrite_memWf h ..) (by simpa using hd) _
  · split
    · exact hd
    · split
      · simpa using hd
      · simpa using hd
      · split
        · exact getD_memWf (m := t.mem) (fun u hu => queueFault_mem hu) hd (by simp)
        · simpa using hd
      · simpa using hd
      · simpa using hd
      · simpa using hd
      · exact faultAccs_memWf hd ..
      · exact faultAccs_memWf hd ..

@[simp] theorem remoteParked_mem (s : State) (tag : Nat) (a : Access) : (remoteParked s tag a).mem = s.mem := by unfold remoteParked; split <;> simp
@[simp] theorem remoteWake_mem (s : State) (tag : Nat) : (remoteWake s tag).mem = s.mem := by unfold remoteWake; split <;> simp

@[simp] theorem remoteData_mem (s : State) (tag : Nat) (a : Access) (bytes : List Byte) (exp : Option Nat) :
    (remoteData s tag a bytes exp).mem = s.mem := by
  unfold remoteData
  dsimp only
  split
  · simp
  · split
    · split <;> simp
    · split
      · simp
      · split <;> simp

@[simp] theorem remoteRecord_mem (s : State) (tag : Nat) (r : Record) (old : List Byte) : (remoteRecord s tag r old).mem = s.mem := by
  unfold remoteRecord
  refine foldl_rec_mem (fun x : State × List Byte => x.1) (fun x a => ?_) _ _
  split <;> simp

theorem execRemoteReply_memWf {s : State} (h : memWf s.mem = true) (rep : FabReply) : NextWf (execRemoteReply rep s) := by
  simp only [execRemoteReply, nextWf_next]
  split
  · exact h
  · split
    · simp [h]
    · split
      · exact h
      · split
        · simp [h]
        · split
          · simp [h]
          · simp [h]
          · simp [h]
          · split <;> simp [h]
          · split <;> simp [h]
          · exact h

theorem execRemoteTimeout_memWf {s : State} (h : memWf s.mem = true) (tag : Nat) : NextWf (execRemoteTimeout tag s) := by
  simp only [execRemoteTimeout, nextWf_next]
  split
  · exact h
  · simp [h]

theorem execPacketReplay_memWf {s : State} (h : memWf s.mem = true) (tag : Nat) : NextWf (execPacketReplay tag s) := by
  simp only [execPacketReplay, nextWf_next]
  split
  · exact h
  · simp [h]

theorem execIncarnationAnnouncement_memWf {s : State} (h : memWf s.mem = true) (pkg bay : Nat) (inc : BitVec 16) :
    NextWf (execIncarnationAnnouncement pkg bay inc s) := by
  simp [execIncarnationAnnouncement, h]

theorem execPlaneDead_memWf {s : State} (h : memWf s.mem = true) (k : Nat) : NextWf (execPlaneDead k s) := by simp [execPlaneDead, h]

theorem execPlaneReroute_memWf {s : State} (h : memWf s.mem = true) (k : Nat) : NextWf (execPlaneReroute k s) := by
  simp only [execPlaneReroute, nextWf_next]
  split
  · exact h
  · split <;> exact h

@[simp] theorem mcstSend_mem (s : State) (iss : Issue) (c k e : Nat) (gen : BitVec 8) (dest : Nat) (ctl status : Nat) (ms : List Nat)
    (line : List Byte) : (mcstSend s iss c k e gen dest ctl status ms line).mem = s.mem := by
  have hdrop : ∀ (as : List Access) (r : Option Nat),
      (if r.isSome then s else as.foldl (fun s a => dropCopies s c a.ea.toNat 0) s).mem = s.mem := by
    simp
  unfold mcstSend
  dsimp only
  split
  · rw [foldl_mem (fun s m => countRidge_mem s _ m _ 8)]
    split <;> exact hdrop _ _
  · split <;> exact hdrop _ _

@[simp] theorem mcstLoads_mem (s : State) (iss : Issue) (c : Nat) (src : W64) : (mcstLoads s iss c src).s.mem = s.mem := by
  refine foldl_rec_mem Issued.s (fun r i => ?_) { s := s } _
  split <;> simp

@[simp] theorem mcstRead_memWf {s : State} (h : memWf s.mem = true) (iss : Issue) (c k : Nat) (d : HReg) (dst src ctl stat : W64) :
    memWf (mcstRead s iss c k d dst src ctl stat).mem = true := by
  unfold mcstRead
  dsimp only
  split
  · exact h
  · split <;> simp [h]

@[simp] theorem mcstGo_mem (s : State) (iss : Issue) (c k : Nat) (d : HReg) (m : McstRun) (ms : BitVec 512) :
    (mcstGo s iss c k d m ms).mem = s.mem := by
  unfold mcstGo; split <;> simp

theorem execMcst_memWf {s : State} (h : memWf s.mem = true) (q : Guard) (d : HReg) (a b : Reg) : NextWf (execMcst q d a b s) := by
  refine cword_memWf h (fun iss c k => ?_) q
  dsimp only
  split
  · split
    · exact h
    · simp [h]
  · split
    · simp [h]
    · split
      · simp [h]
      · split
        · simp [h]
        · split
          · exact h
          · exact mcstRead_memWf h ..

@[simp] theorem resolveIf_mem (s : State) (c e : Nat) (gen : BitVec 8) (v : W64) : (resolveIf s c e gen v).mem = s.mem := by
  unfold resolveIf; split <;> simp

theorem statusStores_mem {s t : State} {m : Mcst} {x : Nat} {is : List Nat} (h : statusStores s m x is = some t) : t.mem = s.mem := by
  induction is generalizing s with
  | nil => cases h; rfl
  | cons i is ih =>
    rw [statusStores] at h
    dsimp only at h
    split at h
    · cases h; simp
    · split at h
      · cases h
      · rename_i hp
        have ht := placeAcc_mem hp
        exact (ih h).trans ht

@[simp] theorem mcstAcked_memWf {s : State} (h : memWf s.mem = true) (tag : Nat) (m : Mcst) (res : List (Nat × McstRes)) :
    memWf (mcstAcked s tag m res).mem = true := by
  have hdone : ∀ (t : State) (as : List Access), t.mem = s.mem →
      memWf (match as with
        | a :: _ => finishWrite t a (mcstRecord res) [] true
        | [] => t).mem = true := by
    intro t as ht
    split <;> simp [ht, h]
  unfold mcstAcked
  dsimp only
  split
  · rw [resolveIf_mem]
    exact hdone _ _ (by rw [goneTag_mem]; split <;> simp)
  · split
    · rename_i hs
      have ht := statusStores_mem hs
      rw [ht]
      exact hdone _ _ (by rw [goneTag_mem]; split <;> simp)
    · exact h

@[simp] theorem mcstFresh_mem (s : State) (own b : Nat) (res : List (Nat × McstRes)) : (mcstFresh s own b res).1.mem = s.mem := by simp [mcstFresh]

theorem execMcstAck_memWf {s : State} (h : memWf s.mem = true) (tag : Nat) (res : List (Nat × McstRes)) : NextWf (execMcstAck tag res s) := by
  simp only [execMcstAck, nextWf_next]
  split
  · exact h
  · split
    · split
      · simp [h]
      · split <;> simp [h]
    · simp [h]

theorem execMcstResolve_memWf {s : State} (h : memWf s.mem = true) (tag : Nat) : NextWf (execMcstResolve tag s) := by
  simp only [execMcstResolve, nextWf_next]
  split
  · exact h
  · simp [h]

theorem execMcstMemberTimeout_memWf {s : State} (h : memWf s.mem = true) (tag peer : Nat) : NextWf (execMcstMemberTimeout tag peer s) := by
  simp only [execMcstMemberTimeout, nextWf_next]
  split
  · exact h
  · split
    · exact h
    · split <;> simp [h]

@[simp] theorem setRidge_mem (s : State) (g : Nat) (r : Ridge) : (setRidge s g r).mem = s.mem := (rfl)
@[simp] theorem ridgeAbort_mem (s : State) (g : Nat) (r : Ridge) (code peer : Nat) : (ridgeAbort s g r code peer).mem = s.mem := (rfl)

@[simp] theorem ridgeTry_mem (s : State) (g : Nat) : (ridgeTry s g).mem = s.mem := by
  unfold ridgeTry
  dsimp only
  split
  · rfl
  · split
    · rfl
    · split <;> simp

theorem abortAll_mem {g code peer : Nat} {ops : List RidgeOp} {s t : State} (h : abortAll g code peer ops s = some t) : t.mem = s.mem := by
  induction ops generalizing s with
  | nil => cases h; rfl
  | cons op ops ih =>
    rw [abortAll] at h
    split at h
    · simpa using ih h
    · cases h

@[simp] theorem ridgeResolve_mem (s : State) (g : Nat) (r : Ridge) : (ridgeResolve s g r).mem = s.mem := by
  unfold ridgeResolve
  split
  · exact getD_mem (fun t h => by simpa using abortAll_mem h) rfl
  · split <;> simp

@[simp] theorem ridgeTake_mem (s : State) (g : Nat) (op : RidgeOp) : (ridgeTake s g op).mem = s.mem := by simp [ridgeTake]

theorem execRidge_memWf {s : State} (h : memWf s.mem = true) (q : Guard) (d : HReg) (a : Reg) : NextWf (execRidge q d a s) := by
  refine cword_memWf h (fun _ _ _ => ?_) ..
  split <;> simp [h]

theorem execRidgeVoteStart_memWf {s : State} (h : memWf s.mem = true) (group : Nat) : NextWf (execRidgeVoteStart group s) := by
  simp only [execRidgeVoteStart, nextWf_next]
  split
  · simp [h]
  · simp [h]
  · exact h

theorem execRstat_memWf {s : State} (h : memWf s.mem = true) (q : Guard) (d a : Reg) : NextWf (execRstat q d a s) :=
  cword_memWf h (fun _ _ _ => by simp [h]) ..

@[simp] theorem ridgeDecide_mem (s : State) (g : Nat) (r : Ridge) : (ridgeDecide s g r).mem = s.mem := by
  unfold ridgeDecide
  split
  · simp
  · split <;> simp

theorem fresh_memWf {s k : State} (hs : memWf s.mem = true) (hk : memWf k.mem = true) (w : Sender) : memWf (fresh s w k).mem = true := by
  unfold fresh
  split
  · exact hs
  · split
    · simpa using hs
    · exact hk

theorem execRidgeAnswer_memWf {s : State} (h : memWf s.mem = true) (group : Nat) (w : Sender) (ans : RidgeAns) :
    NextWf (execRidgeAnswer group w ans s) := by
  refine fresh_memWf h ?_ w
  simp [h]

theorem execRidgeAnswerTimeout_memWf {s : State} (h : memWf s.mem = true) (group peer : Nat) : NextWf (execRidgeAnswerTimeout group peer s) := by
  simp [execRidgeAnswerTimeout, h]
theorem execRidgeAbortResend_memWf {s : State} (h : memWf s.mem = true) (group : Nat) : NextWf (execRidgeAbortResend group s) := by
  simp [execRidgeAbortResend, h]

theorem execRidgeAck_memWf {s : State} (h : memWf s.mem = true) (group : Nat) (w : Sender) : NextWf (execRidgeAck group w s) := by
  refine fresh_memWf h ?_ w
  simp [h]

theorem execRidgePublishTimeout_memWf {s : State} (h : memWf s.mem = true) (group : Nat) : NextWf (execRidgePublishTimeout group s) := by
  simp only [execRidgePublishTimeout, nextWf_next]
  split
  · exact h
  · split
    · exact h
    · split <;> simp [h]

theorem execRidgeCount_memWf {s : State} (h : memWf s.mem = true) (w : Sender) (group n : Nat) : NextWf (execRidgeCount w group n s) := by
  refine fresh_memWf h ?_ w
  simp [h]

theorem execRidgeStageTimeout_memWf {s : State} (h : memWf s.mem = true) (pkg group : Nat) : NextWf (execRidgeStageTimeout pkg group s) := by
  simp only [execRidgeStageTimeout, nextWf_next]
  split
  · exact h
  · simp [h]

theorem execRidgePublishMsg_memWf {s : State} (h : memWf s.mem = true) (w : Sender) (group tp : Nat) : NextWf (execRidgePublishMsg w group tp s) := by
  refine fresh_memWf h ?_ w
  dsimp only
  split
  · exact h
  · split <;> simp [h]

theorem execRidgeAbortMsg_memWf {s : State} (h : memWf s.mem = true) (w : Sender) (group : Nat) : NextWf (execRidgeAbortMsg w group s) := by
  refine fresh_memWf h ?_ w
  simp [h]

theorem execHostHdmAccess_memWf {s : State} (h : memWf s.mem = true) (bay hpa : Nat) (op : HdmOp) : NextWf (execHostHdmAccess bay hpa op s) := by
  simp only [execHostHdmAccess, nextWf_next]
  split
  · split
    · exact h
    · split
      · exact h
      · simp [h]
  · split
    · exact h
    · split
      · exact h
      · split
        · exact h
        · split <;> simp [h]

@[simp] theorem portFail_mem (code : Nat) (s : State) (a : Access) : (portFail code s a).mem = s.mem := by unfold portFail; split <;> simp
@[simp] theorem cmdAns_mem (s : State) (cmd : W512) (status reason : Nat) : (cmdAns s cmd status reason).mem = s.mem := (rfl)
@[simp] theorem reportFail_mem (s : State) : (reportFail s).mem = s.mem := by unfold reportFail; split <;> rfl

@[simp] theorem linkFail_mem (s : State) (m : Bool) (o : Option Access) : (linkFail s m o).mem = s.mem := by
  unfold linkFail
  dsimp only
  split <;> split <;> simp

theorem execCxlLinkFailure_memWf {s : State} (h : memWf s.mem = true) (port : Port) : NextWf (execCxlLinkFailure port s) := by
  simp [execCxlLinkFailure, h]

theorem execCxlRequestTimeout_memWf {s : State} (h : memWf s.mem = true) (acc : Nat) : NextWf (execCxlRequestTimeout acc s) := by
  simp only [execCxlRequestTimeout, nextWf_next]
  split
  · exact h
  · simp [h]

theorem execCxlLinkUp_memWf {s : State} (h : memWf s.mem = true) (port : Port) : NextWf (execCxlLinkUp port s) := by
  simp only [execCxlLinkUp, nextWf_next]
  split <;> exact h

theorem execPcieLinkDown_memWf {s : State} (h : memWf s.mem = true) : NextWf (execPcieLinkDown s) := h
@[simp] theorem pageFailed_mem (s : State) (b rid status : Nat) (r : PageReq) : (pageFailed s b rid status r).mem = s.mem := by simp [pageFailed]

theorem execPageRequestAnswer_memWf {s : State} (h : memWf s.mem = true) (bay : Nat) (data : W512) : NextWf (execPageRequestAnswer bay data s) := by
  simp only [execPageRequestAnswer, nextWf_next]
  split <;> simp [h]

theorem execPageRequestTimeout_memWf {s : State} (h : memWf s.mem = true) (bay rid : Nat) : NextWf (execPageRequestTimeout bay rid s) := by
  simp only [execPageRequestTimeout, nextWf_next]
  split
  · exact h
  · simp [h]

/-! ## Uniform -/

theorem execUaddi_memWf {s : State} (h : memWf s.mem = true) (q : Guard) (d a : Reg) (i : BitVec 10) : NextWf (execUaddi q d a i s) :=
  uword_memWf h (fun _ => by simp [h]) ..
theorem execUandi_memWf {s : State} (h : memWf s.mem = true) (q : Guard) (d a : Reg) (i : BitVec 10) : NextWf (execUandi q d a i s) :=
  uword_memWf h (fun _ => by simp [h]) ..
theorem execUori_memWf {s : State} (h : memWf s.mem = true) (q : Guard) (d a : Reg) (i : BitVec 10) : NextWf (execUori q d a i s) :=
  uword_memWf h (fun _ => by simp [h]) ..
theorem execUxori_memWf {s : State} (h : memWf s.mem = true) (q : Guard) (d a : Reg) (i : BitVec 10) : NextWf (execUxori q d a i s) :=
  uword_memWf h (fun _ => by simp [h]) ..
theorem execUmov16_memWf {s : State} (h : memWf s.mem = true) (q : Guard) (d : Reg) (i : BitVec 16) : NextWf (execUmov16 q d i s) :=
  uword_memWf h (fun _ => by simp [h]) ..
theorem execReadlane_memWf {s : State} (h : memWf s.mem = true) (q : Guard) (d a b : Reg) : NextWf (execReadlane q d a b s) :=
  cword_memWf h (fun _ _ _ => by simp [h]) ..
theorem execBcast_memWf {s : State} (h : memWf s.mem = true) (q : Guard) (d a : Reg) : NextWf (execBcast q d a s) :=
  cword_memWf h (fun _ _ _ => by simp [h]) ..

/-! ## Matrix -/

theorem matWord_memWf {s : State} (h : memWf s.mem = true) {k : Issue → Nat → Nat → Block → Seq → State}
    (hk : ∀ iss c b bl q, memWf (k iss c b bl q).mem = true) : NextWf (matWord s k) := by
  refine mword_memWf h fun iss c b => ?_
  split
  · exact h
  · split
    · exact h
    · exact hk ..

@[simp] theorem matBad_memWf {s : State} (h : memWf s.mem = true) (iss : Issue) (reason : Nat) : memWf (matBad s iss reason).mem = true := by
  simp [matBad, h]
@[simp] theorem setSeq_mem (s : State) (c b : Nat) (q : Seq) : (setSeq s c b q).mem = s.mem := by simp [setSeq]
theorem execMma_memWf {s : State} (h : memWf s.mem = true) (d a b : Reg) : NextWf (execMma d a b s) := matWord_memWf h (fun _ _ _ _ _ => by simp [h])
theorem execMzero_memWf {s : State} (h : memWf s.mem = true) (d : Reg) : NextWf (execMzero d s) := matWord_memWf h (fun _ _ _ _ _ => by simp [h])
theorem execMscl_memWf {s : State} (h : memWf s.mem = true) (d a : Reg) (tb ta : BitVec 3) : NextWf (execMscl d a tb ta s) :=
  matWord_memWf h (fun _ _ _ _ _ => by simp [h])
theorem execMloop_memWf {s : State} (h : memWf s.mem = true) (n : BitVec 2) (a b : Reg) : NextWf (execMloop n a b s) :=
  matWord_memWf h (fun _ _ _ _ _ => by simp [h])
theorem execMjmp_memWf {s : State} (h : memWf s.mem = true) (o : BitVec 22) : NextWf (execMjmp o s) := matWord_memWf h (fun _ _ _ _ _ => by simp [h])
@[simp] theorem matBar_memWf {s : State} (h : memWf s.mem = true) (iss : Issue) (n : Nat) : memWf (matBar s iss n).mem = true := by simp [matBar, h]
theorem execMbarW_memWf {s : State} (h : memWf s.mem = true) (k : BitVec 3) (n : BitVec 10) : NextWf (execMbarW k n s) :=
  matWord_memWf h (fun _ _ _ _ _ => by simp [h])
theorem execMbarA_memWf {s : State} (h : memWf s.mem = true) (n : BitVec 10) : NextWf (execMbarA n s) :=
  matWord_memWf h (fun _ _ _ _ _ => by simp [h])
theorem execMbarADrain_memWf {s : State} (h : memWf s.mem = true) (n : BitVec 10) : NextWf (execMbarADrain n s) :=
  matWord_memWf h (fun _ _ _ _ _ => by simp [h])
theorem execMend_memWf {s : State} (h : memWf s.mem = true) : NextWf (execMend s) := matWord_memWf h (fun _ _ _ _ _ => by simp [h])

theorem execMmaUpdate_memWf {s : State} (h : memWf s.mem = true) (core blk op row col : Nat) : NextWf (execMmaUpdate core blk op row col s) := by
  simp only [execMmaUpdate, nextWf_next]
  split
  · exact h
  · split
    · exact h
    · split
      · exact h
      · simp [h]

theorem execMbarWRelease_memWf {s : State} (h : memWf s.mem = true) (core blk : Nat) : NextWf (execMbarWRelease core blk s) := by
  simp only [execMbarWRelease, nextWf_next]
  split
  · exact h
  · split
    · exact h
    · split
      · exact h
      · simp [h]

theorem execMbarAArrival_memWf {s : State} (h : memWf s.mem = true) (core blk : Nat) : NextWf (execMbarAArrival core blk s) := by
  simp only [execMbarAArrival, nextWf_next]
  split
  · exact h
  · split
    · exact h
    · split <;> simp [h]

theorem execMendStep_memWf {s : State} (h : memWf s.mem = true) (core blk : Nat) : NextWf (execMendStep core blk s) := by
  simp only [execMendStep, nextWf_next]
  split
  · exact h
  · split
    · exact h
    · simp [h]

theorem accWord_memWf {s : State} (h : memWf s.mem = true) {k : Issue → Nat → Nat → Course → W64 → State}
    (hk : ∀ iss c sl co x, memWf (k iss c sl co x).mem = true) (q : Guard) (a : Reg) : NextWf (accWord q a s k) := by
  refine cword_memWf h (fun iss c sl => ?_) q
  dsimp only
  split
  · simp [h]
  · split
    · simp [h]
    · exact hk ..

@[simp] theorem accIssue_mem (s : State) (iss : Issue) (c k : Nat) (f : Nat → List AccMove) : (accIssue s iss c k f).mem = s.mem := by simp [accIssue]
theorem execAccrd_memWf {s : State} (h : memWf s.mem = true) (q : Guard) (d a : Reg) : NextWf (execAccrd q d a s) :=
  accWord_memWf h (fun _ _ _ _ _ => by simp [h]) ..
theorem execAccwr_memWf {s : State} (h : memWf s.mem = true) (q : Guard) (d a : Reg) : NextWf (execAccwr q d a s) :=
  accWord_memWf h (fun _ _ _ _ _ => by simp [h]) ..
theorem execAccz_memWf {s : State} (h : memWf s.mem = true) (q : Guard) (a : Reg) : NextWf (execAccz q a s) :=
  accWord_memWf h (fun _ _ _ _ _ => by simp [h]) ..
@[simp] theorem accMove_mem (s : State) (c k : Nat) (co : Course) (o : AccOp) (m : AccMove) : (accMove s c k co o m).mem = s.mem := by
  unfold accMove; split <;> simp

@[simp] theorem accStep_mem (s : State) (c k : Nat) : (accStep s c k).mem = s.mem := by
  unfold accStep
  split
  · rfl
  · split
    · rfl
    · split <;> simp

/-! ## Platform -/

theorem execColumnTempRefresh_memWf {s : State} (h : memWf s.mem = true) (readings : List Sensors) : NextWf (execColumnTempRefresh readings s) := by
  refine ite_memWf h (ite_memWf (foldl_memWf (fun t b ht => containNow_memWf ht b) ?_ _) h)
  exact h

theorem execTripRecovery_memWf {s : State} (h : memWf s.mem = true) : NextWf (execTripRecovery s) := by simp [execTripRecovery, h]
theorem execPowerInterval_memWf {s : State} (h : memWf s.mem = true) (mw : Nat) : NextWf (execPowerInterval mw s) := by simp [execPowerInterval, h]

theorem execOperatingPointChange_memWf {s : State} (h : memWf s.mem = true) (island mv mhz : Nat) :
    NextWf (execOperatingPointChange island mv mhz s) := by
  simp [execOperatingPointChange, h]

theorem execOperatingPointSettle_memWf {s : State} (h : memWf s.mem = true) (island : Nat) : NextWf (execOperatingPointSettle island s) := by
  simp only [execOperatingPointSettle, nextWf_next]
  split <;> exact h

@[simp] theorem discardWrite_mem (s : State) (b : Nat) : (discardWrite s b).mem = s.mem := (rfl)
theorem execHostMailboxWrite_memWf {s : State} (h : memWf s.mem = true) (bay : Nat) (w : HostWrite) : NextWf (execHostMailboxWrite bay w s) := by
  simp [execHostMailboxWrite, h]
@[simp] theorem writeCmd_mem (s : State) (cmd : W512) : (writeCmd s cmd).mem = s.mem := by simp [writeCmd]
theorem execRegisterWriteOther_memWf {s : State} (h : memWf s.mem = true) (w : HostWrite) : NextWf (execRegisterWriteOther w s) := by
  simp [execRegisterWriteOther, h]

@[simp] theorem formBay_memWf {s : State} (h : memWf s.mem = true) (b : Nat) : memWf (formBay s b).mem = true := by
  unfold formBay
  dsimp only
  split
  · simpa using h
  · rename_i i _
    split
    · simpa using h
    · have hs : memWf (i.runs.foldl (fun s r => svcStore s r.1 r.2) { s with loaded := mset s.loaded b i }).mem = true :=
        foldl_memWf (fun s r h => svcStore_memWf h r.1 r.2) (by exact h) _
      simpa using hs

theorem execPerstRelease_memWf {s : State} (h : memWf s.mem = true) : NextWf (execPerstRelease s) := by simp [execPerstRelease, h]
theorem execRootStageComplete_memWf {s : State} (h : memWf s.mem = true) (t0 : Nat) : NextWf (execRootStageComplete t0 s) := by
  simp [execRootStageComplete, h]

theorem execServiceStageComplete_memWf {s : State} (h : memWf s.mem = true) : NextWf (execServiceStageComplete s) := by
  simp only [execServiceStageComplete, nextWf_next]
  split
  · exact h
  · refine ite_memWf h (ite_memWf (foldl_memWf (fun t b ht => formBay_memWf ht b) ?_ _) h)
    exact h

theorem execServiceFirmwareRestart_memWf {s : State} (h : memWf s.mem = true) : NextWf (execServiceFirmwareRestart s) := h

/-- PERST# keeps only the cells of host memory. -/
theorem execPerstAssert_memWf {s : State} (h : memWf s.mem = true) : NextWf (execPerstAssert s) := memWf_filter _ h

theorem command_memWf {s k : State} (hs : memWf s.mem = true) (hk : memWf k.mem = true) (cmd : W512) (op : Nat) (zero : List (Nat × Nat)) :
    memWf (command s cmd op zero k).mem = true := by
  unfold command
  split
  · exact hs
  · split
    · simpa using hs
    · exact hk

@[simp] theorem unformBay_memWf {s : State} (h : memWf s.mem = true) (b : Nat) : memWf (unformBay s b).mem = true := by
  have hv : memWf (vacateFilling ((s.coresOf b).foldl (fun s c => stopCore s b c) s) b).mem = true := vacateFilling_memWf (by simpa using h) b
  simpa [unformBay] using hv

theorem execBaySet_memWf {s : State} (h : memWf s.mem = true) (cmd : W512) : NextWf (execBaySet cmd s) := by
  refine command_memWf h ?_ ..
  dsimp only
  split
  · simp [h]
  · split
    · exact h
    · rw [cmdAns_mem]
      refine foldl_memWf (fun t b ht => formBay_memWf ht b) ?_ _
      exact foldl_memWf (fun t b ht => unformBay_memWf ht b) h (changedBays s cmd)

theorem execAttest_memWf {s : State} (h : memWf s.mem = true) (cmd : W512) : NextWf (execAttest cmd s) := by
  refine command_memWf h ?_ ..
  dsimp only
  split
  · split <;> simp [h]
  · split
    · simp [h]
    · split
      · simp [h]
      · split <;> simp [h]

theorem execBootSet_memWf {s : State} (h : memWf s.mem = true) (cmd : W512) (img : BootImage) : NextWf (execBootSet cmd img s) := by
  refine command_memWf h ?_ ..
  dsimp only
  split
  · simp [h]
  · split
    · simp [h]
    · split
      · simp [h]
      · split
        · simp [h]
        · split
          · exact h
          · split <;> simp [h]

@[simp] theorem answer_mem (s : State) (b : Nat) (op : String) (status val : Nat) : (answer s b op status val).mem = s.mem := (rfl)

theorem service_memWf {s k : State} (hs : memWf s.mem = true) (hk : memWf k.mem = true) (b : Nat) (op : String) (ok : Bool) (val : Nat) :
    memWf (service s b op ok val k).mem = true := by
  unfold service
  split
  · simpa using hk
  · simpa using hs

@[simp] theorem undefWindow_mem (w : Nat) (s : State) (g : Nat) : (undefWindow w s g).mem = s.mem := (rfl)

theorem execSoffitSplit_memWf {s : State} (h : memWf s.mem = true) (bay w : Nat) : NextWf (execSoffitSplit bay w s) := by
  refine service_memWf h ?_ ..
  dsimp only
  split
  · exact h
  · split <;> simp [h]

/-- Zeroing a range drops its cells. -/
@[simp] theorem zeroRange_memWf {s : State} (h : memWf s.mem = true) (lo hi : Nat) : memWf (zeroRange s lo hi).mem = true := memWf_filter _ h

theorem execObjTables_memWf {s : State} (h : memWf s.mem = true) (bay : Nat) : NextWf (execObjTables bay s) := by
  simp only [execObjTables, nextWf_next]
  split
  · exact service_memWf h h ..
  · refine service_memWf h ?_ ..
    simp [h]

theorem execLayoutBase_memWf {s : State} (h : memWf s.mem = true) (bay : Nat) (base : W64) (slots : Nat) : NextWf (execLayoutBase bay base slots s) :=
  service_memWf h (by exact h) ..
theorem execExportSet_memWf {s : State} (h : memWf s.mem = true) (bay idx : Nat) (entry : BitVec 256) : NextWf (execExportSet bay idx entry s) :=
  service_memWf h (by exact h) ..
theorem execMcgSet_memWf {s : State} (h : memWf s.mem = true) (bay group : Nat) (members : BitVec 512) : NextWf (execMcgSet bay group members s) :=
  service_memWf h (by exact h) ..
theorem execEaveSet_memWf {s : State} (h : memWf s.mem = true) (bay die e : Nat) : NextWf (execEaveSet bay die e s) := service_memWf h (by exact h) ..

theorem execWalkerSet_memWf {s : State} (h : memWf s.mem = true) (bay : Nat) (pc root : W64) : NextWf (execWalkerSet bay pc root s) := by
  refine service_memWf h ?_ ..
  simp [h]

@[simp] theorem stopFill_memWf {s : State} (h : memWf s.mem = true) (b f : Nat) : memWf (stopFill s b f).mem = true := by
  refine foldl_memWf (fun s c h => foldl_memWf (fun s p h => ?_) h _) h _
  split
  · exact h
  · split
    · exact h
    · split <;> simp [h]

@[simp] theorem revokeStep_memWf {s : State} (h : memWf s.mem = true) (b : Nat) (name : W128) : memWf (revokeStep s b name).mem = true := by
  unfold revokeStep
  dsimp only
  rw [endReqs_mem, failParked_mem]
  split
  · split
    · rw [contain_mem]
      split <;> simp [h]
    · refine setFrameState_memWf ?_ ..
      split <;> simp [h]
  · simpa using h

theorem execObjRevoke_memWf {s : State} (h : memWf s.mem = true) (bay : Nat) (name : W128) (op : Nat) : NextWf (execObjRevoke bay name op s) := by
  simp only [execObjRevoke, nextWf_next]
  split
  · refine service_memWf h ?_ ..
    split <;> simp [h]
  · exact service_memWf h (by exact h) ..

@[simp] theorem pageSend_memWf {s : State} (h : memWf s.mem = true) (b rid : Nat) (r : PageReq) : memWf (pageSend s b rid r).mem = true := by
  simp [pageSend, h]

theorem execPageRequest_memWf {s : State} (h : memWf s.mem = true) (bay : Nat) (vaddr paddr : W64) : NextWf (execPageRequest bay vaddr paddr s) := by
  simp only [execPageRequest, nextWf_next]
  split
  · exact service_memWf h h ..
  · split
    · exact h
    · refine service_memWf h ?_ ..
      simp [h]

theorem execPageRelease_memWf {s : State} (h : memWf s.mem = true) (bay : Nat) (paddr : W64) : NextWf (execPageRelease bay paddr s) := by
  simp only [execPageRelease, nextWf_next]
  split
  · exact service_memWf h h ..
  · split
    · split <;> simp [h]
    · exact service_memWf (by simpa using h) (by simpa using h) ..

/-! ## Sched -/

@[simp] theorem advance_mem (s : State) (dt : Nat) : (advance s dt).mem = s.mem := by simp [advance]

@[simp] theorem nextAction_mem (s : State) : (nextAction s).1.mem = s.mem := by
  unfold nextAction
  dsimp only
  split <;> simp

@[simp] theorem takeAction_mem (s : State) : (takeAction s).1.mem = s.mem := by simp [takeAction]

@[simp] theorem softErr_mem (s : State) (u : BadUnit) : (softErr s u).mem = s.mem := by
  unfold softErr
  split
  · dsimp only
    split <;> simp
  · simp
  · simp

@[simp] theorem svcIssue_mem (s : State) (n : Nat) (op : SvcOp) : (svcIssue s n op).mem = s.mem := by
  unfold svcIssue
  dsimp only
  split
  · rfl
  · split
    · split <;> rfl
    · split <;> simp

theorem actOn_memWf {s : State} (h : memWf s.mem = true) (a : Action) : FetchedWf (actOn s a) := by
  cases a with
  | slice c k sl => exact fetchSlice_memWf h c k sl
  | batten c p => exact fetchJob_memWf h c p
  | matrix c b => exact fetchSeq_memWf h c b
  | event i => exact fetchedWf_ite (x := .go s i) (y := .stay s) h h
  | drift u d => simpa [actOn] using h
  | softError u => simpa [actOn] using h
  | service n op => simpa [actOn] using h
  | stage c b => exact stageStep_memWf h c b
  | issv c k pc => exact issvResume_memWf h c k pc
  | eret c k => exact eretCheck_memWf h c k
  | accum c k => simpa [actOn] using h
  | contain b c => exact containStep_memWf h b c
  | portTimeout p ns =>
    cases p <;> simpa [actOn] using h

theorem act_memWf {s : State} (h : memWf s.mem = true) (a : Action) : FetchedWf (act s a) :=
  fetchedWf_ite h (actOn_memWf h a)

/-! ## Dispatch and Step -/

/-- Every instruction and event keeps the form: the words of one shape by the rule of that shape, the others by their own. -/
theorem exec_memWf {s : State} (h : memWf s.mem = true) (i : Instr) : NextWf (exec i s) := by
  cases i with
  | add | sub | and | or | xor | andn | shl | shr | sar | min | max | minui | maxui | mul | mulhi | mulhiu | abs | neg | popc | clz | brev
  | mov | bfx | icmpEq | icmpNe | icmpLt | icmpLe | icmpGt | icmpGe | icmpLtui | icmpLeui | icmpGtui | icmpGeui | pand | por | pxor | pandn
  | pnot | p2v | v2p | shli | shri | sari | roli | mov16Hi | add64 | sub64 | padd | shl64 | shr64 | sar64 | mulw | mulwui | mov64 | sel
  | fabs | fneg | fcpys | fcmpEq | fcmpNe | fcmpLt | fcmpLe | fcmpGt | fcmpGe | fcmpUnord | fcmpOrd | cvtF32F16 | cvtF32Bf16 | cvtF16F32Sr
  | cvtBf16F32Sr | scxE4m3 | scxE5m2 | scxHs4 | fenceAcq | fenceRel | fenceAcqrel | nop => exact lane1_memWf h ..
  | mad | bfi | addi | andi | ori | xori | mov16 | fadd | fsub | fmul | ffma | fmin | fmax | addF16x2 | subF16x2 | mulF16x2 | minF16x2
  | maxF16x2 | addBf16x2 | subBf16x2 | mulBf16x2 | minBf16x2 | maxBf16x2 | fmaF16x2 | fmaBf16x2 | rcp | rsq | sqrt | exp2 | log2 | sin
  | cos | tanh | cvtF16F32 | cvtBf16F32 | cvtS32F32 | cvtUi32F32 | cvtF32S32 | cvtF32Ui32 | cvtFxF32 | cvtF32Fx | cvtF32S64 | cvtF32Ui64
  | pkE4m3 | pkE5m2 | pkHs4 | upkE4m3 | upkE5m2 | upkHs4 | pkE4m3Sr | pkE5m2Sr => exact lanep_memWf h ..
  | uadd | usub | uand | uor | uxor | ushl | ushr | usar | umin | umax | uminui | umaxui | umul | umulhi | umulhiu | ucmpEq | ucmpNe
  | ucmpLt | ucmpLe | ucmpGt | ucmpGe | ucmpLtui | ucmpLeui | ucmpGtui | ucmpGeui | qand | qor | qxor | qandn | qnot | ushli | ushri
  | usari | uroli | umovk | umov => exact uni1_memWf h ..
  | ld | st | rst | ldp | stp | atomAdd | atomMin | atomMax | atomMinui | atomMaxui | atomAnd | atomOr | atomXor | atomXchg | atomCas
  | atomFaddF32 | atomAddBf16x2 | atomAddF16x2 | atomFxadd | redAdd | redMin | redMax | redMinui | redMaxui | redAnd | redOr | redXor
  | redFaddF32 | redAddBf16x2 | redAddF16x2 | redFxadd => exact memWord_memWf h ..
  | pick | rotu | rotd | bfly | lany | lall | lmask | combAdd | combMin | combMax | combMinui | combMaxui | combAnd | combOr | combXor =>
    exact exch_memWf h ..
  | uld | ust | uatomAdd | uatomMin | uatomMax | uatomMinui | uatomMaxui | uatomAnd | uatomOr | uatomXor | uatomXchg | uatomCas
  | uatomFaddF32 | uatomFxadd => exact uniWord_memWf h ..
  | bra | brx | call | callx | ret => exact jumpWord_memWf h ..
  | barA | barW | barAw => exact barWord1_memWf h ..
  | ldt => exact execLdt_memWf h ..
  | stt => exact execStt_memWf h ..
  | pfar g d b ad => exact execPfar_memWf h g d b ad
  | wait => exact execWait_memWf h ..
  | waitReread => exact execWaitReread_memWf h ..
  | exit => exact execExit_memWf h ..
  | issv => exact execIssv_memWf h ..
  | uaddi => exact execUaddi_memWf h ..
  | uandi => exact execUandi_memWf h ..
  | uori => exact execUori_memWf h ..
  | uxori => exact execUxori_memWf h ..
  | umov16 => exact execUmov16_memWf h ..
  | readlane => exact execReadlane_memWf h ..
  | bcast => exact execBcast_memWf h ..
  | ubra => exact execUbra_memWf h ..
  | ucall => exact execUcall_memWf h ..
  | ucallx => exact execUcallx_memWf h ..
  | uret => exact execUret_memWf h ..
  | uloop => exact execUloop_memWf h ..
  | spawn => exact execSpawn_memWf h ..
  | sfence => exact execSfence_memWf h ..
  | bjob => exact execBjob_memWf h ..
  | fwait => exact execFwait_memWf h ..
  | ftest => exact execFtest_memWf h ..
  | fcancel => exact execFcancel_memWf h ..
  | fmovHs => exact execFmovHs_memWf h ..
  | fmovSh => exact execFmovSh_memWf h ..
  | talloc => exact execTalloc_memWf h ..
  | tfree => exact execTfree_memWf h ..
  | tstat => exact execTstat_memWf h ..
  | barinit => exact execBarinit_memWf h ..
  | barsave => exact execBarsave_memWf h ..
  | barload => exact execBarload_memWf h ..
  | mcst => exact execMcst_memWf h ..
  | ridge => exact execRidge_memWf h ..
  | rstat => exact execRstat_memWf h ..
  | mbxrd => exact execMbxrd_memWf h ..
  | mbxwr => exact execMbxwr_memWf h ..
  | movsFromSys => exact execMovsFromSys_memWf h ..
  | movsToSys => exact execMovsToSys_memWf h ..
  | therm => exact execTherm_memWf h ..
  | clock => exact execClock_memWf h ..
  | accrd => exact execAccrd_memWf h ..
  | accwr => exact execAccwr_memWf h ..
  | accz => exact execAccz_memWf h ..
  | trap => exact execTrap_memWf h ..
  | eret => exact execEret_memWf h ..
  | eretAns => exact execEretAns_memWf h ..
  | tlbw => exact execTlbw_memWf h ..
  | tlbi => exact execTlbi_memWf h ..
  | mqpop => exact execMqpop_memWf h ..
  | objmap => exact execObjmap_memWf h ..
  | objunmap => exact execObjunmap_memWf h ..
  | objstat => exact execObjstat_memWf h ..
  | harvest => exact execHarvest_memWf h ..
  | preempt => exact execPreempt_memWf h ..
  | resume => exact execResume_memWf h ..
  | halt => exact execHalt_memWf h ..
  | mma => exact execMma_memWf h ..
  | mzero => exact execMzero_memWf h ..
  | mscl => exact execMscl_memWf h ..
  | mloop => exact execMloop_memWf h ..
  | mjmp => exact execMjmp_memWf h ..
  | mbarW => exact execMbarW_memWf h ..
  | mbarA => exact execMbarA_memWf h ..
  | mbarADrain => exact execMbarADrain_memWf h ..
  | mend => exact execMend_memWf h ..
  | bcopy => exact execBcopy_memWf h ..
  | bfetch => exact execBfetch_memWf h ..
  | btld => exact execBtld_memWf h ..
  | btst => exact execBtst_memWf h ..
  | bgath => exact execBgath_memWf h ..
  | bscat => exact execBscat_memWf h ..
  | bstep => exact execBstep_memWf h ..
  | block => exact execBlock_memWf h ..
  | bunlk => exact execBunlk_memWf h ..
  | btset => exact execBtset_memWf h ..
  | baccd => exact execBaccd_memWf h ..
  | brem => exact execBrem_memWf h ..
  | bdone => exact execBdone_memWf h ..
  | surplusPhaseComplete => exact execSurplusPhaseComplete_memWf h ..
  | courseDemotion => exact execCourseDemotion_memWf h ..
  | coursePromotion => exact execCoursePromotion_memWf h ..
  | activeSetTimesliceExpiry => exact execActiveSetTimesliceExpiry_memWf h ..
  | jobParse => exact execJobParse_memWf h ..
  | placementStep => exact execPlacementStep_memWf h ..
  | placementStarvationTimeout => exact execPlacementStarvationTimeout_memWf h ..
  | blockStart => exact execBlockStart_memWf h ..
  | fenceRecordRead => exact execFenceRecordRead_memWf h ..
  | fenceCounterPoll => exact execFenceCounterPoll_memWf h ..
  | blockRetirement => exact execBlockRetirement_memWf h ..
  | doneAddRecord => exact execDoneAddRecord_memWf h ..
  | noticeQueueDrain => exact execNoticeQueueDrain_memWf h ..
  | coreMessageAppend => exact execCoreMessageAppend_memWf h ..
  | hostMailboxWrite => exact execHostMailboxWrite_memWf h ..
  | registerWriteOther => exact execRegisterWriteOther_memWf h ..
  | hbmEarlyRefresh => exact execHbmEarlyRefresh_memWf h ..
  | copyHit => exact execCopyHit_memWf h ..
  | homeRead => exact execHomeRead_memWf h ..
  | loadReply => exact execLoadReply_memWf h ..
  | homeWrite => exact execHomeWrite_memWf h ..
  | completionRecord => exact execCompletionRecord_memWf h ..
  | fencePass => exact execFencePass_memWf h ..
  | copyExpiry => exact execCopyExpiry_memWf h ..
  | l1CopySweep => exact execL1CopySweep_memWf h ..
  | publication => exact execPublication_memWf h ..
  | cxlWriteCompletion => exact execCxlWriteCompletion_memWf h ..
  | cxlSnoop => exact execCxlSnoop_memWf h ..
  | clockSkewCheck => exact execClockSkewCheck_memWf h ..
  | columnTempRefresh => exact execColumnTempRefresh_memWf h ..
  | tripRecovery => exact execTripRecovery_memWf h ..
  | powerInterval => exact execPowerInterval_memWf h ..
  | operatingPointChange => exact execOperatingPointChange_memWf h ..
  | operatingPointSettle => exact execOperatingPointSettle_memWf h ..
  | tlbiComplete => exact execTlbiComplete_memWf h ..
  | sideLogTimeout => exact execSideLogTimeout_memWf h ..
  | objectRequestResend => exact execObjectRequestResend_memWf h ..
  | objectParkRetry => exact execObjectParkRetry_memWf h ..
  | objunmapDrainReturn => exact execObjunmapDrainReturn_memWf h ..
  | objunmapVacateStep => exact execObjunmapVacateStep_memWf h ..
  | battenJobStart => exact execBattenJobStart_memWf h ..
  | transferPerformed => exact execTransferPerformed_memWf h ..
  | tileFillComplete => exact execTileFillComplete_memWf h ..
  | tileDrainComplete => exact execTileDrainComplete_memWf h ..
  | tileIntegrityReplay => exact execTileIntegrityReplay_memWf h ..
  | mmaUpdate => exact execMmaUpdate_memWf h ..
  | mbarWRelease => exact execMbarWRelease_memWf h ..
  | mbarAArrival => exact execMbarAArrival_memWf h ..
  | mendStep => exact execMendStep_memWf h ..
  | barsaveHeldAdds => exact execBarsaveHeldAdds_memWf h ..
  | sequencerStop => exact execSequencerStop_memWf h ..
  | yieldTrapEntry => exact execYieldTrapEntry_memWf h ..
  | swapOut => exact execSwapOut_memWf h ..
  | faultRecordDelivery => exact execFaultRecordDelivery_memWf h ..
  | supervisorStallTimeout => exact execSupervisorStallTimeout_memWf h ..
  | fabricIngressRequest => exact execFabricIngressRequest_memWf h ..
  | remoteReply => exact execRemoteReply_memWf h ..
  | remoteTimeout => exact execRemoteTimeout_memWf h ..
  | packetReplay => exact execPacketReplay_memWf h ..
  | incarnationAnnouncement => exact execIncarnationAnnouncement_memWf h ..
  | planeDead => exact execPlaneDead_memWf h ..
  | planeReroute => exact execPlaneReroute_memWf h ..
  | mcstAck => exact execMcstAck_memWf h ..
  | mcstResolve => exact execMcstResolve_memWf h ..
  | mcstMemberTimeout => exact execMcstMemberTimeout_memWf h ..
  | ridgeVoteStart => exact execRidgeVoteStart_memWf h ..
  | ridgeCount => exact execRidgeCount_memWf h ..
  | ridgeStageTimeout => exact execRidgeStageTimeout_memWf h ..
  | ridgeAnswer => exact execRidgeAnswer_memWf h ..
  | ridgeAnswerTimeout => exact execRidgeAnswerTimeout_memWf h ..
  | ridgePublishMsg => exact execRidgePublishMsg_memWf h ..
  | ridgeAbortMsg => exact execRidgeAbortMsg_memWf h ..
  | ridgeAbortResend => exact execRidgeAbortResend_memWf h ..
  | ridgeAck => exact execRidgeAck_memWf h ..
  | ridgePublishTimeout => exact execRidgePublishTimeout_memWf h ..
  | hostHdmAccess => exact execHostHdmAccess_memWf h ..
  | cxlLinkFailure => exact execCxlLinkFailure_memWf h ..
  | cxlRequestTimeout => exact execCxlRequestTimeout_memWf h ..
  | cxlLinkUp => exact execCxlLinkUp_memWf h ..
  | pcieLinkDown => exact execPcieLinkDown_memWf h ..
  | pageRequestAnswer => exact execPageRequestAnswer_memWf h ..
  | pageRequestTimeout => exact execPageRequestTimeout_memWf h ..
  | soffitSplit => exact execSoffitSplit_memWf h ..
  | objTables => exact execObjTables_memWf h ..
  | layoutBase => exact execLayoutBase_memWf h ..
  | exportSet => exact execExportSet_memWf h ..
  | mcgSet => exact execMcgSet_memWf h ..
  | eaveSet => exact execEaveSet_memWf h ..
  | walkerSet => exact execWalkerSet_memWf h ..
  | objRevoke => exact execObjRevoke_memWf h ..
  | pageRequest => exact execPageRequest_memWf h ..
  | pageRelease => exact execPageRelease_memWf h ..
  | baySet => exact execBaySet_memWf h ..
  | attest => exact execAttest_memWf h ..
  | bootSet => exact execBootSet_memWf h ..
  | perstRelease => exact execPerstRelease_memWf h ..
  | rootStageComplete => exact execRootStageComplete_memWf h ..
  | serviceStageComplete => exact execServiceStageComplete_memWf h ..
  | serviceFirmwareRestart => exact execServiceFirmwareRestart_memWf h ..
  | illegalWord => exact execIllegalWord_memWf h ..
  | perstAssert => exact execPerstAssert_memWf h ..

theorem act_takeAction_memWf {s : State} (h : memWf s.mem = true) : FetchedWf (act (takeAction s).1 (takeAction s).2) :=
  act_memWf (by rw [takeAction_mem]; exact h) _

/-- A step takes an action, executes what the action fetched, and ends with `endStep`, which drops the issue. -/
theorem step_memWf {s t : State} (h : memWf s.mem = true) (e : step s = .next t) : memWf t.mem = true ∧ t.issue = none := by
  have ha := act_takeAction_memWf h
  unfold step at e
  split at e
  next s' e' =>
    rw [e'] at ha
    cases e
    exact ⟨ha, rfl⟩
  next s' i e' =>
    rw [e'] at ha
    have hx := exec_memWf ha i
    split at e
    next u eu =>
      rw [eu] at hx
      cases e
      exact ⟨hx, rfl⟩
    · cases e
    · cases e

/-- Settles O58: every function of the state keeps the form or leaves memory alone, up through `exec` to the step. -/
theorem everyStepKeepsMemoryCanonical : Obligations.EveryStepKeepsMemoryCanonical := by
  unfold Obligations.EveryStepKeepsMemoryCanonical
  exact fun _ _ => step_memWf

end Sys2Proof.Machine
end

/-!
Power, clocks and temperature (R12, R421 to R424), with the containments that a trip makes and the starts that its recovery makes (O50).

A trip folds `containNow` over the bays that are formed, and its recovery folds `containRestart` over those under containment. `OnlyBay` says
what such a step at one bay leaves as it was, `SameAt` what all the steps at the other bays leave of this one; so a fold over the bays does to a
bay what its one step there does (`foldl_bays_at`), and what is left is that step: `containNow_held` and `containRestart_reserved`.
-/

section
namespace Sys2Proof.Machine

/-! ## Clocks and power (R421, R422) -/

theorem settleLeft_ne_zero_iff (x : Island) (t : Nat) : settleLeft x t ≠ 0 ↔ x.target.isSome = true ∧ t < x.since + 10000 := by
  unfold settleLeft
  split
  next h => simp only [h, true_and]; omega
  next h => simp [h]

theorem pointMhz_of_none {x : Island} (h : x.target = none) (t : Nat) : pointMhz x t = x.mhz := by simp [pointMhz, h]

theorem pointMhz_of_some {x : Island} {m : Nat} (h : x.target = some m) (t : Nat) :
    pointMhz x t = if t < x.since + 10000 then min x.mhz m else m := by
  have hs := settleLeft_ne_zero_iff x t
  simp only [h, Option.isSome_some, true_and] at hs
  simp only [pointMhz, h]
  by_cases ht : t < x.since + 10000
  · rw [if_neg (hs.2 ht), if_pos ht]
  · rw [if_pos (not_not.1 (mt hs.1 ht)), if_neg ht]

theorem cutMhz_of_le {base : Nat} (h : base ≤ 1500) (cut : Nat) : cutMhz base cut = base := if_pos h
theorem cutMhz_of_gt {base : Nat} (h : 1500 < base) (cut : Nat) : cutMhz base cut = max 1500 (base - 100 * cut) := if_neg (Nat.not_le.2 h)

theorem cutMhz_le (base cut : Nat) : cutMhz base cut ≤ base := by
  rcases Nat.lt_or_ge 1500 base with h | h
  · rw [cutMhz_of_gt h]; omega
  · rw [cutMhz_of_le h]

/-- The clock of a core island that is neither held off nor throttled. -/
theorem effMhz_of_running {s : State} {i : Nat} (hi : i < 256) (hoff : s.off = false) (hcool : i / 8 ∉ s.colhot) :
    effMhz s i = cutMhz (pointMhz (mget s.islands i {}) s.t) (mget s.islands i {}).cut := by
  simp [effMhz, capMhz, hoff, hcool, Nat.not_le.2 hi]

theorem effMhz_le_of_colhot {s : State} {i : Nat} (hi : i < 256) (hhot : i / 8 ∈ s.colhot) : effMhz s i ≤ 1500 := by
  unfold effMhz capMhz
  rw [if_neg (Nat.not_le.2 hi)]
  split
  · exact Nat.zero_le _
  · simp only [List.contains_iff_mem, hhot, if_true]
    exact Nat.min_le_right _ _

theorem effMhz_le_pointMhz (s : State) (i : Nat) : effMhz s i ≤ pointMhz (mget s.islands i {}) s.t := by
  have hcut := cutMhz_le (pointMhz (mget s.islands i {}) s.t) (mget s.islands i {}).cut
  unfold effMhz capMhz
  split
  · exact le_rfl
  · split
    · exact Nat.zero_le _
    · dsimp only
      split
      · exact (Nat.min_le_left _ _).trans hcut
      · exact hcut

/-- The power cap leaves the operating point. -/
theorem pointMhz_powerStep (cap mw t u : Nat) (x : Island) : pointMhz (powerStep cap mw t x) u = pointMhz x u := rfl

/-- Above the cap the clock goes 100 MHz down, to 1.5 GHz at the lowest. -/
theorem cutMhz_powerStep_above {cap mw t : Nat} {x : Island} (hmw : cap * 1000 < mw) (hlow : 1500 ≤ pointMhz x t) :
    cutMhz (pointMhz x t) (powerStep cap mw t x).cut = max 1500 (cutMhz (pointMhz x t) x.cut - 100) := by
  simp only [powerStep, if_pos hmw]
  rcases Nat.lt_or_eq_of_le hlow with h | h
  · simp only [cutMhz_of_gt h]; split <;> omega
  · simp [← h, cutMhz_of_le]

/-- Below 95 % of the cap the clock goes 100 MHz up, to that of its operating point at the highest. -/
theorem cutMhz_powerStep_below {cap mw t : Nat} {x : Island} (hmw : mw < cap * 950) (hlow : 1500 ≤ pointMhz x t) (hcut : 100 * x.cut ≤ pointMhz x t - 1500) :
    cutMhz (pointMhz x t) (powerStep cap mw t x).cut = min (pointMhz x t) (cutMhz (pointMhz x t) x.cut + 100) := by
  have hcap : ¬ cap * 1000 < mw := by omega
  simp only [powerStep, if_neg hcap, if_pos hmw]
  rcases Nat.lt_or_eq_of_le hlow with h | h
  · simp only [cutMhz_of_gt h]; omega
  · simp [← h, cutMhz_of_le]

theorem powerStep_eq_self {cap mw : Nat} (hlo : cap * 950 ≤ mw) (hhi : mw ≤ cap * 1000) (t : Nat) (x : Island) : powerStep cap mw t x = x := by
  simp [powerStep, Nat.not_lt.2 hlo, Nat.not_lt.2 hhi]

/-- The highest clocks of the three ranges of a supply. -/
theorem le_maxMhz_iff {mv mhz : Nat} (h : 0 < mhz) : mhz ≤ maxMhz mv ↔
    (350 ≤ mv ∧ mv ≤ 374 ∧ mhz ≤ 1500) ∨ (375 ≤ mv ∧ mv ≤ 399 ∧ mhz ≤ 1800) ∨ (400 ≤ mv ∧ mv ≤ 650 ∧ mhz ≤ 2100) := by
  unfold maxMhz
  split
  · omega
  · split
    · omega
    · split <;> omega

/-! ## Numbers written one after another -/

theorem mget?_foldl_mset_ne {α ι : Type} (key : ι → Nat) (val : ι → α) {n : Nat} (l : List ι) (m : Map α) (h : ∀ e ∈ l, key e ≠ n) :
    mget? (l.foldl (fun m e => mset m (key e) (val e)) m) n = mget? m n := by
  induction l generalizing m with
  | nil => rfl
  | cons e l ih =>
    rw [List.foldl_cons, ih _ fun d hd => h d (List.mem_cons_of_mem _ hd), mget?_mset_ne _ _ (h e List.mem_cons_self).symm]

theorem mget?_foldl_mset {α ι : Type} (key : ι → Nat) (val : ι → α) {l : List ι} (m : Map α) (hl : (l.map key).Nodup) {e : ι} (he : e ∈ l) :
    mget? (l.foldl (fun m e => mset m (key e) (val e)) m) (key e) = some (val e) := by
  induction l generalizing m with
  | nil => cases he
  | cons d l ih =>
    rw [List.map_cons, List.nodup_cons] at hl
    rw [List.foldl_cons]
    rcases List.mem_cons.1 he with rfl | he
    · rw [mget?_foldl_mset_ne key val l _ fun d hd hk => hl.1 (List.mem_map.2 ⟨d, hd, hk⟩), mget?_mset_self]
    · exact ih _ hl.2 he

theorem mget?_map {α β : Type} (f : Nat × α → β) (m : Map α) (n : Nat) :
    mget? (m.map fun e => (e.1, f e)) n = (mget? m n).map fun v => f (n, v) := by
  induction m with
  | nil => rfl
  | cons e m ih =>
    obtain ⟨k, v⟩ := e
    by_cases h : k = n
    · subst h; simp [mget?]
    · simpa [mget?, h] using ih

/-! ## What the sensors read (R12, R423, R424) -/

theorem foldl_max_le_iff (f : Nat → Int) (l : List Nat) (m n : Int) : l.foldl (fun m g => max m (f g)) m ≤ n ↔ m ≤ n ∧ ∀ g ∈ l, f g ≤ n := by
  induction l generalizing m with
  | nil => simp
  | cons g l ih => simp [ih, and_assoc]

/-- Below the least reading of a sensor there is no bound to ask for. -/
theorem hottest_le_iff {n : Int} (hn : -32768 ≤ n) (s : State) : hottest s ≤ n ↔ ∀ g, g < 32 → sensorMax (mget s.sensors g ⟨0, 0, 0, 0⟩) ≤ n := by
  rw [hottest, foldl_max_le_iff fun g => sensorMax (mget s.sensors g ⟨0, 0, 0, 0⟩)]
  simp [hn]

theorem rootRuns_iff (s : State) : rootRuns s = true ↔ RootRuns s := by simp [rootRuns, RootRuns, or_assoc]

theorem mem_throttled_iff (s : State) (g : Nat) : g ∈ throttled s ↔ g < 32 ∧
    (1680 ≤ sensorMax (mget s.sensors g ⟨0, 0, 0, 0⟩) ∨ (g ∈ s.colhot ∧ 1600 < sensorMax (mget s.sensors g ⟨0, 0, 0, 0⟩))) := by
  simp [throttled]

theorem mem_formedBays_iff (s : State) (b : Nat) : b ∈ formedBays s ↔ b < 16 ∧ (s.bay b).formed = true := by simp [formedBays]
theorem formedBays_nodup (s : State) : (formedBays s).Nodup := List.nodup_range.filter _

/-- The package with these readings, and the columns that throttle by them. -/
def sensed (rs : List Sensors) (s : State) : State :=
  let r := { s with sensors := ((rs.take 32).mapIdx fun g x => (g, x)).foldl (fun m (e : Nat × Sensors) => mset m e.1 e.2) s.sensors, sensedAt := some s.t }
  { r with colhot := throttled r }
/-- The trip of a package: its formed bays are contained while the core islands are held off. -/
def tripped (s : State) : State := (formedBays s).foldl containNow { s with st := .trip, tripFrom := s.st, off := true }

theorem sensed_rest (rs : List Sensors) (s : State) : { sensed rs s with sensors := s.sensors, colhot := s.colhot, sensedAt := s.sensedAt } = s := by
  simp only [sensed]

theorem mget_sensed {rs : List Sensors} (hrs : rs.length = 32) (s : State) {g : Nat} (hg : g < 32) :
    mget (sensed rs s).sensors g ⟨0, 0, 0, 0⟩ = rs.getD g ⟨0, 0, 0, 0⟩ := by
  have hkeys : ((rs.mapIdx fun g x => (g, x)).map Prod.fst).Nodup := by
    rw [show (rs.mapIdx fun g x => (g, x)).map Prod.fst = List.range rs.length from List.ext_getElem (by simp) (by simp)]
    exact List.nodup_range
  have hmem : (g, rs[g]) ∈ rs.mapIdx fun g x => (g, x) := List.mem_mapIdx.2 ⟨g, hrs.symm ▸ hg, rfl⟩
  have hget := mget?_foldl_mset Prod.fst Prod.snd s.sensors hkeys hmem
  simp only [sensed, mget, List.take_of_length_le hrs.le, hget]
  simp [hrs, hg]

theorem mem_colhot_sensed {rs : List Sensors} (hrs : rs.length = 32) (s : State) {g : Nat} (hg : g < 32) : g ∈ (sensed rs s).colhot ↔
    1680 ≤ sensorMax (rs.getD g ⟨0, 0, 0, 0⟩) ∨ (g ∈ s.colhot ∧ 1600 < sensorMax (rs.getD g ⟨0, 0, 0, 0⟩)) := by
  rw [← mget_sensed hrs s hg]
  exact (mem_throttled_iff _ g).trans (and_iff_right hg)

theorem hottest_sensed_le_iff {rs : List Sensors} (hrs : rs.length = 32) {n : Int} (hn : -32768 ≤ n) (s : State) :
    hottest (sensed rs s) ≤ n ↔ ∀ g, g < 32 → sensorMax (rs.getD g ⟨0, 0, 0, 0⟩) ≤ n := by
  rw [hottest_le_iff hn]
  exact forall₂_congr fun g hg => by rw [mget_sensed hrs s hg]

/-! ## What a step at one bay leaves -/

/-- The fields of the platform that no step of a containment writes. -/
structure Platform where
  st : PkgSt
  tripFrom : PkgSt
  off : Bool
  sensors : Map Sensors
  colhot : List Nat
  sensedAt : Option Nat
  cols : Map Nat

def State.platform (s : State) : Platform := ⟨s.st, s.tripFrom, s.off, s.sensors, s.colhot, s.sensedAt, s.cols⟩

/-- What stands when memory, the caches, the fabric and what is in flight are left out: the platform, the bays and the cores. -/
def State.board (s : State) : Platform × Map Bay × Map Core := (s.platform, s.bays, s.cores)

theorem platform_of_board {s t : State} (h : t.board = s.board) : t.platform = s.platform := congrArg (·.1) h
theorem bay_of_board {s t : State} (h : t.board = s.board) (b : Nat) : t.bay b = s.bay b := congrArg (fun x : Platform × Map Bay × Map Core => mget x.2.1 b {}) h
theorem core_of_board {s t : State} (h : t.board = s.board) (c : Nat) : t.core c = s.core c := congrArg (fun x : Platform × Map Bay × Map Core => mget x.2.2 c {}) h

theorem coresOf_of_platform {s t : State} (h : t.platform = s.platform) (b : Nat) : t.coresOf b = s.coresOf b := by
  have hcols : t.cols = s.cols := congrArg Platform.cols h
  simp only [State.coresOf, State.bayOf?, hcols]

theorem mem_coresOf_iff (s : State) (b c : Nat) : c ∈ s.coresOf b ↔ c < 256 ∧ s.bayOf? c = some b := by simp [State.coresOf]
theorem coresOf_nodup (s : State) (b : Nat) : (s.coresOf b).Nodup := List.nodup_range.filter _
theorem svCore_mem {s : State} {b : Nat} (h : s.coresOf b ≠ []) : s.svCore b ∈ s.coresOf b := by
  obtain ⟨c, l, hl⟩ := List.exists_cons_of_ne_nil h
  simp [State.svCore, hl]

/-- A step at bay b leaves the platform, the other bays and their cores as they were. -/
structure OnlyBay (s t : State) (b : Nat) : Prop where
  platform : t.platform = s.platform
  bays : ∀ d, d ≠ b → t.bay d = s.bay d
  cores : ∀ c, c < 256 → c ∉ s.coresOf b → t.core c = s.core c

theorem OnlyBay.refl (s : State) (b : Nat) : OnlyBay s s b := ⟨rfl, fun _ _ => rfl, fun _ _ _ => rfl⟩

theorem OnlyBay.coresOf {s t : State} {b : Nat} (h : OnlyBay s t b) (d : Nat) : t.coresOf d = s.coresOf d := coresOf_of_platform h.platform d

theorem OnlyBay.trans {s t u : State} {b : Nat} (h : OnlyBay s t b) (h' : OnlyBay t u b) : OnlyBay s u b where
  platform := h'.platform.trans h.platform
  bays := fun d hd => (h'.bays d hd).trans (h.bays d hd)
  cores := fun c hc hb => (h'.cores c hc (by rwa [h.coresOf])).trans (h.cores c hc hb)

theorem OnlyBay.of_board {s t u : State} {b : Nat} (h : OnlyBay s t b) (hu : u.board = t.board) : OnlyBay s u b where
  platform := (platform_of_board hu).trans h.platform
  bays := fun d hd => (bay_of_board hu d).trans (h.bays d hd)
  cores := fun c hc hb => (core_of_board hu c).trans (h.cores c hc hb)

theorem onlyBay_updBay (s : State) (b : Nat) (f : Bay → Bay) : OnlyBay s (s.updBay b f) b :=
  ⟨rfl, fun d hd => by simp [hd], fun _ _ _ => rfl⟩

/-- A core of the bay is replaced; a number past 255 is no core. -/
theorem onlyBay_setCore {s : State} {b c : Nat} (hc : c ∈ s.coresOf b ∨ 256 ≤ c) (x : Core) : OnlyBay s (s.setCore c x) b where
  platform := rfl
  bays := fun _ _ => rfl
  cores := fun d hd hb => by
    rw [State.core_setCore, if_neg]
    rintro rfl
    exact hc.elim hb (Nat.not_le.2 hd)

theorem onlyBay_updCore {s : State} {b c : Nat} (hc : c ∈ s.coresOf b ∨ 256 ≤ c) (f : Core → Core) : OnlyBay s (s.updCore c f) b := onlyBay_setCore hc _

/-- A fold of steps at one bay. -/
theorem OnlyBay.foldl {s : State} {b : Nat} {α : Type} {f : State → α → State} {l : List α}
    (h : ∀ t x, t.coresOf b = s.coresOf b → x ∈ l → OnlyBay t (f t x) b) : OnlyBay s (l.foldl f s) b :=
  List.foldlRecOn (motive := fun t => OnlyBay s t b) l f (OnlyBay.refl s b) fun t ht x hx => ht.trans (h t x (ht.coresOf b) hx)

/-- What the steps at other bays leave of bay b. -/
structure SameAt (b : Nat) (s t : State) : Prop where
  platform : t.platform = s.platform
  bay : t.bay b = s.bay b
  cores : ∀ c ∈ s.coresOf b, t.core c = s.core c

theorem SameAt.refl (b : Nat) (s : State) : SameAt b s s := ⟨rfl, rfl, fun _ _ => rfl⟩

theorem SameAt.coresOf {s t : State} {b : Nat} (h : SameAt b s t) (d : Nat) : t.coresOf d = s.coresOf d := coresOf_of_platform h.platform d

theorem SameAt.trans {s t u : State} {b : Nat} (h : SameAt b s t) (h' : SameAt b t u) : SameAt b s u where
  platform := h'.platform.trans h.platform
  bay := h'.bay.trans h.bay
  cores := fun c hc => (h'.cores c (by rwa [h.coresOf])).trans (h.cores c hc)

theorem SameAt.course? {s t : State} {b : Nat} (h : SameAt b s t) {c : Nat} (hc : c ∈ s.coresOf b) (k : Nat) : t.course? c k = s.course? c k := by
  rw [State.course?, State.course?, h.cores c hc]

/-- A core has one bay. -/
theorem OnlyBay.sameAt {s t : State} {b d : Nat} (h : OnlyBay s t d) (hbd : b ≠ d) : SameAt b s t where
  platform := h.platform
  bay := h.bays b hbd
  cores := fun c hc => by
    obtain ⟨hlt, hb⟩ := (mem_coresOf_iff s b c).1 hc
    refine h.cores c hlt fun hd => hbd ?_
    rw [← Option.some_inj, ← hb, ((mem_coresOf_iff s d c).1 hd).2]

theorem SameAt.foldl {b : Nat} {f : State → Nat → State} (hf : ∀ s d, OnlyBay s (f s d) d) {l : List Nat} (hb : b ∉ l) (s : State) :
    SameAt b s (l.foldl f s) :=
  List.foldlRecOn (motive := SameAt b s) l f (SameAt.refl b s) fun t ht d hd => ht.trans ((hf t d).sameAt (ne_of_mem_of_not_mem hd hb).symm)

/-- A step taken once at each bay of a list does to bay b what the one step there does. -/
theorem foldl_bays_at {f : State → Nat → State} (hf : ∀ s d, OnlyBay s (f s d) d) {l : List Nat} (hl : l.Nodup) {b : Nat} (hb : b ∈ l) (s : State) :
    ∃ u, SameAt b s u ∧ SameAt b (f u b) (l.foldl f s) := by
  obtain ⟨l₁, l₂, rfl⟩ := List.append_of_mem hb
  obtain ⟨-, hl₂, hdis⟩ := List.nodup_append'.1 hl
  refine ⟨l₁.foldl f s, SameAt.foldl hf (fun h => hdis h List.mem_cons_self) s, ?_⟩
  rw [List.foldl_append, List.foldl_cons]
  exact SameAt.foldl hf (List.nodup_cons.1 hl₂).1 _

theorem foldl_bays_platform {f : State → Nat → State} (hf : ∀ s d, OnlyBay s (f s d) d) (l : List Nat) (s : State) :
    (l.foldl f s).platform = s.platform :=
  List.foldlRecOn (motive := fun t => t.platform = s.platform) l f rfl fun t ht d _ => (hf t d).platform.trans ht

/-! ## Containment (R340, R341) -/

theorem writeBytes_board (s : State) (a : Nat) (bs : List Byte) : (s.writeBytes a bs).board = s.board := by
  induction bs generalizing s a with
  | nil => rfl
  | cons x bs ih => rw [State.writeBytes, ih]; rfl

theorem vacateFilling_board (s : State) (b : Nat) : (vacateFilling s b).board = s.board := by
  unfold vacateFilling
  split
  · rfl
  · refine List.foldlRecOn (motive := fun t : State => t.board = s.board) _ _ rfl fun t ht f _ => ?_
    split
    · exact (writeBytes_board ..).trans ht
    · exact ht

/-- A core that stops is emptied, and is struck off the list of those still to stop. -/
theorem containCore_board (s : State) (b c : Nat) (k : Contain) : (containCore s b c k).board =
    ((s.updCore c clearCore).updBay b fun y => { y with cont := some { k with stop := k.stop.filter (· != c), lost := k.lost + (s.core c).recs.length } }).board := by
  unfold containCore
  dsimp only
  split
  · exact (vacateFilling_board ..).trans rfl
  · rfl

theorem containEave_board (s : State) (b : Nat) (k : Contain) :
    (containEave s b k).board = (s.updBay b fun y => { y.emptied (· == 15) with cont := some { k with eave := true } }).board := rfl

theorem onlyBay_containMail (s : State) (b : Nat) (r : FaultRec) : OnlyBay s (containMail s b r) b := by
  unfold containMail
  split
  · exact onlyBay_updBay ..
  · exact OnlyBay.refl s b

theorem onlyBay_containNote (s : State) (b : Nat) (k : Contain) : OnlyBay s (containNote s b k) b := by
  unfold containNote
  dsimp only
  refine OnlyBay.trans ?_ (onlyBay_updBay ..)
  split
  · exact (onlyBay_containMail ..).trans (onlyBay_containMail ..)
  · exact onlyBay_containMail ..

theorem onlyBay_containCore {s : State} {b c : Nat} (hc : c ∈ s.coresOf b ∨ 256 ≤ c) (k : Contain) : OnlyBay s (containCore s b c k) b :=
  ((onlyBay_updCore hc clearCore).trans (onlyBay_updBay ..)).of_board (containCore_board s b c k)

theorem onlyBay_containEave (s : State) (b : Nat) (k : Contain) : OnlyBay s (containEave s b k) b :=
  (onlyBay_updBay ..).of_board (containEave_board s b k)

/-! ## The walkers and the supervisor start (R341, R427) -/

/-- A reserved course starts in its slot. -/
def startReservedCourse (s : State) (c k : Nat) (pc : W64) (u : Uni) : State :=
  settleCore (s.setCourse c k { reservedCourse k pc u with since := s.t, cyc := coreCyc s c }) c

/-- The walkers of a bay start. -/
def startWalkers (s : State) (b : Nat) : State := (s.coresOf b).foldl (fun t c => startReservedCourse t c 511 (s.bay b).walkPc { s := [(0, (s.bay b).root)] }) s

theorem startReserved_eq (s : State) (b : Nat) : startReserved s b =
    let w := startWalkers s b
    if (w.coresOf b).isEmpty then w
    else startReservedCourse w (w.svCore b) 510 (s.bay b).svPc { s := [(0, (s.bay b).root), (1, (s.bay b).inc.setWidth 64), (2, colBits w b)] } := rfl

/-- A course stands ready at its entry. -/
def ReservedAt (s : State) (c k : Nat) (pc : W64) (u : Uni) : Prop :=
  ∃ x, s.course? c k = some x ∧ x.prv = true ∧ x.u = u ∧ x.lanes = (reservedCourse k pc u).lanes

theorem onlyBay_startReservedCourse {s : State} {b c : Nat} (hc : c ∈ s.coresOf b) (k : Nat) (pc : W64) (u : Uni) :
    OnlyBay s (startReservedCourse s c k pc u) b := by
  have hset : OnlyBay s (s.setCourse c k { reservedCourse k pc u with since := s.t, cyc := coreCyc s c }) b := onlyBay_setCore (.inl hc) _
  exact hset.trans (onlyBay_updCore (.inl (by rwa [hset.coresOf])) _)

/-- Settling a core marks courses active; a reserved course stays as it stands. -/
theorem reservedAt_settleCore {s : State} {c k : Nat} {pc : W64} {u : Uni} (h : ReservedAt s c k pc u) (d : Nat) : ReservedAt (settleCore s d) c k pc u := by
  obtain ⟨x, hx, hprv, hu, hlanes⟩ := h
  by_cases hd : c = d
  · subst hd
    unfold ReservedAt State.course? settleCore
    rw [State.core_updCore, if_pos rfl, Core.settle, mget?_map, show mget? (s.core c).courses k = some x from hx]
    refine ⟨_, rfl, ?_⟩
    dsimp only
    split
    · exact ⟨hprv, hu, hlanes⟩
    · exact ⟨hprv, hu, hlanes⟩
  · refine ⟨x, ?_, hprv, hu, hlanes⟩
    rwa [State.course?, settleCore, State.core_updCore, if_neg hd]

theorem reservedAt_startReservedCourse (s : State) (c k : Nat) (pc : W64) (u : Uni) : ReservedAt (startReservedCourse s c k pc u) c k pc u :=
  reservedAt_settleCore ⟨_, (State.course?_setCourse s c k c k _).trans (if_pos ⟨rfl, rfl⟩), rfl, rfl, rfl⟩ c

/-- A course that starts in another slot leaves it. -/
theorem reservedAt_startReservedCourse_ne {s : State} {c k : Nat} {pc : W64} {u : Uni} (h : ReservedAt s c k pc u) {d j : Nat} (hne : ¬ (c = d ∧ k = j))
    (pc' : W64) (u' : Uni) : ReservedAt (startReservedCourse s d j pc' u') c k pc u := by
  obtain ⟨x, hx, hrest⟩ := h
  exact reservedAt_settleCore ⟨x, by rwa [State.course?_setCourse, if_neg hne], hrest⟩ d

theorem reservedAt_foldl {l : List Nat} {c : Nat} (hc : c ∈ l) (s : State) (k : Nat) (pc : W64) (u : Uni) :
    ReservedAt (l.foldl (fun t d => startReservedCourse t d k pc u) s) c k pc u := by
  induction l using List.reverseRecOn with
  | nil => cases hc
  | append_singleton l d ih =>
    rw [List.foldl_append, List.foldl_cons, List.foldl_nil]
    by_cases hd : c = d
    · subst hd
      exact reservedAt_startReservedCourse ..
    · exact reservedAt_startReservedCourse_ne (ih ((List.mem_append.1 hc).resolve_right (by simpa using hd))) (fun h => hd h.1) pc u

theorem ReservedAt.lane {s : State} {c k : Nat} {pc : W64} {u : Uni} (h : ReservedAt s c k pc u) :
    ∃ x, s.course? c k = some x ∧ x.prv = true ∧ x.u = u ∧ ∀ l, l < 8 → (x.lane l).st = .ready ∧ (x.lane l).pc = pc := by
  obtain ⟨x, hx, hprv, hu, hlanes⟩ := h
  refine ⟨x, hx, hprv, hu, fun l hl => ?_⟩
  rw [Course.lane, hlanes, reservedCourse, List.getD_eq_getElem?_getD, List.getElem?_map, List.getElem?_range hl]
  exact ⟨rfl, rfl⟩

theorem getLsbD_foldl_or (p : Nat → Prop) [DecidablePred p] (l : List Nat) (m : W64) (g : Nat) :
    (l.foldl (fun m g => if p g then m ||| (1#64 <<< g) else m) m).getLsbD g = true ↔ m.getLsbD g = true ∨ (g ∈ l ∧ p g ∧ g < 64) := by
  induction l generalizing m with
  | nil => simp
  | cons d l ih =>
    rw [List.foldl_cons, ih]
    have hbit : (m ||| (1#64 <<< d)).getLsbD g = true ↔ m.getLsbD g = true ∨ (g = d ∧ g < 64) := by
      rw [show 1#64 <<< d = BitVec.twoPow 64 d from rfl]
      simp only [BitVec.getLsbD_or, BitVec.getLsbD_twoPow, Bool.or_eq_true, Bool.and_eq_true, decide_eq_true_eq]
      exact or_congr_right (by omega)
    split
    next hp => grind
    next hp => grind

theorem getLsbD_colBits (s : State) (b g : Nat) : (colBits s b).getLsbD g = true ↔ g < 32 ∧ mget? s.cols g = some b := by
  rw [colBits, getLsbD_foldl_or fun g => mget? s.cols g = some b]
  simp
  omega

theorem onlyBay_startWalkers (s : State) (b : Nat) : OnlyBay s (startWalkers s b) b :=
  OnlyBay.foldl fun _ _ ht hc => onlyBay_startReservedCourse (ht ▸ hc) ..

theorem startWalkers_bays (s : State) (b : Nat) : (startWalkers s b).bays = s.bays :=
  List.foldlRecOn (motive := fun t : State => t.bays = s.bays) _ _ rfl fun _ ht _ _ => ht

theorem startReserved_of_nil {s : State} {b : Nat} (h : s.coresOf b = []) : startReserved s b = s := by
  simp [startReserved_eq, startWalkers, h]

theorem startReserved_of_ne {s : State} {b : Nat} (h : s.coresOf b ≠ []) : startReserved s b =
    startReservedCourse (startWalkers s b) (s.svCore b) 510 (s.bay b).svPc
      { s := [(0, (s.bay b).root), (1, (s.bay b).inc.setWidth 64), (2, colBits (startWalkers s b) b)] } := by
  have hcores := (onlyBay_startWalkers s b).coresOf b
  have hsv : (startWalkers s b).svCore b = s.svCore b := by rw [State.svCore, hcores]; rfl
  rw [startReserved_eq]
  dsimp only
  rw [hcores, if_neg (by simpa using h), hsv]

theorem onlyBay_startReserved (s : State) (b : Nat) : OnlyBay s (startReserved s b) b := by
  by_cases h : s.coresOf b = []
  · rw [startReserved_of_nil h]
    exact OnlyBay.refl s b
  · have hw := onlyBay_startWalkers s b
    rw [startReserved_of_ne h]
    exact hw.trans (onlyBay_startReservedCourse (by rw [hw.coresOf]; exact svCore_mem h) ..)

theorem startReserved_bay (s : State) (b d : Nat) : (startReserved s b).bay d = s.bay d := by
  by_cases h : s.coresOf b = []
  · rw [startReserved_of_nil h]
  · rw [startReserved_of_ne h]
    exact congrArg (mget · d {}) (startWalkers_bays s b)

theorem reservedStart_startReserved (s : State) (b : Nat) : ReservedStart s (startReserved s b) b (s.bay b).root (s.bay b).walkPc (s.bay b).svPc := by
  by_cases h : s.coresOf b = []
  · exact ⟨fun c hc => absurd hc (by simp [h]), fun hne => absurd h hne⟩
  constructor
  case walkers =>
    intro c hc
    have hwalk : ReservedAt (startWalkers s b) c 511 (s.bay b).walkPc { s := [(0, (s.bay b).root)] } := reservedAt_foldl hc ..
    obtain ⟨x, hx, hprv, hu, hl⟩ := (reservedAt_startReservedCourse_ne hwalk (d := s.svCore b) (j := 510) (by omega) _ _).lane
    rw [startReserved_of_ne h]
    exact ⟨x, hx, hprv, by rw [hu]; rfl, hl⟩
  case supervisor =>
    intro _
    obtain ⟨x, hx, hprv, hu, hl⟩ := (reservedAt_startReservedCourse (startWalkers s b) (s.svCore b) 510 (s.bay b).svPc
      { s := [(0, (s.bay b).root), (1, (s.bay b).inc.setWidth 64), (2, colBits (startWalkers s b) b)] }).lane
    have hcols : (startWalkers s b).cols = s.cols := congrArg Platform.cols (onlyBay_startWalkers s b).platform
    refine ⟨x, by rwa [startReserved_of_ne h], hprv, by rw [hu]; rfl, ?_, fun g => ?_, hl⟩
    · rw [hu, startReserved_bay, BitVec.ofNat_toNat]
      rfl
    · rw [hu, ← hcols, ← getLsbD_colBits]
      rfl

theorem onlyBay_containRestart (s : State) (b : Nat) : OnlyBay s (containRestart s b) b := (onlyBay_updBay ..).trans (onlyBay_startReserved ..)

theorem containRestart_cont (s : State) (b : Nat) : ((containRestart s b).bay b).cont = none := by
  rw [containRestart, startReserved_bay, State.bay_updBay, if_pos rfl]

theorem containRestart_reserved (s : State) (b : Nat) : ReservedStart s (containRestart s b) b (s.bay b).bootRoot (s.bay b).bootWalk (s.bay b).svPc := by
  have h := reservedStart_startReserved (s.updBay b fun y => { y with cont := none, walkPc := y.bootWalk, root := y.bootRoot }) b
  rw [State.bay_updBay, if_pos rfl] at h
  exact ⟨h.walkers, h.supervisor⟩

/-- A start of bay b stays over the steps at other bays, before it and after it. -/
theorem ReservedStart.congr {s u v t : State} {b : Nat} {root walk sv : W64} (hs : SameAt b s u) (h : ReservedStart u v b root walk sv) (hv : OnlyBay u v b)
    (ht : SameAt b v t) : ReservedStart s t b root walk sv := by
  have hu : u.coresOf b = s.coresOf b := hs.coresOf b
  have hcourse : ∀ c ∈ s.coresOf b, ∀ k, t.course? c k = v.course? c k := fun c hc k => ht.course? (by rwa [hv.coresOf, hu]) k
  have hsv : u.svCore b = s.svCore b := by rw [State.svCore, hu]; rfl
  have hcols : u.cols = s.cols := congrArg Platform.cols hs.platform
  constructor
  case walkers => exact fun c hc => by rw [hcourse c hc]; exact h.walkers c (by rwa [hu])
  case supervisor =>
    intro hne
    rw [hcourse _ (svCore_mem hne), ht.bay, ← hsv, ← hcols]
    exact h.supervisor (by rwa [hu])

/-! ## Steps 1 to 4 of R341 at one bay (R424) -/

theorem containCore_bay (s : State) (b c : Nat) (k : Contain) : (containCore s b c k).bay b =
    { s.bay b with cont := some { k with stop := k.stop.filter (· != c), lost := k.lost + (s.core c).recs.length } } := by
  rw [bay_of_board (containCore_board s b c k) b, State.bay_updBay, if_pos rfl]
  rfl

theorem containCore_core (s : State) (b c d : Nat) (k : Contain) : (containCore s b c k).core d = if d = c then clearCore (s.core d) else s.core d := by
  rw [core_of_board (containCore_board s b c k) d, State.core_updBay, State.core_updCore]

theorem containEave_bay (s : State) (b : Nat) (k : Contain) : (containEave s b k).bay b = { (s.bay b).emptied (· == 15) with cont := some { k with eave := true } } := by
  rw [bay_of_board (containEave_board s b k) b, State.bay_updBay, if_pos rfl]

theorem containEave_core (s : State) (b : Nat) (k : Contain) (c : Nat) : (containEave s b k).core c = s.core c := core_of_board (containEave_board s b k) c

/-- Step 3 keeps mailbox 15. -/
theorem containEave_mailbox_15 (s : State) (b : Nat) (k : Contain) : ((containEave s b k).bay b).mailbox 15 = (s.bay b).mailbox 15 := by
  rw [containEave_bay]
  simp [Bay.emptied, Bay.mailbox, mget, mget?_map]

/-- Step 3 empties every other mailbox. -/
theorem containEave_entries_ne (s : State) (b : Nat) (k : Contain) {m : Nat} (h : m ≠ 15) : (((containEave s b k).bay b).mailbox m).entries = [] := by
  rw [containEave_bay]
  simp only [Bay.emptied, Bay.mailbox, mget, mget?_map, beq_false_of_ne h]
  cases mget? (s.bay b).mail m <;> rfl

theorem containMail_inc (s : State) (b : Nat) (r : FaultRec) : ((containMail s b r).bay b).inc = (s.bay b).inc := by
  unfold containMail
  split
  · simp [State.appendMail]
  · rfl

theorem containMail_mailbox_ne (s : State) (b : Nat) (r : FaultRec) {m : Nat} (h : m ≠ 15) :
    ((containMail s b r).bay b).mailbox m = (s.bay b).mailbox m := by
  unfold containMail
  split
  · simp [State.appendMail, Bay.mailbox, mget_mset_ne, h]
  · rfl

/-- A record enters mailbox 15 while fewer than 256 of its entries are unread (R447). -/
theorem containMail_length (s : State) (b : Nat) (r : FaultRec) : (((containMail s b r).bay b).mailbox 15).entries.length =
    min (((s.bay b).mailbox 15).entries.length + 1) (max 256 ((s.bay b).mailbox 15).entries.length) := by
  unfold containMail
  split
  next h =>
    rw [State.unread] at h
    simp [State.appendMail, Bay.mailbox] at h ⊢
    omega
  next h =>
    rw [State.unread] at h
    omega

theorem containMail_core (s : State) (b : Nat) (r : FaultRec) (c : Nat) : (containMail s b r).core c = s.core c := by
  unfold containMail
  split
  · rfl
  · rfl

/-- Step 4 with no second trigger: its one record, and the mark that it is made. -/
structure Noted (s t : State) (b : Nat) (k : Contain) : Prop where
  cont : (t.bay b).cont = some { k with noted := true }
  inc : (t.bay b).inc = (s.bay b).inc
  boxes : ∀ m, m ≠ 15 → (t.bay b).mailbox m = (s.bay b).mailbox m
  box : ((t.bay b).mailbox 15).entries.length = min (((s.bay b).mailbox 15).entries.length + 1) (max 256 ((s.bay b).mailbox 15).entries.length)
  cores : ∀ c, t.core c = s.core c

theorem noted_containNote {s : State} {b : Nat} {k : Contain} (h : k.again = none) : Noted s (containNote s b k) b k := by
  have hbay : (containNote s b k).bay b = { (containMail s b (containedRec s k.old k.lost)).bay b with cont := some { k with noted := true } } := by
    simp [containNote, h]
  constructor
  case cont => rw [hbay]
  case inc => rw [hbay]; exact containMail_inc ..
  case boxes => rw [hbay]; exact fun m hm => containMail_mailbox_ne _ _ _ hm
  case box => rw [hbay]; exact containMail_length ..
  case cores => simp [containNote, h, containMail_core]

theorem containStep_of_mem {s : State} {b c : Nat} {k : Contain} (hk : (s.bay b).cont = some k) (hc : c ∈ k.stop) : containStep s b c = containCore s b c k := by
  simp [containStep, hk, hc]
theorem containStep_of_stopped {s : State} {b : Nat} {k : Contain} (hk : (s.bay b).cont = some k) (hstop : k.stop = []) (heave : k.eave = false) (c : Nat) :
    containStep s b c = containEave s b k := by
  simp [containStep, hk, hstop, heave]
theorem containStep_of_eave {s : State} {b : Nat} {k : Contain} (hk : (s.bay b).cont = some k) (hstop : k.stop = []) (heave : k.eave = true)
    (hnoted : k.noted = false) (c : Nat) : containStep s b c = containNote s b k := by
  simp [containStep, hk, hstop, heave, hnoted]

/-- A step at a core of the bay, or at no core. -/
theorem onlyBay_containStep {s : State} {b c : Nat} (hc : c ∈ s.coresOf b ∨ 256 ≤ c) : OnlyBay s (containStep s b c) b := by
  unfold containStep
  split
  · exact OnlyBay.refl s b
  · split
    · exact onlyBay_containCore hc _
    · split
      · exact OnlyBay.refl s b
      · split
        · exact onlyBay_containEave ..
        · split
          · exact onlyBay_containNote ..
          · split
            · exact OnlyBay.refl s b
            · exact onlyBay_containRestart ..

theorem onlyBay_nextInc (s : State) (b : Nat) : OnlyBay s (nextInc s b) b := (onlyBay_updBay s b fun y => { y with inc := y.inc + 1 }).of_board rfl

theorem onlyBay_contain (s : State) (b : Nat) : OnlyBay s (contain s b none) b := by
  have hinc := onlyBay_nextInc s b
  unfold contain triggerMail
  split
  · exact OnlyBay.refl s b
  · dsimp only
    split
    · exact hinc.trans (onlyBay_updBay ..)
    · split
      · exact hinc.trans (onlyBay_containMail ..)
      · exact hinc.trans (onlyBay_updBay ..)

/-- The trigger step of a bay that is not under containment. -/
theorem contain_bay {s : State} {b : Nat} (hf : (s.bay b).formed = true) (hc : (s.bay b).cont = none) : (contain s b none).bay b =
    { s.bay b with inc := (s.bay b).inc + 1, cont := some { stop := s.coresOf b, old := (s.bay b).inc } } := by
  have hinc : (nextInc s b).bay b = { s.bay b with inc := (s.bay b).inc + 1 } := 
    (State.bay_updBay s b b fun y => { y with inc := y.inc + 1 }).trans (if_pos rfl)
  have hcores : (nextInc s b).coresOf b = s.coresOf b := (onlyBay_nextInc s b).coresOf b
  simp [contain, triggerMail, hf, hinc, hc, hcores]

/-- The cores of a list have stopped, and no other core of the package has changed. -/
structure CoresStopped (s t : State) (b : Nat) (k : Contain) (l : List Nat) : Prop where
  bay : ∃ lost, t.bay b = { s.bay b with cont := some { k with stop := [], lost := lost } }
  empty : ∀ c ∈ l, (t.core c).blocks = [] ∧ (t.core c).courses = []
  others : ∀ c, c ∉ l → t.core c = s.core c

/-- Step 2 at each core that is still to stop. -/
theorem coresStopped_foldl {b : Nat} {l : List Nat} (hl : l.Nodup) {s : State} {k : Contain} (hk : (s.bay b).cont = some k) (hstop : k.stop = l) :
    CoresStopped s (l.foldl (fun s c => containStep s b c) s) b k l := by
  induction l generalizing s k with
  | nil =>
    have hself : ({ k with stop := [], lost := k.lost } : Contain) = k := by rw [← hstop]
    exact ⟨⟨k.lost, by rw [hself, ← hk]; rfl⟩, fun c hc => absurd hc List.not_mem_nil, fun c _ => rfl⟩
  | cons c l ih =>
    obtain ⟨hcl, hl⟩ := List.nodup_cons.1 hl
    rw [List.foldl_cons, containStep_of_mem hk (hstop ▸ List.mem_cons_self)]
    have hbay := containCore_bay s b c k
    have htail : k.stop.filter (· != c) = l := by
      rw [hstop, List.filter_cons_of_neg (by simp), List.filter_eq_self]
      exact fun d hd => bne_iff_ne.2 (ne_of_mem_of_not_mem hd hcl)
    obtain ⟨⟨lost, hlost⟩, hempty, hothers⟩ := ih hl (congrArg Bay.cont hbay) htail
    constructor
    case bay => exact ⟨lost, by rw [hlost, hbay]⟩
    case empty =>
      intro d hd
      rcases List.mem_cons.1 hd with rfl | hd
      · rw [hothers _ hcl, containCore_core, if_pos rfl]
        exact ⟨rfl, rfl⟩
      · exact hempty d hd
    case others =>
      intro d hd
      rw [List.mem_cons, not_or] at hd
      rw [hothers d hd.2, containCore_core, if_neg hd.1]

/-- One of the steps that follow those at the cores. -/
def containRest (s : State) (b : Nat) : State :=
  match (s.bay b).cont with
  | some k => if k.noted then s else containStep s b 256
  | none => s

theorem containNow_eq (s : State) (b : Nat) :
    containNow s b = containRest (containRest ((s.coresOf b).foldl (fun s c => containStep s b c) (contain s b none)) b) b := rfl

theorem containRest_of_unnoted {s : State} {b : Nat} {k : Contain} (hk : (s.bay b).cont = some k) (hnoted : k.noted = false) :
    containRest s b = containStep s b 256 := by
  simp [containRest, hk, hnoted]

theorem onlyBay_containRest (s : State) (b : Nat) : OnlyBay s (containRest s b) b := by
  unfold containRest
  split
  · split
    · exact OnlyBay.refl s b
    · exact onlyBay_containStep (.inr le_rfl)
  · exact OnlyBay.refl s b

theorem onlyBay_containNow (s : State) (b : Nat) : OnlyBay s (containNow s b) b := by
  have htrigger := onlyBay_contain s b
  rw [containNow_eq]
  refine OnlyBay.trans (htrigger.trans (OnlyBay.foldl fun t c ht hc => onlyBay_containStep (.inl ?_))) ((onlyBay_containRest ..).trans (onlyBay_containRest ..))
  rwa [ht, htrigger.coresOf]

/-- The steps at a bay that was not under containment, up to the one at the eave die and the one that makes the record. -/
theorem containNow_eq_containNote {s : State} {b : Nat} (hf : (s.bay b).formed = true) (hc : (s.bay b).cont = none) : ∃ (u : State) (k : Contain),
    k.stop = [] ∧ k.again = none ∧ u.bay b = { s.bay b with inc := (s.bay b).inc + 1, cont := some k } ∧
    (∀ c ∈ s.coresOf b, (u.core c).blocks = [] ∧ (u.core c).courses = []) ∧
    containNow s b = containNote (containEave u b k) b { k with eave := true } := by
  have htrigger := contain_bay hf hc
  obtain ⟨⟨lost, hbay⟩, hempty, -⟩ := coresStopped_foldl (coresOf_nodup s b) (congrArg Bay.cont htrigger) rfl
  rw [containNow_eq]
  generalize (s.coresOf b).foldl (fun s c => containStep s b c) (contain s b none) = u at hbay hempty ⊢
  rw [htrigger] at hbay
  refine ⟨u, { stop := [], old := (s.bay b).inc, lost := lost }, rfl, rfl, hbay, hempty, ?_⟩
  have hk := congrArg Bay.cont hbay
  rw [containRest_of_unnoted hk rfl, containStep_of_stopped hk rfl rfl]
  have hk' := congrArg Bay.cont (containEave_bay u b { stop := [], old := (s.bay b).inc, lost := lost })
  rw [containRest_of_unnoted hk' rfl, containStep_of_eave hk' rfl rfl rfl]

/-- A trip makes steps 1 to 4 at a bay that is not under containment, and leaves step 5. -/
theorem containNow_held {s : State} {b : Nat} (hf : (s.bay b).formed = true) (hc : (s.bay b).cont = none) : HeldContained s (containNow s b) b := by
  obtain ⟨u, k, hstop, hagain, hbay, hempty, hnow⟩ := containNow_eq_containNote hf hc
  have hnoted := noted_containNote (s := containEave u b k) (b := b) (k := { k with eave := true }) hagain
  rw [← hnow] at hnoted
  refine ⟨⟨_, hnoted.cont, hstop, rfl, rfl⟩, ?inc, ?cores, ?boxes, ?box⟩
  case inc =>
    rw [hnoted.inc, containEave_bay, hbay]
    rfl
  case cores =>
    intro c hcb
    obtain ⟨hblocks, hcourses⟩ := hempty c hcb
    simp only [State.course?, hnoted.cores, containEave_core, hblocks, hcourses, mget?_nil, implies_true, and_self]
  case boxes => exact fun m hm => by rw [hnoted.boxes m hm, containEave_entries_ne _ _ _ hm]
  case box =>
    have hubox : (u.bay b).mailbox 15 = (s.bay b).mailbox 15 := by rw [hbay]; rfl
    rw [hnoted.box, containEave_mailbox_15, hubox]

/-- What a trip has made at bay b stays over the steps at other bays, before it and after it. -/
theorem HeldContained.congr {s u v t : State} {b : Nat} (hs : SameAt b s u) (h : HeldContained u v b) (hv : OnlyBay u v b) (ht : SameAt b v t) :
    HeldContained s t b := by
  obtain ⟨hcont, hinc, hcores, hboxes⟩ := h
  rw [hs.bay] at hinc hboxes
  rw [hs.coresOf] at hcores
  rw [← ht.bay] at hcont hinc hboxes
  refine ⟨hcont, hinc, fun c hc => ?_, hboxes⟩
  obtain ⟨hblocks, hcourses⟩ := hcores c hc
  have hcore := ht.cores c (by rwa [hv.coresOf, hs.coresOf])
  exact ⟨by rw [hcore, hblocks], fun k => by rw [State.course?, hcore]; exact hcourses k⟩

/-! ## The steps of the platform -/

theorem tripped_platform (s : State) : (tripped s).platform = { s.platform with st := .trip, tripFrom := s.st, off := true } :=
  foldl_bays_platform onlyBay_containNow _ _

theorem tripped_held {s : State} {b : Nat} (hb : b < 16) (hf : (s.bay b).formed = true) (hc : (s.bay b).cont = none) : HeldContained s (tripped s) b := by
  obtain ⟨u, hu, ht⟩ := foldl_bays_at onlyBay_containNow (formedBays_nodup s) ((mem_formedBays_iff s b).2 ⟨hb, hf⟩)
    { s with st := .trip, tripFrom := s.st, off := true }
  have hbay : u.bay b = s.bay b := hu.bay
  have h := HeldContained.congr hu (containNow_held (by rwa [hbay]) (by rwa [hbay])) (onlyBay_containNow u b) ht
  exact h

theorem execColumnTempRefresh_of_early (rs : List Sensors) {s : State} {t0 : Nat} (h0 : s.sensedAt = some t0) (ht : s.t < t0 + 1000) :
    execColumnTempRefresh rs s = .next s := by
  simp [execColumnTempRefresh, h0, ht]

theorem execColumnTempRefresh_of_due (rs : List Sensors) {s : State} (h : ∀ t0, s.sensedAt = some t0 → t0 + 1000 ≤ s.t) : execColumnTempRefresh rs s =
    .next (if rootRuns s && s.st != .trip && decide (1920 ≤ hottest (sensed rs s)) then tripped (sensed rs s) else sensed rs s) := by
  unfold execColumnTempRefresh
  rw [if_neg ?due]
  case due =>
    cases h0 : s.sensedAt with
    | none => exact Bool.false_ne_true
    | some t0 => simpa using h t0 h0
  rfl

/-- The sensors are read again: the columns that throttle, and, from 120 °C on, the trip. -/
theorem columnTempRefresh_result {rs : List Sensors} (hrs : rs.length = 32) {s : State} (hdue : ∀ t0, s.sensedAt = some t0 → t0 + 1000 ≤ s.t) :
    ∃ t : State, execColumnTempRefresh rs s = .next t ∧ t.sensedAt = some s.t ∧
      (∀ g, g < 32 → mget t.sensors g ⟨0, 0, 0, 0⟩ = rs.getD g ⟨0, 0, 0, 0⟩) ∧
      (∀ g, g < 32 → (g ∈ t.colhot ↔ 1680 ≤ sensorMax (rs.getD g ⟨0, 0, 0, 0⟩) ∨ (g ∈ s.colhot ∧ 1600 < sensorMax (rs.getD g ⟨0, 0, 0, 0⟩)))) ∧
      (¬ RootRuns s ∨ s.st = .trip ∨ (∀ g, g < 32 → sensorMax (rs.getD g ⟨0, 0, 0, 0⟩) < 1920) →
        { t with sensors := s.sensors, colhot := s.colhot, sensedAt := s.sensedAt } = s) ∧
      (RootRuns s → s.st ≠ .trip → (∃ g, g < 32 ∧ 1920 ≤ sensorMax (rs.getD g ⟨0, 0, 0, 0⟩)) →
        t.st = .trip ∧ t.tripFrom = s.st ∧ t.off = true ∧ ∀ b, b < 16 → (s.bay b).formed = true → (s.bay b).cont = none → HeldContained s t b) := by
  have hcool : hottest (sensed rs s) ≤ 1919 ↔ ∀ g, g < 32 → sensorMax (rs.getD g ⟨0, 0, 0, 0⟩) ≤ 1919 := hottest_sensed_le_iff hrs (by decide) s
  have htrips : (rootRuns s && s.st != .trip && decide (1920 ≤ hottest (sensed rs s))) = true ↔
      RootRuns s ∧ s.st ≠ .trip ∧ ∃ g, g < 32 ∧ 1920 ≤ sensorMax (rs.getD g ⟨0, 0, 0, 0⟩) := by
    have hhot : 1920 ≤ hottest (sensed rs s) ↔ ∃ g, g < 32 ∧ 1920 ≤ sensorMax (rs.getD g ⟨0, 0, 0, 0⟩) := by
      rw [show 1920 ≤ hottest (sensed rs s) ↔ ¬ hottest (sensed rs s) ≤ 1919 by omega, hcool]
      push Not
      rfl
    rw [Bool.and_eq_true, Bool.and_eq_true, rootRuns_iff, bne_iff_ne, decide_eq_true_iff, hhot, and_assoc]
  refine ⟨_, execColumnTempRefresh_of_due rs hdue, ?_⟩
  split
  next h =>
    obtain ⟨hruns, hst, g, hg, hhot⟩ := htrips.1 h
    have hp := tripped_platform (sensed rs s)
    have hsensors : (tripped (sensed rs s)).sensors = (sensed rs s).sensors := congrArg Platform.sensors hp
    have hcolhot : (tripped (sensed rs s)).colhot = (sensed rs s).colhot := congrArg Platform.colhot hp
    refine ⟨congrArg Platform.sensedAt hp, ?_, ?_, ?_, fun _ _ _ => ⟨congrArg Platform.st hp, congrArg Platform.tripFrom hp, congrArg Platform.off hp, ?_⟩⟩
    · rw [hsensors]
      exact fun g => mget_sensed hrs s
    · rw [hcolhot]
      exact fun g => mem_colhot_sensed hrs s
    · rintro (h | h | h)
      · exact absurd hruns h
      · exact absurd h hst
      · exact absurd (h g hg) (not_lt.2 hhot)
    · exact fun b hb hf hc => tripped_held (s := sensed rs s) hb hf hc
  next h =>
    exact ⟨rfl, fun g => mget_sensed hrs s, fun g => mem_colhot_sensed hrs s, fun _ => sensed_rest rs s,
      fun hruns hst hhot => absurd (htrips.2 ⟨hruns, hst, hhot⟩) h⟩

/-- The recovery at one bay: step 5 of R341 where the bay is under containment. -/
def recoverBay (s : State) (b : Nat) : State := if (s.bay b).contained then containRestart s b else s

theorem onlyBay_recoverBay (s : State) (b : Nat) : OnlyBay s (recoverBay s b) b := by
  unfold recoverBay
  split
  · exact onlyBay_containRestart ..
  · exact OnlyBay.refl s b

theorem execTripRecovery_of_cool {s : State} (hst : s.st = .trip) (h : hottest s ≤ 1440) :
    execTripRecovery s = .next ((formedBays s).foldl recoverBay { s with st := s.tripFrom, off := false }) := by
  rw [execTripRecovery, if_pos ⟨hst, h⟩]
  rfl

/-- Every sensor reads 90 °C or less: the package goes on where it was, and the bays the trip has contained start. -/
theorem tripRecovery_result {s : State} (hst : s.st = .trip) (hcool : ∀ g, g < 32 → sensorMax (mget s.sensors g ⟨0, 0, 0, 0⟩) ≤ 1440) :
    ∃ t : State, execTripRecovery s = .next t ∧ t.st = s.tripFrom ∧ t.off = false ∧
      ∀ b, b < 16 → (s.bay b).formed = true → (s.bay b).cont ≠ none →
        (t.bay b).cont = none ∧ ReservedStart s t b (s.bay b).bootRoot (s.bay b).bootWalk (s.bay b).svPc := by
  have hp := foldl_bays_platform onlyBay_recoverBay (formedBays s) { s with st := s.tripFrom, off := false }
  refine ⟨_, execTripRecovery_of_cool hst ((hottest_le_iff (by decide) s).2 hcool), congrArg Platform.st hp, congrArg Platform.off hp, fun b hb hf hc => ?_⟩
  obtain ⟨u, hu, ht⟩ := foldl_bays_at onlyBay_recoverBay (formedBays_nodup s) ((mem_formedBays_iff s b).2 ⟨hb, hf⟩)
    { s with st := s.tripFrom, off := false }
  have hbay : u.bay b = s.bay b := hu.bay
  have hstep : recoverBay u b = containRestart u b := if_pos (by rw [hbay]; exact Option.isSome_iff_ne_none.2 hc)
  rw [hstep] at ht
  have hstart := containRestart_reserved u b
  rw [hbay] at hstart
  have h := ReservedStart.congr hu hstart (onlyBay_containRestart u b) ht
  exact ⟨by rw [ht.bay, containRestart_cont], h.walkers, h.supervisor⟩

theorem execTripRecovery_of_hot {s : State} (h : s.st ≠ .trip ∨ ∃ g, g < 32 ∧ 1440 < sensorMax (mget s.sensors g ⟨0, 0, 0, 0⟩)) :
    execTripRecovery s = .next s := by
  rw [execTripRecovery, if_neg]
  rintro ⟨hst, hcool⟩
  rcases h with h | ⟨g, hg, hhot⟩
  · exact h hst
  · exact absurd ((hottest_le_iff (by decide) s).1 hcool g hg) (not_le.2 hhot)

theorem execPowerInterval_of_early (mw : Nat) {s : State} {t0 : Nat} (h0 : s.powerAt = some t0) (ht : s.t < t0 + 100000) :
    execPowerInterval mw s = .next s := by
  simp [execPowerInterval, h0, ht]

/-- The package after an interval of this input power. -/
def powered (mw : Nat) (s : State) : State := { s with
  power := mw, powerAt := some s.t,
  islands := (List.range 256).foldl (fun m i => mset m i (powerStep s.pcap mw s.t (mget s.islands i {}))) s.islands }

theorem execPowerInterval_of_due (mw : Nat) {s : State} (h : ∀ t0, s.powerAt = some t0 → t0 + 100000 ≤ s.t) :
    execPowerInterval mw s = .next (powered mw s) := by
  unfold execPowerInterval
  rw [if_neg ?due]
  case due =>
    cases h0 : s.powerAt with
    | none => exact Bool.false_ne_true
    | some t0 => simpa using h t0 h0
  unfold powered
  rfl

theorem powered_t (mw : Nat) (s : State) : (powered mw s).t = s.t := rfl

theorem island_powered (mw : Nat) (s : State) {i : Nat} (hi : i < 256) :
    mget (powered mw s).islands i {} = powerStep s.pcap mw s.t (mget s.islands i {}) := by
  have h := mget?_foldl_mset (fun i => i) (fun i => powerStep s.pcap mw s.t (mget s.islands i {})) s.islands (l := List.range 256)
    (by rw [List.map_id']; exact List.nodup_range) (List.mem_range.2 hi)
  beta_reduce at h
  rw [powered, mget, h, Option.getD_some]

/-- The clock of a core island after an interval above the cap, and after one below 95 % of it. -/
theorem effMhz_powered {mw : Nat} {s : State} {i : Nat} (hi : i < 256) (hoff : s.off = false) (hcool : i / 8 ∉ s.colhot)
    (hlow : 1500 ≤ pointMhz (mget s.islands i {}) s.t) (hcut : 100 * (mget s.islands i {}).cut ≤ pointMhz (mget s.islands i {}) s.t - 1500) :
    (s.pcap * 1000 < mw → effMhz (powered mw s) i = max 1500 (effMhz s i - 100)) ∧
    (mw < s.pcap * 950 → effMhz (powered mw s) i = min (pointMhz (mget s.islands i {}) s.t) (effMhz s i + 100)) := by
  have hafter := effMhz_of_running (s := powered mw s) hi hoff hcool
  rw [island_powered mw s hi, powered_t, pointMhz_powerStep] at hafter
  rw [hafter, effMhz_of_running hi hoff hcool]
  exact ⟨fun h => cutMhz_powerStep_above h hlow, fun h => cutMhz_powerStep_below h hlow hcut⟩

/-- A supply and a clock that an island may be given. -/
theorem operatingPoint_iff (i mv mhz : Nat) : (i < 260 ∧ 0 < mhz ∧ (256 ≤ i ∨ mhz ≤ maxMhz mv)) ↔
    i < 260 ∧ 0 < mhz ∧ (256 ≤ i ∨ (350 ≤ mv ∧ mv ≤ 374 ∧ mhz ≤ 1500) ∨ (375 ≤ mv ∧ mv ≤ 399 ∧ mhz ≤ 1800) ∨ (400 ≤ mv ∧ mv ≤ 650 ∧ mhz ≤ 2100)) :=
  and_congr_right fun _ => and_congr_right fun h => or_congr_right (le_maxMhz_iff h)

theorem execOperatingPointChange_of_not {i mv mhz : Nat} (h : ¬ (i < 260 ∧ 0 < mhz ∧ (256 ≤ i ∨ mhz ≤ maxMhz mv))) (s : State) :
    execOperatingPointChange i mv mhz s = .next s := by
  rw [execOperatingPointChange, if_neg h]

/-- With no voltage to settle the new clock runs at once. -/
theorem execOperatingPointChange_of_settled {i mv mhz : Nat} (h : i < 260 ∧ 0 < mhz ∧ (256 ≤ i ∨ mhz ≤ maxMhz mv)) {s : State}
    (hmv : mv = (mget s.islands i {}).mv) (hset : settleLeft (mget s.islands i {}) s.t = 0) :
    execOperatingPointChange i mv mhz s = .next { s with islands := mset s.islands i { mget s.islands i {} with mhz := mhz, target := none } } := by
  rw [execOperatingPointChange, if_pos h]
  simp [hmv, hset]

/-- While a voltage settles, from now or from before, the new clock is one to come. -/
theorem execOperatingPointChange_of_settling {i mv mhz : Nat} (h : i < 260 ∧ 0 < mhz ∧ (256 ≤ i ∨ mhz ≤ maxMhz mv)) {s : State}
    (hset : mv ≠ (mget s.islands i {}).mv ∨ settleLeft (mget s.islands i {}) s.t ≠ 0) :
    execOperatingPointChange i mv mhz s = .next { s with islands := mset s.islands i { mget s.islands i {} with
      mv := mv, mhz := pointMhz (mget s.islands i {}) s.t, target := some mhz,
      since := if mv = (mget s.islands i {}).mv then (mget s.islands i {}).since else s.t } } := by
  rw [execOperatingPointChange, if_pos h]
  dsimp only
  rw [if_neg]
  rintro ⟨hmv, hzero⟩
  exact hset.elim (absurd hmv) fun hne => absurd (bne_eq_false_iff_eq.1 hzero) hne

theorem execOperatingPointSettle_of_target {s : State} {i m : Nat} (h : (mget s.islands i {}).target = some m) :
    execOperatingPointSettle i s = .next { s with islands := mset s.islands i { mget s.islands i {} with mhz := m, target := none } } := by
  simp [execOperatingPointSettle, h]

/-- Settles O50: each clause is the result of one step of the platform; the two that go over the bays are `columnTempRefresh_result` and `tripRecovery_result`. -/
theorem powerAndTemperatureResults : Obligations.PowerAndTemperatureResults := by
  unfold Obligations.PowerAndTemperatureResults
  intro top point col
  have hpoint : point = pointMhz := by
    funext x t
    cases h : x.target with
    | none => simp [point, h, pointMhz_of_none]
    | some m => simp [point, h, pointMhz_of_some h]
  clear_value point
  subst hpoint
  refine ⟨fun s rs t0 h0 ht => execColumnTempRefresh_of_early rs h0 ht, fun s rs hrs hdue => columnTempRefresh_result hrs hdue,
    fun s i hi hhot => effMhz_le_of_colhot hi hhot, fun s hst hcool => tripRecovery_result hst hcool, fun s h => execTripRecovery_of_hot h,
    fun s mw t0 h0 ht => execPowerInterval_of_early mw h0 ht, fun s mw hdue => ?power, fun s i mv mhz => ?change,
    fun s i m h => ⟨effMhz_le_pointMhz s i, execOperatingPointSettle_of_target h⟩⟩
  case power =>
    refine ⟨powered mw s, execPowerInterval_of_due mw hdue, rfl, rfl, rfl, fun i hi => ?_⟩
    rw [island_powered mw s hi]
    exact ⟨rfl, fun hlo hhi => powerStep_eq_self hlo hhi s.t _, effMhz_powered hi⟩
  case change =>
    rw [← operatingPoint_iff]
    have hset := settleLeft_ne_zero_iff (mget s.islands i {}) s.t
    refine ⟨fun h => execOperatingPointChange_of_not h s, fun h hmv hns => execOperatingPointChange_of_settled h hmv ?_,
      fun h hs => execOperatingPointChange_of_settling h (hs.imp_right hset.2)⟩
    exact not_not.1 fun hne => hns (hset.1 hne)

end Sys2Proof.Machine
end

/-!
Privileged words without privilege (R305, R346; O28). A precise fault of a whole issue is two rewrites of its course, the end of the issue and the hold
of its lanes, with the record put into the core's buffer between them: `issueFault_recorded`.
-/

section
namespace Sys2Proof.Machine

/-- A record put into the buffer of a core. -/
def Core.record (r : FaultRec) (co : Core) : Core := { co with recs := co.recs ++ [r] }

/-- A record in the core's buffer stands beside a course rewritten there. -/
theorem OnlyCourse.record {s t : State} {c k : Nat} (h : OnlyCourse s t c k) (r : FaultRec) :
    OnlyCourse (s.updCore c (Core.record r)) (t.updCore c (Core.record r)) c k where
  package := by
    calc { t.updCore c (Core.record r) with cores := (s.updCore c (Core.record r)).cores }
        = { { t with cores := s.cores } with cores := (s.updCore c (Core.record r)).cores } := rfl
      _ = s.updCore c (Core.record r) := by rw [h.package]; rfl
  cores := fun d hd => by simp [hd, h.cores d hd]
  core := by
    have hc := h.core
    have hr : (t.core c).recs = (s.core c).recs := by
      rw [← hc]
    simp only [State.core_updCore, if_true, Core.record, hr]
    calc _ = { { t.core c with courses := (s.core c).courses } with recs := (s.core c).recs ++ [r] } := rfl
      _ = _ := by rw [hc]
  courses := fun j hj => by simpa [State.course?, Core.record] using h.courses j hj
  bytes := h.bytes

theorem course?_record (s : State) (c k : Nat) (r : FaultRec) : (s.updCore c (Core.record r)).course? c k = s.course? c k := by
  simp [State.course?, Core.record]

/-- R337, R339: a precise fault of lanes of a course, with room in the record buffer and not of a reserved course. -/
theorem takeFault_recorded {s : State} {c k : Nat} {x : Course} {r : FaultRec} (hx : s.course? c k = some x) (hk : k < 510) (hr : r.cont = false)
    (hroom : (s.core c).recs.length < 16) (pc next : W64) (lanes : List Nat) :
    takeFault s c k pc next lanes r = (s.updCore c (Core.record (threadRec s c k pc lanes r))).updCourse c k
      (·.mapLanes (fun l ln => if l ∈ lanes then { ln with st := .held next, pc := pc } else ln)) := by
  have h510 : ¬ 510 ≤ k := by omega
  simp [takeFault, hx, h510, hr, recRoom, hroom]
  rfl

/-- The lanes of the mask held after an issue that changed none of them: what an issue leaves (R24, R65, R67, R337). -/
theorem courseAfter_held (s : State) (iss : Issue) (uset : Bool) (x : Course) :
    CourseAfter s iss uset x.u x ((endCourse s.t iss uset (fun _ ln => ln) x).mapLanes
      (fun l ln => if l ∈ iss.mask then { ln with st := .held iss.next, pc := iss.pc } else ln)) (fun _ ln => { ln with st := .held iss.next, pc := iss.pc }) where
  lane := fun l hl => by
    rw [Course.lane_mapLanes _ _ hl, (courseAfter_endCourse s iss uset (fun _ ln => ln) x).lane l hl]
    by_cases hm : l ∈ iss.mask <;> simp [laneAfter, hm]
  wins := (courseAfter_endCourse s iss uset (fun _ ln => ln) x).wins
  times := (courseAfter_endCourse s iss uset (fun _ ln => ln) x).times
  rest := rfl

/-- A precise fault of a whole issue of a course, with room for its record (R24, R65, R337). -/
theorem issueFault_recorded {s : State} {iss : Issue} {c k : Nat} {x : Course} {r : FaultRec} (h : CourseIssues s iss c k x) (hk : k < 510)
    (hcont : r.cont = false) (hroom : (s.core c).recs.length < 16) :
    ∃ (y : Course) (fr : FaultRec), (issueFault s iss iss.mask r).course? c k = some y ∧
      fr.code = r.code ∧ fr.pc = iss.pc ∧ fr.held = !r.async ∧ fr.blk = x.blk ∧
      OnlyCourse (s.updCore c (Core.record fr)) (issueFault s iss iss.mask r) c k ∧
      CourseAfter s iss (iss.word.getLsbD 31) x.u x y (fun _ ln => { ln with st := .held iss.next, pc := iss.pc }) := by
  obtain ⟨-, hwho, hx⟩ := h
  let s1 := s.updCourse c k (endCourse s.t iss (iss.word.getLsbD 31) (fun _ ln => ln))
  have hx1 : s1.course? c k = some (endCourse s.t iss (iss.word.getLsbD 31) (fun _ ln => ln) x) := by simp [s1, hx]
  have hroom1 : (s1.core c).recs.length < 16 := by
    rwa [← State.core_updCourse_rest s c k (endCourse s.t iss (iss.word.getLsbD 31) (fun _ ln => ln))] at hroom
  have hf : issueFault s iss iss.mask r = takeFault s1 c k iss.pc iss.next iss.mask r := by
    simp [issueFault, hwho, hcont, faultRoom, recRoom, hroom, faultLanes, s1]
  rw [hf, takeFault_recorded hx1 hk hcont hroom1]
  refine ⟨_, threadRec s1 c k iss.pc iss.mask r, ?_, rfl, rfl, ?_, ?_, ?_, courseAfter_held s iss _ x⟩
  · rw [State.course?_updCourse_self, course?_record, hx1]; rfl
  · simp [threadRec, hcont]
  · simp [threadRec, hx1, endCourse]
  · exact ((onlyCourse_updCourse s c k _).record _).trans (onlyCourse_updCourse _ c k _)

/-- A privileged word of a course without privilege (R305, R346). -/
theorem pword_noPriv {s : State} {iss : Issue} {c k : Nat} {x : Course} {q : Guard} (h : CourseIssues s iss c k x) (hq : x.u.rq q = true)
    (hp : x.prv = false) (m : Issue → Nat → Nat → State) : pword s q m = .next (issueFault s iss iss.mask (encRec iss 0x03 0)) := by
  rw [pword_course h, if_pos hq, hp, if_neg Bool.false_ne_true, noPriv]

/-- Settles O28: every word of the list is a `pword`, and one without privilege is a fault of its whole issue. -/
theorem privilegedWordsFault : Obligations.PrivilegedWordsFault := by
  unfold Obligations.PrivilegedWordsFault
  intro q i hi s iss c k x h hq hp hk hroom
  have hexec : exec i s = .next (issueFault s iss iss.mask (encRec iss 0x03 0)) := by
    rcases hi with ⟨d, a, rfl⟩ | rfl | ⟨a, b, rfl⟩ | ⟨a, b, rfl⟩ | ⟨a, b, rfl⟩ | ⟨d, rfl⟩ | ⟨d, a, b, rfl⟩ | ⟨d, a, b, rfl⟩ | ⟨d, a, rfl⟩ |
      ⟨d, a, b, rfl⟩ | ⟨a, b, rfl⟩ | ⟨a, b, rfl⟩ | rfl
    all_goals exact pword_noPriv h hq hp _
  obtain ⟨y, r, hy, hcode, hpc, hheld, hblk, honly, hafter⟩ := issueFault_recorded (r := encRec iss 0x03 0) h hk rfl hroom
  exact ⟨_, y, r, hexec, hy, hcode, hpc, hheld, hblk, honly, hafter⟩

end Sys2Proof.Machine
end

/-!
Barriers (R37, R38, R211, R213, R277; O15). Three layers: what one phase does to the lanes that wait (`lane_phaseCourses`), what one arrival does to its
block (`block?_arrive`, `lane_arrive`), and the gather, which moves its lanes (`Gathers.moves`) and then queues its arrival (`Gathers.queues`) or applies
it at once (`ArrivalStands.applies`).
-/

section
namespace Sys2Proof.Machine

/-! ## Blocks and courses of one core side by side -/

@[simp] theorem State.block?_updCourse (s : State) (c k c' b : Nat) (f : Course → Course) : (s.updCourse c k f).block? c' b = s.block? c' b := by
  unfold State.updCourse State.setCourse State.block?
  split
  · rw [State.core_setCore]; split <;> simp_all
  · rfl
@[simp] theorem State.course?_setBlock (s : State) (c b c' k : Nat) (x : Block) : (s.setBlock c b x).course? c' k = s.course? c' k := by
  unfold State.setBlock State.course?
  rw [State.core_setCore]; split <;> simp_all
@[simp] theorem State.course?_updBlock (s : State) (c b c' k : Nat) (f : Block → Block) : (s.updBlock c b f).course? c' k = s.course? c' k := by
  unfold State.updBlock; split
  · exact State.course?_setBlock s c b c' k _
  · rfl
@[simp] theorem State.lane_setBlock (s : State) (c b c' k l : Nat) (x : Block) : (s.setBlock c b x).lane c' k l = s.lane c' k l := by
  rw [State.lane, State.course?_setBlock]; rfl
@[simp] theorem State.lane_updBlock (s : State) (c b c' k l : Nat) (f : Block → Block) : (s.updBlock c b f).lane c' k l = s.lane c' k l := by
  rw [State.lane, State.course?_updBlock]; rfl
@[simp] theorem State.coreT_updBlock (s : State) (c b d : Nat) (f : Block → Block) : (s.updBlock c b f).coreT d = s.coreT d := by
  simp [State.coreT, State.unitT]
@[simp] theorem State.coreT_updCourse (s : State) (c k d : Nat) (f : Course → Course) : (s.updCourse c k f).coreT d = s.coreT d := by
  simp [State.coreT, State.unitT]
theorem State.updBlock_of_some {s : State} {c b : Nat} {bl : Block} (h : s.block? c b = some bl) (f : Block → Block) :
    s.updBlock c b f = s.setBlock c b (f bl) := by rw [State.updBlock, h]
theorem State.setBlock_setBlock (s : State) (c b : Nat) (x y : Block) : ((s.setBlock c b x).setBlock c b y).block? c b = some y := by
  rw [State.block?_setBlock, if_pos ⟨rfl, rfl⟩]

/-- One function over the lanes of a course, one that leaves an absent lane as it is. -/
theorem State.lane_updCourse_mapLanes (s : State) (c j k : Nat) {f : Nat → Lane → Lane} {l : Nat} (hl : l < 8) (hf : f l {} = {}) :
    (s.updCourse c j (·.mapLanes f)).lane c k l = if k = j then f l (s.lane c k l) else s.lane c k l := by
  rw [State.lane, State.course?_updCourse]
  by_cases hk : k = j
  · subst hk
    rw [if_pos ⟨rfl, rfl⟩, if_pos rfl, State.lane]
    cases s.course? c k with
    | none => exact hf.symm
    | some x => exact Course.lane_mapLanes x f hl
  · rw [if_neg (fun h => hk h.2), if_neg hk, State.lane]

/-! ## Phases (R38, R211) -/

/-- Barrier n of a block replaced. -/
def Block.setBar (bl : Block) (n : Nat) (x : Barrier) : Block := { bl with bars := mset bl.bars n x }

theorem Block.bar_setBar (bl : Block) (n m : Nat) (x : Barrier) : (bl.setBar n x).bar m = if m = n then x else bl.bar m := by
  simp [Block.bar, Block.setBar, mget_mset]
@[simp] theorem Block.bar_setBar_self (bl : Block) (n : Nat) (x : Barrier) : (bl.setBar n x).bar n = x := by simp [Block.bar_setBar]

/-- A barrier after one arrival. -/
def Barrier.counted (x : Barrier) : Barrier := { x with count := x.count + 1 }
/-- A barrier after one phase. -/
def Barrier.phased (x : Barrier) : Barrier := { x with count := x.count - x.expect.setWidth 32, phase := x.phase + 1 }
/-- A phase of barrier n is to complete: completion is not deferred, and COUNT reaches EXPECT, which is not 0 (R211, R330; log 100). -/
def Block.Full (bl : Block) (n : Nat) : Prop := bl.deferred = false ∧ (bl.bar n).expect ≠ 0 ∧ (bl.bar n).expect.toNat ≤ (bl.bar n).count.toNat

/-- The lanes of courses ks that wait on barrier n go on. -/
def phaseCourses (s : State) (c n : Nat) (ks : List Nat) : State :=
  ks.foldl (fun s k => s.updCourse c k (·.mapLanes (fun _ ln => phaseLane n s.nextAcc ln))) s

theorem completePhase_of_full {s : State} {c b n : Nat} {bl : Block} (h : s.block? c b = some bl) (hf : bl.Full n) :
    completePhase s c b n = phaseCourses (s.setBlock c b (bl.setBar n (bl.bar n).phased)) c n bl.slots := by
  obtain ⟨hd, he, hc⟩ := hf
  have hgo : ¬ ((bl.deferred || decide ((bl.bar n).expect = 0) || decide ((bl.bar n).count.toNat < (bl.bar n).expect.toNat)) = true) := by
    simp [hd, hc]
    exact he
  rw [completePhase, h]
  exact if_neg hgo
theorem completePhase_of_not_full {s : State} {c b n : Nat} {bl : Block} (h : s.block? c b = some bl) (hf : ¬ bl.Full n) :
    completePhase s c b n = s := by
  simp only [completePhase, h]
  rw [if_pos]
  by_contra hne
  refine hf ⟨?_, ?_, ?_⟩
  all_goals simp_all

theorem phaseLane_of_phase {n a : Nat} {ln : Lane} {next : W64} (h : ln.st = .phase n next) :
    phaseLane n a ln = { ln with st := .ready, pc := next, acq := a } := by
  simp [phaseLane, h]
theorem phaseLane_of_ne {n a : Nat} {ln : Lane} (h : ∀ next, ln.st ≠ .phase n next) : phaseLane n a ln = ln := by
  unfold phaseLane
  split
  · rename_i m next hst
    exact if_neg fun (hm : m = n) => h next (hm ▸ hst)
  · rfl
theorem phaseLane_idem (n a : Nat) (ln : Lane) : phaseLane n a (phaseLane n a ln) = phaseLane n a ln := by
  by_cases h : ∃ next, ln.st = .phase n next
  · obtain ⟨next, h⟩ := h
    rw [phaseLane_of_phase h, phaseLane_of_ne (by simp)]
  · rw [phaseLane_of_ne fun next hn => h ⟨next, hn⟩, phaseLane_of_ne fun next hn => h ⟨next, hn⟩]

@[simp] theorem block?_phaseCourses (s : State) (c n : Nat) (ks : List Nat) (c' b : Nat) : (phaseCourses s c n ks).block? c' b = s.block? c' b :=
  List.foldlRecOn (motive := fun t : State => t.block? c' b = s.block? c' b) ks _ rfl fun t ht k _ => by simp [ht]

theorem lane_phaseCourses (s : State) (c n k : Nat) (ks : List Nat) {l : Nat} (hl : l < 8) :
    (phaseCourses s c n ks).lane c k l = if k ∈ ks then phaseLane n s.nextAcc (s.lane c k l) else s.lane c k l := by
  induction ks generalizing s with
  | nil => simp [phaseCourses]
  | cons j ks ih =>
    have hstep : phaseCourses s c n (j :: ks) = phaseCourses (s.updCourse c j (·.mapLanes (fun _ ln => phaseLane n s.nextAcc ln))) c n ks := rfl
    rw [hstep, ih, State.lane_updCourse_mapLanes s c j k hl (by rfl), State.updCourse_nextAcc]
    by_cases hj : k = j
    · rw [if_pos hj, phaseLane_idem, ite_self, if_pos (hj ▸ List.mem_cons_self)]
    · rw [if_neg hj]
      simp [hj]

/-! ## Arrivals (R38, R211, R277) -/

/-- An arrival at a block that holds its barriers itself. -/
theorem arrive_live {s : State} {c b : Nat} {bl : Block} (h : s.block? c b = some bl) (hdir : bl.dir = none) (hst : bl.st ≠ .swapped) (n : Nat) :
    arrive s c b n = completePhase (s.setBlock c b (bl.setBar n (bl.bar n).counted)) c b n := by
  rw [arrive, h]
  simp only
  rw [hdir]
  simp only
  rw [if_neg hst, arriveLive, State.updBlock_of_some h]
  rfl

/-- A phase is to complete with the next arrival at barrier n. -/
def Block.FullNext (bl : Block) (n : Nat) : Prop :=
  bl.deferred = false ∧ (bl.bar n).expect ≠ 0 ∧ (bl.bar n).expect.toNat ≤ ((bl.bar n).count + 1).toNat

theorem Block.full_counted_iff (bl : Block) (n : Nat) : (bl.setBar n (bl.bar n).counted).Full n ↔ bl.FullNext n := by
  simp [Block.Full, Block.FullNext, Barrier.counted, Block.setBar, Block.bar]

theorem arrive_of_not_full {s : State} {c b n : Nat} {bl : Block} (h : s.block? c b = some bl) (hdir : bl.dir = none) (hst : bl.st ≠ .swapped)
    (hf : ¬ bl.FullNext n) : arrive s c b n = s.setBlock c b (bl.setBar n (bl.bar n).counted) := by
  rw [arrive_live h hdir hst, completePhase_of_not_full (bl := bl.setBar n (bl.bar n).counted)]
  · rw [State.block?_setBlock, if_pos ⟨rfl, rfl⟩]
  · rwa [Block.full_counted_iff]
theorem arrive_of_full {s : State} {c b n : Nat} {bl : Block} (h : s.block? c b = some bl) (hdir : bl.dir = none) (hst : bl.st ≠ .swapped)
    (hf : bl.FullNext n) : ∃ u, u.nextAcc = s.nextAcc ∧ (∀ k l, u.lane c k l = s.lane c k l) ∧
      u.block? c b = some ((bl.setBar n (bl.bar n).counted).setBar n (bl.bar n).counted.phased) ∧ arrive s c b n = phaseCourses u c n bl.slots := by
  rw [arrive_live h hdir hst, completePhase_of_full (bl := bl.setBar n (bl.bar n).counted)]
  · refine ⟨_, ?_, fun k l => ?_, ?_, rfl⟩
    · rfl
    · simp
    · rw [State.setBlock_setBlock, Block.bar_setBar_self]
  · rw [State.block?_setBlock, if_pos ⟨rfl, rfl⟩]
  · rwa [Block.full_counted_iff]

/-- The lanes of a core after an arrival at a barrier of one of its blocks. -/
theorem lane_arrive {s : State} {c b n : Nat} {bl : Block} (h : s.block? c b = some bl) (hdir : bl.dir = none) (hst : bl.st ≠ .swapped)
    (k : Nat) {l : Nat} (hl : l < 8) : (bl.FullNext n ∧ k ∈ bl.slots → (arrive s c b n).lane c k l = phaseLane n s.nextAcc (s.lane c k l)) ∧
      (¬ (bl.FullNext n ∧ k ∈ bl.slots) → (arrive s c b n).lane c k l = s.lane c k l) := by
  by_cases hf : bl.FullNext n
  · obtain ⟨u, hu, hlane, -, hrun⟩ := arrive_of_full h hdir hst hf
    rw [hrun, lane_phaseCourses u c n k _ hl, hu, hlane]
    exact ⟨fun hk => if_pos hk.2, fun hk => if_neg fun hm => hk ⟨hf, hm⟩⟩
  · rw [arrive_of_not_full h hdir hst hf]
    exact ⟨fun hk => absurd hk.1 hf, fun _ => by simp⟩

/-- The block after an arrival: its barrier has one arrival more, and so one phase where that is due; nothing else of the block changes. -/
theorem block?_arrive {s : State} {c b n : Nat} {bl : Block} (h : s.block? c b = some bl) (hdir : bl.dir = none) (hst : bl.st ≠ .swapped) :
    ∃ bl', (arrive s c b n).block? c b = some bl' ∧ bl'.arrivals = bl.arrivals ∧ (∀ m, m ≠ n → bl'.bar m = bl.bar m) ∧
      (bl.FullNext n → bl'.bar n = (bl.bar n).counted.phased) ∧ (¬ bl.FullNext n → bl'.bar n = (bl.bar n).counted) := by
  by_cases hf : bl.FullNext n
  · obtain ⟨u, -, -, hb, hrun⟩ := arrive_of_full h hdir hst hf
    have hbl : (arrive s c b n).block? c b = some ((bl.setBar n (bl.bar n).counted).setBar n (bl.bar n).counted.phased) := by
      rw [hrun, block?_phaseCourses, hb]
    refine ⟨_, hbl, rfl, fun m hm => ?_, fun _ => Block.bar_setBar_self _ n _, fun hn => absurd hf hn⟩
    rw [Block.bar_setBar, if_neg hm, Block.bar_setBar, if_neg hm]
  · have hbl : (arrive s c b n).block? c b = some (bl.setBar n (bl.bar n).counted) := by
      rw [arrive_of_not_full h hdir hst hf, State.block?_setBlock, if_pos ⟨rfl, rfl⟩]
    refine ⟨_, hbl, rfl, fun m hm => ?_, fun hn => absurd hn hf, fun _ => Block.bar_setBar_self _ n _⟩
    rw [Block.bar_setBar, if_neg hm]



/-! ## The gather (R37, R213, R277) -/

/-- R213: a course with a ready lane does not gather. -/
theorem gatherCheck_of_ready {s : State} {c k : Nat} {co : Course} (hco : s.course? c k = some co) {l : Nat} (hl : l < 8)
    (hr : (co.lane l).st = .ready) : gatherCheck s c k = s := by
  rw [gatherCheck, hco]
  refine if_pos ?_
  rw [Bool.or_eq_true, Bool.not_eq_true']
  exact .inr (List.all_eq_false.2 ⟨l, by simp [hl, Lane.live, hr], by simp [hr]⟩)

/-- R213: a course all of whose live lanes wait at one barrier instruction gathers. -/
theorem gatherCheck_of_all {s : State} {c k : Nat} {co : Course} {ls : List Nat} {pc : W64} {r : BarRef} (hco : s.course? c k = some co)
    (hls : (List.range 8).filter (fun l => (co.lane l).live) = ls) (hne : ls ≠ [])
    (hst : ∀ l ∈ ls, (co.lane l).st = .barrier r ∧ (co.lane l).pc = pc) : gatherCheck s c k = gather s c k co ls pc r := by
  obtain ⟨a, as, rfl⟩ := List.exists_cons_of_ne_nil hne
  obtain ⟨ha, hapc⟩ := hst a List.mem_cons_self
  rw [gatherCheck, hco]
  simp only [hls]
  refine (if_neg ?_).trans ?_
  · rw [Bool.or_eq_true, not_or, Bool.not_eq_true', Bool.not_eq_false]
    exact ⟨by simp, List.all_eq_true.2 fun l hl => by simp [(hst l hl).1]⟩
  · simp only [List.headD_cons, ha, hapc]
    exact if_pos (List.all_eq_true.2 fun l hl => by simp [(hst l hl).2])

/-- What gathering makes of a lane (R37, R213). -/
def gatheredLane (r : BarRef) (n : Nat) (ln : Lane) : Lane :=
  match r.kind with
  | .a => { ln with st := .ready, pc := r.next }
  | .w => { ln with st := .phase n r.next }
  | .aw => { ln with st := .arriving n r.next }
/-- The lanes of a gathered course moved. -/
def gatheredCourse (lanes : List Nat) (r : BarRef) (n : Nat) (co : Course) : Course :=
  co.mapLanes (fun l ln => if lanes.contains l then gatheredLane r n ln else ln)
/-- The arrival of a course gathered at an own barrier, whose lanes have moved in s (R277). -/
def ownArrival (s : State) (c k : Nat) (lanes : List Nat) (rank n : Nat) : Arrival :=
  { slot := k, lanes := lanes, rank := rank, bar := n, scope := 3, bound := s.nextAcc, issBound := s.nextIss,
    hor := lanes.foldl (fun h l => Nat.max h ((s.lane c k l).hor.at 3)) 0 }

/-- R37, R213: the gather at a barrier that the word numbers, of the course's own block. -/
theorem gather_own {s : State} {c k : Nat} {co : Course} {bl : Block} {r : BarRef} (hb : s.block? c co.blk = some bl) (hs : r.sreg = false)
    (hp : r.peer = false) (hn : r.num < bl.nbar) (lanes : List Nat) (pc : W64) :
    gather s c k co lanes pc r = (let u := s.updCourse c k (gatheredCourse lanes r r.num)
      if r.kind = .w then u
      else applyArrival (u.updBlock c co.blk (fun b => { b with arrivals := b.arrivals ++ [ownArrival u c k lanes bl.rank r.num] })) c co.blk k) := by
  have hnum : barNum co r = r.num := by simp [barNum, hs]
  have hn' : ¬ bl.nbar ≤ r.num := by omega
  simp only [gather, hnum, hb, hp, Option.getD_some, Bool.false_and, Bool.false_eq_true, if_false, if_neg hn', if_true]
  rfl

theorem arrivedLane_of_arriving {n : Nat} {ln : Lane} {next : W64} (h : ln.st = .arriving n next) : arrivedLane n ln = { ln with st := .phase n next } := by
  simp [arrivedLane, h]
theorem arrivedLane_of_ready {n : Nat} {ln : Lane} (h : ln.st = .ready) : arrivedLane n ln = ln := by
  simp [arrivedLane, h]

/-- R277: the course's arrival waits, with the release of a lane's access still to come. -/
theorem applyArrival_of_waits {s : State} {c b k : Nat} {bl : Block} {x : Arrival} (hb : s.block? c b = some bl) (hx : bl.arrivals = [x])
    (hk : x.slot = k) (hr : arrivalReady s c x = false) : applyArrival s c b k = s := by
  simp [applyArrival, hb, hx, hk, hr]
/-- R211, R277: the course's arrival at a barrier of its own block is applied. -/
theorem applyArrival_of_ready {s : State} {c b k : Nat} {bl : Block} {x : Arrival} (hb : s.block? c b = some bl) (hx : bl.arrivals = [x])
    (hk : x.slot = k) (hr : arrivalReady s c x = true) (hrank : x.rank = bl.rank) :
    applyArrival s c b k = arrive ((s.setBlock c b { bl with arrivals := [] }).updCourse c k
      (·.mapLanes (fun l ln => if x.lanes.contains l then arrivedLane x.bar ln else ln))) c b x.bar := by
  simp [applyArrival, hb, hx, hk, hr, hrank]

theorem foldl_natMax_le_iff (f : Nat → Nat) (l : List Nat) (m n : Nat) : l.foldl (fun h g => Nat.max h (f g)) m ≤ n ↔ m ≤ n ∧ ∀ g ∈ l, f g ≤ n := by
  induction l generalizing m with
  | nil => simp
  | cons g l ih => rw [List.foldl_cons, ih, Nat.max_le, and_assoc, List.forall_mem_cons]

/-- R277: an access of a gathered lane is outstanding. -/
def LaneAccessOut (s : State) (c k : Nat) (lanes : List Nat) : Prop := ∃ a ∈ s.accs, a.id < s.nextAcc ∧ ∃ l ∈ lanes, a.ag = .thread c k l

theorem arrivalReady_of_out {s : State} {c k : Nat} {x : Arrival} (hk : x.slot = k) (hb : x.bound = s.nextAcc) (h : LaneAccessOut s c k x.lanes) :
    arrivalReady s c x = false := by
  obtain ⟨a, ha, hid, l, hl, hag⟩ := h
  unfold arrivalReady
  simp only [Bool.and_eq_false_iff, Bool.not_eq_false']
  exact .inl (.inl (List.any_eq_true.2 ⟨a, ha, by simp [hag, hk, hl, hb, hid]⟩))
theorem arrivalReady_of_clear {s : State} {c k : Nat} {x : Arrival} {co : Course} (hk : x.slot = k) (hb : x.bound = s.nextAcc)
    (h : ¬ LaneAccessOut s c k x.lanes) (hco : s.course? c k = some co) (hops : ∀ o ∈ co.accOps, x.issBound ≤ o.iss) (hhor : x.hor ≤ s.coreT c) :
    arrivalReady s c x = true := by
  unfold arrivalReady
  simp only [Bool.and_eq_true, Bool.not_eq_true', decide_eq_true_eq]
  refine ⟨⟨?_, ?_⟩, hhor⟩
  · refine List.any_eq_false.2 fun a ha hm => h ⟨a, ha, ?_⟩
    cases hag : a.ag with
    | thread c' k' l =>
      simp only [hag, Bool.and_eq_true, beq_iff_eq, List.contains_iff_mem, decide_eq_true_eq, hb] at hm
      obtain ⟨⟨⟨rfl, hk'⟩, hl⟩, hid⟩ := hm
      exact ⟨hid, l, hl, by rw [hk', hk]⟩
    | _ => simp [hag] at hm
  · rw [hk, hco, Option.getD_some]
    refine List.any_eq_false.2 fun o ho hm => ?_
    have := hops o ho
    simp only [decide_eq_true_eq] at hm
    omega

/-! ## A course at a barrier instruction (R37, R212, R213) -/

/-- The barrier instruction as its lanes hold it (R212). -/
def barRefOf (kind : BarKind) (iss : Issue) (sr p : BitVec 1) (r : BitVec 3) (n : BitVec 12) : BarRef :=
  { kind := kind, sreg := sr == 1, peer := p == 1, rank := r.toNat, num := if sr = 1 then n.toNat / 64 else n.toNat, pos := iss.pos, next := iss.next }
/-- What a barrier instruction makes of a lane of its issue, before the gather. -/
def barLane (ref : BarRef) (g : Guard) (iss : Issue) (ln : Lane) : Lane :=
  if ln.rp g then { ln with st := .barrier ref } else { ln with pc := iss.next }

/-- While a lane of the course stays ready, the active lanes wait at the instruction. -/
theorem barWord1_of_ready {kind : BarKind} {g : Guard} {sr p : BitVec 1} {r : BitVec 3} {n : BitVec 12} {s : State} {iss : Issue} {c k : Nat} {x : Course}
    (h : CourseIssues s iss c k x) {l : Nat} (hl : l < 8) (hst : (x.lane l).st = .ready) (hg : l ∉ iss.mask ∨ (x.lane l).rp g = false) :
    ∃ t y, barWord1 kind g sr p r n s = .next t ∧ OnlyCourse s t c k ∧ t.course? c k = some y ∧
      CourseAfter s iss false x.u x y (fun _ => barLane (barRefOf kind iss sr p r n) g iss) := by
  rw [barWord1, lword_course h]
  by_cases ha : (activeLanes s iss g).isEmpty = true
  · rw [if_pos ha]
    obtain ⟨honly, hy⟩ := skip_course h false
    exact ⟨_, _, rfl, honly, hy, (courseAfter_endCourse s iss false _ x).congr fun l _ hlm => by rw [barLane, if_neg (by simp [noActive h ha hlm])]⟩
  · rw [if_neg ha]
    obtain ⟨honly, hy⟩ := endIssue_course h.2.1 h.2.2 false (fun _ => barLane (barRefOf kind iss sr p r n) g iss) iss.next
    have hafter := courseAfter_endCourse s iss false (fun _ => barLane (barRefOf kind iss sr p r n) g iss) x
    have hready : ((endCourse s.t iss false (fun _ => barLane (barRefOf kind iss sr p r n) g iss) x).lane l).st = .ready := by
      rw [hafter.lane l hl, laneAfter]
      split
      · rename_i hm
        simp [barLane, hg.resolve_left (not_not_intro hm), hst]
      · split <;> exact hst
    refine ⟨_, _, congrArg _ (gatherCheck_of_ready hy hl hready), honly, hy, hafter⟩

/-- A course gathers with this issue at barrier n of its block: every lane of the mask is active, every other has exited (R37, R213). -/
structure Gathers (s : State) (g : Guard) (n : Nat) (iss : Issue) (c k : Nat) (x : Course) (bl : Block) : Prop where
  issues : CourseIssues s iss c k x
  block : s.block? c x.blk = some bl
  bar : n < bl.nbar
  arrivals : bl.arrivals = []
  someLane : iss.mask ≠ []
  mask : ∀ l ∈ iss.mask, l < 8 ∧ (x.lane l).rp g = true ∧ (x.lane l).pc = iss.pc
  others : ∀ l, l < 8 → l ∉ iss.mask → (x.lane l).st = .exited

/-- The lanes of a gather, in ascending order. -/
def gatherLanes (iss : Issue) : List Nat := (List.range 8).filter (· ∈ iss.mask)

section
variable {s : State} {g : Guard} {n : Nat} {iss : Issue} {c k : Nat} {x : Course} {bl : Block}

theorem Gathers.mem_lanes (h : Gathers s g n iss c k x bl) {l : Nat} : l ∈ gatherLanes iss ↔ l ∈ iss.mask := by
  simp only [gatherLanes, List.mem_filter, List.mem_range, decide_eq_true_eq]
  exact ⟨fun hl => hl.2, fun hl => ⟨(h.mask l hl).1, hl⟩⟩

/-- The issue that brings a course to a gather, with its lanes moved. -/
def gatherState (s : State) (g : Guard) (iss : Issue) (c k : Nat) (ref : BarRef) : State :=
  (endIssue s iss false (fun _ => barLane ref g iss) iss.next).updCourse c k (gatheredCourse (gatherLanes iss) ref ref.num)

/-- The gather moves the lanes of the mask and nothing else (R37, R213). -/
theorem Gathers.moves (h : Gathers s g n iss c k x bl) (ref : BarRef) :
    OnlyCourse s (gatherState s g iss c k ref) c k ∧ ∃ y, (gatherState s g iss c k ref).course? c k = some y ∧
      CourseAfter s iss false x.u x y (fun _ => gatheredLane ref ref.num) := by
  obtain ⟨honly, hy⟩ := endIssue_course h.issues.2.1 h.issues.2.2 false (fun _ => barLane ref g iss) iss.next
  have hafter := courseAfter_endCourse s iss false (fun _ => barLane ref g iss) x
  have hmoved : (gatherState s g iss c k ref).course? c k =
      some (gatheredCourse (gatherLanes iss) ref ref.num (endCourse s.t iss false (fun _ => barLane ref g iss) x)) := by
    rw [gatherState, State.course?_updCourse_self, hy, Option.map_some]
  refine ⟨honly.trans (onlyCourse_updCourse _ c k _), _, hmoved, fun l hl => ?_, hafter.wins, hafter.times, rfl⟩
  rw [gatheredCourse, Course.lane_mapLanes _ _ hl, hafter.lane l hl]
  by_cases hm : l ∈ iss.mask
  · have hlane : barLane ref g iss (x.lane l) = { x.lane l with st := .barrier ref } := if_pos (h.mask l hm).2.1
    rw [if_pos (by simpa using h.mem_lanes.2 hm), laneAfter, if_pos hm, laneAfter, if_pos hm, hlane]
    unfold gatheredLane
    cases ref.kind <;> rfl
  · rw [if_neg (by simpa using mt h.mem_lanes.1 hm), laneAfter, if_neg hm, laneAfter, if_neg hm]

/-- The lanes of a gather are the live ones of the course. -/
theorem Gathers.live (h : Gathers s g n iss c k x bl) (ref : BarRef) :
    (List.range 8).filter (fun l => ((endCourse s.t iss false (fun _ => barLane ref g iss) x).lane l).live) = gatherLanes iss := by
  refine List.filter_congr fun l hl => ?_
  rw [(courseAfter_endCourse s iss false (fun _ => barLane ref g iss) x).lane l (List.mem_range.1 hl), laneAfter]
  by_cases hm : l ∈ iss.mask
  · simp [hm, barLane, (h.mask l hm).2.1, Lane.live]
  · simp [hm, Lane.live, Lane.isReady, h.others l (List.mem_range.1 hl) hm]

/-- The gather at one instruction: BAR.W ends with it, the others arrive (R37, R213). -/
theorem Gathers.exec {n : BitVec 12} (h : Gathers s g n.toNat iss c k x bl) (kind : BarKind) (r : BitVec 3) :
    barWord1 kind g 0 0 r n s = .next (let u := gatherState s g iss c k (barRefOf kind iss 0 0 r n)
      if kind = .w then u
      else applyArrival (u.updBlock c x.blk (fun b => { b with arrivals := b.arrivals ++ [ownArrival u c k (gatherLanes iss) bl.rank n.toNat] })) c x.blk k) := by
  obtain ⟨l, ls, hls⟩ := List.exists_cons_of_ne_nil h.someLane
  have hl : l ∈ iss.mask := hls ▸ List.mem_cons_self
  have hact : ¬ (activeLanes s iss g).isEmpty = true := fun he => by
    have := noActive h.issues he hl
    rw [(h.mask l hl).2.1] at this
    cases this
  obtain ⟨honly, hy⟩ := endIssue_course h.issues.2.1 h.issues.2.2 false (fun _ => barLane (barRefOf kind iss 0 0 r n) g iss) iss.next
  have hafter := courseAfter_endCourse s iss false (fun _ => barLane (barRefOf kind iss 0 0 r n) g iss) x
  have hblock : (endIssue s iss false (fun _ => barLane (barRefOf kind iss 0 0 r n) g iss) iss.next).block? c x.blk = some bl := by
    rw [endIssue, h.issues.2.1]
    exact (State.block?_updCourse s c k c x.blk _).trans h.block
  have hat : ∀ l ∈ gatherLanes iss, ((endCourse s.t iss false (fun _ => barLane (barRefOf kind iss 0 0 r n) g iss) x).lane l).st = .barrier (barRefOf kind iss 0 0 r n) ∧
      ((endCourse s.t iss false (fun _ => barLane (barRefOf kind iss 0 0 r n) g iss) x).lane l).pc = iss.pc := fun l hl => by
    obtain ⟨h8, hg, hpc⟩ := h.mask l (h.mem_lanes.1 hl)
    rw [hafter.lane l h8, laneAfter, if_pos (h.mem_lanes.1 hl), barLane, if_pos hg]
    exact ⟨rfl, hpc⟩
  rw [barWord1, lword_course h.issues, if_neg hact]
  refine congrArg _ ((gatherCheck_of_all hy (h.live _) (List.ne_nil_of_mem (h.mem_lanes.2 hl)) hat).trans ?_)
  exact gather_own hblock rfl rfl h.bar (gatherLanes iss) iss.pc


/-- An access of the gathered lanes is outstanding (R277). -/
def GatherOut (s : State) (iss : Issue) (c k : Nat) : Prop := LaneAccessOut s c k iss.mask
/-- Nothing else holds the release of the gathered lanes (R242, R267, R277). -/
def GatherClear (s : State) (iss : Issue) (c : Nat) (x : Course) : Prop :=
  (∀ o ∈ x.accOps, s.nextIss ≤ o.iss) ∧ ∀ l ∈ iss.mask, (x.lane l).hor.at 3 ≤ s.coreT c

@[simp] theorem gatheredLane_hor (ref : BarRef) (n : Nat) (ln : Lane) : (gatheredLane ref n ln).hor = ln.hor := by
  unfold gatheredLane; split <;> rfl

/-- The arrival A of a course that gathers in s stands in the queue of its block in v, where its lanes have moved by f. -/
structure ArrivalStands (s : State) (iss : Issue) (c k : Nat) (x : Course) (bl : Block) (n : Nat) (f : Lane → Lane) (v : State) (A : Arrival) : Prop where
  block : v.block? c x.blk = some { bl with arrivals := [A] }
  slot : A.slot = k
  lanes : ∀ l, l ∈ A.lanes ↔ l ∈ iss.mask
  rank : A.rank = bl.rank
  bar : A.bar = n
  bound : A.bound = s.nextAcc
  nextAcc : v.nextAcc = s.nextAcc
  out : LaneAccessOut v c k A.lanes ↔ GatherOut s iss c k
  course : ∃ y, v.course? c k = some y ∧ y.accOps = x.accOps
  issBound : A.issBound = s.nextIss
  hor : (∀ l ∈ iss.mask, (x.lane l).hor.at 3 ≤ s.coreT c) → A.hor ≤ v.coreT c
  lane : ∀ l ∈ iss.mask, v.lane c k l = { f (x.lane l) with fair := 0 }

/-- A gather at a BAR.A or BAR.AW queues the arrival of its course, and applies it where it may (R277). -/
theorem Gathers.queues {n : BitVec 12} (h : Gathers s g n.toNat iss c k x bl) {kind : BarKind} (hkind : kind ≠ .w) (r : BitVec 3) :
    ∃ v A, barWord1 kind g 0 0 r n s = .next (applyArrival v c x.blk k) ∧
      ArrivalStands s iss c k x bl n.toNat (gatheredLane (barRefOf kind iss 0 0 r n) n.toNat) v A := by
  obtain ⟨honly, y, hy, hafter⟩ := h.moves (barRefOf kind iss 0 0 r n)
  have hexec := h.exec kind r
  generalize gatherState s g iss c k (barRefOf kind iss 0 0 r n) = u at honly hy hexec
  simp only [if_neg hkind] at hexec
  have haccs : u.accs = s.accs := by rw [← honly.package]
  have hacc : u.nextAcc = s.nextAcc := by rw [← honly.package]
  have hiss : u.nextIss = s.nextIss := by rw [← honly.package]
  have htime : u.coreT c = s.coreT c := by rw [← honly.package]; rfl
  have hblock : u.block? c x.blk = some bl := by rw [← h.block, State.block?, State.block?, ← honly.core]
  have hmoved : ∀ l ∈ iss.mask, u.lane c k l = { gatheredLane (barRefOf kind iss 0 0 r n) n.toNat (x.lane l) with fair := 0 } := fun l hl => by
    rw [lane_of_course hy, hafter.lane l (h.mask l hl).1, laneAfter, if_pos hl]
    rfl
  refine ⟨_, ownArrival u c k (gatherLanes iss) bl.rank n.toNat, hexec, ?_, rfl, fun _ => h.mem_lanes, rfl, rfl, hacc, ?_, ?_, ⟨y, ?_, ?_⟩, hiss, fun hhor => ?_, fun l hl => ?_⟩
  · rw [State.block?_updBlock_self, hblock, Option.map_some, h.arrivals, List.nil_append]
  · rw [State.updBlock_nextAcc, hacc]
  · simp only [LaneAccessOut, GatherOut, State.updBlock_accs, State.updBlock_nextAcc, haccs, hacc, ownArrival, h.mem_lanes]
  · rw [State.course?_updBlock, hy]
  · have hrest := congrArg Course.accOps hafter.rest
    exact hrest
  · rw [State.coreT_updBlock, htime]
    refine (foldl_natMax_le_iff _ _ _ _).2 ⟨Nat.zero_le _, fun l hl => ?_⟩
    rw [hmoved l (h.mem_lanes.1 hl)]
    simpa using hhor l (h.mem_lanes.1 hl)
  · rw [State.lane_updBlock, hmoved l hl]

end

/-- The arrival of the course stands in the block's queue. -/
def ArrivalQueued (s : State) (iss : Issue) (k n : Nat) (bl bl' : Block) : Prop :=
  bl'.bars = bl.bars ∧ ∃ A, bl'.arrivals = [A] ∧ A.slot = k ∧ (∀ l, l ∈ A.lanes ↔ l ∈ iss.mask) ∧ A.rank = bl.rank ∧ A.bar = n ∧ A.bound = s.nextAcc

section
variable {s : State} {n : Nat} {iss : Issue} {c k : Nat} {x : Course} {bl : Block} {f : Lane → Lane} {v : State} {A : Arrival}

theorem ArrivalStands.ready (h : ArrivalStands s iss c k x bl n f v A) (hout : ¬ GatherOut s iss c k) (hclear : GatherClear s iss c x) :
    arrivalReady v c A = true := by
  obtain ⟨y, hy, hops⟩ := h.course
  refine arrivalReady_of_clear h.slot (h.bound.trans h.nextAcc.symm) (mt h.out.1 hout) hy (fun o ho => ?_) (h.hor hclear.2)
  rw [h.issBound]
  exact hclear.1 o (hops ▸ ho)
theorem ArrivalStands.waits (h : ArrivalStands s iss c k x bl n f v A) (hout : GatherOut s iss c k) : arrivalReady v c A = false :=
  arrivalReady_of_out h.slot (h.bound.trans h.nextAcc.symm) (h.out.2 hout)

/-- R277: the step of the gather applies the arrival, or leaves it queued. -/
theorem ArrivalStands.applies (h : ArrivalStands s iss c k x bl n f v A) (hmask : ∀ l ∈ iss.mask, l < 8) (harr : bl.arrivals = []) (hdir : bl.dir = none)
    (hst : bl.st ≠ .swapped) (hr : arrivalReady v c A = true) :
    ∃ bl', (applyArrival v c x.blk k).block? c x.blk = some bl' ∧ bl'.arrivals = [] ∧ ArrivedOnce bl bl' n ∧
      ∀ l ∈ iss.mask, let ln := arrivedLane n { f (x.lane l) with fair := 0 }
        (bl.FullNext n ∧ k ∈ bl.slots → (applyArrival v c x.blk k).lane c k l = phaseLane n s.nextAcc ln) ∧
        (¬ (bl.FullNext n ∧ k ∈ bl.slots) → (applyArrival v c x.blk k).lane c k l = ln) := by
  rw [applyArrival_of_ready h.block rfl h.slot hr h.rank, h.bar]
  generalize hu : (v.setBlock c x.blk { bl with arrivals := [] }).updCourse c k
    (·.mapLanes (fun l ln => if A.lanes.contains l then arrivedLane n ln else ln)) = u
  have hblock : u.block? c x.blk = some bl := by
    rw [← hu, State.block?_updCourse, State.block?_setBlock, if_pos ⟨rfl, rfl⟩, ← harr]
  have hacc : u.nextAcc = s.nextAcc := by rw [← hu, State.updCourse_nextAcc, ← h.nextAcc]; rfl
  have hlane : ∀ l ∈ iss.mask, u.lane c k l = arrivedLane n { f (x.lane l) with fair := 0 } := fun l hl => by
    obtain ⟨y, hy, -⟩ := h.course
    have hy' : (v.setBlock c x.blk { bl with arrivals := [] }).course? c k = some y := by rw [State.course?_setBlock, hy]
    rw [← hu, State.lane_updCourse _ c k _ hy', Course.lane_mapLanes _ _ (hmask l hl), if_pos (by simpa using (h.lanes l).2 hl), ← h.lane l hl, lane_of_course hy]
  obtain ⟨bl', hbl', harr', hother, hfull, hnot⟩ := block?_arrive (n := n) hblock hdir hst
  refine ⟨bl', hbl', harr'.trans harr, ⟨hfull, hnot, hother⟩, fun l hl => ?_⟩
  have hl8 := lane_arrive (n := n) hblock hdir hst k (hmask l hl)
  rwa [hlane l hl, hacc] at hl8

end

/-! ## The barrier words (R37, R38, R211, R213) -/

/-- R37, R213: a course that gathers at a BAR.W waits for the next phase. -/
theorem barW_gathers {g : Guard} {n : BitVec 12} {s : State} {iss : Issue} {c k : Nat} {x : Course} {bl : Block} (h : Gathers s g n.toNat iss c k x bl)
    (r : BitVec 3) : ∃ t y, exec (.barW g 0 0 r n) s = .next t ∧ OnlyCourse s t c k ∧ t.course? c k = some y ∧
      CourseAfter s iss false x.u x y (fun _ ln => { ln with st := .phase n.toNat iss.next }) := by
  obtain ⟨honly, y, hy, hafter⟩ := h.moves (barRefOf .w iss 0 0 r n)
  exact ⟨_, y, h.exec .w r, honly, hy, hafter⟩

/-- R37, R213, R277: a course that gathers at a BAR.A goes on; its arrival is applied, or queued. -/
theorem barA_gathers {g : Guard} {n : BitVec 12} {s : State} {iss : Issue} {c k : Nat} {x : Course} {bl : Block} (h : Gathers s g n.toNat iss c k x bl)
    (hdir : bl.dir = none) (hst : bl.st ≠ .swapped) (r : BitVec 3) : ∃ t bl', exec (.barA g 0 0 r n) s = .next t ∧ t.block? c x.blk = some bl' ∧
      (∀ l ∈ iss.mask, (t.lane c k l).st = .ready ∧ (t.lane c k l).pc = iss.next) ∧
      (GatherOut s iss c k → ArrivalQueued s iss k n.toNat bl bl') ∧
      (¬ GatherOut s iss c k → GatherClear s iss c x → bl'.arrivals = [] ∧ ArrivedOnce bl bl' n.toNat) := by
  obtain ⟨v, A, hexec, hA⟩ := h.queues (kind := .a) (by decide) r
  have hmask : ∀ l ∈ iss.mask, l < 8 := fun l hl => (h.mask l hl).1
  cases hr : arrivalReady v c A with
  | false =>
    rw [applyArrival_of_waits hA.block rfl hA.slot hr] at hexec
    refine ⟨v, _, hexec, hA.block, fun l hl => ?_, fun _ => ⟨rfl, A, rfl, hA.slot, hA.lanes, hA.rank, hA.bar, hA.bound⟩, fun hno hclear => ?_⟩
    · rw [hA.lane l hl]
      exact ⟨rfl, rfl⟩
    · rw [hA.ready hno hclear] at hr
      cases hr
  | true =>
    obtain ⟨bl', hbl', harr, honce, hlane⟩ := hA.applies hmask h.arrivals hdir hst hr
    refine ⟨_, bl', hexec, hbl', fun l hl => ?_, fun hout => ?_, fun _ _ => ⟨harr, honce⟩⟩
    · obtain ⟨hphase, hstay⟩ := hlane l hl
      rw [arrivedLane_of_ready (by rfl)] at hphase hstay
      by_cases hf : bl.FullNext n.toNat ∧ k ∈ bl.slots
      · rw [hphase hf, phaseLane_of_ne (by simp [gatheredLane, barRefOf])]
        exact ⟨rfl, rfl⟩
      · rw [hstay hf]
        exact ⟨rfl, rfl⟩
    · rw [hA.waits hout] at hr
      cases hr

/-- R37, R213, R277: a course that gathers at a BAR.AW waits, for its arrival to be applied and then for the phase, unless the arrival completes it. -/
theorem barAw_gathers {g : Guard} {n : BitVec 12} {s : State} {iss : Issue} {c k : Nat} {x : Course} {bl : Block} (h : Gathers s g n.toNat iss c k x bl)
    (hdir : bl.dir = none) (hst : bl.st ≠ .swapped) (r : BitVec 3) : ∃ t bl', exec (.barAw g 0 0 r n) s = .next t ∧ t.block? c x.blk = some bl' ∧
      (GatherOut s iss c k → ArrivalQueued s iss k n.toNat bl bl' ∧ ∀ l ∈ iss.mask, (t.lane c k l).st = .arriving n.toNat iss.next) ∧
      (¬ GatherOut s iss c k → GatherClear s iss c x → (bl'.arrivals = [] ∧ ArrivedOnce bl bl' n.toNat) ∧ ∀ l ∈ iss.mask,
        (bl.FullNext n.toNat ∧ k ∈ bl.slots → (t.lane c k l).st = .ready ∧ (t.lane c k l).pc = iss.next) ∧
        (¬ (bl.FullNext n.toNat ∧ k ∈ bl.slots) → (t.lane c k l).st = .phase n.toNat iss.next)) := by
  obtain ⟨v, A, hexec, hA⟩ := h.queues (kind := .aw) (by decide) r
  have hmask : ∀ l ∈ iss.mask, l < 8 := fun l hl => (h.mask l hl).1
  cases hr : arrivalReady v c A with
  | false =>
    rw [applyArrival_of_waits hA.block rfl hA.slot hr] at hexec
    refine ⟨v, _, hexec, hA.block, fun _ => ⟨⟨rfl, A, rfl, hA.slot, hA.lanes, hA.rank, hA.bar, hA.bound⟩, fun l hl => ?_⟩, fun hno hclear => ?_⟩
    · rw [hA.lane l hl]
      rfl
    · rw [hA.ready hno hclear] at hr
      cases hr
  | true =>
    obtain ⟨bl', hbl', harr, honce, hlane⟩ := hA.applies hmask h.arrivals hdir hst hr
    refine ⟨_, bl', hexec, hbl', fun hout => ?_, fun _ _ => ⟨⟨harr, honce⟩, fun l hl => ?_⟩⟩
    · rw [hA.waits hout] at hr
      cases hr
    · obtain ⟨hphase, hstay⟩ := hlane l hl
      rw [arrivedLane_of_arriving (next := iss.next) (by rfl)] at hphase hstay
      constructor
      · intro hf
        rw [hphase hf, phaseLane_of_phase (next := iss.next) (by rfl)]
        exact ⟨rfl, rfl⟩
      · intro hf
        rw [hstay hf]

/-- R211: a phase completes for the lanes of the block's courses that wait on the barrier. -/
theorem arrive_full_lanes {s : State} {c b n : Nat} {bl : Block} (h : s.block? c b = some bl) (hdir : bl.dir = none) (hst : bl.st ≠ .swapped)
    (hf : bl.FullNext n) : (∀ k ∈ bl.slots, ∀ l, l < 8 → ∀ next, (s.lane c k l).st = .phase n next →
        ((arrive s c b n).lane c k l).st = .ready ∧ ((arrive s c b n).lane c k l).pc = next) ∧
      (∀ k l, l < 8 → (∀ next, (s.lane c k l).st ≠ .phase n next) → ((arrive s c b n).lane c k l).st = (s.lane c k l).st) := by
  refine ⟨fun k hk l hl next hphase => ?_, fun k l hl hne => ?_⟩
  · rw [(lane_arrive h hdir hst k hl).1 ⟨hf, hk⟩, phaseLane_of_phase hphase]
    exact ⟨rfl, rfl⟩
  · by_cases hk : k ∈ bl.slots
    · rw [(lane_arrive h hdir hst k hl).1 ⟨hf, hk⟩, phaseLane_of_ne hne]
    · rw [(lane_arrive h hdir hst k hl).2 fun hm => hk hm.2]

/-- Settles O15: a course with a lane that stays ready (`barWord1_of_ready`), the gather at each of the three words, and one arrival or surplus phase. -/
theorem barrierResults : Obligations.BarrierResults := by
  unfold Obligations.BarrierResults
  refine ⟨⟨?_, ?_⟩, ?_, ?_, ?_⟩
  · rintro mk kind hmk g sr p r n s iss c k x h ⟨l, hl, hst, hg⟩
    have hexec : exec (mk g sr p r n) s = barWord1 kind g sr p r n s := by
      simp only [List.mem_cons, Prod.mk.injEq, List.not_mem_nil, or_false] at hmk
      rcases hmk with ⟨rfl, rfl⟩ | ⟨rfl, rfl⟩ | ⟨rfl, rfl⟩ <;> rfl
    rw [hexec]
    exact barWord1_of_ready h hl hst hg
  · intro g r n s iss c k x bl hissue hblock hn harr hsome hmask hothers hdir hst
    have h : Gathers s g n.toNat iss c k x bl := ⟨hissue, hblock, hn, harr, hsome, hmask, hothers⟩
    refine ⟨barW_gathers h r, barA_gathers h hdir hst r, ?_⟩
    obtain ⟨t, bl', hexec, hbl', hout, hclear⟩ := barAw_gathers h hdir hst r
    refine ⟨t, bl', hexec, hbl', hout, fun hno hcl => ⟨(hclear hno hcl).1, fun l hl => ?_⟩⟩
    obtain ⟨hfull, hnot⟩ := (hclear hno hcl).2 l hl
    split
    · rename_i hc
      exact hfull ⟨⟨hc.1, hc.2.1, hc.2.2.1⟩, hc.2.2.2⟩
    · rename_i hc
      exact hnot fun hf => hc ⟨hf.1.1, hf.1.2.1, hf.1.2.2, hf.2⟩
  · intro s c b n bl h hdir hst hlt
    rw [arrive_of_not_full h hdir hst fun hf => Nat.not_le.2 hlt hf.2.2, State.updBlock_of_some h]
    rfl
  · intro s c b n bl h hdir hst hdef hexp hle
    have hf : bl.FullNext n := ⟨hdef, hexp, hle⟩
    obtain ⟨bl', hbl', -, hother, hfull, -⟩ := block?_arrive h hdir hst (n := n)
    obtain ⟨hwait, hstay⟩ := arrive_full_lanes h hdir hst hf
    refine ⟨bl', hbl', ?_, ?_, ?_, hother, fun k hk l hl next _ => hwait k hk l hl next, hstay⟩
    all_goals rw [hfull hf]; rfl
  · intro s core blk bar bl h hdef hexp hle
    refine ⟨_, bl.setBar bar (bl.bar bar).phased, congrArg Host.Outcome.next (completePhase_of_full h ⟨hdef, hexp, hle⟩), ?_, ?_, ?_⟩
    · rw [block?_phaseCourses, State.block?_setBlock, if_pos ⟨rfl, rfl⟩]
    all_goals rw [Block.bar_setBar_self]; rfl

end Sys2Proof.Machine
end

/-!
Retirement and messages (R42, R43, R49, R60, R68, R417, R425, R429; O36). What stands once a block is released (`released_releaseBlock`), a job has ended
(`jobEnded_finishJob`) or the DONE add is out (`doneAdd_of_go`), and what one entry appended to a mailbox leaves (`bay_appendMail`).
-/

section
namespace Sys2Proof.Machine

/-! ## Entries taken out of a table one after another -/

/-- Each step of a fold takes one number out of a table: with the last, all of them are out. -/
theorem mget?_foldl_del {σ α : Type} {f : σ → Nat → σ} {part : σ → Map α}
    (hf : ∀ x e k, mget? (part (f x e)) k = if k = e then none else mget? (part x) k) (es : List Nat) (x : σ) (k : Nat) :
    mget? (part (es.foldl f x)) k = if k ∈ es then none else mget? (part x) k := by
  induction es generalizing x with
  | nil => simp
  | cons e es ih =>
    rw [List.foldl_cons, ih, hf]
    by_cases hk : k ∈ es
    · simp [hk]
    · by_cases he : k = e <;> simp [hk, he]

theorem mem_mkeys_of_mget? {α : Type} {m : Map α} {k : Nat} {v : α} (h : mget? m k = some v) : k ∈ mkeys m := by
  induction m with
  | nil => cases h
  | cons e m ih =>
    obtain ⟨j, w⟩ := e
    by_cases hj : j = k
    · simp [mkeys, hj]
    · rw [mget?, if_neg hj] at h
      exact List.mem_cons_of_mem _ (ih h)

/-- The numbers at which a table lists a value whose field is b, all taken out: no value left has that field. -/
theorem mget?_foldl_del_field {σ α : Type} {f : σ → Nat → σ} {part : σ → Map α}
    (hf : ∀ x e k, mget? (part (f x e)) k = if k = e then none else mget? (part x) k) {field : α → Nat} {b : Nat} {x : σ} {k : Nat} {v : α}
    (h : mget? (part (((mkeys (part x)).filter (fun e => (mget? (part x) e).map field == some b)).foldl f x)) k = some v) : field v ≠ b := by
  rw [mget?_foldl_del hf] at h
  split at h
  · cases h
  · rename_i hmem
    intro hv
    exact hmem (List.mem_filter.2 ⟨mem_mkeys_of_mget? h, by simp [h, hv]⟩)

theorem mget?_tiles_freeTile (co : Core) (e k : Nat) : mget? (freeTile e co).tiles k = if k = e then none else mget? co.tiles k := by
  unfold freeTile
  split
  · rename_i h; split
    · rename_i hk; rw [hk, h]
    · rfl
  · exact mget?_mdel co.tiles e k
theorem mget?_futs_freeFut (co : Core) (e k : Nat) : mget? (freeFut e co).futs k = if k = e then none else mget? co.futs k := by
  unfold freeFut
  split
  · rename_i h; split
    · rename_i hk; rw [hk, h]
    · rfl
  · exact mget?_mdel co.futs e k
theorem freeFut_tiles (co : Core) (e : Nat) : (freeFut e co).tiles = co.tiles := by unfold freeFut; split <;> rfl
theorem freeTile_futs (co : Core) (e : Nat) : (freeTile e co).futs = co.futs := by unfold freeTile; split <;> rfl
theorem foldl_freeFut_tiles (es : List Nat) (co : Core) : (es.foldl (fun co e => freeFut e co) co).tiles = co.tiles :=
  List.foldlRecOn (motive := fun x : Core => x.tiles = co.tiles) es _ rfl fun x hx e _ => (freeFut_tiles x e).trans hx
theorem foldl_freeTile_futs (es : List Nat) (co : Core) : (es.foldl (fun co e => freeTile e co) co).futs = co.futs :=
  List.foldlRecOn (motive := fun x : Core => x.futs = co.futs) es _ rfl fun x hx e _ => (freeTile_futs x e).trans hx

/-! ## A block released (R43, R250) -/

/-- The futures of block b freed. -/
def Core.freeFuts (b : Nat) (co : Core) : Core :=
  ((mkeys co.futs).filter (fun e => (mget? co.futs e).map (·.blk) == some b)).foldl (fun co e => freeFut e co) co
/-- The tiles of block b freed. -/
def Core.freeTiles (b : Nat) (co : Core) : Core :=
  ((mkeys co.tiles).filter (fun e => (mget? co.tiles e).map (·.blk) == some b)).foldl (fun co e => freeTile e co) co
/-- Block b, in the course slots given, released. -/
def Core.release (b : Nat) (slots : List Nat) (co : Core) : Core :=
  let x := (co.freeFuts b).freeTiles b
  { x with courses := slots.foldl mdel x.courses, blocks := mdel x.blocks b }

theorem Core.freeFuts_tiles (b : Nat) (co : Core) : (co.freeFuts b).tiles = co.tiles := foldl_freeFut_tiles _ co
theorem Core.freeTiles_futs (b : Nat) (co : Core) : (co.freeTiles b).futs = co.futs := foldl_freeTile_futs _ co
theorem Core.freeFuts_futs {b : Nat} {co : Core} {e : Nat} {y : Fut} (h : mget? (co.freeFuts b).futs e = some y) : y.blk ≠ b :=
  mget?_foldl_del_field (part := Core.futs) (field := Fut.blk) mget?_futs_freeFut h
theorem Core.freeTiles_tiles {b : Nat} {co : Core} {e : Nat} {y : Tile} (h : mget? (co.freeTiles b).tiles e = some y) : y.blk ≠ b :=
  mget?_foldl_del_field (part := Core.tiles) (field := Tile.blk) mget?_tiles_freeTile h

theorem releaseBlock_eq (s : State) (c blk : Nat) (bl : Block) :
    releaseBlock s c blk bl = settleCore (s.updCore c (Core.release blk bl.slots)) c := by
  simp only [State.updCore, Core.release, Core.freeTiles, Core.freeFuts_tiles]
  rfl

/-- Settling a core changes whether its courses are active, and nothing else (R64). -/
theorem mget?_settle_none {t cyc k : Nat} {co : Core} (h : mget? co.courses k = none) : mget? (co.settle t cyc).courses k = none := by
  rw [Core.settle, mget?_map (fun e : Nat × Course => if !e.2.active && decide ((co.quarter (e.1 / 128)).length ≤ 8) then
    { e.2 with active := true, since := t, cyc := cyc } else e.2), h, Option.map_none]

/-- What the release of a block leaves: neither it, nor its courses, nor a tile or future of it stands; bays, accesses and bytes are as they were. -/
structure Released (s t : State) (c blk : Nat) (bl : Block) : Prop where
  block : t.block? c blk = none
  courses : ∀ k ∈ bl.slots, t.course? c k = none
  tiles : ∀ e y, mget? (t.core c).tiles e = some y → y.blk ≠ blk
  futs : ∀ e y, mget? (t.core c).futs e = some y → y.blk ≠ blk
  bay : ∀ b, t.bay b = s.bay b
  accs : t.accs = s.accs
  bytes : SameBytes s t

theorem released_releaseBlock (s : State) (c blk : Nat) (bl : Block) : Released s (releaseBlock s c blk bl) c blk bl := by
  rw [releaseBlock_eq]
  have hcore : (settleCore (s.updCore c (Core.release blk bl.slots)) c).core c = Core.settle s.t (coreCyc s c) (Core.release blk bl.slots (s.core c)) := by
    rw [settleCore, State.core_updCore, if_pos rfl, State.core_updCore, if_pos rfl]
    rfl
  refine ⟨?_, fun k hk => ?_, fun e y h => ?_, fun e y h => ?_, fun _ => rfl, rfl, fun _ => rfl⟩
  · rw [State.block?, hcore]
    exact (mget?_mdel _ blk blk).trans (if_pos rfl)
  · rw [State.course?, hcore]
    refine mget?_settle_none ?_
    exact (mget?_foldl_del (part := id) (fun m e k => mget?_mdel m e k) bl.slots _ k).trans (if_pos hk)
  · rw [hcore] at h
    exact Core.freeTiles_tiles (co := (s.core c).freeFuts blk) h
  · rw [hcore] at h
    exact Core.freeFuts_futs (co := s.core c) ((congrArg (mget? · e) (Core.freeTiles_futs blk ((s.core c).freeFuts blk))).symm.trans h)

theorem releaseBlock_nextAcc (s : State) (c blk : Nat) (bl : Block) : (releaseBlock s c blk bl).nextAcc = s.nextAcc := by rw [releaseBlock_eq]; rfl
theorem releaseBlock_t (s : State) (c blk : Nat) (bl : Block) : (releaseBlock s c blk bl).t = s.t := by rw [releaseBlock_eq]; rfl
theorem releaseBlock_svCore (s : State) (c blk : Nat) (bl : Block) (b : Nat) : (releaseBlock s c blk bl).svCore b = s.svCore b := by
  rw [releaseBlock_eq]; rfl

/-! ## Notices (R49, R60) -/

/-- A number written above m bits of another. -/
theorem toNat_append_add {n m : Nat} (x : BitVec n) (y : BitVec m) : (x ++ y).toNat = x.toNat * 2 ^ m + y.toNat := by
  rw [BitVec.toNat_append, ← Nat.shiftLeft_add_eq_or_of_lt y.isLt, Nat.shiftLeft_eq]

/-- The job-finished notice by its fields (R60). -/
theorem doneNotice_eq (j : JobInfo) : doneNotice j = BitVec.ofNat 512 (1 + j.lvl % 4 * 2 ^ 8 + j.tag.toNat * 2 ^ 16 + j.jseq % 2 ^ 64 * 2 ^ 64 +
    j.tfin % 2 ^ 64 * 2 ^ 128 + j.nblk % 2 ^ 64 * 2 ^ 192) := by
  apply BitVec.eq_of_toNat_eq
  have htag := j.tag.isLt
  simp only [doneNotice, toNat_append_add, BitVec.ofNat_eq_ofNat, BitVec.toNat_ofNat]
  omega

/-- The page-filled notice by its fields (R374). -/
theorem pageNotice_eq (r : PageReq) {rid : Nat} (h : rid < 64) : pageNotice r rid = BitVec.ofNat 512 (5 + rid * 2 ^ 8 + r.vaddr.toNat * 2 ^ 448) := by
  apply BitVec.eq_of_toNat_eq
  have hva := r.vaddr.isLt
  simp only [pageNotice, toNat_append_add, BitVec.ofNat_eq_ofNat, BitVec.toNat_ofNat]
  omega

/-- What the end of a job leaves: its entry is gone, its notice stands where the job asks for one; cores, accesses and bytes are as they were. -/
structure JobEnded (s t : State) (b : Nat) (j : JobInfo) : Prop where
  jobs : ∀ x ∈ (t.bay b).jobs, x.jseq ≠ j.jseq
  notices : (t.bay b).notices = (s.bay b).notices ++ (if j.note then [doneNotice j] else [])
  core : ∀ c, t.core c = s.core c
  accs : t.accs = s.accs
  bytes : SameBytes s t

theorem jobEnded_finishJob (s : State) (b : Nat) (j : JobInfo) (reserved : Bool) : JobEnded s (finishJob s b j reserved) b j := by
  unfold finishJob pushNotice
  cases hnote : j.note
  all_goals
    refine ⟨fun x hx => ?_, ?_, fun _ => rfl, rfl, fun _ => rfl⟩
    all_goals simp_all

/-! ## Retirement (R42, R43, R49, R60) -/

theorem find?_of_filter_singleton {α : Type} {p : α → Bool} {l : List α} {j : α} (h : l.filter p = [j]) : l.find? p = some j := by
  rw [← List.head?_filter, h, List.head?_cons]

/-- R42, R43, R60: the last block of a job with DONE = 0 retires. -/
theorem execBlockRetirement_last {s : State} {core blk : Nat} {bl : Block} {j : JobInfo} (hb : s.block? core blk = some bl)
    (hr : mayRetire s core blk bl = true) (hj : (s.bay bl.bay).jobs.find? (fun x => x.jseq == bl.jseq) = some j) (hleft : j.left = 1)
    (hroom : j.note = true → (s.bay bl.bay).notices.length + (s.bay bl.bay).reserved < 4096) :
    exec (.blockRetirement core blk) s = .next (if j.done = 0 then finishJob (releaseBlock s core blk bl) bl.bay { j with left := 0, tfin := s.t } false
      else doneAdd (releaseBlock s core blk bl) bl.bay { j with left := 0, tfin := s.t }) := by
  have hheld : ¬ ((j.note && !noticeRoom s bl.bay) = true) := by
    cases hn : j.note with
    | false => simp
    | true => simpa [noticeRoom] using hroom hn
  have hnot : ¬ 1 < j.left := by omega
  change execBlockRetirement core blk s = _
  rw [execBlockRetirement, hb]
  simp only [hr, hj, hleft, Bool.not_true, Bool.false_eq_true, if_false, gt_iff_lt, if_neg hheld]
  rfl

/-! ## The DONE add (R60; log 43) -/

/-- t is s but for what the caches hold: bays, blocks, bytes and accesses are as they were. -/
structure CachesOnly (s t : State) : Prop where
  bays : t.bays = s.bays
  accs : t.accs = s.accs
  blocks : ∀ d b, t.block? d b = s.block? d b
  mem : t.mem = s.mem
  undef : t.undef = s.undef
  hist : t.hist = s.hist
  free : t.free = s.free

theorem CachesOnly.refl (s : State) : CachesOnly s s := ⟨rfl, rfl, fun _ _ => rfl, rfl, rfl, rfl, rfl⟩

theorem Core.touch_blocks (co : Core) (g ev n : Nat) : (co.touch g ev n).blocks = co.blocks := by unfold Core.touch; split <;> rfl

/-- The copies that a write may be a write of are dropped (R269). -/
theorem cachesOnly_dropCopies (s : State) (c dst ev : Nat) : CachesOnly s (dropCopies s c dst ev) := by
  have hblock : ∀ d b, (s.updCore c fun co => (co.touch (granOf s dst) ev (s.stepNo + 1)).dropCopy (granOf s dst)).block? d b = s.block? d b := fun d b => by
    unfold State.block?
    rw [State.core_updCore]
    split
    · exact congrArg (mget? · b) (Core.touch_blocks (s.core d) (granOf s dst) ev (s.stepNo + 1))
    · rfl
  unfold dropCopies
  split <;> exact ⟨rfl, rfl, hblock, rfl, rfl, rfl, rfl⟩

/-- An access of an agent that has no quarter passes its checks: it is in flight to its physical address, and no TLB is refilled (R90). -/
theorem placeAcc_go_of_no_quarter {s : State} {c : Nat} {a : Access} (hq : quarter? a.ag = none) (hk : a.kind ≠ .stp) (ea : W64) (dst : Nat)
    (refill : Option TlbE) : ∃ A u, placeAcc s c a (.go ea dst refill) = some ({ u with accs := u.accs ++ [A] }, false) ∧ CachesOnly s u ∧
      PlacedAs a A ∧ A.ph = .flight dst := by
  have hdata : storeData s c a = a.data := by rw [storeData, stpData_ne hk]
  cases refill
  all_goals
    simp only [placeAcc, hq]
    refine ⟨_, _, rfl, ?_, ⟨rfl, fun _ => hdata⟩, rfl⟩
    split
    · exact cachesOnly_dropCopies s c dst a.ev
    · exact CachesOnly.refl s

/-- The access of the DONE add of a job, made in s (R60). -/
def doneAccess (s : State) (b : Nat) (j : JobInfo) : Access :=
  { id := s.nextAcc, iss := 0, ag := .bayq b, kind := .atomic, op := .add, form := j.done, ea := j.done, size := 8, data := natBytes 8 1, sig := true,
    scope := 7, prv := j.prv, t0 := s.t }
/-- The job notes its DONE add, and a place in the notice queue is reserved for its notice. -/
def noteDone (s : State) (b : Nat) (j : JobInfo) : State :=
  ({ s with nextAcc := s.nextAcc + 1 } : State).updBay b (fun y => { y with
    jobs := y.jobs.map (fun x => if x.jseq = j.jseq then { j with add := some s.nextAcc } else x), reserved := if j.note then y.reserved + 1 else y.reserved })

/-- R60: the DONE add goes out, where its checks pass. -/
theorem doneAdd_of_go {s : State} {b : Nat} {j : JobInfo} {va : W64} {pa : Nat} {refill : Option TlbE}
    (h : probeOf (noteDone s b j) (s.svCore b) (doneAccess s b j) = .go va pa refill) :
    ∃ A u, doneAdd s b j = { u with accs := u.accs ++ [A] } ∧ CachesOnly (noteDone s b j) u ∧ PlacedAs (doneAccess s b j) A ∧ A.ph = .flight pa := by
  obtain ⟨A, u, hplace, hu, hA, hph⟩ := placeAcc_go_of_no_quarter (s := noteDone s b j) (c := s.svCore b) (a := doneAccess s b j) rfl (by simp [doneAccess]) va pa refill
  refine ⟨A, u, ?_, hu, hA, hph⟩
  unfold doneAdd
  simp only [noteDone, doneAccess] at h hplace ⊢
  rw [h]
  simp only
  rw [hplace]
  rfl

/-- R60: the record of a DONE add comes back. -/
theorem execDoneAddRecord_recorded {s : State} {bay acc : Nat} {a : Access} {j : JobInfo} {r : Record} {old : List Byte} {d : Nat}
    (ha : s.accs.find? (fun x => x.id == acc) = some a) (hj : (s.bay bay).jobs.find? (fun x => x.add == some acc) = some j) (hag : a.ag = .bayq bay)
    (hph : a.ph = .recorded r old d) :
    exec (.doneAddRecord bay acc) s = .next (finishJob ((dropAcc s acc).updBay bay (fun y => { y with hor := y.hor.add r 0 (isPeer d) })) bay j j.note) := by
  change execDoneAddRecord bay acc s = _
  rw [execDoneAddRecord, ha, hj]
  simp only [hag, hph, bne_self_eq_false, Bool.false_eq_true, if_false]
  rfl

/-! ## Clauses of the retirement -/

/-- R42, R43, R60: a job with DONE = 0 ends with its last block. -/
theorem retirement_ends {s : State} {core blk : Nat} {bl : Block} {j : JobInfo} (hb : s.block? core blk = some bl)
    (hr : mayRetire s core blk bl = true) (hj : (s.bay bl.bay).jobs.filter (fun x => x.jseq == bl.jseq) = [j]) (hleft : j.left = 1) (hdone : j.done = 0)
    (hroom : j.note = true → (s.bay bl.bay).notices.length + (s.bay bl.bay).reserved < 4096) :
    ∃ t : State, exec (.blockRetirement core blk) s = .next t ∧ SameBytes s t ∧ t.block? core blk = none ∧ (∀ k ∈ bl.slots, t.course? core k = none) ∧
      (∀ e y, mget? (t.core core).tiles e = some y → y.blk ≠ blk) ∧ (∀ e y, mget? (t.core core).futs e = some y → y.blk ≠ blk) ∧
      (∀ x ∈ (t.bay bl.bay).jobs, x.jseq ≠ bl.jseq) ∧ (t.bay bl.bay).notices = (s.bay bl.bay).notices ++ (if j.note then
        [BitVec.ofNat 512 (1 + j.lvl % 4 * 2 ^ 8 + j.tag.toNat * 2 ^ 16 + j.jseq % 2 ^ 64 * 2 ^ 64 + s.t % 2 ^ 64 * 2 ^ 128 + j.nblk % 2 ^ 64 * 2 ^ 192)] else []) := by
  have hseq : j.jseq = bl.jseq := by simpa using List.find?_some (find?_of_filter_singleton hj)
  have hexec := execBlockRetirement_last hb hr (find?_of_filter_singleton hj) hleft hroom
  rw [if_pos hdone] at hexec
  obtain ⟨hblock, hcourses, htiles, hfuts, hbay, -, hbytes⟩ := released_releaseBlock s core blk bl
  obtain ⟨hjobs, hnotices, hcore, -, hbytes'⟩ := jobEnded_finishJob (releaseBlock s core blk bl) bl.bay { j with left := 0, tfin := s.t } false
  refine ⟨_, hexec, fun a => (hbytes' a).trans (hbytes a), ?_, fun k hk => ?_, ?_, ?_, ?_, ?_⟩
  · rw [State.block?, hcore]; exact hblock
  · rw [State.course?, hcore]; exact hcourses k hk
  · rw [hcore]; exact htiles
  · rw [hcore]; exact hfuts
  · rwa [← hseq]
  · rw [hnotices, hbay, doneNotice_eq]

/-- R60: a job with DONE ends its last block with the bay queue's add (log 43). -/
theorem retirement_adds {s : State} {core blk : Nat} {bl : Block} {j : JobInfo} {va : W64} {pa : Nat} {refill : Option TlbE} (hb : s.block? core blk = some bl)
    (hr : mayRetire s core blk bl = true) (hj : (s.bay bl.bay).jobs.filter (fun x => x.jseq == bl.jseq) = [j]) (hleft : j.left = 1) (hdone : j.done ≠ 0)
    (hroom : j.note = true → (s.bay bl.bay).notices.length + (s.bay bl.bay).reserved < 4096)
    (hgo : probeOf (({ releaseBlock s core blk bl with nextAcc := s.nextAcc + 1 } : State).updBay bl.bay (fun y => { y with
        jobs := y.jobs.map (fun x => if x.jseq = j.jseq then { j with left := 0, tfin := s.t, add := some s.nextAcc } else x),
        reserved := if j.note then y.reserved + 1 else y.reserved })) (s.svCore bl.bay)
      { id := s.nextAcc, iss := 0, ag := .bayq bl.bay, kind := .atomic, op := .add, form := j.done, ea := j.done, size := 8, data := natBytes 8 1,
        sig := true, scope := 7, prv := j.prv, t0 := s.t } = .go va pa refill) :
    ∃ (t : State) (a : Access), exec (.blockRetirement core blk) s = .next t ∧ SameBytes s t ∧ t.block? core blk = none ∧ t.accs = s.accs ++ [a] ∧ a.ag = .bayq bl.bay ∧ a.kind = .atomic ∧ a.op = .add ∧
      a.size = 8 ∧ leNum a.data = 1 ∧ a.sig = true ∧ a.scope = 7 ∧ a.prv = j.prv ∧ a.ph = .flight pa ∧ a.form = j.done ∧ (t.bay bl.bay).notices = (s.bay bl.bay).notices := by
  have hexec := execBlockRetirement_last hb hr (find?_of_filter_singleton hj) hleft hroom
  rw [if_neg hdone] at hexec
  obtain ⟨hblock, -, -, -, hbay, haccs, hbytes⟩ := released_releaseBlock s core blk bl
  have hgo' : probeOf (noteDone (releaseBlock s core blk bl) bl.bay { j with left := 0, tfin := s.t }) ((releaseBlock s core blk bl).svCore bl.bay)
      (doneAccess (releaseBlock s core blk bl) bl.bay { j with left := 0, tfin := s.t }) = .go va pa refill := by
    rw [noteDone, doneAccess, releaseBlock_nextAcc, releaseBlock_t, releaseBlock_svCore]
    exact hgo
  generalize releaseBlock s core blk bl = v at hexec hblock hbay haccs hbytes hgo'
  obtain ⟨A, u, hadd, hu, hA, hph⟩ := doneAdd_of_go hgo'
  obtain ⟨-, -, hag, hkind, hsize, hform, hsig, -, hprv, -, -, hop, -, -, hscope, -⟩ := hA.fields
  rw [hadd] at hexec
  refine ⟨_, A, hexec, fun a => ?_, (hu.blocks core blk).trans hblock, congrArg (· ++ [A]) (hu.accs.trans haccs), hag, hkind, hop, hsize, ?_, hsig, hscope,
    hprv, hph, hform, ?_⟩
  · exact (State.readByte_congr hu.mem hu.undef hu.hist hu.free a).trans (hbytes a)
  · rw [hA.data (by simp [doneAccess])]
    rfl
  · have hnote : ((noteDone v bl.bay { j with left := 0, tfin := s.t }).bay bl.bay).notices = (v.bay bl.bay).notices := by
      rw [noteDone, State.bay_updBay, if_pos rfl]; rfl
    have hub : u.bay bl.bay = (noteDone v bl.bay { j with left := 0, tfin := s.t }).bay bl.bay := by
      rw [State.bay, hu.bays]; rfl
    exact (congrArg Bay.notices hub).trans (hnote.trans (congrArg Bay.notices (hbay bl.bay)))

/-- R49, R60: the notice follows the record of the DONE add. -/
theorem doneAddRecord_ends {s : State} {bay acc : Nat} {a : Access} {j : JobInfo} {r : Record} {old : List Byte} {d : Nat}
    (ha : s.accs.find? (fun x => x.id == acc) = some a) (hj : (s.bay bay).jobs.find? (fun x => x.add == some acc) = some j) (hag : a.ag = .bayq bay)
    (hph : a.ph = .recorded r old d) :
    ∃ t : State, exec (.doneAddRecord bay acc) s = .next t ∧ SameBytes s t ∧ t.accs = s.accs.filter (fun x => decide (x.id ≠ acc)) ∧
      (∀ x ∈ (t.bay bay).jobs, x.jseq ≠ j.jseq) ∧ (t.bay bay).notices = (s.bay bay).notices ++ (if j.note then [doneNotice j] else []) := by
  obtain ⟨hjobs, hnotices, -, haccs, hbytes⟩ :=
    jobEnded_finishJob ((dropAcc s acc).updBay bay (fun y => { y with hor := y.hor.add r 0 (isPeer d) })) bay j j.note
  refine ⟨_, execDoneAddRecord_recorded ha hj hag hph, hbytes, haccs.trans ?_, hjobs, ?_⟩
  · exact List.filter_congr fun x _ => by by_cases hx : x.id = acc <;> simp [hx]
  · rw [hnotices, State.bay_updBay, if_pos rfl]
    rfl

/-! ## Messages (R49, R374) -/

theorem bay_appendMail (s : State) (b m : Nat) (e : W512) : ((s.appendMail b m e).bay b).mailbox m =
    { (s.bay b).mailbox m with entries := ((s.bay b).mailbox m).entries ++ [e], prod := ((s.bay b).mailbox m).prod + 1,
                               since := if ((s.bay b).mailbox m).entries.isEmpty then s.t else ((s.bay b).mailbox m).since } := by
  simp [State.appendMail, Bay.mailbox]
theorem bay_appendMail_ne (s : State) (b m : Nat) (e : W512) {d : Nat} (h : d ≠ b) : (s.appendMail b m e).bay d = s.bay d := by
  simp [State.appendMail, h]
theorem appendMail_rest (s : State) (b m : Nat) (e : W512) : ∃ mail, (s.appendMail b m e).bay b = { s.bay b with mail := mail } :=
  ⟨_, (State.bay_updBay s b b _).trans (if_pos rfl)⟩

theorem takeHeldAns_nil {s : State} {b : Nat} (h : (s.bay b).heldAns = []) (n : Nat) : takeHeldAns s b n = s := by
  cases n with
  | zero => rfl
  | succ n => simp [takeHeldAns, h]
/-- R49: one answer held is taken, with room for its notice. -/
theorem takeHeldAns_one {s : State} {b rid n : Nat} {r : PageReq} (h : (s.bay b).heldAns = [rid]) (hroom : noticeRoom s b = true)
    (hr : mget? (s.bay b).pages rid = some r) : takeHeldAns s b (n + 1) = pageFilled (s.updBay b (fun y => { y with heldAns := [] })) b rid r := by
  have hpages : mget? ((s.updBay b (fun y => { y with heldAns := [] })).bay b).pages rid = some r := by simpa using hr
  simp only [takeHeldAns, h, hroom, Bool.not_true, Bool.false_eq_true, if_false, hpages]
  exact takeHeldAns_nil (by simp [pageFilled, pushNotice]) n

/-- R49: a notice leaves the queue for mailbox 14, which has room. -/
theorem execNoticeQueueDrain_room {s : State} {bay : Nat} {m : W512} {rest : List W512} (h : (s.bay bay).notices = m :: rest)
    (hroom : ((s.bay bay).mailbox 14).entries.length < 256) :
    exec (.noticeQueueDrain bay) s = .next (takeHeldAns ((s.updBay bay (fun y => { y with notices := rest })).appendMail bay 14 m) bay 64) := by
  change execNoticeQueueDrain bay s = _
  rw [execNoticeQueueDrain, h]
  simp [mailRoom, State.unread, hroom]

/-- The drain, where no answer is held. -/
theorem noticeQueueDrain_notice {s : State} {bay : Nat} {m : W512} {rest : List W512} (h : (s.bay bay).notices = m :: rest)
    (hroom : ((s.bay bay).mailbox 14).entries.length < 256) (hheld : (s.bay bay).heldAns = []) :
    ∃ t : State, exec (.noticeQueueDrain bay) s = .next t ∧ (t.bay bay).notices = rest ∧
      ((t.bay bay).mailbox 14).entries = ((s.bay bay).mailbox 14).entries ++ [m] ∧ ((t.bay bay).mailbox 14).prod = ((s.bay bay).mailbox 14).prod + 1 ∧
      { t with bays := s.bays } = s ∧ ∀ b, b ≠ bay → t.bay b = s.bay b := by
  let s1 := s.updBay bay (fun y => { y with notices := rest })
  obtain ⟨mail, hmail⟩ := appendMail_rest s1 bay 14 m
  have hbay : s1.bay bay = { s.bay bay with notices := rest } := (State.bay_updBay s bay bay _).trans (if_pos rfl)
  have hexec := execNoticeQueueDrain_room h hroom
  rw [takeHeldAns_nil (s := s1.appendMail bay 14 m) (by rw [hmail, hbay]; exact hheld)] at hexec
  refine ⟨_, hexec, by rw [hmail, hbay], ?_, ?_, rfl, fun b hb => ?_⟩
  · rw [bay_appendMail, hbay]; rfl
  · rw [bay_appendMail, hbay]; rfl
  · rw [bay_appendMail_ne _ _ _ _ hb, State.bay_updBay, if_neg hb]

/-- The drain, where one answer is held: its notice takes the place that is free (R49, R374). -/
theorem noticeQueueDrain_answer {s : State} {bay : Nat} {m : W512} {rest : List W512} {rid : Nat} {r : PageReq} (h : (s.bay bay).notices = m :: rest)
    (hroom : ((s.bay bay).mailbox 14).entries.length < 256) (hheld : (s.bay bay).heldAns = [rid]) (hr : mget? (s.bay bay).pages rid = some r)
    (hqueue : rest.length + (s.bay bay).reserved < 4096) (hrid : rid < 64) :
    ∃ t : State, exec (.noticeQueueDrain bay) s = .next t ∧ (t.bay bay).notices = rest ++ [BitVec.ofNat 512 (5 + rid * 2 ^ 8 + r.vaddr.toNat * 2 ^ 448)] ∧
      (t.bay bay).heldAns = [] ∧ mget? (t.bay bay).pages rid = none := by
  let s1 := s.updBay bay (fun y => { y with notices := rest })
  obtain ⟨mail, hmail⟩ := appendMail_rest s1 bay 14 m
  have hbay : (s1.appendMail bay 14 m).bay bay = { s.bay bay with notices := rest, mail := mail } := by
    rw [hmail, (State.bay_updBay s bay bay _).trans (if_pos rfl)]
  have hexec := execNoticeQueueDrain_room h hroom
  rw [takeHeldAns_one (s := s1.appendMail bay 14 m) (r := r) (by rw [hbay]; exact hheld) (by simp [noticeRoom, hbay, hqueue]) (by rw [hbay]; exact hr)] at hexec
  have hend : ∀ u : State, u.bay bay = { s.bay bay with notices := rest, mail := mail } →
      (pageFilled (u.updBay bay (fun y => { y with heldAns := [] })) bay rid r).bay bay =
        { s.bay bay with notices := rest ++ [pageNotice r rid], mail := mail, heldAns := [], pages := mdel (s.bay bay).pages rid } := fun u hu => by
    simp [pageFilled, pushNotice, hu]
  refine ⟨_, hexec, ?_, ?_, ?_⟩
  · rw [hend _ hbay, pageNotice_eq r hrid]
  · rw [hend _ hbay]
  · rw [hend _ hbay]
    exact (mget?_mdel _ rid rid).trans (if_pos rfl)

/-- R49: a message of a core enters mailbox 14, which has room. -/
theorem coreMessageAppend_room {s : State} {core : Nat} {m : W512} {rest : List W512} (h : (s.core core).msgs = m :: rest)
    (hroom : ((s.bay (s.bayOf core)).mailbox 14).entries.length < 256) :
    ∃ t : State, exec (.coreMessageAppend core) s = .next t ∧ (t.core core).msgs = rest ∧ SameBytes s t ∧
      ((t.bay (s.bayOf core)).mailbox 14).entries = ((s.bay (s.bayOf core)).mailbox 14).entries ++ [m] := by
  have hexec : exec (.coreMessageAppend core) s = .next ((s.updCore core (fun co => { co with msgs := rest })).appendMail (s.bayOf core) 14 m) := by
    change execCoreMessageAppend core s = _
    rw [execCoreMessageAppend, h]
    simp [mailRoom, State.unread, hroom]
  refine ⟨_, hexec, ?_, fun _ => rfl, ?_⟩
  · simp [State.appendMail]
  · rw [bay_appendMail]; rfl

/-! ## The host's writes (R47, R417, R425, R429) -/

/-- The conditions under which a write to a mailbox window is one entry (R47, R417). -/
def MailWriteTaken (s : State) (bay : Nat) (w : HostWrite) : Prop :=
  (s.bay bay).formed = true ∧ eaveClosed (s.bay bay) = false ∧ w.off / 0x1000 < 14 ∧ w.off % 0x1000 = 0 ∧ w.size = 64 ∧
    ((s.bay bay).mailbox (w.off / 0x1000)).entries.length < 256

theorem eaveClosed_eq_false_iff (y : Bay) : eaveClosed y = false ↔ ∀ k, y.cont = some k → k.eave = true := by
  unfold eaveClosed
  cases y.cont <;> simp

theorem execHostMailboxWrite_taken {s : State} {bay : Nat} {w : HostWrite} (h : MailWriteTaken s bay w) :
    exec (.hostMailboxWrite bay w) s = .next (s.appendMail bay (w.off / 0x1000) w.data) := by
  obtain ⟨hformed, hopen, hbox, hoff, hsize, hroom⟩ := h
  change execHostMailboxWrite bay w s = _
  simp [execHostMailboxWrite, hformed, hopen, hbox, hoff, hsize, State.unread, hroom]
theorem execHostMailboxWrite_discarded {s : State} {bay : Nat} {w : HostWrite} (h : ¬ MailWriteTaken s bay w) :
    exec (.hostMailboxWrite bay w) s = .next (discardWrite s bay) := by
  change execHostMailboxWrite bay w s = _
  unfold execHostMailboxWrite
  refine congrArg Host.Outcome.next (if_neg fun hc => h ?_)
  simp only [Bool.and_eq_true, Bool.not_eq_true', State.unread] at hc
  obtain ⟨⟨hformed, hopen⟩, hwindow⟩ := hc
  exact ⟨hformed, hopen, of_decide_eq_true hwindow⟩

/-- R425: a write of PCAP. -/
theorem registerWrite_pcap {s : State} {w : HostWrite} (hfn : w.fn = 0) (hoff : w.off = 0x18) : exec (.registerWriteOther w) s =
    .next (if 1200 ≤ w.data.toNat % 4096 ∧ w.data.toNat % 4096 ≤ 2600 then { s with pcap := w.data.toNat % 4096 } else s) := by
  have hlow : w.data.toNat % 2 ^ 64 % 4096 = w.data.toNat % 4096 := Nat.mod_mod_of_dvd _ (by decide)
  change execRegisterWriteOther w s = _
  simp only [execRegisterWriteOther, hfn, hoff, if_true, hlow]
/-- R429: a write of CMD that starts a command (log 118). -/
theorem registerWrite_cmd {s : State} {w : HostWrite} (hfn : w.fn = 0) (hoff : w.off = 0x40) (hsize : w.size = 64) (hcmd : s.cmd = none)
    (hroot : rootRuns s = true) (hop : w.data.toNat % 256 ∈ [1, 2, 3]) : exec (.registerWriteOther w) s = .next { s with cmd := some w.data } := by
  have hfield : cmdField w.data 0 8 = w.data.toNat % 256 := by simp [cmdField]
  have hok : ¬ (cmdField w.data 0 8 = 0 ∨ 3 < cmdField w.data 0 8) := by
    rw [hfield]
    simp only [List.mem_cons, List.not_mem_nil, or_false] at hop
    omega
  have hwrite : writeCmd s w.data = { s with cmd := some w.data } := by
    rw [writeCmd, if_neg (by simp [hcmd, hroot]), if_neg hok]
  change execRegisterWriteOther w s = _
  simp [execRegisterWriteOther, hfn, hoff, hsize, hwrite]

/-! ## Refreshes (R68) -/

theorem computeBound_iff (s : State) : computeBound s = true ↔ ∀ e ∈ s.cores, ∀ b ∈ e.2.blocks, b.2.st = .swapped ∨ b.2.cbnd = true := by
  simp [computeBound]

/-- What the banked refreshes n of a bank become (R68). -/
def bankedNext (s : State) (n : Nat) : Nat := if computeBound s then Nat.min (n + 1) 8 else n - 1

/-- R68: a controller banks a refresh, or makes a banked one. -/
theorem hbmEarlyRefresh_result (s : State) {stack : Nat} (bank : Nat) (h : stack < 8) : exec (.hbmEarlyRefresh stack bank) s =
    .next { s with banked := mset s.banked (stack * 2 ^ 16 + bank) (bankedNext s (mget s.banked (stack * 2 ^ 16 + bank) 0)) } :=
  congrArg Host.Outcome.next (if_neg (by omega))

/-- Settles O36: one lemma a clause, over what a released block, a job that ends and an appended entry leave. -/
theorem retirementAndMessages : Obligations.RetirementAndMessages := by
  unfold Obligations.RetirementAndMessages
  refine ⟨?_, ?_, ?_, ?_, ?_, ?_, ?_, ?_, ?_, ?_, ?_, ?_⟩
  · exact fun s core blk bl j => retirement_ends
  · exact fun s core blk bl j va pa refill => retirement_adds
  · exact fun s bay acc a j r old d => doneAddRecord_ends
  · exact fun s bay m rest => noticeQueueDrain_notice
  · exact fun s bay m rest rid r => noticeQueueDrain_answer
  · exact fun s core m rest => coreMessageAppend_room
  · intro s bay w hformed hcont hbox hoff hsize hroom
    refine ⟨_, execHostMailboxWrite_taken ⟨hformed, (eaveClosed_eq_false_iff _).2 hcont, hbox, hoff, hsize, hroom⟩, rfl, fun b hb => ?_, ?_, ?_⟩
    · exact bay_appendMail_ne s bay _ _ hb
    · rw [bay_appendMail]
    · rw [bay_appendMail]
  · intro s bay w h
    refine ⟨_, execHostMailboxWrite_discarded ?_, rfl⟩
    rintro ⟨hformed, hopen, hbox, hoff, hsize, hroom⟩
    rcases h with h | ⟨k, hk, heave⟩ | h | h | h | h
    · rw [hformed] at h; cases h
    · rw [(eaveClosed_eq_false_iff _).1 hopen k hk] at heave; cases heave
    · omega
    · exact h hoff
    · exact h hsize
    · omega
  · exact fun s w => registerWrite_pcap
  · exact fun s w => registerWrite_cmd
  · exact fun s stack bank h => congrArg Host.Outcome.next (if_pos h)
  · intro s stack bank h
    refine ⟨_, hbmEarlyRefresh_result s bank h, rfl, ?_⟩
    rw [mget_mset_self]
    exact if_congr (computeBound_iff s) rfl rfl

end Sys2Proof.Machine
end

/-!
The step runs the instruction at the program counter (R21 to R30, R139, R147, R402, R424; O57). Four layers: what the fetch of words leaves alone
(`FetchKeeps`), what a place gives a fetch (`fetchPlace`, `fetchWord`), what the words come to (`fateOf_instr`), and the issues that nothing holds
(`AgentReady`, `SliceReady`).
-/

section
namespace Sys2Proof.Machine

/-! ## What a fetch leaves alone (R21, R266 to R271) -/

/-- What the fetch of words leaves alone: what every access on its way does, and the blocks of every core. -/
structure FetchKeeps (s t : State) : Prop extends Kept s t where
  block : ∀ c b, t.block? c b = s.block? c b

theorem FetchKeeps.refl (s : State) : FetchKeeps s s := ⟨Kept.refl s, fun _ _ => rfl⟩
theorem FetchKeeps.trans {s t u : State} (h : FetchKeeps s t) (h' : FetchKeeps t u) : FetchKeeps s u :=
  ⟨h.toKept.trans h'.toKept, fun c b => (h'.block c b).trans (h.block c b)⟩
theorem FetchKeeps.seq {s t : State} (h : FetchKeeps s t) (c b : Nat) : t.seq? c b = s.seq? c b := by
  unfold State.seq?; rw [h.block]
/-- A table of the package that is neither memory nor accesses. -/
theorem fetchKeeps_tables (s : State) (so : Map (Map SofE)) (px : Map Proxy) (bd : List BadUnit) (ls : Map Lease)
    (sn : List (Agent × Nat × Nat)) (n : Nat) :
    FetchKeeps s { s with soffit := so, proxies := px, bad := bd, leases := ls, seen := sn, nextIss := n } :=
  ⟨⟨rfl, rfl, rfl, rfl, rfl, rfl, fun _ _ => rfl, fun _ _ => rfl⟩, fun _ _ => rfl⟩
theorem fetchKeeps_updCore (s : State) (c : Nat) (f : Core → Core) (hc : ∀ x, (f x).courses = x.courses) (hp : ∀ x, (f x).procs = x.procs)
    (hb : ∀ x, (f x).blocks = x.blocks) : FetchKeeps s (s.updCore c f) where
  toKept := kept_updCore s c f hc hp
  block := fun d b => by simp only [State.block?, State.core_updCore]; split <;> simp [*]
theorem FetchKeeps.foldl {α : Type} {f : State → α → State} (h : ∀ s x, FetchKeeps s (f s x)) (s : State) (l : List α) : FetchKeeps s (l.foldl f s) := by
  induction l generalizing s with
  | nil => exact FetchKeeps.refl s
  | cons x l ih => exact (h s x).trans (ih (f s x))

/-- A core's copies and lines are apart from its courses, processors and blocks (R74, R92). -/
structure Core.SameAgents (x y : Core) : Prop where
  courses : y.courses = x.courses
  procs : y.procs = x.procs
  blocks : y.blocks = x.blocks
theorem Core.sameAgents_touch (co : Core) (g ev n : Nat) : co.SameAgents (co.touch g ev n) := by
  unfold Core.touch; split <;> exact ⟨rfl, rfl, rfl⟩
theorem Core.sameAgents_evictTo (set n k : Nat) (co : Core) : co.SameAgents (Core.evictTo set n k co) := by
  induction k generalizing co with
  | zero => exact ⟨rfl, rfl, rfl⟩
  | succ k ih =>
    unfold Core.evictTo
    split
    · exact ⟨rfl, rfl, rfl⟩
    · split
      · exact ⟨rfl, rfl, rfl⟩
      · obtain ⟨h1, h2, h3⟩ := ih (co.dropLine ‹Nat›)
        exact ⟨h1, h2, h3⟩
theorem Core.sameAgents_putCopy (co : Core) (g set ev n : Nat) (cp : Copy) : co.SameAgents (co.putCopy g set ev n cp) := by
  unfold Core.putCopy
  split
  · obtain ⟨h1, h2, h3⟩ := co.sameAgents_touch g ev n
    exact ⟨h1, h2, h3⟩
  · obtain ⟨h1, h2, h3⟩ := Core.sameAgents_evictTo set 1 16 co
    exact ⟨h1, h2, h3⟩
theorem fetchKeeps_ofCore (s : State) (c : Nat) (f : Core → Core) (h : ∀ x : Core, x.SameAgents (f x)) : FetchKeeps s (s.updCore c f) :=
  fetchKeeps_updCore s c f (fun x => (h x).courses) (fun x => (h x).procs) (fun x => (h x).blocks)

theorem fetchKeeps_tlbRefill (s : State) (c q : Nat) (e : TlbE) : FetchKeeps s (tlbRefill s c q e) := by
  unfold tlbRefill
  refine (fetchKeeps_ofCore s c _ ?_).trans ⟨kept_bumpFree _, fun _ _ => rfl⟩
  exact fun _ => ⟨rfl, rfl, rfl⟩
theorem fetchKeeps_sofDrop (s : State) (d g : Nat) : FetchKeeps s (sofDrop s d g) := by
  unfold sofDrop
  split
  · exact FetchKeeps.refl s
  · exact fetchKeeps_tables s ..
theorem fetchKeeps_partRoom (s : State) (d : Nat) : FetchKeeps s (partRoom s d) := by
  unfold partRoom
  split
  · exact FetchKeeps.refl s
  · split
    · exact FetchKeeps.refl s
    · exact (FetchKeeps.foldl (fun s g => fetchKeeps_sofDrop s d g) s _).trans (fetchKeeps_tables _ ..)
theorem fetchKeeps_poolRoom (s : State) (g : Nat) : FetchKeeps s (poolRoom s g) := by
  unfold poolRoom
  split
  · exact FetchKeeps.refl s
  · split
    · exact FetchKeeps.refl s
    · exact fetchKeeps_sofDrop s ..
    · exact fetchKeeps_ofCore s _ _ fun _ => ⟨rfl, rfl, rfl⟩
theorem fetchKeeps_sofTouch (s : State) (t : Target) (ev : Nat) (nosc dirty : Bool) : FetchKeeps s (sofTouch s t ev nosc dirty) := by
  unfold sofTouch
  split
  · exact FetchKeeps.refl s
  · dsimp only
    split
    · exact fetchKeeps_tables s ..
    · split
      · exact FetchKeeps.refl s
      · exact ((fetchKeeps_poolRoom s _).trans (fetchKeeps_partRoom _ _)).trans (fetchKeeps_tables _ ..)
theorem fetchKeeps_grantLease (s : State) (a : Access) (t : Target) : FetchKeeps s (grantLease s a t).1 := by
  unfold grantLease
  dsimp only
  split
  · exact FetchKeeps.refl s
  · exact fetchKeeps_tables s ..
theorem fetchKeeps_installCopy (s : State) (a : Access) (b : List Byte) (e : Option Nat) (dst : Nat) : FetchKeeps s (installCopy s a b e dst) := by
  unfold installCopy
  split
  · dsimp only
    split
    · exact FetchKeeps.refl s
    · exact (fetchKeeps_poolRoom s _).trans (fetchKeeps_ofCore _ _ _ fun x => x.sameAgents_putCopy ..)
  · exact FetchKeeps.refl s

theorem fetchKeeps_seeFetch (s : State) (ag : Agent) (prv : Bool) (pc : W64) : FetchKeeps s (seeFetch s ag prv pc) := by
  unfold seeFetch
  split
  · exact FetchKeeps.refl s
  · exact fetchKeeps_tables s ..
theorem fetchKeeps_loadFetch (s : State) (ag : Agent) (prv : Bool) (pc : W64) : FetchKeeps s (loadFetch s ag prv pc) := by
  unfold loadFetch
  split
  · exact FetchKeeps.refl s
  · dsimp only
    split
    · exact fetchKeeps_ofCore s _ _ fun x => x.sameAgents_touch ..
    · exact FetchKeeps.refl s
    · exact ((fetchKeeps_grantLease s ..).trans (fetchKeeps_sofTouch _ ..)).trans (fetchKeeps_installCopy _ ..)
/-- The fetch of an issue's words keeps memory, accesses, courses, jobs and blocks. -/
theorem fetchKeeps_noteFetch (s : State) (ags : List Agent) (prv : Bool) (pc : W64) (n : Nat) : FetchKeeps s (noteFetch s ags prv pc n) := by
  refine FetchKeeps.foldl (fun s j => ?_) s _
  refine (FetchKeeps.foldl (fun s ag => fetchKeeps_seeFetch s ag prv (pc + BitVec.ofNat 64 (4 * j))) s ags).trans ?_
  dsimp only
  split
  · exact FetchKeeps.refl _
  · exact fetchKeeps_loadFetch ..

/-- An access that the issue of its agent at `pc` leaves in flight: it is no fetch, and it waits for no other word. -/
def Access.staysAt (a : Access) (pc : W64) : Prop := a.kind ≠ .fetch ∧ (a.dest = .again → a.pc = pc)

theorem dropStale_accs {s : State} {ags : List Agent} {pc : W64} (h : ∀ a ∈ s.accs, a.ag ∈ ags → a.staysAt pc) :
    (dropStale s ags pc).accs = s.accs := by
  refine List.filter_eq_self.mpr fun a ha => ?_
  by_cases hag : a.ag ∈ ags
  · obtain ⟨hk, hd⟩ := h a ha hag
    have hstale : (a.dest == Dest.again && a.pc != pc) = false := by
      by_cases hda : a.dest = .again <;> simp [hda, hd]
    cases a.ph <;> simp [hk, hstale]
  · simp [hag]

/-! ## The step and its action (R424) -/

/-- A step whose action comes to an instruction is that instruction's execution. -/
theorem step_of_go {s s' : State} {i : Instr} (h : act (takeAction s).1 (takeAction s).2 = .go s' i) :
    (∀ t, exec i s' = .next t → step s = .next (endStep t)) ∧ (∀ r, exec i s' = .fault r → step s = .fault r) ∧
      (∀ r, exec i s' = .refused r → step s = .refused r) := by
  refine ⟨fun t ht => ?_, fun r hr => ?_, fun r hr => ?_⟩ <;> simp only [step, *]
theorem step_of_stay {s s' : State} (h : act (takeAction s).1 (takeAction s).2 = .stay s') : step s = .next (endStep s') := by
  simp only [step, h]

@[simp] theorem advance_agenda (s : State) (dt : Nat) : (advance s dt).agenda = s.agenda := by unfold advance; split <;> rfl
@[simp] theorem advance_t (s : State) (dt : Nat) : (advance s dt).t = s.t + dt := by
  unfold advance
  split
  · simp [*]
  · rfl
theorem takeAction_agenda {s : State} {dt : Nat} {a : Action} {rest : List (Nat × Action)} (h : s.agenda = (dt, a) :: rest) :
    (takeAction s).2 = a ∧ (takeAction s).1.t = s.t + dt ∧ (takeAction s).1.agenda = rest := by
  simp [takeAction, nextAction, h]

theorem act_of_on {s : State} (h : s.off = false) (a : Action) : act s a = actOn s a := by simp [act, h]
theorem act_of_off {s : State} (h : s.off = true) {a : Action} (ha : coreStep a = true) : act s a = .stay s := by simp [act, h, ha]
theorem act_event {s : State} {i : Instr} (h : isEvent i = true) : act s (.event i) = .go s i := by simp [act, coreStep, actOn, h]

/-! ## The words of an issue (R139, R147, R153) -/

theorem fetchWords_oneWord {s : State} {ag : Agent} {prv : Bool} {pc : W64} {w : W32} {rf : Option TlbE} (hw : fetchWord s ag prv pc = .word w rf)
    (hp : isPrefix w.toNat = false) (h2 : twoWords w.toNat = false) : fetchWords s ag prv pc 3 [] none = .words [w] rf := by
  simp [fetchWords, hw, hp, h2]
theorem fetchWords_twoWords {s : State} {ag : Agent} {prv : Bool} {pc : W64} {w ad : W32} {rf rf' : Option TlbE}
    (hw : fetchWord s ag prv pc = .word w rf) (hp : isPrefix w.toNat = false) (h2 : twoWords w.toNat = true)
    (had : fetchWord s ag prv (pc + 4) = .word ad rf') : fetchWords s ag prv pc 3 [] none = .words [w, ad] (rf.or rf') := by
  have hfour : fetchWord s ag prv (pc + 4#64) = .word ad rf' := had
  simp [fetchWords, hw, hp, h2, hfour]

/-! ## Where a word lies (R84, R87, R139, R319) -/

/-- Every target lies below 2^46, and so outside the peer windows. -/
theorem isPeer_of_target {s : State} {pa : Nat} {x : Target} (h : target? s pa = some x) : isPeer pa = false := by
  have hlt : pa < 0x400000000000 := by
    unfold target? at h
    split at h
    · omega
    · split at h
      · omega
      · split at h
        · omega
        · split at h
          · omega
          · split at h
            · omega
            · cases h
  simp only [isPeer, Nat.div_eq_of_lt (show pa < 2 ^ 56 by omega)]
  rfl

/-- A leaf that a check passes gives an address with a target. -/
theorem target?_of_leafCheck {s : State} {z : Nat} {leaf : W64} {va : Nat} {k : AccKind} {prv : Bool} {pa : Nat}
    (h : leafCheck s z leaf va k prv = .ok pa) : ∃ x, target? s pa = some x := by
  unfold leafCheck at h
  dsimp only at h
  split at h
  · cases h
  · split at h
    · cases h
    · split at h
      · cases h
      · split at h
        · cases h
        · split at h
          · cases h
          · rename_i t ht
            split at h
            · cases h
            · split at h
              · cases h
              · split at h
                · cases h
                · split at h
                  · cases h
                  · split at h
                    · cases h
                    · cases h
                      exact ⟨t, ht⟩

theorem fetchPlace_slot511 {s : State} {ag : Agent} (hu : untranslated ag = true) (prv : Bool) {pc : W64} {x : Target}
    (hx : target? s pc.toNat = some x) (hpool : x.tier ≠ .pool) (hhost : x.tier ≠ .host) : fetchPlace s ag prv pc = .at pc.toNat none := by
  simp [fetchPlace, hu, hx, hpool, hhost]
theorem fetchPlace_page {s : State} {ag : Agent} {prv : Bool} {pc : W64} {e : TlbE} {fill : Bool} {pa : Nat} (hu : untranslated ag = false)
    (hc : classAddr pc = .ordinary) (ht : tlbFind s ((agentCore? ag).getD 0) (quarter? ag) pc.toNat = some (e, fill))
    (hl : leafCheck s e.z e.leaf pc.toNat .fetch prv = .ok pa) : fetchPlace s ag prv pc = .at pa (if fill then some e else none) := by
  simp [fetchPlace, hu, hc, ht, hl]
theorem fetchPlace_peer {s : State} {ag : Agent} (prv : Bool) {pc : W64} (hu : untranslated ag = false) (hc : classAddr pc = .peer)
    (hv : peerValid s (peerOf pc.toNat) = true) : fetchPlace s ag prv pc = .at pc.toNat none := by
  simp [fetchPlace, hu, hc, hv]
/-- A peer that is not valid (R402, R405). -/
theorem fetchPlace_peer_invalid {s : State} {ag : Agent} (prv : Bool) {pc : W64} (hu : untranslated ag = false) (hc : classAddr pc = .peer)
    (hv : peerValid s (peerOf pc.toNat) = false) :
    fetchPlace s ag prv pc = .no (.bad { code := 0x30, loc := pc.setWidth 128, aux := peerAux 1 pc.toNat 0 .fetch 4 }) := by
  simp [fetchPlace, hu, hc, hv]
theorem isPeer_of_class {pc : W64} (h : classAddr pc = .peer) : isPeer pc.toNat = true := by
  unfold classAddr at h
  dsimp only at h
  split at h
  · cases h
  · split at h
    · simpa [isPeer]
    · split at h <;> cases h
/-- REASON stands in the top 8 bits of a class-4 AUX. -/
theorem peerAux_reason {reason : Nat} (h : reason < 256) (a : Nat) (rinc : BitVec 16) (k : AccKind) (size : Nat) :
    (peerAux reason a rinc k size).toNat / 2 ^ 56 = reason := by
  have hr := rinc.isLt
  simp only [peerAux, aux4, toNat_append_add, BitVec.ofNat_eq_ofNat, BitVec.toNat_ofNat]
  omega

/-! ## What a place gives (R269, R270) -/

theorem heldForTp_of_no_stages {s : State} (h : s.stages = []) (sector t : Nat) : heldForTp s sector t = false := by simp [heldForTp, h]
theorem fetchCopy_none {s : State} {c pa : Nat} (h : servingCopy s c (granOf s pa) = none) : fetchCopy s c pa = none := by simp [fetchCopy, h]

/-- A word in this package that no copy serves is the memory's. -/
theorem fetchWord_home {s : State} {ag : Agent} {prv : Bool} {pc : W64} {pa : Nat} {rf : Option TlbE} (hp : fetchPlace s ag prv pc = .at pa rf)
    (hc : fetchCopy s ((agentCore? ag).getD 0) pa = none) (hpeer : isPeer pa = false) (hbad : badSector s (canonPa s pa / 32) = none)
    (hst : s.stages = []) : fetchWord s ag prv pc = .word (BitVec.ofNat 32 (s.readNat (canonPa s pa) 4)) rf := by
  simp [fetchWord, hp, hc, hpeer, hbad, heldForTp_of_no_stages hst]
theorem fetchWord_copy {s : State} {ag : Agent} {prv : Bool} {pc : W64} {pa : Nat} {rf : Option TlbE} {cp : Copy}
    (hp : fetchPlace s ag prv pc = .at pa rf) (hc : fetchCopy s ((agentCore? ag).getD 0) pa = some cp) :
    fetchWord s ag prv pc = .word (BitVec.ofNat 32 (leNum ((cp.data.drop (pa % 64)).take 4))) rf := by
  simp [fetchWord, hp, hc, sliceGran]
/-- A copy that may serve serves the word, or its home does: which, is open. -/
theorem fetchWord_copy_or_home {s : State} {ag : Agent} {prv : Bool} {pc : W64} {pa : Nat} {rf : Option TlbE} {cp : Copy}
    (hp : fetchPlace s ag prv pc = .at pa rf) (hc : servingCopy s ((agentCore? ag).getD 0) (granOf s pa) = some cp) (hpeer : isPeer pa = false)
    (hbad : badSector s (canonPa s pa / 32) = none) (hst : s.stages = []) :
    ∃ w : W32, fetchWord s ag prv pc = .word w rf ∧
      (w = BitVec.ofNat 32 (leNum ((cp.data.drop (pa % 64)).take 4)) ∨ w = BitVec.ofNat 32 (s.readNat (canonPa s pa) 4)) := by
  by_cases hs : Config.copyServes s.stepNo (granOf s pa) = true
  · exact ⟨_, fetchWord_copy hp (by simp [fetchCopy, hc, hs]), .inl rfl⟩
  · exact ⟨_, fetchWord_home hp (by simp [fetchCopy, hc, hs]) hpeer hbad hst, .inr rfl⟩
/-- A word of a valid peer that no copy serves and that has not come is asked for (R406). -/
theorem fetchWord_far {s : State} {ag : Agent} {prv : Bool} {pc : W64} (hp : fetchPlace s ag prv pc = .at pc.toNat none)
    (hc : fetchCopy s ((agentCore? ag).getD 0) pc.toNat = none) (hpeer : isPeer pc.toNat = true) (hf : farWord s ag pc = none) :
    fetchWord s ag prv pc = .far pc := by
  simp [fetchWord, hp, hc, hpeer, hf]

/-! ## What a decoded word is (R150, R345 to R347) -/

/-- A well-formed word gives no reason of its own. -/
theorem wellFormed_iff (i : Instr) : i.wellFormed = true ↔ zeroBad i = false ∧ regBad i = false ∧ scopeBad i = false := by
  unfold Instr.wellFormed fieldFaults
  cases zeroBad i <;> cases regBad i <;> cases scopeBad i <;> simp

/-- Every register group of a word stands at a number its kind allows, below VREGS, and in the registers of a batten job (R73, R150). -/
def UsesAllowed (s : State) (who : Issuer) (i : Instr) : Prop :=
  ∀ u ∈ regUses i ++ movsUses i, u.r % u.align = 0 ∧ (u.file = .v → u.r + u.n - 1 ≤ vregsOf s who) ∧
    (∀ c p, who = .job c p → u.file = .s → u.r + u.n ≤ 32)

theorem adReasons_nil {i : Instr} (hz : zeroBad i = false) (hsc : scopeBad i = false) : adReasons i = [] := by simp [adReasons, hz, hsc]
theorem opReasons_nil {s : State} {who : Issuer} (op : W32) {i : Instr} (hz : zeroBad i = false) (h : UsesAllowed s who i) :
    opReasons s who op i false = [] := by
  have halign : (regUses i ++ movsUses i).any (fun u => u.r % u.align != 0) = false :=
    List.any_eq_false.mpr fun u hu => by simp [(h u hu).1]
  have hv : (regUses i ++ movsUses i).any (fun u => u.file == .v && decide (u.r + u.n - 1 > vregsOf s who)) = false :=
    List.any_eq_false.mpr fun u hu => by
      have hle := (h u hu).2.1
      simpa using hle
  unfold opReasons
  simp only [halign, hv, hz]
  cases who with
  | course c k => simp
  | seq c b => simp
  | job c p =>
    have hjob : (regUses i ++ movsUses i).any (fun u => u.file == .s && decide (u.r + u.n > 32)) = false :=
      List.any_eq_false.mpr fun u hu => by
        have hle := (h u hu).2.2 c p rfl
        simpa using hle
    simp only [hjob]
    simp

/-- A word without prefixes that its issuer may execute is its instruction. -/
theorem fateOf_instr {s : State} {who : Issuer} {w ad : W32} {i : Instr} (hd : decode w.toNat ad.toNat = .ok i) (hwf : i.wellFormed = true)
    (hrow : rowAllows who (agentRow i) = true) (hprv : privileged i = true → prvOf s who = true) (hu : UsesAllowed s who i) :
    fateOf s who { pre := [], op := some w, ad := ad } = .instr i := by
  obtain ⟨hz, -, hsc⟩ := (wellFormed_iff i).mp hwf
  have hpriv : (privileged i && !prvOf s who) = false := by
    cases hi : privileged i with
    | false => rfl
    | true => simp [hprv hi]
  simp [fateOf, hd, hrow, hpriv, firstSome, preMisuse, opReasons_nil w hz hu, adReasons_nil hz hsc]

/-! ## Issues that execute (R21 to R30, R230, R248) -/

/-- Words that come to an instruction have an operation word. -/
theorem op_of_fateOf_instr {s : State} {who : Issuer} {p : Parts} {i : Instr} (h : fateOf s who p = .instr i) : some (p.op.getD 0) = p.op := by
  cases hop : p.op with
  | some w => rfl
  | none =>
    unfold fateOf at h
    simp only [hop] at h
    split at h
    · cases h
    · split at h <;> cases h

/-- The issue of an agent without lanes. -/
def agentIssue (s : State) (who : Issuer) (pc : W64) (ws : List W32) : Issue :=
  let p := splitWords ws {}
  { who := who, pc := pc, wpc := pc + BitVec.ofNat 64 (4 * p.pre.length), next := pc + BitVec.ofNat 64 (4 * ws.length), pfx := toPfx p.pre {},
    word := p.op.getD 0, pos := p.pre.length, id := s.nextIss }

/-- Whether no access of an agent without lanes holds its next issue. -/
def AgentFree (s : State) (ag : Agent) : Prop := ∀ a ∈ s.accs, a.ag = ag → a.kind ≠ .fetch ∧ a.dest ≠ .again ∧ a.stuck = false

/-- An agent without lanes may issue instruction i, which its words `ws` come to: nothing holds them (R30). -/
structure AgentReady (s s1 : State) (who : Issuer) (ag : Agent) (prv : Bool) (pc : W64) (ws : List W32) (rf : Option TlbE) (i : Instr) : Prop where
  number : s1 = { s with nextIss := s.nextIss + 1 }
  privilege : prvOf s1 who = prv
  free : AgentFree s ag
  words : fetchWords s1 ag prv pc 3 [] none = .words ws rf
  fate : fateOf s1 who (splitWords ws {}) = .instr i
  score : scoreHeld s1 who [] i (toPfx (splitWords ws {}).pre {}) = false
  read : readErr s1 who [] i (toPfx (splitWords ws {}).pre {}) = false
  order : wordsOrdered s1 ag prv pc ws.length = true

/-- The next word of an agent without lanes executes once nothing holds it. -/
theorem fetchAgent_go {s s1 : State} {who : Issuer} {ag : Agent} {prv : Bool} {pc : W64} {ws : List W32} {rf : Option TlbE} {i : Instr}
    (h : AgentReady s s1 who ag prv pc ws rf i) (bad : State → FaultRec → State) :
    ∃ t, fetchAgent s who ag pc bad = .go { t with issue := some (agentIssue s who pc ws) } i ∧ FetchKeeps s t := by
  obtain ⟨hs1, hprv, hacc, hw, hf, hsc, hre, hord⟩ := h
  have hany : s.accs.any (fun a => a.ag == ag && (a.stuck || (a.kind == .fetch && (match a.ph with | .replied .. => false | _ => true))
      || (a.dest == .again && a.ph.cancels))) = false := by
    refine List.any_eq_false.mpr fun a ha => ?_
    by_cases hag : a.ag = ag
    · obtain ⟨hk, hd, hst⟩ := hacc a ha hag
      simp [hk, hd, hst]
    · simp [hag]
  have hkeep : FetchKeeps s (noteFetch s1 [ag] prv pc ws.length) :=
    FetchKeeps.trans (by rw [hs1]; exact fetchKeeps_tables s ..) (fetchKeeps_noteFetch s1 ..)
  have hstale : (dropStale (noteFetch s1 [ag] prv pc ws.length) [ag] pc).accs = (noteFetch s1 [ag] prv pc ws.length).accs := by
    refine dropStale_accs fun a ha hag => ?_
    obtain ⟨hk, hd, -⟩ := hacc a (hkeep.accs ▸ ha) (List.mem_singleton.mp hag)
    exact ⟨hk, fun h => absurd h hd⟩
  refine ⟨dropStale (noteFetch s1 [ag] prv pc ws.length) [ag] pc, ?_,
    ⟨⟨hkeep.mem, hkeep.undef, hkeep.hist, hstale.trans hkeep.accs, hkeep.nextAcc, hkeep.time, hkeep.course, hkeep.job⟩, hkeep.block⟩⟩
  unfold fetchAgent
  simp only [← hs1]
  refine (if_neg (ne_true_of_eq_false hany)).trans ?_
  simp only [hprv, hw, hord, hf, hsc, hre, Bool.not_true, Bool.false_eq_true, if_false, agentIssue]

theorem act_batten_go {s s1 : State} {c p : Nat} {j : Job} {prv : Bool} {ws : List W32} {rf : Option TlbE} {i : Instr} (hoff : s.off = false)
    (hj : s.job? c p = some j) (h : AgentReady s s1 (.job c p) (.job c p) prv j.pc ws rf i) :
    ∃ t, act s (.batten c p) = .go { t with issue := some (agentIssue s (.job c p) j.pc ws) } i ∧ FetchKeeps s t := by
  rw [act_of_on hoff, actOn, fetchJob]
  simp only [hj]
  exact fetchAgent_go h _
theorem act_matrix_go {s s1 : State} {c b : Nat} {x : Seq} {prv : Bool} {ws : List W32} {rf : Option TlbE} {i : Instr} (hoff : s.off = false)
    (hx : s.seq? c b = some x) (hrun : x.run = .running) (hstopped : x.stopped = false) (hstop : x.stop = none)
    (hops : ∀ o ∈ x.ops, o.kind ≠ .mend) (h : AgentReady s s1 (.seq c b) (.seq c b) prv x.pc ws rf i) :
    ∃ t, act s (.matrix c b) = .go { t with issue := some (agentIssue s (.seq c b) x.pc ws) } i ∧ FetchKeeps s t := by
  have hmend : x.ops.any (fun o => o.kind == .mend) = false := List.any_eq_false.mpr fun o ho => by simp [hops o ho]
  have hgo : (decide (x.run ≠ .running) || x.stopped || x.stop.isSome || x.ops.any (fun o => o.kind == .mend)) = false := by
    simp [hrun, hstopped, hstop, hmend]
  rw [act_of_on hoff, actOn, fetchSeq]
  simp only [hx, hgo, Bool.false_eq_true, if_false]
  exact fetchAgent_go h _

/-! ## The issue of a slice (R23, R24, R28, R170) -/

/-- The lanes of an issue at `pc`: those of the slice, or of the whole course for a uniform or exchange word. -/
def issueMask (x : Course) (sl : Nat) (pc : W64) (wide : Bool) : List Nat :=
  (List.range 8).filter (fun l => (wide || l / 4 == sl) && (x.lane l).isReady && (x.lane l).pc == pc)
theorem issueMask_eq (x : Course) (sl : Nat) (pc : W64) (wide : Bool) :
    (if wide = true then (List.range 8).filter (fun l => (x.lane l).isReady && (x.lane l).pc == pc)
      else (List.range 8).filter (fun l => l / 4 == sl && (x.lane l).isReady && (x.lane l).pc == pc)) = issueMask x sl pc wide := by
  unfold issueMask
  cases wide <;> simp

/-- The issue of a slice: `s` has the number of the issue, `u` is what it stands in. -/
noncomputable def sliceIssue (s u : State) (c k sl : Nat) (x : Course) (pc cmin : W64) (wide : Bool) (ws : List W32) : Issue :=
  let p := splitWords ws {}
  { who := .course c k, mask := issueMask x sl pc wide, pc := pc, wpc := pc + BitVec.ofNat 64 (4 * p.pre.length),
    next := pc + BitVec.ofNat 64 (4 * ws.length), pfx := toPfx p.pre {}, word := p.op.getD 0, pos := p.pre.length, id := s.nextIss,
    gang := if wide then 0 else gangOf u x sl pc, counts := if wide then [0, 1] else sl :: otherHeld u c k sl x cmin }

@[simp] theorem refilled_none (s : State) (c k : Nat) : Refilled s c k none = s := rfl
@[simp] theorem refilled_some (s : State) (c k : Nat) (e : TlbE) : Refilled s c k (some e) = tlbRefill s c (k / 128) e := rfl
theorem fetchKeeps_refilled (s : State) (c k : Nat) (rf : Option TlbE) : FetchKeeps s (Refilled s c k rf) := by
  cases rf with
  | none => exact FetchKeeps.refl s
  | some e => exact fetchKeeps_tlbRefill s ..

/-- The state after the words of a slice's issue have been fetched. -/
noncomputable def sliceFetched (u : State) (c k : Nat) (mask : List Nat) (prv : Bool) (pc : W64) (n : Nat) : State :=
  dropStale (noteFetch u (mask.map (Agent.thread c k ·)) prv pc n) (mask.map (Agent.thread c k ·)) pc

/-- A slice may issue instruction i, which its words `ws` come to: its course takes part in issue, its lanes have gathered where the word is uniform, and
nothing holds it (R24, R28, R30, R64). -/
structure SliceReady (s s1 s2 : State) (c k sl : Nat) (x : Course) (pc cmin : W64) (fair : Bool) (ws : List W32) (rf : Option TlbE) (i : Instr)
    (mask : List Nat) : Prop where
  number : s1 = { s with nextIss := s.nextIss + 1 }
  refill : s2 = Refilled s1 c k rf
  lanes : mask = issueMask x sl pc (isU i || isExchange i)
  course : s.course? c k = some x
  active : isActive s c k = true
  yield : x.yield = false
  slice : sl < 2
  select : selectPc x sl = some (pc, fair)
  min : courseMin x = some cmin
  gathered : (isU i || isExchange i) = true → pc = cmin ∨ fair = true
  words : ∀ l, fetchWords s1 (.thread c k l) x.prv pc 3 [] none = .words ws rf
  fate : fateOf s2 (.course c k) (splitWords ws {}) = .instr i
  issv : ∀ r ∈ x.issv, r.pc = pc → ∀ l ∈ r.mask, l ∉ mask
  score : scoreHeld s2 (.course c k) mask i (toPfx (splitWords ws {}).pre {}) = false
  read : readErr s2 (.course c k) mask i (toPfx (splitWords ws {}).pre {}) = false
  order : ∀ l ∈ mask, wordsOrdered s2 (.thread c k l) x.prv pc ws.length = true

section
variable {s s1 s2 : State} {c k sl : Nat} {x : Course} {pc cmin : W64} {fair : Bool} {ws : List W32} {rf : Option TlbE} {i : Instr} {mask : List Nat}

theorem fetchSlice_go (h : SliceReady s s1 s2 c k sl x pc cmin fair ws rf i mask) :
    fetchSlice s c k sl =
      let iss := sliceIssue s s2 c k sl x pc cmin (isU i || isExchange i) ws
      let t := sliceFetched s2 c k mask x.prv pc ws.length
      .go { t.updCourse c k (noteIssue t c k sl iss i) with issue := some iss } i := by
  obtain ⟨hs1, rfl, rfl, hx, hact, hy, hsl, hsel, hmin, hwide, hw, hf, hissv, hsc, hre, hord⟩ := h
  have hgo : (!isActive s c k || x.yield || decide (sl ≥ 2)) = false := by simp [hact, hy, hsl]
  have hprv : prvOf s (.course c k) = x.prv := by simp [prvOf, hx]
  have hgather : ((isU i || isExchange i) && !(pc == cmin || fair)) = false := by
    cases hu : (isU i || isExchange i) with
    | false => rfl
    | true => rcases hwide hu with h | h <;> simp [h]
  have hall : ((issueMask x sl pc (isU i || isExchange i)).map (Agent.thread c k ·)).all
      (fun ag => wordsOrdered (Refilled s1 c k rf) ag x.prv pc ws.length) = true := by
    simpa using hord
  have hstand : x.issv.any (fun r => r.pc == pc && r.mask.any (issueMask x sl pc (isU i || isExchange i)).contains) = false := by
    refine List.any_eq_false.mpr fun r hr => ?_
    by_cases hpc : r.pc = pc
    · simpa [hpc] using hissv r hr hpc
    · simp [hpc]
  unfold fetchSlice
  simp only [hx, hgo, hsel, hmin, hprv, ← hs1, hw, Bool.false_eq_true, if_false]
  cases rf <;> simp only [refilled_none, refilled_some] at hf hsc hre hall ⊢ <;>
    simp only [hf, hgather, issueMask_eq, hall, hstand, hsc, hre, Bool.not_true, Bool.or_false, Bool.false_eq_true, if_false, sliceIssue, sliceFetched]

/-- What an issue leaves in its course is its window, the s registers that wait for it, and slice 0's place in a gang. -/
theorem noteIssue_rest (s : State) (c k sl : Nat) (iss : Issue) (i : Instr) (x : Course) :
    { noteIssue s c k sl iss i x with wins := x.wins, sres := x.sres, lead := x.lead } = x := by
  unfold noteIssue
  dsimp only
  split <;> split <;> rfl
theorem sliceIssue_counts (s u : State) (c k : Nat) {sl : Nat} (x : Course) (pc cmin : W64) (wide : Bool) (ws : List W32) (hsl : sl < 2) :
    sl ∈ (sliceIssue s u c k sl x pc cmin wide ws).counts := by
  unfold sliceIssue
  cases wide with
  | true => simp; omega
  | false => simp

/-- What a slice that may issue leaves: its course but for the issue's marks, memory, and the accesses that stay. -/
theorem act_slice_go (hoff : s.off = false) (h : SliceReady s s1 s2 c k sl x pc cmin fair ws rf i mask) :
    let iss := sliceIssue s s2 c k sl x pc cmin (isU i || isExchange i) ws
    ∃ (s' : State) (y : Course), act s (.slice c k sl) = .go s' i ∧ CourseIssues s' iss c k y ∧
      { y with wins := x.wins, sres := x.sres, lead := x.lead } = x ∧ SameMemory s s' ∧
      ((∀ a ∈ s.accs, ∀ l, a.ag = .thread c k l → a.staysAt pc) → s'.accs = s.accs) := by
  intro iss
  have hkeep : FetchKeeps s (noteFetch s2 (mask.map (Agent.thread c k ·)) x.prv pc ws.length) := by
    refine FetchKeeps.trans ?_ (fetchKeeps_noteFetch s2 ..)
    rw [h.refill, h.number]
    exact (fetchKeeps_tables s ..).trans (fetchKeeps_refilled _ c k rf)
  have hgo := (act_of_on hoff (.slice c k sl)).trans (fetchSlice_go h)
  generalize ht : sliceFetched s2 c k mask x.prv pc ws.length = t at hgo
  have hcourse : t.course? c k = some x := by rw [← ht]; exact (hkeep.course c k).trans h.course
  have hrest := State.updCourse_rest t c k (noteIssue t c k sl iss i)
  refine ⟨_, noteIssue t c k sl iss i x, hgo, ⟨rfl, rfl, ?_⟩, noteIssue_rest .., SameMemory.ofEq ?_ ?_ ?_, fun hstay => ?_⟩
  · exact (State.course?_updCourse_self ..).trans (by rw [hcourse]; rfl)
  · exact (congrArg State.mem hrest).trans (by rw [← ht]; exact hkeep.mem)
  · exact (congrArg State.undef hrest).trans (by rw [← ht]; exact hkeep.undef)
  · exact (congrArg State.hist hrest).trans (by rw [← ht]; exact hkeep.hist)
  · refine (congrArg State.accs hrest).trans ?_
    rw [← ht]
    refine (dropStale_accs fun a ha hag => ?_).trans hkeep.accs
    obtain ⟨l, -, hl⟩ := List.mem_map.mp hag
    exact hstay a (hkeep.accs ▸ ha) l hl.symm

end

/-! ## The step runs the decoded instruction (O57) -/

/-- Settles O57: an action that comes to an instruction is that instruction's execution (`step_of_go`); a fetch that nothing holds comes to the
instruction its words decode to (`fetchSlice_go`, `fetchAgent_go`), and what it notes on the way keeps memory, courses and jobs (`FetchKeeps`). -/
theorem stepRunsTheDecodedInstruction : Obligations.StepRunsTheDecodedInstruction := by
  unfold Obligations.StepRunsTheDecodedInstruction
  refine ⟨fun s s' i h => step_of_go h, fun s s' h => step_of_stay h, fun s dt a rest h => takeAction_agenda h, fun s i h => act_event h,
    ?slice, ?batten, ?matrix, ?words, ?slot511, ?page, ?peer, ?off, fun s who w ad i hd hwf hrow hprv hu => fateOf_instr hd hwf hrow hprv hu⟩
  case slice =>
    intro s c k sl x pc cmin fair ws rf i s1 s2 p wide mask hoff hx hact hy hsl hsel hmin hwide hw hf hissv hsc hre hord
    obtain ⟨s', y, hgo, hiss, hy, hmem, haccs⟩ := act_slice_go hoff
      ⟨rfl, rfl, rfl, hx, hact, hy, hsl, hsel, hmin, hwide, hw, hf, hissv, hsc, hre, hord⟩
    exact ⟨s', _, y, hgo, hiss, rfl, rfl, rfl, rfl, rfl, op_of_fateOf_instr hf, rfl, sliceIssue_counts s s2 c k x pc cmin wide ws hsl, hy, hmem, haccs⟩
  case batten =>
    intro s c p j ws rf i s1 q hoff hj hacc hw hf hsc hre hord
    have hprv : prvOf s1 (.job c p) = j.prv := (congrArg (fun o => (o.map Job.prv).getD false) hj :)
    obtain ⟨t, hgo, hkeep⟩ := act_batten_go hoff hj ⟨rfl, hprv, hacc, hw, hf, hsc, hre, hord⟩
    exact ⟨_, _, hgo, ⟨rfl, rfl, (hkeep.job c p).trans hj⟩, rfl, rfl, rfl, op_of_fateOf_instr hf,
      SameMemory.ofEq hkeep.mem hkeep.undef hkeep.hist, hkeep.accs⟩
  case matrix =>
    intro s c b x ws rf i s1 q hoff hx hrun hstopped hstop hops hacc hw hf hsc hre hord
    obtain ⟨t, hgo, hkeep⟩ := act_matrix_go hoff hx hrun hstopped hstop hops ⟨rfl, rfl, hacc, hw, hf, hsc, hre, hord⟩
    exact ⟨_, _, hgo, ⟨rfl, rfl, (hkeep.seq c b).trans hx⟩, rfl, rfl, op_of_fateOf_instr hf,
      SameMemory.ofEq hkeep.mem hkeep.undef hkeep.hist, hkeep.accs⟩
  case words =>
    intro s ag prv pc w rf hw hp
    exact ⟨fun h2 => ⟨fetchWords_oneWord hw hp h2, by simp [splitWords, hp]⟩,
      fun ad rf' h2 had => ⟨fetchWords_twoWords hw hp h2 had, by simp [splitWords, hp]⟩⟩
  case slot511 =>
    intro s c l prv pc x hx hpool hhost hbad hst hc
    exact fetchWord_home (fetchPlace_slot511 rfl prv hx hpool hhost) (fetchCopy_none hc) (isPeer_of_target hx) hbad hst
  case page =>
    intro s ag prv pc e fill pa hu hc ht hl
    have hp := fetchPlace_page hu hc ht hl
    obtain ⟨x, hx⟩ := target?_of_leafCheck hl
    exact ⟨fun hbad hst hcp => fetchWord_home hp (fetchCopy_none hcp) (isPeer_of_target hx) hbad hst,
      fun cp hcp hpeer hbad hst => fetchWord_copy_or_home hp hcp hpeer hbad hst⟩
  case peer =>
    intro s ag prv pc hu hc
    refine ⟨fun hv => ⟨_, by rw [fetchWord, fetchPlace_peer_invalid prv hu hc hv], rfl, ?_, peerAux_reason (reason := 1) (by decide) ..⟩,
      fun hv hcp hf => fetchWord_far (fetchPlace_peer prv hu hc hv) (fetchCopy_none hcp) (isPeer_of_class hc) hf⟩
    exact BitVec.eq_of_toNat_eq (by simp)
  case off =>
    exact fun s hoff => ⟨fun c k sl => act_of_off hoff rfl, fun c p => act_of_off hoff rfl, fun c b => act_of_off hoff rfl⟩

end Sys2Proof.Machine
end

/-!
SPAWN and SFENCE (R50, R223, R224; O18). Two layers: what a read that has come leaves alone (`ReadLeaves`, up to an operand of a word, `opReadSec_ok`),
and what an appended entry leaves (`spawnAppend_result`), to which both words come.
-/

section
namespace Sys2Proof.Machine

/-! ## The cache parts (R82, R92, R96) -/

/-- t is s but for what the cache parts and the cores hold. -/
structure CacheStep (s t : State) : Prop where
  package : { t with soffit := s.soffit, proxies := s.proxies, bad := s.bad, cores := s.cores } = s

theorem CacheStep.refl (s : State) : CacheStep s s := ⟨rfl⟩
theorem cacheStep_tables (s : State) (so : Map (Map SofE)) (px : Map Proxy) (bd : List BadUnit) (co : Map Core) :
    CacheStep s { s with soffit := so, proxies := px, bad := bd, cores := co } := ⟨rfl⟩
theorem CacheStep.trans {s t u : State} (h : CacheStep s t) (h' : CacheStep t u) : CacheStep s u where
  package := by
    calc { u with soffit := s.soffit, proxies := s.proxies, bad := s.bad, cores := s.cores }
      = { { u with soffit := t.soffit, proxies := t.proxies, bad := t.bad, cores := t.cores } with
            soffit := s.soffit, proxies := s.proxies, bad := s.bad, cores := s.cores } := rfl
    _ = { t with soffit := s.soffit, proxies := s.proxies, bad := s.bad, cores := s.cores } := by rw [h'.package]
    _ = s := h.package
theorem CacheStep.foldl {α : Type} {f : State → α → State} (h : ∀ s x, CacheStep s (f s x)) (s : State) (l : List α) : CacheStep s (l.foldl f s) :=
  List.foldlRecOn (motive := fun t => CacheStep s t) l _ (CacheStep.refl s) fun t ht x _ => ht.trans (h t x)

theorem cacheStep_sofDrop (s : State) (d g : Nat) : CacheStep s (sofDrop s d g) := by
  unfold sofDrop
  split
  · exact CacheStep.refl s
  · exact cacheStep_tables s ..
theorem cacheStep_partRoom (s : State) (d : Nat) : CacheStep s (partRoom s d) := by
  unfold partRoom
  split
  · exact CacheStep.refl s
  · split
    · exact CacheStep.refl s
    · exact (CacheStep.foldl (fun s g => cacheStep_sofDrop s d g) s _).trans (cacheStep_tables _ ..)
theorem cacheStep_poolRoom (s : State) (g : Nat) : CacheStep s (poolRoom s g) := by
  unfold poolRoom
  split
  · exact CacheStep.refl s
  · split
    · exact CacheStep.refl s
    · exact cacheStep_sofDrop s ..
    · exact cacheStep_tables s ..
theorem cacheStep_sofTouch (s : State) (t : Target) (ev : Nat) (nosc dirty : Bool) : CacheStep s (sofTouch s t ev nosc dirty) := by
  unfold sofTouch
  split
  · exact CacheStep.refl s
  · dsimp only
    split
    · exact cacheStep_tables s ..
    · split
      · exact CacheStep.refl s
      · exact ((cacheStep_poolRoom s _).trans (cacheStep_partRoom _ _)).trans (cacheStep_tables _ ..)

/-! ## What a read that has come leaves alone (R266 to R271) -/

/-- t is s but for the caches, the TLBs, the leases and the accesses in flight, and every course is as it was. -/
structure ReadLeaves (s t : State) : Prop where
  package : { t with accs := s.accs, soffit := s.soffit, proxies := s.proxies, bad := s.bad, cores := s.cores, leases := s.leases, seen := s.seen,
                     free := s.free } = s
  course : ∀ c k, t.course? c k = s.course? c k

theorem ReadLeaves.refl (s : State) : ReadLeaves s s := ⟨rfl, fun _ _ => rfl⟩
theorem ReadLeaves.trans {s t u : State} (h : ReadLeaves s t) (h' : ReadLeaves t u) : ReadLeaves s u where
  package := by
    calc { u with accs := s.accs, soffit := s.soffit, proxies := s.proxies, bad := s.bad, cores := s.cores, leases := s.leases, seen := s.seen,
                  free := s.free }
        = { { u with accs := t.accs, soffit := t.soffit, proxies := t.proxies, bad := t.bad, cores := t.cores, leases := t.leases, seen := t.seen,
                     free := t.free } with
              accs := s.accs, soffit := s.soffit, proxies := s.proxies, bad := s.bad, cores := s.cores, leases := s.leases, seen := s.seen,
              free := s.free } := rfl
      _ = { t with accs := s.accs, soffit := s.soffit, proxies := s.proxies, bad := s.bad, cores := s.cores, leases := s.leases, seen := s.seen,
                   free := s.free } := by rw [h'.package]
      _ = s := h.package
  course := fun c k => (h'.course c k).trans (h.course c k)

section
variable {s t : State} (h : ReadLeaves s t)
include h
theorem ReadLeaves.bays : t.bays = s.bays := (congrArg State.bays h.package :)
theorem ReadLeaves.cols : t.cols = s.cols := (congrArg State.cols h.package :)
theorem ReadLeaves.time : t.t = s.t := (congrArg State.t h.package :)
theorem ReadLeaves.mem : t.mem = s.mem := (congrArg State.mem h.package :)
theorem ReadLeaves.undef : t.undef = s.undef := (congrArg State.undef h.package :)
theorem ReadLeaves.hist : t.hist = s.hist := (congrArg State.hist h.package :)
theorem ReadLeaves.out : t.out = s.out := (congrArg State.out h.package :)
theorem ReadLeaves.issue : t.issue = s.issue := (congrArg State.issue h.package :)
theorem ReadLeaves.bay (b : Nat) : t.bay b = s.bay b := by rw [State.bay, h.bays]; rfl
theorem ReadLeaves.bayOf (c : Nat) : t.bayOf c = s.bayOf c := by rw [State.bayOf, State.bayOf?, h.cols]; rfl
theorem ReadLeaves.issues {iss : Issue} {c k : Nat} {x : Course} (hi : CourseIssues s iss c k x) : CourseIssues t iss c k x :=
  ⟨h.issue.trans hi.1, hi.2.1, (h.course c k).trans hi.2.2⟩
end

theorem CacheStep.leaves {s t : State} (h : CacheStep s t) (hc : ∀ c k, t.course? c k = s.course? c k) : ReadLeaves s t where
  package := by
    calc { t with accs := s.accs, soffit := s.soffit, proxies := s.proxies, bad := s.bad, cores := s.cores, leases := s.leases, seen := s.seen,
                  free := s.free }
        = { { t with soffit := s.soffit, proxies := s.proxies, bad := s.bad, cores := s.cores } with
              accs := s.accs, leases := s.leases, seen := s.seen, free := s.free } := rfl
      _ = s := by rw [h.package]
  course := hc

theorem readLeaves_sofTouch (s : State) (t : Target) (ev : Nat) (nosc dirty : Bool) : ReadLeaves s (sofTouch s t ev nosc dirty) :=
  (cacheStep_sofTouch s t ev nosc dirty).leaves (fetchKeeps_sofTouch s t ev nosc dirty).course
theorem readLeaves_grantLease (s : State) (a : Access) (t : Target) : ReadLeaves s (grantLease s a t).1 := by
  refine ⟨?_, (fetchKeeps_grantLease s a t).course⟩
  unfold grantLease
  dsimp only
  split <;> rfl
theorem readLeaves_tlbRefill (s : State) (c q : Nat) (e : TlbE) : ReadLeaves s (tlbRefill s c q e) :=
  ⟨rfl, (fetchKeeps_tlbRefill s c q e).course⟩
theorem readLeaves_installCopy (s : State) (a : Access) (b : List Byte) (e : Option Nat) (dst : Nat) : ReadLeaves s (installCopy s a b e dst) := by
  refine CacheStep.leaves ?_ (fetchKeeps_installCopy s a b e dst).course
  unfold installCopy
  split
  · dsimp only
    split
    · exact CacheStep.refl s
    · exact (cacheStep_poolRoom s _).trans (cacheStep_tables _ ..)
  · exact CacheStep.refl s
theorem readLeaves_touch (s : State) (c g ev n : Nat) : ReadLeaves s (s.updCore c (·.touch g ev n)) :=
  ⟨rfl, (fetchKeeps_ofCore s c _ fun x => x.sameAgents_touch g ev n).course⟩
theorem readLeaves_noteSeen (s : State) (ag : Agent) (x n : Nat) : ReadLeaves s (noteSeen s ag x n) := ⟨rfl, fun _ _ => rfl⟩
theorem readLeaves_dropAcc (s : State) (id : Nat) : ReadLeaves s (dropAcc s id) := ⟨rfl, fun _ _ => rfl⟩
theorem readLeaves_bumpFree (s : State) : ReadLeaves s s.bumpFree := ⟨rfl, fun _ _ => rfl⟩

/-- What holds of the state that a read hands on once it has come. -/
def OpRead.Came (P : State → Prop) : OpRead → Prop
  | .ok s _ => P s
  | _ => True

theorem readAt_came (s : State) (c : Nat) (a : Access) (dst : Nat) (home : Bool) : (readAt s c a dst home).Came (ReadLeaves s) := by
  unfold readAt
  split
  · trivial
  · split
    · split
      · trivial
      · exact readLeaves_bumpFree s
    · split
      · trivial
      · dsimp only
        split
        · exact (readLeaves_touch s c ..).trans (readLeaves_noteSeen ..)
        · split
          · trivial
          · split
            · trivial
            · exact (((readLeaves_grantLease s ..).trans (readLeaves_noteSeen ..)).trans (readLeaves_sofTouch ..)).trans
                ((readLeaves_installCopy ..).trans (readLeaves_bumpFree _))

theorem OpRead.Came.of_leaves {s t : State} (h : ReadLeaves s t) {r : OpRead} (hr : r.Came (ReadLeaves t)) : r.Came (ReadLeaves s) := by
  cases r with
  | ok u b => exact h.trans hr
  | stay u => trivial
  | bad f => trivial
  | ecc src => trivial

theorem readKept_came (s : State) (c : Nat) (x : Access) (home : Bool) : (readKept s c x home).Came (ReadLeaves s) := by
  unfold readKept
  split
  · exact readLeaves_dropAcc s x.id
  · have hr := (readAt_came (dropAcc s x.id) c x ‹_› home).of_leaves (readLeaves_dropAcc s x.id)
    split
    · trivial
    · exact hr
  · trivial

/-- The quarter TLB refilled by a hit in the core's (R90). -/
theorem readLeaves_refill (s : State) (c : Nat) (e : Option TlbE) (q : Option Nat) :
    ReadLeaves s (match e, q with
      | some e, some q => tlbRefill s c q e
      | _, _ => s) := by
  split
  · exact readLeaves_tlbRefill ..
  · exact ReadLeaves.refl s
theorem readNew_came (s : State) (c : Nat) (a : Access) (home : Bool) : (readNew s c a home).Came (ReadLeaves s) := by
  unfold readNew
  split
  · trivial
  · exact (readAt_came _ c a _ home).of_leaves (readLeaves_refill s c _ _)
  · split <;> trivial

/-- An operand that a word has read: bays, memory, time and courses are as they were. -/
theorem opReadSec_ok {s t : State} {iss : Issue} {va : W64} {n : Nat} {home : Bool} {b : List Byte} (h : opReadSec s iss va n home = .ok t b) :
    ReadLeaves s t := by
  have hr : (opReadSec s iss va n home).Came (ReadLeaves s) := by
    unfold opReadSec
    dsimp only
    split
    · trivial
    · split
      · exact readKept_came ..
      · exact readNew_came ..
  rw [h] at hr
  exact hr

/-! ## An entry appended (R50, R223, R224) -/

/-- An entry of course k of core c, in course x, is appended to a level of the spawn queue of its bay, and no other level or bay changes. -/
structure Appended (s t : State) (c k : Nat) (x : Course) (lvl : Nat) (fence : Bool) (addr : W64) : Prop where
  jseq : (t.bay (s.bayOf c)).jseq = (s.bay (s.bayOf c)).jseq + 1
  level : mget (t.bay (s.bayOf c)).levels lvl [] = mget (s.bay (s.bayOf c)).levels lvl [] ++
    [{ jseq := (s.bay (s.bayOf c)).jseq, fence := fence, addr := addr, prv := x.prv, core := c, slot := k }]
  levels : ∀ m, m ≠ lvl → mget (t.bay (s.bayOf c)).levels m [] = mget (s.bay (s.bayOf c)).levels m []
  bays : ∀ d, d ≠ s.bayOf c → t.bay d = s.bay d
  mem : t.mem = s.mem

/-- What SPAWN and SFENCE leave in their course: the JSEQ of the entry in sD, the lanes at the next issue. -/
def JseqGiven (s t : State) (iss : Issue) (c k : Nat) (x : Course) (d : Reg) : Prop :=
  ∃ y, t.course? c k = some y ∧
    CourseAfter s iss true (x.u.ws d.toNat (BitVec.ofNat 64 (s.bay (s.bayOf c)).jseq)) x y (fun _ ln => { ln with pc := iss.next })

/-- The rewriting of an issuer's uniform state, then the end of its issue, is one uniform word. -/
theorem skip_updIss {s : State} {iss : Issue} {c k : Nat} (hw : iss.who = .course c k) (f : Uni → Uni) :
    skip (updIss s iss.who f) iss true = uniOp s iss f := by
  unfold updIss uniOp
  rw [hw]

theorem CourseAfter.of_time {s t : State} {iss : Issue} {uset : Bool} {u : Uni} {x y : Course} {f : Nat → Lane → Lane} (h : CourseAfter t iss uset u x y f)
    (ht : t.t = s.t) : CourseAfter s iss uset u x y f :=
  ⟨h.lane, h.wins, by rw [← ht]; exact h.times, h.rest⟩

theorem spawnAppend_result {s : State} {iss : Issue} {c k : Nat} {x : Course} (h : CourseIssues s iss c k x) (lvl : Nat) (fence : Bool) (addr : W64)
    (d : Reg) : Appended s (spawnAppend s iss c k lvl fence addr d) c k x lvl fence addr ∧ JseqGiven s (spawnAppend s iss c k lvl fence addr d) iss c k x d := by
  let e : SpawnE := { jseq := (s.bay (s.bayOf c)).jseq, fence := fence, addr := addr, prv := x.prv, core := c, slot := k }
  let v := s.updBay (s.bayOf c) (fun y => { y with jseq := (s.bay (s.bayOf c)).jseq + 1, levels := mset y.levels lvl (mget y.levels lvl [] ++ [e]) })
  have hrun : spawnAppend s iss c k lvl fence addr d = uniOp v iss (·.ws d.toNat (BitVec.ofNat 64 (s.bay (s.bayOf c)).jseq)) := by
    rw [spawnAppend, skip_updIss h.2.1, prvOf_course h]
  obtain ⟨honly, y, hy, hafter⟩ := uniOp_course (s := v) (iss := iss) (c := c) (k := k) (x := x) h (·.ws d.toNat (BitVec.ofNat 64 (s.bay (s.bayOf c)).jseq))
  rw [hrun]
  have hbay : ∀ b, (uniOp v iss (·.ws d.toNat (BitVec.ofNat 64 (s.bay (s.bayOf c)).jseq))).bay b = v.bay b := fun b => by
    rw [State.bay, show State.bays _ = v.bays from (congrArg State.bays honly.package :)]; rfl
  refine ⟨⟨?_, ?_, fun m hm => ?_, fun b hb => ?_, (congrArg State.mem honly.package :)⟩, y, hy, hafter.of_time rfl⟩
  · rw [hbay, State.bay_updBay, if_pos rfl]
  · rw [hbay, State.bay_updBay, if_pos rfl, mget_mset_self]
  · rw [hbay, State.bay_updBay, if_pos rfl, mget_mset_ne _ _ _ hm]
  · rw [hbay, State.bay_updBay, if_neg hb]

/-- The same after a read by the word, which leaves bays, memory, time and courses as they were. -/
theorem ReadLeaves.appended {s t u : State} (h : ReadLeaves s t) {iss : Issue} {c k : Nat} {x : Course} {lvl : Nat} {fence : Bool} {addr : W64} {d : Reg}
    (hu : Appended t u c k x lvl fence addr ∧ JseqGiven t u iss c k x d) : Appended s u c k x lvl fence addr ∧ JseqGiven s u iss c k x d := by
  obtain ⟨⟨hjseq, hlevel, hlevels, hbays, hmem⟩, y, hy, hafter⟩ := hu
  simp only [h.bayOf, h.bay] at hjseq hlevel hlevels hbays hafter
  exact ⟨⟨hjseq, hlevel, hlevels, hbays, hmem.trans h.mem⟩, y, hy, hafter.of_time h.time⟩

theorem spawn_result {q : Guard} {d a : Reg} {s : State} {iss : Issue} {c k : Nat} {x : Course} {s' : State} {v : Byte} (h : CourseIssues s iss c k x)
    (hq : x.u.rq q = true) (haddr : (x.u.rs a.toNat).toNat % 64 = 0) (hrel : relPassed s (uniAgent iss) 7 = true)
    (hread : opReadSec s iss (x.u.rs a.toNat + 51) 1 true = .ok s' [v]) (hroom : (mget (s.bay (s.bayOf c)).levels (v.toNat / 8 % 4) []).length < 1024) :
    exec (.spawn q d a) s = .next (spawnAppend s' iss c k (v.toNat / 8 % 4) false (x.u.rs a.toNat) d) := by
  have hleaves := opReadSec_ok hread
  have hlvl : leNum [v] = v.toNat := by simp [leNum]
  have hfull : levelFull s' c (v.toNat / 8 % 4) = false := by
    rw [levelFull, hleaves.bayOf, hleaves.bay]
    simpa using hroom
  change execSpawn q d a s = _
  rw [execSpawn, cword_course h, if_pos hq, uniOf_course h]
  dsimp only
  rw [if_neg (by simp [haddr]), if_neg (by simp [hrel]), hread, withRead, hlvl, if_neg (by simp [hfull])]

theorem sfence_result {q : Guard} {d a b : Reg} {s : State} {iss : Issue} {c k : Nat} {x : Course} (h : CourseIssues s iss c k x)
    (hq : x.u.rq q = true) (haddr : (x.u.rs a.toNat).toNat % 64 = 0) (hlvl : (x.u.rs b.toNat).toNat < 4) (hrel : relPassed s (uniAgent iss) 7 = true)
    (hroom : (mget (s.bay (s.bayOf c)).levels (x.u.rs b.toNat).toNat []).length < 1024) :
    exec (.sfence q d a b) s = .next (spawnAppend s iss c k (x.u.rs b.toNat).toNat true (x.u.rs a.toNat) d) := by
  have hfull : levelFull s c (x.u.rs b.toNat).toNat = false := by
    rw [levelFull]
    simpa using hroom
  change execSfence q d a b s = _
  rw [execSfence, cword_course h, if_pos hq, uniOf_course h]
  simp [haddr, hrel, hfull, Nat.not_le.2 hlvl]

/-- Settles O18: both words come to `spawnAppend`, SPAWN in the state that its read of PRIO leaves. -/
theorem spawnAndFenceResults : Obligations.SpawnAndFenceResults := by
  unfold Obligations.SpawnAndFenceResults
  refine ⟨?_, ?_⟩
  · intro q d a s iss c k x s' v h hq haddr hrel hread hroom
    have hleaves := opReadSec_ok hread
    obtain ⟨⟨hjseq, hlevel, hlevels, hbays, hmem⟩, y, hy, hafter⟩ :=
      hleaves.appended (spawnAppend_result (hleaves.issues h) (v.toNat / 8 % 4) false (x.u.rs a.toNat) d)
    exact ⟨_, y, spawn_result h hq haddr hrel hread hroom, ⟨hjseq, hlevel, hlevels, hbays, hmem⟩, hy, hafter⟩
  · intro q d a b s iss c k x h hq haddr hlvl hrel hroom
    obtain ⟨⟨hjseq, hlevel, hlevels, hbays, hmem⟩, y, hy, hafter⟩ := spawnAppend_result h (x.u.rs b.toNat).toNat true (x.u.rs a.toNat) d
    exact ⟨_, y, sfence_result h hq haddr hlvl hrel hroom, ⟨hjseq, hlevel, hlevels, hbays, hmem⟩, hy, hafter⟩

end Sys2Proof.Machine
end

/-!
The state after reset (R63, R295, R377, R402, R422, R425 to R427; O60).
-/

section
namespace Sys2Proof.Machine

/-- Settles O60: the reset state lists no bay, core, access or byte, so each is read as what an unlisted one is. -/
theorem resetState : Obligations.ResetState := by
  unfold Obligations.ResetState
  refine ⟨rfl, rfl, rfl, rfl, rfl, rfl, ?bays, ?agents, ?cores, rfl, rfl, rfl, State.reset_memWf, ?bytes⟩
  case bays => exact fun _ => ⟨rfl, rfl⟩
  case agents => exact fun _ _ => ⟨rfl, rfl, rfl⟩
  case cores => exact fun _ => ⟨rfl, rfl, rfl, rfl⟩
  case bytes => exact fun _ => rfl

end Sys2Proof.Machine
end

/-!
A staging whose reads find their port down (R58, R59, R357, R377, R418; O35). LINK_DOWN contains the bay in the step of the read: the accesses of the
staging are dropped, while the block, which the containment takes away in a later step (R341), still stands.
-/

section
namespace Sys2Proof.Machine

/-- A region of one line at 0x10000, to be read into tile 0. -/
def farRegion : Region := { addr := 0x1000, tile := 0, lines := 1, stride := 0, base := 0x10000 }
/-- A placed block of bay 0 with that region. -/
def farBlock : Block := { st := .placed, slots := [0], threads := 8, tent := 1, tlines := 1, regions := [farRegion] }
/-- A core that holds the block, and whose TLB maps the page of the region to pool memory, for reads. -/
def farCore : Core := { blocks := [(0, farBlock)], tlb := [{ va := 0x10000, z := 0, leaf := 0x200000000007 }] }
/-- Bay 0, formed of column 0; port M, behind which pool memory lies, is down. -/
def farState : State :=
  { State.reset with st := .ready, cols := [(0, 0)], bays := [(0, { formed := true })], cores := [(0, farCore)], mUp := false }

/-- The read of the region's first sector is LINK_DOWN, which contains (R377, R418). -/
theorem farState_linkDown : (match probeOf farState 0 (stageAcc 0 0 farBlock 0 farRegion 0) with
    | .bad r => r.code == 0x32 && r.cont
    | _ => false) = true := by decide +kernel

/-- The state after the staging: bay 0 is under containment, block 0 stands, and no access is in flight. -/
theorem farState_staged : (match act farState (.stage 0 0) with
    | .stay t => (t.bay 0).contained && (t.block? 0 0).isSome && t.accs.isEmpty
    | .go _ _ => false) = true := by decide +kernel

theorem farState_tiles : (stageTiles 0 farBlock.regions (farState.core 0)).isSome = true := by decide +kernel

/-- Refutes O35: its clause of the staging has the eight reads of the region's one line in flight for as long as the block stands. With the port of
the region down (`farState_linkDown`) the first read contains the bay, and the block stands with none of them in flight (`farState_staged`). -/
theorem not_schedulingSteps : ¬ Obligations.SchedulingSteps := by
  unfold Obligations.SchedulingSteps
  intro h
  obtain ⟨-, -, -, -, -, -, -, -, hstage, -⟩ := h
  obtain ⟨co, hco⟩ := Option.isSome_iff_exists.1 farState_tiles
  obtain ⟨t, ht, -, hblock⟩ := hstage farState 0 0 farBlock co rfl rfl rfl hco rfl
  have hrun := farState_staged
  rw [ht] at hrun
  simp only [Bool.and_eq_true, List.isEmpty_iff] at hrun
  obtain ⟨⟨-, hstands⟩, hnone⟩ := hrun
  rcases hblock with hgone | ⟨-, -, -, new, haccs, hlen, -⟩
  · rw [hgone] at hstands
    cases hstands
  · have hnew : new = [] := (List.append_eq_nil_iff.1 (haccs.symm.trans hnone)).2
    rw [hnew] at hlen
    cases hlen

end Sys2Proof.Machine
end

/-!
The host and CXL links (R49, R301, R373, R374, R377, R417, R418; O49). Four layers: the trigger step of a containment (`triggered_contain`), what a port
that goes down leaves before its accesses fail (`linkLost`), a host access at its home (`hdmRead_result`, `hdmWrite_result`), and the end of a page
request (`pageFilled_result`, `pageFailed_triggered`).
-/

section
namespace Sys2Proof.Machine

/-! ## The trigger step of a containment (R340, R341) -/

theorem containMail_entries (s : State) (b : Nat) (r : FaultRec) : (((containMail s b r).bay b).mailbox 15).entries =
    (((s.bay b).mailbox 15).entries ++ [r.bits]).take (max 256 ((s.bay b).mailbox 15).entries.length) := by
  unfold containMail
  split
  next h =>
    rw [State.unread] at h
    rw [List.take_of_length_le (by simp; omega), bay_appendMail]
  next h =>
    rw [State.unread, not_lt] at h
    rw [Nat.max_eq_right h, List.take_left]
theorem containMail_bay (s : State) (b : Nat) (r : FaultRec) : ∃ mail, (containMail s b r).bay b = { s.bay b with mail := mail } := by
  unfold containMail
  split
  · exact appendMail_rest s b 15 r.bits
  · exact ⟨_, rfl⟩
theorem containMail_mUp (s : State) (b : Nat) (r : FaultRec) : (containMail s b r).mUp = s.mUp := by
  unfold containMail
  split <;> rfl

/-- The trigger record of R340 as it enters mailbox 15. -/
def FaultRec.trigger (r : FaultRec) : FaultRec := { r with cont := true, held := false }

theorem nextInc_bay (s : State) (b : Nat) : (nextInc s b).bay b = { s.bay b with inc := (s.bay b).inc + 1 } :=
  (State.bay_updBay s b b fun y => { y with inc := y.inc + 1 }).trans (if_pos rfl)
theorem nextInc_mUp (s : State) (b : Nat) : (nextInc s b).mUp = s.mUp := rfl
theorem announced_nextInc (s : State) (b : Nat) : OutPkt.announce b ((s.bay b).inc + 1) ∈ (nextInc s b).out := by
  have h : (nextInc s b).out = s.out ++ [.announce b ((nextInc s b).bay b).inc] := rfl
  rw [h, nextInc_bay]
  exact List.mem_append_right _ (List.mem_singleton_self _)

/-- The trigger step of a bay that is not under containment: the record, the incarnation, the steps to come. -/
theorem contain_some {s : State} {b : Nat} (hf : (s.bay b).formed = true) (hc : (s.bay b).cont = none) (r : FaultRec) : contain s b (some r) =
    (nextInc (containMail s b r.trigger) b).updBay b (fun y => { y with cont := some { stop := s.coresOf b, old := (s.bay b).inc } }) := by
  obtain ⟨mail, hmail⟩ := containMail_bay s b r.trigger
  have hcont : ((nextInc (containMail s b r.trigger) b).bay b).cont = none := by rw [nextInc_bay, hmail]; exact hc
  have hcores : (nextInc (containMail s b r.trigger) b).coresOf b = s.coresOf b :=
    ((onlyBay_containMail s b r.trigger).trans (onlyBay_nextInc _ b)).coresOf b
  have hold : ((containMail s b r.trigger).bay b).inc = (s.bay b).inc := containMail_inc ..
  rw [contain, if_neg (by simp [hf])]
  simp only [triggerMail]
  rw [← FaultRec.trigger, hold, hcont, hcores]

theorem triggered_contain {s : State} {b : Nat} (hf : (s.bay b).formed = true) (hc : (s.bay b).cont = none) (r : FaultRec) :
    Triggered s (contain s b (some r)) b [r.trigger.bits] := by
  obtain ⟨mail, hmail⟩ := containMail_bay s b r.trigger
  have hbay : (contain s b (some r)).bay b =
      { s.bay b with mail := mail, inc := (s.bay b).inc + 1, cont := some { stop := s.coresOf b, old := (s.bay b).inc } } := by
    rw [contain_some hf hc, State.bay_updBay, if_pos rfl, nextInc_bay, hmail]
  have hbox : ∀ m, ((contain s b (some r)).bay b).mailbox m = ((containMail s b r.trigger).bay b).mailbox m := fun m => by
    rw [hbay, hmail]; rfl
  refine ⟨by rw [hbay], by rw [hbay], ?_, ⟨by rw [hbay], fun m hm => ?_⟩, fun d hd => ?_, ?_⟩
  · rw [hbox, containMail_entries]
  · rw [hbox, containMail_mailbox_ne _ _ _ hm]
  · rw [contain_some hf hc]
    exact (((onlyBay_containMail s b r.trigger).trans (onlyBay_nextInc _ b)).trans (onlyBay_updBay ..)).bays d hd
  · rw [contain_some hf hc, ← containMail_inc s b r.trigger]
    exact announced_nextInc ..

theorem contain_mUp {s : State} {b : Nat} (hf : (s.bay b).formed = true) (hc : (s.bay b).cont = none) (r : FaultRec) :
    (contain s b (some r)).mUp = s.mUp := by
  rw [contain_some hf hc, State.updBay_mUp, nextInc_mUp, containMail_mUp]

/-- A trigger step in a state with the bays and columns of s. -/
theorem Triggered.of_bays {s u t : State} {b : Nat} {l : List W512} (hb : u.bays = s.bays) (hc : u.cols = s.cols) (h : Triggered u t b l) :
    Triggered s t b l := by
  have hbay : ∀ d, u.bay d = s.bay d := fun d => by rw [State.bay, hb]; rfl
  have hcores : u.coresOf b = s.coresOf b := by unfold State.coresOf State.bayOf?; rw [hc]
  obtain ⟨hinc, hsteps, hbox, hrest, hothers, htold⟩ := h
  rw [hbay] at hinc hsteps hbox htold
  rw [hcores] at hsteps
  simp only [hbay] at hrest hothers
  exact ⟨hinc, hsteps, hbox, hrest, hothers, htold⟩

/-! ## A port goes down (R377, R418) -/

/-- t is s but for what the soffit's cache parts hold, and what of it is bad. -/
structure PartsOnly (s t : State) : Prop where
  package : { t with soffit := s.soffit, bad := s.bad } = s

theorem PartsOnly.refl (s : State) : PartsOnly s s := ⟨rfl⟩
theorem PartsOnly.trans {s t u : State} (h : PartsOnly s t) (h' : PartsOnly t u) : PartsOnly s u where
  package := by
    calc { u with soffit := s.soffit, bad := s.bad }
        = { { u with soffit := t.soffit, bad := t.bad } with soffit := s.soffit, bad := s.bad } := rfl
      _ = { t with soffit := s.soffit, bad := s.bad } := by rw [h'.package]
      _ = s := h.package
theorem PartsOnly.foldl {α : Type} {f : State → α → State} (h : ∀ s x, PartsOnly s (f s x)) (s : State) (l : List α) : PartsOnly s (l.foldl f s) :=
  List.foldlRecOn (motive := fun t => PartsOnly s t) l _ (PartsOnly.refl s) fun t ht x _ => ht.trans (h t x)
theorem partsOnly_sofDrop (s : State) (d g : Nat) : PartsOnly s (sofDrop s d g) := by
  unfold sofDrop
  split <;> exact ⟨rfl⟩
theorem partsOnly_sofDropAll (s : State) (p : Nat → Bool) : PartsOnly s (sofDropAll s p) := by
  refine PartsOnly.foldl (fun t e => PartsOnly.foldl (fun t x => ?_) t e.2) s s.soffit
  split
  · exact partsOnly_sofDrop ..
  · exact PartsOnly.refl t

/-- Granule g is held in the cache part of die d. -/
def SofHeld (s : State) (d g : Nat) : Prop := (mget? (mget s.soffit d []) g).isSome = true

theorem sofHeld_sofDrop {s : State} {d d' g g' : Nat} (h : SofHeld (sofDrop s d' g') d g) : SofHeld s d g ∧ ¬ (d = d' ∧ g = g') := by
  unfold SofHeld at h ⊢
  unfold sofDrop at h
  split at h
  next hnone =>
    refine ⟨h, ?_⟩
    rintro ⟨rfl, rfl⟩
    rw [hnone] at h
    cases h
  next hsome =>
    dsimp only at h
    rw [mget_mset] at h
    by_cases hd : d = d'
    · subst hd
      rw [if_pos rfl, mget?_mdel] at h
      split at h
      · cases h
      · exact ⟨h, fun hg => ‹¬ g = g'› hg.2⟩
    · rw [if_neg hd] at h
      exact ⟨h, fun hg => hd hg.1⟩

/-- Granules of one die's part dropped in turn. -/
theorem sofHeld_dropPart {p : Nat → Bool} {d d' g : Nat} (l : Map SofE) {s : State}
    (h : SofHeld (l.foldl (fun s x => if p x.1 then sofDrop s d' x.1 else s) s) d g) : SofHeld s d g ∧ ¬ (d = d' ∧ g ∈ mkeys l ∧ p g = true) := by
  induction l generalizing s with
  | nil => exact ⟨h, fun hg => by simp [mkeys] at hg⟩
  | cons x l ih =>
    obtain ⟨hstep, hrest⟩ := ih h
    have hhead : SofHeld s d g ∧ ¬ (d = d' ∧ g = x.1 ∧ p g = true) := by
      dsimp only at hstep
      split at hstep
      · obtain ⟨hs, hne⟩ := sofHeld_sofDrop hstep
        exact ⟨hs, fun hg => hne ⟨hg.1, hg.2.1⟩⟩
      · rename_i hp
        exact ⟨hstep, fun hg => hp (hg.2.1 ▸ hg.2.2)⟩
    refine ⟨hhead.1, fun ⟨hd, hmem, hpg⟩ => ?_⟩
    rcases List.mem_cons.1 hmem with hx | hl
    · exact hhead.2 ⟨hd, hx, hpg⟩
    · exact hrest ⟨hd, hl, hpg⟩

theorem sofHeld_dropParts {p : Nat → Bool} {d g : Nat} (l : Map (Map SofE)) {s : State}
    (h : SofHeld (l.foldl (fun s e => e.2.foldl (fun s x => if p x.1 then sofDrop s e.1 x.1 else s) s) s) d g) :
    SofHeld s d g ∧ ∀ e ∈ l, ¬ (d = e.1 ∧ g ∈ mkeys e.2 ∧ p g = true) := by
  induction l generalizing s with
  | nil => exact ⟨h, fun e he => by cases he⟩
  | cons e l ih =>
    obtain ⟨hstep, hrest⟩ := ih h
    obtain ⟨hs, hhead⟩ := sofHeld_dropPart e.2 hstep
    exact ⟨hs, List.forall_mem_cons.2 ⟨hhead, hrest⟩⟩

theorem mem_of_mget? {α : Type} {m : Map α} {k : Nat} {v : α} (h : mget? m k = some v) : (k, v) ∈ m := by
  induction m with
  | nil => cases h
  | cons e m ih =>
    obtain ⟨j, w⟩ := e
    by_cases hj : j = k
    · rw [mget?, if_pos hj] at h
      cases h
      exact hj ▸ List.mem_cons_self
    · rw [mget?, if_neg hj] at h
      exact List.mem_cons_of_mem _ (ih h)

/-- What answers the test is in no cache part afterwards. -/
theorem not_sofHeld_sofDropAll {s : State} {p : Nat → Bool} {d g : Nat} (hp : p g = true) : ¬ SofHeld (sofDropAll s p) d g := by
  intro h
  obtain ⟨hs, hall⟩ := sofHeld_dropParts s.soffit h
  obtain ⟨e, he⟩ := Option.isSome_iff_exists.1 hs
  cases hd : mget? s.soffit d with
  | none => simp [mget, hd] at he
  | some part =>
    rw [mget, hd] at he
    exact hall (d, part) (mem_of_mget? hd) ⟨rfl, mem_mkeys_of_mget? he, hp⟩

/-- The mark of a port that is down; at port H a report on its way to the host fails (R377, R429). -/
def portDown (s : State) : Bool → State
  | true => { s with mUp := false }
  | false => reportFail { s with hUp := false }
/-- The tier behind a port. -/
def portTier (m : Bool) : Tier := if m then .pool else .host
/-- Sectors whose write-through has not completed hold one of the values they have had (R418). -/
def openSectors (s : State) (m : Bool) : List Undef :=
  ((s.accs.filter (atPort s m)).filterMap (fun a => match a.ph with
    | .cxl _ _ d => some (canonPa s d / 32)
    | _ => none)).eraseDups.map (fun x => { lo := 32 * x, hi := 32 * x + 31, held := true })
/-- The port is down, its sectors have left the cache parts, and none of its accesses has failed yet. -/
def linkLost (s : State) (m : Bool) : State :=
  let v := sofDropAll (portDown s m) (fun g => tierOf (portDown s m) (64 * g) == portTier m)
  { v with undef := v.undef ++ openSectors s m }

theorem linkFail_none (s : State) (m : Bool) : linkFail s m none = (s.accs.filter (fun a => atPort s m a)).foldl (portFail 0x32) (linkLost s m) := by
  have hall : s.accs.filter (fun a => atPort s m a && some a.id != (none : Option Access).map (·.id)) = s.accs.filter (fun a => atPort s m a) :=
    List.filter_congr fun a _ => by simp
  rw [← hall]
  cases m <;> rfl
theorem linkFail_some (s : State) (m : Bool) (a : Access) : linkFail s m (some a) =
    (s.accs.filter (fun x => atPort s m x && some x.id != some a.id)).foldl (portFail 0x32) (portFail 0x31 (linkLost s m) a) := by
  cases m <;> rfl

/-- A port with nothing outstanding: its sectors leave the cache parts, and that is all. -/
theorem linkFail_idle {s : State} {m : Bool} (h : ∀ a ∈ s.accs, atPort s m a = false) :
    linkFail s m none = sofDropAll (portDown s m) (fun g => tierOf (portDown s m) (64 * g) == portTier m) := by
  have hnone : s.accs.filter (fun a => atPort s m a) = [] := List.filter_eq_nil_iff.2 fun a ha => by simp [h a ha]
  have hopen : openSectors s m = [] := by rw [openSectors, hnone]; rfl
  rw [linkFail_none, hnone, List.foldl_nil, linkLost, hopen]
  simp only [List.append_nil]

theorem reportFail_of_none {s : State} (h : s.report = none) : reportFail s = s := by rw [reportFail, h]
/-- The command of a report that is cut off fails (R429). -/
theorem reportFail_of_some {s : State} {x : Nat × Nat} {cmd : W512} (hr : s.report = some x) (hc : s.cmd = some cmd) :
    reportFail s = { Answered s cmd 2 5 with report := none } := by
  have hans : (0 : BitVec 480) ++ BitVec.ofNat 16 (cmd.toNat / 2 ^ 16) ++ BitVec.ofNat 8 5 ++ BitVec.ofNat 8 2 =
      BitVec.ofNat 512 (2 + 2 ^ 8 * 5 + 2 ^ 16 * (cmd.toNat / 2 ^ 16 % 2 ^ 16)) := by
    apply BitVec.eq_of_toNat_eq
    simp only [toNat_append_add, BitVec.ofNat_eq_ofNat, BitVec.toNat_ofNat]
    omega
  rw [reportFail, hr, hc]
  simp only [cmdAns, hans]
  rfl

/-- Nothing of the tier behind a port that has gone down is in a cache part. -/
theorem not_sofHeld_of_idle {s : State} {m : Bool} (h : ∀ a ∈ s.accs, atPort s m a = false) {d g : Nat} (hg : SofHeld (linkFail s m none) d g) :
    tierOf (portDown s m) (64 * g) ≠ portTier m := by
  rw [linkFail_idle h] at hg
  exact fun ht => not_sofHeld_sofDropAll (by simp [ht]) hg

theorem cxlLinkFailure_pool {s : State} (h : ∀ a ∈ s.accs, atPort s true a = false) :
    ∃ t : State, exec (.cxlLinkFailure .m) s = .next t ∧ { t with mUp := s.mUp, soffit := s.soffit, bad := s.bad } = s ∧ t.mUp = false ∧
      ∀ d g, (mget? (mget t.soffit d []) g).isSome → tierOf s (64 * g) ≠ .pool := by
  have hparts := (partsOnly_sofDropAll (portDown s true) (fun g => tierOf (portDown s true) (64 * g) == portTier true)).package
  rw [← linkFail_idle h] at hparts
  refine ⟨linkFail s true none, rfl, ?_, (congrArg State.mUp hparts :), fun d g hg => not_sofHeld_of_idle h hg⟩
  generalize linkFail s true none = t at hparts
  calc { t with mUp := s.mUp, soffit := s.soffit, bad := s.bad }
      = { { t with soffit := (portDown s true).soffit, bad := (portDown s true).bad } with mUp := s.mUp } := rfl
    _ = { portDown s true with mUp := s.mUp } := by rw [hparts]
    _ = s := rfl

theorem cxlLinkFailure_host {s : State} (h : ∀ a ∈ s.accs, atPort s false a = false) (hr : s.report = none) :
    ∃ t : State, exec (.cxlLinkFailure .h) s = .next t ∧ { t with hUp := s.hUp, soffit := s.soffit, bad := s.bad } = s ∧ t.hUp = false ∧
      ∀ d g, (mget? (mget t.soffit d []) g).isSome → tierOf s (64 * g) ≠ .host := by
  have hdown : portDown s false = { s with hUp := false } := reportFail_of_none hr
  have hparts := (partsOnly_sofDropAll (portDown s false) (fun g => tierOf (portDown s false) (64 * g) == portTier false)).package
  rw [← linkFail_idle h, hdown] at hparts
  refine ⟨linkFail s false none, rfl, ?_, (congrArg State.hUp hparts :), fun d g hg => ?_⟩
  · generalize linkFail s false none = t at hparts
    have ht : { t with soffit := s.soffit, bad := s.bad } = { s with hUp := false } := hparts
    calc { t with hUp := s.hUp, soffit := s.soffit, bad := s.bad }
        = { { t with soffit := s.soffit, bad := s.bad } with hUp := s.hUp } := rfl
      _ = { { s with hUp := false } with hUp := s.hUp } := by rw [ht]
      _ = s := rfl
  · have ht := not_sofHeld_of_idle h hg
    rw [hdown] at ht
    exact ht

theorem cxlLinkFailure_report {s : State} {x : Nat × Nat} {cmd : W512} (h : ∀ a ∈ s.accs, atPort s false a = false) (hr : s.report = some x)
    (hc : s.cmd = some cmd) : ∃ t : State, exec (.cxlLinkFailure .h) s = .next t ∧ t.hUp = false ∧ t.report = none ∧ t.cmd = none ∧
      t.ans = (Answered s cmd 2 5).ans := by
  have hdown : portDown s false = { Answered { s with hUp := false } cmd 2 5 with report := none } :=
    reportFail_of_some (s := { s with hUp := false }) hr hc
  have hparts := (partsOnly_sofDropAll (portDown s false) (fun g => tierOf (portDown s false) (64 * g) == portTier false)).package
  rw [← linkFail_idle h, hdown] at hparts
  exact ⟨linkFail s false none, rfl, (congrArg State.hUp hparts :), (congrArg State.report hparts :), (congrArg State.cmd hparts :),
    (congrArg State.ans hparts :)⟩

/-! ## The access outstanding at a port that goes down (R377) -/

theorem linkLost_pool (s : State) : (linkLost s true).bays = s.bays ∧ (linkLost s true).cols = s.cols ∧ (linkLost s true).accs = s.accs ∧
    (linkLost s true).mUp = false := by
  have hparts := (partsOnly_sofDropAll (portDown s true) (fun g => tierOf (portDown s true) (64 * g) == portTier true)).package
  exact ⟨(congrArg State.bays hparts :), (congrArg State.cols hparts :), (congrArg State.accs hparts :), (congrArg State.mUp hparts :)⟩

/-- The trigger record of a thread's access whose port fails (R377, R405). -/
def portRec (u : State) (code : Nat) (a : Access) : FaultRec :=
  (agentRec u a.ag a.pc a.lanes {
    code := code, loc := a.form.setWidth 128, aux := aux4 0 0 0 0 0 0 (kindNum a.kind) a.size, cont := true,
    async := a.kind.isWrite && (a.kind != .atomic || a.dest == .none) }).trigger

theorem portFail_thread {u : State} {a : Access} {c k l : Nat} (hag : a.ag = .thread c k l) (hmem : a ∈ u.accs) (code : Nat) :
    portFail code u a = contain u (u.bayOf c) (some (agentRec u a.ag a.pc a.lanes {
      code := code, loc := a.form.setWidth 128, aux := aux4 0 0 0 0 0 0 (kindNum a.kind) a.size, cont := true,
      async := a.kind.isWrite && (a.kind != .atomic || a.dest == .none) })) := by
  have hthere : u.accs.any (fun x => x.id == a.id && x.ag == a.ag) = true := List.any_eq_true.2 ⟨a, hmem, by simp⟩
  unfold portFail
  simp only [hag] at hthere ⊢
  rw [if_neg (by simp [hthere])]
  rfl

theorem OneAtPort.fails {s : State} {a : Access} {c k l : Nat} (h : OneAtPort s true a c k l) (code : Nat) :
    Triggered s (portFail code (linkLost s true) a) (s.bayOf c) [(portRec (linkLost s true) code a).bits] ∧
      (portFail code (linkLost s true) a).mUp = false := by
  obtain ⟨hone, hag, hformed, hcont⟩ := h
  obtain ⟨hbays, hcols, haccs, hup⟩ := linkLost_pool s
  have hmem : a ∈ (linkLost s true).accs := haccs ▸ (List.mem_filter.1 (hone ▸ List.mem_singleton_self a)).1
  have hbay : ∀ b, (linkLost s true).bay b = s.bay b := fun b => by rw [State.bay, hbays]; rfl
  have hof : (linkLost s true).bayOf c = s.bayOf c := by rw [State.bayOf, State.bayOf?, hcols]; rfl
  rw [portFail_thread hag hmem, hof]
  generalize linkLost s true = u at *
  rw [← hbay] at hformed hcont
  exact ⟨(triggered_contain hformed hcont _).of_bays hbays hcols, (contain_mUp hformed hcont _).trans hup⟩

theorem portRec_fields {a : Access} {c k l : Nat} (hag : a.ag = .thread c k l) (u : State) (code : Nat) : (portRec u code a).code = code ∧
    (portRec u code a).cont = true ∧ (portRec u code a).loc = BitVec.ofNat 128 a.form.toNat := by
  rw [portRec, hag]
  exact ⟨rfl, rfl, (BitVec.ofNat_toNat 128 a.form).symm⟩

theorem cxlLinkFailure_one {s : State} {a : Access} {c k l : Nat} (h : OneAtPort s true a c k l) : ∃ (t : State) (r : FaultRec),
    exec (.cxlLinkFailure .m) s = .next t ∧ t.mUp = false ∧ Triggered s t (s.bayOf c) [r.bits] ∧ r.code = 0x32 ∧ r.cont = true ∧
      r.loc = BitVec.ofNat 128 a.form.toNat := by
  obtain ⟨htrig, hup⟩ := h.fails 0x32
  have hrun : linkFail s true none = portFail 0x32 (linkLost s true) a := by rw [linkFail_none, h.1]; rfl
  exact ⟨_, _, congrArg Host.Outcome.next hrun, hup, htrig, portRec_fields h.2.1 ..⟩

/-- When a request was made at its port (R377). -/
def Access.since (a : Access) : Nat := match a.ph with
  | .cxl r _ _ => r.p
  | _ => a.t0

theorem cxlRequestTimeout_one {s : State} {a : Access} {c k l : Nat} (h : OneAtPort s true a c k l) (hid : s.accs.filter (fun y => y.id == a.id) = [a])
    (hlate : a.since + s.mTo ≤ s.t) : ∃ (t : State) (r : FaultRec), exec (.cxlRequestTimeout a.id) s = .next t ∧ t.mUp = false ∧
      Triggered s t (s.bayOf c) [r.bits] ∧ r.code = 0x31 ∧ r.cont = true := by
  obtain ⟨htrig, hup⟩ := h.fails 0x31
  obtain ⟨hcode, hcont, -⟩ := portRec_fields h.2.1 (linkLost s true) 0x31
  have hport : atPort s true a = true := (List.mem_filter.1 (h.1 ▸ List.mem_singleton_self a)).2
  have hrest : s.accs.filter (fun x => atPort s true x && some x.id != some a.id) = [] := by
    rw [List.filter_eq_nil_iff]
    intro x hx hother
    simp only [Bool.and_eq_true, bne_iff_ne, ne_eq, Option.some.injEq] at hother
    have hxa : x ∈ [a] := h.1 ▸ List.mem_filter.2 ⟨hx, hother.1⟩
    exact hother.2 (congrArg Access.id (List.mem_singleton.1 hxa))
  have hexec : exec (.cxlRequestTimeout a.id) s = .next (portFail 0x31 (linkLost s true) a) := by
    change execCxlRequestTimeout a.id s = _
    rw [execCxlRequestTimeout, find?_of_filter_singleton hid]
    refine congrArg Host.Outcome.next ((if_pos ?_).trans ?_)
    · rw [hport, Bool.true_and]
      exact decide_eq_true hlate
    · rw [linkFail_some, hrest]; rfl
  exact ⟨_, _, hexec, hup, htrig, hcode, hcont⟩

theorem cxlRequestTimeout_early {s : State} {a : Access} (ha : s.accs.find? (fun y => y.id == a.id) = some a) (hm : s.t < a.since + s.mTo)
    (hh : s.t < a.since + s.hTo) : exec (.cxlRequestTimeout a.id) s = .next s := by
  change execCxlRequestTimeout a.id s = _
  rw [execCxlRequestTimeout, ha]
  refine congrArg Host.Outcome.next ((if_neg ?_).trans (if_neg ?_))
  · rw [Bool.and_eq_true, not_and, decide_eq_true_eq]
    exact fun _ => Nat.not_le.2 hm
  · rw [Bool.and_eq_true, not_and, decide_eq_true_eq]
    exact fun _ => Nat.not_le.2 hh

/-! ## A host access at its home (R301, R302; log 108) -/

theorem target?_hbm {s : State} {pa : Nat} (h : pa < 0x8000000000) : target? s pa = some ⟨.hbm, pa, lineHome pa⟩ := if_pos h
/-- Only an HBM4 address has its tier (R84). -/
theorem lt_of_target?_hbm {s : State} {pa : Nat} {tg : Target} (h : target? s pa = some tg) (ht : tg.tier = .hbm) : pa < 0x8000000000 ∧ tg.canon = pa := by
  by_cases hpa : pa < 0x8000000000
  · rw [target?_hbm hpa] at h
    cases h
    exact ⟨hpa, rfl⟩
  · exfalso
    unfold target? at h
    rw [if_neg hpa] at h
    split at h
    · dsimp only at h
      split at h
      · cases h
      · split at h <;> cases h
        cases ht
    · split at h
      · dsimp only at h
        split at h <;> cases h
        cases ht
      · split at h
        · cases h
          cases ht
        · split at h <;> cases h
          cases ht

/-- The host's store of a write through HDM. -/
def hdmStore (hpa pa : Nat) : Access :=
  { id := 0, iss := 0, ag := .host, kind := .store, form := BitVec.ofNat 64 hpa, ea := BitVec.ofNat 64 pa, size := 32 }
/-- The physical address that a host physical address is mapped onto. -/
def hdmPa (s : State) (bay hpa : Nat) : Nat := (s.bay bay).hdmBase + (hpa - (s.bay bay).hdmHost)

/-- An address of the HDM range, with the link up, is refused by no check. -/
theorem HdmAt.passes {s : State} {bay hpa n : Nat} {tg : Target} (h : HdmAt s bay hpa n tg) :
    ¬ (hpa < (s.bay bay).hdmHost ∨ (s.bay bay).hdmHost + (s.bay bay).hdmLen < hpa + n ∨ hdmPa s bay hpa % 32 + n > 32 ∨ s.hUp = false) := by
  obtain ⟨hlo, hhi, hsec, hup, -, -⟩ := h
  rw [hup]
  rintro (h | h | h | h)
  · omega
  · omega
  · exact absurd hsec (Nat.not_le.2 h)
  · cases h

/-- A read through HDM of data that can be corrected. -/
theorem hdmRead_result {s : State} {bay hpa n : Nat} {tg : Target} (h : HdmAt s bay hpa n tg)
    (hheld : heldForTp s (tg.canon / 32) (homeT s tg.slice) = false) (hbad : badSector s (tg.canon / 32) = none) :
    ∃ t : State, exec (.hostHdmAccess bay hpa (.read n)) s = .next t ∧ SameMemory s t ∧ t.accs = s.accs ∧
      t.out = s.out ++ [OutPkt.hdmAns hpa ((List.range n).map (fun i => s.readByte (tg.canon + i)))] := by
  obtain ⟨-, -, -, -, htg, -⟩ := id h
  let a : Access := { id := 0, iss := 0, ag := .host, kind := .load, form := BitVec.ofNat 64 hpa, ea := BitVec.ofNat 64 (hdmPa s bay hpa), size := n }
  have hleaves : ReadLeaves s (sofTouch (grantLease s.bumpFree a tg).1 tg 0 false false) :=
    ((readLeaves_bumpFree s).trans (readLeaves_grantLease ..)).trans (readLeaves_sofTouch ..)
  have haccs : (sofTouch (grantLease s.bumpFree a tg).1 tg 0 false false).accs = s.accs :=
    (fetchKeeps_sofTouch ..).accs.trans (fetchKeeps_grantLease s.bumpFree a tg).accs
  have hexec : exec (.hostHdmAccess bay hpa (.read n)) s = .next
      (let s' := sofTouch (grantLease s.bumpFree a tg).1 tg 0 false false
       { s' with out := s'.out ++ [.hdmAns hpa (s.readBytes tg.canon n)] }) := by
    change execHostHdmAccess bay hpa (.read n) s = _
    refine congrArg Host.Outcome.next ((if_neg h.passes).trans ?_)
    rw [htg]
    exact (if_neg (by simp [hheld])).trans (if_neg (by simp [hbad]))
  refine ⟨_, hexec, SameMemory.ofEq hleaves.mem hleaves.undef hleaves.hist, haccs, ?_⟩
  exact congrArg (· ++ _) hleaves.out

/-- A read through HDM of data that cannot be corrected is answered without data (R379). -/
theorem hdmRead_bad {s : State} {bay hpa n : Nat} {tg : Target} (h : HdmAt s bay hpa n tg)
    (hheld : heldForTp s (tg.canon / 32) (homeT s tg.slice) = false) (hbad : (badSector s (tg.canon / 32)).isSome = true) :
    exec (.hostHdmAccess bay hpa (.read n)) s = .next { s with out := s.out ++ [OutPkt.hdmAns hpa []] } := by
  obtain ⟨-, -, -, -, htg, -⟩ := id h
  change execHostHdmAccess bay hpa (.read n) s = _
  refine congrArg Host.Outcome.next ((if_neg h.passes).trans ?_)
  rw [htg]
  exact (if_neg (by simp [hheld])).trans (if_pos hbad)

theorem hdmWrite_eq {s : State} {bay hpa : Nat} {b : List Byte} {tg : Target} (h : HdmAt s bay hpa b.length tg)
    (hlate : lateForTp s (tg.canon / 32) (homeT s tg.slice) = false) (hbad : badSector s (tg.canon / 32) = none) :
    exec (.hostHdmAccess bay hpa (.write b)) s = .next (sectorWrite s (hdmStore hpa (hdmPa s bay hpa)) (tg.canon / 32) (sectorBytes tg.canon b)) := by
  obtain ⟨-, -, -, -, htg, -⟩ := id h
  change execHostHdmAccess bay hpa (.write b) s = _
  refine congrArg Host.Outcome.next ((if_neg h.passes).trans ?_)
  rw [htg]
  refine (if_neg (by simp [hlate])).trans ?_
  rw [hbad, ite_self]
  rfl

/-! ## Bytes written in one sector (R267) -/

theorem foldl_writeByte_mapIdx (n : Nat) (b : List Byte) (s : State) (k : Nat) :
    (b.mapIdx (fun i x => (k + i, x))).foldl (fun s e => s.writeByte (n + e.1) e.2) s = s.writeBytes (n + k) b := by
  induction b generalizing s k with
  | nil => rfl
  | cons x b ih =>
    have hshift : (fun i (x : Byte) => (k + (i + 1), x)) = fun i x => (k + 1 + i, x) := by
      funext i x
      rw [Nat.add_assoc, Nat.add_comm 1 i]
    rw [List.mapIdx_cons, List.foldl_cons, hshift, ih, State.writeBytes, Nat.add_zero, Nat.add_assoc n k 1]
/-- Bytes at an address of one sector are written from that address on. -/
theorem writeSector_sectorBytes (s : State) (d : Nat) (b : List Byte) : writeSector s (d / 32) (sectorBytes d b) = s.writeBytes d b := by
  have h := foldl_writeByte_mapIdx (32 * (d / 32)) b s (d % 32)
  rwa [Nat.div_add_mod] at h

/-- A byte outside every open range. -/
def Settled (us : List Undef) (k : Nat) : Prop := us.find? (fun u => decide (u.lo ≤ k ∧ k ≤ u.hi)) = none

theorem readByte_of_settled {s : State} {k : Nat} (h : Settled s.undef k) : s.readByte k = memGet s.mem k := by
  rw [State.readByte, show s.undef.find? _ = none from h]
theorem settled_undefDrop {us : List Undef} {k : Nat} (h : Settled us k) (a : Nat) : Settled (undefDrop us a) k := by
  unfold Settled at h ⊢
  rw [List.find?_eq_none] at h ⊢
  intro u hu
  obtain ⟨v, hv, huv⟩ := List.mem_flatMap.1 hu
  have hvk := h v hv
  simp only [decide_eq_true_eq] at hvk ⊢
  split at huv
  · rename_i hin
    simp only [Bool.and_eq_true, decide_eq_true_eq] at hin
    rcases List.mem_append.1 huv with huv | huv
    · split at huv
      · rw [List.mem_singleton.1 huv]; dsimp only; omega
      · cases huv
    · split at huv
      · rw [List.mem_singleton.1 huv]; dsimp only; omega
      · cases huv
  · rw [List.mem_singleton.1 huv]; exact hvk
theorem settled_writeBytes {s : State} {k : Nat} (a : Nat) (b : List Byte) (h : Settled s.undef k ∨ a ≤ k ∧ k < a + b.length) :
    Settled (s.writeBytes a b).undef k := by
  induction b generalizing s a with
  | nil =>
    rcases h with h | h
    · exact h
    · simp only [List.length_nil] at h; omega
  | cons x b ih =>
    refine ih (a + 1) ?_
    rcases h with h | ⟨hlo, hhi⟩
    · exact .inl (settled_undefDrop h a)
    · rcases Nat.eq_or_lt_of_le hlo with rfl | hlt
      · exact .inl (undefDrop_not_mem ..)
      · rw [List.length_cons] at hhi
        exact .inr ⟨hlt, by omega⟩

theorem writeBytes_out (s : State) (a : Nat) (b : List Byte) : (s.writeBytes a b).out = s.out := by
  induction b generalizing s a with
  | nil => rfl
  | cons x b ih => rw [State.writeBytes, ih]; rfl

theorem writeBytes_with_bad (s : State) (bd : List BadUnit) (a : Nat) (b : List Byte) :
    ({ s with bad := bd } : State).writeBytes a b = { s.writeBytes a b with bad := bd } := by
  induction b generalizing s a with
  | nil => rfl
  | cons x b ih => exact ih (s.writeByte a x) (a + 1)

/-- The lease of a line falls to level 0 with a write of it (R268). -/
def levelZero (s : State) (sector : Nat) : State :=
  { s with leases := mset s.leases (32 * sector / 64) { leaseOf s (32 * sector) with lvl := 0 } }

theorem cacheStep_writeHome (s : State) (sector : Nat) (nosc : Bool) : CacheStep (levelZero s sector) (writeHome s sector nosc) := by
  unfold writeHome
  dsimp only
  split
  · exact cacheStep_sofTouch (levelZero s sector) ..
  · exact CacheStep.refl _

/-- After an unsignaled write of a sector of HBM4: level 0 for its line, nothing to the links, no access or byte changed. -/
theorem afterWriteBy_hbm (s : State) {sector : Nat} (h : 32 * sector < 0x8000000000) (nosc : Bool) (t : State)
    (ht : afterWriteBy s sector false nosc true = t) : t.mem = s.mem ∧ t.undef = s.undef ∧ t.out = s.out ∧ t.accs = s.accs ∧
      (mget t.leases (32 * sector / 64) {}).lvl = 0 := by
  have htier : ∀ v : State, tierOf v (32 * sector) = .hbm := fun v => by rw [tierOf, target?_hbm h]; rfl
  have hrun : afterWriteBy s sector false nosc true = recordDirty (writeHome s sector nosc) (homeOf s (32 * sector)) (32 * sector) := by
    unfold afterWriteBy toLink
    simp only [htier, if_true, Bool.false_eq_true, if_false]
  have hstep := (cacheStep_writeHome s sector nosc).package
  have hleases : (writeHome s sector nosc).leases = (levelZero s sector).leases := (congrArg State.leases hstep :)
  rw [← ht, hrun]
  refine ⟨(congrArg State.mem hstep :), (congrArg State.undef hstep :), (congrArg State.out hstep :), (congrArg State.accs hstep :), ?_⟩
  change (mget (writeHome s sector nosc).leases (32 * sector / 64) {}).lvl = 0
  rw [hleases, levelZero, mget_mset_self]

/-- What a store through HDM to HBM4 leaves: its bytes, level 0 for the line, and the access, its record on the way. -/
structure HdmStored (s t : State) (a : Access) (d : Nat) (b : List Byte) : Prop where
  mem : t.mem = (s.writeBytes d b).mem
  undef : t.undef = (s.writeBytes d b).undef
  out : t.out = s.out
  level : (mget t.leases (d / 64) {}).lvl = 0
  accs : ∃ r, t.accs = s.accs ++ [{ a with id := s.nextAcc, ph := .recorded r [] (32 * (d / 32)), t0 := s.t }]

/-- The bytes of a store to one sector of HBM4 written, and its access in flight with its record `r`, as the write step goes on to the lease; `bd` is
what is then bad. -/
def sectorStored (s : State) (a : Access) (d : Nat) (b : List Byte) (bd : List BadUnit) (r : Record) : State :=
  { s.writeBytes d b with
    bad := bd, accs := s.accs ++ [{ a with id := s.nextAcc, t0 := s.t, ph := .recorded r [] (32 * (d / 32)) }], nextAcc := s.nextAcc + 1 }

theorem sectorWrite_hbm (s : State) (a : Access) {d : Nat} (b : List Byte) (h : 32 * (d / 32) < 0x8000000000) :
    ∃ bd r, sectorWrite s a (d / 32) (sectorBytes d b) = afterWriteBy (sectorStored s a d b bd r) (d / 32) a.sig a.nosc true := by
  rw [sectorWrite, sectorWriteBy, target?_hbm h]
  dsimp only
  split
  · rw [writeSector_sectorBytes, writeBytes_with_bad]
    exact ⟨_, _, rfl⟩
  · rw [writeSector_sectorBytes]
    exact ⟨_, _, rfl⟩

theorem hdmStored_sectorWrite (s : State) (a : Access) {d : Nat} (b : List Byte) (h : d < 0x8000000000) (hsig : a.sig = false) :
    HdmStored s (sectorWrite s a (d / 32) (sectorBytes d b)) a d b := by
  have hsec : 32 * (d / 32) < 0x8000000000 := by omega
  obtain ⟨bd, r, hrun⟩ := sectorWrite_hbm s a b hsec
  rw [hsig] at hrun
  obtain ⟨hmem, hundef, hout, haccs, hlvl⟩ := afterWriteBy_hbm _ hsec a.nosc _ hrun.symm
  refine ⟨hmem, hundef, hout.trans (writeBytes_out s d b), ?_, _, haccs⟩
  rwa [show 32 * (d / 32) / 64 = d / 64 by omega] at hlvl

/-- A write through HDM to HBM4. -/
theorem hdmWrite_result {s : State} {bay hpa : Nat} {b : List Byte} {tg : Target} (h : HdmAt s bay hpa b.length tg) (ht : tg.tier = .hbm)
    (hlate : lateForTp s (tg.canon / 32) (homeT s tg.slice) = false) (hbad : badSector s (tg.canon / 32) = none) :
    ∃ (t : State) (A : Access) (r : Record) (d : Nat), exec (.hostHdmAccess bay hpa (.write b)) s = .next t ∧
      (∀ i, i < b.length → t.readByte (tg.canon + i) = b.getD i 0) ∧
      (∀ g, g < tg.canon ∨ tg.canon + b.length ≤ g → memGet t.mem g = memGet s.mem g) ∧ (mget t.leases (tg.canon / 64) {}).lvl = 0 ∧ t.out = s.out ∧
      t.accs = s.accs ++ [A] ∧ A.id = s.nextAcc ∧ A.ag = .host ∧ A.form = BitVec.ofNat 64 hpa ∧ A.ph = .recorded r [] d := by
  obtain ⟨-, -, -, -, htg, -⟩ := id h
  obtain ⟨hlt, hcanon⟩ := lt_of_target?_hbm htg ht
  obtain ⟨hmem, hundef, hout, hlvl, r, haccs⟩ := hdmStored_sectorWrite s (hdmStore hpa (hdmPa s bay hpa)) b (hcanon ▸ hlt) rfl
  refine ⟨_, _, r, _, hdmWrite_eq h hlate hbad, fun i hi => ?_, fun g hg => ?_, hlvl, hout, haccs, rfl, rfl, rfl, rfl⟩
  · rw [readByte_of_settled (hundef ▸ settled_writeBytes _ b (.inr (by omega))), hmem, memGet_writeBytes, if_pos (by omega), Nat.add_sub_cancel_left]
  · rw [hmem, memGet_writeBytes, if_neg (by omega)]

/-- The record of a host's write comes back once T has reached its leases (log 108). -/
theorem completionRecord_host {s : State} {A : Access} {r : Record} {old : List Byte} {d : Nat} (ha : s.accs.find? (fun y => y.id == A.id) = some A)
    (hag : A.ag = .host) (hph : A.ph = .recorded r old d) (ht : max r.l0 r.l1 ≤ s.t) :
    ∃ t : State, exec (.completionRecord A.id) s = .next t ∧ { t with accs := s.accs, out := s.out, hostHor := s.hostHor } = s ∧
      t.accs = s.accs.filter (fun y => decide (y.id ≠ A.id)) ∧ t.out = s.out ++ [OutPkt.hdmAns A.form.toNat []] := by
  have hrun : completionRecord s A.id = hostRecord s A r := by
    rw [completionRecord, ha]
    simp only [hph, hag]
  have hdone : hostRecord s A r = (let s' := addRecord (dropAcc s A.id) .host r false
      { s' with out := s'.out ++ [.hdmAns A.form.toNat []] }) := if_neg (Nat.not_lt.2 ht)
  refine ⟨_, congrArg Host.Outcome.next (hrun.trans hdone), rfl, ?_, rfl⟩
  exact List.filter_congr fun x _ => by by_cases hx : x.id = A.id <;> simp [hx]

/-- An address below the HDM range, or a link that is down: nothing happens. -/
theorem hostHdmAccess_outside {s : State} {bay hpa : Nat} (op : HdmOp) (h : hpa < (s.bay bay).hdmHost ∨ s.hUp = false) :
    exec (.hostHdmAccess bay hpa op) s = .next s := by
  change execHostHdmAccess bay hpa op s = _
  refine congrArg Host.Outcome.next (if_pos ?_)
  rcases h with h | h
  · exact .inl h
  · exact .inr (.inr (.inr h))

/-! ## Pages from the host (R49, R373, R374) -/

/-- The page-filled notice by its fields, for a request number of any 8 bits (R374). -/
theorem pageNotice_fields (r : PageReq) {rid : Nat} (h : rid < 256) : pageNotice r rid = BitVec.ofNat 512 (5 + 2 ^ 8 * rid + 2 ^ 448 * r.vaddr.toNat) := by
  apply BitVec.eq_of_toNat_eq
  have hva := r.vaddr.isLt
  simp only [pageNotice, toNat_append_add, BitVec.ofNat_eq_ofNat, BitVec.toNat_ofNat]
  omega

/-- The request that an answer names, where it is of the bay's incarnation (R374). -/
def answered? (s : State) (bay : Nat) (data : W512) : Option PageReq :=
  if data.toNat / 2 ^ 16 % 2 ^ 16 = (s.bay bay).inc.toNat then mget? (s.bay bay).pages (data.toNat / 2 ^ 32 % 256) else none
/-- One more answer that is discarded is counted. -/
def countAnswer (s : State) (bay : Nat) : State := s.setBay bay { s.bay bay with e840 := (s.bay bay).e840 + 1 }

theorem pageRequestAnswer_unmatched {s : State} {bay : Nat} {data : W512} (h : answered? s bay data = none) :
    exec (.pageRequestAnswer bay data) s = .next (countAnswer s bay) := by
  change execPageRequestAnswer bay data s = _
  rw [execPageRequestAnswer]
  dsimp only
  rw [← answered?, h]
  rfl
/-- An answer that names a pending request, by whether one is held already, its status and the room in the notice queue. -/
theorem pageRequestAnswer_matched {s : State} {bay : Nat} {data : W512} {r : PageReq} (h : answered? s bay data = some r) :
    exec (.pageRequestAnswer bay data) s = .next (
      let rid := data.toNat / 2 ^ 32 % 256
      if rid ∈ (s.bay bay).heldAns then countAnswer s bay
      else if data.toNat % 256 ≠ 0 then pageFailed s bay rid (data.toNat % 256) r
      else if (s.bay bay).notices.length + (s.bay bay).reserved < 4096 then pageFilled s bay rid r
      else s.setBay bay { s.bay bay with heldAns := (s.bay bay).heldAns ++ [rid] }) := by
  change execPageRequestAnswer bay data s = _
  rw [execPageRequestAnswer]
  dsimp only
  rw [← answered?, h]
  simp only [List.contains_iff_mem, noticeRoom, decide_eq_true_eq]
  rfl

theorem pageFilled_result (s : State) (bay : Nat) {rid : Nat} (r : PageReq) (h : rid < 256) :
    SameBytes s (pageFilled s bay rid r) ∧ (pageFilled s bay rid r).cores = s.cores ∧ (∀ d, d ≠ bay → (pageFilled s bay rid r).bay d = s.bay d) ∧
      (pageFilled s bay rid r).bay bay = { s.bay bay with
        pages := mdel (s.bay bay).pages rid
        notices := (s.bay bay).notices ++ [BitVec.ofNat 512 (5 + 2 ^ 8 * rid + 2 ^ 448 * r.vaddr.toNat)] } := by
  refine ⟨fun _ => rfl, rfl, fun d hd => ?_, ?_⟩
  · simp [pageFilled, pushNotice, hd]
  · simp [pageFilled, pushNotice, pageNotice_fields r h]

/-- The record of a page request that has failed (R374). -/
def pageRec (s : State) (b rid status : Nat) (r : PageReq) : FaultRec :=
  { code := 0x35, agent := 4, loc := r.vaddr.setWidth 128, tflt := s.t, ticket := ticket true (s.bay b).inc 0 0, async := true, cont := true,
    aux := BitVec.ofNat 64 (256 * rid + status) }

theorem pageFailed_triggered {s : State} {bay rid status : Nat} (r : PageReq) (hrid : rid < 256) (hstatus : status < 256) (hf : (s.bay bay).formed = true)
    (hc : (s.bay bay).cont = none) : ∃ y : FaultRec,
      Triggered (s.setBay bay { s.bay bay with pages := mdel (s.bay bay).pages rid }) (pageFailed s bay rid status r) bay [y.bits] ∧ y.code = 0x35 ∧
      y.async = true ∧ y.cont = true ∧ y.agent = 4 ∧ y.loc = BitVec.ofNat 128 r.vaddr.toNat ∧ y.aux.toNat = 256 * rid + status := by
  let u := s.setBay bay { s.bay bay with pages := mdel (s.bay bay).pages rid }
  have hbay : u.bay bay = { s.bay bay with pages := mdel (s.bay bay).pages rid } := (State.bay_setBay ..).trans (if_pos rfl)
  refine ⟨pageRec s bay rid status r, triggered_contain (s := u) (by rw [hbay]; exact hf) (by rw [hbay]; exact hc) (pageRec s bay rid status r), rfl, rfl, rfl,
    rfl, (BitVec.ofNat_toNat 128 r.vaddr).symm, ?_⟩
  rw [pageRec, BitVec.toNat_ofNat]
  omega

theorem pageRequestTimeout_held {s : State} {bay rid : Nat} (h : rid ∈ (s.bay bay).heldAns) : exec (.pageRequestTimeout bay rid) s = .next s := by
  change execPageRequestTimeout bay rid s = _
  rw [execPageRequestTimeout]
  refine congrArg Host.Outcome.next ?_
  split
  · rfl
  · exact if_pos (.inr (List.contains_iff_mem.2 h))
theorem pageRequestTimeout_early {s : State} {bay rid : Nat} {r : PageReq} (hr : mget? (s.bay bay).pages rid = some r) (ht : s.t < r.treq + 100000000) :
    exec (.pageRequestTimeout bay rid) s = .next s := by
  change execPageRequestTimeout bay rid s = _
  rw [execPageRequestTimeout, hr]
  exact congrArg Host.Outcome.next (if_pos (.inl ht))
theorem pageRequestTimeout_late {s : State} {bay rid : Nat} {r : PageReq} (hr : mget? (s.bay bay).pages rid = some r) (hheld : rid ∉ (s.bay bay).heldAns)
    (ht : r.treq + 100000000 ≤ s.t) : exec (.pageRequestTimeout bay rid) s = .next (pageFailed s bay rid 0xFF r) := by
  change execPageRequestTimeout bay rid s = _
  rw [execPageRequestTimeout, hr]
  refine congrArg Host.Outcome.next (if_neg ?_)
  rw [List.contains_iff_mem]
  rintro (h | h)
  · omega
  · exact hheld h

theorem act_portTimeout {s : State} {ns : Nat} (hlo : 50000 ≤ ns) (hhi : ns ≤ 64000000) :
    act s (.portTimeout .h ns) = .stay { s with hTo := ns } ∧ act s (.portTimeout .m ns) = .stay { s with mTo := ns } := by
  simp [act, coreStep, actOn, hlo, hhi]

/-- Settles O49: one lemma a clause; a page answer is `pageRequestAnswer_matched` in each of its four cases. -/
theorem hostLinkResults : Obligations.HostLinkResults := by
  unfold Obligations.HostLinkResults
  refine ⟨?read, ?write, ?record, ?outside, ?pool, ?host, ?report, ?fails, ?late, ?early, ?up, ?timeouts, ?answer, ?timeout⟩
  case read => exact fun s bay hpa n tg h hheld => ⟨hdmRead_result h hheld, hdmRead_bad h hheld⟩
  case write => exact fun s bay hpa b tg => hdmWrite_result
  case record => exact fun s A r old d => completionRecord_host
  case outside => exact fun s bay hpa op => hostHdmAccess_outside op
  case pool => exact fun s => cxlLinkFailure_pool
  case host => exact fun s => cxlLinkFailure_host
  case report => exact fun s x cmd => cxlLinkFailure_report
  case fails => exact fun s a c k l => cxlLinkFailure_one
  case late => exact fun s a c k l => cxlRequestTimeout_one
  case early => exact fun s a => cxlRequestTimeout_early
  case up => exact fun s => ⟨rfl, rfl, rfl⟩
  case timeouts => exact fun s ns => act_portTimeout
  case answer =>
    intro s bay data rid hit
    have hrid : rid < 256 := Nat.mod_lt _ (by decide)
    have hmatch : ∀ r, hit → mget? (s.bay bay).pages rid = some r → answered? s bay data = some r := fun r hh hr => (if_pos hh).trans hr
    refine ⟨fun h => ?_, fun r hh hr hheld hok hfull => ?_, fun r hh hr hheld => ?_, fun r hh hr hheld hok hroom => ?_,
      fun r hh hr hheld hstatus hf hc => ?_⟩
    · refine pageRequestAnswer_unmatched ?_
      rcases h with h | h
      · exact if_neg h
      · rw [answered?]
        exact (congrArg (ite hit · none) h).trans (ite_self none)
    · rw [pageRequestAnswer_matched (hmatch r hh hr)]
      dsimp only
      rw [if_neg hheld, if_neg (not_not.2 hok), if_neg (Nat.not_lt.2 hfull)]
    · refine ⟨?_, pageRequestTimeout_held hheld⟩
      rw [pageRequestAnswer_matched (hmatch r hh hr)]
      exact congrArg Host.Outcome.next (if_pos hheld)
    · refine ⟨_, ?_, pageFilled_result s bay r hrid⟩
      rw [pageRequestAnswer_matched (hmatch r hh hr)]
      dsimp only
      rw [if_neg hheld, if_neg (not_not.2 hok), if_pos hroom]
    · obtain ⟨y, htrig, hcode, hasync, hcont, hagent, hloc, haux⟩ := pageFailed_triggered r hrid (status := data.toNat % 256) (Nat.mod_lt _ (by decide)) hf hc
      refine ⟨_, y, ?_, htrig, hcode, hasync, hcont, hagent, hloc, haux⟩
      rw [pageRequestAnswer_matched (hmatch r hh hr)]
      dsimp only
      rw [if_neg hheld, if_pos hstatus]
  case timeout =>
    intro s bay rid r hrid hr hheld
    refine ⟨pageRequestTimeout_early hr, fun ht hf hc => ?_⟩
    obtain ⟨y, htrig, hcode, hasync, hcont, -, -, haux⟩ := pageFailed_triggered r hrid (status := 0xFF) (by decide) hf hc
    exact ⟨_, y, pageRequestTimeout_late hr hheld ht, htrig, hcode, hasync, hcont, haux⟩

end Sys2Proof.Machine
end

/-!
HARVEST (R96, R97, R323; O26). Its step is a write of one leaf, which leaves the courses, the accesses in flight and the slices' records as they were
(`WriteLeaves`), and then one or two rewrites of those records.
-/

section
namespace Sys2Proof.Machine

/-! ## Bytes written and read back (R4, R84) -/

theorem natBytes_length (n x : Nat) : (natBytes n x).length = n := by
  induction n generalizing x with
  | zero => rfl
  | succ n ih => rw [natBytes, List.length_cons, ih]
theorem leNum_natBytes (n x : Nat) : leNum (natBytes n x) = x % 256 ^ n := by
  induction n generalizing x with
  | zero => simp [natBytes, leNum, Nat.mod_one]
  | succ n ih =>
    rw [natBytes, leNum, ih, BitVec.toNat_ofNat, show 256 ^ (n + 1) = 256 * 256 ^ n from Nat.pow_succ']
    exact (Nat.mod_mul ..).symm

/-- Bytes written are the bytes read. -/
theorem readBytes_written {s t : State} {a : Nat} {b : List Byte} (hmem : t.mem = (s.writeBytes a b).mem) (hundef : t.undef = (s.writeBytes a b).undef) :
    t.readBytes a b.length = b := by
  refine List.ext_getElem (by simp [State.readBytes]) fun i hi hib => ?_
  have hset : Settled t.undef (a + i) := hundef ▸ settled_writeBytes a b (.inr (by omega))
  simp only [State.readBytes, List.getElem_map, List.getElem_range]
  rw [readByte_of_settled hset, hmem, memGet_writeBytes, if_pos (by omega), Nat.add_sub_cancel_left, List.getD_eq_getElem?_getD,
    List.getElem?_eq_getElem hib, Option.getD_some]
theorem readNat_written {s t : State} {a n x : Nat} (hmem : t.mem = (s.writeBytes a (natBytes n x)).mem)
    (hundef : t.undef = (s.writeBytes a (natBytes n x)).undef) : t.readNat a n = x % 256 ^ n := by
  have h := readBytes_written hmem hundef
  rw [natBytes_length] at h
  rw [State.readNat, h, leNum_natBytes]

theorem writeBytes_package (s : State) (a : Nat) (b : List Byte) :
    { s.writeBytes a b with mem := s.mem, undef := s.undef, hist := s.hist, wrote := s.wrote } = s := by
  induction b generalizing s a with
  | nil => rfl
  | cons x b ih =>
    calc { (s.writeByte a x).writeBytes (a + 1) b with mem := s.mem, undef := s.undef, hist := s.hist, wrote := s.wrote }
        = { ({ (s.writeByte a x).writeBytes (a + 1) b with
              mem := (s.writeByte a x).mem, undef := (s.writeByte a x).undef, hist := (s.writeByte a x).hist, wrote := (s.writeByte a x).wrote } : State)
            with mem := s.mem, undef := s.undef, hist := s.hist, wrote := s.wrote } := rfl
      _ = s := by rw [ih]; rfl

/-! ## What a write at its home leaves alone (R270) -/

/-- t is s but for memory, the leases, the caches, the links and the count of free values; every course is as it was. -/
structure WriteLeaves (s t : State) : Prop where
  package : { t with mem := s.mem, undef := s.undef, hist := s.hist, wrote := s.wrote, leases := s.leases, soffit := s.soffit, proxies := s.proxies,
                     bad := s.bad, cores := s.cores, out := s.out, free := s.free } = s
  course : ∀ c k, t.course? c k = s.course? c k

section
variable {s t : State} (h : WriteLeaves s t)
include h
theorem WriteLeaves.accs : t.accs = s.accs := (congrArg State.accs h.package :)
theorem WriteLeaves.slices : t.slices = s.slices := (congrArg State.slices h.package :)
theorem WriteLeaves.time : t.t = s.t := (congrArg State.t h.package :)
theorem WriteLeaves.issues {iss : Issue} {c k : Nat} {x : Course} (hi : CourseIssues s iss c k x) : CourseIssues t iss c k x :=
  ⟨(congrArg State.issue h.package :).trans hi.1, hi.2.1, (h.course c k).trans hi.2.2⟩
end

theorem WriteLeaves.refl (s : State) : WriteLeaves s s := ⟨rfl, fun _ _ => rfl⟩
theorem WriteLeaves.trans {s t u : State} (h : WriteLeaves s t) (h' : WriteLeaves t u) : WriteLeaves s u where
  package := by
    calc { u with mem := s.mem, undef := s.undef, hist := s.hist, wrote := s.wrote, leases := s.leases, soffit := s.soffit, proxies := s.proxies,
                  bad := s.bad, cores := s.cores, out := s.out, free := s.free }
        = { ({ u with mem := t.mem, undef := t.undef, hist := t.hist, wrote := t.wrote, leases := t.leases, soffit := t.soffit, proxies := t.proxies,
                      bad := t.bad, cores := t.cores, out := t.out, free := t.free } : State) with
              mem := s.mem, undef := s.undef, hist := s.hist, wrote := s.wrote, leases := s.leases, soffit := s.soffit, proxies := s.proxies,
              bad := s.bad, cores := s.cores, out := s.out, free := s.free } := rfl
      _ = s := by rw [h'.package, h.package]
  course := fun c k => (h'.course c k).trans (h.course c k)

theorem writeLeaves_bumpFree (s : State) : WriteLeaves s s.bumpFree := ⟨rfl, fun _ _ => rfl⟩
theorem writeLeaves_writeBytes (s : State) (a : Nat) (b : List Byte) : WriteLeaves s (s.writeBytes a b) where
  package := by
    have h := writeBytes_package s a b
    calc { s.writeBytes a b with mem := s.mem, undef := s.undef, hist := s.hist, wrote := s.wrote, leases := s.leases, soffit := s.soffit,
                                 proxies := s.proxies, bad := s.bad, cores := s.cores, out := s.out, free := s.free }
        = { ({ s.writeBytes a b with mem := s.mem, undef := s.undef, hist := s.hist, wrote := s.wrote } : State) with
              leases := s.leases, soffit := s.soffit, proxies := s.proxies, bad := s.bad, cores := s.cores, out := s.out, free := s.free } := rfl
      _ = s := by rw [h]
  course := fun c k => by
    rw [State.course?, State.core, (congrArg State.cores (writeBytes_package s a b) :)]
    rfl

theorem writeHome_course? (s : State) (sector : Nat) (nosc : Bool) (c k : Nat) : (writeHome s sector nosc).course? c k = s.course? c k := by
  unfold writeHome
  dsimp only
  split
  · exact (fetchKeeps_sofTouch _ ..).course c k
  · rfl
theorem writeLeaves_writeHome (s : State) (sector : Nat) (nosc : Bool) : WriteLeaves s (writeHome s sector nosc) where
  package := by
    have h := (cacheStep_writeHome s sector nosc).package
    calc { writeHome s sector nosc with mem := s.mem, undef := s.undef, hist := s.hist, wrote := s.wrote, leases := s.leases, soffit := s.soffit,
                                        proxies := s.proxies, bad := s.bad, cores := s.cores, out := s.out, free := s.free }
        = { ({ writeHome s sector nosc with soffit := s.soffit, proxies := s.proxies, bad := s.bad, cores := s.cores } : State) with
              mem := s.mem, undef := s.undef, hist := s.hist, wrote := s.wrote, leases := s.leases, out := s.out, free := s.free } := rfl
      _ = s := by
        rw [show ({ writeHome s sector nosc with soffit := s.soffit, proxies := s.proxies, bad := s.bad, cores := s.cores } : State) =
          levelZero s sector from h]
        rfl
  course := fun c k => writeHome_course? s sector nosc c k
theorem writeHome_memory (s : State) (sector : Nat) (nosc : Bool) :
    (writeHome s sector nosc).mem = s.mem ∧ (writeHome s sector nosc).undef = s.undef :=
  have h := (cacheStep_writeHome s sector nosc).package
  ⟨(congrArg State.mem h :), (congrArg State.undef h :)⟩
theorem writeLeaves_toLink (s : State) (canon : Nat) : WriteLeaves s (toLink s canon) := by
  unfold toLink
  split <;> exact ⟨rfl, fun _ _ => rfl⟩
theorem toLink_undef (s : State) (canon : Nat) : (toLink s canon).undef = s.undef := by
  unfold toLink
  split <;> rfl

/-! ## HARVEST (R323) -/

/-- The leaf at a with DIRTY set, as HARVEST writes it. -/
def leafDirtied (s : State) (a : Nat) (e : W64) : State :=
  toLink (writeHome (s.writeBytes a (natBytes 8 (e ||| 0x200#64).toNat)) (a / 32) false) a

theorem writeLeaves_leafDirtied (s : State) (a : Nat) (e : W64) : WriteLeaves s (leafDirtied s a e) :=
  ((writeLeaves_writeBytes s a _).trans (writeLeaves_writeHome _ ..)).trans (writeLeaves_toLink ..)
theorem leafDirtied_mem (s : State) (a : Nat) (e : W64) : (leafDirtied s a e).mem = (s.writeBytes a (natBytes 8 (e ||| 0x200#64).toNat)).mem := by
  rw [leafDirtied, toLink_mem, (writeHome_memory ..).1]
theorem leafDirtied_undef (s : State) (a : Nat) (e : W64) : (leafDirtied s a e).undef = (s.writeBytes a (natBytes 8 (e ||| 0x200#64).toNat)).undef := by
  rw [leafDirtied, toLink_undef, (writeHome_memory ..).2]

/-- What HARVEST finds of the pages of a leaf: whether they count as written. -/
def harvestWrote (s : State) (z : Nat) (e : W64) : Bool := s.slices.any (·.2.sat) || s.slices.any (fun x => x.2.dirty.any (leafPage z e))
/-- The slices' records as CLR and SATCLR leave them. -/
def harvestCleared (z : Nat) (e : W64) (clr satclr : Bool) (s : State) : State :=
  let s := if clr then s.mapSlices (fun x => { x with dirty := x.dirty.filter (fun p => !leafPage z e p) }) else s
  if satclr then s.mapSlices (fun x => { x with dirty := [], sat := false }) else s

/-- The state HARVEST clears in: with the leaf's DIRTY set where its pages count as written and it is in no table. -/
def harvestMarked (s : State) (pa z : Nat) (e : W64) : State :=
  if harvestWrote s z e && !inTables s pa then leafDirtied s.bumpFree (canonPa s pa) e else s.bumpFree

/-- HARVEST's result for a leaf that maps. -/
def harvestBits (s : State) (z : Nat) (e : W64) : W64 :=
  BitVec.ofNat 64 ((if s.slices.any (·.2.sat) then 2 else 0) + (if harvestWrote s z e then 1 else 0))

theorem harvestStep_unmapped {s : State} {pa z : Nat} {clr satclr : Bool} {e : W64} (he : e = BitVec.ofNat 64 (s.readNat (canonPa s pa) 8))
    (h : e.getLsbD 0 = false ∨ e.getLsbD 1 = false) : harvestStep s pa z clr satclr = (s.bumpFree, 0) := by
  subst he
  have hbits : (!(BitVec.ofNat 64 (s.readNat (canonPa s pa) 8)).getLsbD 0 || !(BitVec.ofNat 64 (s.readNat (canonPa s pa) 8)).getLsbD 1) = true := by
    rcases h with h | h <;> rw [h]
    · rfl
    · exact Bool.or_true _
  unfold harvestStep
  dsimp only
  rw [if_pos hbits]
theorem harvestStep_mapped {s : State} {pa z : Nat} {clr satclr : Bool} {e : W64} (he : e = BitVec.ofNat 64 (s.readNat (canonPa s pa) 8))
    (h0 : e.getLsbD 0 = true) (h1 : e.getLsbD 1 = true) : harvestStep s pa z clr satclr =
      (harvestCleared z e clr satclr (harvestMarked s pa z e), harvestBits s z e) := by
  subst he
  unfold harvestStep
  simp only [h0, h1, Bool.not_true, Bool.or_false, Bool.false_eq_true, if_false]
  rfl

theorem harvestCleared_slices_only (z : Nat) (e : W64) (clr satclr : Bool) (s : State) :
    harvestCleared z e clr satclr s = { s with slices := (harvestCleared z e clr satclr s).slices } := by
  cases clr <;> cases satclr <;> rfl
/-- CLR takes the leaf's pages out of every record. -/
theorem harvestCleared_clr {z : Nat} {e : W64} {satclr : Bool} {s : State} {y : Nat × Slice} (hy : y ∈ (harvestCleared z e true satclr s).slices)
    {p : Nat} (hp : p ∈ y.2.dirty) : leafPage z e p = false := by
  cases satclr
  · obtain ⟨w, -, rfl⟩ := List.mem_map.1 hy
    simpa using (List.mem_filter.1 hp).2
  · obtain ⟨w, -, rfl⟩ := List.mem_map.1 hy
    cases hp
/-- SATCLR empties every record. -/
theorem harvestCleared_satclr {z : Nat} {e : W64} {clr : Bool} {s : State} {y : Nat × Slice} (hy : y ∈ (harvestCleared z e clr true s).slices) :
    y.2.dirty = [] ∧ y.2.sat = false := by
  obtain ⟨w, -, rfl⟩ := List.mem_map.1 hy
  exact ⟨rfl, rfl⟩

/-- Where HARVEST's word is as it must be and its leaf can be read, its step is made and its result written. -/
theorem execHarvest_runs {q : Guard} {d a b : Reg} {s : State} {iss : Issue} {c k : Nat} {x : Course} (h : CourseIssues s iss c k x)
    (hq : x.u.rq q = true) (hp : x.prv = true) (ha : (x.u.rs a.toNat).toNat % 8 = 0) (hb : (x.u.rs b.toNat).toNat < 16)
    (hbad : badSector s (canonPa s (x.u.rs a.toNat).toNat / 32) = none) : exec (.harvest q d a b) s =
      .next (uniOp (harvestStep s (x.u.rs a.toNat).toNat ((x.u.rs b.toNat).toNat / 4) ((x.u.rs b.toNat).getLsbD 0) ((x.u.rs b.toNat).getLsbD 1)).1 iss
        (·.ws d.toNat (harvestStep s (x.u.rs a.toNat).toNat ((x.u.rs b.toNat).toNat / 4) ((x.u.rs b.toNat).getLsbD 0) ((x.u.rs b.toNat).getLsbD 1)).2)) := by
  change execHarvest q d a b s = _
  rw [execHarvest, pword_course h, if_pos hq, if_pos hp, uniOf_course h]
  dsimp only
  rw [if_neg (by omega), hbad]
  dsimp only
  rw [skip_updIss h.2.1, Nat.mod_eq_of_lt (show (x.u.rs b.toNat).toNat / 4 < 4 by omega)]

/-- The word's result in sD, in a state that its step has left with the courses as they were. -/
theorem WriteLeaves.advanced {s r : State} (h : WriteLeaves s r) {r' : State} (hr : r' = { r with slices := r'.slices }) {iss : Issue} {c k : Nat}
    {x : Course} (hi : CourseIssues s iss c k x) (f : Uni → Uni) : CourseAdvanced s iss (f x.u) x (uniOp r' iss f) c k ∧
      (uniOp r' iss f).accs = s.accs ∧ (uniOp r' iss f).mem = r.mem ∧ (uniOp r' iss f).undef = r.undef ∧ (uniOp r' iss f).slices = r'.slices := by
  have hi' : CourseIssues r' iss c k x := by rw [hr]; exact h.issues hi
  obtain ⟨honly, y, hy, hafter⟩ := uniOp_course hi' f
  have hpkg := honly.package
  refine ⟨⟨y, hy, hafter.of_time ?_⟩, (congrArg State.accs hpkg :).trans ?_, (congrArg State.mem hpkg :).trans ?_,
    (congrArg State.undef hpkg :).trans ?_, (congrArg State.slices hpkg :)⟩
  · rw [hr]; exact h.time
  · rw [hr]; exact h.accs
  · rw [hr]
  · rw [hr]

theorem harvestBits_iff (s : State) (z : Nat) (e : W64) : ((harvestBits s z e).getLsbD 1 = true ↔ s.slices.any (·.2.sat) = true) ∧
    ((harvestBits s z e).getLsbD 0 = true ↔ harvestWrote s z e = true) ∧ (harvestBits s z e).toNat < 4 := by
  unfold harvestBits
  generalize s.slices.any (·.2.sat) = sat
  generalize harvestWrote s z e = wrote
  revert sat wrote
  decide
theorem harvestWrote_iff (s : State) (z : Nat) (e : W64) : harvestWrote s z e = true ↔
    (∃ y ∈ s.slices, y.2.sat = true) ∨ ∃ y ∈ s.slices, ∃ p ∈ y.2.dirty, leafPage z e p = true := by
  simp [harvestWrote]

theorem writeLeaves_harvestMarked (s : State) (pa z : Nat) (e : W64) : WriteLeaves s (harvestMarked s pa z e) := by
  unfold harvestMarked
  split
  · exact (writeLeaves_bumpFree s).trans (writeLeaves_leafDirtied ..)
  · exact writeLeaves_bumpFree s
theorem harvestMarked_of_not {s : State} {pa z : Nat} {e : W64} (h : ¬ harvestWrote s z e = true ∨ inTables s pa = true) :
    harvestMarked s pa z e = s.bumpFree := by
  rw [harvestMarked, if_neg]
  rcases h with h | h <;> simp [h]
theorem harvestMarked_of_wrote {s : State} {pa z : Nat} {e : W64} (h : harvestWrote s z e = true) (ht : ¬ inTables s pa = true) :
    harvestMarked s pa z e = leafDirtied s.bumpFree (canonPa s pa) e := by
  rw [harvestMarked, if_pos (by simp [h, ht])]

/-- A state whose bytes are those of the leaf dirtied reads the leaf with DIRTY, and every other byte as before. -/
theorem leafDirtied_read {s t : State} {a : Nat} {e : W64} (hmem : t.mem = (leafDirtied s.bumpFree a e).mem)
    (hundef : t.undef = (leafDirtied s.bumpFree a e).undef) :
    t.readNat a 8 = (e ||| 0x200#64).toNat ∧ ∀ g, g < a ∨ a + 8 ≤ g → memGet t.mem g = memGet s.mem g := by
  rw [leafDirtied_mem] at hmem
  rw [leafDirtied_undef] at hundef
  constructor
  · rw [readNat_written hmem hundef]
    exact Nat.mod_eq_of_lt (e ||| 0x200#64).isLt
  · intro g hg
    rw [hmem, memGet_writeBytes, natBytes_length, if_neg (by omega)]
    rfl

/-- HARVEST of a leaf that maps: its result in sD, and the state that it has marked and cleared. -/
theorem execHarvest_mapped {q : Guard} {d a b : Reg} {s : State} {iss : Issue} {c k : Nat} {x : Course} (h : CourseIssues s iss c k x)
    (hq : x.u.rq q = true) (hp : x.prv = true) (ha : (x.u.rs a.toNat).toNat % 8 = 0) (hb : (x.u.rs b.toNat).toNat < 16)
    {pa z : Nat} {e : W64} {clr satclr : Bool} (hpa : (x.u.rs a.toNat).toNat = pa) (hz : (x.u.rs b.toNat).toNat / 4 = z)
    (hclr : (x.u.rs b.toNat).getLsbD 0 = clr) (hsat : (x.u.rs b.toNat).getLsbD 1 = satclr) (hbad : badSector s (canonPa s pa / 32) = none)
    (he : e = BitVec.ofNat 64 (s.readNat (canonPa s pa) 8)) (h0 : e.getLsbD 0 = true) (h1 : e.getLsbD 1 = true) :
    ∃ t, exec (.harvest q d a b) s = .next t ∧ CourseAdvanced s iss (x.u.ws d.toNat (harvestBits s z e)) x t c k ∧ t.accs = s.accs ∧
      t.mem = (harvestMarked s pa z e).mem ∧ t.undef = (harvestMarked s pa z e).undef ∧
      t.slices = (harvestCleared z e clr satclr (harvestMarked s pa z e)).slices := by
  subst hpa hz hclr hsat
  have hrun := execHarvest_runs (d := d) h hq hp ha hb hbad
  rw [harvestStep_mapped he h0 h1] at hrun
  exact ⟨_, hrun, (writeLeaves_harvestMarked s ..).advanced (harvestCleared_slices_only ..) h (·.ws d.toNat _)⟩

/-- Settles O26: the leaf's bits choose between the two equations of `harvestStep`; whether it writes DIRTY, between the two states it clears in. -/
theorem harvestResults : Obligations.HarvestResults := by
  unfold Obligations.HarvestResults
  intro q d a b s iss c k x h hq hp ha hb pa e z inLeaf sat tables wrote hbad
  have hleaf : ∀ p, leafPage z e p = true ↔ inLeaf p := fun p => by simp only [leafPage, beq_iff_eq]; rfl
  by_cases hmap : e.getLsbD 0 = true ∧ e.getLsbD 1 = true
  · obtain ⟨h0, h1⟩ := hmap
    have hwrote : harvestWrote s z e = true ↔ wrote := (harvestWrote_iff s z e).trans (by simp only [wrote, sat, hleaf])
    have hsat : s.slices.any (·.2.sat) = true ↔ sat := by simp [sat]
    obtain ⟨hb1, hb0, hlt⟩ := harvestBits_iff s z e
    obtain ⟨t, hrun, hadv, haccs, hmem, hundef, hsl⟩ := execHarvest_mapped (d := d) h hq hp ha hb (e := e) (z := z) rfl rfl rfl rfl hbad rfl h0 h1
    refine ⟨t, _, hrun, hadv, haccs, fun g => ?_, fun _ _ => ⟨hb1.trans hsat, hb0.trans hwrote, hlt, fun hw ht => ?_, fun hn => ?_, fun hclr => ?_,
      fun hsc => ?_, fun hz hn => ?_⟩⟩
    · rw [h0, h1] at g
      exact absurd g (by decide)
    · rw [harvestMarked_of_wrote (hwrote.2 hw) ht] at hmem hundef
      exact leafDirtied_read hmem hundef
    · rw [harvestMarked_of_not (hn.imp (mt hwrote.1) id)] at hmem
      exact hmem
    · rw [hsl, hclr]
      intro y hy p hp hin
      exact absurd ((hleaf p).2 hin) (by rw [harvestCleared_clr hy hp]; exact Bool.false_ne_true)
    · rw [hsl, hsc]
      exact fun y hy => harvestCleared_satclr hy
    · have hbit : ∀ i, i < 2 → (x.u.rs b.toNat).getLsbD i = false := fun i hi => by
        rw [BitVec.getLsbD, Nat.testBit_eq_decide_div_mod_eq]
        interval_cases i <;> exact decide_eq_false (by omega)
      rw [hsl, hbit 0 (by omega), hbit 1 (by omega), harvestMarked_of_not (.inl (mt hwrote.1 hn))]
      rfl
  · have hmap' : e.getLsbD 0 = false ∨ e.getLsbD 1 = false := by
      rwa [Decidable.not_and_iff_or_not, Bool.not_eq_true, Bool.not_eq_true] at hmap
    have hrun := execHarvest_runs (d := d) h hq hp ha hb hbad
    rw [harvestStep_unmapped (e := e) rfl hmap'] at hrun
    obtain ⟨hadv, haccs, hmem, -, hsl⟩ := (writeLeaves_bumpFree s).advanced (r' := s.bumpFree) rfl h (·.ws d.toNat 0)
    exact ⟨_, 0, hrun, hadv, haccs, fun _ => ⟨rfl, hmem, hsl⟩, fun g0 g1 => absurd ⟨g0, g1⟩ hmap⟩

end Sys2Proof.Machine
end

/-!
Replies and copies of loads (R92, R195, R269 to R271, R274; O38). A value that comes back goes to the lane that asked (`deliver_lane`); a copy of a core
is a record with an expiry, which a reply puts (`installCopy_put`), a load touches, and the core drops (`mget?_filter_key`).
-/

section
namespace Sys2Proof.Machine

/-! ## A lane's destination (R195) -/

theorem leNum_lt (b : List Byte) : leNum b < 256 ^ b.length := by
  induction b with
  | nil => exact Nat.one_pos
  | cons x b ih =>
    have hx := x.isLt
    rw [leNum, List.length_cons, Nat.pow_succ']
    omega

/-- The two forms of a sign extension to 32 bits. -/
theorem ofNat_signExtend {w x : Nat} (hw : w ≤ 32) (hx : x < 2 ^ w) :
    BitVec.ofNat 32 (if x < 2 ^ (w - 1) then x else x + 2 ^ 32 - 2 ^ w) = (BitVec.ofNat w x).signExtend 32 := by
  have hle : 2 ^ w ≤ 2 ^ 32 := Nat.pow_le_pow_right (by decide) hw
  apply BitVec.eq_of_toNat_eq
  rw [BitVec.toNat_signExtend, BitVec.msb_eq_decide]
  simp only [BitVec.toNat_ofNat, BitVec.toNat_setWidth, Nat.mod_eq_of_lt hx, decide_eq_true_eq]
  by_cases h : x < 2 ^ (w - 1)
  · rw [if_pos h, if_neg (by omega), Nat.add_zero]
  · rw [if_neg h, if_pos (by omega), Nat.mod_eq_of_lt (show x < 2 ^ 32 by omega)]
    omega

/-- A value with the bytes of a load of its size is written as R195 says. -/
theorem wvn_extendLd (ln : Lane) (d : Reg) (sz : LdSize) {x : Nat} (hx : x < 256 ^ loadBytes sz) :
    ln.wvn d.toNat (ldWide sz) (extendLd sz 32 x) = loaded ln d sz x := by
  cases sz with
  | z8 => rw [loaded, Nat.mod_eq_of_lt (show x < 2 ^ 8 from hx)]; rfl
  | z16 => rw [loaded, Nat.mod_eq_of_lt (show x < 2 ^ 16 from hx)]; rfl
  | s8 =>
    have hx : x < 2 ^ 8 := hx
    rw [extendLd, Nat.mod_eq_of_lt (show x < 256 from hx)]
    exact congrArg (ln.wv d.toNat) (ofNat_signExtend (w := 8) (by decide) hx)
  | s16 =>
    have hx : x < 2 ^ 16 := hx
    rw [extendLd, Nat.mod_eq_of_lt (show x < 65536 from hx)]
    exact congrArg (ln.wv d.toNat) (ofNat_signExtend (w := 16) (by decide) hx)
  | b32 => rfl
  | b64 => rfl
  | b128 => rfl

theorem Lane.wvn_st (ln : Lane) (r n x : Nat) : (ln.wvn r n x).st = ln.st := by
  unfold Lane.wvn
  split
  · rfl
  · split <;> rfl

theorem dropAcc_eq (s : State) (id : Nat) : dropAcc s id = { s with accs := s.accs.filter (fun z => decide (z.id ≠ id)) } := by
  have h : (fun z : Access => z.id != id) = fun z => decide (z.id ≠ id) := funext fun z => Bool.eq_iff_iff.2 (by simp)
  rw [dropAcc, h]

/-! ## A value comes back (R270) -/

/-- Where no lane is parked on an access, none goes on with it. -/
theorem unpark_course {s : State} {a : Access} {c k l : Nat} {x : Course} (hag : a.ag = .thread c k l) (hx : s.course? c k = some x)
    (hpark : ∀ m, (x.lane m).st ≠ .parked a.id) : OnlyCourse s (unpark s a) c k ∧
      ∃ y, (unpark s a).course? c k = some y ∧ y.u = x.u ∧ ∀ m, m < 8 → y.lane m = x.lane m := by
  unfold unpark
  rw [hag]
  refine ⟨onlyCourse_updCourse .., ?_⟩
  rw [State.course?_updCourse_self, hx, Option.map_some]
  refine ⟨_, rfl, rfl, fun m hm => ?_⟩
  rw [Course.lane_mapLanes _ _ hm, if_neg]
  simp [hpark m]

/-- A loaded value goes to the destination of its lane; the other lanes and the uniform state stand. -/
theorem deliver_lane {s : State} {a : Access} {b : List Byte} {c k l : Nat} {d : Reg} {sz : LdSize} {co : Course} (hag : a.ag = .thread c k l)
    (hl : l < 8) (hd : a.dest = .vreg d sz) (hb : b.length = loadBytes sz) (hco : s.course? c k = some co) (hlive : (co.lane l).st ≠ .exited)
    (hpark : ∀ m, (co.lane m).st ≠ .parked a.id) : OnlyCourse (dropAcc s a.id) (deliver s a b) c k ∧
      ∃ y, (deliver s a b).course? c k = some y ∧ y.u = co.u ∧ y.lane l = loaded (co.lane l) d sz (leNum b) ∧
        ∀ m, m < 8 → m ≠ l → y.lane m = co.lane m := by
  set f : Lane → Lane := fun ln => ln.wvn d.toNat (ldWide sz) (extendLd sz 32 (leNum b)) with hf
  set g : Lane → Lane := fun ln => if ln.live then f ln else ln with hg
  have hdel : deliver s a b = unpark ((dropAcc s a.id).updCourse c k (·.updLane l g)) a := by
    simp only [deliver, hd, updAgLane, hag]
    rfl
  have hz : ((dropAcc s a.id).updCourse c k (·.updLane l g)).course? c k = some (co.updLane l g) := by
    rw [State.course?_updCourse_self, show (dropAcc s a.id).course? c k = some co from hco]
    rfl
  have hst : ∀ ln, (g ln).st = ln.st := fun ln => by
    simp only [hg, hf]
    split
    · exact ln.wvn_st ..
    · rfl
  have hzpark : ∀ m, ((co.updLane l g).lane m).st ≠ .parked a.id := fun m => by
    by_cases hm : m < 8
    · rw [Course.lane_updLane _ _ _ hm]
      split
      · rw [hst]; exact hpark m
      · exact hpark m
    · simp [Course.lane, Course.updLane, hm]
  obtain ⟨honly, y, hy, hyu, hyl⟩ := unpark_course hag hz hzpark
  rw [hdel]
  refine ⟨(onlyCourse_updCourse ..).trans honly, y, hy, hyu, ?_, fun m hm hne => ?_⟩
  · rw [hyl l hl, Course.lane_updLane _ _ _ hl, if_pos rfl, ← wvn_extendLd _ _ _ (hb ▸ leNum_lt b)]
    exact if_pos (by simpa [Lane.live] using hlive)
  · rw [hyl m hm, Course.lane_updLane _ _ _ hm, if_neg hne]

theorem sliceGran_length {g : List Byte} {dst n : Nat} (hg : g.length = 64) (h : dst % 64 + n ≤ 64) : (sliceGran g dst n).length = n := by
  rw [sliceGran, List.length_take, List.length_drop, hg]
  omega

/-! ## The copies of a core (R92, R269) -/

theorem mget?_filter_key {α : Type} {p : Nat × α → Bool} {q : Nat → Bool} (hp : ∀ e, p e = q e.1) (m : Map α) (n : Nat) :
    mget? (m.filter p) n = if q n then mget? m n else none := by
  induction m with
  | nil => simp
  | cons e m ih =>
    obtain ⟨k, v⟩ := e
    rw [List.filter_cons, hp]
    by_cases hk : k = n
    · subst hk
      cases h : q k <;> simp [h, mget?, ih]
    · cases h : q k <;> simp [mget?, hk, ih]

/-- Copies that are dropped leave a line as it is or take it away, and then it has no copy. -/
theorem Core.keepCopies_line {co : Core} {keep : Nat → Copy → Bool} {m : Nat} {x : Line} (hx : mget? co.lines m = some x) :
    mget? (co.keepCopies keep).lines m = some x ∨
      (mget? (co.keepCopies keep).lines m = none ∧ ∀ g, g / 4 = m → mget? (co.keepCopies keep).copies g = none) := by
  have hline : mget? (co.keepCopies keep).lines m =
      if (co.keepCopies keep).copies.any (fun y => y.1 / 4 == m) then mget? co.lines m else none :=
    mget?_filter_key (q := fun m => (co.keepCopies keep).copies.any (fun y => y.1 / 4 == m)) (fun _ => rfl) _ _
  by_cases hany : (co.keepCopies keep).copies.any (fun y => y.1 / 4 == m) = true
  · exact .inl (hline.trans ((if_pos hany).trans hx))
  · refine .inr ⟨hline.trans (if_neg hany), fun g hg => Option.eq_none_iff_forall_ne_some.2 fun cp hcp => hany ?_⟩
    exact List.any_eq_true.2 ⟨(g, cp), mem_of_mget? hcp, beq_iff_eq.2 hg⟩

/-- A line that a load has touched (R92). -/
theorem Core.touch_lines (co : Core) (g ev now : Nat) : (∀ ln, mget? co.lines (g / 4) = some ln →
      mget? (co.touch g ev now).lines (g / 4) = some { ln with ev := if ev = 3 then ln.ev else ev, used := now }) ∧
    (∀ m, m ≠ g / 4 → mget? (co.touch g ev now).lines m = mget? co.lines m) ∧ co.touch g ev now = { co with lines := (co.touch g ev now).lines } := by
  unfold Core.touch
  split
  · next hn => exact ⟨fun ln h => absurd (hn.symm.trans h) (by simp), fun _ _ => rfl, rfl⟩
  · next x hx =>
    refine ⟨fun ln h => ?_, fun m hm => mget?_mset_ne _ _ hm, rfl⟩
    obtain rfl := Option.some.inj (hx.symm.trans h)
    exact mget?_mset_self ..

/-- A copy that is put stands, in a line of its priority. -/
theorem Core.putCopy_stands (co : Core) (g set ev now : Nat) (cp : Copy) (hev : ev ≠ 3) : mget? (co.putCopy g set ev now cp).copies g = some cp ∧
    ∃ ln, mget? (co.putCopy g set ev now cp).lines (g / 4) = some ln ∧ ln.ev = ev ∧ ln.used = now := by
  refine ⟨mget?_mset_self .., ?_⟩
  unfold Core.putCopy
  split
  · next ln hln => exact ⟨_, (co.touch_lines g ev now).1 ln hln, if_neg hev, rfl⟩
  · exact ⟨_, mget?_mset_self .., rfl, rfl⟩

/-- A reply that is granted a lease leaves a copy, unless the granule's mark is set. -/
theorem installCopy_put {s : State} {a : Access} {c e dst : Nat} {g : List Byte} (hc : agentCore? a.ag = some c) (hev : a.ev ≠ 3)
    (hmark : pendingMark s c (granOf s dst) = false) (hsafe : c ∉ s.safe) : let t := installCopy s a g (some e) dst
    mget? (t.core c).copies (granOf s dst) = some { data := g, exp := BitVec.ofNat 24 ((e - 24) / 8), stamp := a.stamp } ∧
      ∃ ln, mget? (t.core c).lines (granOf s dst / 4) = some ln ∧ ln.ev = a.ev ∧ ln.used = s.stepNo + 1 := by
  intro t
  have ht : t = (poolRoom s (granOf s dst)).updCore c
      (·.putCopy (granOf s dst) (setOf dst) a.ev (s.stepNo + 1) { data := g, exp := copyExp e, stamp := a.stamp }) := by
    simp only [t, installCopy, hc]
    rw [if_neg]
    simp [hmark, safeUnit, hsafe, hev]
  rw [ht, State.core_updCore, if_pos rfl]
  exact Core.putCopy_stands _ _ _ _ _ _ hev
theorem installCopy_none (s : State) (a : Access) (g : List Byte) (dst : Nat) : installCopy s a g none dst = s := by
  unfold installCopy
  split <;> simp_all
theorem installCopy_marked {s : State} {a : Access} {c dst : Nat} (g : List Byte) (x : Option Nat) (hc : agentCore? a.ag = some c)
    (h : pendingMark s c (granOf s dst) = true) : installCopy s a g x dst = s := by
  cases x with
  | none => exact installCopy_none ..
  | some e =>
    simp only [installCopy, hc]
    rw [if_pos]
    simp [h]

/-- A copy's expiry stands ahead of a core's T by less than half the range (R269). -/
theorem mayServe_iff (x : BitVec 24) (t : Nat) : mayServe x t = true ↔
    1 ≤ (x.toNat + 2 ^ 24 - t / 8 % 2 ^ 24) % 2 ^ 24 ∧ (x.toNat + 2 ^ 24 - t / 8 % 2 ^ 24) % 2 ^ 24 ≤ 2 ^ 23 - 1 := by
  have h : (x - BitVec.ofNat 24 (t / 8)).toNat = (x.toNat + 2 ^ 24 - t / 8 % 2 ^ 24) % 2 ^ 24 := by
    rw [BitVec.toNat_sub, BitVec.toNat_ofNat]
    congr 1
    omega
  rw [mayServe]
  simp only [h, decide_eq_true_eq]

theorem copyHit_scope {s : State} {id dst : Nat} {a : Access} (hf : s.accs.filter (fun y => y.id == id) = [a]) (hph : a.ph = .flight dst)
    (h : 6 ≤ a.scope) : copyHit s id = s := by
  rw [copyHit, find?_of_filter_singleton hf]
  dsimp only
  rw [hph]
  cases agentCore? a.ag with
  | none => rfl
  | some c => exact if_pos (by simp [h])
/-- A copy older than what its agent has seen of the sector does not serve. -/
theorem copyHit_older {s : State} {id dst c : Nat} {a : Access} {cp : Copy} (hf : s.accs.filter (fun y => y.id == id) = [a]) (hph : a.ph = .flight dst)
    (hc : agentCore? a.ag = some c) (hcp : mget? (s.core c).copies (granOf s dst) = some cp)
    (h : stampAt cp.stamp dst < seenAt s a.ag (secOf s dst)) : copyHit s id = s := by
  rw [copyHit, find?_of_filter_singleton hf]
  dsimp only
  rw [hph, hc]
  dsimp only
  rw [hcp]
  dsimp only
  rw [if_neg (c := (_ && _ && decide _) = true) (by simp [h])]
  exact ite_self _
/-- A copy that serves gives its bytes to the access, and its line the access's priority. -/
theorem copyHit_serves {s : State} {id dst c k l : Nat} {a : Access} {d : Reg} {sz : LdSize} {cp : Copy} (hf : s.accs.filter (fun y => y.id == id) = [a])
    (hph : a.ph = .flight dst) (hkind : a.kind = .load) (hlast : a.last = false) (hag : a.ag = .thread c k l) (hd : a.dest = .vreg d sz)
    (hscope : a.scope < 6) (hsafe : c ∉ s.safe) (hord : orderOk s a dst false = true) (hcp : mget? (s.core c).copies (granOf s dst) = some cp)
    (hsweep : sweepDue s c = false) (hseen : seenAt s a.ag (secOf s dst) ≤ stampAt cp.stamp dst) (hserve : mayServe cp.exp (s.coreT c) = true) :
    copyHit s id = deliver (noteSeen (s.updCore c (·.touch (granOf s dst) a.ev (s.stepNo + 1))) a.ag (secOf s dst) (stampAt cp.stamp dst)) a
      (sliceGran cp.data dst a.size) := by
  have hc : agentCore? a.ag = some c := by rw [hag]; rfl
  have hdst : a.dst = dst := by rw [Access.dst, hph]
  have hgroup : readGroup (s.updCore c (·.touch (granOf s dst) a.ev (s.stepNo + 1))) a dst = [a] := by simp [readGroup, hag]
  rw [copyHit, find?_of_filter_singleton hf]
  dsimp only
  rw [hph, hc]
  dsimp only
  rw [if_neg (by simp [hkind, AccKind.isWrite, Access.byWord, hd, hsafe, safeUnit, hord, hscope]), hcp]
  dsimp only
  rw [if_pos (by simp [hserve, hsweep, hseen]), hgroup, hlast, ← hdst]
  rfl
theorem loadReply_load {s : State} {id dst : Nat} {a : Access} {d : Reg} {sz : LdSize} {g : List Byte} {x : Option Nat}
    (hf : s.accs.filter (fun y => y.id == id) = [a]) (hph : a.ph = .replied g x dst) (hkind : a.kind = .load) (hlast : a.last = false)
    (hd : a.dest = .vreg d sz) : loadReply s id = deliver (installCopy s a g x dst) a (sliceGran g dst a.size) := by
  rw [loadReply, find?_of_filter_singleton hf]
  dsimp only
  rw [hph]
  simp [hkind, hlast, Access.byWord, hd]

theorem cacheStep_installCopy (s : State) (a : Access) (g : List Byte) (e : Option Nat) (dst : Nat) : CacheStep s (installCopy s a g e dst) := by
  unfold installCopy
  split
  · dsimp only
    split
    · exact CacheStep.refl s
    · exact (cacheStep_poolRoom s _).trans (cacheStep_tables _ ..)
  · exact CacheStep.refl s
theorem CacheStep.sameBytes {s t : State} (h : CacheStep s t) : SameBytes s t := fun e => (congrArg (·.readByte e) h.package :)
theorem CacheStep.accs {s t : State} (h : CacheStep s t) : t.accs = s.accs := (congrArg State.accs h.package :)

theorem OnlyCourse.accs {s t : State} {c k : Nat} (h : OnlyCourse s t c k) : t.accs = s.accs := (congrArg State.accs h.package :)
theorem OnlyCourse.seen {s t : State} {c k : Nat} (h : OnlyCourse s t c k) : t.seen = s.seen := (congrArg State.seen h.package :)
theorem OnlyCourse.copies {s t : State} {c k : Nat} (h : OnlyCourse s t c k) : (t.core c).copies = (s.core c).copies :=
  (congrArg Core.copies h.core :)
theorem OnlyCourse.lines {s t : State} {c k : Nat} (h : OnlyCourse s t c k) : (t.core c).lines = (s.core c).lines :=
  (congrArg Core.lines h.core :)

theorem onlyCore_updCore (s : State) (c : Nat) (f : Core → Core) : OnlyCore s (s.updCore c f) c where
  package := rfl
  cores := fun d hd => by rw [State.core_updCore, if_neg hd]
  bytes := fun _ => rfl

/-- Settles O38: a reply and a serving copy both come to `deliver_lane`; what a reply installs, and what expiry and sweep drop, are facts of the
core's table of copies. -/
theorem loadedValuesReachTheirLanes : Obligations.LoadedValuesReachTheirLanes := by
  unfold Obligations.LoadedValuesReachTheirLanes
  refine ⟨?reply, ?hit, fun s id a dst hf hph h => congrArg Host.Outcome.next (copyHit_scope hf hph h),
    fun s id a dst c cp hf hph hc hcp h => congrArg Host.Outcome.next (copyHit_older hf hph hc hcp h), ?expiry, ?sweep⟩
  case reply =>
    intro s id a g x dst c k l d sz co hf hph hkind hlast hag hl hd hsize hg hfit hco hlive hpark
    have hid : a.id = id := by simpa using List.of_mem_filter (hf ▸ List.mem_singleton_self a : a ∈ s.accs.filter (fun y => y.id == id))
    have hc : agentCore? a.ag = some c := by rw [hag]; rfl
    have hstep := cacheStep_installCopy s a g x dst
    have hco' := ((readLeaves_installCopy s a g x dst).course c k).trans hco
    obtain ⟨honly, y, hy, hyu, hyl, hym⟩ := deliver_lane (b := sliceGran g dst a.size) hag hl hd ((sliceGran_length hg hfit).trans hsize) hco' hlive
      (hid.symm ▸ hpark)
    refine ⟨_, y, congrArg Host.Outcome.next (loadReply_load hf hph hkind hlast hd), fun e => (honly.bytes e).trans (hstep.sameBytes e), ?_, hy, hyu, hyl,
      hym, fun hx => ?_, fun e hx hev hmark hsafe => ?_, fun hmark => ?_⟩
    · rw [honly.accs, hid, dropAcc_eq, ← hstep.accs]
    · rw [honly.copies, hx, installCopy_none]
      rfl
    · obtain ⟨hput, hline⟩ := installCopy_put (g := g) (e := e) hc hev hmark hsafe
      rw [honly.copies, honly.lines, hx]
      exact ⟨hput, hline⟩
    · rw [honly.copies, installCopy_marked g x hc hmark]
      rfl
  case hit =>
    intro s id a dst c k l d sz co cp hf hph hkind hlast hag hl hscope hsafe hord hcp hsweep hseen hleft hd hsize hlen hfit hco hlive hpark
    have hid : a.id = id := by simpa using List.of_mem_filter (hf ▸ List.mem_singleton_self a : a ∈ s.accs.filter (fun y => y.id == id))
    have hrun := copyHit_serves hf hph hkind hlast hag hd hscope hsafe hord hcp hsweep hseen ((mayServe_iff ..).2 hleft)
    obtain ⟨htouched, hothers, htouch⟩ := (s.core c).touch_lines (granOf s dst) a.ev (s.stepNo + 1)
    set s1 := noteSeen (s.updCore c (·.touch (granOf s dst) a.ev (s.stepNo + 1))) a.ag (secOf s dst) (stampAt cp.stamp dst) with hs1
    have hco1 : s1.course? c k = some co := ((readLeaves_touch s c ..).course c k).trans hco
    obtain ⟨honly, y, hy, -, hyl, hym⟩ := deliver_lane (b := sliceGran cp.data dst a.size) hag hl hd ((sliceGran_length hlen hfit).trans hsize) hco1 hlive
      (hid.symm ▸ hpark)
    have hlines : ((deliver s1 a (sliceGran cp.data dst a.size)).core c).lines = ((s.core c).touch (granOf s dst) a.ev (s.stepNo + 1)).lines := by
      rw [honly.lines, show (dropAcc s1 a.id).core c = (s.updCore c (·.touch (granOf s dst) a.ev (s.stepNo + 1))).core c from rfl,
        State.core_updCore, if_pos rfl]
    refine ⟨_, y, congrArg Host.Outcome.next hrun, ?_, hy, fun ln hln => hlines ▸ htouched ln hln, fun m hm => hlines ▸ hothers m hm, hyl, hym⟩
    have hbase : s.updCore c (fun z => { z with lines := ((s.core c).touch (granOf s dst) a.ev (s.stepNo + 1)).lines }) =
        s.updCore c (·.touch (granOf s dst) a.ev (s.stepNo + 1)) := congrArg (s.setCore c) htouch.symm
    rw [hlines, honly.seen, ← hid, hbase]
    rw [dropAcc_eq] at honly
    exact honly
  case expiry =>
    intro s core gran
    have hcopies : ∀ g, mget? ((s.core core).dropCopy gran).copies g = if g ≠ gran then mget? (s.core core).copies g else none := fun g =>
      (mget?_filter_key (q := (· != gran)) (fun _ => rfl) _ g).trans (by simp)
    refine ⟨_, rfl, onlyCore_updCore .., ?_, fun g hg => ?_, ?_, fun m x hx => ?_⟩ <;> rw [State.core_updCore, if_pos rfl]
    · exact (hcopies gran).trans (if_neg (by simp))
    · exact (hcopies g).trans (if_pos hg)
    · rfl
    · exact Core.keepCopies_line hx
  case sweep =>
    intro s core
    refine ⟨_, rfl, onlyCore_updCore .., ?_, fun e he => ?_⟩ <;> rw [State.core_updCore, if_pos rfl]
    · rfl
    · rw [← mayServe_iff]
      exact List.mem_filter.trans (and_iff_right he)

end Sys2Proof.Machine
end

/-!
The miss queue and the TLBs (R91, R316 to R318; O24). MQPOP moves one entry of the queue; TLBW's replay and retries find nothing to do but for the
access that waits for the page (`retryOne_go`); TLBI makes each retried access miss again, which leaves every other access (`missAgain_leaves`).
-/

section
namespace Sys2Proof.Machine

/-! ## MQPOP (R316) -/

theorem popMiss_first {pre post : List Miss} {m : Miss} (hpre : ∀ e ∈ pre, e.service = true) (hm : m.service = false) :
    popMiss (pre ++ m :: post) = some (m, pre ++ { m with service := true } :: post) := by
  induction pre with
  | nil => simp [popMiss, hm]
  | cons e pre ih =>
    rw [List.cons_append, popMiss, if_pos (hpre e List.mem_cons_self), ih fun e he => hpre e (List.mem_cons_of_mem _ he)]
    rfl
theorem popMiss_none {q : List Miss} (h : ∀ m ∈ q, m.service = true) : popMiss q = none := by
  induction q with
  | nil => rfl
  | cons e q ih => rw [popMiss, if_pos (h e List.mem_cons_self), ih fun m hm => h m (List.mem_cons_of_mem _ hm)]; rfl

theorem missA_eq (m : Miss) : missA m = BitVec.ofNat 64 (m.va.toNat / 65536 * 65536) := by
  apply BitVec.eq_of_toNat_eq
  have hlt : m.va.toNat / 65536 * 65536 < 2 ^ 64 := by have := m.va.isLt; omega
  rw [missA, BitVec.toNat_shiftLeft, BitVec.toNat_ushiftRight, BitVec.toNat_ofNat, Nat.shiftLeft_eq, Nat.shiftRight_eq_div_pow]
theorem missB_eq (m : Miss) : let n := fun (b : Bool) => if b then 1 else 0
    missB m = BitVec.ofNat 64 (64 * n m.r + 128 * n m.w + 256 * n m.x + 512 * n m.prv + 1024 * (m.qtr % 4) + 2 ^ 32 * m.inc.toNat) := by
  intro n
  have hn : ∀ b, (BitVec.ofBool b).toNat = n b := fun b => by cases b <;> rfl
  have hlt : ∀ b, n b < 2 := fun b => by cases b <;> decide
  have hinc := m.inc.isLt
  have := hlt m.r; have := hlt m.w; have := hlt m.x; have := hlt m.prv
  apply BitVec.eq_of_toNat_eq
  rw [missB]
  simp only [toNat_append_add, hn, BitVec.toNat_ofNat, BitVec.ofNat_eq_ofNat, Nat.zero_mod]
  omega

/-- What leaves a core's courses leaves a course that issues. -/
theorem courseIssues_setCore {s : State} {iss : Issue} {c k : Nat} {x : Course} (h : CourseIssues s iss c k x) {y : Core}
    (hy : y.courses = (s.core c).courses) : CourseIssues (s.setCore c y) iss c k x :=
  ⟨h.1, h.2.1, by rw [State.course?, State.core_setCore, if_pos rfl, hy]; exact h.2.2⟩

theorem execMqpop_pops {q : Guard} {d : Reg} {s : State} {iss : Issue} {c k : Nat} {x : Course} {pre post : List Miss} {m : Miss}
    (h : CourseIssues s iss c k x) (hq : x.u.rq q = true) (hp : x.prv = true) (hmq : (s.core c).mq = pre ++ m :: post)
    (hpre : ∀ e ∈ pre, e.service = true) (hm : m.service = false) : exec (.mqpop q d) s = .next
      (uniOp (s.setCore c { s.core c with mq := pre ++ { m with service := true } :: post }) iss
        (fun u => (u.ws d.toNat (missA m)).ws (d.toNat + 1) (missB m))) := by
  change execMqpop q d s = _
  rw [execMqpop, pword_course h, if_pos hq, if_pos hp, hmq, popMiss_first hpre hm]
  exact congrArg Host.Outcome.next (skip_updIss h.2.1 _)
theorem execMqpop_held {q : Guard} {d : Reg} {s : State} {iss : Issue} {c k : Nat} {x : Course}
    (h : CourseIssues s iss c k x) (hq : x.u.rq q = true) (hp : x.prv = true) (hall : ∀ m ∈ (s.core c).mq, m.service = true) :
    exec (.mqpop q d) s = .next s := by
  change execMqpop q d s = _
  rw [execMqpop, pword_course h, if_pos hq, if_pos hp, popMiss_none hall]

/-! ## TLBI's end (R318) -/

/-- The wait of a kind that a lane gives, once its accesses are performed. -/
def laneReady (s : State) (kind : PendKind) (ln : Lane) : Option Pend :=
  match ln.st with
  | .pend p => if p.kind = kind ∧ accsDone s p.accs = true then some p else none
  | _ => none
theorem laneReady_eq_some {s : State} {kind : PendKind} {ln : Lane} {p : Pend} :
    laneReady s kind ln = some p ↔ ln.st = .pend p ∧ p.kind = kind ∧ accsDone s p.accs = true := by
  unfold laneReady
  split
  · next q hq =>
    rw [Option.ite_none_right_eq_some, hq, Option.some.injEq, LaneSt.pend.injEq]
    constructor
    · rintro ⟨h, rfl⟩
      exact ⟨rfl, h⟩
    · rintro ⟨rfl, h⟩
      exact ⟨h, rfl⟩
  · next hne => exact iff_of_false nofun fun h => hne p h.1
theorem pendReady_eq {s : State} {c k : Nat} {x : Course} (kind : PendKind) (hx : s.course? c k = some x) :
    pendReady s c k kind = x.lanes.findSome? (laneReady s kind) := by
  rw [pendReady, hx]
  rfl

theorem Course.exists_lane {x : Course} {ln : Lane} (h : ln ∈ x.lanes) : ∃ l, x.lane l = ln := by
  obtain ⟨i, hi, rfl⟩ := List.getElem_of_mem h
  exact ⟨i, by simp [Course.lane, hi]⟩
theorem Course.lane_mem {x : Course} {l : Nat} (h : (x.lane l).st ≠ ({} : Lane).st) : x.lane l ∈ x.lanes := by
  by_cases hl : l < x.lanes.length
  · rw [Course.lane, List.getD_eq_getElem _ _ hl]
    exact List.getElem_mem hl
  · rw [Course.lane, List.getD_eq_default _ _ (by omega)] at h
    exact absurd rfl h

/-- The wait that `pendReady` finds is the one wait of its kind, once its accesses are performed. -/
theorem pendReady_onlyWait {s : State} {c k : Nat} {x : Course} {p : Pend} (hx : s.course? c k = some x) (hp : OnlyWait x p) :
    pendReady s c k p.kind = if accsDone s p.accs then some p else none := by
  obtain ⟨⟨l, -, hl⟩, hone⟩ := hp
  have honly : ∀ ln ∈ x.lanes, ∀ q, laneReady s p.kind ln = some q → q = p ∧ accsDone s p.accs = true := fun ln hln q hq => by
    obtain ⟨i, rfl⟩ := Course.exists_lane hln
    obtain ⟨hst, hk, hd⟩ := laneReady_eq_some.1 hq
    obtain rfl := hone i q hst hk
    exact ⟨rfl, hd⟩
  rw [pendReady_eq _ hx]
  cases hfind : x.lanes.findSome? (laneReady s p.kind) with
  | some q =>
    obtain ⟨ln, hln, hq⟩ := List.exists_of_findSome?_eq_some hfind
    obtain ⟨rfl, hd⟩ := honly ln hln q hq
    rw [if_pos hd]
  | none =>
    rw [if_neg]
    intro hd
    have hmem : x.lane l ∈ x.lanes := Course.lane_mem (by rw [hl]; exact fun h => nomatch h)
    rw [List.findSome?_eq_none_iff] at hfind
    exact absurd (laneReady_eq_some.2 ⟨hl, rfl, hd⟩) (by rw [hfind _ hmem]; exact nofun)

theorem accsDone_iff (s : State) (ids : List Nat) : accsDone s ids = true ↔ ∀ a ∈ s.accs, a.id ∈ ids → a.ph.unperformed = false := by
  simp [accsDone]
/-- The lanes that wait with p go on. -/
theorem pendEnd_none {s : State} {c k : Nat} {x : Course} (p : Pend) (hx : s.course? c k = some x) :
    OnlyCourse s (pendEnd s c k p none) c k ∧ WaitEnds (pendEnd s c k p none) c k x p x.u := by
  unfold pendEnd
  refine ⟨onlyCourse_updCourse .., ?_⟩
  unfold WaitEnds
  rw [State.course?_updCourse_self, hx, Option.map_some]
  refine ⟨_, rfl, rfl, rfl, fun l hl => ?_⟩
  have h := x.lane_mapLanes (fun _ ln => if ln.st == .pend p then { ln with st := .ready, pc := p.next } else ln) hl
  refine h.trans ?_
  simp only [beq_iff_eq]

/-! ## What a miss leaves alone (R90, R91) -/

/-- An access that waits for its page. -/
def Phase.Waits (ph : Phase) : Prop := ph = .missed ∨ ph = .queued ∨ ph = .sideLog

/-- t is s but for the accesses in flight, the copies and the cores. -/
structure MissPackage (s t : State) : Prop where
  package : { t with cores := s.cores, accs := s.accs, proxies := s.proxies } = s

theorem MissPackage.trans {s t u : State} (h : MissPackage s t) (h' : MissPackage t u) : MissPackage s u where
  package := by
    calc { u with cores := s.cores, accs := s.accs, proxies := s.proxies }
        = { ({ u with cores := t.cores, accs := t.accs, proxies := t.proxies } : State) with
              cores := s.cores, accs := s.accs, proxies := s.proxies } := rfl
      _ = s := by rw [h'.package, h.package]
theorem missPackage_setCore (s : State) (c : Nat) (x : Core) : MissPackage s (s.setCore c x) := ⟨rfl⟩

section
variable {s t : State} (h : MissPackage s t)
include h
theorem MissPackage.sameBytes : SameBytes s t := fun e => (congrArg (·.readByte e) h.package :)
theorem MissPackage.time : t.t = s.t := (congrArg State.t h.package :)
theorem MissPackage.tlbCore? (ag : Agent) : tlbCore? t ag = Sys2Proof.Machine.tlbCore? s ag :=
  (congrArg (fun u => Sys2Proof.Machine.tlbCore? u ag) h.package :)
end

/-- And no TLB changes, and no course comes or goes. -/
structure MissLeaves (s t : State) : Prop extends MissPackage s t where
  tlb : ∀ e, (t.core e).tlb = (s.core e).tlb
  qtlb : ∀ e, (t.core e).qtlb = (s.core e).qtlb
  course : ∀ c k, (t.course? c k).isSome = (s.course? c k).isSome

theorem MissLeaves.refl (s : State) : MissLeaves s s := ⟨⟨rfl⟩, fun _ => rfl, fun _ => rfl, fun _ _ => rfl⟩
theorem MissLeaves.trans {s t u : State} (h : MissLeaves s t) (h' : MissLeaves t u) : MissLeaves s u where
  toMissPackage := h.toMissPackage.trans h'.toMissPackage
  tlb := fun e => (h'.tlb e).trans (h.tlb e)
  qtlb := fun e => (h'.qtlb e).trans (h.qtlb e)
  course := fun c k => (h'.course c k).trans (h.course c k)
theorem MissLeaves.foldl {α : Type} {f : State → α → State} (h : ∀ s x, MissLeaves s (f s x)) (s : State) (l : List α) : MissLeaves s (l.foldl f s) :=
  List.foldlRecOn (motive := fun t => MissLeaves s t) l _ (MissLeaves.refl s) fun t ht x _ => ht.trans (h t x)

theorem missLeaves_accs (s : State) (l : List Access) : MissLeaves s { s with accs := l } := ⟨⟨rfl⟩, fun _ => rfl, fun _ => rfl, fun _ _ => rfl⟩
theorem missLeaves_setCore (s : State) (c : Nat) (x : Core) (h1 : x.tlb = (s.core c).tlb) (h2 : x.qtlb = (s.core c).qtlb)
    (h3 : x.courses = (s.core c).courses) : MissLeaves s (s.setCore c x) where
  package := rfl
  tlb := fun e => by rw [State.core_setCore]; split <;> simp [*]
  qtlb := fun e => by rw [State.core_setCore]; split <;> simp [*]
  course := fun d k => by rw [State.course?, State.core_setCore]; split <;> simp [*, State.course?]
theorem missLeaves_updCourse (s : State) (c k : Nat) (f : Course → Course) : MissLeaves s (s.updCourse c k f) where
  package := by rw [show ({ s.updCourse c k f with cores := s.cores, accs := s.accs, proxies := s.proxies } : State) =
    { { s.updCourse c k f with cores := s.cores } with accs := s.accs, proxies := s.proxies } from rfl, State.updCourse_rest]
  tlb := fun e => by
    by_cases he : e = c
    · subst he; exact (congrArg Core.tlb (State.core_updCourse_rest s e k f) :)
    · rw [State.core_updCourse_ne s c k f he]
  qtlb := fun e => by
    by_cases he : e = c
    · subst he; exact (congrArg Core.qtlb (State.core_updCourse_rest s e k f) :)
    · rw [State.core_updCourse_ne s c k f he]
  course := fun d j => by
    rw [State.course?_updCourse]
    split
    · next h => rw [Option.isSome_map, h.1, h.2]
    · rfl
theorem missLeaves_dropCopies (s : State) (c dst ev : Nat) : MissLeaves s (dropCopies s c dst ev) := by
  have ht := ((s.core c).touch_lines (granOf s dst) ev (s.stepNo + 1)).2.2
  have h : MissLeaves s (s.updCore c (fun co => (co.touch (granOf s dst) ev (s.stepNo + 1)).dropCopy (granOf s dst))) :=
    missLeaves_setCore s c _ (congrArg Core.tlb ht :) (congrArg Core.qtlb ht :) (congrArg Core.courses ht :)
  unfold dropCopies
  split
  · exact h.trans ⟨⟨rfl⟩, fun _ => rfl, fun _ => rfl, fun _ _ => rfl⟩
  · exact h
theorem missLeaves_dropMaybe (s : State) (c : Nat) (a : Access) : MissLeaves s (dropMaybe s c a) := by
  unfold dropMaybe
  split
  · exact missLeaves_dropCopies ..
  · exact missLeaves_setCore s c _ rfl rfl rfl
theorem missLeaves_missFate {s t : State} {c va : Nat} {a : Access} (h : missFate s c a va = .merged t) : MissLeaves s t := by
  unfold missFate at h
  simp only at h
  split at h
  · split at h
    · exact MissFate.noConfusion h
    · injection h with h
      exact h ▸ missLeaves_setCore s c _ rfl rfl rfl
  · split at h
    · injection h with h
      exact h ▸ missLeaves_setCore s c _ rfl rfl rfl
    · exact MissFate.noConfusion h

/-- The accesses of t are those of s and one that waits for its page, in place of a. -/
def WaitsAdded (s t : State) (a : Access) : Prop := ∃ A, t.accs = s.accs ++ [A] ∧ A.id = a.id ∧ A.ag = a.ag ∧ A.ph.Waits

theorem placeMiss_waits {s t : State} {c : Nat} {a : Access} {w : Bool} (h : placeMiss s c a = some (t, w)) : MissLeaves s t ∧ WaitsAdded s t a := by
  have hph : ∀ p : Phase, p.Waits → (if posted a then Phase.sideLog else p).Waits := fun p hp => by
    split
    · exact .inr (.inr rfl)
    · exact hp
  unfold placeMiss at h
  split at h
  · cases h
  · split at h
    · cases h
    · obtain ⟨rfl, -⟩ := Prod.mk.inj (Option.some.inj h)
      exact ⟨missLeaves_accs .., _, rfl, rfl, rfl, hph _ (.inr (.inl rfl))⟩
    · next s' hs' =>
      obtain ⟨rfl, -⟩ := Prod.mk.inj (Option.some.inj h)
      exact ⟨(missLeaves_missFate hs').trans (missLeaves_accs ..), _, congrArg (· ++ _) (kept_missFate hs').accs, rfl, rfl, hph _ (.inl rfl)⟩
theorem placeAcc_miss_waits {s t : State} {c : Nat} {a : Access} {ea : W64} {w : Bool} (h : placeAcc s c a (.miss ea) = some (t, w)) :
    MissLeaves s t ∧ WaitsAdded s t a := by
  unfold placeAcc at h
  dsimp only at h
  obtain ⟨hleaves, A, haccs, hid, hag, hph⟩ := placeMiss_waits h
  split at hleaves
  · exact ⟨(missLeaves_dropMaybe ..).trans hleaves, A, by rw [haccs, if_pos ‹_›, (kept_dropMaybe ..).accs], hid, hag, hph⟩
  · exact ⟨hleaves, A, by rw [haccs, if_neg ‹_›], hid, hag, hph⟩

/-- The lane that waits once more with an access that misses again. -/
def againLane (c : Nat) (s : State) (a : Access) : Option (Nat × Nat) :=
  match a.ag, a.lanes with
  | .thread _ k _, [l] => if (s.lane c k l).isReady && a.dest != .none then some (k, l) else none
  | _, _ => none
/-- The access as it misses again, and the state that holds it, for that lane. -/
def againAcc (c : Nat) (s : State) (a : Access) : Option (Nat × Nat) → Access
  | some (k, l) => { a with next := (s.lane c k l).pc }
  | none => a
def againPlaced (c : Nat) (s : State) (a : Access) (ea : W64) : State :=
  match placeAcc s c a (.miss ea) with
  | some (s', _) => s'
  | none => { s with accs := s.accs ++ [{ a with looked := true, ph := .queued }] }
theorem missAgain_eq (c : Nat) (s : State) (a : Access) : missAgain c s a =
    let t := againPlaced c { s with accs := s.accs.filter (fun x => x.id != a.id) } (againAcc c s a (againLane c s a)) a.ea
    match againLane c s a with
    | some (k, l) => t.updLane c k l (fun ln => { ln with st := .parked a.id })
    | none => t := rfl

theorem againPlaced_waits (c : Nat) (s : State) (a : Access) (ea : W64) : MissLeaves s (againPlaced c s a ea) ∧ WaitsAdded s (againPlaced c s a ea) a := by
  unfold againPlaced
  split
  · next h => exact placeAcc_miss_waits h
  · exact ⟨missLeaves_accs .., _, rfl, rfl, rfl, .inr (.inl rfl)⟩
theorem againAcc_same (c : Nat) (s : State) (a : Access) (r : Option (Nat × Nat)) : (againAcc c s a r).id = a.id ∧ (againAcc c s a r).ag = a.ag := by
  cases r <;> exact ⟨rfl, rfl⟩
/-- An access that misses again waits for its page; every other access stands. -/
theorem missAgain_leaves (c : Nat) (s : State) (a : Access) :
    MissLeaves s (missAgain c s a) ∧ WaitsAdded { s with accs := s.accs.filter (fun x => x.id != a.id) } (missAgain c s a) a := by
  obtain ⟨hleaves, A, haccs, hid, hag, hph⟩ := againPlaced_waits c { s with accs := s.accs.filter (fun x => x.id != a.id) }
    (againAcc c s a (againLane c s a)) a.ea
  obtain ⟨hid', hag'⟩ := againAcc_same c s a (againLane c s a)
  rw [missAgain_eq]
  dsimp only
  split
  · exact ⟨((missLeaves_accs ..).trans hleaves).trans (missLeaves_updCourse ..), A,
      (congrArg State.accs (onlyCourse_updCourse ..).package :).trans haccs, hid.trans hid', hag.trans hag', hph⟩
  · exact ⟨(missLeaves_accs ..).trans hleaves, A, haccs, hid.trans hid', hag.trans hag', hph⟩

/-! ## TLBI at the cores (R318) -/

theorem mem_insertAcc {a b : Access} {l : List Access} : b ∈ insertAcc a l ↔ b = a ∨ b ∈ l := by
  induction l with
  | nil => simp [insertAcc]
  | cons x l ih =>
    rw [insertAcc]
    split
    · simp
    · simp [ih, or_left_comm]
theorem mem_sortAccs {b : Access} {l : List Access} : b ∈ sortAccs l ↔ b ∈ l := by
  induction l with
  | nil => rfl
  | cons x l ih => rw [sortAccs, List.foldr_cons, mem_insertAcc, List.mem_cons, ← ih]; rfl

/-- Accesses with one number are one access. -/
def UniqueIds (l : List Access) : Prop := ∀ A ∈ l, ∀ B ∈ l, A.id = B.id → A = B
/-- An access of the list, with the number and the agent of a, waits for its page. -/
def WaitsIn (l : List Access) (a : Access) : Prop := ∃ A ∈ l, A.id = a.id ∧ A.ag = a.ag ∧ A.ph.Waits

theorem WaitsAdded.unique {s t : State} {a : Access} (h : WaitsAdded { s with accs := s.accs.filter (fun x => x.id != a.id) } t a)
    (hs : UniqueIds s.accs) : UniqueIds t.accs := by
  obtain ⟨A, haccs, hid, -, -⟩ := h
  have hmem : ∀ B ∈ t.accs, (B ∈ s.accs ∧ B.id ≠ a.id) ∨ B = A := fun B hB => by
    rw [haccs] at hB
    simpa using hB
  intro B hB C hC hBC
  rcases hmem B hB with ⟨hB, hBa⟩ | rfl <;> rcases hmem C hC with ⟨hC, hCa⟩ | rfl
  · exact hs B hB C hC hBC
  · exact absurd (hBC.trans hid) hBa
  · exact absurd (hBC.symm.trans hid) hCa
  · rfl
theorem WaitsAdded.mem {s t : State} {a B : Access} (h : WaitsAdded { s with accs := s.accs.filter (fun x => x.id != a.id) } t a)
    (hB : B ∈ s.accs) (hne : a.id ≠ B.id) : B ∈ t.accs := by
  obtain ⟨A, haccs, -⟩ := h
  rw [haccs]
  exact List.mem_append_left _ (List.mem_filter.2 ⟨hB, by simpa using hne.symm⟩)

/-- Accesses that miss again, one after another: each waits, and the others stand. -/
theorem missAgain_foldl (c : Nat) (as : List Access) (hag : ∀ a ∈ as, ∀ b ∈ as, a.id = b.id → a.ag = b.ag) (s : State) (hs : UniqueIds s.accs) :
    UniqueIds (as.foldl (missAgain c) s).accs ∧ (∀ a ∈ as, WaitsIn (as.foldl (missAgain c) s).accs a) ∧
      ∀ B ∈ s.accs, (∀ a ∈ as, a.id ≠ B.id) → B ∈ (as.foldl (missAgain c) s).accs := by
  induction as generalizing s with
  | nil => exact ⟨hs, fun a ha => absurd ha List.not_mem_nil, fun B hB _ => hB⟩
  | cons a as ih =>
    obtain ⟨-, hadd⟩ := missAgain_leaves c s a
    obtain ⟨hu, hwait, hstay⟩ := ih (fun b hb d hd => hag b (List.mem_cons_of_mem _ hb) d (List.mem_cons_of_mem _ hd)) (missAgain c s a) (hadd.unique hs)
    refine ⟨hu, fun b hb => ?_, fun B hB hne => hstay B (hadd.mem hB (hne a List.mem_cons_self)) fun b hb => hne b (List.mem_cons_of_mem _ hb)⟩
    rcases List.mem_cons.1 hb with rfl | hb
    · by_cases hagain : ∃ d ∈ as, d.id = b.id
      · obtain ⟨d, hd, hid⟩ := hagain
        obtain ⟨A, hA, hAid, hAag, hAph⟩ := hwait d hd
        exact ⟨A, hA, hAid.trans hid, hAag.trans (hag d (List.mem_cons_of_mem _ hd) b List.mem_cons_self hid), hAph⟩
      · obtain ⟨A, haccs, hAid, hAag, hAph⟩ := hadd
        exact ⟨A, hstay A (by rw [haccs]; simp) (fun d hd h => hagain ⟨d, hd, h.trans hAid⟩), hAid, hAag, hAph⟩
    · exact hwait b hb

/-- Accesses that TLBI makes miss again at core c. -/
def Remissed (s : State) (va z c : Nat) (A : Access) : Prop :=
  A.retried = true ∧ tlbCore? s A.ag = some c ∧ untranslated A.ag = false ∧ (∃ d, A.ph = .flight d ∧ isPeer d = false) ∧
    tlbiHits s c va z (z == 3) A.ea.toNat = true

/-- A core's TLBs after TLBI (R318). -/
def tlbiCleared (va z : Nat) (co : Core) : Core := if z == 3 then { co with tlb := [], qtlb := [] } else tlbClear va z co
theorem tlbiCleared_tlb (va z : Nat) (co : Core) : (tlbiCleared va z co).tlb = co.tlb.filter (fun y => decide (z ≠ 3) && !y.overlaps va z) := by
  unfold tlbiCleared
  by_cases hz : z = 3
  · simp [hz]
  · simp [hz, tlbClear]
theorem tlbiCleared_qtlb (va z : Nat) (co : Core) (p : Nat) : mget (tlbiCleared va z co).qtlb p [] =
    (mget co.qtlb p []).filter (fun y => decide (z ≠ 3) && !y.overlaps va z) := by
  unfold tlbiCleared
  by_cases hz : z = 3
  · simp [hz, mget]
  · rw [if_neg (by simpa using hz), mget, tlbClear, mget?_map, mget]
    cases mget? co.qtlb p <;> simp [hz]
theorem tlbiCleared_courses (va z : Nat) (co : Core) : (tlbiCleared va z co).courses = co.courses ∧ (tlbiCleared va z co).procs = co.procs := by
  unfold tlbiCleared tlbClear
  split <;> exact ⟨rfl, rfl⟩

/-- The accesses of a core that miss again, in their order; and its pages that are queued again (R318, R368). -/
def tlbiAgain (s : State) (va z c : Nat) : List Access :=
  sortAccs (s.accs.filter (fun a => a.retried && tlbCore? s a.ag == some c && !untranslated a.ag
    && (match a.ph with | .flight d => !isPeer d | _ => false) && tlbiHits s c va z (z == 3) a.ea.toNat))
def tlbiPages (s : State) (va z c : Nat) : List Nat :=
  ((s.accs.filter (fun a => a.ph == .sideLog && agentCore? a.ag == some c && ((z == 3) || inRange va z a.ea.toNat))).map
    (fun a => pageOf a.ea.toNat)).eraseDups
theorem tlbiCore_eq (va z : Nat) (s : State) (c : Nat) : tlbiCore va z (z == 3) s c =
    let t := (tlbiAgain s va z c).foldl (missAgain c) (s.updCore c (tlbiCleared va z))
    (tlbiPages t va z c).foldl (requeue c) t := rfl

theorem mem_tlbiAgain {s : State} {va z c : Nat} {A : Access} : A ∈ tlbiAgain s va z c ↔ A ∈ s.accs ∧ Remissed s va z c A := by
  rw [tlbiAgain, mem_sortAccs, List.mem_filter]
  refine and_congr_right fun _ => ?_
  have hph : (match A.ph with | .flight d => !isPeer d | _ => false) = true ↔ ∃ d, A.ph = .flight d ∧ isPeer d = false := by
    cases A.ph <;> simp
  simp only [Bool.and_eq_true, hph, Remissed, beq_iff_eq, Bool.not_eq_true', and_assoc]

theorem requeue_leaves (c : Nat) (s : State) (page : Nat) : Kept s (requeue c s page) ∧ MissLeaves s (requeue c s page) := by
  unfold requeue
  dsimp only
  split
  · exact ⟨Kept.refl s, MissLeaves.refl s⟩
  · split <;> exact ⟨kept_setCore s c _ rfl rfl, missLeaves_setCore s c _ rfl rfl rfl⟩
theorem requeue_foldl_leaves (c : Nat) (s : State) (l : List Nat) : Kept s (l.foldl (requeue c) s) ∧ MissLeaves s (l.foldl (requeue c) s) :=
  List.foldlRecOn (motive := fun t => Kept s t ∧ MissLeaves s t) l _ ⟨Kept.refl s, MissLeaves.refl s⟩ fun t ht x _ =>
    ⟨ht.1.trans (requeue_leaves c t x).1, ht.2.trans (requeue_leaves c t x).2⟩

theorem tlbiCore_missLeaves (va z : Nat) (s : State) (c : Nat) : MissLeaves (s.updCore c (tlbiCleared va z)) (tlbiCore va z (z == 3) s c) := by
  rw [tlbiCore_eq]
  exact (MissLeaves.foldl (fun s a => (missAgain_leaves c s a).1) _ _).trans (requeue_foldl_leaves ..).2
/-- TLBI at a core makes the accesses that it retried miss again, and leaves the others. -/
theorem tlbiCore_accs (va z : Nat) {s : State} (c : Nat) (hs : UniqueIds s.accs) : UniqueIds (tlbiCore va z (z == 3) s c).accs ∧
    ∀ A ∈ s.accs, (Remissed s va z c A → WaitsIn (tlbiCore va z (z == 3) s c).accs A) ∧
      (¬ Remissed s va z c A → A ∈ (tlbiCore va z (z == 3) s c).accs) := by
  obtain ⟨hu, hwait, hstay⟩ := missAgain_foldl c (tlbiAgain s va z c)
    (fun a ha b hb hab => by rw [hs a (mem_tlbiAgain.1 ha).1 b (mem_tlbiAgain.1 hb).1 hab]) (s.updCore c (tlbiCleared va z)) hs
  rw [tlbiCore_eq]
  dsimp only
  rw [(requeue_foldl_leaves ..).1.accs]
  refine ⟨hu, fun A hA => ⟨fun h => hwait A (mem_tlbiAgain.2 ⟨hA, h⟩), fun h => hstay A hA fun a ha hid => h ?_⟩⟩
  obtain ⟨ham, hre⟩ := mem_tlbiAgain.1 ha
  exact hs a ham A hA hid ▸ hre
/-- Where nothing retried is on its way, no access misses again. -/
theorem tlbiCore_kept (va z : Nat) {s : State} (c : Nat) (h : ∀ A ∈ s.accs, A.retried = true → ∀ d, A.ph ≠ .flight d) :
    Kept s (tlbiCore va z (z == 3) s c) := by
  have hnone : tlbiAgain s va z c = [] := List.eq_nil_iff_forall_not_mem.2 fun A hA => by
    obtain ⟨hA, hre, -, -, ⟨d, hd, -⟩, -⟩ := mem_tlbiAgain.1 hA
    exact h A hA hre d hd
  rw [tlbiCore_eq, hnone]
  exact (kept_updCore s c _ (fun x => (tlbiCleared_courses va z x).1) fun x => (tlbiCleared_courses va z x).2).trans (requeue_foldl_leaves ..).1

/-! ## TLBI over its cores (R318) -/

/-- What TLBI over cores leaves alone: the package, every TLB of another core, and the number of courses. -/
structure TlbiLeaves (s t : State) (va z : Nat) (cs : List Nat) : Prop extends MissPackage s t where
  course : ∀ c k, (t.course? c k).isSome = (s.course? c k).isSome
  cleared : ∀ e ∈ cs, (t.core e).tlb = (s.core e).tlb.filter (fun y => decide (z ≠ 3) && !y.overlaps va z) ∧
    ∀ p, mget (t.core e).qtlb p [] = (mget (s.core e).qtlb p []).filter (fun y => decide (z ≠ 3) && !y.overlaps va z)
  others : ∀ e, e ∉ cs → (t.core e).tlb = (s.core e).tlb ∧ (t.core e).qtlb = (s.core e).qtlb

theorem tlbiCore_leaves (va z : Nat) (s : State) (c : Nat) : TlbiLeaves s (tlbiCore va z (z == 3) s c) va z [c] := by
  have h := tlbiCore_missLeaves va z s c
  refine ⟨(missPackage_setCore ..).trans h.toMissPackage, fun d k => (h.course d k).trans ?_, fun e he => ?_, fun e he => ?_⟩
  · rw [(kept_updCore s c _ (fun x => (tlbiCleared_courses va z x).1) fun x => (tlbiCleared_courses va z x).2).course]
  · obtain rfl := List.mem_singleton.1 he
    rw [h.tlb, h.qtlb, State.core_updCore, if_pos rfl]
    exact ⟨tlbiCleared_tlb .., tlbiCleared_qtlb va z _⟩
  · rw [h.tlb, h.qtlb, State.core_updCore, if_neg (fun hc => he (List.mem_singleton.2 hc))]
    exact ⟨rfl, rfl⟩

theorem tlbiCores_leaves (va z : Nat) (cs : List Nat) (s : State) (hcs : cs.Nodup) : TlbiLeaves s (cs.foldl (tlbiCore va z (z == 3)) s) va z cs := by
  induction cs generalizing s with
  | nil => exact ⟨⟨rfl⟩, fun _ _ => rfl, fun e he => absurd he List.not_mem_nil, fun _ _ => ⟨rfl, rfl⟩⟩
  | cons c cs ih =>
    obtain ⟨hc, hcs⟩ := List.nodup_cons.1 hcs
    have h1 := tlbiCore_leaves va z s c
    have h2 := ih (tlbiCore va z (z == 3) s c) hcs
    rw [List.foldl_cons]
    refine ⟨h1.toMissPackage.trans h2.toMissPackage, fun d k => (h2.course d k).trans (h1.course d k), fun e he => ?_, fun e he => ?_⟩
    · by_cases hec : e = c
      · subst hec
        obtain ⟨ht, hq⟩ := h2.others e hc
        rw [ht, hq]
        exact h1.cleared e (List.mem_singleton_self e)
      · obtain ⟨ht, hq⟩ := h1.others e fun h => hec (List.mem_singleton.1 h)
        have := h2.cleared e ((List.mem_cons.1 he).resolve_left hec)
        rwa [ht, hq] at this
    · obtain ⟨hec, hecs⟩ : ¬ e = c ∧ e ∉ cs := by simpa using he
      obtain ⟨ht, hq⟩ := h1.others e fun h => hec (List.mem_singleton.1 h)
      obtain ⟨ht', hq'⟩ := h2.others e hecs
      exact ⟨ht'.trans ht, hq'.trans hq⟩

theorem remissed_congr {s t : State} {va z e : Nat} (hp : MissPackage s t) (ht : (t.core e).tlb = (s.core e).tlb) (hq : (t.core e).qtlb = (s.core e).qtlb)
    (A : Access) : Remissed t va z e A ↔ Remissed s va z e A := by
  have hhits : tlbiHits t e va z (z == 3) A.ea.toNat = tlbiHits s e va z (z == 3) A.ea.toNat := by rw [tlbiHits, tlbiHits, ht, hq]
  rw [Remissed, Remissed, hhits, hp.tlbCore?]
theorem not_remissed_of_waits {s : State} {va z e : Nat} {A : Access} (h : A.ph.Waits) : ¬ Remissed s va z e A := by
  rintro ⟨-, -, -, ⟨d, hd, -⟩, -⟩
  rw [hd] at h
  rcases h with h | h | h <;> cases h

/-- TLBI makes the accesses miss again that any of its cores has retried, and leaves the others. -/
theorem tlbiCores_accs (va z : Nat) (cs : List Nat) (s : State) (hcs : cs.Nodup) (hs : UniqueIds s.accs) :
    ∀ A ∈ s.accs, ((∃ e ∈ cs, Remissed s va z e A) → WaitsIn (cs.foldl (tlbiCore va z (z == 3)) s).accs A) ∧
      ((∀ e ∈ cs, ¬ Remissed s va z e A) → A ∈ (cs.foldl (tlbiCore va z (z == 3)) s).accs) := by
  induction cs generalizing s with
  | nil => exact fun A hA => ⟨fun ⟨e, he, _⟩ => absurd he List.not_mem_nil, fun _ => hA⟩
  | cons c cs ih =>
    obtain ⟨hc, hcs⟩ := List.nodup_cons.1 hcs
    have hleaves := tlbiCore_leaves va z s c
    obtain ⟨hu, hone⟩ := tlbiCore_accs va z c hs
    have hsame : ∀ e ∈ cs, ∀ A, Remissed (tlbiCore va z (z == 3) s c) va z e A ↔ Remissed s va z e A := fun e he A => by
      obtain ⟨ht, hq⟩ := hleaves.others e fun h => hc (List.mem_singleton.1 h ▸ he)
      exact remissed_congr hleaves.toMissPackage ht hq A
    have hrest := ih (tlbiCore va z (z == 3) s c) hcs hu
    rw [List.foldl_cons]
    refine fun A hA => ⟨fun ⟨e, he, hre⟩ => ?_, fun hno => ?_⟩
    · by_cases hcA : Remissed s va z c A
      · obtain ⟨B, hB, hid, hag, hph⟩ := (hone A hA).1 hcA
        exact ⟨B, (hrest B hB).2 fun e _ => not_remissed_of_waits hph, hid, hag, hph⟩
      · rcases List.mem_cons.1 he with rfl | he
        · exact absurd hre hcA
        · exact (hrest A ((hone A hA).2 hcA)).1 ⟨e, he, (hsame e he A).2 hre⟩
    · exact (hrest A ((hone A hA).2 (hno c List.mem_cons_self))).2 fun e he => mt (hsame e he A).1 (hno e (List.mem_cons_of_mem _ he))
theorem tlbiCores_kept (va z : Nat) (cs : List Nat) (s : State) (h : ∀ A ∈ s.accs, A.retried = true → ∀ d, A.ph ≠ .flight d) :
    Kept s (cs.foldl (tlbiCore va z (z == 3)) s) :=
  List.foldlRecOn (motive := fun t => Kept s t) cs _ (Kept.refl s) fun _ ht c _ => ht.trans (tlbiCore_kept va z c (ht.accs.symm ▸ h))

/-- The accesses that a TLBI waits for: on their way through a range or an entry that it takes from one of its cores. -/
def Through (s : State) (va z : Nat) (cs : List Nat) (A : Access) : Prop :=
  untranslated A.ag = false ∧ (∃ d, A.ph = .flight d ∧ isPeer d = false) ∧
    ∃ e ∈ cs, tlbCore? s A.ag = some e ∧ tlbiHits s e va z (z == 3) A.ea.toNat = true
theorem through_iff_remissed {s : State} {va z : Nat} {cs : List Nat} {A : Access} (h : A.retried = true) :
    Through s va z cs A ↔ ∃ e ∈ cs, Remissed s va z e A := by
  constructor
  · rintro ⟨hu, hd, e, he, hc, hh⟩
    exact ⟨e, he, h, hc, hu, hd, hh⟩
  · rintro ⟨e, he, -, hc, hu, hd, hh⟩
    exact ⟨hu, hd, e, he, hc, hh⟩
theorem mem_tlbiAccs {s : State} {va z : Nat} {cs : List Nat} {i : Nat} : i ∈ tlbiAccs s cs va z (z == 3) ↔
    ∃ A ∈ s.accs, Through s va z cs A ∧ A.id = i := by
  rw [tlbiAccs, List.mem_map]
  refine exists_congr fun A => ?_
  rw [List.mem_filter, and_assoc]
  refine and_congr_right fun _ => and_congr_left fun _ => ?_
  have hph : (match A.ph with | .flight d => !isPeer d | _ => false) = true ↔ ∃ d, A.ph = .flight d ∧ isPeer d = false := by
    cases A.ph <;> simp
  have hcore : (match tlbCore? s A.ag with | some c => cs.contains c && tlbiHits s c va z (z == 3) A.ea.toNat | none => false) = true ↔
      ∃ e ∈ cs, tlbCore? s A.ag = some e ∧ tlbiHits s e va z (z == 3) A.ea.toNat = true := by
    cases tlbCore? s A.ag <;> simp
  rw [Bool.and_eq_true, Bool.and_eq_true, Bool.not_eq_true']
  refine (and_congr (and_congr hcore Iff.rfl) hph).trans ?_
  unfold Through
  tauto

/-- What TLBI's lanes wait for: of the accesses that are not retried, those through the range. -/
theorem mem_tlbi_pend {s : State} {as : List Access} {va z : Nat} {cs : List Nat} (hs : UniqueIds s.accs) {A : Access} (hA : A ∈ s.accs) (ht : A ∈ as) :
    A.id ∈ (tlbiAccs s cs va z (z == 3)).filter (fun id => as.any (fun a => a.id == id && !a.ph.cancels)) ↔ Through s va z cs A := by
  rw [List.mem_filter, mem_tlbiAccs]
  constructor
  · rintro ⟨⟨B, hB, hthr, hid⟩, -⟩
    exact hs B hB A hA hid ▸ hthr
  · intro hthr
    refine ⟨⟨A, hA, hthr, rfl⟩, List.any_eq_true.2 ⟨A, ht, ?_⟩⟩
    obtain ⟨-, ⟨d, hd, -⟩, -⟩ := hthr
    simp [hd, Phase.cancels]

/-- Lanes that wait for accesses, at the end of an issue. -/
theorem pendIssue_waits {s : State} {iss : Issue} {c k : Nat} {x : Course} (hw : iss.who = .course c k) (hx : s.course? c k = some x)
    (kind : PendKind) (ids : List Nat) : OnlyCourse s (pendIssue s iss kind ids 0 0) c k ∧ IssueWaits s iss x (pendIssue s iss kind ids 0 0) c k kind ∧
      ∀ l ∈ iss.mask, l < 8 → ((pendIssue s iss kind ids 0 0).lane c k l).st = .pend { kind := kind, accs := ids, frame := 0, d := 0, next := iss.next } := by
  unfold pendIssue
  obtain ⟨honly, hy⟩ := endIssue_course (iss := iss) hw hx true
    (fun _ ln => { ln with st := .pend { kind := kind, accs := ids, frame := 0, d := 0, next := iss.next } }) iss.next
  have hafter := courseAfter_endCourse s iss true
    (fun _ ln => { ln with st := .pend { kind := kind, accs := ids, frame := 0, d := 0, next := iss.next } }) x
  have hst : ∀ l ∈ iss.mask, l < 8 → ((endCourse s.t iss true
      (fun _ ln => { ln with st := .pend { kind := kind, accs := ids, frame := 0, d := 0, next := iss.next } }) x).lane l).st =
        .pend { kind := kind, accs := ids, frame := 0, d := 0, next := iss.next } := fun l hl h8 => by
    rw [hafter.lane l h8, laneAfter, if_pos hl]
  refine ⟨honly, ⟨_, hy, hafter.congr fun l h8 hl => ?_, fun l hl h8 => ⟨_, hst l hl h8, rfl, rfl⟩⟩, fun l hl h8 => ?_⟩
  · rw [hst l hl h8]
  · rw [lane_of_course hy]
    exact hst l hl h8

theorem tlbiHits_iff (s : State) (e va z a : Nat) : tlbiHits s e va z (z == 3) a = true ↔ z = 3 ∨ a / 2 ^ zBits z = va / 2 ^ zBits z ∨
    ∃ y, (y ∈ (s.core e).tlb ∨ ∃ Q ∈ (s.core e).qtlb, y ∈ Q.2) ∧ y.overlaps va z = true ∧ y.covers a = true := by
  simp only [tlbiHits, inRange, Bool.or_eq_true, beq_iff_eq, List.any_eq_true, List.mem_filter, List.mem_append, List.mem_flatMap, or_assoc, and_assoc]

/-- TLBI's course waits, over the state that its cores have left. -/
theorem execTlbi_runs {q : Guard} {a b : Reg} {s : State} {iss : Issue} {c k : Nat} {x : Course} (h : CourseIssues s iss c k x)
    (hq : x.u.rq q = true) (hp : x.prv = true) (hb : (x.u.rs b.toNat).toNat < 2) {z va : Nat} {cs : List Nat} (hz : (x.u.rs a.toNat).toNat % 4 = z)
    (hva : (x.u.rs a.toNat).toNat - z = va) (hcs : (if x.u.rs b.toNat = 1 then s.coresOf (s.bayOf c) else [c]) = cs) :
    exec (.tlbi q a b) s = .next (pendIssue (cs.foldl (tlbiCore va z (z == 3)) s) iss .tlbi
      ((tlbiAccs s cs va z (z == 3)).filter (fun id => (cs.foldl (tlbiCore va z (z == 3)) s).accs.any (fun a => a.id == id && !a.ph.cancels))) 0 0) := by
  subst hz hva hcs
  have hbit : (x.u.rs b.toNat).getLsbD 0 = true ↔ x.u.rs b.toNat = 1 := by
    rw [BitVec.getLsbD, Nat.testBit_zero, decide_eq_true_eq]
    constructor
    · intro h1
      apply BitVec.eq_of_toNat_eq
      change _ = 1
      omega
    · intro h1
      rw [h1]
      rfl
  have hcs : (if (x.u.rs b.toNat).getLsbD 0 then s.coresOf (s.bayOf c) else [c]) = if x.u.rs b.toNat = 1 then s.coresOf (s.bayOf c) else [c] := by
    simp only [hbit]
  change execTlbi q a b s = _
  rw [execTlbi, pword_course h, if_pos hq, if_pos hp, uniOf_course h]
  dsimp only
  rw [if_neg (by omega), hcs]

/-- A course rewritten leaves the TLBs of every core. -/
theorem OnlyCourse.tlbs {s t : State} {c k : Nat} (h : OnlyCourse s t c k) (e : Nat) : (t.core e).tlb = (s.core e).tlb ∧ (t.core e).qtlb = (s.core e).qtlb := by
  by_cases he : e = c
  · subst he
    exact ⟨(congrArg Core.tlb h.core :), (congrArg Core.qtlb h.core :)⟩
  · rw [h.cores e he]
    exact ⟨rfl, rfl⟩
theorem IssueWaits.of_time {s t u : State} {iss : Issue} {x : Course} {c k : Nat} {kind : PendKind} (h : IssueWaits t iss x u c k kind) (ht : t.t = s.t) :
    IssueWaits s iss x u c k kind := by
  obtain ⟨y, hy, hafter, hst⟩ := h
  exact ⟨y, hy, hafter.of_time ht, hst⟩

/-! ## TLBW where nothing waits for the page (R317, R366) -/

theorem retryAccs_nil (s : State) : retryAccs s [] = s := rfl

/-- With no entry of the core in the side log, a replay has nothing to do. -/
theorem replayLog_quiet {s : State} {c va z : Nat} {leaf : W64} (h : ∀ A ∈ s.accs, A.ph = .sideLog → agentCore? A.ag ≠ some c) :
    replayLog s c va z leaf = s := by
  have hnone : s.accs.filter (fun a => a.ph == .sideLog && agentCore? a.ag == some c && inRange va z a.ea.toNat) = [] :=
    List.filter_eq_nil_iff.2 fun A hA hcond => by
      simp only [Bool.and_eq_true, beq_iff_eq] at hcond
      exact h A hA hcond.1.1 hcond.1.2
  unfold replayLog
  rw [hnone]
  simp [noteWaiting]

theorem tlbCore?_of_agentCore? {s : State} {ag : Agent} {c : Nat} (h : agentCore? ag = some c) : tlbCore? s ag = some c := by
  cases ag <;> simp_all [agentCore?, tlbCore?, accCore?]

theorem Core.refilled_eq {co : Core} (h : co.heldPages = []) (n : Nat) (f : W64 → Miss) :
    { co with mq := co.mq ++ (co.heldPages.take n).map f, heldPages := co.heldPages.drop n } = co := by
  simp only [h, List.take_nil, List.map_nil, List.append_nil, List.drop_nil]
  exact h ▸ rfl
/-- Where no page is held and no access of the core is queued, the queue stands. -/
theorem refillQueue_quiet {s : State} {c : Nat} (hheld : (s.core c).heldPages = []) (h : ∀ A ∈ s.accs, A.ph = .queued → tlbCore? s A.ag ≠ some c) :
    refillQueue s c = s.setCore c (s.core c) := by
  unfold refillQueue
  dsimp only
  rw [Core.refilled_eq hheld, List.filter_eq_nil_iff.2 fun A hA hcond => ?_]
  · rfl
  · simp only [Bool.and_eq_true, beq_iff_eq] at hcond
    exact h A hA hcond.1.1 hcond.1.2
theorem setCore_self (s : State) (c : Nat) : Kept s (s.setCore c (s.core c)) ∧ ∀ e, (s.setCore c (s.core c)).core e = s.core e := by
  refine ⟨kept_setCore s c _ rfl rfl, fun e => ?_⟩
  rw [State.core_setCore]
  split
  · next h => rw [h]
  · rfl

/-- The entries of the miss queue that a TLBW of the range frees are gone. -/
def mqFreed (va z : Nat) (co : Core) : Core := { co with mq := co.mq.filter (fun m => !(m.service && inRange va z m.va.toNat)) }
/-- The accesses merged into the entries in service of a range. -/
def missedIn (s : State) (c va z : Nat) : List Access :=
  s.accs.filter (fun a => a.ph == .missed && tlbCore? s a.ag == some c &&
    (((s.core c).mq.filter (fun m => m.service && inRange va z m.va.toNat)).map (fun m => pageOf m.va.toNat)).contains (pageOf a.ea.toNat))
theorem mem_missedIn {s : State} {c va z : Nat} {A : Access} : A ∈ missedIn s c va z ↔ A ∈ s.accs ∧ A.ph = .missed ∧ tlbCore? s A.ag = some c ∧
    ∃ m ∈ (s.core c).mq, m.service = true ∧ m.va.toNat / 2 ^ zBits z = va / 2 ^ zBits z ∧ m.va.toNat / 65536 = A.ea.toNat / 65536 := by
  simp only [missedIn, List.mem_filter, Bool.and_eq_true, beq_iff_eq, List.contains_iff_mem, List.mem_map, inRange, pageOf, and_assoc]
theorem retryMissed_eq (s : State) (c va z : Nat) : retryMissed s c va z = retryAccs (s.updCore c (mqFreed va z)) (missedIn s c va z) := rfl
theorem retryMissed_quiet {s : State} {c va z : Nat} (h : ∀ A ∈ s.accs, A.ph = .missed → tlbCore? s A.ag ≠ some c) :
    retryMissed s c va z = s.updCore c (mqFreed va z) := by
  have hnone : missedIn s c va z = [] := List.eq_nil_iff_forall_not_mem.2 fun A hA => by
    obtain ⟨hA, hph, hc, -⟩ := mem_missedIn.1 hA
    exact h A hA hph hc
  rw [retryMissed_eq, hnone]
  exact retryAccs_nil _

theorem installs_iff (z : Nat) (leaf : W64) : installs z leaf = true ↔ tlbwMaps z leaf := by
  simp [installs, tlbwMaps, and_assoc]

/-- A core's TLBs with the entry of a TLBW in place of what it overlaps. -/
def tlbwInstalled (va z : Nat) (leaf : W64) (choice : Nat) (co : Core) : Core :=
  { tlbClear va z co with tlb := tlbPut 2048 choice { va := BitVec.ofNat 64 va, z := z, leaf := leaf } (tlbClear va z co).tlb }
/-- The same for a leaf that installs nothing, while the retried accesses meet it. -/
def tlbwMet (va z : Nat) (leaf : W64) (co : Core) : Core :=
  { tlbClear va z co with tlb := { va := BitVec.ofNat 64 va, z := z, leaf := leaf } :: (tlbClear va z co).tlb }
theorem tlbwStep_installs {s : State} {c va z : Nat} {leaf : W64} (h : installs z leaf = true) : tlbwStep s c va z leaf =
    refillQueue (retryMissed (replayLog (s.updCore c (tlbwInstalled va z leaf (Config.freeChoice s.free))).bumpFree c va z leaf) c va z) c := by
  rw [tlbwStep]
  exact if_pos h
theorem tlbwStep_maps_none {s : State} {c va z : Nat} {leaf : W64} (h : ¬ installs z leaf = true) : tlbwStep s c va z leaf =
    refillQueue ((retryMissed (replayLog (s.updCore c (tlbwMet va z leaf)) c va z leaf) c va z).updCore c
      (fun co => { co with tlb := (s.core c).tlb, qtlb := (s.core c).qtlb })) c := by
  rw [tlbwStep]
  exact if_neg h

theorem mem_tlbPut {n choice : Nat} {y : TlbE} {l : List TlbE} (h : y ∈ (if l.length < n then l else l.eraseIdx (choice % n))) : y ∈ l := by
  split at h
  · exact h
  · exact List.mem_of_mem_eraseIdx h
theorem tlbwInstalled_tlb (va z : Nat) (leaf : W64) (choice : Nat) (co : Core) :
    ∃ rest, (tlbwInstalled va z leaf choice co).tlb = { va := BitVec.ofNat 64 va, z := z, leaf := leaf } :: rest ∧
      ∀ e ∈ rest, e ∈ co.tlb ∧ e.overlaps va z = false :=
  ⟨_, rfl, fun _ he => by simpa [tlbClear] using mem_tlbPut he⟩
theorem tlbClear_qtlb (va z : Nat) (co : Core) (p : Nat) : ∀ e ∈ mget (tlbClear va z co).qtlb p [], e.overlaps va z = false := by
  intro e he
  rw [mget, tlbClear, mget?_map] at he
  cases hq : mget? co.qtlb p with
  | none => simp [hq] at he
  | some l =>
    rw [hq] at he
    simpa using (List.mem_filter.1 he).2

/-- What a TLBW leaves where no access waits for its page. -/
structure TlbwQuiet (s t : State) (c va z : Nat) (leaf : W64) : Prop extends Kept s t where
  others : ∀ e, e ≠ c → t.core e = s.core e
  mq : (t.core c).mq = (s.core c).mq.filter (fun m => !(m.service && inRange va z m.va.toNat))
  maps : installs z leaf = true → (∃ rest, (t.core c).tlb = { va := BitVec.ofNat 64 va, z := z, leaf := leaf } :: rest ∧
    ∀ e ∈ rest, e ∈ (s.core c).tlb ∧ e.overlaps va z = false) ∧ ∀ p, ∀ e ∈ mget (t.core c).qtlb p [], e.overlaps va z = false
  none : ¬ installs z leaf = true → (t.core c).tlb = (s.core c).tlb ∧ (t.core c).qtlb = (s.core c).qtlb

theorem tlbwStep_quiet {s : State} {c va z : Nat} {leaf : W64} (hwait : ∀ A ∈ s.accs, ¬ waitsPage s c A) (hheld : (s.core c).heldPages = []) :
    TlbwQuiet s (tlbwStep s c va z leaf) c va z leaf := by
  have hlog : ∀ A ∈ s.accs, A.ph = .sideLog → agentCore? A.ag ≠ some c := fun A hA hph hc =>
    hwait A hA ⟨tlbCore?_of_agentCore? hc, .inr (.inl hph)⟩
  have hmiss : ∀ A ∈ s.accs, A.ph = .missed → tlbCore? s A.ag ≠ some c := fun A hA hph hc => hwait A hA ⟨hc, .inl hph⟩
  have hqueue : ∀ A ∈ s.accs, A.ph = .queued → tlbCore? s A.ag ≠ some c := fun A hA hph hc => hwait A hA ⟨hc, .inr (.inr hph)⟩
  by_cases hinst : installs z leaf = true
  · obtain ⟨rest, htlb, hrest⟩ := tlbwInstalled_tlb va z leaf (Config.freeChoice s.free) (s.core c)
    rw [tlbwStep_installs hinst]
    set u := (s.updCore c (tlbwInstalled va z leaf (Config.freeChoice s.free))).bumpFree
    have hu : ∀ e, (u.updCore c (mqFreed va z)).core e =
        if e = c then mqFreed va z (tlbwInstalled va z leaf (Config.freeChoice s.free) (s.core e)) else s.core e := fun e => by
      have : u.core e = if e = c then tlbwInstalled va z leaf (Config.freeChoice s.free) (s.core e) else s.core e := State.core_updCore s c e _
      rw [State.core_updCore, this]
      split <;> rfl
    have hkept : Kept s (u.updCore c (mqFreed va z)) :=
      ((kept_updCore s c (tlbwInstalled va z leaf (Config.freeChoice s.free)) (fun _ => rfl) (fun _ => rfl)).trans (kept_bumpFree _)).trans
        (kept_updCore u c _ (fun _ => rfl) (fun _ => rfl))
    rw [replayLog_quiet (s := u) hlog, retryMissed_quiet (s := u) hmiss,
      refillQueue_quiet (s := u.updCore c (mqFreed va z)) (by rw [hu, if_pos rfl]; exact hheld) hqueue]
    obtain ⟨hself, hcore⟩ := setCore_self (u.updCore c (mqFreed va z)) c
    have hc := (hcore c).trans ((hu c).trans (if_pos rfl))
    refine ⟨hkept.trans hself, fun e he => (hcore e).trans ((hu e).trans (if_neg he)), congrArg Core.mq hc,
      fun _ => ⟨⟨rest, (congrArg Core.tlb hc).trans htlb, hrest⟩, fun p => ?_⟩, fun h => absurd hinst h⟩
    rw [hc]
    exact tlbClear_qtlb va z (s.core c) p
  · rw [tlbwStep_maps_none hinst]
    set u := s.updCore c (tlbwMet va z leaf)
    set v := (u.updCore c (mqFreed va z)).updCore c (fun co => { co with tlb := (s.core c).tlb, qtlb := (s.core c).qtlb }) with hv
    have hvc : ∀ e, v.core e = if e = c then { s.core e with mq := (mqFreed va z (s.core e)).mq } else s.core e := fun e => by
      rw [hv, State.core_updCore, State.core_updCore, State.core_updCore]
      split
      · next h => rw [h]; rfl
      · rfl
    have hkept : Kept s v := ((kept_updCore s c (tlbwMet va z leaf) (fun _ => rfl) (fun _ => rfl)).trans
      (kept_updCore u c (mqFreed va z) (fun _ => rfl) (fun _ => rfl))).trans
      (kept_updCore _ c (fun co => { co with tlb := (s.core c).tlb, qtlb := (s.core c).qtlb }) (fun _ => rfl) (fun _ => rfl))
    rw [replayLog_quiet (s := u) hlog, retryMissed_quiet (s := u) hmiss,
      refillQueue_quiet (s := v) (by rw [hvc, if_pos rfl]; exact hheld) hqueue]
    obtain ⟨hself, hcore⟩ := setCore_self v c
    have hc := (hcore c).trans ((hvc c).trans (if_pos rfl))
    exact ⟨hkept.trans hself, fun e he => (hcore e).trans ((hvc e).trans (if_neg he)), congrArg Core.mq hc, fun h => absurd h hinst,
      fun _ => ⟨(congrArg Core.tlb hc :), (congrArg Core.qtlb hc :)⟩⟩

/-! ## TLBW for a load that waits for the page (R91, R317) -/

theorem zBits_ge (z : Nat) : 16 ≤ zBits z := by
  unfold zBits
  split
  · decide
  · split <;> decide

/-- Addresses of one page are of one range. -/
theorem inRange_of_page {a b z : Nat} (h : a / 65536 = b / 65536) : a / 2 ^ zBits z = b / 2 ^ zBits z := by
  obtain ⟨n, hn⟩ := Nat.exists_eq_add_of_le (zBits_ge z)
  rw [hn, Nat.pow_add, show (2 : Nat) ^ 16 = 65536 from rfl, ← Nat.div_div_eq_div_mul, ← Nat.div_div_eq_div_mul, h]

/-- An entry that maps an address of a range overlaps it. -/
theorem TlbE.overlaps_of_covers {e : TlbE} {a va z : Nat} (hc : e.covers a = true) (h : a / 2 ^ zBits z = va / 2 ^ zBits z) : e.overlaps va z = true := by
  have hc : e.va.toNat / 2 ^ zBits e.z = a / 2 ^ zBits e.z := by simpa [TlbE.covers] using hc
  have hup : ∀ {n m i j : Nat}, n ≤ m → i / 2 ^ n = j / 2 ^ n → i / 2 ^ m = j / 2 ^ m := fun {n m i j} hnm hij => by
    obtain ⟨d, rfl⟩ := Nat.exists_eq_add_of_le hnm
    rw [Nat.pow_add, ← Nat.div_div_eq_div_mul, ← Nat.div_div_eq_div_mul, hij]
  rw [TlbE.overlaps, beq_iff_eq]
  exact (hup (Nat.le_max_left ..) hc).trans (hup (Nat.le_max_right ..) h)

/-- t is s but for the cores, the accesses in flight and the count of free values. -/
structure RetryPackage (s t : State) : Prop where
  package : { t with cores := s.cores, accs := s.accs, free := s.free } = s
theorem RetryPackage.trans {s t u : State} (h : RetryPackage s t) (h' : RetryPackage t u) : RetryPackage s u where
  package := by
    calc { u with cores := s.cores, accs := s.accs, free := s.free }
        = { ({ u with cores := t.cores, accs := t.accs, free := t.free } : State) with cores := s.cores, accs := s.accs, free := s.free } := rfl
      _ = s := by rw [h'.package, h.package]
theorem retryPackage_setCore (s : State) (c : Nat) (x : Core) : RetryPackage s (s.setCore c x) := ⟨rfl⟩
theorem RetryPackage.leafCheck {s t : State} (h : RetryPackage s t) (z : Nat) (leaf : W64) (va : Nat) (k : AccKind) (prv : Bool) :
    leafCheck t z leaf va k prv = Sys2Proof.Machine.leafCheck s z leaf va k prv :=
  (congrArg (fun u => Sys2Proof.Machine.leafCheck u z leaf va k prv) h.package :)
theorem RetryPackage.memory {s t : State} (h : RetryPackage s t) : SameMemory s t :=
  SameMemory.ofEq (congrArg State.mem h.package :) (congrArg State.undef h.package :) (congrArg State.hist h.package :)

/-- A load that waits for its page, where the TLB's entry e now maps it. -/
structure WaitingLoad (s : State) (c slot l : Nat) (e : TlbE) (pa : Nat) (A : Access) : Prop where
  ag : A.ag = .thread c slot l
  off : slot ≠ 511
  kind : A.kind = .load
  dest : A.dest ≠ .again
  looked : A.looked = true
  covers : e.covers A.ea.toNat = true
  leaf : leafCheck s e.z e.leaf A.ea.toNat .load A.prv = .ok pa

/-- The lane of a retried load waits as it did, or has gone on. -/
def LaneGoing (s t : State) (c slot l : Nat) (A : Access) : Prop :=
  l < 8 → l ∈ A.lanes → (s.lane c slot l).st = .parked A.id → A.issv = false →
    (t.lane c slot l).st = .parked A.id ∨ ((t.lane c slot l).st = .ready ∧ (t.lane c slot l).pc = A.next)
/-- What stands while a load is retried: the package, the entry that the look-up finds, the queue, the other courses and the other accesses. -/
structure RetryKeeps (s t : State) (c slot l : Nat) (e : TlbE) (A : Access) : Prop extends RetryPackage s t where
  found : ∃ fill, tlbFind t c (some (slot / 128)) A.ea.toNat = some (e, fill)
  course : ∀ j, j ≠ slot → t.course? c j = s.course? c j
  mq : (t.core c).mq = (s.core c).mq
  held : (t.core c).heldPages = (s.core c).heldPages
  others : ∀ B, B.id ≠ A.id → (B ∈ t.accs ↔ B ∈ s.accs)
  lane : LaneGoing s t c slot l A
/-- The load is on its way, and its lane goes on. -/
structure LoadRetried (s t : State) (c slot l : Nat) (pa : Nat) (A : Access) : Prop where
  placed : ∃ B ∈ t.accs, B.id = A.id ∧ B.ag = A.ag ∧ B.ph = .flight pa ∧ B.retried = true
  flights : ∀ B ∈ t.accs, B.id = A.id → B.ph = .flight pa
  lane : l < 8 → l ∈ A.lanes → (s.lane c slot l).st = .parked A.id → A.issv = false → (t.lane c slot l).st = .ready ∧ (t.lane c slot l).pc = A.next

theorem tlbFind_congr {s t : State} {c : Nat} (h1 : (t.core c).tlb = (s.core c).tlb) (h2 : (t.core c).qtlb = (s.core c).qtlb) (q : Option Nat) (va : Nat) :
    tlbFind t c q va = tlbFind s c q va := by
  unfold tlbFind
  dsimp only
  rw [h1, h2]
theorem core_tlbRefill (s : State) (c q d : Nat) (e : TlbE) : (tlbRefill s c q e).core d =
    if d = c then { s.core d with qtlb := mset (s.core d).qtlb q (tlbPut 64 (Config.freeChoice s.free) e (mget (s.core d).qtlb q [])) } else s.core d :=
  State.core_updCore s c d (fun co => { co with qtlb := mset co.qtlb q (tlbPut 64 (Config.freeChoice s.free) e (mget co.qtlb q [])) })
theorem tlbFind_refilled (s : State) {c q va : Nat} {e : TlbE} (h : e.covers va = true) : tlbFind (tlbRefill s c q e) c (some q) va = some (e, false) := by
  unfold tlbFind
  dsimp only
  rw [core_tlbRefill, if_pos rfl]
  simp [tlbPut, h]

/-- The state with the TLB refilled, where the look-up asks for it. -/
def refilled (s : State) (c q : Nat) (e : TlbE) (fill : Bool) : State := if fill then tlbRefill s c q e else s
/-- The refilled state keeps all that a retry keeps. -/
structure RefillKeeps (s t : State) (c slot : Nat) (e : TlbE) (A : Access) : Prop extends RetryPackage s t where
  found : ∃ fill, tlbFind t c (some (slot / 128)) A.ea.toNat = some (e, fill)
  course : ∀ j, t.course? c j = s.course? c j
  mq : (t.core c).mq = (s.core c).mq
  held : (t.core c).heldPages = (s.core c).heldPages
theorem refillKeeps_refilled {s : State} {c slot : Nat} {e : TlbE} {A : Access} {fill : Bool} (hcov : e.covers A.ea.toNat = true)
    (hfind : tlbFind s c (some (slot / 128)) A.ea.toNat = some (e, fill)) : RefillKeeps s (refilled s c (slot / 128) e fill) c slot e A := by
  cases fill with
  | false => exact ⟨⟨rfl⟩, ⟨_, hfind⟩, fun _ => rfl, rfl, rfl⟩
  | true =>
    refine ⟨⟨rfl⟩, ⟨_, tlbFind_refilled s hcov⟩, fun j => (kept_tlbRefill ..).course c j, ?_, ?_⟩
    · exact (congrArg Core.mq (core_tlbRefill s c (slot / 128) c e) :).trans (by rw [if_pos rfl])
    · exact (congrArg Core.heldPages (core_tlbRefill s c (slot / 128) c e) :).trans (by rw [if_pos rfl])
theorem placeAcc_go_load {s : State} {c q : Nat} {a : Access} (hk : a.kind = .load) (hq : quarter? a.ag = some q) (ea : W64) (dst : Nat) (e : TlbE)
    (fill : Bool) : ∃ B, B.id = a.id ∧ B.ag = a.ag ∧ B.ph = .flight dst ∧ B.retried = a.retried ∧
      placeAcc s c a (.go ea dst (if fill then some e else none)) =
        some ({ refilled s c q e fill with accs := s.accs ++ [B] }, false) := by
  refine ⟨{ a with ea := ea, data := storeData s c a, nosc := !isPeer dst && noscOf (refilled s c q e fill) c a.ag ea, ph := .flight dst,
                   t0 := (refilled s c q e fill).coreT c }, rfl, rfl, rfl, rfl, ?_⟩
  have hw : (a.kind.isWrite && a.ridge.isNone) = false := by rw [hk]; rfl
  cases fill <;> simp only [placeAcc, hw, hq] <;> rfl

/-- A retried access that is placed without a wait: its lanes go on. -/
theorem retryOne_placed {s t : State} {c dst : Nat} {A : Access} {ea : W64} {r : Option TlbE} (hc : tlbCore? s A.ag = some c) (hk : A.kind ≠ .fetch)
    (hprobe : probeOf s c { A with retried := true, stuck := false } = .go ea dst r)
    (hplace : placeAcc { s with accs := s.accs.filter (fun x => x.id != A.id) } c { A with retried := true, stuck := false } (.go ea dst r) =
      some (t, false)) : retryOne s A = (unpark t { A with retried := true, stuck := false }, none) := by
  unfold retryOne
  dsimp only
  rw [hc]
  dsimp only
  rw [hprobe]
  dsimp only
  rw [if_neg hk, hplace]

/-- A retried load goes to its place. -/
theorem retryOne_load {s : State} {c slot l pa : Nat} {e : TlbE} {A : Access} {fill : Bool} (h : WaitingLoad s c slot l e pa A)
    (hfind : tlbFind s c (some (slot / 128)) A.ea.toNat = some (e, fill)) :
    ∃ B, B.id = A.id ∧ B.ag = A.ag ∧ B.ph = .flight pa ∧ B.retried = true ∧ retryOne s A =
      (unpark { refilled { s with accs := s.accs.filter (fun x => x.id != A.id) } c (slot / 128) e fill with
        accs := s.accs.filter (fun x => x.id != A.id) ++ [B] } { A with retried := true, stuck := false }, none) := by
  have htlb : tlbCore? s A.ag = some c := by rw [h.ag]; rfl
  have hq : quarter? A.ag = some (slot / 128) := by rw [h.ag]; rfl
  have hprobe : probeOf s c { A with retried := true, stuck := false } = .go A.ea pa (if fill then some e else none) := by
    have hun : untranslated A.ag = false := by rw [h.ag]; simpa [untranslated] using h.off
    simp only [probeOf, h.looked, if_true, probeTail, hun, hq, hfind, h.kind, h.leaf, Bool.false_eq_true, if_false]
  obtain ⟨B, hid, hag, hph, hre, hplace⟩ := placeAcc_go_load (s := { s with accs := s.accs.filter (fun x => x.id != A.id) }) (c := c)
    (a := { A with retried := true, stuck := false }) h.kind hq A.ea pa e fill
  exact ⟨B, hid, hag, hph, hre, retryOne_placed htlb (by rw [h.kind]; decide) hprobe hplace⟩

/-- The lanes that wait for a load go on. -/
theorem unpark_lane {s : State} {a : Access} {c k n l : Nat} (hag : a.ag = .thread c k n) (hl : l < 8) (hmem : l ∈ a.lanes) (hkind : a.kind = .load)
    (hdest : a.dest ≠ .again) (hissv : a.issv = false) : (unpark s a).lane c k l =
      if (s.lane c k l).st = .parked a.id then { s.lane c k l with st := .ready, pc := a.next } else s.lane c k l := by
  unfold unpark
  rw [hag]
  refine (State.lane_updCourse_mapLanes s c k k hl (by simp)).trans ?_
  rw [if_pos rfl]
  simp [hmem, hkind, hdest, hissv]

theorem retryOne_keeps {s u : State} {c slot l pa : Nat} {e : TlbE} {A : Access} (h : WaitingLoad s c slot l e pa A) (hu : RetryKeeps s u c slot l e A) :
    RetryKeeps s (retryOne u A).1 c slot l e A ∧ LoadRetried s (retryOne u A).1 c slot l pa A ∧ (retryOne u A).2 = none := by
  obtain ⟨fill, hfind⟩ := hu.found
  have hload : WaitingLoad u c slot l e pa A :=
    ⟨h.ag, h.off, h.kind, h.dest, h.looked, h.covers, (hu.toRetryPackage.leafCheck ..).trans h.leaf⟩
  obtain ⟨B, hid, hag, hph, hre, hrun⟩ := retryOne_load hload hfind
  have hfill := refillKeeps_refilled (s := { u with accs := u.accs.filter (fun x => x.id != A.id) }) h.covers (show tlbFind _ c _ _ = some (e, fill) from hfind)
  set w : State := { refilled { u with accs := u.accs.filter (fun x => x.id != A.id) } c (slot / 128) e fill with
    accs := u.accs.filter (fun x => x.id != A.id) ++ [B] }
  have honly : OnlyCourse w (unpark w { A with retried := true, stuck := false }) c slot := by
    unfold unpark
    rw [show ({ A with retried := true, stuck := false } : Access).ag = .thread c slot l from h.ag]
    exact onlyCourse_updCourse ..
  have hmem : ∀ C, C ∈ (unpark w { A with retried := true, stuck := false }).accs ↔ (C ∈ u.accs ∧ C.id ≠ A.id) ∨ C = B := fun C => by
    rw [honly.accs]
    simp [w]
  have hpu : RetryPackage u w := ⟨(congrArg (fun v : State => { v with accs := u.accs }) hfill.package :)⟩
  have hpw : RetryPackage w (unpark w { A with retried := true, stuck := false }) :=
    ⟨(congrArg (fun v : State => { v with accs := w.accs, free := w.free }) honly.package :)⟩
  have hlane := fun (hl : l < 8) (hm : l ∈ A.lanes) (hi : A.issv = false) =>
    unpark_lane (s := w) (a := { A with retried := true, stuck := false }) h.ag hl hm h.kind h.dest hi
  have hwl : w.lane c slot l = u.lane c slot l := by
    rw [State.lane, State.lane, show w.course? c slot = u.course? c slot from hfill.course slot]
  have hgone : l < 8 → l ∈ A.lanes → (s.lane c slot l).st = .parked A.id → A.issv = false →
      ((unpark w { A with retried := true, stuck := false }).lane c slot l).st = .ready ∧
        ((unpark w { A with retried := true, stuck := false }).lane c slot l).pc = A.next := fun hl hm hp hi => by
    rw [hlane hl hm hi, hwl]
    rcases hu.lane hl hm hp hi with hst | ⟨hst, hpc⟩
    · rw [if_pos hst]
      exact ⟨rfl, rfl⟩
    · rw [if_neg (by rw [hst]; exact nofun)]
      exact ⟨hst, hpc⟩
  rw [hrun]
  refine ⟨⟨(hu.toRetryPackage.trans hpu).trans hpw, ?_, fun j hj => ?_, ?_, ?_, fun C hC => ?_, fun hl hm hp hi => .inr (hgone hl hm hp hi)⟩,
    ⟨⟨B, (hmem B).2 (.inr rfl), hid, hag, hph, hre⟩, fun C hC hCid => ?_, hgone⟩, rfl⟩
  · obtain ⟨fill', hfind'⟩ := hfill.found
    obtain ⟨ht, hq⟩ := honly.tlbs c
    exact ⟨fill', (tlbFind_congr ht hq ..).trans hfind'⟩
  · exact (honly.courses j hj).trans ((hfill.course j).trans (hu.course j hj))
  · exact (congrArg Core.mq honly.core :).trans (hfill.mq.trans hu.mq)
  · exact (congrArg Core.heldPages honly.core :).trans (hfill.held.trans hu.held)
  · rw [hmem, ← hu.others C hC]
    constructor
    · rintro (⟨hC, -⟩ | rfl)
      · exact hC
      · exact absurd hid hC
    · exact fun hCu => .inl ⟨hCu, hC⟩
  · rcases (hmem C).1 hC with ⟨-, hne⟩ | rfl
    · exact absurd hCid hne
    · exact hph

/-- However often the one load is retried, it goes to its place. -/
theorem retry_foldl {s : State} {c slot l pa : Nat} {e : TlbE} {A : Access} (h : WaitingLoad s c slot l e pa A) (as : List Access)
    (has : ∀ a ∈ as, a = A) (r : State × List (Access × FaultRec)) (hr : RetryKeeps s r.1 c slot l e A) (hempty : r.2 = [])
    (hfirst : as = [] → LoadRetried s r.1 c slot l pa A) :
    let x := as.foldl (fun r a => ((retryOne r.1 a).1, r.2 ++ (retryOne r.1 a).2.toList)) r
    RetryKeeps s x.1 c slot l e A ∧ LoadRetried s x.1 c slot l pa A ∧ x.2 = [] := by
  induction as generalizing r with
  | nil => exact ⟨hr, hfirst rfl, hempty⟩
  | cons a as ih =>
    obtain rfl := has a List.mem_cons_self
    obtain ⟨hkeep, hload, hnone⟩ := retryOne_keeps h hr
    exact ih (fun b hb => has b (List.mem_cons_of_mem _ hb)) _ hkeep (by dsimp only; rw [hempty, hnone]; rfl) (fun _ => hload)
theorem retryAccs_load {s : State} {c slot l pa : Nat} {e : TlbE} {A : Access} (h : WaitingLoad s c slot l e pa A) {as : List Access}
    (has : ∀ a ∈ as, a = A) (hne : as ≠ []) (hs : RetryKeeps s s c slot l e A) :
    RetryKeeps s (retryAccs s as) c slot l e A ∧ LoadRetried s (retryAccs s as) c slot l pa A := by
  obtain ⟨hkeep, hload, hempty⟩ := retry_foldl h (sortAccs as) (fun a ha => has a (mem_sortAccs.1 ha)) (s, []) hs rfl fun hnil => by
    obtain ⟨a, ha⟩ := List.exists_mem_of_ne_nil as hne
    exact absurd (mem_sortAccs.2 ha) (by rw [hnil]; exact List.not_mem_nil)
  have hrun : retryAccs s as = ((sortAccs as).foldl (fun r a => ((retryOne r.1 a).1, r.2 ++ (retryOne r.1 a).2.toList)) (s, ([] : List (Access × FaultRec)))).1 := by
    unfold retryAccs
    dsimp only
    rw [hempty]
    rfl
  rw [hrun]
  exact ⟨hkeep, hload⟩

/-- What a TLBW leaves where one load waits for its page. -/
structure TlbwLoads (s t : State) (c va z slot l pa : Nat) (A : Access) : Prop extends LoadRetried s t c slot l pa A where
  memory : SameMemory s t
  course : ∀ j, j ≠ slot → t.course? c j = s.course? c j
  mq : (t.core c).mq = (s.core c).mq.filter (fun m => !(m.service && inRange va z m.va.toNat))
  others : ∀ B ∈ s.accs, B.id ≠ A.id → B ∈ t.accs

theorem covers_installed {va z a : Nat} (leaf : W64) (hva : va < 2 ^ 56) (ha : a / 2 ^ zBits z = va / 2 ^ zBits z) :
    TlbE.covers { va := BitVec.ofNat 64 va, z := z, leaf := leaf } a = true := by
  rw [TlbE.covers, beq_iff_eq, BitVec.toNat_ofNat, Nat.mod_eq_of_lt (by omega)]
  exact ha.symm

/-- The cores' TLBs of a TLBW's range give its entry to the look-up. -/
theorem tlbFind_installed {s : State} {c va z q a n : Nat} {leaf : W64} {y : Core} (hcore : s.core c = mqFreed va z (tlbwInstalled va z leaf n y))
    (hva : va < 2 ^ 56) (ha : a / 2 ^ zBits z = va / 2 ^ zBits z) :
    tlbFind s c (some q) a = some ({ va := BitVec.ofNat 64 va, z := z, leaf := leaf }, true) := by
  have hq : (mget (s.core c).qtlb q []).find? (·.covers a) = none := List.find?_eq_none.2 fun e he hcov => by
    rw [hcore] at he
    have := tlbClear_qtlb va z y q e he
    rw [TlbE.overlaps_of_covers hcov ha] at this
    cases this
  have hcov := covers_installed leaf hva ha
  obtain ⟨rest, htlb, -⟩ := tlbwInstalled_tlb va z leaf n y
  have htlb' : (s.core c).tlb = { va := BitVec.ofNat 64 va, z := z, leaf := leaf } :: rest := by rw [hcore]; exact htlb
  have hfirst : (({ va := BitVec.ofNat 64 va, z := z, leaf := leaf } : TlbE) :: rest).find? (·.covers a) = some _ := List.find?_cons_of_pos hcov
  unfold tlbFind
  dsimp only
  rw [Option.bind_some, hq, htlb', hfirst]
  rfl

/-- The one load that waits for a page of the range is retried. -/
theorem retryMissed_load {u : State} {c va z slot l pa n : Nat} {leaf : W64} {A : Access} {y : Core} (hcore : u.core c = tlbwInstalled va z leaf n y)
    (hva : va < 2 ^ 56) (hea : A.ea.toNat / 2 ^ zBits z = va / 2 ^ zBits z) (hload : WaitingLoad u c slot l { va := BitVec.ofNat 64 va, z := z, leaf := leaf } pa A)
    (hmem : A ∈ missedIn u c va z) (hall : ∀ B ∈ missedIn u c va z, B = A) :
    RetryKeeps (u.updCore c (mqFreed va z)) (retryMissed u c va z) c slot l { va := BitVec.ofNat 64 va, z := z, leaf := leaf } A ∧
      LoadRetried (u.updCore c (mqFreed va z)) (retryMissed u c va z) c slot l pa A := by
  rw [retryMissed_eq]
  have hvc : (u.updCore c (mqFreed va z)).core c = mqFreed va z (tlbwInstalled va z leaf n y) := by rw [State.core_updCore, if_pos rfl, hcore]
  have hfind := tlbFind_installed (q := slot / 128) hvc hva hea
  have hleaf := ((retryPackage_setCore u c _ : RetryPackage u (u.updCore c (mqFreed va z))).leafCheck z leaf A.ea.toNat .load A.prv).trans hload.leaf
  exact retryAccs_load ⟨hload.ag, hload.off, hload.kind, hload.dest, hload.looked, hload.covers, hleaf⟩ hall (List.ne_nil_of_mem hmem)
    ⟨⟨rfl⟩, ⟨_, hfind⟩, fun _ _ => rfl, rfl, rfl, fun _ _ => Iff.rfl, fun _ _ hp _ => .inl hp⟩

/-- The state with the TLBs of a TLBW. -/
def tlbwEntered (s : State) (c va z : Nat) (leaf : W64) : State := (s.updCore c (tlbwInstalled va z leaf (Config.freeChoice s.free))).bumpFree
theorem core_tlbwEntered (s : State) (c va z : Nat) (leaf : W64) :
    (tlbwEntered s c va z leaf).core c = tlbwInstalled va z leaf (Config.freeChoice s.free) (s.core c) :=
  (State.core_updCore s c c _).trans (if_pos rfl)
theorem kept_tlbwEntered (s : State) (c va z : Nat) (leaf : W64) : Kept s ((tlbwEntered s c va z leaf).updCore c (mqFreed va z)) :=
  ((kept_updCore s c (tlbwInstalled va z leaf (Config.freeChoice s.free)) (fun _ => rfl) (fun _ => rfl)).trans (kept_bumpFree _)).trans
    (kept_updCore (tlbwEntered s c va z leaf) c (mqFreed va z) (fun _ => rfl) (fun _ => rfl))
theorem tlbwEntered_package (s : State) (c va z : Nat) (leaf : W64) : RetryPackage s (tlbwEntered s c va z leaf) := ⟨rfl⟩

/-- One load waits for a page of the core, and its entry is in service. -/
structure OneWaits (s : State) (c va z slot l pa : Nat) (leaf : W64) (A : Access) : Prop where
  mem : A ∈ s.accs
  only : ∀ B ∈ s.accs, B = A ∨ ¬ waitsPage s c B ∧ B.id ≠ A.id
  ph : A.ph = .missed
  ag : A.ag = .thread c slot l
  off : slot ≠ 511
  kind : A.kind = .load
  dest : A.dest ≠ .again
  looked : A.looked = true
  entry : ∃ m ∈ (s.core c).mq, m.service = true ∧ m.va.toNat / 2 ^ zBits z = va / 2 ^ zBits z ∧ m.va.toNat / 65536 = A.ea.toNat / 65536
  leaf : leafCheck s z leaf A.ea.toNat .load A.prv = .ok pa

section
variable {s : State} {c va z slot l pa : Nat} {leaf : W64} {A : Access} (h : OneWaits s c va z slot l pa leaf A)
include h
theorem OneWaits.range : A.ea.toNat / 2 ^ zBits z = va / 2 ^ zBits z := by
  obtain ⟨m, -, -, hr, hp⟩ := h.entry
  exact (inRange_of_page hp.symm).trans hr
theorem OneWaits.log_quiet : ∀ B ∈ s.accs, B.ph = .sideLog → agentCore? B.ag ≠ some c := fun B hB hph hc => by
  rcases h.only B hB with rfl | ⟨hw, -⟩
  · rw [h.ph] at hph
    cases hph
  · exact hw ⟨tlbCore?_of_agentCore? hc, .inr (.inl hph)⟩
theorem OneWaits.missed : A ∈ missedIn (tlbwEntered s c va z leaf) c va z ∧ ∀ B ∈ missedIn (tlbwEntered s c va z leaf) c va z, B = A := by
  constructor
  · obtain ⟨m, hm, hs, hr, hp⟩ := h.entry
    refine mem_missedIn.2 ⟨h.mem, h.ph, by rw [h.ag]; rfl, m, ?_, hs, hr, hp⟩
    rw [core_tlbwEntered]
    exact hm
  · intro B hB
    obtain ⟨hB, hph, hc, -⟩ := mem_missedIn.1 hB
    exact (h.only B hB).resolve_right fun hw => hw.1 ⟨hc, .inl hph⟩
theorem OneWaits.load (hva : va < 2 ^ 56) :
    WaitingLoad (tlbwEntered s c va z leaf) c slot l { va := BitVec.ofNat 64 va, z := z, leaf := leaf } pa A :=
  ⟨h.ag, h.off, h.kind, h.dest, h.looked, covers_installed leaf hva h.range, ((tlbwEntered_package s c va z leaf).leafCheck ..).trans h.leaf⟩
end

theorem tlbwStep_load {s : State} {c va z slot l pa : Nat} {leaf : W64} {A : Access} (h : OneWaits s c va z slot l pa leaf A)
    (hmaps : installs z leaf = true) (hva : va < 2 ^ 56) (hheld : (s.core c).heldPages = []) :
    TlbwLoads s (tlbwStep s c va z leaf) c va z slot l pa A := by
  obtain ⟨hmem, hall⟩ := h.missed
  obtain ⟨hkeep, hdone⟩ := retryMissed_load (core_tlbwEntered s c va z leaf) hva h.range (h.load hva) hmem hall
  have hkept := kept_tlbwEntered s c va z leaf
  have hvc : ((tlbwEntered s c va z leaf).updCore c (mqFreed va z)).core c =
      mqFreed va z (tlbwInstalled va z leaf (Config.freeChoice s.free) (s.core c)) := by rw [State.core_updCore, if_pos rfl, core_tlbwEntered]
  have hpack : RetryPackage s (retryMissed (tlbwEntered s c va z leaf) c va z) :=
    ((tlbwEntered_package s c va z leaf).trans (retryPackage_setCore ..)).trans hkeep.toRetryPackage
  have hqueue : ∀ B ∈ (retryMissed (tlbwEntered s c va z leaf) c va z).accs, B.ph = .queued →
      tlbCore? (retryMissed (tlbwEntered s c va z leaf) c va z) B.ag ≠ some c := fun B hB hph hc => by
    by_cases hid : B.id = A.id
    · rw [hdone.flights B hB hid] at hph
      cases hph
    · have hc' : tlbCore? s B.ag = some c := (congrArg (fun x => tlbCore? x B.ag) hpack.package :).symm.trans hc
      exact ((h.only B ((hkeep.others B hid).1 hB)).resolve_left fun h => hid (h ▸ rfl)).1 ⟨hc', .inr (.inr hph)⟩
  have hstep : tlbwStep s c va z leaf = refillQueue (retryMissed (tlbwEntered s c va z leaf) c va z) c := by
    rw [tlbwStep_installs hmaps]
    exact congrArg (fun u => refillQueue (retryMissed u c va z) c) (replayLog_quiet (s := tlbwEntered s c va z leaf) h.log_quiet)
  rw [hstep, refillQueue_quiet (hkeep.held.trans (by rw [hvc]; exact hheld)) hqueue]
  generalize retryMissed (tlbwEntered s c va z leaf) c va z = w at *
  obtain ⟨hself, hcore⟩ := setCore_self w c
  have hlane : ∀ n, ((w.setCore c (w.core c)).lane c slot n) = w.lane c slot n := fun n => by rw [State.lane, hself.course]; rfl
  have hvlane : ∀ n, ((tlbwEntered s c va z leaf).updCore c (mqFreed va z)).lane c slot n = s.lane c slot n := fun n => by
    rw [State.lane, hkept.course]; rfl
  refine ⟨⟨hdone.placed, hdone.flights, fun hl hm hp hi => ?_⟩, ?_, fun j hj => ?_, ?_, fun B hB hid => (hkeep.others B hid).2 hB⟩
  · rw [hlane]
    exact hdone.lane hl hm ((hvlane l).symm ▸ hp) hi
  · exact (hpack.trans (retryPackage_setCore w c (w.core c))).memory
  · exact (hself.course c j).trans ((hkeep.course j hj).trans (hkept.course c j))
  · rw [hcore, hkeep.mq, hvc]
    rfl

/-! ## TLBW (R317) -/

theorem execTlbw_runs {q : Guard} {a b : Reg} {s : State} {iss : Issue} {c k : Nat} {x : Course} (h : CourseIssues s iss c k x)
    (hq : x.u.rq q = true) (hp : x.prv = true) {z va : Nat} (hz : (x.u.rs a.toNat).toNat % 4 = z) (hva : (x.u.rs a.toNat).toNat - z = va)
    (hlt : va < 2 ^ 56) (hal : va % 2 ^ zBits z = 0) : exec (.tlbw q a b) s = .next (tlbwStep (skip s iss true) c va z (x.u.rs b.toNat)) := by
  subst hz hva
  change execTlbw q a b s = _
  rw [execTlbw, pword_course h, if_pos hq, if_pos hp, uniOf_course h]
  dsimp only
  rw [if_neg (by omega)]

/-- A course that has skipped its word leaves the waits of its core. -/
structure Skipped (s t : State) (iss : Issue) (x : Course) (c k : Nat) : Prop extends OnlyCourse s t c k where
  advanced : CourseAdvanced s iss x.u x t c k
theorem skipped {s : State} {iss : Issue} {c k : Nat} {x : Course} (h : CourseIssues s iss c k x) : Skipped s (skip s iss true) iss x c k :=
  have hskip := skip_course h true
  ⟨hskip.1, _, hskip.2, courseAfter_endCourse s iss true _ x⟩

section
variable {s t : State} {iss : Issue} {x : Course} {c k : Nat} (h : Skipped s t iss x c k)
include h
theorem Skipped.waitsPage (d : Nat) (A : Access) : waitsPage t d A ↔ Sys2Proof.Machine.waitsPage s d A := by
  rw [Sys2Proof.Machine.waitsPage, Sys2Proof.Machine.waitsPage, show tlbCore? t A.ag = tlbCore? s A.ag from
    (congrArg (fun u => tlbCore? u A.ag) h.package :)]
theorem Skipped.mq : (t.core c).mq = (s.core c).mq := (congrArg Core.mq h.core :)
theorem Skipped.held : (t.core c).heldPages = (s.core c).heldPages := (congrArg Core.heldPages h.core :)
theorem Skipped.memory {u : State} (hm : SameMemory t u) : SameMemory s u :=
  SameMemory.ofEq (hm.mem.trans (congrArg State.mem h.package :)) (hm.undef.trans (congrArg State.undef h.package :))
    (hm.hist.trans (congrArg State.hist h.package :))
theorem Skipped.lane {j : Nat} (hj : j ≠ k) (l : Nat) : t.lane c j l = s.lane c j l := by rw [State.lane, h.courses j hj]; rfl
theorem Skipped.advanced_of {u : State} (hu : u.course? c k = t.course? c k) : CourseAdvanced s iss x.u x u c k := by
  obtain ⟨y, hy, hafter⟩ := h.advanced
  exact ⟨y, hu.trans hy, hafter⟩
end

/-- Settles O24: MQPOP and the end of TLBI are updates of one course; TLBW is `tlbwStep_quiet` and `tlbwStep_load` after the word's own `skip`; TLBI is
the fold of `tlbiCore` over its cores (`tlbiCores_leaves`, `tlbiCores_accs`), whose lanes then wait. -/
theorem translationWordResults : Obligations.TranslationWordResults := by
  unfold Obligations.TranslationWordResults
  refine ⟨?pop, fun q d s iss c k x h hq hp hall => execMqpop_held h hq hp hall, ?tlbw, ?tlbi, ?complete⟩
  case pop =>
    intro q d s iss c k x pre m post h hq hp hmq hpre hm n
    obtain ⟨honly, y, hy, hafter⟩ := uniOp_course (courseIssues_setCore h (y := { s.core c with mq := pre ++ { m with service := true } :: post }) rfl)
      (fun u => (u.ws d.toNat (missA m)).ws (d.toNat + 1) (missB m))
    rw [missA_eq, missB_eq] at hafter
    exact ⟨_, execMqpop_pops h hq hp hmq hpre hm, honly, y, hy, hafter.of_time rfl⟩
  case tlbw =>
    intro q a b s iss c k x h hq hp z va leaf hva hal
    have hskip := skipped h
    refine ⟨_, execTlbw_runs h hq hp (z := z) (va := va) rfl rfl hva hal, fun hwait hheld => ?_, fun A slot l m pa hA hone hheld hph hag hoff hk hkind hdest
      hlooked hm hserv hmr hmp hmaps hleaf => ?_⟩
    · have hquiet := tlbwStep_quiet (c := c) (va := va) (z := z) (leaf := leaf) (s := skip s iss true)
        (fun A hA => mt (hskip.waitsPage c A).1 (hwait A (hskip.toOnlyCourse.accs ▸ hA))) (hskip.held.trans hheld)
      obtain ⟨htlb, hqtlb⟩ := hskip.toOnlyCourse.tlbs c
      refine ⟨hskip.memory hquiet.toKept.memory, hquiet.accs.trans hskip.toOnlyCourse.accs, hskip.advanced_of (hquiet.course c k),
        fun e he => (hquiet.others e he).trans (hskip.cores e he), ?_, fun hmaps => ?_, fun hmaps => ?_⟩
      · rw [hquiet.mq, hskip.mq]
        exact List.filter_congr fun m _ => Bool.eq_iff_iff.2 (by simp [inRange])
      · rw [← htlb]
        exact hquiet.maps ((installs_iff z leaf).2 hmaps)
      · rw [← htlb, ← hqtlb]
        exact hquiet.none (mt (installs_iff z leaf).1 hmaps)
    · have hw : OneWaits (skip s iss true) c va z slot l pa leaf A := by
        refine ⟨by rw [hskip.toOnlyCourse.accs]; exact hA, fun B hB => ?_, hph, hag, hoff, hkind, hdest, hlooked,
          ⟨m, by rw [hskip.mq]; exact hm, hserv, hmr, hmp⟩, ?_⟩
        · rw [hskip.waitsPage]
          exact hone B (hskip.toOnlyCourse.accs ▸ hB)
        · exact (congrArg (fun u => leafCheck u z leaf A.ea.toNat .load A.prv) hskip.package :).trans hleaf
      have hload := tlbwStep_load hw ((installs_iff z leaf).2 hmaps) hva (hskip.held.trans hheld)
      refine ⟨hskip.memory hload.memory, hskip.advanced_of (hload.course k (Ne.symm hk)), ?_, hload.placed, fun B hB hne => ?_, fun hl hmem hpark hissv => ?_⟩
      · rw [hload.mq]
        simp [hserv, inRange, hmr]
      · exact hload.others B (by rw [hskip.toOnlyCourse.accs]; exact hB) ((hone B hB).resolve_left hne).2
      · exact hload.lane hl hmem (by rw [hskip.lane hk]; exact hpark) hissv
  case tlbi =>
    intro q a b s iss c k x h hq hp hb z va cs gone through
    have hcsn : cs.Nodup := by
      simp only [cs]
      split
      · exact coresOf_nodup ..
      · exact List.nodup_singleton c
    have hthrough : ∀ A, through A ↔ Through s va z cs A := fun A => by
      simp only [through, Through, tlbiHits_iff, gone]
    have hleaves := tlbiCores_leaves va z cs s hcsn
    have haccs := tlbiCores_accs va z cs s hcsn
    have hkept := tlbiCores_kept va z cs s
    have hrun := execTlbi_runs (a := a) h hq hp hb (z := z) (va := va) (cs := cs) rfl rfl rfl
    set s' := cs.foldl (tlbiCore va z (z == 3)) s
    obtain ⟨x', hx'⟩ := Option.isSome_iff_exists.1 ((hleaves.course c k).trans (Option.isSome_iff_exists.2 ⟨x, h.2.2⟩))
    obtain ⟨honly, hwaits, hpend⟩ := pendIssue_waits h.2.1 hx' .tlbi
      ((tlbiAccs s cs va z (z == 3)).filter (fun id => s'.accs.any (fun a => a.id == id && !a.ph.cancels)))
    refine ⟨_, hrun, fun e => (honly.bytes e).trans (hleaves.sameBytes e), fun l hl h8 => ⟨_, hpend l hl h8, rfl, rfl⟩, fun hno => ?_,
      fun hu => ⟨fun A hA hre hthr => ?_, fun l hl h8 p hpst A hA hre => ?_⟩, fun e he => ?_, fun e he => ?_⟩
    · obtain rfl : x = x' := Option.some.inj (h.2.2.symm.trans (((hkept hno).course c k).symm.trans hx'))
      exact ⟨honly.accs.trans (hkept hno).accs, hwaits.of_time hleaves.time⟩
    · rw [hthrough, through_iff_remissed hre] at hthr
      obtain ⟨B, hB, hid, hag, hph⟩ := (haccs hu A hA).1 hthr
      exact ⟨B, by rw [honly.accs]; exact hB, hid, hag, hph⟩
    · have hstay : A ∈ s'.accs := (haccs hu A hA).2 fun e _ hrem => absurd hrem.1 (by rw [hre]; exact Bool.false_ne_true)
      obtain rfl := LaneSt.pend.inj ((hpend l hl h8).symm.trans hpst)
      exact (mem_tlbi_pend hu hA hstay).trans (hthrough A).symm
    · obtain ⟨ht, hq⟩ := honly.tlbs e
      rw [ht, hq]
      exact hleaves.cleared e he
    · obtain ⟨ht, hq⟩ := honly.tlbs e
      rw [ht, hq]
      exact hleaves.others e he
  case complete =>
    intro s core slot x p hx hk hp
    change (_ → ∃ t, execTlbiComplete core slot s = .next t ∧ _) ∧ (_ → execTlbiComplete core slot s = .next s)
    rw [execTlbiComplete, ← hk, pendReady_onlyWait hx hp]
    refine ⟨fun hall => ?_, fun ⟨A, hA, hid, hph⟩ => ?_⟩
    · rw [if_pos ((accsDone_iff ..).2 hall)]
      exact ⟨_, rfl, pendEnd_none p hx⟩
    · rw [if_neg fun hd => by rw [(accsDone_iff ..).1 hd A hA hid] at hph; cases hph]

end Sys2Proof.Machine
end

/-!
Stores of the service core (R266, R271, R303, R425). They are performed sector by sector in one step (`svcStore`): the bytes lie at their homes
afterwards, the other bytes are as they were, and of the rest only the caches, the leases, the links and the accesses in flight change (`StoreLeaves`).
-/

section
namespace Sys2Proof.Machine

/-- t is s but for memory, the leases, the cache parts, the slices' records, the links and the accesses in flight. -/
structure StoreLeaves (s t : State) : Prop where
  package : { t with mem := s.mem, undef := s.undef, hist := s.hist, wrote := s.wrote, leases := s.leases, soffit := s.soffit, proxies := s.proxies,
                     bad := s.bad, out := s.out, slices := s.slices, accs := s.accs, nextAcc := s.nextAcc } = s

theorem StoreLeaves.refl (s : State) : StoreLeaves s s := ⟨rfl⟩
theorem StoreLeaves.trans {s t u : State} (h : StoreLeaves s t) (h' : StoreLeaves t u) : StoreLeaves s u where
  package := by
    calc { u with mem := s.mem, undef := s.undef, hist := s.hist, wrote := s.wrote, leases := s.leases, soffit := s.soffit, proxies := s.proxies,
                  bad := s.bad, out := s.out, slices := s.slices, accs := s.accs, nextAcc := s.nextAcc }
        = { ({ u with mem := t.mem, undef := t.undef, hist := t.hist, wrote := t.wrote, leases := t.leases, soffit := t.soffit, proxies := t.proxies,
                      bad := t.bad, out := t.out, slices := t.slices, accs := t.accs, nextAcc := t.nextAcc } : State) with
              mem := s.mem, undef := s.undef, hist := s.hist, wrote := s.wrote, leases := s.leases, soffit := s.soffit, proxies := s.proxies,
              bad := s.bad, out := s.out, slices := s.slices, accs := s.accs, nextAcc := s.nextAcc } := rfl
      _ = s := by rw [h'.package, h.package]

section
variable {s t : State} (h : StoreLeaves s t)
include h
theorem StoreLeaves.cores : t.cores = s.cores := (congrArg State.cores h.package :)
theorem StoreLeaves.bays : t.bays = s.bays := (congrArg State.bays h.package :)
theorem StoreLeaves.cols : t.cols = s.cols := (congrArg State.cols h.package :)
theorem StoreLeaves.svc : t.svc = s.svc := (congrArg State.svc h.package :)
end

/-- What a store can change, as one record. -/
theorem storeLeaves_tables (s : State) (me : List Host.Cell) (un : List Undef) (hi : Map (List Byte)) (wr : Map Nat) (le : Map Lease) (so : Map (Map SofE))
    (px : Map Proxy) (bd : List BadUnit) (ou : List OutPkt) (sl : Map Slice) (ac : List Access) (nx : Nat) :
    StoreLeaves s { s with mem := me, undef := un, hist := hi, wrote := wr, leases := le, soffit := so, proxies := px, bad := bd, out := ou, slices := sl,
                           accs := ac, nextAcc := nx } := ⟨rfl⟩

/-- Cache parts make room: the cores keep what they have. -/
theorem storeLeaves_sofDrop (s : State) (d g : Nat) : StoreLeaves s (sofDrop s d g) := by
  unfold sofDrop
  split
  · exact StoreLeaves.refl s
  · exact storeLeaves_tables s ..
theorem storeLeaves_partRoom (s : State) (d : Nat) : StoreLeaves s (partRoom s d) := by
  unfold partRoom
  split
  · exact StoreLeaves.refl s
  · split
    · exact StoreLeaves.refl s
    · exact (List.foldlRecOn (motive := StoreLeaves s) _ _ (StoreLeaves.refl s) fun t ht g _ => ht.trans (storeLeaves_sofDrop t d g)).trans
        (storeLeaves_tables _ ..)
/-- Only a sector of the pool takes its room from the L1s as well (R275, log 107). -/
theorem storeLeaves_sofTouch (s : State) {t : Target} (ht : t.tier ≠ .win → t.canon < 0x200000000000) (ev : Nat) (nosc dirty : Bool) :
    StoreLeaves s (sofTouch s t ev nosc dirty) := by
  unfold sofTouch
  split
  · exact StoreLeaves.refl s
  next hwin =>
    have hroom : poolRoom s (t.canon / 64) = s := by
      rw [poolRoom, if_pos]
      have := ht hwin
      simp only [isPool, Bool.or_eq_true, Bool.not_eq_true', decide_eq_false_iff_not]
      exact .inl (by omega)
    dsimp only
    split
    · exact storeLeaves_tables s ..
    · split
      · exact StoreLeaves.refl s
      · rw [hroom]
        exact (storeLeaves_partRoom s _).trans (storeLeaves_tables _ ..)

/-- Outside the soffit windows a byte's storage is held under its own address (R83, R84). -/
theorem canon_of_target? {s : State} {pa : Nat} {t : Target} (h : target? s pa = some t) (hwin : t.tier ≠ .win) : t.canon = pa := by
  unfold target? at h
  split at h
  · rw [← Option.some.inj h]
  split at h
  · dsimp only at h
    split at h
    · cases h
    · split at h
      · exact absurd (congrArg Target.tier (Option.some.inj h)).symm hwin
      · cases h
  split at h
  · dsimp only at h
    split at h
    · exact absurd (congrArg Target.tier (Option.some.inj h)).symm hwin
    · cases h
  split at h
  · rw [← Option.some.inj h]
  split at h
  · rw [← Option.some.inj h]
  · cases h

/-! ## A store in one sector (R267) -/

theorem storeLeaves_writeSector (s : State) (sector : Nat) (b : List (Nat × Byte)) : StoreLeaves s (writeSector s sector b) :=
  List.foldlRecOn (motive := StoreLeaves s) b _ (StoreLeaves.refl s) fun _ ht _ _ => ht.trans (storeLeaves_tables _ ..)

theorem storeLeaves_writeHome (s : State) {sector : Nat} (h : 32 * sector < 0x200000000000) (nosc : Bool) : StoreLeaves s (writeHome s sector nosc) := by
  unfold writeHome
  dsimp only
  split
  next t ht =>
    exact (storeLeaves_tables s ..).trans (storeLeaves_sofTouch (levelZero s sector) (fun hwin => (canon_of_target? ht hwin).trans_lt h) ..)
  · exact storeLeaves_tables s ..
theorem storeLeaves_toLink (s : State) (canon : Nat) : StoreLeaves s (toLink s canon) := by
  unfold toLink
  split
  · exact storeLeaves_tables s ..
  · exact storeLeaves_tables s ..
  · exact StoreLeaves.refl s

/-- After an unsignaled write of a sector, the cores and the bytes are as they were. -/
theorem storeLeaves_afterWriteBy (s : State) {sector : Nat} (h : 32 * sector < 0x200000000000) (nosc link : Bool) :
    StoreLeaves s (afterWriteBy s sector false nosc link) := by
  have hhome := storeLeaves_writeHome s h nosc
  unfold afterWriteBy
  dsimp only
  rw [if_neg Bool.false_ne_true]
  cases link
  · exact hhome.trans (storeLeaves_tables _ ..)
  · exact (hhome.trans (storeLeaves_toLink ..)).trans (storeLeaves_tables _ ..)
theorem afterWriteBy_bytes (s : State) (sector : Nat) (nosc link : Bool) :
    (afterWriteBy s sector false nosc link).mem = s.mem ∧ (afterWriteBy s sector false nosc link).undef = s.undef ∧
      (afterWriteBy s sector false nosc link).accs = s.accs ∧ (afterWriteBy s sector false nosc link).nextAcc = s.nextAcc := by
  have hstep := (cacheStep_writeHome s sector nosc).package
  have hlink : ∀ t : State, (toLink t (32 * sector)).mem = t.mem ∧ (toLink t (32 * sector)).undef = t.undef ∧ (toLink t (32 * sector)).accs = t.accs ∧
      (toLink t (32 * sector)).nextAcc = t.nextAcc := fun t => by
    unfold toLink
    split <;> exact ⟨rfl, rfl, rfl, rfl⟩
  have hhome : (writeHome s sector nosc).mem = s.mem ∧ (writeHome s sector nosc).undef = s.undef ∧ (writeHome s sector nosc).accs = s.accs ∧
      (writeHome s sector nosc).nextAcc = s.nextAcc :=
    ⟨(congrArg State.mem hstep :), (congrArg State.undef hstep :), (congrArg State.accs hstep :), (congrArg State.nextAcc hstep :)⟩
  unfold afterWriteBy
  dsimp only
  rw [if_neg Bool.false_ne_true]
  cases link
  · exact hhome
  · obtain ⟨hmem, hundef, haccs, hnext⟩ := hlink (writeHome s sector nosc)
    exact ⟨hmem.trans hhome.1, hundef.trans hhome.2.1, haccs.trans hhome.2.2.1, hnext.trans hhome.2.2.2⟩

theorem writeSector_with_bad (s : State) (bd : List BadUnit) (sector : Nat) (b : List (Nat × Byte)) :
    writeSector { s with bad := bd } sector b = { writeSector s sector b with bad := bd } := by
  induction b generalizing s with
  | nil => rfl
  | cons e b ih => exact ih (s.writeByte (32 * sector + e.1) e.2)

/-- The bytes of a store in one sector written, and its access in flight, as the write step goes on to the lease; `bd` is what is then bad. -/
def storedAt (s : State) (a : Access) (sector : Nat) (bs : List (Nat × Byte)) (bd : List BadUnit) (ph : Phase) : State :=
  { writeSector s sector bs with bad := bd, accs := s.accs ++ [{ a with id := s.nextAcc, ph := ph, t0 := s.t }], nextAcc := s.nextAcc + 1 }
/-- A store's way from its home: its write-through first where its tier has one (R275). -/
def storePhase (tg : Target) (r : Record) : Phase := if tg.tier = .host ∨ tg.tier = .pool then .cxl r [] tg.canon else .recorded r [] tg.canon

theorem sectorWriteBy_eq {s : State} {sector : Nat} {tg : Target} (htg : target? s (32 * sector) = some tg) (a : Access) (bs : List (Nat × Byte)) (link : Bool) :
    ∃ bd r, sectorWriteBy s a sector bs link = afterWriteBy (storedAt s a sector bs bd (storePhase tg r)) sector a.sig a.nosc link := by
  rw [sectorWriteBy, htg]
  dsimp only
  split
  · rw [writeSector_with_bad]
    exact ⟨_, _, rfl⟩
  · exact ⟨_, _, rfl⟩

/-- What an unsignaled store in one sector of memory that is mapped leaves: its bytes, and one access more. -/
structure SectorStored (s t : State) (a : Access) (sector : Nat) (bs : List (Nat × Byte)) : Prop where
  leaves : StoreLeaves s t
  mem : t.mem = (writeSector s sector bs).mem
  undef : t.undef = (writeSector s sector bs).undef
  next : t.nextAcc = s.nextAcc + 1
  accs : ∃ x : Access, t.accs = s.accs ++ [x] ∧ x.id = s.nextAcc ∧ x.ag = a.ag ∧ (tierOf s (32 * sector) = .host → ∃ r d, x.ph = .cxl r [] d)

theorem sectorStored_sectorWriteBy {s : State} {a : Access} {sector : Nat} (bs : List (Nat × Byte)) (h : 32 * sector < 0x200000000000)
    (hmap : (target? s (32 * sector)).isSome = true) (hsig : a.sig = false) (link : Bool) :
    SectorStored s (sectorWriteBy s a sector bs link) a sector bs := by
  obtain ⟨tg, htg⟩ := Option.isSome_iff_exists.1 hmap
  obtain ⟨bd, r, hrun⟩ := sectorWriteBy_eq htg a bs link
  rw [hrun, hsig]
  obtain ⟨hmem, hundef, haccs, hnext⟩ := afterWriteBy_bytes (storedAt s a sector bs bd (storePhase tg r)) sector a.nosc link
  have hstored : StoreLeaves (writeSector s sector bs) (storedAt s a sector bs bd (storePhase tg r)) := storeLeaves_tables _ ..
  refine ⟨((storeLeaves_writeSector s sector bs).trans hstored).trans (storeLeaves_afterWriteBy _ h a.nosc link), hmem, hundef, hnext,
    _, haccs, rfl, rfl, fun hhost => ⟨r, tg.canon, ?_⟩⟩
  rw [tierOf, htg] at hhost
  exact if_pos (.inl hhost)

/-! ## Bytes written one by one -/

theorem memGet_writeByte (s : State) (a k : Nat) (x : Byte) : memGet (s.writeByte a x).mem k = if k = a then x else memGet s.mem k :=
  memGet_memSet ..

/-- A byte that one of the writes hits, or that held its value before, has it after them, whichever it is that writes it. -/
theorem written_of_hit {k : Nat} {x : Byte} (l : List (Nat × Byte)) (s : State) (hval : ∀ e ∈ l, e.1 = k → e.2 = x)
    (h : (∃ e ∈ l, e.1 = k) ∨ memGet s.mem k = x ∧ Settled s.undef k) :
    memGet (l.foldl (fun s e => s.writeByte e.1 e.2) s).mem k = x ∧ Settled (l.foldl (fun s e => s.writeByte e.1 e.2) s).undef k := by
  induction l generalizing s with
  | nil => exact h.resolve_left fun ⟨e, he, _⟩ => absurd he List.not_mem_nil
  | cons e l ih =>
    refine ih (s.writeByte e.1 e.2) (fun y hy => hval y (List.mem_cons_of_mem e hy)) ?_
    by_cases hk : e.1 = k
    · exact .inr ⟨by rw [memGet_writeByte, if_pos hk.symm, hval e List.mem_cons_self hk], hk ▸ undefDrop_not_mem ..⟩
    · rcases h with ⟨y, hy, hyk⟩ | ⟨hmem, hset⟩
      · rcases List.mem_cons.1 hy with rfl | hy
        · exact absurd hyk hk
        · exact .inl ⟨y, hy, hyk⟩
      · exact .inr ⟨by rw [memGet_writeByte, if_neg (Ne.symm hk), hmem], settled_undefDrop hset _⟩
theorem memGet_of_miss {k : Nat} (l : List (Nat × Byte)) (s : State) (h : ∀ e ∈ l, e.1 ≠ k) :
    memGet (l.foldl (fun s e => s.writeByte e.1 e.2) s).mem k = memGet s.mem k := by
  induction l generalizing s with
  | nil => rfl
  | cons e l ih =>
    rw [List.foldl_cons, ih _ fun y hy => h y (List.mem_cons_of_mem e hy), memGet_writeByte, if_neg (Ne.symm (h e List.mem_cons_self))]

/-- The bytes of a store that lie in one sector, each with its address. -/
def svcBytes (pa : Nat) (b : List Byte) (sec : Nat) : List (Nat × Byte) := (b.mapIdx (fun i x => (pa + i, x))).filter (fun e => e.1 / 32 == sec)

theorem mem_svcBytes {pa : Nat} {b : List Byte} {sec : Nat} {e : Nat × Byte} :
    e ∈ svcBytes pa b sec ↔ ∃ i, i < b.length ∧ e = (pa + i, b.getD i 0) ∧ (pa + i) / 32 = sec := by
  rw [svcBytes, List.mem_filter, List.mem_mapIdx, beq_iff_eq]
  constructor
  · rintro ⟨⟨i, hi, rfl⟩, hsec⟩
    exact ⟨i, hi, by rw [List.getD_eq_getElem _ _ hi], hsec⟩
  · rintro ⟨i, hi, rfl, hsec⟩
    exact ⟨⟨i, hi, by rw [List.getD_eq_getElem _ _ hi]⟩, hsec⟩
theorem writeSector_svcBytes (s : State) (pa : Nat) (b : List Byte) (sec : Nat) :
    writeSector s sec ((svcBytes pa b sec).map (fun e => (e.1 % 32, e.2))) = (svcBytes pa b sec).foldl (fun s e => s.writeByte e.1 e.2) s := by
  rw [writeSector, List.foldl_map]
  refine List.foldl_ext _ _ _ fun t e he => ?_
  obtain ⟨i, -, rfl, hsec⟩ := mem_svcBytes.1 he
  dsimp only
  rw [← hsec, Nat.div_add_mod]

/-! ## The store, sector by sector (R266) -/

/-- The access of the service core's store in a sector. -/
def svcAccess (sec : Nat) : Access :=
  { id := 0, iss := 0, ag := .service 0, kind := .store, form := BitVec.ofNat 64 (32 * sec), ea := BitVec.ofNat 64 (32 * sec), size := 32 }
/-- The store's part in its sector k. -/
def svcSector (pa : Nat) (b : List Byte) (s : State) (k : Nat) : State :=
  if (svcBytes pa b (pa / 32 + k)).isEmpty then s
  else sectorWriteBy s (svcAccess (pa / 32 + k)) (pa / 32 + k) ((svcBytes pa b (pa / 32 + k)).map (fun e => (e.1 % 32, e.2)))
    ((pa / 32 + k) % 2 == 1 || decide (pa + b.length ≤ 32 * (pa / 32 + k + 1)))
theorem svcStore_eq (s : State) (pa : Nat) (b : List Byte) : svcStore s pa b = (List.range (b.length / 32 + 2)).foldl (svcSector pa b) s := rfl

theorem svcSector_cases {pa : Nat} {b : List Byte} (s : State) (k : Nat) (hend : pa + b.length ≤ 0x200000000000)
    (hmap : ∀ (u : State) i, i < b.length → (target? u (32 * ((pa + i) / 32))).isSome = true) :
    (svcBytes pa b (pa / 32 + k) = [] ∧ svcSector pa b s k = s) ∨
      (32 * (pa / 32 + k) < pa + b.length ∧
        SectorStored s (svcSector pa b s k) (svcAccess (pa / 32 + k)) (pa / 32 + k) ((svcBytes pa b (pa / 32 + k)).map (fun e => (e.1 % 32, e.2)))) := by
  by_cases hnil : svcBytes pa b (pa / 32 + k) = []
  · exact .inl ⟨hnil, if_pos (by rw [hnil]; rfl)⟩
  · obtain ⟨e, he⟩ := List.exists_mem_of_ne_nil _ hnil
    obtain ⟨i, hi, -, hsec⟩ := mem_svcBytes.1 he
    refine .inr ⟨by omega, ?_⟩
    rw [svcSector, if_neg (by rwa [List.isEmpty_iff])]
    exact sectorStored_sectorWriteBy _ (by omega) (hsec ▸ hmap s i hi) rfl _

/-- What the service core's store leaves: of the rest of the state everything, and new accesses of its own, at the end. -/
structure SvcStored (s t : State) (far : Prop) : Prop where
  leaves : StoreLeaves s t
  next : s.nextAcc ≤ t.nextAcc
  accs : ∃ new, t.accs = s.accs ++ new ∧
    ∀ a ∈ new, a.ag = .service 0 ∧ s.nextAcc ≤ a.id ∧ a.id < t.nextAcc ∧ (far → ∃ r d, a.ph = .cxl r [] d)

theorem SvcStored.sector {s t u : State} {far : Prop} (h : SvcStored s t far) {sec : Nat} {bs : List (Nat × Byte)} (hs : SectorStored t u (svcAccess sec) sec bs)
    (hfar : far → tierOf t (32 * sec) = .host) : SvcStored s u far := by
  obtain ⟨new, hnew, hall⟩ := h.accs
  obtain ⟨x, hx, hid, hag, hph⟩ := hs.accs
  have hle := h.next
  have hnext := hs.next
  refine ⟨h.leaves.trans hs.leaves, by omega, new ++ [x], by rw [hx, hnew, List.append_assoc], fun a ha => ?_⟩
  rcases List.mem_append.1 ha with ha | ha
  · obtain ⟨hag', hlo, hhi, hph'⟩ := hall a ha
    exact ⟨hag', hlo, by omega, hph'⟩
  · rw [List.mem_singleton.1 ha]
    exact ⟨hag, by omega, by omega, fun hf => hph (hfar hf)⟩

/-- Host memory is mapped in every state, and so is HBM4 (R84). -/
theorem target?_host (s : State) {pa : Nat} (hlo : 0x100000000000 ≤ pa) (hhi : pa < 0x200000000000) : target? s pa = some ⟨.host, pa, lineHome pa⟩ := by
  rw [target?, if_neg (by omega), if_neg (by omega), if_neg (by omega), if_pos ⟨hlo, hhi⟩]

/-- A store of the service core to HBM4 or to host memory, by where it lies. -/
def SvcPlace (pa n : Nat) : Prop := pa + n ≤ 0x8000000000 ∨ 0x100000000000 ≤ pa ∧ pa + n ≤ 0x200000000000

theorem SvcPlace.mapped {pa n : Nat} (h : SvcPlace pa n) (u : State) (i : Nat) (hi : i < n) : (target? u (32 * ((pa + i) / 32))).isSome = true := by
  rcases h with h | ⟨hlo, hhi⟩
  · rw [target?_hbm (by omega)]
    rfl
  · rw [target?_host u (by omega) (by omega)]
    rfl
theorem SvcPlace.le {pa n : Nat} (h : SvcPlace pa n) : pa + n ≤ 0x200000000000 := by
  rcases h with h | ⟨-, h⟩ <;> omega

theorem svcStored_svcStore (s : State) {pa : Nat} {b : List Byte} (h : SvcPlace pa b.length) : SvcStored s (svcStore s pa b) (0x100000000000 ≤ pa) := by
  rw [svcStore_eq]
  refine List.foldlRecOn (motive := fun t => SvcStored s t (0x100000000000 ≤ pa)) _ _
    ⟨StoreLeaves.refl s, le_rfl, [], (List.append_nil _).symm, fun a ha => absurd ha List.not_mem_nil⟩ fun t ht k _ => ?_
  rcases svcSector_cases t k h.le h.mapped with ⟨-, heq⟩ | ⟨hlt, hs⟩
  · rw [heq]
    exact ht
  · have hle := h.le
    exact ht.sector hs fun hfar => by rw [tierOf, target?_host t (by omega) (by omega)]; rfl

/-- The store's first n sectors: what they hold of it is there, and nothing else is touched. -/
theorem svcSectors_bytes (s : State) {pa : Nat} {b : List Byte} (h : SvcPlace pa b.length) (n : Nat) :
    let t := (List.range n).foldl (svcSector pa b) s
    (∀ g, g < pa ∨ pa + b.length ≤ g → memGet t.mem g = memGet s.mem g) ∧
      ∀ i, i < b.length → (pa + i) / 32 < pa / 32 + n → memGet t.mem (pa + i) = b.getD i 0 ∧ Settled t.undef (pa + i) := by
  induction n with
  | zero => exact ⟨fun _ _ => rfl, fun i _ hi => by omega⟩
  | succ n ih =>
    obtain ⟨hout, hin⟩ := ih
    rw [List.range_succ, List.foldl_append, List.foldl_cons, List.foldl_nil]
    generalize (List.range n).foldl (svcSector pa b) s = t at hout hin
    rcases svcSector_cases t n h.le h.mapped with ⟨hnil, heq⟩ | ⟨-, hs⟩
    · rw [heq]
      refine ⟨hout, fun i hi hlt => hin i hi ?_⟩
      by_contra hge
      exact absurd (hnil ▸ mem_svcBytes.2 ⟨i, hi, rfl, by omega⟩) List.not_mem_nil
    · dsimp only
      rw [hs.mem, hs.undef, writeSector_svcBytes]
      refine ⟨fun g hg => (memGet_of_miss _ _ fun e he heq => ?_).trans (hout g hg), fun i hi hlt => written_of_hit _ _ (fun e he heq => ?_) ?_⟩
      · obtain ⟨i, hi, rfl, -⟩ := mem_svcBytes.1 he
        dsimp only at heq
        omega
      · obtain ⟨j, -, rfl, -⟩ := mem_svcBytes.1 he
        rw [show j = i by dsimp only at heq; omega]
      · by_cases hsec : (pa + i) / 32 = pa / 32 + n
        · exact .inl ⟨_, mem_svcBytes.2 ⟨i, hi, rfl, hsec⟩, rfl⟩
        · exact .inr (hin i hi (by omega))

/-- The bytes stored are what a read finds, and the others are as they were. -/
theorem svcStore_outside (s : State) {pa : Nat} {b : List Byte} (h : SvcPlace pa b.length) {g : Nat} (hg : g < pa ∨ pa + b.length ≤ g) :
    memGet (svcStore s pa b).mem g = memGet s.mem g :=
  (svcSectors_bytes s h _).1 g hg
theorem svcStore_readByte (s : State) {pa : Nat} {b : List Byte} (h : SvcPlace pa b.length) {i : Nat} (hi : i < b.length) :
    (svcStore s pa b).readByte (pa + i) = b.getD i 0 := by
  obtain ⟨hmem, hset⟩ := (svcSectors_bytes s h (b.length / 32 + 2)).2 i hi (by omega)
  exact (readByte_of_settled hset).trans hmem
theorem svcStore_readNat (s : State) {pa n x : Nat} (h : SvcPlace pa n) : (svcStore s pa (natBytes n x)).readNat pa n = x % 256 ^ n := by
  rw [← leNum_natBytes, State.readNat]
  refine congrArg leNum (List.ext_getElem (by simp [State.readBytes, natBytes_length]) fun i hi hib => ?_)
  simp only [State.readBytes, List.getElem_map, List.getElem_range]
  rw [svcStore_readByte s (by rwa [natBytes_length]) hib, List.getD_eq_getElem _ _ hib]

/-! ## When it may store (R271, R272, R298, R377) -/

/-- A service core that is free may store at once, to host memory only while its port is up. -/
theorem svcReady_of_free {s : State} (h : ServiceFree s) {pa n : Nat} (hp : SvcPlace pa n) (hup : 0x100000000000 ≤ pa → s.hUp = true) :
    svcReady s pa n = true := by
  obtain ⟨hfence, haccs, hstages⟩ := h
  have hlate : ∀ x y, lateForTp s x y = false := fun x y => by rw [lateForTp, hstages]; rfl
  have hidle : s.accs.any (fun a => a.ag == Agent.service 0 && a.ph.unperformed) = false := by
    rw [List.any_eq_false]
    intro a ha
    simp [haccs a ha]
  rw [svcReady, hfence, hidle]
  simp only [Bool.not_false, Bool.true_and, List.all_eq_true, hlate]
  intro k _
  split
  · rfl
  next tg htg =>
    rw [Bool.or_eq_true, decide_eq_true_eq]
    by_cases hk : pa + n ≤ 32 * (pa / 32 + k)
    · exact .inl hk
    · refine .inr ?_
      rcases hp with hp | ⟨hlo, hhi⟩
      · rw [target?_hbm (by omega)] at htg
        rw [← Option.some.inj htg]
      · rw [target?_host s (by omega) (by omega)] at htg
        rw [← Option.some.inj htg]
        exact hup hlo

end Sys2Proof.Machine
end

/-!
The services of Zhesor root (R82, R103, R284, R289, R293, R319, R343, R372, R375, R384; O53). Every call is one choice (`service_of_iff`): its effect and OK,
or FAILED. Then the effect of each service that does more than set fields of its bay.
-/

section
namespace Sys2Proof.Machine

/-! ## Answers (R343) -/

theorem answer_plain {op : String} (h : op ≠ "OBJ_TABLES") (s : State) (b status val : Nat) :
    answer s b op status val = { s with svc := s.svc ++ [{ bay := b, op := op, status := status, val := val }] } := by
  rw [answer, if_neg fun hop => h hop.1]
theorem answer_failed (s : State) (b : Nat) (op : String) :
    answer s b op 2 0 = { s with svc := s.svc ++ [{ bay := b, op := op, status := 2, val := 0 }] } := by
  rw [answer, if_neg fun hop => absurd hop.2 (by decide)]
theorem service_ok {s : State} {b : Nat} {op : String} {ok : Bool} (hf : (s.bay b).formed = true) (hok : ok = true) (val : Nat) (k : State) :
    service s b op ok val k = answer k b op 0 val := by
  rw [service, hf, hok]
  rfl
theorem service_failed {s : State} {b : Nat} {op : String} {ok : Bool} (h : ¬ ((s.bay b).formed = true ∧ ok = true)) (val : Nat) (k : State) :
    service s b op ok val k = { s with svc := s.svc ++ [{ bay := b, op := op, status := 2, val := 0 }] } := by
  rw [service, if_neg (by rwa [Bool.and_eq_true]), answer_failed]

/-- A call of a formed bay: OK with its effect where its condition holds, FAILED where it does not. -/
theorem service_of_iff {s : State} {b : Nat} {op : String} {ok : Bool} {P : Prop} (hop : op ≠ "OBJ_TABLES") (hf : (s.bay b).formed = true)
    (hok : ok = true ↔ P) (val : Nat) (k : State) : (P → service s b op ok val k = serviceOk k b op val) ∧
      (¬ P → service s b op ok val k = { s with svc := s.svc ++ [{ bay := b, op := op, status := 2, val := 0 }] }) :=
  ⟨fun h => (service_ok hf (hok.2 h) val k).trans (answer_plain hop ..), fun h => service_failed (fun hn => h (hok.1 hn.2)) val k⟩
theorem service_unformed {s : State} {b : Nat} (hf : (s.bay b).formed = false) (op : String) (ok : Bool) (val : Nat) (k : State) :
    service s b op ok val k = { s with svc := s.svc ++ [{ bay := b, op := op, status := 2, val := 0 }] } :=
  service_failed (fun h => by rw [hf] at h; exact absurd h.1 Bool.false_ne_true) val k

/-! ## LAYOUT_BASE, EXPORT_SET, MCG_SET, EAVE_SET (R252, R284, R289, R293) -/

theorem layoutOk_iff (base : W64) (slots : Nat) : (decide (base.toNat % 64 = 0) && (List.range 21).any (fun k => slots == 2 ^ k)) = true ↔
    base.toNat % 64 = 0 ∧ ∃ k, k ≤ 20 ∧ slots = 2 ^ k := by
  simp only [Bool.and_eq_true, decide_eq_true_eq, List.any_eq_true, List.mem_range, beq_iff_eq, Nat.lt_succ_iff]
theorem layoutBase_answers {s : State} {bay : Nat} (base : W64) (slots : Nat) (hf : (s.bay bay).formed = true) :
    (base.toNat % 64 = 0 ∧ (∃ k, k ≤ 20 ∧ slots = 2 ^ k) → exec (.layoutBase bay base slots) s =
      .next (serviceOk (s.setBay bay { s.bay bay with layBase := base, laySlots := slots }) bay "LAYOUT_BASE" 0)) ∧
    (¬ (base.toNat % 64 = 0 ∧ ∃ k, k ≤ 20 ∧ slots = 2 ^ k) → serviceFails (.layoutBase bay base slots) s bay "LAYOUT_BASE") := by
  obtain ⟨hok, hno⟩ := service_of_iff (op := "LAYOUT_BASE") (by decide) hf (layoutOk_iff base slots) 0
    (s.updBay bay (fun y => { y with layBase := base, laySlots := slots }))
  exact ⟨fun h => congrArg Host.Outcome.next (hok h), fun h => congrArg Host.Outcome.next (hno h)⟩

theorem exportOk_iff (idx : Nat) (entry : BitVec 256) : (decide (idx < 64) && exportOk entry) = true ↔
    idx < 64 ∧ (entry.getLsbD 7 = true → entry.toNat / 2 ^ 192 % 65536 = 0 ∧ entry.toNat / 2 ^ 192 < 2 ^ 56 ∧ entry.toNat / 2 ^ 128 % 2 ^ 64 % 65536 = 0 ∧
      entry.toNat / 2 ^ 128 % 2 ^ 64 < 2 ^ 43 ∧ 0 < entry.toNat / 2 ^ 64 % 2 ^ 64 ∧ entry.toNat / 2 ^ 64 % 2 ^ 64 % 65536 = 0 ∧
      entry.toNat / 2 ^ 128 % 2 ^ 64 + entry.toNat / 2 ^ 64 % 2 ^ 64 ≤ 2 ^ 43) := by
  rw [Bool.and_eq_true, decide_eq_true_eq, exportOk, Bool.or_eq_true, decide_eq_true_eq, Bool.not_eq_true']
  cases entry.getLsbD 7 <;> simp
theorem exportSet_answers {s : State} {bay : Nat} (idx : Nat) (entry : BitVec 256) (hf : (s.bay bay).formed = true) {P : Prop}
    (hP : (decide (idx < 64) && exportOk entry) = true ↔ P) :
    (P → exec (.exportSet bay idx entry) s = .next (serviceOk (s.setBay bay { s.bay bay with exports := mset (s.bay bay).exports idx entry }) bay "EXPORT_SET" 0)) ∧
    (¬ P → serviceFails (.exportSet bay idx entry) s bay "EXPORT_SET") := by
  obtain ⟨hok, hno⟩ := service_of_iff (op := "EXPORT_SET") (by decide) hf hP 0 (s.updBay bay (fun y => { y with exports := mset y.exports idx entry }))
  exact ⟨fun h => congrArg Host.Outcome.next (hok h), fun h => congrArg Host.Outcome.next (hno h)⟩

/-- Bits that a set has beside another are none where each of its bits is one of the other's. -/
theorem and_not_eq_zero_iff (x y : BitVec 512) : x &&& ~~~y = 0 ↔ ∀ p, p < 512 → x.getLsbD p = true → y.getLsbD p = true := by
  constructor
  · intro h p hp hx
    have := congrArg (·.getLsbD p) h
    simpa [hp, hx] using this
  · intro h
    apply BitVec.eq_of_getLsbD_eq
    intro p hp
    have := h p hp
    simp only [BitVec.getLsbD_and, BitVec.getLsbD_not, hp, decide_true, Bool.true_and]
    cases hx : x.getLsbD p <;> simp_all
theorem mcgOk_iff (s : State) (bay group : Nat) (members : BitVec 512) :
    (decide (group < 4096) && (match mget? s.mcg group with | some g => g.bay == bay | none => true) && decide (members &&& ~~~s.members = 0)) = true ↔
      group < 4096 ∧ (∀ g, mget? s.mcg group = some g → g.bay = bay) ∧ ∀ p, p < 512 → members.getLsbD p = true → s.members.getLsbD p = true := by
  rw [Bool.and_eq_true, Bool.and_eq_true, decide_eq_true_eq, decide_eq_true_eq, and_not_eq_zero_iff, and_assoc]
  refine and_congr_right fun _ => and_congr_left fun _ => ?_
  cases mget? s.mcg group <;> simp

theorem colsOnDie_length (s : State) (bay die : Nat) :
    (colsOnDie s bay die).length = ((List.range 16).filter (fun k => mget? s.cols (16 * die + k) == some bay)).length := by
  rw [colsOnDie, List.filter_map, List.length_map]
  rfl
theorem foldl_add_eq_sum {α : Type} (p : α → Prop) [DecidablePred p] (f : α → Nat) (l : List α) (n : Nat) :
    l.foldl (fun m x => if p x then m else m + f x) n = n + (l.map (fun x => if p x then 0 else f x)).sum := by
  induction l generalizing n with
  | nil => rfl
  | cons x l ih =>
    rw [List.foldl_cons, ih, List.map_cons, List.sum_cons]
    split <;> omega

theorem eaveOk_iff (s : State) (bay die e : Nat) {P : Prop} {n others : Nat}
    (hn : n = ((List.range 16).filter (fun k => mget? s.cols (16 * die + k) == some bay)).length)
    (ho : others = (s.bays.map (fun (x : Nat × Bay) => if x.1 = bay then 0 else mget x.2.eave die 0)).sum)
    (hP : P ↔ ∃ x ∈ s.stages, ∃ w ∈ x.2.writes, w.bay = bay ∧ w.die = die) :
    (decide (die < 2 ∧ 0 < (colsOnDie s bay die).length ∧ e % 8 = 0 ∧ e ≤ (s.bay bay).w * (colsOnDie s bay die).length ∧
        s.bays.foldl (fun m x => if x.1 = bay then m else m + mget x.2.eave die 0) 0 + e ≤ 128) &&
      !s.stages.any (fun x => x.2.writes.any (fun w => w.bay == bay && w.die == die))) = true ↔
    die < 2 ∧ 0 < n ∧ e % 8 = 0 ∧ e ≤ (s.bay bay).w * n ∧ others + e ≤ 128 ∧ ¬ P := by
  have hst : s.stages.any (fun x => x.2.writes.any (fun w => w.bay == bay && w.die == die)) = true ↔ P := by simp [hP]
  rw [foldl_add_eq_sum, Nat.zero_add, ← ho, colsOnDie_length, ← hn, Bool.and_eq_true, decide_eq_true_eq, Bool.not_eq_true', ← Bool.not_eq_true, hst]
  simp only [and_assoc]

theorem mcgSet_answers {s : State} {bay : Nat} (group : Nat) (members : BitVec 512) (hf : (s.bay bay).formed = true) {P : Prop}
    (hP : P ↔ group < 4096 ∧ (∀ g, mget? s.mcg group = some g → g.bay = bay) ∧ ∀ p, p < 512 → members.getLsbD p = true → s.members.getLsbD p = true) :
    (P → exec (.mcgSet bay group members) s = .next (serviceOk { s with mcg := mset s.mcg group { members := members, bay := bay } } bay "MCG_SET" 0)) ∧
    (¬ P → serviceFails (.mcgSet bay group members) s bay "MCG_SET") := by
  obtain ⟨hok, hno⟩ := service_of_iff (op := "MCG_SET") (by decide) hf ((mcgOk_iff s bay group members).trans hP.symm) 0
    { s with mcg := mset s.mcg group { members := members, bay := bay } }
  exact ⟨fun h => congrArg Host.Outcome.next (hok h), fun h => congrArg Host.Outcome.next (hno h)⟩
theorem eaveSet_answers {s : State} {bay : Nat} (die e : Nat) (hf : (s.bay bay).formed = true) {P : Prop}
    (hP : (decide (die < 2 ∧ 0 < (colsOnDie s bay die).length ∧ e % 8 = 0 ∧ e ≤ (s.bay bay).w * (colsOnDie s bay die).length ∧
        s.bays.foldl (fun m x => if x.1 = bay then m else m + mget x.2.eave die 0) 0 + e ≤ 128) &&
      !s.stages.any (fun x => x.2.writes.any (fun w => w.bay == bay && w.die == die))) = true ↔ P) :
    (P → exec (.eaveSet bay die e) s = .next (serviceOk (s.setBay bay { s.bay bay with eave := mset (s.bay bay).eave die e }) bay "EAVE_SET" 0)) ∧
    (¬ P → serviceFails (.eaveSet bay die e) s bay "EAVE_SET") := by
  obtain ⟨hok, hno⟩ := service_of_iff (op := "EAVE_SET") (by decide) hf hP 0 (s.updBay bay (fun y => { y with eave := mset y.eave die e }))
  exact ⟨fun h => congrArg Host.Outcome.next (hok h), fun h => congrArg Host.Outcome.next (hno h)⟩

/-! ## SOFFIT_SPLIT (R82) -/

theorem splitOk_iff (s : State) (bay w : Nat) :
    (decide (w ≤ 28) && !bayStaged s bay && ((s.bay bay).split == some w || !residentBlock s bay)) = true ↔
      w ≤ 28 ∧ (¬ ∃ e ∈ s.stages, ∃ y ∈ e.2.writes, y.bay = bay) ∧
        ((s.bay bay).split = some w ∨ ¬ ∃ c ∈ s.coresOf bay, ∃ e ∈ (s.core c).blocks, e.2.st ≠ .swapped) := by
  have hst : bayStaged s bay = true ↔ ∃ e ∈ s.stages, ∃ y ∈ e.2.writes, y.bay = bay := by simp [bayStaged]
  have hre : residentBlock s bay = true ↔ ∃ c ∈ s.coresOf bay, ∃ e ∈ (s.core c).blocks, e.2.st ≠ .swapped := by simp [residentBlock]
  rw [Bool.and_eq_true, Bool.and_eq_true, decide_eq_true_eq, Bool.or_eq_true, beq_iff_eq, Bool.not_eq_true', Bool.not_eq_true',
    ← Bool.not_eq_true, ← Bool.not_eq_true, hst, hre, and_assoc]

/-- The state in which a new W stands: the cache part of the bay's columns empty, and its windows open. -/
def splitDone (s : State) (bay w : Nat) : State :=
  let cols := (List.range 32).filter (fun g => mget? s.cols g == some bay)
  let s' := s.updBay bay (fun y => { y with split := some w })
  let t := (sofDropAll s' (fun g => cols.contains (homeOf s' (64 * g) / 8))).updBay bay (fun y => { y with w := w, eave := [] })
  if w = 0 then t else cols.foldl (undefWindow w) t

/-- Windows of columns of w MiB, each its own. -/
theorem mem_undefWindow_foldl {w : Nat} (hw : 0 < w) (hle : w ≤ 28) (cols : List Nat) (s : State) {g : Nat}
    (h : g ∈ cols ∨ ∃ u ∈ s.undef, u.lo = 0x10000000000 + g * 0x2000000 ∧ u.hi = u.lo + w * 2 ^ 20 - 1) :
    ∃ u ∈ (cols.foldl (undefWindow w) s).undef, u.lo = 0x10000000000 + g * 0x2000000 ∧ u.hi = u.lo + w * 2 ^ 20 - 1 := by
  induction cols generalizing s with
  | nil => exact h.resolve_left List.not_mem_nil
  | cons a cols ih =>
    refine ih (undefWindow w s a) ?_
    by_cases hag : g = a
    · exact .inr ⟨_, List.mem_cons_self, by rw [hag], rfl⟩
    · refine h.imp (fun hg => (List.mem_cons.1 hg).resolve_left hag) fun ⟨u, hu, hlo, hhi⟩ => ⟨u, List.mem_cons_of_mem _ (List.mem_filter.2 ⟨hu, ?_⟩), hlo, hhi⟩
      rw [Bool.not_eq_true', decide_eq_false_iff_not]
      omega

/-- t is s but for its open ranges. -/
theorem undefWindow_foldl_package (w : Nat) (cols : List Nat) (s : State) : { cols.foldl (undefWindow w) s with undef := s.undef } = s :=
  List.foldlRecOn (motive := fun t => ({ t with undef := s.undef } : State) = s) cols _ rfl fun t ht a _ =>
    (rfl : ({ undefWindow w t a with undef := s.undef } : State) = { t with undef := s.undef }).trans ht

theorem splitDone_effect (s : State) (bay w : Nat) : (splitDone s bay w).bay bay = { s.bay bay with w := w, eave := [], split := some w } ∧
    (splitDone s bay w).mem = s.mem ∧ (splitDone s bay w).cores = s.cores ∧ (splitDone s bay w).accs = s.accs ∧ (splitDone s bay w).svc = s.svc := by
  set s' := s.updBay bay (fun y => { y with split := some w }) with hs'
  set t := (sofDropAll s' (fun g => ((List.range 32).filter (fun g => mget? s.cols g == some bay)).contains (homeOf s' (64 * g) / 8))).updBay bay
    (fun y => { y with w := w, eave := [] }) with ht
  have hdrop := (partsOnly_sofDropAll s' (fun g => ((List.range 32).filter (fun g => mget? s.cols g == some bay)).contains (homeOf s' (64 * g) / 8))).package
  have htbay : t.bay bay = { s.bay bay with w := w, eave := [], split := some w } := by
    rw [ht, State.bay_updBay, if_pos rfl, State.bay, show (sofDropAll s' _).bays = s'.bays from (congrArg State.bays hdrop :), ← State.bay, hs',
      State.bay_updBay, if_pos rfl]
  have hpkg : ({ splitDone s bay w with undef := t.undef } : State) = t := by
    unfold splitDone
    dsimp only
    split
    · rfl
    · exact undefWindow_foldl_package w _ t
  refine ⟨?_, (congrArg State.mem hpkg :).trans (congrArg State.mem hdrop :), (congrArg State.cores hpkg :).trans (congrArg State.cores hdrop :),
    (congrArg State.accs hpkg :).trans (congrArg State.accs hdrop :), (congrArg State.svc hpkg :).trans (congrArg State.svc hdrop :)⟩
  rw [← htbay, State.bay, State.bay, (congrArg State.bays hpkg :)]

theorem splitDone_undef {s : State} {bay w g : Nat} (hw : 0 < w) (hle : w ≤ 28) (hg : g < 32) (hcol : mget? s.cols g = some bay) :
    ∃ u ∈ (splitDone s bay w).undef, u.lo = 0x10000000000 + g * 0x2000000 ∧ u.hi = u.lo + w * 2 ^ 20 - 1 := by
  unfold splitDone
  dsimp only
  rw [if_neg (by omega)]
  exact mem_undefWindow_foldl hw hle _ _ (.inl (List.mem_filter.2 ⟨List.mem_range.2 hg, by simp [hcol]⟩))

theorem soffitSplit_answers {s : State} {bay w : Nat} (hf : (s.bay bay).formed = true) {P : Prop}
    (hP : (decide (w ≤ 28) && !bayStaged s bay && ((s.bay bay).split == some w || !residentBlock s bay)) = true ↔ P) :
    (w = (s.bay bay).w → P → exec (.soffitSplit bay w) s = .next (serviceOk (s.setBay bay { s.bay bay with split := some w }) bay "SOFFIT_SPLIT" 0)) ∧
    (w ≠ (s.bay bay).w → P → exec (.soffitSplit bay w) s = .next (serviceOk (splitDone s bay w) bay "SOFFIT_SPLIT" 0)) ∧
    (¬ P → serviceFails (.soffitSplit bay w) s bay "SOFFIT_SPLIT") := by
  have hrun : exec (.soffitSplit bay w) s = .next (service s bay "SOFFIT_SPLIT"
      (decide (w ≤ 28) && !bayStaged s bay && ((s.bay bay).split == some w || !residentBlock s bay)) 0
      (if w = (s.bay bay).w then s.setBay bay { s.bay bay with split := some w } else splitDone s bay w)) := rfl
  obtain ⟨hok, hno⟩ := service_of_iff (op := "SOFFIT_SPLIT") (by decide) hf hP 0
    (if w = (s.bay bay).w then s.setBay bay { s.bay bay with split := some w } else splitDone s bay w)
  refine ⟨fun hw h => ?_, fun hw h => ?_, fun h => hrun.trans (congrArg Host.Outcome.next (hno h))⟩
  · rw [hrun, hok h, if_pos hw]
  · rw [hrun, hok h, if_neg hw]

/-! ## OBJ_TABLES (R103) -/

/-- A page for the frame table of N bytes beside an object table of X bytes at page o: there is one below it or after it. -/
theorem framePage_apart {X N o below above k : Nat} (hX : X ≤ 2 ^ 29) (hN : N ≤ 2 ^ 27) (ho : 65536 * o + X ≤ 2 ^ 39)
    (hb : below = if N ≤ 65536 * o then (65536 * o - N) / 65536 + 1 else 0) (ha : above = (2 ^ 39 - N) / 65536 + 1 - (o + (X + 65535) / 65536)) :
    0 < below + above ∧ (k < below + above → let ft := 65536 * (if k < below then k else o + (X + 65535) / 65536 + (k - below))
      ft + N ≤ 2 ^ 39 ∧ (65536 * o + X ≤ ft ∨ ft + N ≤ 65536 * o)) := by
  dsimp only
  split at hb
  · refine ⟨by omega, fun hk => ?_⟩
    split
    · omega
    · omega
  · refine ⟨by omega, fun hk => ?_⟩
    rw [if_neg (by omega)]
    omega

theorem tablePlace_spec (free : Nat) : let p := tablePlace free
    10 ≤ p.2.1 ∧ p.2.1 ≤ 24 ∧ 1 ≤ p.2.2.2 ∧ p.2.2.2 ≤ 2 ^ 22 ∧ p.1 % 65536 = 0 ∧ p.2.2.1 % 65536 = 0 ∧ p.1 + 32 * 2 ^ p.2.1 ≤ 2 ^ 39 ∧
      p.2.2.1 + 32 * p.2.2.2 ≤ 2 ^ 39 ∧ (p.1 + 32 * 2 ^ p.2.1 ≤ p.2.2.1 ∨ p.2.2.1 + 32 * p.2.2.2 ≤ p.1) := by
  unfold tablePlace
  generalize Config.objTables free = x
  obtain ⟨a, b, c, d⟩ := x
  dsimp only
  have hX : 32 * 2 ^ (10 + b % 15) ≤ 2 ^ 29 :=
    Nat.mul_le_mul_left 32 (Nat.pow_le_pow_right (by decide) (show 10 + b % 15 ≤ 24 by omega))
  generalize hXe : 32 * 2 ^ (10 + b % 15) = X at *
  have hend : hbmEnd = 2 ^ 39 := rfl
  rw [hend]
  have ho : a % ((2 ^ 39 - X) / 65536 + 1) ≤ (2 ^ 39 - X) / 65536 := Nat.lt_succ_iff.1 (Nat.mod_lt _ (Nat.succ_pos _))
  generalize a % ((2 ^ 39 - X) / 65536 + 1) = o at *
  have hn : 1 + d % 4194304 ≤ 2 ^ 22 := by omega
  obtain ⟨hpos, hft⟩ := framePage_apart (N := 32 * (1 + d % 4194304)) (k := c % _) hX (by omega) (show 65536 * o + X ≤ 2 ^ 39 by omega) rfl rfl
  obtain ⟨hle, hapart⟩ := hft (Nat.mod_lt _ hpos)
  exact ⟨by omega, by omega, by omega, hn, by omega, by omega, by omega, hle, hapart⟩

section
variable (s : State) (b status val : Nat) (op : String)
theorem answer_cores : (answer s b op status val).cores = s.cores := rfl
theorem answer_accs : (answer s b op status val).accs = s.accs := rfl
theorem answer_bay (c : Nat) : (answer s b op status val).bay c = s.bay c := rfl
theorem answer_readByte (a : Nat) : (answer s b op status val).readByte a = s.readByte a := rfl
theorem answer_tables : (answer s b "OBJ_TABLES" 0 0).svc = s.svc ++ [{
    bay := b, op := "OBJ_TABLES", status := 0, val := 0, tables := some ((s.bay b).otBase, (s.bay b).otb, (s.bay b).ftBase, (s.bay b).fcnt) }] := rfl
end

/-- A byte is 0 in a range that is emptied, and outside it as it was. -/
theorem memGet_zeroRange (s : State) (lo hi g : Nat) : memGet (zeroRange s lo hi).mem g = if lo ≤ g ∧ g < hi then 0 else memGet s.mem g := by
  have h : mget? (zeroRange s lo hi).mem g = if !decide (lo ≤ g ∧ g < hi) then mget? s.mem g else none :=
    mget?_filter_key (q := fun a => !decide (lo ≤ a ∧ a < hi)) (fun _ => rfl) s.mem g
  rw [memGet, mget, h]
  by_cases hg : lo ≤ g ∧ g < hi
  · simp [hg]
  · simp [hg, memGet, mget]
/-- No range that is open meets the one that is emptied; none begins to be open at a byte where none was. -/
theorem settled_zeroRange {s : State} {lo hi g : Nat} (h : lo ≤ g ∧ g < hi ∨ Settled s.undef g) : Settled (zeroRange s lo hi).undef g := by
  rw [Settled, List.find?_eq_none]
  intro u hu
  obtain ⟨v, hv, huv⟩ := List.mem_flatMap.1 hu
  have hopen : (lo ≤ g ∧ g < hi) ∨ ¬ (v.lo ≤ g ∧ g ≤ v.hi) := h.imp id fun hs => by simpa using List.find?_eq_none.1 hs v hv
  rw [decide_eq_true_eq]
  split at huv
  · rw [List.mem_singleton.1 huv]
    omega
  · rcases List.mem_append.1 huv with huv | huv
    · split at huv
      · rw [List.mem_singleton.1 huv]
        dsimp only
        omega
      · exact absurd huv List.not_mem_nil
    · split at huv
      · rw [List.mem_singleton.1 huv]
        dsimp only
        omega
      · exact absurd huv List.not_mem_nil

theorem zeroRange_bay (s : State) (lo hi b : Nat) : (zeroRange s lo hi).bay b = s.bay b := rfl

/-- The state in which a bay has its tables at a place, every byte of them 0 (R105). -/
def tablesGiven (s : State) (bay : Nat) (p : Nat × Nat × Nat × Nat) : State :=
  (zeroRange (zeroRange s.bumpFree p.1 (p.1 + 32 * 2 ^ p.2.1)) p.2.2.1 (p.2.2.1 + 32 * p.2.2.2)).updBay bay
    (fun y => { y with otBase := p.1, otb := p.2.1, ftBase := p.2.2.1, fcnt := p.2.2.2 })
/-- Whether the tables meet no table and no HDM range of a bay (R103). -/
def tablesFree (s : State) : Bool :=
  let p := tablePlace s.free
  !meetsTables s p.1 (32 * 2 ^ p.2.1) && !meetsTables s p.2.2.1 (32 * p.2.2.2) && !meetsHdm s p.1 (32 * 2 ^ p.2.1) && !meetsHdm s p.2.2.1 (32 * p.2.2.2)

theorem objTables_eq (s : State) (bay : Nat) : exec (.objTables bay) s = .next (
    if (s.bay bay).fcnt ≠ 0 then service s bay "OBJ_TABLES" true 0 s else service s bay "OBJ_TABLES" (tablesFree s) 0 (tablesGiven s bay (tablePlace s.free))) := rfl

/-- Tables asked for again are the same (R343). -/
theorem objTables_again {s : State} {bay : Nat} (hf : (s.bay bay).formed = true) (hn : (s.bay bay).fcnt ≠ 0) : exec (.objTables bay) s = .next { s with
    svc := s.svc ++ [{ bay := bay, op := "OBJ_TABLES", status := 0, val := 0, tables := some ((s.bay bay).otBase, (s.bay bay).otb, (s.bay bay).ftBase, (s.bay bay).fcnt) }] } := by
  rw [objTables_eq, if_pos hn, service_ok hf rfl]
  rfl
theorem objTables_new {s : State} {bay : Nat} (hf : (s.bay bay).formed = true) (hn : (s.bay bay).fcnt = 0) : exec (.objTables bay) s = .next (
    if tablesFree s then answer (tablesGiven s bay (tablePlace s.free)) bay "OBJ_TABLES" 0 0
    else { s with svc := s.svc ++ [{ bay := bay, op := "OBJ_TABLES", status := 2, val := 0 }] }) := by
  rw [objTables_eq, if_neg (not_not.2 hn)]
  split
  next h => rw [service_ok hf h]
  next h => rw [service_failed fun hn => h hn.2]

theorem tablesFree_of_none {s : State} (h : ∀ e ∈ s.bays, e.2.otb = 0 ∧ e.2.fcnt = 0 ∧ e.2.hdmLen = 0) : tablesFree s = true := by
  have htab : ∀ lo n, meetsTables s lo n = false := fun lo n => by
    rw [meetsTables, List.any_eq_false]
    intro e he
    obtain ⟨hotb, hfcnt, -⟩ := h e he
    simp [hotb, hfcnt]
  have hhdm : ∀ lo n, meetsHdm s lo n = false := fun lo n => by
    rw [meetsHdm, List.any_eq_false]
    intro e he
    simp [(h e he).2.2]
  simp [tablesFree, htab, hhdm]

section
variable (s : State) (bay : Nat) (p : Nat × Nat × Nat × Nat)
theorem tablesGiven_bay : (tablesGiven s bay p).bay bay = { s.bay bay with otBase := p.1, otb := p.2.1, ftBase := p.2.2.1, fcnt := p.2.2.2 } := by
  rw [tablesGiven, State.bay_updBay, if_pos rfl, zeroRange_bay, zeroRange_bay]
  rfl
theorem tablesGiven_leaves :
    (tablesGiven s bay p).cores = s.cores ∧ (tablesGiven s bay p).accs = s.accs ∧ (tablesGiven s bay p).svc = s.svc := by
  simp [tablesGiven, State.updBay, zeroRange, State.bumpFree]
theorem tablesGiven_zero {g : Nat} (h : (p.1 ≤ g ∧ g < p.1 + 32 * 2 ^ p.2.1) ∨ (p.2.2.1 ≤ g ∧ g < p.2.2.1 + 32 * p.2.2.2)) :
    (tablesGiven s bay p).readByte g = 0 := by
  have hset : Settled (tablesGiven s bay p).undef g := settled_zeroRange (h.symm.imp id fun h => settled_zeroRange (.inl h))
  rw [readByte_of_settled hset]
  refine (memGet_zeroRange ..).trans ?_
  split
  · rfl
  next hft => exact (memGet_zeroRange ..).trans (if_pos (h.resolve_right hft))
theorem tablesGiven_outside {g : Nat} (h : ¬ (p.1 ≤ g ∧ g < p.1 + 32 * 2 ^ p.2.1)) (h' : ¬ (p.2.2.1 ≤ g ∧ g < p.2.2.1 + 32 * p.2.2.2)) :
    memGet (tablesGiven s bay p).mem g = memGet s.mem g :=
  (memGet_zeroRange ..).trans ((if_neg h').trans ((memGet_zeroRange ..).trans (if_neg h)))
end

/-- What OBJ_TABLES gives a bay (R103, R105). -/
def TablesGive (s t : State) (bay : Nat) : Prop :=
  let y := t.bay bay
  t.svc = s.svc ++ [{ bay := bay, op := "OBJ_TABLES", status := 0, val := 0, tables := some (y.otBase, y.otb, y.ftBase, y.fcnt) }] ∧
    10 ≤ y.otb ∧ y.otb ≤ 24 ∧ 1 ≤ y.fcnt ∧ y.fcnt ≤ 2 ^ 22 ∧ y.otBase % 65536 = 0 ∧ y.ftBase % 65536 = 0 ∧
    y.otBase + 32 * 2 ^ y.otb ≤ 2 ^ 39 ∧ y.ftBase + 32 * y.fcnt ≤ 2 ^ 39 ∧ (y.otBase + 32 * 2 ^ y.otb ≤ y.ftBase ∨ y.ftBase + 32 * y.fcnt ≤ y.otBase) ∧
    { y with otBase := (s.bay bay).otBase, otb := (s.bay bay).otb, ftBase := (s.bay bay).ftBase, fcnt := (s.bay bay).fcnt } = s.bay bay ∧
    (∀ g, (y.otBase ≤ g ∧ g < y.otBase + 32 * 2 ^ y.otb) ∨ (y.ftBase ≤ g ∧ g < y.ftBase + 32 * y.fcnt) → t.readByte g = 0) ∧
    ∀ g, g < y.otBase ∨ y.otBase + 32 * 2 ^ y.otb ≤ g → g < y.ftBase ∨ y.ftBase + 32 * y.fcnt ≤ g → memGet t.mem g = memGet s.mem g

theorem tablesGive_tablesGiven (s : State) (bay : Nat) : TablesGive s (answer (tablesGiven s bay (tablePlace s.free)) bay "OBJ_TABLES" 0 0) bay := by
  obtain ⟨hotb, hotb', hn, hn', hot, hft, hotEnd, hftEnd, hapart⟩ := tablePlace_spec s.free
  generalize tablePlace s.free = p at *
  have hy := tablesGiven_bay s bay p
  rw [TablesGive, answer_bay, hy, answer_tables, hy, (tablesGiven_leaves s bay p).2.2]
  refine ⟨rfl, hotb, hotb', hn, hn', hot, hft, hotEnd, hftEnd, hapart, rfl, fun g hg => ?_, fun g ho hf => ?_⟩
  · rw [answer_readByte]
    exact tablesGiven_zero s bay p hg
  · rw [answer_mem]
    exact tablesGiven_outside s bay p (by dsimp only at ho; omega) (by dsimp only at hf; omega)

/-- Tables asked for the first time: given, or refused where they would meet another bay's; one place or the other, no core and no access changes. -/
theorem objTables_first {s : State} {bay : Nat} (hf : (s.bay bay).formed = true) (hn : (s.bay bay).fcnt = 0) :
    ∃ t : State, exec (.objTables bay) s = .next t ∧ t.cores = s.cores ∧ t.accs = s.accs ∧
      ((∀ e ∈ s.bays, e.2.otb = 0 ∧ e.2.fcnt = 0 ∧ e.2.hdmLen = 0) → TablesGive s t bay) ∧
      (TablesGive s t bay ∨ t = { s with svc := s.svc ++ [{ bay := bay, op := "OBJ_TABLES", status := 2, val := 0 }] }) := by
  rw [objTables_new hf hn]
  by_cases hfree : tablesFree s = true
  · rw [if_pos hfree]
    have hgive := tablesGive_tablesGiven s bay
    exact ⟨_, rfl, (answer_cores ..).trans (tablesGiven_leaves ..).1, (answer_accs ..).trans (tablesGiven_leaves ..).2.1, fun _ => hgive, .inl hgive⟩
  · rw [if_neg hfree]
    exact ⟨_, rfl, rfl, rfl, fun h => absurd (tablesFree_of_none h) hfree, .inr rfl⟩

/-! ## WALKER_SET (R319) -/

/-- A course that settling a core leaves, but for whether it is active and since when (R64). -/
theorem settleCore_course {s : State} {c k : Nat} {x : Course} (h : s.course? c k = some x) :
    ∃ y, (settleCore s c).course? c k = some y ∧ { y with active := x.active, since := x.since, cyc := x.cyc } = x := by
  unfold State.course? settleCore
  rw [State.core_updCore, if_pos rfl, Core.settle, mget?_map, show mget? (s.core c).courses k = some x from h]
  refine ⟨_, rfl, ?_⟩
  dsimp only
  split <;> rfl
theorem settleCore_course_none {s : State} {c k : Nat} (h : s.course? c k = none) : (settleCore s c).course? c k = none := by
  rw [State.course?, settleCore, State.core_updCore, if_pos rfl]
  exact mget?_settle_none h
theorem settleCore_mq (s : State) (c : Nat) : ((settleCore s c).core c).mq = (s.core c).mq := by
  rw [settleCore, State.core_updCore, if_pos rfl]
  rfl

/-- A core's walker restarts at its entry, and what it had in service waits again. -/
def walkerRestart (pc root : W64) (s : State) (c : Nat) : State :=
  settleCore ((s.setCourse c 511 { reservedCourse 511 pc { s := [(0, root)] } with since := s.t, cyc := coreCyc s c }).updCore c (fun co => { co with
    mq := co.mq.map (fun m => { m with service := false }) })) c

/-- What the restart of core c's walker comes to. -/
structure WalkerRestarted (s t : State) (c : Nat) (pc root : W64) : Prop where
  walker : ∃ x, t.course? c 511 = some x ∧ x.u.rs 0 = root ∧ ∀ l, l < 8 → (x.lane l).st = .ready ∧ (x.lane l).pc = pc
  queue : ∀ m ∈ (t.core c).mq, m.service = false
  others : ∀ k, k ≠ 511 → (s.course? c k = none → t.course? c k = none) ∧
    ∀ x, s.course? c k = some x → ∃ y, t.course? c k = some y ∧ { y with active := x.active, since := x.since, cyc := x.cyc } = x

theorem WalkerRestarted.congr {s s' t t' : State} {c : Nat} {pc root : W64} (h : WalkerRestarted s t c pc root) (hs : s'.core c = s.core c)
    (ht : t'.core c = t.core c) : WalkerRestarted s' t' c pc root := by
  have hs' : ∀ k, s'.course? c k = s.course? c k := fun k => by rw [State.course?, State.course?, hs]
  have ht' : ∀ k, t'.course? c k = t.course? c k := fun k => by rw [State.course?, State.course?, ht]
  refine ⟨ht' 511 ▸ h.walker, ht ▸ h.queue, fun k hk => ?_⟩
  rw [hs', ht']
  exact h.others k hk

theorem walkerRestart_core_ne (pc root : W64) (s : State) {c d : Nat} (h : d ≠ c) : (walkerRestart pc root s c).core d = s.core d := by
  simp [walkerRestart, settleCore, State.setCourse, h]
theorem walkerRestarted_walkerRestart (pc root : W64) (s : State) (c : Nat) : WalkerRestarted s (walkerRestart pc root s c) c pc root := by
  set x : Course := { reservedCourse 511 pc { s := [(0, root)] } with since := s.t, cyc := coreCyc s c } with hx
  set u := (s.setCourse c 511 x).updCore c (fun co => { co with mq := co.mq.map (fun m => { m with service := false }) }) with hu
  have hcourse : ∀ k, u.course? c k = if k = 511 then some x else s.course? c k := fun k => by
    have hkeep : u.course? c k = (s.setCourse c 511 x).course? c k := by
      rw [State.course?, hu, State.core_updCore, if_pos rfl]
      rfl
    rw [hkeep, State.course?_setCourse]
    simp only [true_and]
  have hrun : walkerRestart pc root s c = settleCore u c := rfl
  rw [hrun]
  refine ⟨?_, fun m hm => ?_, fun k hk => ⟨fun h => settleCore_course_none ?_, fun y hy => settleCore_course ?_⟩⟩
  · have hat : ReservedAt u c 511 pc { s := [(0, root)] } := ⟨x, (hcourse 511).trans (if_pos rfl), rfl, rfl, rfl⟩
    obtain ⟨y, hy, -, hyu, hl⟩ := (reservedAt_settleCore hat c).lane
    exact ⟨y, hy, by rw [hyu]; rfl, hl⟩
  · rw [settleCore_mq, hu, State.core_updCore, if_pos rfl] at hm
    obtain ⟨m', -, rfl⟩ := List.mem_map.1 hm
    rfl
  · rw [hcourse, if_neg hk, h]
  · rw [hcourse, if_neg hk, hy]

/-- A step taken once at each core of a list does to core c what the one step there does. -/
theorem foldl_cores_at {f : State → Nat → State} (hf : ∀ s c d, d ≠ c → (f s c).core d = s.core d) {l : List Nat} (hl : l.Nodup) {c : Nat} (hc : c ∈ l)
    (s : State) : ∃ u, u.core c = s.core c ∧ (l.foldl f s).core c = (f u c).core c := by
  have hskip : ∀ (l : List Nat) (s : State), c ∉ l → (l.foldl f s).core c = s.core c := fun l s hc =>
    List.foldlRecOn (motive := fun t : State => t.core c = s.core c) l f rfl fun t ht d hd => (hf t d c (ne_of_mem_of_not_mem hd hc).symm).trans ht
  obtain ⟨l₁, l₂, rfl⟩ := List.append_of_mem hc
  obtain ⟨-, hl₂, hdis⟩ := List.nodup_append'.1 hl
  refine ⟨l₁.foldl f s, hskip l₁ s fun h => hdis h List.mem_cons_self, ?_⟩
  rw [List.foldl_append, List.foldl_cons]
  exact hskip l₂ _ (List.nodup_cons.1 hl₂).1

/-- The bay's walkers restarted, with what is then in flight. -/
def walkersRestart (s : State) (bay : Nat) (pc root : W64) (accs : List Access) : State :=
  (s.coresOf bay).foldl (walkerRestart pc root) { s.updBay bay (fun y => { y with walkPc := pc, root := root }) with accs := accs }

theorem walkersRestart_leaves (s : State) (bay : Nat) (pc root : W64) (accs : List Access) : let t := walkersRestart s bay pc root accs
    t.svc = s.svc ∧ t.mem = s.mem ∧ t.bay bay = { s.bay bay with walkPc := pc, root := root } := by
  have h : ∀ u : State, let t := (s.coresOf bay).foldl (walkerRestart pc root) u
      t.svc = u.svc ∧ t.mem = u.mem ∧ t.bays = u.bays := fun u =>
    List.foldlRecOn (motive := fun t : State => t.svc = u.svc ∧ t.mem = u.mem ∧ t.bays = u.bays) _ _ ⟨rfl, rfl, rfl⟩ fun _ ht _ _ => ht
  obtain ⟨hsvc, hmem, hbays⟩ := h { s.updBay bay (fun y => { y with walkPc := pc, root := root }) with accs := accs }
  refine ⟨hsvc, hmem, ?_⟩
  rw [walkersRestart, State.bay, hbays]
  exact (State.bay_updBay s bay bay fun y => { y with walkPc := pc, root := root }).trans (if_pos rfl)
theorem walkersRestart_walkers (s : State) (bay : Nat) (pc root : W64) (accs : List Access) {c : Nat} (hc : c ∈ s.coresOf bay) :
    WalkerRestarted s (walkersRestart s bay pc root accs) c pc root := by
  obtain ⟨u, hu, hcore⟩ := foldl_cores_at (fun s _ _ => walkerRestart_core_ne pc root s) (coresOf_nodup s bay) hc
    { s.updBay bay (fun y => { y with walkPc := pc, root := root }) with accs := accs }
  exact (walkerRestarted_walkerRestart pc root u c).congr hu.symm hcore

theorem walkerSet_eq (s : State) (bay : Nat) (pc root : W64) : ∃ accs, exec (.walkerSet bay pc root) s =
    .next (service s bay "WALKER_SET" (decide (pc.toNat % 4 = 0 ∧ root.toNat % 65536 = 0)) 0 (walkersRestart s bay pc root accs)) := ⟨_, rfl⟩

theorem walkerSet_ok {s : State} {bay : Nat} {pc root : W64} (hf : (s.bay bay).formed = true) (hpc : pc.toNat % 4 = 0) (hroot : root.toNat % 65536 = 0) :
    ∃ t : State, exec (.walkerSet bay pc root) s = .next t ∧ t.svc = (serviceOk s bay "WALKER_SET" 0).svc ∧ t.mem = s.mem ∧
      t.bay bay = { s.bay bay with walkPc := pc, root := root } ∧ ∀ c ∈ s.coresOf bay, WalkerRestarted s t c pc root := by
  obtain ⟨accs, hrun⟩ := walkerSet_eq s bay pc root
  rw [hrun, service_ok hf (decide_eq_true ⟨hpc, hroot⟩), answer_plain (by decide)]
  obtain ⟨hsvc, hmem, hbay⟩ := walkersRestart_leaves s bay pc root accs
  exact ⟨_, rfl, congrArg (· ++ _) hsvc, hmem, hbay, fun c hc => (walkersRestart_walkers s bay pc root accs hc).congr rfl rfl⟩
theorem walkerSet_failed {s : State} {bay : Nat} {pc root : W64} (h : pc.toNat % 4 ≠ 0 ∨ root.toNat % 65536 ≠ 0) :
    serviceFails (.walkerSet bay pc root) s bay "WALKER_SET" := by
  obtain ⟨accs, hrun⟩ := walkerSet_eq s bay pc root
  refine hrun.trans (congrArg Host.Outcome.next (service_failed (fun hn => ?_) ..))
  obtain ⟨hpc, hroot⟩ := of_decide_eq_true hn.2
  exact h.elim (absurd hpc) (absurd hroot)

/-! ## OBJ_REVOKE (R384) -/

/-- The target of an address rests on the columns and on which bays are formed with which W alone (R83, R84). -/
theorem target?_congr {s t : State} (hcols : t.cols = s.cols) (hbay : ∀ b, (t.bay b).formed = (s.bay b).formed ∧ (t.bay b).w = (s.bay b).w) (pa : Nat) :
    target? t pa = target? s pa := by
  have hdie : ∀ b d, colsOnDie t b d = colsOnDie s b d := fun b d => by rw [colsOnDie, colsOnDie, hcols]
  simp only [target?, hdie, hcols, hbay]

/-- A name joins the bay's revocation list. -/
def listRevoked (s : State) (b : Nat) (e : Revoked) : State := s.updBay b (fun y => { y with revoked := y.revoked ++ [e] })
/-- The list's entry for a name. -/
def revokedOf (s : State) (b : Nat) (name : W128) : Revoked :=
  let f := probe s b name
  { name := nameOff name 0, frame := f.getD 0, gen := (f.map (frameGen s b)).getD 0, fv := f.isSome }
/-- The frame that holds the name, if one does, is revoked. -/
def frameRevoked (s : State) (b : Nat) : Option Nat → State
  | some f => setFrameState s b f 4
  | none => s

theorem nameKey_nameOff (name : W128) : nameKey (nameOff name 0) = nameKey name := by
  apply BitVec.eq_of_getLsbD_eq
  intro i hi
  have : ¬ 48 + i < 32 := by omega
  have : 32 + (48 + i - 32) = 48 + i := by omega
  simp [nameKey, nameOff, *]
  omega

section
variable (s : State) (b : Nat) (e : Revoked)
theorem listRevoked_bay (d : Nat) : (listRevoked s b e).bay d = if d = b then { s.bay d with revoked := (s.bay d).revoked ++ [e] } else s.bay d := by
  rw [listRevoked, State.bay_updBay]
theorem listRevoked_frameLow (f : Nat) : frameLow (listRevoked s b e) b f = frameLow s b f := by
  have haddr : frameAddr (listRevoked s b e) b f = frameAddr s b f := by rw [frameAddr, listRevoked_bay, if_pos rfl]; rfl
  rw [frameLow, haddr]
  rfl
theorem listRevoked_frameBad (f : Nat) : frameBad (listRevoked s b e) b f = frameBad s b f := by
  have hbay := listRevoked_bay s b e
  have haddr : frameAddr (listRevoked s b e) b f = frameAddr s b f := by rw [frameAddr, hbay, if_pos rfl]; rfl
  have hfcnt : ((listRevoked s b e).bay b).fcnt = (s.bay b).fcnt := by rw [hbay, if_pos rfl]
  have htarget : ∀ pa, target? (listRevoked s b e) pa = target? s pa := target?_congr rfl fun d => by
    rw [hbay]
    split
    · exact ⟨rfl, rfl⟩
    · exact ⟨rfl, rfl⟩
  have hbad : ∀ x, badSector (listRevoked s b e) x = badSector s x := fun x => by
    simp only [badSector, sofFind, sofDie, homeOf, htarget]
    rfl
  rw [frameBad, frameBad, hfcnt, haddr, hbad]
end

/-- No access of the state waits for an object. -/
def NoneParked (s : State) : Prop := ∀ a ∈ s.accs, a.ph ≠ .frame ∧ ∀ n, a.ph ≠ .name n

theorem failParked_of_none {s : State} (h : NoneParked s) (b : Nat) (f : Option Nat) (name : W128) (reason cause : Nat) :
    failParked s b f name reason cause = s := by
  rw [failParked]
  rw [List.filter_eq_nil_iff.2 ?_]
  · rfl
  · intro a ha
    obtain ⟨hframe, hname⟩ := h a ha
    rw [Bool.and_eq_true]
    rintro ⟨-, hph⟩
    split at hph
    next heq => exact hframe heq
    next n heq => exact hname n heq
    · cases hph

theorem frameRevoked_package (s : State) (b : Nat) (f : Option Nat) :
    { frameRevoked s b f with mem := s.mem, undef := s.undef, hist := s.hist, wrote := s.wrote } = s := by
  cases f with
  | none => rfl
  | some f => exact writeBytes_package s ..

/-- The step for a name that nothing waits for, whose frame, if it has one, is not being filled and can be read. -/
theorem revokeStep_idle {s : State} {b : Nat} {name : W128} (hparked : NoneParked s)
    (hframe : ∀ f, probe s b name = some f → frameState s b f ≠ 1 ∧ frameBad s b f = none) :
    revokeStep s b name = endReqs (frameRevoked (listRevoked s b (revokedOf s b name)) b (probe s b name)) b name := by
  have hnone : ∀ f, NoneParked (frameRevoked (listRevoked s b (revokedOf s b name)) b f) := fun f => by
    rw [NoneParked, (congrArg State.accs (frameRevoked_package (listRevoked s b (revokedOf s b name)) b f) :)]
    exact hparked
  rw [← failParked_of_none (hnone _) b (probe s b name) name 1 0]
  cases hp : probe s b name with
  | none =>
    unfold revokeStep revokedOf
    rw [hp]
    rfl
  | some f =>
    obtain ⟨hst, hbad⟩ := hframe f hp
    have hst' : frameState (listRevoked s b (revokedOf s b name)) b f ≠ 1 := by rwa [frameState, listRevoked_frameLow]
    have hbad' : frameBad (listRevoked s b (revokedOf s b name)) b f = none := by rwa [listRevoked_frameBad]
    have hentry : revokedOf s b name = { name := nameOff name 0, frame := f, gen := frameGen s b f, fv := true } := by rw [revokedOf, hp]; rfl
    rw [hentry] at hst' hbad' ⊢
    unfold revokeStep
    rw [hp]
    dsimp only [Option.getD_some, Option.map_some, Option.isSome_some]
    unfold listRevoked at hst' hbad'
    rw [if_neg hst', hbad']
    rfl


theorem endReqs_package (s : State) (b : Nat) (name : W128) : ({ endReqs s b name with cores := s.cores } : State) = s :=
  List.foldlRecOn (motive := fun t : State => ({ t with cores := s.cores } : State) = s) (s.coresOf b) _ rfl fun _ ht _ _ => ht

theorem endReqs_frameState (s : State) (b : Nat) (name : W128) (d f : Nat) : frameState (endReqs s b name) d f = frameState s d f :=
  List.foldlRecOn (motive := fun t : State => frameState t d f = frameState s d f) (s.coresOf b) _ rfl fun _ ht _ _ => ht

theorem bay_of_bays {s t : State} (h : t.bays = s.bays) (b : Nat) : t.bay b = s.bay b := by
  rw [State.bay, h]
  rfl

theorem frameState_setFrameState (s : State) (b f : Nat) : frameState (setFrameState s b f 4) b f = 4 := by
  have hlow : frameLow s b f < 2 ^ 64 := (leNum_lt (s.readBytes (frameAddr s b f) 8)).trans_eq (by simp [State.readBytes])
  have hset : setFrameState s b f 4 =
    s.writeBytes (frameAddr s b f) (natBytes 8 (frameLow s b f - frameLow s b f / 2 ^ 25 % 8 * 2 ^ 25 + 4 * 2 ^ 25)) := rfl
  rw [hset]
  generalize frameLow s b f = x at hlow ⊢
  generalize hn : x - x / 2 ^ 25 % 8 * 2 ^ 25 + 4 * 2 ^ 25 = n
  have haddr : frameAddr (s.writeBytes (frameAddr s b f) (natBytes 8 n)) b f = frameAddr s b f := by
    have hbays : (s.writeBytes (frameAddr s b f) (natBytes 8 n)).bays = s.bays :=
      (congrArg State.bays (writeBytes_package s (frameAddr s b f) (natBytes 8 n)) :)
    rw [frameAddr, bay_of_bays hbays]
    rfl
  have hread : frameLow (s.writeBytes (frameAddr s b f) (natBytes 8 n)) b f = n % 256 ^ 8 := by
    rw [frameLow, haddr]
    exact readNat_written rfl rfl
  rw [frameState, hread]
  omega

/-- What listing a name leaves (R384). -/
theorem revoked_result {s : State} {bay : Nat} {name : W128} (hparked : NoneParked s)
    (hframe : ∀ f, probe s bay name = some f → frameState s bay f ≠ 1 ∧ frameBad s bay f = none) : let t := revokeStep s bay name
    t.svc = s.svc ∧ (t.bay bay).revoked = (s.bay bay).revoked ++ [revokedOf s bay name] ∧ t.accs = s.accs ∧
      (∀ f, probe s bay name = some f → frameState t bay f = 4) ∧ (probe s bay name = none → t.mem = s.mem) := by
  rw [revokeStep_idle hparked hframe]
  set u := listRevoked s bay (revokedOf s bay name) with hu
  set v := frameRevoked u bay (probe s bay name) with hv
  have hvu := frameRevoked_package u bay (probe s bay name)
  rw [← hv] at hvu
  have htv := endReqs_package v bay name
  have hbays : (endReqs v bay name).bays = u.bays := (congrArg State.bays htv :).trans (congrArg State.bays hvu :)
  refine ⟨(congrArg State.svc htv :).trans (congrArg State.svc hvu :), ?_, (congrArg State.accs htv :).trans (congrArg State.accs hvu :), fun f hf => ?_, fun hnone => ?_⟩
  · rw [bay_of_bays hbays, hu, listRevoked_bay, if_pos rfl]
  · rw [endReqs_frameState, hv, hf]
    exact frameState_setFrameState u bay f
  · rw [endReqs_mem, hv, hnone]
    rfl

theorem objRevoke_eq (s : State) (bay : Nat) (name : W128) (op : Nat) : exec (.objRevoke bay name op) s = .next (
    let listed := (s.bay bay).revoked.any (fun e => nameKey e.name == nameKey name)
    if op = 0 then service s bay "OBJ_REVOKE" (listed || decide ((s.bay bay).revoked.length < 64)) 0 (if listed then s else revokeStep s bay name)
    else service s bay "OBJ_REVOKE" (op == 1) 0
      (s.updBay bay (fun y => { y with revoked := y.revoked.filter (fun e => nameKey e.name != nameKey name) }))) := rfl

section
variable {s : State} {bay : Nat} {name : W128} (hf : (s.bay bay).formed = true)
include hf

theorem objRevoke_listed (h : ∃ e ∈ (s.bay bay).revoked, nameKey e.name = nameKey name) :
    exec (.objRevoke bay name 0) s = .next (serviceOk s bay "OBJ_REVOKE" 0) := by
  have hany : (s.bay bay).revoked.any (fun e => nameKey e.name == nameKey name) = true := by simpa using h
  rw [objRevoke_eq, hany]
  exact congrArg Host.Outcome.next ((service_ok hf rfl ..).trans (answer_plain (by decide) ..))
theorem objRevoke_new (h : ¬ ∃ e ∈ (s.bay bay).revoked, nameKey e.name = nameKey name) (hroom : (s.bay bay).revoked.length < 64)
    (hparked : NoneParked s) (hframe : ∀ f, probe s bay name = some f → frameState s bay f ≠ 1 ∧ frameBad s bay f = none) :
    ∃ (t : State) (e : Revoked), exec (.objRevoke bay name 0) s = .next t ∧ t.svc = (serviceOk s bay "OBJ_REVOKE" 0).svc ∧
      (t.bay bay).revoked = (s.bay bay).revoked ++ [e] ∧ nameKey e.name = nameKey name ∧ e.fv = (probe s bay name).isSome ∧ t.accs = s.accs ∧
      (∀ f, probe s bay name = some f → e.frame = f ∧ e.gen = frameGen s bay f ∧ frameState t bay f = 4) ∧ (probe s bay name = none → t.mem = s.mem) := by
  have hany : (s.bay bay).revoked.any (fun e => nameKey e.name == nameKey name) = false := by simpa using h
  have hrun : exec (.objRevoke bay name 0) s = .next (serviceOk (revokeStep s bay name) bay "OBJ_REVOKE" 0) := by
    rw [objRevoke_eq, hany]
    exact congrArg Host.Outcome.next ((service_ok hf (by simpa using hroom) ..).trans (answer_plain (by decide) ..))
  obtain ⟨hsvc, hlist, haccs, hstate, hmem⟩ := revoked_result hparked hframe
  refine ⟨_, revokedOf s bay name, hrun, congrArg (· ++ _) hsvc, hlist, nameKey_nameOff name, rfl, haccs, fun f hp => ?_, hmem⟩
  refine ⟨?_, ?_, hstate f hp⟩
  · rw [revokedOf, hp]
    rfl
  · rw [revokedOf, hp]
    rfl
theorem objRevoke_lift : exec (.objRevoke bay name 1) s =
    .next (serviceOk (s.setBay bay { s.bay bay with revoked := (s.bay bay).revoked.filter (fun e => nameKey e.name != nameKey name) }) bay "OBJ_REVOKE" 0) :=
  congrArg Host.Outcome.next ((service_ok hf rfl ..).trans (answer_plain (by decide) ..))
end

theorem objRevoke_full {s : State} {bay : Nat} {name : W128} (h : ¬ ∃ e ∈ (s.bay bay).revoked, nameKey e.name = nameKey name)
    (hfull : 64 ≤ (s.bay bay).revoked.length) :
    serviceFails (.objRevoke bay name 0) s bay "OBJ_REVOKE" := by
  have hany : (s.bay bay).revoked.any (fun e => nameKey e.name == nameKey name) = false := by simpa using h
  rw [serviceFails, objRevoke_eq, hany]
  exact congrArg Host.Outcome.next (service_failed (fun hn => absurd hn.2 (by simpa using hfull)) ..)
theorem objRevoke_badOp {s : State} {bay : Nat} {name : W128} {op : Nat} (h : 1 < op) : serviceFails (.objRevoke bay name op) s bay "OBJ_REVOKE" := by
  rw [serviceFails, objRevoke_eq]
  dsimp only
  rw [if_neg (by omega)]
  exact congrArg Host.Outcome.next (service_failed (fun hn => absurd (beq_iff_eq.1 hn.2) (by omega)) ..)

/-! ## PAGE_REQUEST (R372, R425) -/

/-- The page request numbers that are free, and the one that is taken (log 17). -/
def freeIds (s : State) (bay : Nat) : List Nat := (List.range 64).filter (fun k => (mget? (s.bay bay).pages k).isNone)
def takenId (s : State) (bay : Nat) : Nat := (freeIds s bay).getD (Config.freeChoice s.free % (freeIds s bay).length) 0
/-- The request of a page, as it stands in the bay's table. -/
def pageReq (s : State) (bay : Nat) (vaddr paddr : W64) : PageReq := { vaddr := vaddr, paddr := paddr, treq := s.t, inc := (s.bay bay).inc }
/-- Whether a call meets what R372 asks of it. -/
def pageOk (s : State) (bay : Nat) (vaddr paddr : W64) : Bool :=
  let y := s.bay bay
  let code := y.ringB.toNat % 16
  decide (vaddr.toNat % 65536 = 0 ∧ paddr.toNat % 65536 = 0 ∧ 4 ≤ code ∧ code ≤ 12) &&
    decide (y.hdmBase ≤ paddr.toNat ∧ paddr.toNat + 65536 ≤ y.hdmBase + y.hdmLen) && !(freeIds s bay).isEmpty

theorem mem_freeIds {s : State} {bay k : Nat} : k ∈ freeIds s bay ↔ k < 64 ∧ mget? (s.bay bay).pages k = none := by simp [freeIds]
theorem takenId_free {s : State} {bay : Nat} (h : freeIds s bay ≠ []) : takenId s bay < 64 ∧ mget? (s.bay bay).pages (takenId s bay) = none := by
  have hlt : Config.freeChoice s.free % (freeIds s bay).length < (freeIds s bay).length := Nat.mod_lt _ (List.length_pos_of_ne_nil h)
  rw [← mem_freeIds, takenId, List.getD_eq_getElem _ _ hlt]
  exact List.getElem_mem hlt
theorem pageOk_iff (s : State) (bay : Nat) (vaddr paddr : W64) : pageOk s bay vaddr paddr = true ↔
    vaddr.toNat % 65536 = 0 ∧ paddr.toNat % 65536 = 0 ∧ 4 ≤ (s.bay bay).ringB.toNat % 16 ∧ (s.bay bay).ringB.toNat % 16 ≤ 12 ∧
      (s.bay bay).hdmBase ≤ paddr.toNat ∧ paddr.toNat + 65536 ≤ (s.bay bay).hdmBase + (s.bay bay).hdmLen ∧
      ∃ k, k < 64 ∧ mget? (s.bay bay).pages k = none := by
  have hfree : freeIds s bay ≠ [] ↔ ∃ k, k < 64 ∧ mget? (s.bay bay).pages k = none := by
    simp only [← mem_freeIds]
    exact ⟨List.exists_mem_of_ne_nil _, fun ⟨_, hk⟩ => List.ne_nil_of_mem hk⟩
  rw [← hfree]
  simp only [pageOk, Bool.and_eq_true, decide_eq_true_eq, Bool.not_eq_true', List.isEmpty_eq_false_iff, and_assoc]

theorem pageRequest_eq (s : State) (bay : Nat) (vaddr paddr : W64) (h : (s.bay bay).pages.find? (fun e => e.2.vaddr == vaddr) = none) :
    exec (.pageRequest bay vaddr paddr) s = .next (
      if s.hUp && !svcReady s (ringPa (s.bay bay)) 64 then s
      else service s bay "PAGE_REQUEST" (pageOk s bay vaddr paddr) (takenId s bay) (pageSend s.bumpFree bay (takenId s bay) (pageReq s bay vaddr paddr))) := by
  change execPageRequest bay vaddr paddr s = _
  rw [execPageRequest]
  dsimp only
  rw [h]
  rfl

/-- A page that is asked for already has its number (R343). -/
theorem pageRequest_again {s : State} {bay : Nat} {vaddr : W64} {r : Nat × PageReq} (hf : (s.bay bay).formed = true)
    (h : (s.bay bay).pages.find? (fun e => e.2.vaddr == vaddr) = some r) (paddr : W64) :
    exec (.pageRequest bay vaddr paddr) s = .next (serviceOk s bay "PAGE_REQUEST" r.1) := by
  change execPageRequest bay vaddr paddr s = _
  rw [execPageRequest]
  dsimp only
  rw [h]
  exact congrArg Host.Outcome.next ((service_ok hf rfl ..).trans (answer_plain (by decide) ..))

/-- A ring entry is 64 bytes of host memory. -/
theorem ringPa_place (y : Bay) : 0x100000000000 ≤ ringPa y ∧ SvcPlace (ringPa y) 64 := by
  have hlo : 0x100000000000 ≤ ringPa y := Nat.le_add_right ..
  refine ⟨hlo, .inr ⟨hlo, ?_⟩⟩
  rw [ringPa]
  generalize y.ringC.toNat % 2 ^ (y.ringB.toNat % 16) = n
  omega

/-- A page request message by its fields (R372). -/
theorem pageMsg_toNat (b : Nat) {rid : Nat} (h : rid < 256) (inc : BitVec 16) (r : PageReq) : (pageMsg b rid inc r).toNat =
    6 + 2 ^ 8 * (b % 16) + 2 ^ 16 * inc.toNat + 2 ^ 32 * rid + 2 ^ 320 * (r.treq % 2 ^ 64) + 2 ^ 384 * r.paddr.toNat + 2 ^ 448 * r.vaddr.toNat := by
  simp only [pageMsg, toNat_append_add, BitVec.ofNat_eq_ofNat, BitVec.toNat_ofNat]
  omega

/-- The request in the table of the bay. -/
def pageListed (s : State) (b rid : Nat) (r : PageReq) : State := s.updBay b (fun y => { y with pages := mset y.pages rid r })

theorem pageListed_bay (s : State) (b rid : Nat) (r : PageReq) : (pageListed s b rid r).bay b = { s.bay b with pages := mset (s.bay b).pages rid r } := by
  rw [pageListed, State.bay_updBay, if_pos rfl]
theorem pageListed_leaves (s : State) (b rid : Nat) (r : PageReq) :
    (pageListed s b rid r).hUp = s.hUp ∧ (pageListed s b rid r).svc = s.svc ∧ (pageListed s b rid r).mem = s.mem ∧ (pageListed s b rid r).out = s.out := by
  simp [pageListed, State.updBay]

/-- With port H down the request stands in the table alone (R418, log 119). -/
theorem pageSend_down {s : State} (h : s.hUp = false) (b rid : Nat) (r : PageReq) : pageSend s b rid r = pageListed s b rid r := by
  have hdown : (pageListed s b rid r).hUp = false := (pageListed_leaves ..).1.trans h
  exact if_pos (by rw [← pageListed, hdown]; rfl)
theorem pageSend_up {s : State} (h : s.hUp = true) (b rid : Nat) (r : PageReq) : ∃ out, pageSend s b rid r =
    { (svcStore (pageListed s b rid r) (ringPa (s.bay b)) (natBytes 64 (pageMsg b rid (s.bay b).inc r).toNat)).updBay b
      (fun y => { y with ringC := y.ringC + 1 }) with out := out } := by
  have hup : (pageListed s b rid r).hUp = true := (pageListed_leaves ..).1.trans h
  exact ⟨_, if_neg (by rw [← pageListed, hup]; decide)⟩

theorem pageSend_sent {s : State} (h : s.hUp = true) (b rid : Nat) (r : PageReq) : (pageSend s b rid r).svc = s.svc ∧
    (pageSend s b rid r).bay b = { s.bay b with pages := mset (s.bay b).pages rid r, ringC := (s.bay b).ringC + 1 } ∧
    (pageSend s b rid r).readNat (ringPa (s.bay b)) 64 = (pageMsg b rid (s.bay b).inc r).toNat := by
  obtain ⟨out, hsend⟩ := pageSend_up h b rid r
  have hlisted := pageListed_bay s b rid r
  have hsvc := (pageListed_leaves s b rid r).2.1
  rw [hsend]
  generalize pageListed s b rid r = u at hlisted hsvc
  generalize pageMsg b rid (s.bay b).inc r = m
  have hplace := (ringPa_place (s.bay b)).2
  have hread := svcStore_readNat u (x := m.toNat) hplace
  have hstored := (svcStored_svcStore u (b := natBytes 64 m.toNat) (by rwa [natBytes_length])).leaves
  generalize svcStore u (ringPa (s.bay b)) (natBytes 64 m.toNat) = v at hread hstored
  refine ⟨hstored.svc.trans hsvc, ?_, hread.trans (Nat.mod_eq_of_lt (m.isLt.trans_eq (pow_mul 2 8 64)))⟩
  have hbay : (v.updBay b (fun y => { y with ringC := y.ringC + 1 })).bay b = { u.bay b with ringC := (u.bay b).ringC + 1 } := by
    rw [State.bay_updBay, if_pos rfl, bay_of_bays hstored.bays]
  rw [hlisted] at hbay
  exact hbay

section
variable {s : State} {bay : Nat} {vaddr paddr : W64} (hf : (s.bay bay).formed = true) (hnew : ∀ e ∈ (s.bay bay).pages, e.2.vaddr ≠ vaddr)
include hnew

theorem pageRequest_new : exec (.pageRequest bay vaddr paddr) s = .next (
      if s.hUp && !svcReady s (ringPa (s.bay bay)) 64 then s
      else service s bay "PAGE_REQUEST" (pageOk s bay vaddr paddr) (takenId s bay) (pageSend s.bumpFree bay (takenId s bay) (pageReq s bay vaddr paddr))) :=
  pageRequest_eq s bay vaddr paddr (List.find?_eq_none.2 fun e he => by simpa using hnew e he)
/-- The message waits for the service core's fence (R272, log 62). -/
theorem pageRequest_waits (hup : s.hUp = true) (hfence : (mget s.services 0 {}).fence = true) : exec (.pageRequest bay vaddr paddr) s = .next s := by
  have hready : svcReady s (ringPa (s.bay bay)) 64 = false := by rw [svcReady, hfence]; rfl
  rw [pageRequest_new hnew, hready, hup]
  rfl
theorem pageRequest_goes (h : s.hUp = false ∨ ServiceFree s) : exec (.pageRequest bay vaddr paddr) s = .next (
    service s bay "PAGE_REQUEST" (pageOk s bay vaddr paddr) (takenId s bay) (pageSend s.bumpFree bay (takenId s bay) (pageReq s bay vaddr paddr))) := by
  rw [pageRequest_new hnew, if_neg]
  rw [Bool.and_eq_true, Bool.not_eq_true']
  rintro ⟨hup, hready⟩
  rcases h with hdown | hfree
  · rw [hup] at hdown
    cases hdown
  · rw [svcReady_of_free hfree (ringPa_place _).2 fun _ => hup] at hready
    cases hready
theorem pageRequest_failed (hok : ¬ pageOk s bay vaddr paddr = true) (h : s.hUp = false ∨ ServiceFree s) :
    serviceFails (.pageRequest bay vaddr paddr) s bay "PAGE_REQUEST" := by
  rw [serviceFails, pageRequest_goes hnew h]
  exact congrArg Host.Outcome.next (service_failed (fun hn => hok hn.2) ..)

include hf
theorem pageRequest_ok (hok : pageOk s bay vaddr paddr = true) (h : s.hUp = false ∨ ServiceFree s) :
    exec (.pageRequest bay vaddr paddr) s =
      .next (serviceOk (pageSend s.bumpFree bay (takenId s bay) (pageReq s bay vaddr paddr)) bay "PAGE_REQUEST" (takenId s bay)) := by
  rw [pageRequest_goes hnew h]
  exact congrArg Host.Outcome.next ((service_ok hf hok ..).trans (answer_plain (by decide) ..))
end

theorem pageOk_takenId {s : State} {bay : Nat} {vaddr paddr : W64} (h : pageOk s bay vaddr paddr = true) :
    takenId s bay < 64 ∧ mget? (s.bay bay).pages (takenId s bay) = none := by
  obtain ⟨-, -, -, -, -, -, k, hk⟩ := (pageOk_iff ..).1 h
  exact takenId_free (List.ne_nil_of_mem (mem_freeIds.2 hk))

section
variable {s : State} {bay : Nat} {vaddr paddr : W64} (hf : (s.bay bay).formed = true) (hnew : ∀ e ∈ (s.bay bay).pages, e.2.vaddr ≠ vaddr)
  (hok : pageOk s bay vaddr paddr = true)
include hf hnew hok

theorem pageRequest_down (hdown : s.hUp = false) : ∃ (t : State) (rid : Nat), exec (.pageRequest bay vaddr paddr) s = .next t ∧ rid < 64 ∧
    mget? (s.bay bay).pages rid = none ∧ t.svc = (serviceOk s bay "PAGE_REQUEST" rid).svc ∧
    t.bay bay = { s.bay bay with pages := mset (s.bay bay).pages rid (pageReq s bay vaddr paddr) } ∧ t.mem = s.mem ∧ t.out = s.out := by
  obtain ⟨hlt, hnone⟩ := pageOk_takenId hok
  have hrun := pageRequest_ok hf hnew hok (.inl hdown)
  generalize takenId s bay = rid at hlt hnone hrun
  rw [pageSend_down (s := s.bumpFree) hdown] at hrun
  obtain ⟨-, hsvc, hmem, hout⟩ := pageListed_leaves s.bumpFree bay rid (pageReq s bay vaddr paddr)
  exact ⟨_, rid, hrun, hlt, hnone, congrArg (· ++ _) hsvc, pageListed_bay s.bumpFree bay rid (pageReq s bay vaddr paddr), hmem, hout⟩
theorem pageRequest_up (hup : s.hUp = true) (hfree : ServiceFree s) : ∃ (t : State) (rid : Nat) (m : W512), exec (.pageRequest bay vaddr paddr) s = .next t ∧
    rid < 64 ∧ mget? (s.bay bay).pages rid = none ∧ t.svc = (serviceOk s bay "PAGE_REQUEST" rid).svc ∧
    mget? (t.bay bay).pages rid = some (pageReq s bay vaddr paddr) ∧ (t.bay bay).ringC = (s.bay bay).ringC + 1 ∧
    m.toNat = 6 + 2 ^ 8 * (bay % 16) + 2 ^ 16 * (s.bay bay).inc.toNat + 2 ^ 32 * rid + 2 ^ 320 * (s.t % 2 ^ 64) + 2 ^ 384 * paddr.toNat + 2 ^ 448 * vaddr.toNat ∧
    t.readNat (ringPa (s.bay bay)) 64 = m.toNat := by
  obtain ⟨hlt, hnone⟩ := pageOk_takenId hok
  have hrun := pageRequest_ok hf hnew hok (.inr hfree)
  generalize takenId s bay = rid at hlt hnone hrun
  obtain ⟨hsvc, hbay, hread⟩ := pageSend_sent (s := s.bumpFree) hup bay rid (pageReq s bay vaddr paddr)
  exact ⟨_, rid, _, hrun, hlt, hnone, congrArg (· ++ _) hsvc, (congrArg (fun y : Bay => mget? y.pages rid) hbay).trans (mget?_mset_self ..),
    congrArg Bay.ringC hbay, pageMsg_toNat bay (by omega) _ (pageReq s bay vaddr paddr), hread⟩
end

/-! ## PAGE_RELEASE (R375, R376) -/

/-- The granules of the page at p. -/
def insidePage (p g : Nat) : Bool := decide (p / 64 ≤ g ∧ g < p / 64 + 1024)
/-- No copy of the page stands, in a core or in a cache part. -/
def pageCleared (s : State) (p : Nat) : State :=
  sofDropAll { s with cores := s.cores.map (fun e => (e.1, e.2.keepCopies (fun g _ => !insidePage p g))) } (insidePage p)
/-- A lease of the page still runs. -/
def pageLeased (s : State) (p : Nat) : Bool :=
  ((List.range 1024).map (fun i => p / 64 + i)).any (fun g =>
    let l := mget s.leases g {}; decide (homeT s (homeOf s (64 * g)) < Nat.max l.l0 (Nat.max l.l1 l.lr)))
/-- What an ended agent has left is on its way to the page. -/
def pageMet (s : State) (p : Nat) : Bool :=
  s.accs.any (fun a => (match a.ag with | .orphan _ _ => true | _ => false) && (match a.ph with
    | .flight d => !isPeer d && canonPa s d / 65536 == p / 65536
    | _ => false))
/-- The calls that wait, but for one of this page. -/
def otherWaits (s : State) (bay p : Nat) : List (Nat × Nat) := s.svcWait.filter (fun w => w != (bay, p))
/-- Whether a page is the bay's own (R430, log 120). -/
def ownPage (s : State) (bay p : Nat) : Bool := decide ((s.bay bay).hdmBase ≤ p ∧ p + 65536 ≤ (s.bay bay).hdmBase + (s.bay bay).hdmLen)

theorem pageRelease_eq (s : State) (bay : Nat) (paddr : W64) : exec (.pageRelease bay paddr) s = .next (
    let p := paddr.toNat
    if p % 65536 ≠ 0 ∨ hbmEnd ≤ p ∨ ownPage s bay p = false then service s bay "PAGE_RELEASE" false 0 s
    else if pageLeased s p || pageMet s p then
      (if ((pageCleared s p).bay bay).formed then { pageCleared s p with svcWait := otherWaits s bay p ++ [(bay, p)] }
       else answer (pageCleared s p) bay "PAGE_RELEASE" 2 0)
    else service (pageCleared s p) bay "PAGE_RELEASE" true 0 { pageCleared s p with svcWait := otherWaits s bay p }) := rfl

theorem pageLeased_iff (s : State) (p : Nat) : pageLeased s p = true ↔ ∃ i, i < 1024 ∧ homeT s (homeOf s (64 * (p / 64 + i))) <
    max (mget s.leases (p / 64 + i) {}).l0 (max (mget s.leases (p / 64 + i) {}).l1 (mget s.leases (p / 64 + i) {}).lr) := by
  simp only [pageLeased, List.any_map, List.any_eq_true, List.mem_range, Function.comp_apply, decide_eq_true_eq]
theorem pageMet_iff (s : State) (p : Nat) : pageMet s p = true ↔ ∃ a ∈ s.accs, (∃ c b, a.ag = .orphan c b) ∧
    ∃ d, a.ph = .flight d ∧ isPeer d = false ∧ canonPa s d / 65536 = p / 65536 := by
  rw [pageMet, List.any_eq_true]
  refine exists_congr fun a => and_congr_right fun _ => ?_
  rw [Bool.and_eq_true]
  refine and_congr ?_ ?_
  · cases a.ag <;> simp
  · cases a.ph <;> simp

theorem pageCleared_leaves (s : State) (p : Nat) : (pageCleared s p).mem = s.mem ∧ (pageCleared s p).accs = s.accs ∧ (pageCleared s p).svc = s.svc ∧
    (pageCleared s p).bays = s.bays ∧ (pageCleared s p).cores = s.cores.map (fun e => (e.1, e.2.keepCopies (fun g _ => !insidePage p g))) := by
  have h := (partsOnly_sofDropAll { s with cores := s.cores.map (fun e => (e.1, e.2.keepCopies (fun g _ => !insidePage p g))) } (insidePage p)).package
  exact ⟨(congrArg State.mem h :), (congrArg State.accs h :), (congrArg State.svc h :), (congrArg State.bays h :), (congrArg State.cores h :)⟩
theorem pageCleared_copies {s : State} {p c : Nat} {e : Nat × Copy} (h : e ∈ ((pageCleared s p).core c).copies) :
    e ∈ (s.core c).copies ∧ (e.1 < p / 64 ∨ p / 64 + 1024 ≤ e.1) := by
  obtain ⟨-, -, -, -, hcores⟩ := pageCleared_leaves s p
  rw [State.core, hcores, mget, mget?_map (fun e : Nat × Core => e.2.keepCopies (fun g _ => !insidePage p g))] at h
  rw [State.core, mget]
  cases hc : mget? s.cores c with
  | none =>
    rw [hc] at h
    exact absurd h List.not_mem_nil
  | some co =>
    rw [hc] at h
    obtain ⟨hmem, hout⟩ := List.mem_filter.1 h
    refine ⟨hmem, ?_⟩
    simp only [insidePage, Bool.not_eq_true', decide_eq_false_iff_not] at hout
    omega
theorem pageCleared_parts {s : State} {p d g : Nat} (h : SofHeld (pageCleared s p) d g) : g < p / 64 ∨ p / 64 + 1024 ≤ g := by
  by_contra hin
  exact not_sofHeld_sofDropAll (decide_eq_true (by omega)) h

theorem pageRelease_failed {s : State} {bay : Nat} {paddr : W64}
    (h : paddr.toNat % 65536 ≠ 0 ∨ 2 ^ 39 ≤ paddr.toNat ∨ ¬ ((s.bay bay).hdmBase ≤ paddr.toNat ∧ paddr.toNat + 65536 ≤ (s.bay bay).hdmBase + (s.bay bay).hdmLen)) :
    serviceFails (.pageRelease bay paddr) s bay "PAGE_RELEASE" := by
  have hbad : paddr.toNat % 65536 ≠ 0 ∨ hbmEnd ≤ paddr.toNat ∨ ownPage s bay paddr.toNat = false := h.imp id (Or.imp id decide_eq_false)
  rw [serviceFails, pageRelease_eq]
  dsimp only
  rw [if_pos hbad]
  exact congrArg Host.Outcome.next (service_failed (fun hn => absurd hn.2 Bool.false_ne_true) ..)
theorem pageRelease_own {s : State} {bay : Nat} {paddr : W64} (hf : (s.bay bay).formed = true) (halign : paddr.toNat % 65536 = 0) (hlt : paddr.toNat < 2 ^ 39)
    (hown : (s.bay bay).hdmBase ≤ paddr.toNat ∧ paddr.toNat + 65536 ≤ (s.bay bay).hdmBase + (s.bay bay).hdmLen) :
    exec (.pageRelease bay paddr) s = .next (
      if pageLeased s paddr.toNat || pageMet s paddr.toNat then
        { pageCleared s paddr.toNat with svcWait := otherWaits s bay paddr.toNat ++ [(bay, paddr.toNat)] }
      else serviceOk { pageCleared s paddr.toNat with svcWait := otherWaits s bay paddr.toNat } bay "PAGE_RELEASE" 0) := by
  obtain ⟨-, -, -, hbays, -⟩ := pageCleared_leaves s paddr.toNat
  have hf' : ((pageCleared s paddr.toNat).bay bay).formed = true := by rw [bay_of_bays hbays, hf]
  have hgo : ¬ (paddr.toNat % 65536 ≠ 0 ∨ hbmEnd ≤ paddr.toNat ∨ ownPage s bay paddr.toNat = false) := by
    rw [ownPage, decide_eq_true hown]
    rintro (h | h | h)
    · exact h halign
    · exact absurd hlt (Nat.not_lt.2 h)
    · cases h
  rw [pageRelease_eq]
  dsimp only
  rw [if_neg hgo, if_pos hf', service_ok hf' rfl, answer_plain (by decide)]
  rfl
theorem pageRelease_result {s : State} {bay : Nat} {paddr : W64} (hf : (s.bay bay).formed = true) (halign : paddr.toNat % 65536 = 0) (hlt : paddr.toNat < 2 ^ 39)
    (hown : (s.bay bay).hdmBase ≤ paddr.toNat ∧ paddr.toNat + 65536 ≤ (s.bay bay).hdmBase + (s.bay bay).hdmLen) : ∃ t : State,
    exec (.pageRelease bay paddr) s = .next t ∧ t.mem = s.mem ∧ t.accs = s.accs ∧
      (∀ c e, e ∈ (t.core c).copies → e ∈ (s.core c).copies ∧ (e.1 < paddr.toNat / 64 ∨ paddr.toNat / 64 + 1024 ≤ e.1)) ∧
      (∀ d g, SofHeld t d g → g < paddr.toNat / 64 ∨ paddr.toNat / 64 + 1024 ≤ g) ∧
      (pageLeased s paddr.toNat = false → pageMet s paddr.toNat = false →
        t.svc = (serviceOk s bay "PAGE_RELEASE" 0).svc ∧ t.svcWait = otherWaits s bay paddr.toNat) ∧
      (pageLeased s paddr.toNat = true ∨ pageMet s paddr.toNat = true → t.svc = s.svc ∧ t.svcWait = otherWaits s bay paddr.toNat ++ [(bay, paddr.toNat)]) := by
  obtain ⟨hmem, haccs, hsvc, -, -⟩ := pageCleared_leaves s paddr.toNat
  rw [pageRelease_own hf halign hlt hown]
  by_cases hwait : (pageLeased s paddr.toNat || pageMet s paddr.toNat) = true
  · rw [if_pos hwait]
    refine ⟨_, rfl, hmem, haccs, fun c e => pageCleared_copies, fun d g => pageCleared_parts, fun hl hm => ?_, fun _ => ⟨hsvc, rfl⟩⟩
    rw [hl, hm] at hwait
    cases hwait
  · rw [if_neg hwait]
    exact ⟨_, rfl, hmem, haccs, fun c e => pageCleared_copies, fun d g => pageCleared_parts, fun _ _ => ⟨congrArg (· ++ _) hsvc, rfl⟩,
      fun h => absurd (Bool.or_eq_true_iff.2 h) hwait⟩

/-- Settles O53: one lemma a service; OK and FAILED are the two sides of `service_of_iff`. -/
theorem serviceResults : Obligations.ServiceResults := by
  unfold Obligations.ServiceResults
  refine ⟨?split, ?tables, ?newTables, ?layout, ?entry, ?group, ?eave, ?walker, ?revoke, ?again, ?page, ?release, ?unformed⟩
  case split =>
    intro s bay w hf staged resident
    obtain ⟨hsame, hother, hno⟩ := soffitSplit_answers (w := w) hf (splitOk_iff s bay w)
    refine ⟨fun hw hle hst hre => hsame hw ⟨hle, hst, hre⟩, fun hw hle hst hre => ?_, fun h => hno ?_⟩
    · obtain ⟨hbay, hmem, hcores, haccs, hsvc⟩ := splitDone_effect s bay w
      exact ⟨_, hother hw ⟨hle, hst, .inr hre⟩, congrArg (· ++ _) hsvc, hbay, hmem, hcores, haccs, fun hpos g hg hcol => splitDone_undef hpos hle hg hcol⟩
    · rintro ⟨hle, hst, hre⟩
      rcases h with h | h | ⟨hne, hres⟩
      · omega
      · exact hst h
      · exact hre.elim hne fun hn => hn hres
  case tables => exact fun s bay => objTables_again
  case newTables => exact fun s bay => objTables_first
  case layout => exact fun s bay base slots => layoutBase_answers base slots
  case entry => exact fun s bay idx entry hf => exportSet_answers idx entry hf (exportOk_iff idx entry)
  case group => exact fun s bay group members hf => mcgSet_answers group members hf Iff.rfl
  case eave => exact fun s bay die e hf => eaveSet_answers die e hf (eaveOk_iff s bay die e rfl rfl Iff.rfl)
  case walker =>
    intro s bay pc root hf
    refine ⟨fun hpc hroot => ?_, walkerSet_failed⟩
    obtain ⟨t, hrun, hsvc, hmem, hbay, hwalk⟩ := walkerSet_ok hf hpc hroot
    exact ⟨t, hrun, hsvc, hmem, hbay, fun c hc => ⟨(hwalk c hc).walker, (hwalk c hc).queue, (hwalk c hc).others⟩⟩
  case revoke => exact fun s bay name hf => ⟨objRevoke_listed hf, objRevoke_full, objRevoke_new hf, objRevoke_lift hf, fun op => objRevoke_badOp⟩
  case again => exact fun s bay vaddr paddr r hf h => pageRequest_again hf h paddr
  case page =>
    intro s bay vaddr paddr hf hnew ok
    have hok : pageOk s bay vaddr paddr = true ↔ ok := pageOk_iff s bay vaddr paddr
    exact ⟨pageRequest_waits hnew, fun h => pageRequest_down hf hnew (hok.2 h), fun h => pageRequest_up hf hnew (hok.2 h),
      fun h => pageRequest_failed hnew fun hn => h (hok.1 hn)⟩
  case release =>
    intro s bay paddr hf p leaseEnd now waits own left
    refine ⟨pageRelease_failed, fun halign hlt hown => ?_⟩
    obtain ⟨t, hrun, hmem, haccs, hcopies, hparts, hdone, hwait⟩ := pageRelease_result hf halign hlt hown
    refine ⟨t, hrun, hmem, haccs, hcopies, hparts, fun hleases hleft => hdone ?_ ?_, fun h => hwait ?_⟩
    · rw [← Bool.not_eq_true, pageLeased_iff]
      exact fun ⟨i, hi, hrunning⟩ => absurd (hleases i hi) (Nat.not_le.2 hrunning)
    · rw [← Bool.not_eq_true, pageMet_iff]
      exact fun ⟨a, ha, hmet⟩ => hleft a ha hmet
    · rwa [pageLeased_iff, pageMet_iff]
  case unformed =>
    intro s bay hf
    have hno : ∀ op ok val k, Host.Outcome.next (φ := Fault) (ρ := Refusal) (service s bay op ok val k) = _ := fun op ok val k =>
      congrArg Host.Outcome.next (service_unformed hf op ok val k)
    refine ⟨?_, fun w => hno .., fun b n => hno .., fun i e => hno .., fun g m => hno .., fun d e => hno .., fun p r => hno .., fun n op => ?_⟩
    · rw [serviceFails, objTables_eq]
      split
      · exact hno ..
      · exact hno ..
    · rw [serviceFails, objRevoke_eq]
      dsimp only
      split
      · exact hno ..
      · exact hno ..

end Sys2Proof.Machine
end

/-!
The management commands (R427 to R431; O52). A command's word is read once (`command_run` and its siblings); a step at a bay, of formation or of its end,
leaves the other bays as they stand (`BayStep`), so that a fold of such steps does to each bay what one does; an image's bytes parse back to it.
-/

section
namespace Sys2Proof.Machine

/-! ## Commands and their answers (R429) -/

/-- An answer's fields, one after another. -/
theorem answerWord_toNat (cmd : W512) {status reason : Nat} (hs : status < 256) (hr : reason < 256) :
    ((0 : BitVec 480) ++ BitVec.ofNat 16 (cmd.toNat / 2 ^ 16) ++ BitVec.ofNat 8 reason ++ BitVec.ofNat 8 status).toNat =
      status + 2 ^ 8 * reason + 2 ^ 16 * (cmd.toNat / 2 ^ 16 % 2 ^ 16) := by
  simp only [toNat_append_add, BitVec.ofNat_eq_ofNat, BitVec.toNat_ofNat]
  omega
theorem cmdAns_eq (s : State) (cmd : W512) {status reason : Nat} (hs : status < 256) (hr : reason < 256) :
    cmdAns s cmd status reason = Answered s cmd status reason := by
  have hans : (0 : BitVec 480) ++ BitVec.ofNat 16 (cmd.toNat / 2 ^ 16) ++ BitVec.ofNat 8 reason ++ BitVec.ofNat 8 status =
      BitVec.ofNat 512 (status + 2 ^ 8 * reason + 2 ^ 16 * (cmd.toNat / 2 ^ 16 % 2 ^ 16)) := by
    rw [← answerWord_toNat cmd hs hr, BitVec.ofNat_toNat, BitVec.setWidth_eq]
  exact congrArg (fun a => ({ s with cmd := none, ans := a } : State)) hans

section
variable {s : State} {cmd : W512} {op : Nat} {zero : List (Nat × Nat)}

/-- A command that Zhesor root takes up: it runs, and no other is pending. -/
theorem command_taken (hroot : RootRuns s) (hpend : s.cmd = none ∨ s.cmd = some cmd) (hop : cmd.toNat % 256 = op) :
    ¬ (rootRuns s = false ∨ s.cmd.isSome ∧ s.cmd ≠ some cmd ∨ cmdField cmd 0 8 ≠ op) := by
  rw [(rootRuns_iff s).2 hroot]
  rintro (h | ⟨hsome, hne⟩ | h)
  · cases h
  · rcases hpend with hp | hp
    · rw [hp] at hsome
      cases hsome
    · exact hne hp
  · exact h (by rw [cmdField, pow_zero, Nat.div_one]; exact hop)
theorem command_run (h : Executable s cmd op zero) (k : State) : command s cmd op zero k = k := by
  obtain ⟨hroot, hpend, hop, h8, h32, hzero⟩ := h
  have hnone : ((8, 8) :: (32, 32) :: zero).any (fun f => cmdField cmd f.1 f.2 != 0) = false := by
    rw [List.any_eq_false]
    intro f hf
    rw [bne_iff_ne, not_not]
    rcases List.mem_cons.1 hf with rfl | hf
    · exact h8
    · rcases List.mem_cons.1 hf with rfl | hf
      · exact h32
      · exact hzero f hf
  rw [command, if_neg (command_taken hroot hpend hop), if_neg (by rw [hnone]; exact Bool.false_ne_true)]
/-- A field that must be zero and is not fails the command. -/
theorem command_nonzero (hroot : RootRuns s) (hpend : s.cmd = none ∨ s.cmd = some cmd) (hbad : cmd.toNat / 2 ^ 8 % 2 ^ 8 ≠ 0 ∨ cmd.toNat / 2 ^ 32 % 2 ^ 32 ≠ 0)
    (hop : cmd.toNat % 256 = op) (zero : List (Nat × Nat)) (k : State) : command s cmd op zero k = Answered s cmd 2 1 := by
  have hsome : ((8, 8) :: (32, 32) :: zero).any (fun f => cmdField cmd f.1 f.2 != 0) = true := by
    rw [List.any_cons, List.any_cons, Bool.or_eq_true, Bool.or_eq_true, bne_iff_ne, bne_iff_ne]
    exact hbad.imp id .inl
  rw [command, if_neg (command_taken hroot hpend hop), if_pos hsome, cmdAns_eq s cmd (by decide) (by decide)]
theorem command_skipped (h : ¬ RootRuns s ∨ (s.cmd ≠ none ∧ s.cmd ≠ some cmd)) (op : Nat) (zero : List (Nat × Nat)) (k : State) :
    command s cmd op zero k = s := by
  refine if_pos (h.imp (fun hr => ?_) fun hp => .inl ⟨Option.isSome_iff_ne_none.2 hp.1, hp.2⟩)
  rw [← Bool.not_eq_true, rootRuns_iff]
  exact hr
end

/-! ## Images that are accepted (R427, R430) -/

theorem meetsTables_eq_false_iff (s : State) (lo n : Nat) : meetsTables s lo n = false ↔ ∀ e ∈ s.bays,
    (e.2.otb ≠ 0 → lo + n ≤ e.2.otBase ∨ e.2.otBase + 32 * 2 ^ e.2.otb ≤ lo) ∧ (e.2.fcnt ≠ 0 → lo + n ≤ e.2.ftBase ∨ e.2.ftBase + 32 * e.2.fcnt ≤ lo) := by
  rw [meetsTables, List.any_eq_false]
  refine forall₂_congr fun e _ => ?_
  simp only [Bool.or_eq_true, Bool.and_eq_true, bne_iff_ne, decide_eq_true_eq]
  constructor
  · exact fun h => ⟨fun ho => by by_contra hc; exact h (.inl ⟨ho, by omega⟩), fun hf => by by_contra hc; exact h (.inr ⟨hf, by omega⟩)⟩
  · rintro ⟨ho, hf⟩ (⟨h, hmeet⟩ | ⟨h, hmeet⟩)
    · have := ho h
      omega
    · have := hf h
      omega
theorem imageOk_iff (s : State) (i : BootImage) : imageOk s i = true ↔ Accepted s i := by
  have hend : hbmEnd = 2 ^ 39 := rfl
  simp only [imageOk, Accepted, hend, Bool.and_eq_true, decide_eq_true_eq, List.all_eq_true, Bool.not_eq_true', meetsTables_eq_false_iff, and_assoc]

/-! ## A step at one bay, of its end or of its formation (R428) -/

/-- A bay of u has no tables, or has those of a bay of s. -/
def TablesWithin (s u : State) : Prop := ∀ e ∈ u.bays, (e.2.otb = 0 ∧ e.2.fcnt = 0) ∨
  ∃ d ∈ s.bays, d.2.otb = e.2.otb ∧ d.2.otBase = e.2.otBase ∧ d.2.fcnt = e.2.fcnt ∧ d.2.ftBase = e.2.ftBase

theorem TablesWithin.of_bays {s u : State} (h : u.bays = s.bays) : TablesWithin s u := fun e he => .inr ⟨e, h ▸ he, rfl, rfl, rfl, rfl⟩
theorem TablesWithin.trans {s t u : State} (h : TablesWithin s t) (h' : TablesWithin t u) : TablesWithin s u := fun e he => by
  rcases h' e he with hnone | ⟨d, hd, hotb, hot, hfcnt, hft⟩
  · exact .inl hnone
  · rcases h d hd with ⟨ho, hf⟩ | ⟨d', hd', hotb', hot', hfcnt', hft'⟩
    · exact .inl ⟨hotb ▸ ho, hfcnt ▸ hf⟩
    · exact .inr ⟨d', hd', hotb'.trans hotb, hot'.trans hot, hfcnt'.trans hfcnt, hft'.trans hft⟩
/-- A bay of the state is listed, or it is as a bay is that was never formed. -/
theorem bay_listed (s : State) (b : Nat) : s.bay b = {} ∨ (b, s.bay b) ∈ s.bays := by
  rw [State.bay, mget]
  cases h : mget? s.bays b with
  | none => exact .inl rfl
  | some y => exact .inr (mem_of_mget? h)
/-- A bay rewritten with no tables, or with those that it has. -/
theorem tablesWithin_setBay (s : State) (b : Nat) (y : Bay) (h : (y.otb = 0 ∧ y.fcnt = 0) ∨ ((s.bay b).otb = y.otb ∧ (s.bay b).otBase = y.otBase ∧
    (s.bay b).fcnt = y.fcnt ∧ (s.bay b).ftBase = y.ftBase)) : TablesWithin s (s.setBay b y) := fun e he => by
  rcases mem_mset (show e ∈ mset s.bays b y from he) with rfl | hold
  · rcases h with h | ⟨hotb, hot, hfcnt, hft⟩
    · exact .inl h
    · rcases bay_listed s b with hnew | hlisted
      · rw [hnew] at hotb hfcnt
        exact .inl ⟨hotb.symm, hfcnt.symm⟩
      · exact .inr ⟨_, hlisted, hotb, hot, hfcnt, hft⟩
  · exact .inr ⟨e, hold, rfl, rfl, rfl, rfl⟩

/-- An image that is accepted stays so while no bay gets tables. -/
theorem Accepted.mono {s u : State} {i : BootImage} (h : Accepted s i) (ht : TablesWithin s u) : Accepted u i := by
  obtain ⟨hsig, hzero, hver, hlo, hhi, hroot, hrootEnd, hwalk, hwalkEnd, hsv, hruns⟩ := h
  refine ⟨hsig, hzero, hver, hlo, hhi, hroot, hrootEnd, hwalk, hwalkEnd, hsv, fun r hr => ?_⟩
  obtain ⟨halign, hlen, hpos, hend, hapart⟩ := hruns r hr
  refine ⟨halign, hlen, hpos, hend, fun e he => ?_⟩
  rcases ht e he with ⟨hotb, hfcnt⟩ | ⟨d, hd, hotb, hot, hfcnt, hft⟩
  · exact ⟨absurd hotb, absurd hfcnt⟩
  · rw [← hotb, ← hot, ← hfcnt, ← hft]
    exact hapart d hd

/-- A step at bay b: the platform, the other bays and what is known of their images stand. -/
structure BayStep (s t : State) (b : Nat) : Prop where
  only : OnlyBay s t b
  err : ∀ d, d ≠ b → (d ∈ t.booterr ↔ d ∈ s.booterr)
  loaded : ∀ d, d ≠ b → mget? t.loaded d = mget? s.loaded d
  flash : t.flash = s.flash
  tables : TablesWithin s t

theorem BayStep.refl (s : State) (b : Nat) : BayStep s s b := ⟨OnlyBay.refl s b, fun _ _ => Iff.rfl, fun _ _ => rfl, rfl, .of_bays rfl⟩
theorem BayStep.trans {s t u : State} {b : Nat} (h : BayStep s t b) (h' : BayStep t u b) : BayStep s u b where
  only := h.only.trans h'.only
  err := fun d hd => (h'.err d hd).trans (h.err d hd)
  loaded := fun d hd => (h'.loaded d hd).trans (h.loaded d hd)
  flash := h'.flash.trans h.flash
  tables := h.tables.trans h'.tables
/-- A step that leaves the images as they are. -/
theorem OnlyBay.bayStep {s t : State} {b : Nat} (h : OnlyBay s t b) (herr : t.booterr = s.booterr) (hloaded : t.loaded = s.loaded) (hflash : t.flash = s.flash)
    (ht : TablesWithin s t) : BayStep s t b :=
  ⟨h, fun _ _ => by rw [herr], fun _ _ => by rw [hloaded], hflash, ht⟩
/-- A step that leaves the platform, the bays, the cores and the images. -/
theorem bayStep_of_board {s t : State} (h : t.board = s.board) (herr : t.booterr = s.booterr) (hloaded : t.loaded = s.loaded) (hflash : t.flash = s.flash)
    (b : Nat) : BayStep s t b :=
  ((OnlyBay.refl s b).of_board h).bayStep herr hloaded hflash (.of_bays (congrArg (fun x => x.2.1) h))
theorem bayStep_updCore {s : State} {b c : Nat} (hc : c ∈ s.coresOf b) (f : Core → Core) : BayStep s (s.updCore c f) b :=
  (onlyBay_updCore (.inl hc) f).bayStep rfl rfl rfl (.of_bays rfl)
theorem bayStep_setBay (s : State) (b : Nat) (y : Bay) (h : (y.otb = 0 ∧ y.fcnt = 0) ∨ ((s.bay b).otb = y.otb ∧ (s.bay b).otBase = y.otBase ∧
    (s.bay b).fcnt = y.fcnt ∧ (s.bay b).ftBase = y.ftBase)) : BayStep s (s.setBay b y) b :=
  (onlyBay_updBay s b fun _ => y).bayStep rfl rfl rfl (tablesWithin_setBay s b y h)
/-- A fold of steps at one bay. -/
theorem BayStep.foldl {s : State} {b : Nat} {α : Type} {f : State → α → State} {l : List α}
    (h : ∀ t x, t.coresOf b = s.coresOf b → x ∈ l → BayStep t (f t x) b) : BayStep s (l.foldl f s) b :=
  List.foldlRecOn (motive := fun t => BayStep s t b) l f (BayStep.refl s b) fun t ht x hx => ht.trans (h t x (ht.only.coresOf b) hx)

/-- What the steps at other bays leave of bay b and its image. -/
structure BayLeft (b : Nat) (s t : State) : Prop where
  same : SameAt b s t
  err : b ∈ t.booterr ↔ b ∈ s.booterr
  loaded : mget? t.loaded b = mget? s.loaded b
  flash : t.flash = s.flash
  tables : TablesWithin s t

theorem BayLeft.refl (b : Nat) (s : State) : BayLeft b s s := ⟨SameAt.refl b s, Iff.rfl, rfl, rfl, .of_bays rfl⟩
theorem BayLeft.trans {s t u : State} {b : Nat} (h : BayLeft b s t) (h' : BayLeft b t u) : BayLeft b s u :=
  ⟨h.same.trans h'.same, h'.err.trans h.err, h'.loaded.trans h.loaded, h'.flash.trans h.flash, h.tables.trans h'.tables⟩
theorem BayStep.left {s t : State} {b d : Nat} (h : BayStep s t d) (hbd : b ≠ d) : BayLeft b s t :=
  ⟨h.only.sameAt hbd, h.err b hbd, h.loaded b hbd, h.flash, h.tables⟩
theorem BayLeft.foldl {b : Nat} {f : State → Nat → State} (hf : ∀ s d, BayStep s (f s d) d) {l : List Nat} (hb : b ∉ l) (s : State) :
    BayLeft b s (l.foldl f s) :=
  List.foldlRecOn (motive := BayLeft b s) l f (BayLeft.refl b s) fun t ht d hd => ht.trans ((hf t d).left (ne_of_mem_of_not_mem hd hb).symm)
/-- A step taken once at each bay of a list does to bay b and its image what the one step there does. -/
theorem foldl_baySteps_at {f : State → Nat → State} (hf : ∀ s d, BayStep s (f s d) d) {l : List Nat} (hl : l.Nodup) {b : Nat} (hb : b ∈ l) (s : State) :
    ∃ u, BayLeft b s u ∧ BayLeft b (f u b) (l.foldl f s) := by
  obtain ⟨l₁, l₂, rfl⟩ := List.append_of_mem hb
  obtain ⟨-, hl₂, hdis⟩ := List.nodup_append'.1 hl
  refine ⟨l₁.foldl f s, BayLeft.foldl hf (fun h => hdis h List.mem_cons_self) s, ?_⟩
  rw [List.foldl_append, List.foldl_cons]
  exact BayLeft.foldl hf (List.nodup_cons.1 hl₂).1 _
/-- Over all the steps, what a step leaves whichever its bay is. -/
theorem foldl_baySteps {f : State → Nat → State} (hf : ∀ s d, BayStep s (f s d) d) (l : List Nat) (s : State) :
    (l.foldl f s).platform = s.platform ∧ (l.foldl f s).flash = s.flash ∧ TablesWithin s (l.foldl f s) :=
  List.foldlRecOn (motive := fun t : State => t.platform = s.platform ∧ t.flash = s.flash ∧ TablesWithin s t) l f ⟨rfl, rfl, .of_bays rfl⟩
    fun t ht d _ => ⟨(hf t d).only.platform.trans ht.1, (hf t d).flash.trans ht.2.1, ht.2.2.trans (hf t d).tables⟩

/-! ## A bay's end (R428) -/

theorem StoreLeaves.bayStep {s t : State} (h : StoreLeaves s t) (b : Nat) : BayStep s t b := by
  have hboard : t.board = s.board := (congrArg State.board h.package :)
  have herr : t.booterr = s.booterr := (congrArg State.booterr h.package :)
  have hloaded : t.loaded = s.loaded := (congrArg State.loaded h.package :)
  have hflash : t.flash = s.flash := (congrArg State.flash h.package :)
  exact bayStep_of_board hboard herr hloaded hflash b
theorem storeLeaves_writeBytes (s : State) (a : Nat) (bs : List Byte) : StoreLeaves s (s.writeBytes a bs) := by
  induction bs generalizing s a with
  | nil => exact StoreLeaves.refl s
  | cons x bs ih => exact (storeLeaves_tables s ..).trans (ih (s.writeByte a x) (a + 1))
theorem storeLeaves_vacateFilling (s : State) (b : Nat) : StoreLeaves s (vacateFilling s b) := by
  unfold vacateFilling
  split
  · exact StoreLeaves.refl s
  · refine List.foldlRecOn (motive := StoreLeaves s) _ _ (StoreLeaves.refl s) fun t ht f _ => ?_
    split
    · exact ht.trans (storeLeaves_writeBytes t ..)
    · exact ht

theorem stopCore_board (s : State) (b c : Nat) : (stopCore s b c).board = (s.updCore c clearCore).board := rfl
theorem stopFabric_board (s : State) (b : Nat) : (stopFabric s b).board = s.board := rfl
theorem bayStep_stopCore {s : State} {b c : Nat} (hc : c ∈ s.coresOf b) : BayStep s (stopCore s b c) b :=
  (bayStep_updCore hc clearCore).trans (bayStep_of_board (stopCore_board s b c) rfl rfl rfl b)
theorem stopCore_bays (s : State) (b c : Nat) : (stopCore s b c).bays = s.bays := rfl

/-- The bay with its cores stopped. -/
def bayStopped (s : State) (b : Nat) : State := stopFabric (vacateFilling ((s.coresOf b).foldl (fun s c => stopCore s b c) s) b) b

theorem bayStopped_bays (s : State) (b : Nat) : (bayStopped s b).bays = s.bays := by
  have hstop : ((s.coresOf b).foldl (fun s c => stopCore s b c) s).bays = s.bays :=
    List.foldlRecOn (motive := fun t : State => t.bays = s.bays) _ _ rfl fun t ht c _ => (stopCore_bays t b c).trans ht
  exact (storeLeaves_vacateFilling _ b).bays.trans hstop
theorem bayStep_bayStopped (s : State) (b : Nat) : BayStep s (bayStopped s b) b := by
  have hstop : BayStep s ((s.coresOf b).foldl (fun s c => stopCore s b c) s) b := BayStep.foldl fun t c ht hc => bayStep_stopCore (ht ▸ hc)
  exact (hstop.trans ((storeLeaves_vacateFilling _ b).bayStep b)).trans (bayStep_of_board (stopFabric_board _ b) rfl rfl rfl b)

theorem unformBay_eq (s : State) (b : Nat) :
    unformBay s b = (bayStopped s b).updBay b (fun y => { y.emptied (fun _ => false) with formed := false, cont := none }) := rfl
theorem bayStep_unformBay (s : State) (b : Nat) : BayStep s (unformBay s b) b :=
  (bayStep_bayStopped s b).trans (bayStep_setBay _ b _ (.inr ⟨rfl, rfl, rfl, rfl⟩))
theorem unformBay_bay (s : State) (b : Nat) :
    (unformBay s b).bay b = { (s.bay b).emptied (fun _ => false) with formed := false, cont := none } := by
  rw [unformBay_eq, State.bay_updBay, if_pos rfl, bay_of_bays (bayStopped_bays s b)]

/-! ## A bay's formation (R427, R428) -/

/-- A bay that is not formed, its image missing or refused. -/
def formRefused (s : State) (b : Nat) : State :=
  { s.setBay b { s.bay b with formed := false } with booterr := if s.booterr.contains b then s.booterr else s.booterr ++ [b] }
/-- A core of a bay that is formed: nothing runs on it, and it holds no copy and no translation. -/
def formedCore (now : Nat) (co : Core) : Core := { (clearCore co).keepCopies (fun _ _ => false) with qtlb := [], tlb := [], swept := now }
/-- The image's runs copied to their places. -/
def formStored (s : State) (b : Nat) (i : BootImage) : State := i.runs.foldl (fun s r => svcStore s r.1 r.2) { s with loaded := mset s.loaded b i }
/-- The cores of the bay, as the formation finds them. -/
def formCores (s : State) (b : Nat) : State := (s.coresOf b).foldl (fun s c => s.updCore c (formedCore (s.coreT c))) s
/-- The bay as formed, before its walkers and its supervisor start. -/
def formReset (s : State) (b : Nat) (i : BootImage) : State := nextInc (s.setBay b (freshBay (s.bay b) b i (hdmOf s b))) b
/-- The bay's image has not failed, and its multicast groups are gone. -/
def errCleared (s : State) (b : Nat) : State := { s with booterr := s.booterr.filter (· != b) }
def groupsDropped (s : State) (b : Nat) : State := { s with mcg := s.mcg.filter (fun e => e.2.bay != b) }
def formBase (s : State) (b : Nat) (i : BootImage) : State := formReset (groupsDropped (formCores (errCleared (formStored s b i) b) b) b) b i

theorem formBay_refused {s : State} {b : Nat} (h : ∀ i, mget? s.flash.boot b = some i → imageOk s i = false) : formBay s b = formRefused s b := by
  rw [formBay]
  cases hi : mget? s.flash.boot b with
  | none => rfl
  | some i =>
    dsimp only
    rw [h i hi]
    rfl
theorem formBay_accepted {s : State} {b : Nat} {i : BootImage} (hi : mget? s.flash.boot b = some i) (hok : imageOk s i = true) :
    formBay s b = startReserved (formBase s b i) b := by
  rw [formBay, hi]
  dsimp only
  rw [hok]
  rfl

theorem bayStep_formRefused (s : State) (b : Nat) : BayStep s (formRefused s b) b := by
  have hset : BayStep s (s.setBay b { s.bay b with formed := false }) b := bayStep_setBay s b _ (.inr ⟨rfl, rfl, rfl, rfl⟩)
  refine ⟨hset.only.of_board rfl, fun d hd => ?_, fun _ _ => rfl, rfl, hset.tables⟩
  rw [formRefused]
  dsimp only
  split
  · rfl
  · simp [hd]
theorem formRefused_bay (s : State) (b : Nat) : ((formRefused s b).bay b).formed = false ∧ b ∈ (formRefused s b).booterr := by
  have hbay : (formRefused s b).bay b = { s.bay b with formed := false } := (State.bay_setBay ..).trans (if_pos rfl)
  refine ⟨by rw [hbay], ?_⟩
  rw [formRefused]
  dsimp only
  split
  next h => exact List.contains_iff_mem.1 h
  · simp

/-- The runs of an image that is accepted lie in HBM4. -/
theorem Accepted.runEnd {s : State} {i : BootImage} (h : Accepted s i) {r : Nat × List Byte} (hr : r ∈ i.runs) : r.1 + r.2.length ≤ 0x8000000000 := by
  obtain ⟨-, -, -, -, -, -, -, -, -, -, hruns⟩ := h
  obtain ⟨-, -, -, hend, -⟩ := hruns r hr
  exact hend
theorem storeLeaves_formStored {s : State} {i : BootImage} (h : Accepted s i) (b : Nat) : StoreLeaves { s with loaded := mset s.loaded b i } (formStored s b i) :=
  List.foldlRecOn (motive := StoreLeaves { s with loaded := mset s.loaded b i }) i.runs _ (StoreLeaves.refl _) fun t ht _ hr =>
    ht.trans (svcStored_svcStore t (.inl (h.runEnd hr))).leaves

theorem bayStep_loaded (s : State) (b : Nat) (i : BootImage) : BayStep s { s with loaded := mset s.loaded b i } b :=
  ⟨OnlyBay.of_board (OnlyBay.refl s b) rfl, fun _ _ => Iff.rfl, fun _ hd => mget?_mset_ne _ _ hd, rfl, .of_bays rfl⟩
theorem mem_errCleared {s : State} {b d : Nat} : d ∈ (errCleared s b).booterr ↔ d ∈ s.booterr ∧ d ≠ b := by simp [errCleared]
theorem bayStep_errCleared (s : State) (b : Nat) : BayStep s (errCleared s b) b :=
  ⟨OnlyBay.of_board (OnlyBay.refl s b) rfl, fun _ hd => mem_errCleared.trans (and_iff_left hd), fun _ _ => rfl, rfl, .of_bays rfl⟩
theorem groupsDropped_board (s : State) (b : Nat) : (groupsDropped s b).board = s.board := rfl
theorem bayStep_groupsDropped (s : State) (b : Nat) : BayStep s (groupsDropped s b) b := bayStep_of_board (groupsDropped_board s b) rfl rfl rfl b
theorem bayStep_formCores (s : State) (b : Nat) : BayStep s (formCores s b) b := BayStep.foldl fun _ _ ht hc => bayStep_updCore (ht ▸ hc) _
theorem nextInc_board (s : State) (b : Nat) : (nextInc s b).board = (s.setBay b { s.bay b with inc := (s.bay b).inc + 1 }).board := rfl
theorem bayStep_nextInc (s : State) (b : Nat) : BayStep s (nextInc s b) b :=
  (bayStep_setBay s b { s.bay b with inc := (s.bay b).inc + 1 } (.inr ⟨rfl, rfl, rfl, rfl⟩)).trans (bayStep_of_board (nextInc_board s b) rfl rfl rfl b)
theorem bayStep_formReset (s : State) (b : Nat) (i : BootImage) : BayStep s (formReset s b i) b :=
  (bayStep_setBay s b (freshBay (s.bay b) b i (hdmOf s b)) (.inl ⟨rfl, rfl⟩)).trans (bayStep_nextInc _ b)

/-- What stands of the bay's image, and which images failed, where the runs have been stored. -/
theorem formStored_images {s : State} {i : BootImage} (h : Accepted s i) (b : Nat) :
    (formStored s b i).loaded = mset s.loaded b i ∧ (formStored s b i).booterr = s.booterr ∧ (formStored s b i).bays = s.bays ∧
      (formStored s b i).cols = s.cols := by
  have hp := (storeLeaves_formStored h b).package
  exact ⟨(congrArg State.loaded hp :), (congrArg State.booterr hp :), (congrArg State.bays hp :), (congrArg State.cols hp :)⟩
theorem bayStep_formBase {s : State} {i : BootImage} (h : Accepted s i) (b : Nat) : BayStep s (formBase s b i) b := by
  have hstored : BayStep s (formStored s b i) b := (bayStep_loaded s b i).trans ((storeLeaves_formStored h b).bayStep b)
  exact (((hstored.trans (bayStep_errCleared _ b)).trans (bayStep_formCores _ b)).trans (bayStep_groupsDropped _ b)).trans (bayStep_formReset _ b i)

theorem startReservedCourse_images (s : State) (c k : Nat) (pc : W64) (u : Uni) : (startReservedCourse s c k pc u).booterr = s.booterr ∧
    (startReservedCourse s c k pc u).loaded = s.loaded ∧ (startReservedCourse s c k pc u).flash = s.flash ∧ (startReservedCourse s c k pc u).bays = s.bays :=
  ⟨rfl, rfl, rfl, rfl⟩
/-- What holds before a course starts, and stays over each start, holds after the walkers and the supervisor have started. -/
theorem startReserved_induction {P : State → Prop} (s : State) (b : Nat) (hs : P s) (hstep : ∀ t c k pc u, P t → P (startReservedCourse t c k pc u)) :
    P (startReserved s b) := by
  have hw : P (startWalkers s b) := List.foldlRecOn (motive := P) _ _ hs fun t ht c _ => hstep t c _ _ _ ht
  rw [startReserved_eq]
  dsimp only
  split
  · exact hw
  · exact hstep _ _ _ _ _ hw
theorem startReserved_images (s : State) (b : Nat) : (startReserved s b).booterr = s.booterr ∧ (startReserved s b).loaded = s.loaded ∧
    (startReserved s b).flash = s.flash ∧ (startReserved s b).bays = s.bays :=
  startReserved_induction (P := fun t => t.booterr = s.booterr ∧ t.loaded = s.loaded ∧ t.flash = s.flash ∧ t.bays = s.bays) s b ⟨rfl, rfl, rfl, rfl⟩
    fun t c k pc u ht => by
      obtain ⟨herr, hloaded, hflash, hbays⟩ := startReservedCourse_images t c k pc u
      exact ⟨herr.trans ht.1, hloaded.trans ht.2.1, hflash.trans ht.2.2.1, hbays.trans ht.2.2.2⟩
theorem bayStep_startReserved (s : State) (b : Nat) : BayStep s (startReserved s b) b := by
  obtain ⟨herr, hloaded, hflash, hbays⟩ := startReserved_images s b
  exact (onlyBay_startReserved s b).bayStep herr hloaded hflash (.of_bays hbays)

theorem bayStep_formBay (s : State) (b : Nat) : BayStep s (formBay s b) b := by
  by_cases h : ∃ i, mget? s.flash.boot b = some i ∧ imageOk s i = true
  · obtain ⟨i, hi, hok⟩ := h
    rw [formBay_accepted hi hok]
    exact (bayStep_formBase ((imageOk_iff s i).1 hok) b).trans (bayStep_startReserved _ b)
  · rw [formBay_refused fun i hi => Bool.not_eq_true _ ▸ fun hok => h ⟨i, hi, hok⟩]
    exact bayStep_formRefused s b

/-- A core with no block, no translation and no copy. -/
def CoreEmpty (co : Core) : Prop := co.blocks = [] ∧ co.tlb = [] ∧ co.copies = []

theorem coreEmpty_formedCore (now : Nat) (co : Core) : CoreEmpty (formedCore now co) := ⟨rfl, rfl, List.filter_false _⟩
theorem coreEmpty_startReservedCourse {s : State} {d : Nat} (h : CoreEmpty (s.core d)) (c k : Nat) (pc : W64) (u : Uni) :
    CoreEmpty ((startReservedCourse s c k pc u).core d) := by
  by_cases hd : d = c
  · subst hd
    rw [startReservedCourse, settleCore, State.core_updCore, if_pos rfl, State.setCourse, State.core_setCore, if_pos rfl]
    exact h
  · rwa [startReservedCourse, settleCore, State.core_updCore, if_neg hd, State.setCourse, State.core_setCore, if_neg hd]
theorem coreEmpty_formCores {s : State} {b c : Nat} (hc : c ∈ s.coresOf b) : CoreEmpty ((formCores s b).core c) := by
  obtain ⟨u, -, hcore⟩ := foldl_cores_at (f := fun s c => s.updCore c (formedCore (s.coreT c))) (fun s c d hd => by rw [State.core_updCore, if_neg hd])
    (coresOf_nodup s b) hc s
  rw [formCores, hcore, State.core_updCore, if_pos rfl]
  exact coreEmpty_formedCore ..

/-- A bay that has been formed from an image (R427, R428). -/
structure Formed (s t : State) (b : Nat) (i : BootImage) : Prop where
  formed : (t.bay b).formed = true
  inc : (t.bay b).inc = (s.bay b).inc + 1
  cont : (t.bay b).cont = none
  mail : ∀ m, ((t.bay b).mailbox m).entries = []
  err : b ∉ t.booterr
  loaded : mget? t.loaded b = some i
  cores : ∀ c ∈ s.coresOf b, CoreEmpty (t.core c)
  start : ReservedStart s t b i.root i.walkPc i.svPc

theorem emptied_mailbox (y : Bay) (m : Nat) : ((y.emptied (fun _ => false)).mailbox m).entries = [] := by
  simp only [Bay.emptied, Bay.mailbox, mget, mget?_map]
  cases mget? y.mail m <;> rfl
/-- The walkers and the supervisor of a bay start in its columns, whatever else differs. -/
theorem ReservedStart.of_platform {s s' t : State} {b : Nat} {root walk sv : W64} (h : ReservedStart s t b root walk sv) (hp : s'.platform = s.platform) :
    ReservedStart s' t b root walk sv := by
  have hcores : s'.coresOf b = s.coresOf b := coresOf_of_platform hp b
  have hsv : s'.svCore b = s.svCore b := by rw [State.svCore, hcores]; rfl
  have hcols : s'.cols = s.cols := congrArg Platform.cols hp
  exact ⟨hcores ▸ h.walkers, fun hne => by rw [hsv, hcols]; exact h.supervisor (hcores ▸ hne)⟩

theorem formReset_bay (s : State) (b : Nat) (i : BootImage) :
    (formReset s b i).bay b = { freshBay (s.bay b) b i (hdmOf s b) with inc := (s.bay b).inc + 1 } := by
  rw [formReset, bay_of_board (nextInc_board ..), State.bay_setBay, if_pos rfl, State.bay_setBay, if_pos rfl]
  rfl

theorem formReset_images (s : State) (b : Nat) (i : BootImage) : (formReset s b i).booterr = s.booterr ∧ (formReset s b i).loaded = s.loaded ∧
    (formReset s b i).cores = s.cores := ⟨rfl, rfl, rfl⟩
theorem formCores_images (s : State) (b : Nat) :
    (formCores s b).booterr = s.booterr ∧ (formCores s b).loaded = s.loaded ∧ (formCores s b).bays = s.bays :=
  List.foldlRecOn (motive := fun t : State => t.booterr = s.booterr ∧ t.loaded = s.loaded ∧ t.bays = s.bays) _ _ ⟨rfl, rfl, rfl⟩ fun _ ht _ _ => ht

/-- What the formation has made of bay b before its courses start. -/
theorem formBase_result {s : State} {i : BootImage} (h : Accepted s i) (b : Nat) :
    (∃ hdm, (formBase s b i).bay b = { freshBay (s.bay b) b i hdm with inc := (s.bay b).inc + 1 }) ∧ b ∉ (formBase s b i).booterr ∧
      mget? (formBase s b i).loaded b = some i ∧ ∀ c ∈ s.coresOf b, CoreEmpty ((formBase s b i).core c) := by
  obtain ⟨hloaded, -, hbays, hcols⟩ := formStored_images h b
  generalize hu : formStored s b i = u at hloaded hbays hcols
  obtain ⟨herr', hloaded', hbays'⟩ := formCores_images (errCleared u b) b
  have hempty : ∀ c ∈ (errCleared u b).coresOf b, CoreEmpty ((formCores (errCleared u b) b).core c) := fun c hc => coreEmpty_formCores hc
  have hcoresOf : (errCleared u b).coresOf b = s.coresOf b := by simp only [State.coresOf, State.bayOf?]; rw [← hcols]; rfl
  rw [formBase, hu]
  generalize formCores (errCleared u b) b = v at herr' hloaded' hbays' hempty
  have hbay : (groupsDropped v b).bay b = s.bay b := (bay_of_board (groupsDropped_board v b) b).trans (bay_of_bays (hbays'.trans hbays) b)
  obtain ⟨herr, hkept, hcores⟩ := formReset_images (groupsDropped v b) b i
  refine ⟨⟨_, (formReset_bay ..).trans (by rw [hbay])⟩, ?_, ?_, fun c hc => ?_⟩
  · rw [herr]
    exact fun hb => (mem_errCleared.1 (herr' ▸ hb)).2 rfl
  · rw [hkept]
    exact (congrArg (mget? · b) (hloaded'.trans hloaded)).trans (mget?_mset_self ..)
  · rw [State.core, hcores]
    exact hempty c (hcoresOf ▸ hc)

theorem formed_formBay {s : State} {b : Nat} {i : BootImage} (hi : mget? s.flash.boot b = some i) (h : Accepted s i) : Formed s (formBay s b) b i := by
  obtain ⟨⟨hdm, hbay⟩, herr, hloaded, hcores⟩ := formBase_result h b
  have hplat : s.platform = (formBase s b i).platform := (bayStep_formBase h b).only.platform.symm
  rw [formBay_accepted hi ((imageOk_iff s i).2 h)]
  generalize formBase s b i = u at hbay herr hloaded hcores hplat
  obtain ⟨herr', hloaded', -, -⟩ := startReserved_images u b
  have hstart := (reservedStart_startReserved u b).of_platform hplat
  have hbay' := (startReserved_bay u b b).trans hbay
  rw [hbay] at hstart
  refine ⟨by rw [hbay']; rfl, by rw [hbay'], by rw [hbay']; rfl, fun m => ?_, herr' ▸ herr, hloaded' ▸ hloaded, fun c hc => ?_, hstart⟩
  · rw [hbay']
    exact emptied_mailbox (s.bay b) m
  · exact startReserved_induction (P := fun t => CoreEmpty (t.core c)) u b (hcores c hc) fun t c k pc u => (coreEmpty_startReservedCourse · c k pc u)

/-! ## BAY_SET (R428) -/

/-- What a formation leaves of a bay stands over the steps at other bays. -/
theorem Formed.left {s t u : State} {b : Nat} {i : BootImage} (h : Formed s t b i) (hstep : BayStep s t b) (ht : BayLeft b t u) : Formed s u b i where
  formed := ht.same.bay ▸ h.formed
  inc := ht.same.bay ▸ h.inc
  cont := ht.same.bay ▸ h.cont
  mail := ht.same.bay ▸ h.mail
  err := fun hb => h.err (ht.err.1 hb)
  loaded := ht.loaded.trans h.loaded
  cores := fun c hc => by rw [ht.same.cores c (by rwa [hstep.only.coresOf])]; exact h.cores c hc
  start := h.start.congr (SameAt.refl b s) hstep.only ht.same

theorem mem_changedBays {s : State} {cmd : W512} {b : Nat} : b ∈ changedBays s cmd ↔
    b < 16 ∧ ∃ g, g < 32 ∧ ¬ (mget? s.cols g = some b ↔ cmd.toNat / 2 ^ (64 + 8 * g) % 256 = b) := by
  have hxor : ∀ g, ((mget? s.cols g == some b) != (cmdCol cmd g == b)) = true ↔ ¬ (mget? s.cols g = some b ↔ cmd.toNat / 2 ^ (64 + 8 * g) % 256 = b) := fun g => by
    rw [bne_iff_ne, ne_eq, Bool.eq_iff_iff, beq_iff_eq, beq_iff_eq]
    rfl
  simp only [changedBays, List.mem_filter, List.mem_range, List.any_eq_true, hxor]
theorem holdsBlock_iff (s : State) (b : Nat) : holdsBlock s b = true ↔ ∃ c ∈ s.coresOf b, (s.core c).blocks ≠ [] := by simp [holdsBlock]

/-- The columns as a command gives them. -/
def newCols (cmd : W512) : Map Nat := ((List.range 32).filter (fun g => decide (cmdCol cmd g < 16))).map (fun g => (g, cmdCol cmd g))
/-- The bays that change have ended, and the columns are given. -/
def baysEnded (s : State) (cmd : W512) : State := { (changedBays s cmd).foldl unformBay s with cols := newCols cmd }
/-- The bays that change and have a column. -/
def baysToForm (s : State) (cmd : W512) : List Nat := (changedBays s cmd).filter (fun b => (newCols cmd).any (fun e => e.2 == b))
def baysFormed (s : State) (cmd : W512) : State := (baysToForm s cmd).foldl formBay (baysEnded s cmd)

theorem baySet_eq (s : State) (cmd : W512) : exec (.baySet cmd) s = .next (command s cmd 1 [(320, 192)] (
    if (List.range 32).any (fun g => decide (16 ≤ cmdCol cmd g ∧ cmdCol cmd g ≠ 0x1F)) || (changedBays s cmd).any (holdsBlock s) then cmdAns s cmd 2 2
    else if s.st ≠ .ready ∨ (changedBays s cmd).all (formReady s) = false then { s with cmd := some cmd }
    else cmdAns (baysFormed s cmd) cmd 0 0)) := rfl

theorem mget?_filter_map (l : List Nat) (p : Nat → Bool) (f : Nat → Nat) (n : Nat) :
    mget? ((l.filter p).map (fun g => (g, f g))) n = if n ∈ l ∧ p n = true then some (f n) else none := by
  induction l with
  | nil => simp
  | cons g l ih =>
    by_cases hp : p g = true
    · rw [List.filter_cons_of_pos hp, List.map_cons, mget?, ih]
      by_cases hg : g = n
      · subst hg
        simp [hp]
      · simp [hg, Ne.symm hg]
    · rw [List.filter_cons_of_neg hp, ih]
      by_cases hg : g = n
      · subst hg
        simp [hp]
      · simp [Ne.symm hg]
theorem mget?_newCols (cmd : W512) {g : Nat} (hg : g < 32) : mget? (newCols cmd) g = if cmdCol cmd g < 16 then some (cmdCol cmd g) else none := by
  simp [newCols, mget?_filter_map, hg]
theorem mem_baysToForm {s : State} {cmd : W512} {b : Nat} :
    b ∈ baysToForm s cmd ↔ b ∈ changedBays s cmd ∧ ∃ g, g < 32 ∧ cmd.toNat / 2 ^ (64 + 8 * g) % 256 = b := by
  rw [baysToForm, List.mem_filter]
  refine and_congr_right fun hb => ?_
  have hlt := (mem_changedBays.1 hb).1
  simp only [newCols, List.any_map, List.any_filter, List.any_eq_true, List.mem_range, Function.comp_apply, Bool.and_eq_true, decide_eq_true_eq, beq_iff_eq]
  exact exists_congr fun g => and_congr_right fun _ => ⟨fun h => h.2, fun h => ⟨(show cmdCol cmd g = b from h) ▸ hlt, h⟩⟩

theorem changedBays_nodup (s : State) (cmd : W512) : (changedBays s cmd).Nodup := List.nodup_range.filter _
theorem baysToForm_nodup (s : State) (cmd : W512) : (baysToForm s cmd).Nodup := (changedBays_nodup s cmd).filter _

/-- An image that is accepted can be stored at once where the service core is free. -/
theorem formReady_of_free {s : State} (h : ServiceFree s) (b : Nat) : formReady s b = true := by
  rw [formReady]
  split
  · rfl
  next i _ =>
    rw [Bool.or_eq_true, Bool.not_eq_true', ← Bool.not_eq_true]
    by_cases hok : imageOk s i = true
    · refine .inr (List.all_eq_true.2 fun r hr => ?_)
      have hend := ((imageOk_iff s i).1 hok).runEnd hr
      exact svcReady_of_free h (.inl hend) fun hfar => by omega
    · exact .inl hok

section
variable {s : State} {cmd : W512} {b : Nat}

theorem baysEnded_bay (s : State) (cmd : W512) (b : Nat) : (baysEnded s cmd).bay b = ((changedBays s cmd).foldl unformBay s).bay b := rfl
theorem baysFormed_leaves (s : State) (cmd : W512) : (baysFormed s cmd).cols = newCols cmd :=
  congrArg Platform.cols (foldl_baySteps bayStep_formBay (baysToForm s cmd) (baysEnded s cmd)).1
/-- A bay that is not formed again is as the end of the changed ones leaves it. -/
theorem baysFormed_bay (h : b ∉ baysToForm s cmd) : (baysFormed s cmd).bay b = ((changedBays s cmd).foldl unformBay s).bay b :=
  (BayLeft.foldl bayStep_formBay h (baysEnded s cmd)).same.bay.trans (baysEnded_bay s cmd b)
/-- A bay that does not change stands. -/
theorem baysFormed_unchanged (h : b ∉ changedBays s cmd) : (baysFormed s cmd).bay b = s.bay b :=
  (baysFormed_bay fun hb => h (mem_baysToForm.1 hb).1).trans (BayLeft.foldl bayStep_unformBay h s).same.bay
/-- A bay that changes has ended. -/
theorem bayEnded (h : b ∈ changedBays s cmd) :
    ((changedBays s cmd).foldl unformBay s).bay b = { (s.bay b).emptied (fun _ => false) with formed := false, cont := none } := by
  obtain ⟨u, hu, hleft⟩ := foldl_baySteps_at bayStep_unformBay (changedBays_nodup s cmd) h s
  rw [hleft.same.bay, unformBay_bay, hu.same.bay]

/-- A bay that changes and has a column is formed once, in a state with its image and no table more. -/
theorem baysFormed_at (h : b ∈ baysToForm s cmd) : ∃ u, BayLeft b (formBay u b) (baysFormed s cmd) ∧ u.flash = s.flash ∧ (u.bay b).inc = (s.bay b).inc ∧
    TablesWithin s u := by
  obtain ⟨u, hu, hleft⟩ := foldl_baySteps_at bayStep_formBay (baysToForm_nodup s cmd) h (baysEnded s cmd)
  obtain ⟨-, hflash, htables⟩ := foldl_baySteps bayStep_unformBay (changedBays s cmd) s
  refine ⟨u, hleft, hu.flash.trans hflash, ?_, htables.trans hu.tables⟩
  rw [hu.same.bay, baysEnded_bay, bayEnded (mem_baysToForm.1 h).1]
  rfl

theorem baysFormed_accepted {i : BootImage} (h : b ∈ baysToForm s cmd) (hi : mget? s.flash.boot b = some i) (hacc : Accepted s i) :
    let t := baysFormed s cmd
    (t.bay b).formed = true ∧ (t.bay b).inc = (s.bay b).inc + 1 ∧ (t.bay b).cont = none ∧ b ∉ t.booterr ∧ mget? t.loaded b = some i ∧
      (∀ m, ((t.bay b).mailbox m).entries = []) ∧ (∀ c ∈ t.coresOf b, (t.core c).blocks = [] ∧ (t.core c).tlb = [] ∧ (t.core c).copies = []) ∧
      ReservedStart t t b i.root i.walkPc i.svPc := by
  obtain ⟨u, hleft, hflash, hinc, htables⟩ := baysFormed_at h
  have hstep := bayStep_formBay u b
  have hformed := (formed_formBay (hflash ▸ hi) (hacc.mono htables)).left hstep hleft
  have hplat : (baysFormed s cmd).platform = u.platform := hleft.same.platform.trans hstep.only.platform
  exact ⟨hformed.formed, hinc ▸ hformed.inc, hformed.cont, hformed.err, hformed.loaded, hformed.mail,
    fun c hc => hformed.cores c (by rwa [← coresOf_of_platform hplat]), hformed.start.of_platform hplat⟩
theorem baysFormed_refused (h : b ∈ baysToForm s cmd) (hbad : mget? s.flash.boot b = none ∨ ∃ i, mget? s.flash.boot b = some i ∧ i.sigOk = false) :
    ((baysFormed s cmd).bay b).formed = false ∧ b ∈ (baysFormed s cmd).booterr := by
  obtain ⟨u, hleft, hflash, -, -⟩ := baysFormed_at h
  have hrefused : formBay u b = formRefused u b := formBay_refused fun i hi => by
    rw [hflash] at hi
    rcases hbad with hnone | ⟨j, hj, hsig⟩
    · rw [hnone] at hi
      cases hi
    · rw [hj] at hi
      cases hi
      rw [imageOk, hsig]
      rfl
  rw [hrefused] at hleft
  obtain ⟨hformed, herr⟩ := formRefused_bay u b
  exact ⟨hleft.same.bay ▸ hformed, hleft.err.2 herr⟩
end

theorem answered_toNat (s : State) (cmd : W512) : (Answered s cmd 0 0).ans.toNat = 2 ^ 16 * (cmd.toNat / 2 ^ 16 % 2 ^ 16) := by
  have h := answerWord_toNat cmd (status := 0) (reason := 0) (by decide) (by decide)
  rw [Nat.mul_zero, Nat.zero_add] at h
  rw [← cmdAns_eq s cmd (by decide) (by decide)]
  exact h

section
variable {s : State} {cmd : W512} (h : Executable s cmd 1 [(320, 192)])
include h

/-- A column given to no bay, or a bay that changes and holds a block (R428, log 66). -/
theorem baySet_failed (hbad : (∃ g, g < 32 ∧ 16 ≤ cmd.toNat / 2 ^ (64 + 8 * g) % 256 ∧ cmd.toNat / 2 ^ (64 + 8 * g) % 256 ≠ 0x1F) ∨
      ∃ b ∈ changedBays s cmd, ∃ c ∈ s.coresOf b, (s.core c).blocks ≠ []) :
    exec (.baySet cmd) s = .next (Answered s cmd 2 2) := by
  have hany : ((List.range 32).any (fun g => decide (16 ≤ cmdCol cmd g ∧ cmdCol cmd g ≠ 0x1F)) || (changedBays s cmd).any (holdsBlock s)) = true := by
    rw [Bool.or_eq_true, List.any_eq_true, List.any_eq_true]
    refine hbad.imp (fun ⟨g, hg, hcol⟩ => ⟨g, List.mem_range.2 hg, decide_eq_true hcol⟩) fun ⟨b, hb, hc⟩ => ⟨b, hb, (holdsBlock_iff s b).2 hc⟩
  rw [baySet_eq, command_run h, if_pos hany, cmdAns_eq s cmd (by decide) (by decide)]

variable (hcol : ∀ g, g < 32 → cmd.toNat / 2 ^ (64 + 8 * g) % 256 < 16 ∨ cmd.toNat / 2 ^ (64 + 8 * g) % 256 = 0x1F)
  (hfree : ∀ b ∈ changedBays s cmd, ∀ c ∈ s.coresOf b, (s.core c).blocks = [])
include hcol hfree

theorem baySet_good : exec (.baySet cmd) s = .next (
    if s.st ≠ .ready ∨ (changedBays s cmd).all (formReady s) = false then { s with cmd := some cmd } else Answered (baysFormed s cmd) cmd 0 0) := by
  have hnone : ¬ ((List.range 32).any (fun g => decide (16 ≤ cmdCol cmd g ∧ cmdCol cmd g ≠ 0x1F)) || (changedBays s cmd).any (holdsBlock s)) = true := by
    rw [Bool.or_eq_true, List.any_eq_true, List.any_eq_true]
    rintro (⟨g, hg, hbad⟩ | ⟨b, hb, hblock⟩)
    · obtain ⟨hge, hne⟩ := of_decide_eq_true hbad
      exact (hcol g (List.mem_range.1 hg)).elim (fun hlt => absurd hlt (Nat.not_lt.2 hge)) hne
    · obtain ⟨c, hc, hne⟩ := (holdsBlock_iff s b).1 hblock
      exact hne (hfree b hb c hc)
  rw [baySet_eq, command_run h, if_neg hnone, cmdAns_eq _ cmd (by decide) (by decide)]
/-- Until stage 4 the command stays pending (R426, log 118). -/
theorem baySet_waits (hst : s.st ≠ .ready) : exec (.baySet cmd) s = .next { s with cmd := some cmd } := by
  rw [baySet_good h hcol hfree, if_pos (.inl hst)]
theorem baySet_done (hst : s.st = .ready) (hsvc : ServiceFree s) : exec (.baySet cmd) s = .next (Answered (baysFormed s cmd) cmd 0 0) := by
  have hready : (changedBays s cmd).all (formReady s) = true := List.all_eq_true.2 fun b _ => formReady_of_free hsvc b
  rw [baySet_good h hcol hfree, if_neg]
  rintro (hne | hno)
  · exact hne hst
  · rw [hready] at hno
    cases hno
end

/-! ## ATTEST (R430, R431) -/

/-- The report that an attestation writes (log 17). -/
def attestReport (s : State) (cmd : W512) : List Byte :=
  (Config.report (BitVec.ofNat 256 (cmd.toNat / 2 ^ 64)) s.pkgid (s.flash.root.code, s.flash.service.code)
    (s.loaded.filter (fun e => (s.bay e.1).formed)) s.cols ((List.range 16).map (fun b => (s.bay b).inc.toNat)) s.flash.leaf).take 4096
/-- The state with one leaf used and the report stored at pa, on its way. -/
def leafUsed (s : State) : State := { s with flash := { s.flash with leaf := s.flash.leaf + 1 } }
def reportStored (s : State) (cmd : W512) (pa : Nat) : State :=
  let s' := svcStore (leafUsed s) pa (attestReport s cmd)
  { s' with out := s'.out ++ [.report pa s.flash.leaf], cmd := some cmd, report := some (s.nextAcc, s'.nextAcc) }

theorem attest_eq (s : State) (cmd : W512) : exec (.attest cmd) s = .next (command s cmd 2 [(384, 128)] (
    let host := cmdField cmd 320 64
    if s.report.isSome then (if reportDone s (s.report.getD (0, 0)) then cmdAns { s with report := none } cmd 0 0 else s)
    else if 2 ^ 20 ≤ s.flash.leaf then cmdAns s cmd 2 4
    else if host % 4096 ≠ 0 ∨ 2 ^ 44 ≤ host ∨ s.hUp = false then cmdAns s cmd 2 5
    else if !svcReady s (0x100000000000 + host) (attestReport s cmd).length then { s with cmd := some cmd }
    else reportStored s cmd (0x100000000000 + host))) := rfl

theorem reportDone_iff (s : State) (i n : Nat) : reportDone s (i, n) = true ↔ ∀ a ∈ s.accs, a.id < i ∨ n ≤ a.id := by
  simp only [reportDone, Bool.not_eq_true', List.any_eq_false, decide_eq_true_eq]
  exact forall₂_congr fun a _ => by omega

theorem attestReport_length (s : State) (cmd : W512) : (attestReport s cmd).length ≤ 4096 := List.length_take_le ..
/-- A page of host memory holds the report. -/
theorem attestReport_place (s : State) (cmd : W512) {host : Nat} (halign : host % 4096 = 0) (hlt : host < 2 ^ 44) :
    SvcPlace (0x100000000000 + host) (attestReport s cmd).length := by
  have hlen := attestReport_length s cmd
  exact .inr ⟨Nat.le_add_right .., by omega⟩
/-- The report on its way: new accesses of the service core, and bytes in its page alone. -/
theorem reportStored_result (s : State) (cmd : W512) {host : Nat} (halign : host % 4096 = 0) (hlt : host < 2 ^ 44) :
    let t := reportStored s cmd (0x100000000000 + host)
    ∃ (new : List Access) (n : Nat), t.cmd = some cmd ∧ t.ans = s.ans ∧ t.report = some (s.nextAcc, n) ∧ t.accs = s.accs ++ new ∧
      (∀ a ∈ new, a.ag = .service 0 ∧ s.nextAcc ≤ a.id ∧ a.id < n ∧ ∃ x d, a.ph = .cxl x [] d) ∧ t.flash = { s.flash with leaf := s.flash.leaf + 1 } ∧
      OutPkt.report (0x100000000000 + host) s.flash.leaf ∈ t.out ∧ t.cores = s.cores ∧ t.bays = s.bays ∧
      ∀ g, g < 0x100000000000 + host ∨ 0x100000000000 + host + 4096 ≤ g → memGet t.mem g = memGet s.mem g := by
  have hplace := attestReport_place s cmd halign hlt
  have hlen := attestReport_length s cmd
  have hstored := svcStored_svcStore (leafUsed s) hplace
  have houtside := fun g => svcStore_outside (leafUsed s) hplace (g := g)
  rw [reportStored]
  dsimp only
  generalize svcStore (leafUsed s) (0x100000000000 + host) (attestReport s cmd) = u at hstored houtside
  have hleaves := hstored.leaves
  have hans : u.ans = s.ans := (congrArg State.ans hleaves.package :)
  have hflash : u.flash = { s.flash with leaf := s.flash.leaf + 1 } := (congrArg State.flash hleaves.package :)
  obtain ⟨new, haccs, hnew⟩ := hstored.accs
  refine ⟨new, u.nextAcc, rfl, hans, rfl, haccs, fun a ha => ?_, hflash, List.mem_append_right _ List.mem_cons_self, hleaves.cores, hleaves.bays,
    fun g hg => houtside g (by omega)⟩
  obtain ⟨hag, hlo, hhi, hph⟩ := hnew a ha
  exact ⟨hag, hlo, hhi, hph (Nat.le_add_right ..)⟩

section
variable {s : State} {cmd : W512} (h : Executable s cmd 2 [(384, 128)])
include h

theorem attest_noLeaf (hrep : s.report = none) (hleaf : 2 ^ 20 ≤ s.flash.leaf) : exec (.attest cmd) s = .next (Answered s cmd 2 4) := by
  rw [attest_eq, command_run h, hrep]
  dsimp only
  rw [if_neg (by simp), if_pos hleaf, cmdAns_eq s cmd (by decide) (by decide)]
theorem attest_badAddress (hrep : s.report = none) (hleaf : s.flash.leaf < 2 ^ 20)
    (hbad : cmd.toNat / 2 ^ 320 % 2 ^ 64 % 4096 ≠ 0 ∨ 2 ^ 44 ≤ cmd.toNat / 2 ^ 320 % 2 ^ 64 ∨ s.hUp = false) :
    exec (.attest cmd) s = .next (Answered s cmd 2 5) := by
  rw [attest_eq, command_run h, hrep]
  dsimp only
  rw [if_neg (by simp), if_neg (Nat.not_le.2 hleaf), if_pos (by exact hbad), cmdAns_eq s cmd (by decide) (by decide)]
theorem attest_stores (hrep : s.report = none) (hleaf : s.flash.leaf < 2 ^ 20) (halign : cmd.toNat / 2 ^ 320 % 2 ^ 64 % 4096 = 0)
    (hlt : cmd.toNat / 2 ^ 320 % 2 ^ 64 < 2 ^ 44) (hup : s.hUp = true) (hfree : ServiceFree s) :
    exec (.attest cmd) s = .next (reportStored s cmd (0x100000000000 + cmd.toNat / 2 ^ 320 % 2 ^ 64)) := by
  have hgo : ¬ (cmdField cmd 320 64 % 4096 ≠ 0 ∨ 2 ^ 44 ≤ cmdField cmd 320 64 ∨ s.hUp = false) := by
    rintro (hne | hge | hdown)
    · exact hne halign
    · exact absurd hlt (Nat.not_lt.2 hge)
    · rw [hup] at hdown
      cases hdown
  have hready : svcReady s (0x100000000000 + cmdField cmd 320 64) (attestReport s cmd).length = true :=
    svcReady_of_free hfree (attestReport_place s cmd halign hlt) fun _ => hup
  rw [attest_eq, command_run h, hrep]
  dsimp only
  rw [if_neg (by simp), if_neg (Nat.not_le.2 hleaf), if_neg hgo, hready]
  rfl
theorem attest_waits {i n : Nat} (hrep : s.report = some (i, n)) (hout : ∃ a ∈ s.accs, i ≤ a.id ∧ a.id < n) : exec (.attest cmd) s = .next s := by
  have hdone : ¬ reportDone s (i, n) = true := by
    rw [reportDone_iff]
    obtain ⟨a, ha, hlo, hhi⟩ := hout
    exact fun hall => by have := hall a ha; omega
  rw [attest_eq, command_run h, hrep]
  exact congrArg Host.Outcome.next (if_neg hdone)
theorem attest_answers {i n : Nat} (hrep : s.report = some (i, n)) (hdone : ∀ a ∈ s.accs, a.id < i ∨ n ≤ a.id) :
    exec (.attest cmd) s = .next (Answered { s with report := none } cmd 0 0) := by
  rw [attest_eq, command_run h, hrep, ← cmdAns_eq _ cmd (by decide) (by decide)]
  exact congrArg Host.Outcome.next (if_pos ((reportDone_iff s i n).2 hdone))
end

/-! ## A boot image in its bytes (R427) -/

/-- A field below others, and what stands above it. -/
theorem add_mul_pow_mod {a k : Nat} (h : a < 2 ^ k) (b : Nat) : (a + 2 ^ k * b) % 2 ^ k = a := by
  rw [Nat.add_mul_mod_self_left, Nat.mod_eq_of_lt h]
theorem add_mul_pow_div {h a k m b : Nat} (hd : h / 2 ^ k = a + 2 ^ m * b) (ha : a < 2 ^ m) : h / 2 ^ (k + m) = b := by
  rw [Nat.pow_add, ← Nat.div_div_eq_div_mul, hd, Nat.add_mul_div_left _ _ (Nat.two_pow_pos m), Nat.div_eq_of_lt ha, Nat.zero_add]
theorem add_mul_pow_lt {a b k m : Nat} (ha : a < 2 ^ k) (hb : b < 2 ^ m) : a + 2 ^ k * b < 2 ^ (k + m) :=
  calc a + 2 ^ k * b < 2 ^ k * (b + 1) := by rw [Nat.mul_succ]; omega
    _ ≤ 2 ^ (k + m) := by rw [Nat.pow_add]; exact Nat.mul_le_mul_left _ hb

/-- The 64-byte header, its fields one above the other. -/
def imageHeader (v z sv w r n y : Nat) : Nat := v + 2 ^ 32 * (z + 2 ^ 96 * (sv + 2 ^ 64 * (w + 2 ^ 64 * (r + 2 ^ 64 * (n + 2 ^ 32 * y)))))

theorem imageHeader_eq (v z sv w r n y : Nat) :
    v + 2 ^ 32 * z + 2 ^ 128 * sv + 2 ^ 192 * w + 2 ^ 256 * r + 2 ^ 320 * n + 2 ^ 352 * y = imageHeader v z sv w r n y := by
  simp only [imageHeader, Nat.mul_add, ← Nat.mul_assoc, ← Nat.pow_add, Nat.reduceAdd, Nat.add_assoc]

/-- The header's fields read back. -/
theorem imageHeader_fields {v z sv w r n y : Nat} (hv : v < 2 ^ 32) (hz : z < 2 ^ 96) (hsv : sv < 2 ^ 64) (hw : w < 2 ^ 64) (hr : r < 2 ^ 64) (hn : n < 2 ^ 32)
    (hy : y < 2 ^ 160) : let h := imageHeader v z sv w r n y
    h < 2 ^ 512 ∧ h % 2 ^ 32 = v ∧ h / 2 ^ 32 % 2 ^ 96 = z ∧ h / 2 ^ 128 % 2 ^ 64 = sv ∧ h / 2 ^ 192 % 2 ^ 64 = w ∧ h / 2 ^ 256 % 2 ^ 64 = r ∧
      h / 2 ^ 320 % 2 ^ 32 = n ∧ h / 2 ^ 352 = y := by
  intro h
  have d0 : h / 2 ^ 0 = h := Nat.div_one h
  have d1 : h / 2 ^ 32 = z + 2 ^ 96 * (sv + 2 ^ 64 * (w + 2 ^ 64 * (r + 2 ^ 64 * (n + 2 ^ 32 * y)))) := add_mul_pow_div (k := 0) d0 hv
  have d2 : h / 2 ^ 128 = sv + 2 ^ 64 * (w + 2 ^ 64 * (r + 2 ^ 64 * (n + 2 ^ 32 * y))) := add_mul_pow_div d1 hz
  have d3 : h / 2 ^ 192 = w + 2 ^ 64 * (r + 2 ^ 64 * (n + 2 ^ 32 * y)) := add_mul_pow_div d2 hsv
  have d4 : h / 2 ^ 256 = r + 2 ^ 64 * (n + 2 ^ 32 * y) := add_mul_pow_div d3 hw
  have d5 : h / 2 ^ 320 = n + 2 ^ 32 * y := add_mul_pow_div d4 hr
  refine ⟨?_, add_mul_pow_mod hv _, ?_, ?_, ?_, ?_, ?_, add_mul_pow_div d5 hn⟩
  · exact add_mul_pow_lt hv (add_mul_pow_lt hz (add_mul_pow_lt hsv (add_mul_pow_lt hw (add_mul_pow_lt hr (add_mul_pow_lt hn hy)))))
  · rw [d1, add_mul_pow_mod hz]
  · rw [d2, add_mul_pow_mod hsv]
  · rw [d3, add_mul_pow_mod hw]
  · rw [d4, add_mul_pow_mod hr]
  · rw [d5, add_mul_pow_mod hn]

/-- A run in its bytes. -/
def runBytes (r : Nat × List Byte) : List Byte := natBytes 8 r.1 ++ natBytes 8 r.2.length ++ r.2

/-- The runs read back, and what follows them. -/
theorem runsOf_runBytes (runs : List (Nat × List Byte)) (h : ∀ x ∈ runs, x.1 < 2 ^ 64 ∧ x.2.length < 2 ^ 64) (sig : List Byte) :
    runsOf runs.length (runs.flatMap runBytes ++ sig) = some (runs, sig) := by
  induction runs with
  | nil => rfl
  | cons r runs ih =>
    obtain ⟨hpa, hlen⟩ := h r List.mem_cons_self
    have hrest := ih fun x hx => h x (List.mem_cons_of_mem r hx)
    generalize htail : runs.flatMap runBytes ++ sig = tail at hrest
    have hbytes : (r :: runs).flatMap runBytes ++ sig = natBytes 8 r.1 ++ (natBytes 8 r.2.length ++ (r.2 ++ tail)) := by
      rw [← htail, List.flatMap_cons, runBytes]
      simp only [List.append_assoc]
    have hread : ∀ x, x < 2 ^ 64 → leNum (natBytes 8 x) = x := fun x hx => (leNum_natBytes 8 x).trans (Nat.mod_eq_of_lt hx)
    have hdrop8 : (natBytes 8 r.1 ++ (natBytes 8 r.2.length ++ (r.2 ++ tail))).drop 8 = natBytes 8 r.2.length ++ (r.2 ++ tail) :=
      List.drop_left' (natBytes_length ..)
    have hdrop16 : (natBytes 8 r.1 ++ (natBytes 8 r.2.length ++ (r.2 ++ tail))).drop 16 = r.2 ++ tail := by
      rw [show 16 = 8 + 8 from rfl, ← List.drop_drop, hdrop8, List.drop_left' (natBytes_length ..)]
    have htake : (natBytes 8 r.1 ++ (natBytes 8 r.2.length ++ (r.2 ++ tail))).take 8 = natBytes 8 r.1 := List.take_left' (natBytes_length ..)
    have hfits : ¬ ((natBytes 8 r.1 ++ (natBytes 8 r.2.length ++ (r.2 ++ tail))).length < 16 ∨ (r.2 ++ tail).length < r.2.length) := by
      simp only [List.length_append, natBytes_length]
      omega
    rw [hbytes, List.length_cons, runsOf]
    rw [hdrop8, hdrop16, htake, List.take_left' (natBytes_length ..), hread _ hpa, hread _ hlen, if_neg hfits, List.drop_left, List.take_left, hrest]
    rfl

/-- An image's bytes are read as the image (R427). -/
theorem imageOf_imageBody {i : BootImage} {z y : Nat} {sig : List Byte} (hz : z < 2 ^ 96) (hy : y < 2 ^ 160) (hn : i.runs.length ≤ 256)
    (hruns : ∀ x ∈ i.runs, x.1 < 2 ^ 64 ∧ x.2.length < 2 ^ 64) (hzero : i.reservedZero = decide (z = 0 ∧ y = 0))
    (hsig : i.sigOk = Config.imageSigned (imageBody i z y) sig) : imageOf (imageBody i z y ++ sig) = some i := by
  obtain ⟨hlt, hv, hz', hsv, hw, hr, hn', hy'⟩ := imageHeader_fields i.version.isLt hz i.svPc.isLt i.walkPc.isLt i.root.isLt
    (show i.runs.length < 2 ^ 32 by omega) hy
  generalize hh : imageHeader i.version.toNat z i.svPc.toNat i.walkPc.toNat i.root.toNat i.runs.length y = h at hlt hv hz' hsv hw hr hn' hy'
  have hbody : imageBody i z y = natBytes 64 h ++ i.runs.flatMap runBytes := by
    rw [imageBody, imageHeader_eq, hh]
    rfl
  have hread : leNum ((imageBody i z y ++ sig).take 64) = h := by
    rw [hbody, List.append_assoc, List.take_left' (natBytes_length ..), leNum_natBytes]
    exact Nat.mod_eq_of_lt (hlt.trans_eq (pow_mul 2 8 64))
  have hrest : (imageBody i z y ++ sig).drop 64 = i.runs.flatMap runBytes ++ sig := by
    rw [hbody, List.append_assoc, List.drop_left' (natBytes_length ..)]
  have hlong : ¬ ((imageBody i z y ++ sig).length < 64 ∨ 256 < i.runs.length) := by
    rw [hbody]
    simp only [List.length_append, natBytes_length]
    omega
  have hsigned : (imageBody i z y ++ sig).take ((imageBody i z y ++ sig).length - sig.length) = imageBody i z y := by
    rw [List.length_append, Nat.add_sub_cancel, List.take_left]
  have hfield : ∀ {n : Nat} (x : BitVec n) {m : Nat}, m % 2 ^ n = x.toNat → BitVec.ofNat n m = x := fun x m hm =>
    BitVec.eq_of_toNat_eq ((BitVec.toNat_ofNat ..).trans hm)
  have hreserved : (y == 0 && z == 0) = i.reservedZero := by
    rw [hzero, Bool.eq_iff_iff]
    simp [and_comm]
  rw [imageOf, hread, hn', if_neg hlong, hrest, runsOf_runBytes i.runs hruns sig, Option.map_some]
  dsimp only
  rw [hsigned, ← hsig, hy', hz', hreserved, hfield _ hv, hfield _ hr, hfield _ hw, hfield _ hsv]

/-! ## BOOT_SET (R429) -/

theorem bootSet_eq (s : State) (cmd : W512) (img : BootImage) : exec (.bootSet cmd img) s = .next (command s cmd 3 [(72, 56), (256, 256)] (
    let b := cmdField cmd 64 8
    let host := cmdField cmd 128 64
    let len := cmdField cmd 192 64
    let pa := 0x100000000000 + host
    if host % 64 ≠ 0 ∨ 2 ^ 44 ≤ host ∨ s.hUp = false then cmdAns s cmd 2 5
    else if 16 ≤ b ∨ 16 * mib < len then cmdAns s cmd 2 3
    else if 2 ^ 44 < host + len ∨ (List.range ((len + 31) / 32)).any (fun k => (badSector s (pa / 32 + k)).isSome) then cmdAns s cmd 2 5
    else match imageOf (s.readBytes pa len) with
      | none => cmdAns s.bumpFree cmd 2 3
      | some x =>
        if x ≠ img then s
        else if imageOk s img then cmdAns { s.bumpFree with flash := { s.flash with boot := mset s.flash.boot b img } } cmd 0 0
        else cmdAns s.bumpFree cmd 2 3)) := rfl

theorem bootSet_mapped {s : State} {cmd : W512} (halign : cmd.toNat / 2 ^ 128 % 2 ^ 64 % 64 = 0) (hlt : cmd.toNat / 2 ^ 128 % 2 ^ 64 < 2 ^ 44)
    (hup : s.hUp = true) : ¬ (cmdField cmd 128 64 % 64 ≠ 0 ∨ 2 ^ 44 ≤ cmdField cmd 128 64 ∨ s.hUp = false) := by
  rintro (hne | hge | hdown)
  · exact hne halign
  · exact absurd hlt (Nat.not_lt.2 hge)
  · rw [hup] at hdown
    cases hdown

section
variable {s : State} {cmd : W512} (h : Executable s cmd 3 [(72, 56), (256, 256)])
include h

theorem bootSet_badAddress (hbad : cmd.toNat / 2 ^ 128 % 2 ^ 64 % 64 ≠ 0 ∨ 2 ^ 44 ≤ cmd.toNat / 2 ^ 128 % 2 ^ 64 ∨ s.hUp = false) (img : BootImage) :
    exec (.bootSet cmd img) s = .next (Answered s cmd 2 5) := by
  rw [bootSet_eq, command_run h, ← cmdAns_eq s cmd (by decide) (by decide)]
  exact congrArg Host.Outcome.next (if_pos hbad)

variable (halign : cmd.toNat / 2 ^ 128 % 2 ^ 64 % 64 = 0) (hlt : cmd.toNat / 2 ^ 128 % 2 ^ 64 < 2 ^ 44) (hup : s.hUp = true)
include halign hlt hup

theorem bootSet_badField (hbad : 16 ≤ cmd.toNat / 2 ^ 64 % 256 ∨ 2 ^ 24 < cmd.toNat / 2 ^ 192 % 2 ^ 64) (img : BootImage) :
    exec (.bootSet cmd img) s = .next (Answered s cmd 2 3) := by
  rw [bootSet_eq, command_run h, ← cmdAns_eq s cmd (by decide) (by decide)]
  exact congrArg Host.Outcome.next ((if_neg (bootSet_mapped halign hlt hup)).trans (if_pos hbad))

/-- The bytes at the address are an image: it is the row's, or the step is not taken (log 7). -/
theorem bootSet_reads {i : BootImage} (hb : cmd.toNat / 2 ^ 64 % 256 < 16) (hlen : cmd.toNat / 2 ^ 192 % 2 ^ 64 ≤ 2 ^ 24)
    (hend : cmd.toNat / 2 ^ 128 % 2 ^ 64 + cmd.toNat / 2 ^ 192 % 2 ^ 64 ≤ 2 ^ 44)
    (hgood : ∀ k, badSector s ((0x100000000000 + cmd.toNat / 2 ^ 128 % 2 ^ 64) / 32 + k) = none)
    (himg : imageOf (s.readBytes (0x100000000000 + cmd.toNat / 2 ^ 128 % 2 ^ 64) (cmd.toNat / 2 ^ 192 % 2 ^ 64)) = some i) (img : BootImage) :
    exec (.bootSet cmd img) s = .next (if i ≠ img then s
      else if imageOk s img then Answered { s.bumpFree with flash := { s.flash with boot := mset s.flash.boot (cmd.toNat / 2 ^ 64 % 256) img } } cmd 0 0
      else Answered s.bumpFree cmd 2 3) := by
  have hfield : ¬ (16 ≤ cmdField cmd 64 8 ∨ 16 * mib < cmdField cmd 192 64) := by
    rintro (h16 | hlong)
    · exact absurd hb (Nat.not_lt.2 h16)
    · exact absurd hlen (Nat.not_le.2 hlong)
  have hread : ¬ (2 ^ 44 < cmdField cmd 128 64 + cmdField cmd 192 64 ∨
      (List.range ((cmdField cmd 192 64 + 31) / 32)).any (fun k => (badSector s ((0x100000000000 + cmdField cmd 128 64) / 32 + k)).isSome) = true) := by
    rintro (hpast | hany)
    · exact absurd hend (Nat.not_le.2 hpast)
    · obtain ⟨k, -, hk⟩ := List.any_eq_true.1 hany
      have hnone : badSector s ((0x100000000000 + cmdField cmd 128 64) / 32 + k) = none := hgood k
      rw [hnone] at hk
      cases hk
  have himg' : imageOf (s.readBytes (0x100000000000 + cmdField cmd 128 64) (cmdField cmd 192 64)) = some i := himg
  rw [bootSet_eq, command_run h]
  dsimp only
  rw [if_neg (bootSet_mapped halign hlt hup), if_neg hfield, if_neg hread, himg', ← cmdAns_eq _ cmd (by decide) (by decide),
    ← cmdAns_eq s.bumpFree cmd (by decide) (by decide)]
  rfl
end

/-! ## The obligation -/

/-- The bays that a BAY_SET forms and ends, told of its answer. -/
theorem baySet_result {s : State} {cmd : W512} (h : Executable s cmd 1 [(320, 192)])
    (hcol : ∀ g, g < 32 → cmd.toNat / 2 ^ (64 + 8 * g) % 256 < 16 ∨ cmd.toNat / 2 ^ (64 + 8 * g) % 256 = 0x1F)
    (hfree : ∀ b ∈ changedBays s cmd, ∀ c ∈ s.coresOf b, (s.core c).blocks = []) (hst : s.st = .ready) (hsvc : ServiceFree s) :
    ∃ t : State, exec (.baySet cmd) s = .next t ∧ t.cmd = none ∧ t.ans.toNat = 2 ^ 16 * (cmd.toNat / 2 ^ 16 % 2 ^ 16) ∧ t.cols = newCols cmd ∧
      (∀ b, b ∉ changedBays s cmd → t.bay b = s.bay b) ∧ (∀ b, b ∈ changedBays s cmd → b ∉ baysToForm s cmd → (t.bay b).formed = false) ∧
      (∀ b i, b ∈ baysToForm s cmd → mget? s.flash.boot b = some i → Accepted s i → (t.bay b).formed = true ∧ (t.bay b).inc = (s.bay b).inc + 1 ∧
        (t.bay b).cont = none ∧ b ∉ t.booterr ∧ mget? t.loaded b = some i ∧ (∀ m, ((t.bay b).mailbox m).entries = []) ∧
        (∀ c ∈ t.coresOf b, (t.core c).blocks = [] ∧ (t.core c).tlb = [] ∧ (t.core c).copies = []) ∧ ReservedStart t t b i.root i.walkPc i.svPc) ∧
      ∀ b, b ∈ baysToForm s cmd → mget? s.flash.boot b = none ∨ (∃ i, mget? s.flash.boot b = some i ∧ i.sigOk = false) →
        (t.bay b).formed = false ∧ b ∈ t.booterr := by
  have hcols := baysFormed_leaves s cmd
  have hsame := fun b => baysFormed_unchanged (s := s) (cmd := cmd) (b := b)
  have hended : ∀ b, b ∈ changedBays s cmd → b ∉ baysToForm s cmd → ((baysFormed s cmd).bay b).formed = false := fun b hb hno => by
    rw [baysFormed_bay hno, bayEnded hb]
  have hformed := fun b i => baysFormed_accepted (s := s) (cmd := cmd) (b := b) (i := i)
  have hrefused := fun b => baysFormed_refused (s := s) (cmd := cmd) (b := b)
  rw [baySet_done h hcol hfree hst hsvc]
  generalize baysFormed s cmd = t at hcols hsame hended hformed hrefused
  refine ⟨_, rfl, rfl, answered_toNat t cmd, hcols, hsame, hended, fun b i hb hi hacc => ?_, hrefused⟩
  obtain ⟨hf, hinc, hcont, herr, hloaded, hmail, hcores, hstart⟩ := hformed b i hb hi hacc
  exact ⟨hf, hinc, hcont, herr, hloaded, hmail, hcores, hstart.walkers, hstart.supervisor⟩

/-- Settles O52: one lemma a case of each command; formation is `formed_formBay`, carried over the other bays' steps. -/
theorem managementCommandResults : Obligations.ManagementCommandResults := by
  unfold Obligations.ManagementCommandResults
  refine ⟨?baySet, ?attest, imageOk_iff, ?bootSet, ?nonzero, ?skipped⟩
  case baySet =>
    intro s cmd h col changes good
    have hchanged : ∀ b, b ∈ changedBays s cmd ↔ b < 16 ∧ changes b := fun b => mem_changedBays
    have hto : ∀ b, b ∈ baysToForm s cmd ↔ (b < 16 ∧ changes b) ∧ ∃ g, g < 32 ∧ col g = b := fun b => by rw [mem_baysToForm, hchanged]
    have hfree : good → ∀ b ∈ changedBays s cmd, ∀ c ∈ s.coresOf b, (s.core c).blocks = [] := fun hg b hb =>
      hg.2 b ((hchanged b).1 hb).1 ((hchanged b).1 hb).2
    refine ⟨fun hbad => baySet_failed h (.inl hbad), fun b c hb hch hc hblocks => baySet_failed h (.inr ⟨b, (hchanged b).2 ⟨hb, hch⟩, c, hc, hblocks⟩),
      fun hg hst => baySet_waits h hg.1 (hfree hg) hst, fun hg hst hsvc => ?_⟩
    obtain ⟨t, hrun, hcmd, hans, hcols, hsame, hended, hformed, hrefused⟩ := baySet_result h hg.1 (hfree hg) hst hsvc
    refine ⟨t, hrun, hcmd, by omega, by omega, fun g hlt => ?_, fun b _ hno => ?_, fun b hb hch hno => ?_, fun b i hb hch hcol => ?_, fun b hb hch hcol => ?_⟩
    · rw [hcols]
      exact mget?_newCols cmd hlt
    · rw [hsame b fun hb => hno ((hchanged b).1 hb).2]
      exact ⟨rfl, rfl⟩
    · exact hended b ((hchanged b).2 ⟨hb, hch⟩) fun hin => by
        obtain ⟨-, g, hlt, hg⟩ := (hto b).1 hin
        exact hno g hlt hg
    · exact hformed b i ((hto b).2 ⟨⟨hb, hch⟩, hcol⟩)
    · exact hrefused b ((hto b).2 ⟨⟨hb, hch⟩, hcol⟩)
  case attest =>
    intro s cmd h host
    refine ⟨attest_noLeaf h, attest_badAddress h, fun hrep hleaf halign hlt hup hfree => ?_, fun i n => attest_waits h, fun i n => attest_answers h⟩
    obtain ⟨new, n, hresult⟩ := reportStored_result s cmd halign hlt
    exact ⟨_, new, n, attest_stores h hrep hleaf halign hlt hup hfree, hresult⟩
  case bootSet =>
    intro s cmd h b host len pa
    refine ⟨bootSet_badAddress h, bootSet_badField h, fun i z y sig halign hup hb hlen hend hgood hz hy hn hruns hzero hsig hbytes => ?_⟩
    have himg : imageOf (s.readBytes pa len) = some i := by
      rw [show s.readBytes pa len = _ from hbytes]
      exact imageOf_imageBody hz hy hn hruns hzero hsig
    have hlong : 64 ≤ len := by
      have hlength := congrArg List.length hbytes
      simp only [List.length_map, List.length_range, imageBody, List.length_append, natBytes_length] at hlength
      omega
    have hrun := bootSet_reads h halign (show host < 2 ^ 44 by omega) hup hb hlen hend hgood himg
    refine ⟨fun img hne => ?_, ?_⟩
    · rw [hrun, if_pos (Ne.symm hne)]
    · rw [hrun, if_neg (not_not.2 rfl)]
  case nonzero =>
    intro s cmd hroot hpend hbad
    exact ⟨fun hop => congrArg Host.Outcome.next (command_nonzero hroot hpend hbad hop ..),
      fun hop => congrArg Host.Outcome.next (command_nonzero hroot hpend hbad hop ..),
      fun hop img => congrArg Host.Outcome.next (command_nonzero hroot hpend hbad hop ..)⟩
  case skipped =>
    intro s cmd h
    exact ⟨congrArg Host.Outcome.next (command_skipped h ..), congrArg Host.Outcome.next (command_skipped h ..),
      fun img => congrArg Host.Outcome.next (command_skipped h ..)⟩

end Sys2Proof.Machine
end

/-!
Work that waits for its time (R110, R111, R216, R324, R325; O43). A resent request and the lanes at BARSAVE are updates of the core; a parked load goes
on by `retryOne_placed`; the two stores of a sequencer's image meet the checks they met before the first of them went out (`SameChecks`).
-/

section
namespace Sys2Proof.Machine

/-! ## Object requests (R110) -/

/-- The object request by its fields. -/
theorem objMsg_eq (c : Nat) (r : ObjReq) : objMsg c r = BitVec.ofNat 512 (2 + c % 256 * 2 ^ 24 + (if r.wr then 2 ^ 40 else 0) + (if r.fv then 2 ^ 41 else 0) +
    r.frame % 2 ^ 22 * 2 ^ 42 + r.treq % 2 ^ 64 * 2 ^ 320 + r.name.toNat * 2 ^ 384) := by
  have hbit : ∀ b, (BitVec.ofBool b).toNat = if b then 1 else 0 := fun b => by cases b <;> rfl
  have hname := r.name.isLt
  apply BitVec.eq_of_toNat_eq
  simp only [objMsg, toNat_append_add, hbit, BitVec.ofNat_eq_ofNat, BitVec.toNat_ofNat]
  split <;> split <;> omega

theorem postMsg_appended {s : State} {c : Nat} (m : W512) (h : (s.core c).msgs = []) (hroom : ((s.bay (s.bayOf c)).mailbox 14).entries.length < 256) :
    postMsg s c m = s.appendMail (s.bayOf c) 14 m := by
  rw [postMsg, if_pos]
  simp [h, State.unread, hroom]
theorem postMsg_waits {s : State} {c : Nat} (m : W512)
    (h : (s.core c).msgs ≠ [] ∨ 256 ≤ ((s.bay (s.bayOf c)).mailbox 14).entries.length) :
    postMsg s c m = s.updCore c (fun co => { co with msgs := co.msgs ++ [m] }) := by
  rw [postMsg]
  refine if_neg fun hroom => ?_
  obtain ⟨hmsgs, hlt⟩ := Bool.and_eq_true_iff.1 hroom
  rcases h with h | h
  · exact h (List.isEmpty_iff.1 hmsgs)
  · exact Nat.not_lt.2 h (of_decide_eq_true hlt)

/-- A request as it is sent again at its core's T. -/
def resent (s : State) (c : Nat) (r : ObjReq) : ObjReq := { r with treq := s.coreT c, wr := waitsWrite s c r.name }
/-- The core with its i-th request sent again. -/
def Core.resend (i : Nat) (r : ObjReq) (co : Core) : Core := { co with reqs := co.reqs.set i r }

theorem objectRequestResend_due {s : State} {c i : Nat} {r : ObjReq} (hr : (s.core c).reqs[i]? = some r) (hdue : r.treq + 100000 ≤ s.coreT c) :
    exec (.objectRequestResend c i) s = .next (postMsg (s.updCore c (Core.resend i (resent s c r))) c (objMsg c (resent s c r))) := by
  change execObjectRequestResend c i s = _
  rw [execObjectRequestResend, hr]
  dsimp only
  rw [if_neg (by omega)]
  rfl
theorem objectRequestResend_early {s : State} {c i : Nat} {r : ObjReq} (hr : (s.core c).reqs[i]? = some r) (hearly : s.coreT c < r.treq + 100000) :
    exec (.objectRequestResend c i) s = .next s := by
  change execObjectRequestResend c i s = _
  rw [execObjectRequestResend, hr]
  exact congrArg Host.Outcome.next (if_pos hearly)

/-! ## Accesses parked on a frame (R111) -/

/-- The access parked on a frame as a retry that passes its checks makes it. -/
def unframed (s : State) (c : Nat) (a : Access) (ea : W64) (dst : Nat) : Access :=
  { a with ea := ea, ph := .flight dst, t0 := s.coreT c, retried := true, stuck := false, nosc := noscOf s c a.ag ea }

/-- A load that passes its checks without a TLB refill goes on to a place of this package. -/
theorem placeAcc_load {s : State} {c : Nat} {a : Access} (hk : a.kind = .load) (ea : W64) {dst : Nat} (hdst : isPeer dst = false) :
    placeAcc s c a (.go ea dst none) =
      some ({ s with accs := s.accs ++ [{ a with ea := ea, nosc := noscOf s c a.ag ea, ph := .flight dst, t0 := s.coreT c }] }, false) := by
  have hdata : storeData s c a = a.data := by rw [storeData, stpData_ne (by rw [hk]; decide)]
  have hw : (a.kind.isWrite && a.ridge.isNone) = false := by rw [hk]; rfl
  simp only [placeAcc, hdata, hw, hdst, Bool.not_false, Bool.true_and, Bool.false_eq_true, if_false]

theorem retryAccs_single {s t : State} {a : Access} (h : retryOne s a = (t, none)) : retryAccs s [a] = t := by
  simp only [retryAccs, sortAccs, List.foldr, insertAcc, List.foldl, h]
  rfl

/-- The retry of a parked load that passes its checks: the access is in flight, and its lanes go on. -/
theorem objectParkRetry_due {s : State} {acc c k l dst : Nat} {a : Access} {ea : W64} (ha : s.accs.filter (fun y => y.id == acc) = [a]) (hph : a.ph = .frame)
    (hag : a.ag = .thread c k l) (hk : a.kind = .load) (hdst : isPeer dst = false) (hprobe : probeOf s c a = .go ea dst none)
    (hdue : a.t0 + 10000 ≤ s.coreT c) : exec (.objectParkRetry acc) s =
      .next (unpark { s with accs := s.accs.filter (fun x => x.id != a.id) ++ [unframed s c a ea dst] } { a with retried := true, stuck := false }) := by
  have htlb : tlbCore? s a.ag = some c := by rw [hag]; rfl
  have hretry := retryOne_placed (A := a) htlb (by rw [hk]; decide) (show probeOf s c { a with retried := true, stuck := false } = _ from hprobe)
    (placeAcc_load (s := { s with accs := s.accs.filter (fun x => x.id != a.id) }) (a := { a with retried := true, stuck := false }) hk ea hdst)
  have hrun : exec (.objectParkRetry acc) s = .next (retryAccs s [a]) := by
    change execObjectParkRetry acc s = _
    rw [execObjectParkRetry, find?_of_filter_singleton ha]
    simp only [agentT, hag, agentCore?, hph, if_neg (Nat.not_lt.2 hdue)]
  exact hrun.trans (congrArg Host.Outcome.next (retryAccs_single hretry))
theorem objectParkRetry_early {s : State} {acc c k l : Nat} {a : Access} (ha : s.accs.filter (fun y => y.id == acc) = [a]) (hag : a.ag = .thread c k l)
    (hearly : s.coreT c < a.t0 + 10000) : exec (.objectParkRetry acc) s = .next s := by
  change execObjectParkRetry acc s = _
  rw [execObjectParkRetry, find?_of_filter_singleton ha]
  simp only [agentT, hag, agentCore?, if_pos hearly]

/-- The lanes parked on a load go on past it; nothing else of their course changes. -/
theorem unpark_load {s : State} {a : Access} {c k l : Nat} {x : Course} (hag : a.ag = .thread c k l) (hx : s.course? c k = some x) (hk : a.kind = .load)
    (hdest : a.dest ≠ .again) (hissv : a.issv = false) : OnlyCourse s (unpark s a) c k ∧
      ∃ y, (unpark s a).course? c k = some y ∧ y.u = x.u ∧ y.h = x.h ∧
        ∀ m, m < 8 → y.lane m = if m ∈ a.lanes ∧ (x.lane m).st = .parked a.id then { x.lane m with st := .ready, pc := a.next } else x.lane m := by
  unfold unpark
  rw [hag]
  refine ⟨onlyCourse_updCourse .., ?_⟩
  rw [State.course?_updCourse_self, hx, Option.map_some]
  refine ⟨_, rfl, rfl, rfl, fun m hm => ?_⟩
  rw [Course.lane_mapLanes _ _ hm]
  simp [hk, hdest, hissv]

/-! ## BARSAVE's lanes (R216) -/

/-- A lane that waits at BARSAVE goes on. -/
def barsaveLane (ln : Lane) : Lane := match ln.st with
  | .pend p => if p.kind = .barsave then { ln with st := .ready, pc := p.next } else ln
  | _ => ln
/-- The lanes of the courses of some slots of a core that wait at BARSAVE go on. -/
def barsaveDone (s : State) (c : Nat) (ks : List Nat) : State := ks.foldl (fun s k => s.updCourse c k (·.mapLanes (fun _ => barsaveLane))) s

theorem barsaveHeldAdds_done {s : State} {c b : Nat} {bl : Block} {img : W64} (hb : s.block? c b = some bl) (hdir : bl.dir = some img) (hheld : bl.heldAdds = [])
    (hbusy : imageBusy s bl = false) (hout : imageAddsOut s c bl img = false) : exec (.barsaveHeldAdds c b) s = .next (barsaveDone s c bl.slots) := by
  change execBarsaveHeldAdds c b s = _
  rw [execBarsaveHeldAdds, hb, Option.map_some, hheld]
  simp only [List.length_nil, Option.getD_some, drainAdds, hb, hdir, hbusy, hout, Bool.or_self, Bool.false_eq_true, if_false]
  rfl

/-- What a rewriting of courses leaves: bytes, accesses and blocks. -/
structure CoursesOnly (s t : State) : Prop where
  bytes : SameBytes s t
  accs : t.accs = s.accs
  block : ∀ c b, t.block? c b = s.block? c b
theorem coursesOnly_barsaveDone (s : State) (c : Nat) (ks : List Nat) : CoursesOnly s (barsaveDone s c ks) :=
  List.foldlRecOn (motive := fun t => CoursesOnly s t) ks _ ⟨fun _ => rfl, rfl, fun _ _ => rfl⟩ fun t ht k _ =>
    have honly := onlyCourse_updCourse t c k (·.mapLanes (fun _ => barsaveLane))
    ⟨fun a => (honly.bytes a).trans (ht.bytes a), honly.accs.trans ht.accs, fun c' b => (State.block?_updCourse ..).trans (ht.block c' b)⟩

theorem barsaveDone_course (s : State) (c k : Nat) {ks : List Nat} (hks : ks.Nodup) : (barsaveDone s c ks).course? c k =
    (s.course? c k).map (fun x => if k ∈ ks then x.mapLanes (fun _ => barsaveLane) else x) := by
  induction ks generalizing s with
  | nil => simp [barsaveDone]
  | cons j ks ih =>
    obtain ⟨hj, hks⟩ := List.nodup_cons.1 hks
    rw [barsaveDone, List.foldl_cons, ← barsaveDone, ih _ hks, State.course?_updCourse]
    by_cases hkj : k = j
    · subst hkj
      cases s.course? c k <;> simp [hj]
    · simp [hkj]

/-! ## The image of a stopped sequencer (R324, R325) -/

/-- The sequencer image as a number, by its fields. -/
def seqImageNat (q : Seq) : Nat :=
  let b := fun (x : Bool) => if x then 1 else 0
  8 * q.ta.toNat + 2 ^ 6 * q.tb.toNat + 2 ^ 9 * b q.sav + 2 ^ 10 * b (mget q.arm 0 false) + 2 ^ 11 * b (mget q.arm 1 false) + 2 ^ 12 * b (mget q.arm 2 false) +
    2 ^ 13 * b (mget q.arm 3 false) + 2 ^ 14 * (match q.run with | .running => 0 | .waiting => 1 | .ended => 2) + 2 ^ 16 * q.sareg.toNat +
    ((List.range 8).map (fun n => 2 ^ (160 + 16 * n) * (mget q.w n 0).toNat)).sum + ((List.range 4).map (fun n => 2 ^ (288 + 32 * n) * (mget q.c n 0).toNat)).sum +
    2 ^ 416 * q.sb.toNat + 2 ^ 448 * q.pc.toNat

theorem seqImage_toNat (q : Seq) : (seqImage (some q)).toNat = seqImageNat q := by
  have hbit : ∀ b, (BitVec.ofBool b).toNat = if b then 1 else 0 := fun b => by cases b <;> rfl
  have hrun : runNum q.run % 2 ^ 2 = match q.run with | .running => 0 | .waiting => 1 | .ended => 2 := by cases q.run <;> rfl
  simp only [seqImage, seqImageNat, toNat_append_add, hbit, BitVec.ofNat_eq_ofNat, BitVec.toNat_ofNat, Nat.zero_mod, hrun, List.range_succ, List.range_zero,
    List.map_append, List.map_cons, List.map_nil, List.sum_append, List.sum_cons, List.sum_nil, List.nil_append]
  omega

/-- t is s but for the accesses in flight, the copies and the cores, and the core's TLBs stand: an access of the core meets the same checks. -/
structure SameChecks (s t : State) (c : Nat) : Prop where
  package : { t with cores := s.cores, accs := s.accs, proxies := s.proxies, nextAcc := s.nextAcc } = s
  tlb : (t.core c).tlb = (s.core c).tlb
  qtlb : (t.core c).qtlb = (s.core c).qtlb

theorem SameChecks.trans {s t u : State} {c : Nat} (h : SameChecks s t c) (h' : SameChecks t u c) : SameChecks s u c where
  package := by
    calc { u with cores := s.cores, accs := s.accs, proxies := s.proxies, nextAcc := s.nextAcc }
        = { ({ u with cores := t.cores, accs := t.accs, proxies := t.proxies, nextAcc := t.nextAcc } : State) with
              cores := s.cores, accs := s.accs, proxies := s.proxies, nextAcc := s.nextAcc } := rfl
      _ = s := by rw [h'.package, h.package]
  tlb := h'.tlb.trans h.tlb
  qtlb := h'.qtlb.trans h.qtlb

section
variable {s t : State} {c : Nat} (h : SameChecks s t c)
include h
theorem SameChecks.coreT : t.coreT c = s.coreT c := (congrArg (State.coreT · c) h.package :)
theorem SameChecks.noscOf (ag : Agent) (ea : W64) : noscOf t c ag ea = Machine.noscOf s c ag ea := by
  rw [Machine.noscOf, tlbFind_congr h.tlb h.qtlb]
  rfl
theorem SameChecks.probeTail (ag : Agent) (k : AccKind) (form ea : W64) (size : Nat) (prv : Bool) :
    probeTail t c ag k form ea size prv = Machine.probeTail s c ag k form ea size prv := by
  have hleaf : ∀ z leaf, leafCheck t z leaf ea.toNat k prv = leafCheck s z leaf ea.toNat k prv := fun z leaf =>
    (congrArg (fun u => leafCheck u z leaf ea.toNat k prv) h.package :)
  have htarget : target? t ea.toNat = target? s ea.toNat := (congrArg (target? · ea.toNat) h.package :)
  have htables : inTables t ea.toNat = inTables s ea.toNat := (congrArg (inTables · ea.toNat) h.package :)
  have heave : ∀ x, inEave t x = inEave s x := fun x => (congrArg (inEave · x) h.package :)
  have hm : t.mUp = s.mUp := (congrArg State.mUp h.package :)
  have hh : t.hUp = s.hUp := (congrArg State.hUp h.package :)
  unfold Machine.probeTail
  simp only [htarget, htables, heave, hm, hh, tlbFind_congr h.tlb h.qtlb, hleaf]
theorem SameChecks.probeFrom {ag : Agent} (hag : lockable ag = false) (k : AccKind) (form ea : W64) (size : Nat) (prv : Bool) (mid : Option FaultRec) (iss : Nat) :
    probeFrom t c ag k form ea size prv mid iss = Machine.probeFrom s c ag k form ea size prv mid iss := by
  unfold Machine.probeFrom
  simp only [hag, Bool.false_eq_true, if_false, h.probeTail]
/-- An access that no range lock stops meets the same checks. -/
theorem SameChecks.probeOf {a : Access} (hag : lockable a.ag = false) (hk : a.kind ≠ .stp) :
    probeOf t c a = Machine.probeOf s c a := by
  have hmid : ∀ u, stpMid u c a = none := fun u => by rw [stpMid, if_neg fun hh => hk hh.1]
  have hframe : frameCheck t (t.bayOf c) a.form a.size a.kind.isWrite a.kind = frameCheck s (s.bayOf c) a.form a.size a.kind.isWrite a.kind :=
    (congrArg (fun u => frameCheck u (u.bayOf c) a.form a.size a.kind.isWrite a.kind) h.package :)
  have hpeer : ∀ p, peerValid t p = peerValid s p := fun p => (congrArg (peerValid · p) h.package :)
  unfold Machine.probeOf
  simp only [hmid, probeAccess, h.probeFrom hag, hframe, hpeer, h.probeTail]
end

/-! ### The two stores of the image -/

theorem sameChecks_dropCopies (s : State) (c dst ev : Nat) : SameChecks s (dropCopies s c dst ev) c := by
  have hcore : ((dropCopies s c dst ev).core c) = ((s.core c).touch (granOf s dst) ev (s.stepNo + 1)).dropCopy (granOf s dst) := by
    have hupd := (State.core_updCore s c c (fun co => (co.touch (granOf s dst) ev (s.stepNo + 1)).dropCopy (granOf s dst))).trans (if_pos rfl)
    unfold dropCopies
    split <;> exact hupd
  have htouch : ∀ co : Core, (co.touch (granOf s dst) ev (s.stepNo + 1)).tlb = co.tlb ∧ (co.touch (granOf s dst) ev (s.stepNo + 1)).qtlb = co.qtlb := fun co => by
    unfold Core.touch
    split <;> exact ⟨rfl, rfl⟩
  refine ⟨?_, ?_, ?_⟩
  · unfold dropCopies
    split <;> rfl
  · rw [hcore]; exact (htouch _).1
  · rw [hcore]; exact (htouch _).2

/-- A store as it goes out of a core, and the state that it leaves. -/
def Access.gone (a : Access) (s : State) (c : Nat) (ea : W64) (dst : Nat) : Access :=
  { a with ea := ea, ph := .flight dst, t0 := s.coreT c, nosc := !isPeer dst && noscOf s c a.ag ea }
def storeGone (s : State) (c : Nat) (a : Access) (ea : W64) (dst : Nat) : State :=
  { dropCopies s c dst a.ev with accs := s.accs ++ [a.gone s c ea dst] }

theorem placeAcc_store {s : State} {c : Nat} {a : Access} (hk : a.kind = .store) (hr : a.ridge = none) (ea : W64) (dst : Nat) :
    placeAcc s c a (.go ea dst none) = some (storeGone s c a ea dst, false) := by
  have hdata : storeData s c a = a.data := by rw [storeData, stpData_ne (by rw [hk]; decide)]
  have hw : (a.kind.isWrite && a.ridge.isNone) = true := by rw [hk, hr]; rfl
  have hsame := sameChecks_dropCopies s c dst a.ev
  simp only [placeAcc, hdata, hw, if_true, hsame.coreT, (cachesOnly_dropCopies s c dst a.ev).accs]
  rfl

theorem sameChecks_storeGone (s : State) (c : Nat) (a : Access) (ea : W64) (dst : Nat) : SameChecks s (storeGone s c a ea dst) c :=
  (sameChecks_dropCopies s c dst a.ev).trans ⟨rfl, rfl, rfl⟩
theorem SameChecks.gone {s t : State} {c : Nat} (h : SameChecks s t c) (a : Access) (ea : W64) (dst : Nat) : a.gone t c ea dst = a.gone s c ea dst := by
  rw [Access.gone, h.coreT, h.noscOf]
  rfl
theorem SameChecks.sameBytes {s t : State} {c : Nat} (h : SameChecks s t c) : SameBytes s t := fun e => (congrArg (·.readByte e) h.package :)
theorem storeGone_block? (s : State) (c : Nat) (a : Access) (ea : W64) (dst d b : Nat) : (storeGone s c a ea dst).block? d b = s.block? d b :=
  (cachesOnly_dropCopies s c dst a.ev).blocks d b

/-- The i-th store of the image of the sequencer of a block (R325). -/
def imageStore (s : State) (c : Nat) (bl : Block) (img i : Nat) : Access :=
  { id := s.nextAcc + i, iss := 0, ag := .core c, kind := .store, form := bl.save + BitVec.ofNat 64 (64 + 32 * i), ea := bl.save + BitVec.ofNat 64 (64 + 32 * i),
    size := 32, data := natBytes 32 (img / 2 ^ (256 * i)), scope := 3, prv := true }
/-- The block notes the stores of its sequencer's image, and its sequencer is stopped. -/
def imageNoted (s : State) (c b : Nat) (bl : Block) (q : Seq) : State :=
  ({ s with nextAcc := s.nextAcc + 2 } : State).setBlock c b { bl with image := some [s.nextAcc, s.nextAcc + 1], seq := some { q with stopped := true } }

theorem sameChecks_setBlock (s : State) (c b : Nat) (bl : Block) : SameChecks s (s.setBlock c b bl) c where
  package := rfl
  tlb := by rw [State.setBlock, State.core_setCore, if_pos rfl]
  qtlb := by rw [State.setBlock, State.core_setCore, if_pos rfl]
theorem sameChecks_imageNoted (s : State) (c b : Nat) (bl : Block) (q : Seq) : SameChecks s (imageNoted s c b bl q) c :=
  SameChecks.trans (t := { s with nextAcc := s.nextAcc + 2 }) ⟨rfl, rfl, rfl⟩ (sameChecks_setBlock ..)

/-- A store of a core to an image: placed, or its fault; none where it is held (R416). -/
def coreStore (c : Nat) (s : State) (a : Access) : Option State :=
  match probeOf s c a with
  | .bad r => some (imageFault s c a.form r)
  | pr => (placeAcc s c a pr).map (fun x => x.1)
theorem coreStore_of_go {s : State} {c : Nat} {a : Access} {ea : W64} {dst : Nat} (hk : a.kind = .store) (hr : a.ridge = none)
    (h : probeOf s c a = .go ea dst none) : coreStore c s a = some (storeGone s c a ea dst) := by
  rw [coreStore, h]
  exact congrArg (Option.map _) (placeAcc_store hk hr ea dst)

theorem sequencerStop_eq {s : State} {c b : Nat} {bl : Block} {q : Seq} (hb : s.block? c b = some bl) (hq : bl.seq = some q)
    (hst : bl.st = .saving) (himg : bl.image = none) (hops : q.ops = []) : exec (.sequencerStop c b) s =
      .next (((coreStore c (imageNoted s c b bl q) (imageStore s c bl (seqImageNat q) 0)).bind
        (coreStore c · (imageStore s c bl (seqImageNat q) 1))).getD s) := by
  change execSequencerStop c b s = _
  rw [execSequencerStop, hb, ← seqImage_toNat]
  dsimp only
  rw [if_neg (by simp [hst, himg, hq, hops]), hq]
  rfl
/-- A stopped sequencer whose stores pass their checks stores its image. -/
theorem sequencerStop_stores {s : State} {c b : Nat} {bl : Block} {q : Seq} {ea0 ea1 : W64} {d0 d1 : Nat} (hb : s.block? c b = some bl) (hq : bl.seq = some q)
    (hst : bl.st = .saving) (himg : bl.image = none) (hops : q.ops = [])
    (h0 : probeOf s c (imageStore s c bl (seqImageNat q) 0) = .go ea0 d0 none) (h1 : probeOf s c (imageStore s c bl (seqImageNat q) 1) = .go ea1 d1 none) :
    exec (.sequencerStop c b) s = .next (storeGone (storeGone (imageNoted s c b bl q) c (imageStore s c bl (seqImageNat q) 0) ea0 d0) c
      (imageStore s c bl (seqImageNat q) 1) ea1 d1) := by
  have hnoted := sameChecks_imageNoted s c b bl q
  have hgone := hnoted.trans (sameChecks_storeGone (imageNoted s c b bl q) c (imageStore s c bl (seqImageNat q) 0) ea0 d0)
  have hkind : ∀ i, (imageStore s c bl (seqImageNat q) i).kind ≠ .stp := fun i => by simp [imageStore]
  rw [sequencerStop_eq hb hq hst himg hops, coreStore_of_go rfl rfl ((hnoted.probeOf rfl (hkind 0)).trans h0), Option.bind_some,
    coreStore_of_go rfl rfl ((hgone.probeOf rfl (hkind 1)).trans h1), Option.getD_some]
theorem sequencerStop_busy {s : State} {c b : Nat} {bl : Block} {q : Seq} (hb : s.block? c b = some bl) (hq : bl.seq = some q) (hops : q.ops ≠ []) :
    exec (.sequencerStop c b) s = .next s := by
  change execSequencerStop c b s = _
  rw [execSequencerStop, hb]
  simp [hq, hops]

/-! ## The obligation -/

/-- Settles O43: one lemma for each moment at which waiting work goes on, and one for the time before it. -/
theorem waitingWorkGoesOn : Obligations.WaitingWorkGoesOn := by
  unfold Obligations.WaitingWorkGoesOn
  refine ⟨?resend, ?park, ?barsave, ?stop, fun s core blk bl q hb hq hops => sequencerStop_busy hb hq hops⟩
  case resend =>
    intro s core i r hr r' m mb s1
    refine ⟨fun hdue => ⟨_, objectRequestResend_due hr hdue, fun hmsgs hroom => ?_, fun hfull => ?_⟩, fun hearly => objectRequestResend_early hr hearly⟩
    all_goals rw [objMsg_eq]
    · exact postMsg_appended (s := s1) m (by simpa [s1] using hmsgs) hroom
    · refine (postMsg_waits (s := s1) m (hfull.imp (fun hmsgs => by simpa [s1] using hmsgs) id)).trans ?_
      simp [State.updCore, s1]
  case park =>
    intro s acc a c k l x ea dst ha hph hag hk hdst hx hprobe hdest hissv
    have hid : a.id = acc := by simpa using List.find?_some (find?_of_filter_singleton ha)
    refine ⟨fun hdue => ?_, fun hearly => objectParkRetry_early ha hag hearly⟩
    obtain ⟨honly, y, hy, hu, hh, hlane⟩ := unpark_load (s := { s with accs := s.accs.filter (fun x => x.id != a.id) ++ [unframed s c a ea dst] })
      (a := { a with retried := true, stuck := false }) hag hx hk hdest hissv
    refine ⟨_, y, objectParkRetry_due ha hph hag hk hdst hprobe hdue, honly.bytes, honly.accs.trans ?_, hy, hu, hh, hid ▸ hlane⟩
    have hdrop : s.accs.filter (fun x => x.id != a.id) = s.accs.filter (fun z => decide (z.id ≠ acc)) := by
      rw [← hid]
      exact congrArg State.accs (dropAcc_eq s a.id)
    rw [hdrop]
    rfl
  case barsave =>
    intro s core blk bl img hb hdir hheld hbusy hout hslots
    have honly := coursesOnly_barsaveDone s core bl.slots
    refine ⟨_, barsaveHeldAdds_done hb hdir hheld hbusy hout, honly.bytes, honly.accs, (honly.block core blk).trans hb, fun k x hx => ?_⟩
    rw [barsaveDone_course s core k hslots, hx, Option.map_some]
    refine ⟨_, rfl, ?_, fun l hl => ?_⟩
    · split <;> rfl
    · by_cases hk : k ∈ bl.slots
      · rw [if_pos hk, Course.lane_mapLanes _ _ hl, barsaveLane]
        simp only [hk, and_true] <;> rfl
      · rw [if_neg hk]
        simp only [hk, and_false, if_false]
        split <;> rfl
  case stop =>
    intro s core blk bl q ea0 d0 ea1 d1 hb hq hst himg hops b img st h0 h1
    have hnoted := sameChecks_imageNoted s core blk bl q
    have hfirst := sameChecks_storeGone (imageNoted s core blk bl q) core (imageStore s core bl (seqImageNat q) 0) ea0 d0
    have hsecond := sameChecks_storeGone (storeGone (imageNoted s core blk bl q) core (imageStore s core bl (seqImageNat q) 0) ea0 d0) core
      (imageStore s core bl (seqImageNat q) 1) ea1 d1
    refine ⟨_, sequencerStop_stores hb hq hst himg hops h0 h1, ((hnoted.trans hfirst).trans hsecond).sameBytes, ?_, ?_⟩
    · rw [storeGone, (hnoted.trans hfirst).gone, storeGone, hnoted.gone]
      exact List.append_assoc ..
    · rw [storeGone_block?, storeGone_block?, imageNoted, State.block?_setBlock, if_pos ⟨rfl, rfl⟩]

end Sys2Proof.Machine
end

/-!
OBJMAP, OBJUNMAP and OBJSTAT (R104 to R107, R320 to R322, R385; O25). The layers: bytes and numbers that a write leaves; the entries of the two tables as
numbers of 32 bytes (`bucketVal`, `frameVal`, `entryVal`); the probe (`probe_hit`), the old bucket (`oldDropped`) and the first free one; a frame taken by
a request (`FrameMapped`); OBJMAP's step case by case; and the words over them.
-/

section
namespace Sys2Proof.Machine

/-! ## Bytes that a write leaves (R4, R84, R93) -/

/-- Whether a byte lies in an open range and, if so, whether its earlier values count there. -/
def heldAt (us : List Undef) (e : Nat) : Option Bool := (us.find? (fun u => decide (u.lo ≤ e ∧ e ≤ u.hi))).map (·.held)
/-- Taking a byte out of the open ranges leaves how the others stand. -/
theorem heldAt_undefDrop (us : List Undef) {a e : Nat} (h : e ≠ a) : heldAt (undefDrop us a) e = heldAt us e := by
  rw [heldAt, heldAt]
  induction us with
  | nil => rfl
  | cons u us ih =>
    rw [undefDrop, List.flatMap_cons, ← undefDrop, List.find?_append, List.find?_cons]
    by_cases ha : u.lo ≤ a ∧ a ≤ u.hi
    · rw [if_pos (by simpa using ha)]
      by_cases he : u.lo ≤ e ∧ e ≤ u.hi
      · rcases Nat.lt_or_gt_of_ne h with hlt | hgt
        · rw [if_pos (by omega), List.find?_append, List.find?_cons_of_pos (by simp; omega)]
          simp [he]
        · rw [if_pos (show a < u.hi by omega), List.find?_append, List.find?_eq_none.2 (by split <;> simp; omega), List.find?_cons_of_pos (by simp; omega)]
          simp [he]
      · rw [List.find?_append, List.find?_eq_none.2 (by split <;> simp; omega), List.find?_eq_none.2 (by split <;> simp; omega)]
        simpa [he] using ih
    · rw [if_neg (by simpa using ha)]
      by_cases he : u.lo ≤ e ∧ e ≤ u.hi
      · simp [he]
      · simpa [he] using ih

theorem State.readByte_of_heldAt {s t : State} {e : Nat} (hheld : heldAt t.undef e = heldAt s.undef e) (hmem : memGet t.mem e = memGet s.mem e)
    (hhist : mget t.hist e [] = mget s.hist e []) (hfree : t.free = s.free) : t.readByte e = s.readByte e := by
  rw [heldAt, heldAt] at hheld
  rw [State.readByte, State.readByte, hmem, hhist, hfree]
  cases ht : t.undef.find? (fun u => decide (u.lo ≤ e ∧ e ≤ u.hi)) with
  | none =>
    rw [ht, Option.map_none, eq_comm, Option.map_eq_none_iff] at hheld
    rw [hheld]
  | some u =>
    rw [ht, Option.map_some, eq_comm, Option.map_eq_some_iff] at hheld
    obtain ⟨w, hw, hheld⟩ := hheld
    rw [hw]
    dsimp only
    rw [hheld]
theorem State.readByte_writeByte_ne (s : State) {a e : Nat} (b : Byte) (h : e ≠ a) : (s.writeByte a b).readByte e = s.readByte e :=
  State.readByte_of_heldAt (heldAt_undefDrop _ h) (by rw [State.writeByte_mem, memGet_memSet, if_neg h]) (mget_mset_ne _ _ _ h) rfl
theorem State.readByte_writeBytes_of_out (s : State) {a e : Nat} {bs : List Byte} (h : e < a ∨ a + bs.length ≤ e) :
    (s.writeBytes a bs).readByte e = s.readByte e := by
  induction bs generalizing s a with
  | nil => rfl
  | cons b bs ih =>
    rw [List.length_cons] at h
    rw [State.writeBytes, ih _ (by omega), State.readByte_writeByte_ne _ _ (by omega)]

/-! ## Numbers in memory -/

theorem readNat_congr {s t : State} {a n : Nat} (h : ∀ i, i < n → t.readByte (a + i) = s.readByte (a + i)) : t.readNat a n = s.readNat a n := by
  rw [State.readNat, State.readNat, State.readBytes, State.readBytes]
  exact congrArg leNum (List.map_congr_left fun i hi => h i (List.mem_range.1 hi))
theorem readNat_writeBytes_of_out (s : State) {a e n : Nat} {bs : List Byte} (h : e + n ≤ a ∨ a + bs.length ≤ e) :
    (s.writeBytes a bs).readNat e n = s.readNat e n :=
  readNat_congr fun _ _ => State.readByte_writeBytes_of_out s (by omega)
theorem readNat_lt (s : State) (a n : Nat) : s.readNat a n < 256 ^ n := by
  have h := leNum_lt (s.readBytes a n)
  rwa [State.readBytes, List.length_map, List.length_range] at h
theorem leNum_append (x y : List Byte) : leNum (x ++ y) = leNum x + 256 ^ x.length * leNum y := by
  induction x with
  | nil => simp [leNum]
  | cons b x ih =>
    rw [List.cons_append, leNum, ih, leNum, List.length_cons, Nat.pow_succ']
    ring
/-- A number of m + n bytes by its first m and its other n. -/
theorem readNat_add (s : State) (a m n : Nat) : s.readNat a (m + n) = s.readNat a m + 256 ^ m * s.readNat (a + m) n := by
  have hsplit : s.readBytes a (m + n) = s.readBytes a m ++ s.readBytes (a + m) n := by
    simp [State.readBytes, List.range_add, Nat.add_assoc]
  rw [State.readNat, hsplit, leNum_append, State.readBytes, List.length_map, List.length_range]
  rfl
theorem readNat_mod (s : State) (a m n : Nat) : s.readNat a m = s.readNat a (m + n) % 256 ^ m := by
  rw [readNat_add, Nat.add_mul_mod_self_left, Nat.mod_eq_of_lt (readNat_lt s a m)]
theorem readNat_div (s : State) (a m n : Nat) : s.readNat (a + m) n = s.readNat a (m + n) / 256 ^ m := by
  rw [readNat_add, Nat.add_mul_div_left _ _ (by positivity), Nat.div_eq_of_lt (readNat_lt s a m), Nat.zero_add]

/-! ## The entries of the tables as numbers (R104, R105) -/

/-- The 32 bytes of a frame's entry. -/
def frameVal (s : State) (b f : Nat) : Nat := s.readNat (frameAddr s b f) 32

theorem frameLow_eq (s : State) (b f : Nat) : frameLow s b f = frameVal s b f % 2 ^ 64 := readNat_mod s _ 8 24
theorem frameState_eq (s : State) (b f : Nat) : frameState s b f = frameVal s b f / 2 ^ 25 % 8 := by
  rw [frameState, frameLow_eq]; omega
theorem frameGen_eq (s : State) (b f : Nat) : frameGen s b f = BitVec.ofNat 4 (frameVal s b f / 2 ^ 28) := by
  rw [frameGen, frameLow_eq]
  apply BitVec.eq_of_toNat_eq
  rw [BitVec.toNat_ofNat, BitVec.toNat_ofNat]
  omega
theorem frameName_eq (s : State) (b f : Nat) : frameName s b f = BitVec.ofNat 128 (frameVal s b f / 2 ^ 128) := by
  rw [frameName, readNat_div s (frameAddr s b f) 16 16]
  rfl
theorem bucketLow_eq (s : State) (b i : Nat) : bucketLow s b i = bucketVal s b i % 2 ^ 64 := readNat_mod s _ 8 24
theorem bucketSt_eq (s : State) (b i : Nat) : bucketSt s b i = bucketVal s b i % 4 := by
  rw [bucketSt, bucketLow_eq]; omega
theorem bucketFrame_eq (s : State) (b i : Nat) : bucketFrame s b i = bucketVal s b i / 2 ^ 34 % 2 ^ 22 := by
  rw [bucketFrame, bucketLow_eq]; omega
theorem bucketVal_lt (s : State) (b i : Nat) : bucketVal s b i < 2 ^ 256 := readNat_lt s _ 32
theorem bucketName_toNat (s : State) (b i : Nat) : (bucketName s b i).toNat = bucketVal s b i / 2 ^ 128 := by
  have hlt := bucketVal_lt s b i
  rw [bucketName, readNat_div s (bucketAddr s b i) 16 16, BitVec.toNat_ofNat]
  change bucketVal s b i / 2 ^ 128 % 2 ^ 128 = _
  omega
theorem nameKey_toNat (n : W128) : (nameKey n).toNat = n.toNat / 2 ^ 48 % 2 ^ 79 := by
  rw [nameKey, BitVec.toNat_setWidth, BitVec.toNat_ushiftRight, Nat.shiftRight_eq_div_pow]
theorem nameKey_bucketName (s : State) (b i : Nat) (n : W128) :
    nameKey (bucketName s b i) = nameKey n ↔ bucketVal s b i / 2 ^ 176 % 2 ^ 79 = n.toNat / 2 ^ 48 % 2 ^ 79 := by
  rw [← BitVec.toNat_inj, nameKey_toNat, nameKey_toNat, bucketName_toNat, Nat.div_div_eq_div_mul, ← Nat.pow_add]
theorem bucketOf_lt (s : State) (b : Nat) (n : W128) (k : Nat) : bucketOf s b n k < 2 ^ (s.bay b).otb := Nat.mod_lt _ (by positivity)

/-! ## The probe (R104) -/

/-- Bucket i is in use and holds the name n. -/
def Holds (s : State) (b : Nat) (n : W128) (i : Nat) : Prop :=
  bucketVal s b i % 4 = 1 ∧ bucketVal s b i / 2 ^ 176 % 2 ^ 79 = n.toNat / 2 ^ 48 % 2 ^ 79
theorem holds_iff (s : State) (b : Nat) (n : W128) (i : Nat) : bucketSt s b i = 1 ∧ nameKey (bucketName s b i) = nameKey n ↔ Holds s b n i := by
  rw [bucketSt_eq, nameKey_bucketName, Holds]
theorem hitAt_iff {s : State} {b : Nat} {n : W128} {k i f : Nat} : HitAt s b n k i f ↔ k < 8 ∧ i = bucketOf s b n k ∧ Holds s b n i ∧
    bucketFrame s b i = f ∧ ∀ j, j < k → bucketVal s b (bucketOf s b n j) % 4 ≠ 0 ∧ ¬ Holds s b n (bucketOf s b n j) := by
  rw [bucketFrame_eq]; rfl
theorem probeBucket_cons (s : State) (b : Nat) (n : W128) (k : Nat) (ks : List Nat) : probeBucket s b n (k :: ks) =
    if bucketVal s b (bucketOf s b n k) % 4 = 0 then none
    else if bucketSt s b (bucketOf s b n k) = 1 ∧ nameKey (bucketName s b (bucketOf s b n k)) = nameKey n then some (bucketOf s b n k)
    else probeBucket s b n ks := by
  rw [← bucketSt_eq]; rfl
/-- What a probe of m buckets from the k-th on finds. -/
theorem probeBucket_range' (s : State) (b : Nat) (n : W128) (i m k : Nat) : probeBucket s b n (List.range' k m) = some i ↔
    ∃ j, k ≤ j ∧ j < k + m ∧ i = bucketOf s b n j ∧ Holds s b n i ∧
      ∀ l, k ≤ l → l < j → bucketVal s b (bucketOf s b n l) % 4 ≠ 0 ∧ ¬ Holds s b n (bucketOf s b n l) := by
  induction m generalizing k with
  | zero => simp only [List.range'_zero, probeBucket, reduceCtorEq, false_iff]; omega
  | succ m ih =>
    rw [List.range'_succ, probeBucket_cons]
    split
    · next hfree =>
      refine iff_of_false (Option.some_ne_none i).symm ?_
      rintro ⟨j, hkj, -, rfl, hholds, hbefore⟩
      rcases hkj.eq_or_lt with rfl | hlt
      · rw [hholds.1] at hfree; omega
      · exact (hbefore k le_rfl hlt).1 hfree
    · next hused =>
      split
      · next hhere =>
        rw [holds_iff] at hhere
        constructor
        · intro h
          cases h
          exact ⟨k, le_rfl, by omega, rfl, hhere, fun l hkl hlk => by omega⟩
        · rintro ⟨j, hkj, -, rfl, -, hbefore⟩
          rcases hkj.eq_or_lt with rfl | hlt
          · rfl
          · exact absurd hhere (hbefore k le_rfl hlt).2
      · next hother =>
        rw [holds_iff] at hother
        rw [ih]
        constructor
        · rintro ⟨j, hkj, hj, hi, hholds, hbefore⟩
          refine ⟨j, by omega, by omega, hi, hholds, fun l hkl hlj => ?_⟩
          rcases hkl.eq_or_lt with rfl | hlt
          · exact ⟨hused, hother⟩
          · exact hbefore l hlt hlj
        · rintro ⟨j, hkj, hj, rfl, hholds, hbefore⟩
          rcases hkj.eq_or_lt with rfl | hlt
          · exact absurd hholds hother
          · exact ⟨j, hlt, by omega, rfl, hholds, fun l hkl => hbefore l (by omega)⟩
/-- A probe finds the bucket where its name hits. -/
theorem probeBucket_hit (s : State) (b : Nat) (n : W128) (i : Nat) :
    probeBucket s b n [0, 1, 2, 3, 4, 5, 6, 7] = some i ↔ ∃ k, HitAt s b n k i (bucketFrame s b i) := by
  rw [show [0, 1, 2, 3, 4, 5, 6, 7] = List.range' 0 8 from rfl, probeBucket_range']
  simp [hitAt_iff]
theorem probe_hit {s : State} {b : Nat} (h : (s.bay b).otb ≠ 0) (n : W128) (g : Nat) : probe s b n = some g ↔ ∃ k i, HitAt s b n k i g := by
  rw [probe, if_neg h, Option.map_eq_some_iff]
  constructor
  · rintro ⟨i, hi, rfl⟩
    obtain ⟨k, hk⟩ := (probeBucket_hit ..).1 hi
    exact ⟨k, i, hk⟩
  · rintro ⟨k, i, hk⟩
    obtain ⟨-, -, -, hframe, -⟩ := hitAt_iff.1 hk
    exact ⟨i, (probeBucket_hit ..).2 ⟨k, hframe ▸ hk⟩, hframe⟩
/-- A probe for the name in frame f's entry hits bucket i, which gives f: it is the bucket of the frame's old name. -/
def OldBucket (s : State) (b f i : Nat) : Prop := ∃ k, HitAt s b (frameName s b f) k i f
theorem OldBucket.lt {s : State} {b f i : Nat} (h : OldBucket s b f i) : i < 2 ^ (s.bay b).otb := by
  obtain ⟨k, hk⟩ := h
  obtain ⟨-, rfl, -, -, -⟩ := hitAt_iff.1 hk
  exact bucketOf_lt ..
theorem OldBucket.found {s : State} {b f i : Nat} (h : OldBucket s b f i) :
    probeBucket s b (frameName s b f) [0, 1, 2, 3, 4, 5, 6, 7] = some i := by
  obtain ⟨k, hk⟩ := h
  obtain ⟨-, -, -, hframe, -⟩ := hitAt_iff.1 hk
  rw [probeBucket_hit, hframe]
  exact ⟨k, hk⟩

/-! ## Entries written -/

/-- The bytes of a frame's entry by its fields (R105). -/
def entryVal (n : W128) (base : W64) (len : Nat) (gen : BitVec 4) (st mode : Nat) : Nat :=
  n.toNat * 2 ^ 128 + base.toNat * 2 ^ 64 + len * 2 ^ 32 + gen.toNat * 2 ^ 28 + st * 2 ^ 25 + mode * 2 ^ 23
section
variable (n : W128) (base : W64) (gen : BitVec 4) {len st mode : Nat} (hst : st < 8) (hm : mode < 4)
include hst hm
theorem entryVal_gen : BitVec.ofNat 4 (entryVal n base len gen st mode / 2 ^ 28) = gen := by
  apply BitVec.eq_of_toNat_eq
  have hg := gen.isLt
  rw [BitVec.toNat_ofNat, entryVal]
  omega
theorem entryVal_state : entryVal n base len gen st mode / 2 ^ 25 % 8 = st := by
  rw [entryVal]
  omega
variable (hl : len < 2 ^ 32)
include hl
theorem entryVal_lt : entryVal n base len gen st mode < 256 ^ 32 := by
  have hn := n.isLt
  have hb := base.isLt
  have hg := gen.isLt
  rw [entryVal]
  omega
theorem entryVal_name : BitVec.ofNat 128 (entryVal n base len gen st mode / 2 ^ 128) = n := by
  have hb := base.isLt
  have hg := gen.isLt
  have hdiv : entryVal n base len gen st mode / 2 ^ 128 = n.toNat := by rw [entryVal]; omega
  rw [hdiv, BitVec.ofNat_toNat, BitVec.setWidth_eq]
end

theorem bay_writeBytes (s : State) (a : Nat) (bs : List Byte) (b : Nat) : (s.writeBytes a bs).bay b = s.bay b := by
  rw [State.bay, State.bay, (congrArg State.bays (writeBytes_package s a bs) :)]
theorem writeBucket_eq (s : State) (b i : Nat) (n : W128) (f st : Nat) : writeBucket s b i n f st =
    s.writeBytes ((s.bay b).otBase + 32 * i) (natBytes 32 (n.toNat * 2 ^ 128 + f * 2 ^ 34 + st)) := rfl
theorem bay_writeBucket (s : State) (b i : Nat) (n : W128) (f st d : Nat) : (writeBucket s b i n f st).bay d = s.bay d := bay_writeBytes ..
theorem bay_writeFrame (s : State) (b f : Nat) (n : W128) (base : W64) (len : Nat) (gen : BitVec 4) (st mode d : Nat) :
    (writeFrame s b f n base len gen st mode).bay d = s.bay d := bay_writeBytes ..
theorem bucketVal_writeBucket_same (s : State) (b i : Nat) (n : W128) {f st : Nat} (hf : f < 2 ^ 22) (hst : st < 4) :
    bucketVal (writeBucket s b i n f st) b i = n.toNat * 2 ^ 128 + f * 2 ^ 34 + st := by
  have hn := n.isLt
  rw [bucketVal, bay_writeBucket, writeBucket_eq, readNat_written rfl rfl, Nat.mod_eq_of_lt (by omega)]
theorem bucketVal_writeBucket_ne (s : State) (b : Nat) {i j : Nat} (n : W128) (f st : Nat) (h : j ≠ i) :
    bucketVal (writeBucket s b i n f st) b j = bucketVal s b j := by
  rw [bucketVal, bay_writeBucket, writeBucket_eq, readNat_writeBytes_of_out, bucketVal]
  rw [natBytes_length]
  omega
theorem frameVal_writeBucket (s : State) (b i f : Nat) (n : W128) (g st : Nat) (h : TablesApart s b) (hi : i < 2 ^ (s.bay b).otb) (hf : f < (s.bay b).fcnt) :
    frameVal (writeBucket s b i n g st) b f = frameVal s b f := by
  rw [frameVal, frameAddr, bay_writeBucket, writeBucket_eq, readNat_writeBytes_of_out, frameVal, frameAddr]
  rw [natBytes_length]
  rw [TablesApart] at h
  omega
theorem frameVal_writeFrame (s : State) (b f : Nat) (n : W128) (base : W64) {len : Nat} (gen : BitVec 4) {st mode : Nat} (hl : len < 2 ^ 32)
    (hst : st < 8) (hm : mode < 4) : frameVal (writeFrame s b f n base len gen st mode) b f = entryVal n base len gen st mode := by
  have hlt := entryVal_lt n base gen hst hm hl
  rw [frameVal, frameAddr, bay_writeFrame, writeFrame, frameAddr, readNat_written rfl rfl, ← entryVal, Nat.mod_eq_of_lt hlt]
theorem bucketVal_writeFrame (s : State) (b f i : Nat) (n : W128) (base : W64) (len : Nat) (gen : BitVec 4) (st mode : Nat) (h : TablesApart s b)
    (hi : i < 2 ^ (s.bay b).otb) (hf : f < (s.bay b).fcnt) : bucketVal (writeFrame s b f n base len gen st mode) b i = bucketVal s b i := by
  rw [bucketVal, bay_writeFrame, writeFrame, readNat_writeBytes_of_out, bucketVal]
  rw [natBytes_length, frameAddr]
  rw [TablesApart] at h
  omega

/-! ## The bucket of a frame's old name becomes a tombstone (R106, R320) -/

/-- The state once frame f's own bucket, if it has one, is a tombstone. -/
def oldDropped (s : State) (b f : Nat) : State := if probe s b (frameName s b f) = some f then tombstone s b (frameName s b f) else s
theorem oldDropped_of_old {s : State} {b f i : Nat} (ho : (s.bay b).otb ≠ 0) (h : OldBucket s b f i) :
    oldDropped s b f = writeBucket s b i (bucketName s b i) (bucketFrame s b i) 2 := by
  obtain ⟨k, hk⟩ := id h
  rw [oldDropped, if_pos ((probe_hit ho _ _).2 ⟨k, i, hk⟩), tombstone, if_neg ho, h.found]
theorem oldDropped_of_none {s : State} {b f : Nat} (ho : (s.bay b).otb ≠ 0) (h : ∀ i, ¬ OldBucket s b f i) : oldDropped s b f = s := by
  refine if_neg fun hp => ?_
  obtain ⟨k, i, hk⟩ := (probe_hit ho _ _).1 hp
  exact h i ⟨k, hk⟩
section
variable (s : State) (b f : Nat)
theorem oldDropped_package : { oldDropped s b f with mem := s.mem, undef := s.undef, hist := s.hist, wrote := s.wrote } = s := by
  rw [oldDropped, tombstone]
  split
  · split
    · exact writeBytes_package ..
    · rfl
  · rfl
theorem bay_oldDropped (d : Nat) : (oldDropped s b f).bay d = s.bay d :=
  bay_of_bays (congrArg State.bays (oldDropped_package s b f) :) d
end
section
variable {s : State} {b f i : Nat} (ho : (s.bay b).otb ≠ 0)
include ho
theorem bucketVal_oldDropped_old (h : OldBucket s b f i) : bucketVal (oldDropped s b f) b i % 4 = 2 := by
  rw [oldDropped_of_old ho h, bucketVal_writeBucket_same _ _ _ _ (by rw [bucketFrame_eq]; omega) (by omega)]
  omega
theorem bucketVal_oldDropped_other (h : ¬ OldBucket s b f i) : bucketVal (oldDropped s b f) b i = bucketVal s b i := by
  by_cases hex : ∃ j, OldBucket s b f j
  · obtain ⟨j, hj⟩ := hex
    rw [oldDropped_of_old ho hj, bucketVal_writeBucket_ne _ _ _ _ _ fun hij => h (by rwa [hij])]
  · rw [oldDropped_of_none ho (not_exists.1 hex)]
theorem frameVal_oldDropped (h : TablesApart s b) {g : Nat} (hg : g < (s.bay b).fcnt) : frameVal (oldDropped s b f) b g = frameVal s b g := by
  by_cases hex : ∃ j, OldBucket s b f j
  · obtain ⟨j, hj⟩ := hex
    rw [oldDropped_of_old ho hj, frameVal_writeBucket _ _ _ _ _ _ _ h hj.lt hg]
  · rw [oldDropped_of_none ho (not_exists.1 hex)]
end

/-! ## The first free bucket (R320) -/

/-- Bucket i holds no name: absent or a tombstone. -/
def BucketFree (s : State) (b i : Nat) : Prop := bucketVal s b i % 4 = 0 ∨ bucketVal s b i % 4 = 2
theorem bucketFree_iff (s : State) (b i : Nat) : (bucketSt s b i == 0 || bucketSt s b i == 2) = true ↔ BucketFree s b i := by
  simp [bucketSt_eq, BucketFree]
theorem freeBucket_none {s : State} {b : Nat} {n : W128} (h : ∀ k, k < 8 → ¬ BucketFree s b (bucketOf s b n k)) : freeBucket s b n = none := by
  rw [freeBucket]
  split
  · rfl
  · rw [Option.map_eq_none_iff, List.find?_eq_none]
    intro k hk
    rw [bucketFree_iff]
    exact h k (List.mem_range.1 (show k ∈ List.range 8 from hk))
theorem freeBucket_of_some {s : State} {b i : Nat} {n : W128} (h : freeBucket s b n = some i) :
    ∃ k, k < 8 ∧ i = bucketOf s b n k ∧ BucketFree s b i ∧ ∀ j, j < k → ¬ BucketFree s b (bucketOf s b n j) := by
  rw [freeBucket] at h
  split at h
  · cases h
  · obtain ⟨k, hk, rfl⟩ := Option.map_eq_some_iff.1 h
    rw [show [0, 1, 2, 3, 4, 5, 6, 7] = List.range 8 from rfl] at hk
    obtain ⟨hfree, hmem, hbefore⟩ := List.find?_range_eq_some.1 hk
    refine ⟨k, List.mem_range.1 hmem, rfl, (bucketFree_iff ..).1 hfree, fun j hj hjf => ?_⟩
    rw [← bucketFree_iff] at hjf
    have hno := hbefore j hj
    rw [Bool.not_eq_true'] at hno
    exact Bool.false_ne_true (hno.symm.trans hjf)
theorem freeBucket_isSome {s : State} {b k : Nat} {n : W128} (ho : (s.bay b).otb ≠ 0) (hk : k < 8) (h : BucketFree s b (bucketOf s b n k)) :
    (freeBucket s b n).isSome := by
  rw [freeBucket, if_neg ho, Option.isSome_map, List.find?_isSome]
  exact ⟨k, show k ∈ List.range 8 from List.mem_range.2 hk, (bucketFree_iff ..).2 h⟩

/-! ## A frame taken by a request (R105, R107, R320, R385) -/

section
variable (s : State) (b : Nat) (n : W128)
theorem endReqs_course (c k : Nat) : (endReqs s b n).course? c k = s.course? c k :=
  List.foldlRecOn (motive := fun t : State => t.course? c k = s.course? c k) (s.coresOf b) _ rfl fun t ht d _ => by
    rw [← ht, State.course?, State.course?, State.core_updCore]
    split <;> simp [*]
theorem endReqs_frameVal (d f : Nat) : frameVal (endReqs s b n) d f = frameVal s d f :=
  List.foldlRecOn (motive := fun t : State => frameVal t d f = frameVal s d f) (s.coresOf b) _ rfl fun _ ht _ _ => ht
theorem endReqs_bucketVal (d i : Nat) : bucketVal (endReqs s b n) d i = bucketVal s d i :=
  List.foldlRecOn (motive := fun t : State => bucketVal t d i = bucketVal s d i) (s.coresOf b) _ rfl fun _ ht _ _ => ht
/-- Of a core of the bay the requests for another name stay. -/
theorem endReqs_reqs {e : Nat} (he : e ∈ s.coresOf b) :
    ((endReqs s b n).core e).reqs = (s.core e).reqs.filter (fun R => decide (nameKey R.name ≠ nameKey n)) := by
  obtain ⟨u, hu, hlast⟩ := foldl_cores_at (f := fun s c => s.updCore c (fun co => { co with
      reqs := co.reqs.filter (fun r => (r.name >>> 48).setWidth 79 != (n >>> 48).setWidth 79) }))
    (fun s c d hd => by rw [State.core_updCore, if_neg hd]) (coresOf_nodup s b) he s
  rw [endReqs, hlast, State.core_updCore, if_pos rfl, hu]
  refine List.filter_congr fun R _ => ?_
  rw [nameKey, nameKey, bne, decide_not]
  rfl
end

/-- With no access waiting for an object, only the requests end. -/
theorem frameResident_of_none {s : State} (h : NoneParked s) (b f : Nat) : frameResident s b f = endReqs s b (frameName s b f) := by
  have hnone : ∀ p : Access → Bool, (∀ a ∈ s.accs, ¬ p a = true) → (endReqs s b (frameName s b f)).accs.filter p = [] := fun p hp => by
    rw [(congrArg State.accs (endReqs_package s b (frameName s b f)) :), List.filter_eq_nil_iff]
    exact hp
  unfold frameResident
  change retryAccs (List.foldl retryName (endReqs s b (frameName s b f)) (List.filter _ (endReqs s b (frameName s b f)).accs))
    (List.filter _ (List.foldl retryName (endReqs s b (frameName s b f)) (List.filter _ (endReqs s b (frameName s b f)).accs)).accs) = _
  rw [hnone, List.foldl_nil, hnone, retryAccs_nil]
  · intro a ha
    simp [(h a ha).1]
  · intro a ha
    have hname := (h a ha).2
    rw [Bool.and_eq_true]
    rintro ⟨-, hph⟩
    split at hph
    next n heq => exact hname n heq
    · cases hph

/-- The bytes of a frame's entry that a request makes (R320). -/
def requestVal (v : Nat) (g : BitVec 4) : Nat :=
  entryVal (BitVec.ofNat 128 (v / 2 ^ 128)) (BitVec.ofNat 64 (v / 2 ^ 64)) (v / 2 ^ 32 % 2 ^ 32) g (if v / 2 ^ 23 % 4 = 2 then 2 else 1) (v / 2 ^ 23 % 4)
theorem requestVal_bounds (v : Nat) : v / 2 ^ 32 % 2 ^ 32 < 2 ^ 32 ∧ (if v / 2 ^ 23 % 4 = 2 then 2 else 1) < 8 ∧ v / 2 ^ 23 % 4 < 4 :=
  ⟨by omega, by split <;> omega, by omega⟩
theorem requestVal_name (v : Nat) (g : BitVec 4) : BitVec.ofNat 128 (requestVal v g / 2 ^ 128) = BitVec.ofNat 128 (v / 2 ^ 128) := by
  obtain ⟨hl, hst, hm⟩ := requestVal_bounds v
  exact entryVal_name _ _ g hst hm hl
theorem requestVal_gen (v : Nat) (g : BitVec 4) : BitVec.ofNat 4 (requestVal v g / 2 ^ 28) = g := by
  obtain ⟨-, hst, hm⟩ := requestVal_bounds v
  exact entryVal_gen _ _ g hst hm
theorem requestVal_eq (v : Nat) (g : BitVec 4) : requestVal v g = v / 2 ^ 128 % 2 ^ 128 * 2 ^ 128 + v / 2 ^ 64 % 2 ^ 64 * 2 ^ 64 +
    v / 2 ^ 32 % 2 ^ 32 * 2 ^ 32 + g.toNat * 2 ^ 28 + (if v / 2 ^ 23 % 4 = 2 then 2 else 1) * 2 ^ 25 + v / 2 ^ 23 % 4 * 2 ^ 23 := by
  rw [requestVal, entryVal, BitVec.toNat_ofNat, BitVec.toNat_ofNat]
theorem readNat_updBay (s : State) (b : Nat) (h : Bay → Bay) (a n : Nat) : (s.updBay b h).readNat a n = s.readNat a n := rfl
/-- The frame's entry and the revocation list of a request's step, before what it makes resident. -/
def frameTaken (s : State) (b f v : Nat) (g : BitVec 4) : State :=
  (writeFrame s b f (BitVec.ofNat 128 (v / 2 ^ 128)) (BitVec.ofNat 64 (v / 2 ^ 64)) (v / 2 ^ 32 % 2 ^ 32) g (if v / 2 ^ 23 % 4 = 2 then 2 else 1)
    (v / 2 ^ 23 % 4)).updBay b (fun y => { y with revoked := y.revoked.map (fun e => if e.frame = f then { e with fv := false } else e) })
section
variable (s : State) (b f v : Nat) (g : BitVec 4)
theorem frameTaken_accs : (frameTaken s b f v g).accs = s.accs := (congrArg State.accs (writeBytes_package s _ _) :)
theorem frameTaken_coresOf (d : Nat) : (frameTaken s b f v g).coresOf d = s.coresOf d :=
  (congrArg (State.coresOf · d) (writeBytes_package s _ _) :)
theorem frameTaken_core (e : Nat) : (frameTaken s b f v g).core e = s.core e := (congrArg (State.core · e) (writeBytes_package s _ _) :)
theorem frameTaken_course (c k : Nat) : (frameTaken s b f v g).course? c k = s.course? c k := by
  rw [State.course?, State.course?, frameTaken_core]
theorem frameTaken_bay : (frameTaken s b f v g).bay b =
    { s.bay b with revoked := (s.bay b).revoked.map (fun e => if e.frame = f then { e with fv := false } else e) } := by
  rw [frameTaken, State.bay_updBay, if_pos rfl, bay_writeFrame]
theorem frameTaken_frameVal : frameVal (frameTaken s b f v g) b f = requestVal v g := by
  obtain ⟨hl, hst, hm⟩ := requestVal_bounds v
  rw [requestVal, ← frameVal_writeFrame s b f _ _ g hl hst hm, frameVal, frameVal, frameAddr, frameAddr, frameTaken_bay, bay_writeFrame,
    frameTaken, readNat_updBay]
theorem frameTaken_bucketVal (h : TablesApart s b) {i : Nat} (hi : i < 2 ^ (s.bay b).otb) (hf : f < (s.bay b).fcnt) :
    bucketVal (frameTaken s b f v g) b i = bucketVal s b i := by
  rw [← bucketVal_writeFrame s b f i (BitVec.ofNat 128 (v / 2 ^ 128)) (BitVec.ofNat 64 (v / 2 ^ 64)) (v / 2 ^ 32 % 2 ^ 32) g
    (if v / 2 ^ 23 % 4 = 2 then 2 else 1) (v / 2 ^ 23 % 4) h hi hf, bucketVal, bucketVal, frameTaken_bay, bay_writeFrame, frameTaken, readNat_updBay]
end

/-- What a request's frame is once it is taken, with nothing waiting for an object where the frame becomes resident. -/
structure FrameMapped (s t : State) (b f v : Nat) (g : BitVec 4) : Prop where
  course : ∀ c k, t.course? c k = s.course? c k
  otBase : (t.bay b).otBase = (s.bay b).otBase
  ftBase : (t.bay b).ftBase = (s.bay b).ftBase
  val : frameVal t b f = requestVal v g
  reqs : v / 2 ^ 23 % 4 = 2 → ∀ e ∈ s.coresOf b, (t.core e).reqs =
    (s.core e).reqs.filter (fun R => decide (nameKey R.name ≠ nameKey (BitVec.ofNat 128 (v / 2 ^ 128))))
theorem mapFrame_of_mode (s : State) (b f v : Nat) (g : BitVec 4) (hquiet : v / 2 ^ 23 % 4 = 2 → NoneParked s) : mapFrame s b f v g =
    if v / 2 ^ 23 % 4 = 2 then endReqs (frameTaken s b f v g) b (BitVec.ofNat 128 (v / 2 ^ 128)) else frameTaken s b f v g := by
  by_cases hmode : v / 2 ^ 23 % 4 = 2
  · have hnone : NoneParked (frameTaken s b f v g) := by
      rw [NoneParked, frameTaken_accs]
      exact hquiet hmode
    have hname : frameName (frameTaken s b f v g) b f = BitVec.ofNat 128 (v / 2 ^ 128) := by
      rw [frameName_eq, frameTaken_frameVal, requestVal_name]
    rw [if_pos hmode, ← hname, ← frameResident_of_none hnone]
    exact if_pos hmode
  · rw [if_neg hmode]
    exact if_neg hmode
section
variable {s : State} {b f v : Nat} {g : BitVec 4} (hquiet : v / 2 ^ 23 % 4 = 2 → NoneParked s)
include hquiet
theorem mapFrame_bay : (mapFrame s b f v g).bay b = (frameTaken s b f v g).bay b := by
  rw [mapFrame_of_mode s b f v g hquiet]
  split
  · exact bay_of_bays (congrArg State.bays (endReqs_package ..) :) b
  · rfl
theorem mapFrame_bucketVal (h : TablesApart s b) (hf : f < (s.bay b).fcnt) {i : Nat} (hi : i < 2 ^ (s.bay b).otb) :
    bucketVal (mapFrame s b f v g) b i = bucketVal s b i := by
  rw [mapFrame_of_mode s b f v g hquiet, ← frameTaken_bucketVal s b f v g h hi hf]
  split
  · rw [endReqs_bucketVal]
  · rfl
theorem frameMapped_mapFrame : FrameMapped s (mapFrame s b f v g) b f v g where
  course c k := by
    rw [mapFrame_of_mode s b f v g hquiet, ← frameTaken_course s b f v g]
    split
    · rw [endReqs_course]
    · rfl
  otBase := by rw [mapFrame_bay hquiet, frameTaken_bay]
  ftBase := by rw [mapFrame_bay hquiet, frameTaken_bay]
  val := by
    rw [mapFrame_of_mode s b f v g hquiet, ← frameTaken_frameVal s b f v g]
    split
    · rw [endReqs_frameVal]
    · rfl
  reqs hmode e he := by
    rw [mapFrame_of_mode s b f v g hquiet, if_pos hmode, endReqs_reqs _ _ _ (by rwa [frameTaken_coresOf]), frameTaken_core]
end
theorem FrameMapped.gen {s t : State} {b f v : Nat} {g : BitVec 4} (h : FrameMapped s t b f v g) : frameGen t b f = g := by
  rw [frameGen_eq, h.val, requestVal_gen]

/-! ## OBJMAP's step, case by case (R320; log 53) -/

section
variable {s : State} {b f v : Nat}
theorem objmapStep_revoked (h : ∃ e ∈ (s.bay b).revoked, nameKey e.name = nameKey (BitVec.ofNat 128 (v / 2 ^ 128))) :
    objmapStep s b f v = (s, objFail s b f 4) := if_pos (by simpa using h)
variable (h : ¬ ∃ e ∈ (s.bay b).revoked, nameKey e.name = nameKey (BitVec.ofNat 128 (v / 2 ^ 128)))
include h
theorem objmapStep_mapped {g : Nat} (hg : probe s b (BitVec.ofNat 128 (v / 2 ^ 128)) = some g) (hst : frameState s b g ≠ 4) :
    objmapStep s b f v = (s, objOk s b g) := by
  rw [objmapStep, if_neg (by simpa using h), hg]
  exact if_pos hst
theorem objmapStep_vacated {g : Nat} (hg : probe s b (BitVec.ofNat 128 (v / 2 ^ 128)) = some g) (hst : frameState s b g = 4) :
    objmapStep s b f v = (mapFrame s b g v (frameGen s b g), objOk (mapFrame s b g v (frameGen s b g)) b g) := by
  rw [objmapStep, if_neg (by simpa using h), hg]
  exact if_neg (not_not.2 hst)
variable (hn : probe s b (BitVec.ofNat 128 (v / 2 ^ 128)) = none)
include hn
theorem objmapStep_outOfRange (hf : (s.bay b).fcnt ≤ f) : objmapStep s b f v = (s, objFail s b f 3) := by
  rw [objmapStep, if_neg (by simpa using h), hn]
  exact if_pos hf
variable (hf : f < (s.bay b).fcnt)
include hf
theorem objmapStep_inUse (h0 : frameState s b f ≠ 0) (h4 : frameState s b f ≠ 4) : objmapStep s b f v = (s, objFail s b f 2) := by
  rw [objmapStep, if_neg (by simpa using h), hn]
  exact (if_neg (Nat.not_le.2 hf)).trans (if_pos ⟨h0, h4⟩)
variable (hst : frameState s b f = 0 ∨ frameState s b f = 4)
include hst
theorem objmapStep_full (hfull : freeBucket s b (BitVec.ofNat 128 (v / 2 ^ 128)) = none) : objmapStep s b f v = (s, objFail s b f 1) := by
  rw [objmapStep, if_neg (by simpa using h), hn]
  dsimp only
  rw [if_neg (Nat.not_le.2 hf), if_neg (by omega), hfull]
theorem objmapStep_new {i : Nat} (hroom : (freeBucket s b (BitVec.ofNat 128 (v / 2 ^ 128))).isSome)
    (hi : freeBucket (oldDropped s b f) b (BitVec.ofNat 128 (v / 2 ^ 128)) = some i) {t : State}
    (ht : mapFrame (writeBucket (oldDropped s b f) b i (BitVec.ofNat 128 (v / 2 ^ 128)) f 1) b f v (frameGen s b f + 1) = t) :
    objmapStep s b f v = (t, objOk t b f) := by
  obtain ⟨j, hj⟩ := Option.isSome_iff_exists.1 hroom
  rw [oldDropped] at hi ht
  rw [objmapStep, if_neg (by simpa using h), hn]
  dsimp only
  rw [if_neg (Nat.not_le.2 hf), if_neg (by omega), hj]
  dsimp only
  rw [hi]
  dsimp only
  rw [ht]
end

/-! ## A new name inserted (R104, R320) -/

/-- Bucket i is free for a new name of frame f: it holds no name, or the frame's own old name. -/
def FreeOrOld (s : State) (b f i : Nat) : Prop := bucketVal s b i % 4 = 0 ∨ bucketVal s b i % 4 = 2 ∨ OldBucket s b f i
/-- The name n has gone to the first free bucket of its eight, and the frame's old bucket is a tombstone. -/
def Inserted (s t : State) (b f : Nat) (n : W128) : Prop :=
  ∃ k, k < 8 ∧ FreeOrOld s b f (bucketOf s b n k) ∧ (∀ j, j < k → ¬ FreeOrOld s b f (bucketOf s b n j)) ∧
    bucketVal t b (bucketOf s b n k) = n.toNat * 2 ^ 128 + f * 2 ^ 34 + 1 ∧
    ∀ i, i ≠ bucketOf s b n k → (OldBucket s b f i → bucketVal t b i % 4 = 2) ∧
      (¬ OldBucket s b f i → i < 2 ^ (s.bay b).otb → bucketVal t b i = bucketVal s b i)

theorem bucketOf_of_bay {s t : State} {b : Nat} (h : t.bay b = s.bay b) (n : W128) (k : Nat) : bucketOf t b n k = bucketOf s b n k := by
  rw [bucketOf, h]; rfl
theorem tablesApart_of_bay {s t : State} {b : Nat} (h : t.bay b = s.bay b) (ha : TablesApart s b) : TablesApart t b := by
  rwa [TablesApart, h]
/-- A step that writes bytes only leaves what a frame's taking speaks of. -/
theorem FrameMapped.of_writes {s u t : State} {b f v : Nat} {g : BitVec 4} (h : FrameMapped u t b f v g)
    (hu : { u with mem := s.mem, undef := s.undef, hist := s.hist, wrote := s.wrote } = s) : FrameMapped s t b f v g := by
  have hcore : ∀ e, u.core e = s.core e := fun e => (congrArg (State.core · e) hu :)
  have hbay : u.bay b = s.bay b := bay_of_bays (congrArg State.bays hu :) b
  constructor
  case course => exact fun c k => (h.course c k).trans (by rw [State.course?, hcore]; rfl)
  case otBase => rw [h.otBase, hbay]
  case ftBase => rw [h.ftBase, hbay]
  case val => exact h.val
  case reqs =>
    intro hmode e he
    rw [h.reqs hmode e ((congrArg (e ∈ State.coresOf · b) hu :).mpr he), hcore]

theorem writes_trans {s t u : State} (h : { t with mem := s.mem, undef := s.undef, hist := s.hist, wrote := s.wrote } = s)
    (h' : { u with mem := t.mem, undef := t.undef, hist := t.hist, wrote := t.wrote } = t) :
    { u with mem := s.mem, undef := s.undef, hist := s.hist, wrote := s.wrote } = s := by
  calc { u with mem := s.mem, undef := s.undef, hist := s.hist, wrote := s.wrote }
      = { ({ u with mem := t.mem, undef := t.undef, hist := t.hist, wrote := t.wrote } : State) with
            mem := s.mem, undef := s.undef, hist := s.hist, wrote := s.wrote } := rfl
    _ = s := by rw [h', h]

theorem writeBucket_package (s : State) (b i : Nat) (n : W128) (f st : Nat) :
    { writeBucket s b i n f st with mem := s.mem, undef := s.undef, hist := s.hist, wrote := s.wrote } = s := writeBytes_package ..

/-- A frame taken after bytes were written: the object table stays as they left it. -/
theorem mapFrame_of_writes {s u : State} {b f v : Nat} {g : BitVec 4}
    (hu : { u with mem := s.mem, undef := s.undef, hist := s.hist, wrote := s.wrote } = s) (hapart : TablesApart s b) (hf : f < (s.bay b).fcnt)
    (hquiet : v / 2 ^ 23 % 4 = 2 → NoneParked s) : FrameMapped s (mapFrame u b f v g) b f v g ∧
      ∀ j, j < 2 ^ (s.bay b).otb → bucketVal (mapFrame u b f v g) b j = bucketVal u b j := by
  have hbay : u.bay b = s.bay b := bay_of_bays (congrArg State.bays hu :) b
  have hparked : v / 2 ^ 23 % 4 = 2 → NoneParked u := fun hmode => by
    rw [NoneParked, (congrArg State.accs hu :)]
    exact hquiet hmode
  exact ⟨(frameMapped_mapFrame hparked).of_writes hu,
    fun j hj => mapFrame_bucketVal hparked (tablesApart_of_bay hbay hapart) (by rwa [hbay]) (by rwa [hbay])⟩

section
variable {s : State} {b f : Nat} (ho : (s.bay b).otb ≠ 0)
include ho
theorem bucketFree_oldDropped (i : Nat) : BucketFree (oldDropped s b f) b i ↔ FreeOrOld s b f i := by
  by_cases hold : OldBucket s b f i
  · exact iff_of_true (.inr (bucketVal_oldDropped_old ho hold)) (.inr (.inr hold))
  · rw [BucketFree, bucketVal_oldDropped_other ho hold, FreeOrOld]
    simp only [hold, or_false]

theorem freeBucket_oldDropped_isSome {n : W128} {k : Nat} (hk : k < 8) (hfree : BucketFree s b (bucketOf s b n k)) :
    (freeBucket (oldDropped s b f) b n).isSome := by
  have hbay : (oldDropped s b f).bay b = s.bay b := bay_oldDropped s b f b
  refine freeBucket_isSome (by rwa [hbay]) hk ?_
  rw [bucketOf_of_bay hbay, bucketFree_oldDropped ho]
  exact hfree.imp_right .inl
/-- A bucket written for a new name, in a state that keeps the object table from there on. -/
theorem inserted_of_kept {n : W128} {i : Nat} {t : State} (hi : freeBucket (oldDropped s b f) b n = some i) (hf : f < 2 ^ 22)
    (ht : ∀ j, j < 2 ^ (s.bay b).otb → bucketVal t b j = bucketVal (writeBucket (oldDropped s b f) b i n f 1) b j) : Inserted s t b f n := by
  obtain ⟨m, hm, hat, hifree, hbefore⟩ := freeBucket_of_some hi
  rw [bucketOf_of_bay (bay_oldDropped s b f b)] at hat
  have hilt : i < 2 ^ (s.bay b).otb := by
    rw [hat]
    exact bucketOf_lt s b n m
  refine ⟨m, hm, ?_⟩
  rw [← hat]
  refine ⟨?_, fun j hj => ?_, ?_, fun j hj => ⟨?_, ?_⟩⟩
  · rwa [← bucketFree_oldDropped ho]
  · rw [← bucketFree_oldDropped ho, ← bucketOf_of_bay (bay_oldDropped s b f b)]
    exact hbefore j hj
  · rw [ht i hilt, bucketVal_writeBucket_same _ _ _ _ hf (by omega)]
  · intro hold
    rw [ht j hold.lt, bucketVal_writeBucket_ne _ _ _ _ _ hj]
    exact bucketVal_oldDropped_old ho hold
  · intro hother hjlt
    rw [ht j hjlt, bucketVal_writeBucket_ne _ _ _ _ _ hj, bucketVal_oldDropped_other ho hother]

variable {v : Nat} (hrev : ¬ ∃ e ∈ (s.bay b).revoked, nameKey e.name = nameKey (BitVec.ofNat 128 (v / 2 ^ 128)))
  (hnew : probe s b (BitVec.ofNat 128 (v / 2 ^ 128)) = none) (hf : f < (s.bay b).fcnt) (hst : frameState s b f = 0 ∨ frameState s b f = 4)
  (hroom : ∃ k, k < 8 ∧ BucketFree s b (bucketOf s b (BitVec.ofNat 128 (v / 2 ^ 128)) k)) (hapart : TablesApart s b)
  (hquiet : v / 2 ^ 23 % 4 = 2 → NoneParked s)
include hrev hnew hf hst hroom hapart hquiet
/-- The step for a new name. -/
theorem objmapStep_inserts (hf22 : f < 2 ^ 22) : ∃ t : State, objmapStep s b f v = (t, objOk t b f) ∧ FrameMapped s t b f v (frameGen s b f + 1) ∧
    Inserted s t b f (BitVec.ofNat 128 (v / 2 ^ 128)) := by
  obtain ⟨k, hk, hfree⟩ := hroom
  obtain ⟨i, hi⟩ := Option.isSome_iff_exists.1 (freeBucket_oldDropped_isSome (f := f) ho hk hfree)
  have hpackage := writes_trans (oldDropped_package s b f) (writeBucket_package (oldDropped s b f) b i (BitVec.ofNat 128 (v / 2 ^ 128)) f 1)
  have hstep := mapFrame_of_writes (g := frameGen s b f + 1) hpackage hapart hf hquiet
  exact ⟨_, objmapStep_new hrev hnew hf hst (freeBucket_isSome ho hk hfree) hi rfl, hstep.1, inserted_of_kept ho hi hf22 hstep.2⟩
end

/-! ## The result of a word of the tables (R320, R321) -/

theorem objResult_eq (g : BitVec 4) (f : Nat) {reason status : Nat} (hr : reason < 2 ^ 8) (hs : status < 2 ^ 8) :
    objResult g f reason status = BitVec.ofNat 64 (status + 2 ^ 8 * reason + 2 ^ 32 * (f % 2 ^ 22) + 2 ^ 54 * g.toNat) := by
  apply BitVec.eq_of_toNat_eq
  have hg := g.isLt
  simp only [objResult, toNat_append_add, BitVec.ofNat_eq_ofNat, BitVec.toNat_ofNat]
  omega
theorem objOk_eq (s : State) (b f : Nat) :
    objOk s b f = BitVec.ofNat 64 (0 + 2 ^ 8 * 0 + 2 ^ 32 * (f % 2 ^ 22) + 2 ^ 54 * (frameGen s b f).toNat) := objResult_eq _ _ (by omega) (by omega)
theorem objFail_eq (s : State) (b f : Nat) {reason : Nat} (hr : reason < 2 ^ 8) : objFail s b f reason =
    BitVec.ofNat 64 (2 + 2 ^ 8 * reason + 2 ^ 32 * (f % 2 ^ 22) + 2 ^ 54 * (if f < (s.bay b).fcnt then frameGen s b f else 0).toNat) := objResult_eq _ _ hr (by omega)

/-! ## What an issue of a course leaves of the tables -/

section
variable {s t : State} {c k : Nat} (h : OnlyCourse s t c k)
include h
theorem OnlyCourse.bay (b : Nat) : t.bay b = s.bay b := bay_of_bays (congrArg State.bays h.package :) b
theorem OnlyCourse.readNat (a n : Nat) : t.readNat a n = s.readNat a n := readNat_congr fun _ _ => h.bytes _
theorem OnlyCourse.frameVal (b f : Nat) : Machine.frameVal t b f = Machine.frameVal s b f := by
  rw [Machine.frameVal, frameAddr, h.bay, h.readNat]; rfl
theorem OnlyCourse.bucketVal (b i : Nat) : Machine.bucketVal t b i = Machine.bucketVal s b i := by
  rw [Machine.bucketVal, h.bay, h.readNat]; rfl
theorem OnlyCourse.frameGen (b f : Nat) : Machine.frameGen t b f = Machine.frameGen s b f := by rw [frameGen_eq, frameGen_eq, h.frameVal]
theorem OnlyCourse.frameState (b f : Nat) : Machine.frameState t b f = Machine.frameState s b f := by rw [frameState_eq, frameState_eq, h.frameVal]
theorem OnlyCourse.frameName (b f : Nat) : Machine.frameName t b f = Machine.frameName s b f := by rw [frameName_eq, frameName_eq, h.frameVal]
theorem OnlyCourse.probe (b : Nat) (n : W128) : Machine.probe t b n = Machine.probe s b n := (congrArg (Machine.probe · b n) h.package :)
theorem OnlyCourse.oldBucket (b f i : Nat) : OldBucket t b f i ↔ OldBucket s b f i := (congrArg (OldBucket · b f i) h.package :).to_iff
theorem OnlyCourse.reqs (e : Nat) : (t.core e).reqs = (s.core e).reqs := by
  by_cases he : e = c
  · subst he
    exact (congrArg Core.reqs h.core :)
  · rw [h.cores e he]
end

/-- A word that ends with its result written: the lanes go to the next issue. -/
theorem courseAdvanced_updIss {s s' z : State} {iss : Issue} {c k : Nat} {x : Course} (h : CourseIssues s' iss c k x) (ht : s'.t = s.t)
    (hz : z.course? c k = (skip s' iss true).course? c k) (f : Uni → Uni) : CourseAdvanced s iss (f x.u) x (updIss z iss.who f) c k := by
  rw [CourseAdvanced, updIss.eq_def, h.2.1]
  rw [(skip_course h true).2] at hz
  refine ⟨_, by rw [State.course?_updCourse_self, hz, Option.map_some], ?_⟩
  exact (courseAfter_endCourse_uni s' iss true (fun _ ln => { ln with pc := iss.next }) x (f x.u)).of_time ht

/-! ## OBJMAP (R320) -/

/-- What OBJMAP leaves once it has taken frame f with generation g: its result, the frame's entry, and the requests that end. -/
structure FrameTaken (s s' : State) (iss : Issue) (c k : Nat) (x : Course) (d : Reg) (v : List Byte) (u : State) (f : Nat) (g : BitVec 4) : Prop where
  result : CourseAdvanced s iss (x.u.ws d.toNat (BitVec.ofNat 64 (0 + 2 ^ 8 * 0 + 2 ^ 32 * f + 2 ^ 54 * g.toNat))) x u c k
  entry : u.readNat (frameAddr s' (s.bayOf c) f) 32 = requestVal (leNum v) g
  reqs : leNum v / 2 ^ 23 % 4 = 2 → ∀ e ∈ s'.coresOf (s.bayOf c), (u.core e).reqs =
    (s'.core e).reqs.filter (fun R => decide (nameKey R.name ≠ nameKey (BitVec.ofNat 128 (leNum v / 2 ^ 128))))
section
variable {q : Guard} {d a b : Reg} {s s' : State} {iss : Issue} {c k : Nat} {x : Course} {v : List Byte}
  (h : CourseIssues s iss c k x) (hq : x.u.rq q = true) (hp : x.prv = true) (hal : (x.u.rs a.toNat).toNat % 32 = 0)
  (hread : opReadSec s iss (x.u.rs a.toNat) 32 = .ok s' v) (hbad : objmapBad s' (s.bayOf c) ((x.u.rs b.toNat).toNat % 2 ^ 22) (leNum v) = none)
include h hq hp hal hread hbad
/-- OBJMAP whose request and tables can be read makes its step and writes its result. -/
theorem execObjmap_runs {t : State} {r : W64} (ht : objmapStep (skip s' iss true) (s.bayOf c) ((x.u.rs b.toNat).toNat % 2 ^ 22) (leNum v) = (t, r)) :
    exec (.objmap q d a b) s = .next (updIss t iss.who (·.ws d.toNat r)) := by
  change execObjmap q d a b s = _
  rw [execObjmap, pword_course h, hq, hp, if_pos rfl, if_pos rfl, uniOf_course h]
  dsimp only
  rw [if_neg (not_not.2 hal), hread, withRead, (opReadSec_ok hread).bayOf, hbad, ht]
/-- A step that leaves the tables as they were. -/
theorem execObjmap_leaves {r : W64} (ht : objmapStep (skip s' iss true) (s.bayOf c) ((x.u.rs b.toNat).toNat % 2 ^ 22) (leNum v) = (skip s' iss true, r)) :
    ∃ t : State, exec (.objmap q d a b) s = .next t ∧ OnlyCourse s' t c k ∧ CourseAdvanced s iss (x.u.ws d.toNat r) x t c k := by
  have hs' := (opReadSec_ok hread).issues h
  refine ⟨_, execObjmap_runs h hq hp hal hread hbad ht, ?_, courseAdvanced_updIss hs' (opReadSec_ok hread).time rfl (·.ws d.toNat r)⟩
  rw [updIss.eq_def, h.2.1]
  exact (skip_course hs' true).1.trans (onlyCourse_updCourse ..)
/-- A step that takes a frame for the request. -/
theorem execObjmap_takes {t : State} {f : Nat} {g : BitVec 4} (hf : f < 2 ^ 22)
    (ht : objmapStep (skip s' iss true) (s.bayOf c) ((x.u.rs b.toNat).toNat % 2 ^ 22) (leNum v) = (t, objOk t (s.bayOf c) f))
    (hmap : FrameMapped (skip s' iss true) t (s.bayOf c) f (leNum v) g) :
    ∃ u : State, exec (.objmap q d a b) s = .next u ∧ OnlyCourse t u c k ∧ FrameTaken s s' iss c k x d v u f g := by
  have hs' := (opReadSec_ok hread).issues h
  have hskip := (skip_course hs' true).1
  have hlast : OnlyCourse t (updIss t iss.who (·.ws d.toNat (objOk t (s.bayOf c) f))) c k := by
    rw [updIss.eq_def, h.2.1]
    exact onlyCourse_updCourse ..
  refine ⟨_, execObjmap_runs h hq hp hal hread hbad ht, hlast, ?_, ?_, fun hmode e he => ?_⟩
  · have hr := courseAdvanced_updIss hs' (opReadSec_ok hread).time (hmap.course c k) (·.ws d.toNat (objOk t (s.bayOf c) f))
    rwa [objOk_eq, Nat.mod_eq_of_lt hf, hmap.gen] at hr ⊢
  · rw [hlast.readNat, ← hmap.val, frameVal, frameAddr, frameAddr, hmap.ftBase, hskip.bay]
  · rw [hlast.reqs, hmap.reqs hmode e ((congrArg (e ∈ State.coresOf · (s.bayOf c)) hskip.package :).mpr he), hskip.reqs]
end

section
variable {q : Guard} {d a b : Reg} {s s' : State} {iss : Issue} {c k : Nat} {x : Course} {v : List Byte}
  (h : CourseIssues s iss c k x) (hq : x.u.rq q = true) (hp : x.prv = true) (hal : (x.u.rs a.toNat).toNat % 32 = 0)
  (hread : opReadSec s iss (x.u.rs a.toNat) 32 = .ok s' v) (hbad : objmapBad s' (s.bayOf c) ((x.u.rs b.toNat).toNat % 2 ^ 22) (leNum v) = none)
include h hq hp hal hread hbad
/-- A failure: the frame's GEN as it stands, where the number names a frame. -/
theorem execObjmap_fails {reason : Nat} (hr : reason < 2 ^ 8) (ht : objmapStep (skip s' iss true) (s.bayOf c) ((x.u.rs b.toNat).toNat % 2 ^ 22) (leNum v) =
      (skip s' iss true, objFail (skip s' iss true) (s.bayOf c) ((x.u.rs b.toNat).toNat % 2 ^ 22) reason)) :
    ∃ t : State, exec (.objmap q d a b) s = .next t ∧ OnlyCourse s' t c k ∧ CourseAdvanced s iss (x.u.ws d.toNat (BitVec.ofNat 64
      (2 + 2 ^ 8 * reason + 2 ^ 32 * ((x.u.rs b.toNat).toNat % 2 ^ 22) + 2 ^ 54 * (if (x.u.rs b.toNat).toNat % 2 ^ 22 < (s'.bay (s.bayOf c)).fcnt
        then frameGen s' (s.bayOf c) ((x.u.rs b.toNat).toNat % 2 ^ 22) else 0).toNat))) x t c k := by
  have hskip := (skip_course ((opReadSec_ok hread).issues h) true).1
  have hrun := execObjmap_leaves (d := d) h hq hp hal hread hbad ht
  rwa [objFail_eq _ _ _ hr, Nat.mod_mod, hskip.bay, hskip.frameGen] at hrun
/-- A name that is mapped. -/
theorem execObjmap_mapped {g : Nat} (hg : g < 2 ^ 22) (ht : objmapStep (skip s' iss true) (s.bayOf c) ((x.u.rs b.toNat).toNat % 2 ^ 22) (leNum v) =
      (skip s' iss true, objOk (skip s' iss true) (s.bayOf c) g)) :
    ∃ t : State, exec (.objmap q d a b) s = .next t ∧ OnlyCourse s' t c k ∧ CourseAdvanced s iss (x.u.ws d.toNat (BitVec.ofNat 64
      (0 + 2 ^ 8 * 0 + 2 ^ 32 * g + 2 ^ 54 * (frameGen s' (s.bayOf c) g).toNat))) x t c k := by
  have hskip := (skip_course ((opReadSec_ok hread).issues h) true).1
  have hrun := execObjmap_leaves (d := d) h hq hp hal hread hbad ht
  rwa [objOk_eq, Nat.mod_eq_of_lt hg, hskip.frameGen] at hrun
end

theorem not_bucketFree {s : State} {b i : Nat} (h : bucketVal s b i % 4 = 1 ∨ bucketVal s b i % 4 = 3) : ¬ BucketFree s b i := by
  rw [BucketFree]
  omega

section
variable {s t u : State} {c k b f : Nat}
/-- What an insertion speaks of is the same for states that differ in a course. -/
theorem Inserted.of_course {w : State} {n : W128} (h : Inserted w t b f n) (hw : OnlyCourse s w c k) (hu : OnlyCourse t u c k) : Inserted s u b f n := by
  obtain ⟨m, hm, hfree, hbefore, hval, hrest⟩ := h
  have hfreeIff : ∀ i, FreeOrOld w b f i ↔ FreeOrOld s b f i := fun i => by
    rw [FreeOrOld, FreeOrOld, hw.bucketVal, hw.oldBucket]
  refine ⟨m, hm, ?_, fun j hj => ?_, ?_, fun i hi => ?_⟩
  · rwa [hfreeIff, bucketOf_of_bay (hw.bay b)] at hfree
  · have := hbefore j hj
    rwa [hfreeIff, bucketOf_of_bay (hw.bay b)] at this
  · rwa [hu.bucketVal, ← bucketOf_of_bay (hw.bay b)]
  · have := hrest i (by rwa [bucketOf_of_bay (hw.bay b)])
    rwa [hw.oldBucket, hw.bay, hw.bucketVal, ← hu.bucketVal] at this
theorem NoneParked.of_accs (h : NoneParked s) (ht : t.accs = s.accs) : NoneParked t := by rwa [NoneParked, ht]
end

section
variable {q : Guard} {d a b : Reg} {s s' : State} {iss : Issue} {c k : Nat} {x : Course} {v : List Byte}
  (h : CourseIssues s iss c k x) (hq : x.u.rq q = true) (hp : x.prv = true) (hal : (x.u.rs a.toNat).toNat % 32 = 0)
  (hread : opReadSec s iss (x.u.rs a.toNat) 32 = .ok s' v) (hbad : objmapBad s' (s.bayOf c) ((x.u.rs b.toNat).toNat % 2 ^ 22) (leNum v) = none)
  (hrev : ¬ ∃ e ∈ (s'.bay (s.bayOf c)).revoked, nameKey e.name = nameKey (BitVec.ofNat 128 (leNum v / 2 ^ 128)))
  (hquiet : leNum v / 2 ^ 23 % 4 = 2 → NoneParked s')
include h hq hp hal hread hbad hrev hquiet
/-- The vacated frame of the request's name is taken again. -/
theorem execObjmap_retakes {g : Nat} (hg : probe s' (s.bayOf c) (BitVec.ofNat 128 (leNum v / 2 ^ 128)) = some g) (hg22 : g < 2 ^ 22)
    (hst : frameState s' (s.bayOf c) g = 4) :
    ∃ u : State, exec (.objmap q d a b) s = .next u ∧ FrameTaken s s' iss c k x d v u g (frameGen s' (s.bayOf c) g) := by
  have hskip := (skip_course ((opReadSec_ok hread).issues h) true).1
  rw [← hskip.bay] at hrev
  rw [← hskip.probe] at hg
  rw [← hskip.frameState] at hst
  obtain ⟨u, hrun, -, htaken⟩ := execObjmap_takes h hq hp hal hread hbad hg22 (objmapStep_vacated hrev hg hst)
    (frameMapped_mapFrame fun hmode => (hquiet hmode).of_accs hskip.accs)
  rw [hskip.frameGen] at htaken
  exact ⟨u, hrun, htaken⟩
variable (hnew : probe s' (s.bayOf c) (BitVec.ofNat 128 (leNum v / 2 ^ 128)) = none)
  (hf : (x.u.rs b.toNat).toNat % 2 ^ 22 < (s'.bay (s.bayOf c)).fcnt) (ho : (s'.bay (s.bayOf c)).otb ≠ 0) (hapart : TablesApart s' (s.bayOf c))
  (hst : frameState s' (s.bayOf c) ((x.u.rs b.toNat).toNat % 2 ^ 22) = 0 ∨ frameState s' (s.bayOf c) ((x.u.rs b.toNat).toNat % 2 ^ 22) = 4)
  (hroom : ∃ m, m < 8 ∧ BucketFree s' (s.bayOf c) (bucketOf s' (s.bayOf c) (BitVec.ofNat 128 (leNum v / 2 ^ 128)) m))
include hnew hf ho hapart hst hroom
/-- A new name takes the frame that the word names. -/
theorem execObjmap_inserts : ∃ u : State, exec (.objmap q d a b) s = .next u ∧
    FrameTaken s s' iss c k x d v u ((x.u.rs b.toNat).toNat % 2 ^ 22) (frameGen s' (s.bayOf c) ((x.u.rs b.toNat).toNat % 2 ^ 22) + 1) ∧
    Inserted s' u (s.bayOf c) ((x.u.rs b.toNat).toNat % 2 ^ 22) (BitVec.ofNat 128 (leNum v / 2 ^ 128)) := by
  have hskip := (skip_course ((opReadSec_ok hread).issues h) true).1
  have hf22 : (x.u.rs b.toNat).toNat % 2 ^ 22 < 2 ^ 22 := Nat.mod_lt _ (by positivity)
  have hroom' : ∃ m, m < 8 ∧ BucketFree (skip s' iss true) (s.bayOf c)
      (bucketOf (skip s' iss true) (s.bayOf c) (BitVec.ofNat 128 (leNum v / 2 ^ 128)) m) := by
    obtain ⟨m, hm, hfree⟩ := hroom
    exact ⟨m, hm, by rwa [BucketFree, bucketOf_of_bay (hskip.bay _), hskip.bucketVal]⟩
  rw [← hskip.bay] at hrev hf ho
  rw [← hskip.probe] at hnew
  rw [← hskip.frameState] at hst
  obtain ⟨t, ht, hmap, hins⟩ := objmapStep_inserts ho hrev hnew hf hst hroom' (tablesApart_of_bay (hskip.bay _) hapart)
    (fun hmode => (hquiet hmode).of_accs hskip.accs) hf22
  obtain ⟨u, hrun, hlast, htaken⟩ := execObjmap_takes h hq hp hal hread hbad hf22 ht hmap
  rw [hskip.frameGen] at htaken
  exact ⟨u, hrun, htaken, hins.of_course hskip hlast⟩
end

/-! ## A frame's STATE written (R106) -/

theorem setFrameState_eq (s : State) (b f st : Nat) : setFrameState s b f st =
    s.writeBytes (frameAddr s b f) (natBytes 8 (frameLow s b f - frameLow s b f / 2 ^ 25 % 8 * 2 ^ 25 + st * 2 ^ 25)) := rfl
section
variable (s : State) (b f : Nat) {st : Nat} (hst : st < 8)
theorem setFrameState_leaves (st : Nat) : WriteLeaves s (setFrameState s b f st) := writeLeaves_writeBytes ..
theorem readByte_setFrameState (st : Nat) {e : Nat} (h : e < frameAddr s b f ∨ frameAddr s b f + 8 ≤ e) :
    (setFrameState s b f st).readByte e = s.readByte e := by
  rw [setFrameState_eq]
  exact State.readByte_writeBytes_of_out s (by rwa [natBytes_length])
include hst
theorem frameLow_setFrameState : frameLow (setFrameState s b f st) b f = frameLow s b f - frameLow s b f / 2 ^ 25 % 8 * 2 ^ 25 + st * 2 ^ 25 := by
  have hlow : frameLow s b f < 256 ^ 8 := readNat_lt s _ 8
  have haddr : frameAddr (setFrameState s b f st) b f = frameAddr s b f := by rw [frameAddr, setFrameState_eq, bay_writeBytes]; rfl
  rw [frameLow, haddr, setFrameState_eq, readNat_written rfl rfl, Nat.mod_eq_of_lt (by omega)]
theorem setFrameState_state : frameState (setFrameState s b f st) b f = st := by
  rw [frameState, frameLow_setFrameState s b f hst]
  omega
theorem setFrameState_gen : frameGen (setFrameState s b f st) b f = frameGen s b f := by
  rw [frameGen, frameGen, frameLow_setFrameState s b f hst]
  congr 1
  omega
end

/-! ## Lanes that wait, and that go on with a result -/

/-- Lanes that wait with an entry of their word. -/
theorem pendIssue_issueWaits {s : State} {iss : Issue} {c k : Nat} {x : Course} (h : CourseIssues s iss c k x) (kind : PendKind) (ids : List Nat) (f : Nat) (d : Reg) :
    OnlyCourse s (pendIssue s iss kind ids f d) c k ∧ IssueWaits s iss x (pendIssue s iss kind ids f d) c k kind := by
  rw [pendIssue]
  generalize hp : ({ kind := kind, accs := ids, frame := f, d := d, next := iss.next } : Pend) = p
  obtain ⟨honly, hy⟩ := endIssue_course h.2.1 h.2.2 true (fun _ ln => { ln with st := .pend p }) iss.next
  have hafter := courseAfter_endCourse s iss true (fun _ ln => { ln with st := .pend p }) x
  have hst : ∀ l ∈ iss.mask, l < 8 → ((endCourse s.t iss true (fun _ ln => { ln with st := .pend p }) x).lane l).st = .pend p := fun l hl h8 => by
    rw [hafter.lane l h8, laneAfter, if_pos hl]
  refine ⟨honly, _, hy, hafter.congr fun l h8 hl => by rw [hst l hl h8], fun l hl h8 => ⟨p, hst l hl h8, ?_, ?_⟩⟩
  all_goals rw [← hp]
theorem pendEnd_some {s : State} {c k : Nat} {x : Course} (p : Pend) (v : W64) (hx : s.course? c k = some x) :
    OnlyCourse s (pendEnd s c k p (some v)) c k ∧ WaitEnds (pendEnd s c k p (some v)) c k x p (x.u.ws p.d.toNat v) := by
  rw [pendEnd]
  refine ⟨onlyCourse_updCourse .., ?_⟩
  rw [WaitEnds, State.course?_updCourse_self, hx, Option.map_some]
  refine ⟨_, rfl, rfl, rfl, fun l hl => ?_⟩
  refine (x.lane_mapLanes (fun _ ln => if ln.st == .pend p then { ln with st := .ready, pc := p.next } else ln) hl).trans ?_
  simp only [beq_iff_eq]

/-! ## A frame made absent (R106) -/

theorem frameMode_lt (s : State) (b f : Nat) : frameMode s b f < 4 := Nat.mod_lt _ (by omega)
theorem dropFrame_eq (s : State) (b f : Nat) : dropFrame s b f = writeFrame (oldDropped s b f) b f 0 (frameBase (oldDropped s b f) b f)
    (frameLow (oldDropped s b f) b f / 2 ^ 32) (frameGen (oldDropped s b f) b f) 0 (frameMode (oldDropped s b f) b f) := rfl
section
variable {s : State} {b f : Nat} (ho : (s.bay b).otb ≠ 0) (hf : f < (s.bay b).fcnt) (hapart : TablesApart s b)
theorem dropFrame_leaves (s : State) (b f : Nat) : WriteLeaves s (dropFrame s b f) := by
  rw [dropFrame_eq]
  refine .trans (t := oldDropped s b f) ?_ (writeLeaves_writeBytes ..)
  rw [oldDropped, tombstone]
  split
  · split
    · exact writeLeaves_writeBytes ..
    · exact .refl s
  · exact .refl s
theorem dropFrame_frameVal : frameVal (dropFrame s b f) b f = entryVal 0 (frameBase (oldDropped s b f) b f)
    (frameLow (oldDropped s b f) b f / 2 ^ 32) (frameGen (oldDropped s b f) b f) 0 (frameMode (oldDropped s b f) b f) := by
  have hlow : frameLow (oldDropped s b f) b f < 256 ^ 8 := readNat_lt _ _ 8
  rw [dropFrame_eq, frameVal_writeFrame _ _ _ _ _ _ (by omega) (by omega) (frameMode_lt ..)]
theorem dropFrame_state : frameState (dropFrame s b f) b f = 0 := by
  rw [frameState_eq, dropFrame_frameVal, entryVal_state _ _ _ (by omega) (frameMode_lt ..)]
theorem dropFrame_name : frameName (dropFrame s b f) b f = 0 := by
  have hlow : frameLow (oldDropped s b f) b f < 256 ^ 8 := readNat_lt _ _ 8
  rw [frameName_eq, dropFrame_frameVal, entryVal_name _ _ _ (by omega) (frameMode_lt ..) (by omega)]
include hf hapart
theorem dropFrame_bucketVal {i : Nat} (hi : i < 2 ^ (s.bay b).otb) : bucketVal (dropFrame s b f) b i = bucketVal (oldDropped s b f) b i := by
  have hbay := bay_oldDropped s b f b
  rw [dropFrame_eq, bucketVal_writeFrame _ _ _ _ _ _ _ _ _ _ (tablesApart_of_bay hbay hapart) (by rwa [hbay]) (by rwa [hbay])]
include ho
theorem dropFrame_gen : frameGen (dropFrame s b f) b f = frameGen s b f := by
  rw [frameGen_eq, dropFrame_frameVal, entryVal_gen _ _ _ (by omega) (frameMode_lt ..), frameGen_eq, frameGen_eq, frameVal_oldDropped ho hapart hf]
end

/-! ## OBJSTAT's four registers -/

theorem Uni.foldl_ws_q (u : Uni) (d n : Nat) (w : Nat → W64) : ((List.range n).foldl (fun u k => u.ws (d + k) (w k)) u).q = u.q :=
  List.foldlRecOn (motive := fun v : Uni => v.q = u.q) _ _ rfl fun _ hv _ _ => hv
theorem Uni.foldl_ws_rs (u : Uni) (d n : Nat) (w : Nat → W64) (r : Nat) : ((List.range n).foldl (fun u k => u.ws (d + k) (w k)) u).rs r =
    if d ≤ r ∧ r < d + n then w (r - d) else u.rs r := by
  induction n with
  | zero => rw [if_neg (by omega)]; rfl
  | succ n ih =>
    rw [List.range_succ, List.foldl_append, List.foldl_cons, List.foldl_nil, Uni.rs_ws]
    by_cases hr : r = d + n
    · subst hr
      rw [if_pos rfl, if_pos (by omega), Nat.add_sub_cancel_left]
    · rw [if_neg hr, ih]
      exact if_congr (by omega) rfl rfl

/-! ## OBJUNMAP and OBJSTAT (R106, R321, R322) -/

theorem frameBad_of_dropBad {s : State} {b f : Nat} (h : dropBad s b f = none) : frameBad s b f = none := by
  rw [dropBad, Option.or_eq_none_iff] at h
  exact h.1

section
variable {q : Guard} {d a b : Reg} {s : State} {iss : Issue} {c k : Nat} {x : Course} {f form : Nat}
  (h : CourseIssues s iss c k x) (hq : x.u.rq q = true) (hp : x.prv = true) (hf : (x.u.rs a.toNat).toNat = f) (hf22 : f < 2 ^ 22)
include h hq hp hf hf22
section
variable (hform : (x.u.rs b.toNat).toNat = form) (hform3 : form < 3)
include hform hform3
theorem execObjunmap_outOfRange (hout : (s.bay (s.bayOf c)).fcnt ≤ f) :
    exec (.objunmap q d a b) s = .next (uniOp s iss (·.ws d.toNat (objFail s (s.bayOf c) f 3))) := by
  change execObjunmap q d a b s = _
  rw [execObjunmap, pword_course h, hq, hp, if_pos rfl, if_pos rfl, uniOf_course h]
  dsimp only
  rw [hf, hform, if_neg (by omega), if_pos hout, skip_updIss h.2.1]
/-- What the form makes of a frame of the table, and what it refuses. -/
theorem execObjunmap_inRange (hin : f < (s.bay (s.bayOf c)).fcnt) (hbad : dropBad s (s.bayOf c) f = none) :
    exec (.objunmap q d a b) s = .next (
      if frameState s (s.bayOf c) f ≠ form + 2 then uniOp s iss (·.ws d.toNat (objFail s (s.bayOf c) f 2))
      else if form = 0 then pendIssue (setFrameState s (s.bayOf c) f 3) iss .unmapDrain (frameAccs s (s.bayOf c) f) f d
      else if form = 1 then pendIssue s iss .unmapVacate (frameAccs s (s.bayOf c) f) f d
      else uniOp (dropFrame s (s.bayOf c) f) iss (·.ws d.toNat (objOk (dropFrame s (s.bayOf c) f) (s.bayOf c) f))) := by
  have hneed : (if form = 0 then 2 else if form = 1 then 3 else 4) = form + 2 := by split <;> [omega; split <;> omega]
  change execObjunmap q d a b s = _
  rw [execObjunmap, pword_course h, hq, hp, if_pos rfl, if_pos rfl, uniOf_course h]
  dsimp only
  rw [hf, hform, if_neg (by omega), if_neg (Nat.not_le.2 hin), frameBad_of_dropBad hbad, hbad, ite_self, hneed, skip_updIss h.2.1, skip_updIss h.2.1]
end
section
variable (hin : f < (s.bay (s.bayOf c)).fcnt) (hbad : dropBad s (s.bayOf c) f = none)
include hin hbad
theorem execObjunmap_refuses (hform : (x.u.rs b.toNat).toNat < 3) (hst : frameState s (s.bayOf c) f ≠ (x.u.rs b.toNat).toNat + 2) :
    exec (.objunmap q d a b) s = .next (uniOp s iss (·.ws d.toNat (objFail s (s.bayOf c) f 2))) := by
  rw [execObjunmap_inRange h hq hp hf hf22 rfl hform hin hbad, if_pos hst]
theorem execObjunmap_drains (hform : (x.u.rs b.toNat).toNat = 0) (hst : frameState s (s.bayOf c) f = 2) :
    exec (.objunmap q d a b) s = .next (pendIssue (setFrameState s (s.bayOf c) f 3) iss .unmapDrain (frameAccs s (s.bayOf c) f) f d) := by
  rw [execObjunmap_inRange h hq hp hf hf22 hform (by decide) hin hbad, if_neg (not_not.2 hst), if_pos rfl]
theorem execObjunmap_vacates (hform : (x.u.rs b.toNat).toNat = 1) (hst : frameState s (s.bayOf c) f = 3) :
    exec (.objunmap q d a b) s = .next (pendIssue s iss .unmapVacate (frameAccs s (s.bayOf c) f) f d) := by
  rw [execObjunmap_inRange h hq hp hf hf22 hform (by decide) hin hbad, if_neg (not_not.2 hst), if_neg (by decide), if_pos rfl]
theorem execObjunmap_drops (hform : (x.u.rs b.toNat).toNat = 2) (hst : frameState s (s.bayOf c) f = 4) : exec (.objunmap q d a b) s =
    .next (uniOp (dropFrame s (s.bayOf c) f) iss (·.ws d.toNat (objOk (dropFrame s (s.bayOf c) f) (s.bayOf c) f))) := by
  rw [execObjunmap_inRange h hq hp hf hf22 hform (by decide) hin hbad, if_neg (not_not.2 hst), if_neg (by decide), if_neg (by decide)]
end

/-- OBJSTAT writes its four registers. -/
theorem execObjstat_runs (hbad : frameBad s (s.bayOf c) f = none) : exec (.objstat q d a) s = .next (uniOp s iss (fun u =>
    (List.range 4).foldl (fun u k => u.ws (d.toNat + k)
      (if f < (s.bay (s.bayOf c)).fcnt then BitVec.ofNat 64 (s.readNat (frameAddr s (s.bayOf c) f + 8 * k) 8) else 0)) u)) := by
  change execObjstat q d a s = _
  rw [execObjstat, pword_course h, hq, hp, if_pos rfl, if_pos rfl, uniOf_course h]
  dsimp only
  rw [hf, if_neg (by omega), hbad]
  exact congrArg Host.Outcome.next (skip_updIss h.2.1 _)
end

/-! ## The steps that end OBJUNMAP's waits -/

section
variable {s : State} {c k : Nat} {x : Course} {p : Pend} (hx : s.course? c k = some x) (hone : OnlyWait x p) (hdone : accsDone s p.accs = true)
include hx hone hdone
theorem execObjunmapDrainReturn_runs (hkind : p.kind = .unmapDrain) :
    exec (.objunmapDrainReturn c k) s = .next (pendEnd s c k p (some (objOk s (s.bayOf c) p.frame))) := by
  change execObjunmapDrainReturn c k s = _
  rw [execObjunmapDrainReturn, ← hkind, pendReady_onlyWait hx hone, hdone, if_pos rfl]
theorem execObjunmapVacateStep_runs (hkind : p.kind = .unmapVacate) (hbad : frameBad s (s.bayOf c) p.frame = none)
    (hst : frameState s (s.bayOf c) p.frame = 3) : exec (.objunmapVacateStep c k) s =
      .next (pendEnd (setFrameState s (s.bayOf c) p.frame 4) c k p (some (objOk (setFrameState s (s.bayOf c) p.frame 4) (s.bayOf c) p.frame))) := by
  change execObjunmapVacateStep c k s = _
  rw [execObjunmapVacateStep, ← hkind, pendReady_onlyWait hx hone, hdone, if_pos rfl]
  dsimp only
  rw [hbad]
  dsimp only
  rw [if_pos hst]
end

/-! ## The obligation -/

/-- Settles O25: the probe and the free buckets by induction over the eight places of a name, then one lemma for each outcome of each word, whose tables
are followed from the read, over the old bucket's tombstone and the new bucket, to the frame's entry. -/
theorem objectWordResults : Obligations.ObjectWordResults := by
  unfold Obligations.ObjectWordResults
  refine ⟨?map, ?_⟩
  on_goal 2 =>
    intro res
    refine ⟨?unmap, ?drained, ?vacate, ?stat⟩
  case map =>
    intro q d a b s iss c k x s' v h hq hp hal hread y r name f revoked result fails mode mapped old free inserted quiet hbad
    have hskip := (skip_course ((opReadSec_ok hread).issues h) true).1
    have hrev : (∃ e ∈ ((skip s' iss true).bay y).revoked, nameKey e.name = nameKey name) ↔ revoked := by rw [hskip.bay]
    have hnone : probe s' y name = none → probe (skip s' iss true) y name = none := fun hnew => by rwa [hskip.probe]
    refine ⟨fun hr => ?revoked, fun hr g hg hg22 hst => ?mapped, fun hr hnew => ⟨fun hf => ?outOfRange, fun hf h0 h4 => ?inUse, fun hf hst =>
      ⟨fun hfull => ?full, fun ho hroom hapart hquiet => ?inserted⟩⟩, fun hr g hg hg22 hst hquiet => ?retaken, fun ho g => probe_hit ho name g⟩
    case revoked => exact execObjmap_fails h hq hp hal hread hbad (by omega) (objmapStep_revoked (hrev.2 hr))
    case mapped =>
      exact execObjmap_mapped h hq hp hal hread hbad hg22
        (objmapStep_mapped (mt hrev.1 hr) (by rwa [hskip.probe]) (by rwa [hskip.frameState]))
    case outOfRange =>
      exact execObjmap_fails h hq hp hal hread hbad (by omega) (objmapStep_outOfRange (mt hrev.1 hr) (hnone hnew) (by rwa [hskip.bay]))
    case inUse =>
      exact execObjmap_fails h hq hp hal hread hbad (by omega)
        (objmapStep_inUse (mt hrev.1 hr) (hnone hnew) (by rwa [hskip.bay]) (by rwa [hskip.frameState]) (by rwa [hskip.frameState]))
    case full =>
      refine execObjmap_fails h hq hp hal hread hbad (by omega)
        (objmapStep_full (mt hrev.1 hr) (hnone hnew) (by rwa [hskip.bay]) (by rwa [hskip.frameState]) (freeBucket_none fun m hm hfree => ?_))
      rw [BucketFree, bucketOf_of_bay (hskip.bay y), hskip.bucketVal] at hfree
      exact not_bucketFree (hfull m hm) hfree
    case inserted =>
      obtain ⟨u, hrun, htaken, hins⟩ := execObjmap_inserts h hq hp hal hread hbad hr hquiet hnew hf ho hapart hst hroom
      exact ⟨u, hrun, htaken.result, hins, htaken.entry.trans (requestVal_eq ..), htaken.reqs⟩
    case retaken =>
      obtain ⟨u, hrun, htaken⟩ := execObjmap_retakes h hq hp hal hread hbad hr hquiet hg hg22 hst
      exact ⟨u, hrun, htaken.result, trivial, htaken.entry.trans (requestVal_eq ..), htaken.reqs⟩
  case unmap =>
    intro q d a b s iss c k x h hq hp f form y fails hf22 hform
    have hgives : ∀ {r : W64}, exec (.objunmap q d a b) s = .next (uniOp s iss (·.ws d.toNat r)) →
        ∃ t : State, exec (.objunmap q d a b) s = .next t ∧ OnlyCourse s t c k ∧ CourseAdvanced s iss (x.u.ws d.toNat r) x t c k := fun {r} hrun =>
      ⟨_, hrun, uniOp_course h (·.ws d.toNat r)⟩
    refine ⟨fun hout => ?_, fun hin hbad => ⟨fun hst => ?_, fun h0 hst => ?_, fun h1 hst => ?_, fun h2 hst ho hapart => ?_⟩⟩
    · have hrun := hgives (execObjunmap_outOfRange h hq hp rfl hf22 rfl hform hout)
      rwa [objFail_eq _ _ _ (by omega), Nat.mod_eq_of_lt hf22, if_neg (Nat.not_lt.2 hout)] at hrun
    · have hrun := hgives (execObjunmap_refuses h hq hp rfl hf22 hin hbad hform hst)
      rwa [objFail_eq _ _ _ (by omega), Nat.mod_eq_of_lt hf22, if_pos hin] at hrun
    · have hrun := execObjunmap_drains (d := d) h hq hp rfl hf22 hin hbad h0 hst
      have hleaves := setFrameState_leaves s y f 3
      obtain ⟨honly, hwaits⟩ := pendIssue_issueWaits (hleaves.issues h) .unmapDrain (frameAccs s y f) f d
      exact ⟨_, hrun, (honly.frameState ..).trans (setFrameState_state s y f (by omega)), (honly.frameGen ..).trans (setFrameState_gen s y f (by omega)),
        hwaits.of_time hleaves.time, fun e he => (honly.bytes e).trans (readByte_setFrameState s y f 3 he)⟩
    · exact ⟨_, execObjunmap_vacates h hq hp rfl hf22 hin hbad h1 hst, pendIssue_issueWaits h .unmapVacate (frameAccs s y f) f d⟩
    · have hrun := execObjunmap_drops (d := d) h hq hp rfl hf22 hin hbad h2 hst
      rw [objOk_eq, Nat.mod_eq_of_lt hf22, dropFrame_gen ho hin hapart] at hrun
      have hleaves := dropFrame_leaves s y f
      obtain ⟨honly, z, hz, hafter⟩ := uniOp_course (hleaves.issues h) (·.ws d.toNat (res (frameGen s y f) f 0 0))
      refine ⟨_, fun i => ⟨fun hold => ?_, fun hother hi => ?_⟩, hrun, (honly.frameState ..).trans dropFrame_state,
        (honly.frameName ..).trans dropFrame_name, (honly.frameGen ..).trans (dropFrame_gen ho hin hapart), z, hz, hafter.of_time hleaves.time⟩
      · rw [honly.bucketVal, dropFrame_bucketVal hin hapart (OldBucket.lt hold)]
        exact bucketVal_oldDropped_old ho hold
      · rw [honly.bucketVal, dropFrame_bucketVal hin hapart hi]
        exact bucketVal_oldDropped_other ho hother
  case drained =>
    intro s core slot x p hx hkind hone hdone hin
    have hrun := execObjunmapDrainReturn_runs hx hone hdone hkind
    rw [objOk_eq] at hrun
    exact ⟨_, hrun, pendEnd_some p _ hx⟩
  case vacate =>
    intro s core slot x p hx hkind hone hdone hin y hbad hst
    have hgen := setFrameState_gen s y p.frame (st := 4) (by omega)
    have hrun := execObjunmapVacateStep_runs hx hone hdone hkind hbad hst
    rw [objOk_eq, hgen] at hrun
    obtain ⟨honly, hends⟩ := pendEnd_some p (res (frameGen s y p.frame) (p.frame % 2 ^ 22) 0 0) (((setFrameState_leaves s y p.frame 4).course core slot).trans hx)
    exact ⟨_, hrun, (honly.frameState ..).trans (setFrameState_state s y p.frame (by omega)), (honly.frameGen ..).trans hgen, hends,
      fun e he => (honly.bytes e).trans (readByte_setFrameState s y p.frame 4 he)⟩
  case stat =>
    intro q d a s iss c k x h hq hp hd hf22 hbad
    obtain ⟨honly, hadv⟩ := uniOp_course h (fun u => (List.range 4).foldl (fun u k => u.ws (d.toNat + k)
      (if (x.u.rs a.toNat).toNat < (s.bay (s.bayOf c)).fcnt then
        BitVec.ofNat 64 (s.readNat (frameAddr s (s.bayOf c) (x.u.rs a.toNat).toNat + 8 * k) 8) else 0)) u)
    refine ⟨_, _, execObjstat_runs h hq hp rfl hf22 hbad, honly, hadv, Uni.foldl_ws_q .., fun i hi => ?_, fun r hr => ?_⟩
    · rw [Uni.foldl_ws_rs, if_pos (by omega), Nat.add_sub_cancel_left]
      rfl
    · rw [Uni.foldl_ws_rs, if_neg (by omega)]

end Sys2Proof.Machine
end
